-- ==== Sys2Proof/Word.lean ====
section
/-! DEFINITION. The word types of the Parvia 9 and their plainest arithmetic (R6: bit 0 is least significant, memory is little-endian). -/

namespace Sys2Proof

/-- A 32-bit control token value, configuration word or register. -/
abbrev Word := BitVec 32

/-- A 64-bit value: addresses, queue entries, 64-bit system registers. -/
abbrev DWord := BitVec 64

/-- One byte of memory. -/
abbrev Byte := BitVec 8

/-- The 64-bit value whose low half is `lo` and whose high half is `hi` (R97, R220: low half first). -/
def joinWords (lo hi : Word) : DWord := hi ++ lo

/-- Bits [31:0] of a 64-bit value. -/
def lowWord (d : DWord) : Word := d.extractLsb' 0 32

/-- Bits [63:32] of a 64-bit value. -/
def highWord (d : DWord) : Word := d.extractLsb' 32 32

end Sys2Proof
end

