-- ==== Sys2Proof/Syntax.lean ====
section
/-! DEFINITION. The instructions and steps of the Parvia 9: one constructor per row of spec/opcode_table.json. The 179
instruction words take their fields from R27 and R35 to R40; the 77 steps without an encoding name the object they act on. -/

namespace Sys2Proof

/-- The field of an instruction that a consumer slot names: l, r, p or a (R17, R18). -/
inductive FieldSel where
  | l | r | p | a
  deriving DecidableEq, Repr

/-- A valid consumer slot: the target instruction's index in the block and its field (R18). -/
structure Target where
  field : FieldSel
  index : BitVec 6
  deriving DecidableEq, Repr

/-- A consumer slot; `none` is a slot with valid = 0 (R18). -/
abbrev Consumer := Option Target

/-- The format codes 0x0 to 0xD of R28. -/
inductive Fmt where
  | fp32 | bf16 | fp16 | e4m3 | e5m2 | e2m3 | e3m2 | e2m1 | x | int8 | int32 | uint8 | int4 | code4
  deriving DecidableEq, Repr

/-- The rounding codes of R29 and R63. -/
inductive Rnd where
  | rne | rtz | rdn | rup
  deriving DecidableEq, Repr

/-- The condition codes of R30. -/
inductive Cond where
  | eq | ne | lt | ge | ltu | geu | le | gt
  deriving DecidableEq, Repr

/-- The scopes of R31 and R293. -/
inductive Scope where
  | pe | cell | grp | region | die | dev | sys
  deriving DecidableEq, Repr

/-- The order codes of R31. -/
inductive Order where
  | rlx | acq | rel | ar
  deriving DecidableEq, Repr

/-- The operation codes of R32 (ATOM, and OWN without XCHG and CAS). -/
inductive AtomOp where
  | add | and | or | xor | min | max | minu | maxu | xchg | cas | fadd | fmin | fmax | incw
  deriving DecidableEq, Repr

/-- The 2-bit reduce operations of R32. -/
inductive RedOp where
  | add | min | max
  deriving DecidableEq, Repr

/-- The use hints of R33. -/
inductive Hint where
  | none | last | far
  deriving DecidableEq, Repr

/-- The paths of DRAIN (R38, R214). -/
inductive DrainPath where
  | localSpad | remoteSpad | global | host
  deriving DecidableEq, Repr

/-- The kinds of COLL (R39). -/
inductive CollKind where
  | allReduce | reduceScatter | allGather | broadcast | a2aBlock | a2aDrop
  deriving DecidableEq, Repr

/-- The file that BANKK, BANKO and BANKW name (R40). -/
inductive BankFile where
  | scalar | vector | spad
  deriving DecidableEq, Repr

/-- A soft error in storage (R334, R335). `storage` has the codes of R335: 0 configuration, 1 channel store, 2 scalar bank,
3 vector bank, 4 predicates, 5 accumulators, 6 weight registers; `slot` is the context slot of a configuration error. -/
structure SoftError where
  storage : Nat
  cell : Nat
  pe : Nat
  slot : Nat
  bank : Nat
  offset : Nat
  syndrome : BitVec 16
  correctable : Bool
  deriving DecidableEq, Repr

/-- A debug command of R371 and R373. -/
inductive DebugReq where
  | sysReg (cell : Nat) (n : BitVec 12)
  | counter (cell : Nat) (n : BitVec 8)
  | faultLog (ctx record : Nat)
  | scalar (cell : Nat) (g : BitVec 6)
  | vector (cell : Nat) (v : BitVec 5) (lane : BitVec 7)
  | predicate (cell : Nat) (k : BitVec 3)
  | accumulator (cell : Nat) (pe : BitVec 4) (acc : BitVec 2) (lane : BitVec 7)
  | channelStore (cell ctx ch slot : Nat)
  | physical (pa : Nat)
  deriving DecidableEq, Repr

/-- The instructions and steps: one constructor per row of the opcode table. -/
inductive Instr where
  | nop
  | mov (c1 : Consumer) (c0 : Consumer)
  | const (imm : BitVec 15) (c0 : Consumer)
  | shlor (imm : BitVec 15) (c0 : Consumer)
  | add (c1 : Consumer) (c0 : Consumer)
  | addi (imm : BitVec 15) (c0 : Consumer)
  | sub (c1 : Consumer) (c0 : Consumer)
  | neg (c1 : Consumer) (c0 : Consumer)
  | mul (c1 : Consumer) (c0 : Consumer)
  | mulh (c1 : Consumer) (c0 : Consumer)
  | mulhu (c1 : Consumer) (c0 : Consumer)
  | div (c1 : Consumer) (c0 : Consumer)
  | divu (c1 : Consumer) (c0 : Consumer)
  | rem (c1 : Consumer) (c0 : Consumer)
  | remu (c1 : Consumer) (c0 : Consumer)
  | muli (imm : BitVec 15) (c0 : Consumer)
  | and (c1 : Consumer) (c0 : Consumer)
  | andi (imm : BitVec 15) (c0 : Consumer)
  | or (c1 : Consumer) (c0 : Consumer)
  | ori (imm : BitVec 15) (c0 : Consumer)
  | xor (c1 : Consumer) (c0 : Consumer)
  | xori (imm : BitVec 15) (c0 : Consumer)
  | shl (c1 : Consumer) (c0 : Consumer)
  | shli (sh : BitVec 5) (c0 : Consumer)
  | shr (c1 : Consumer) (c0 : Consumer)
  | shri (sh : BitVec 5) (c0 : Consumer)
  | sar (c1 : Consumer) (c0 : Consumer)
  | sari (sh : BitVec 5) (c0 : Consumer)
  | clz (c1 : Consumer) (c0 : Consumer)
  | popc (c1 : Consumer) (c0 : Consumer)
  | brev (c1 : Consumer) (c0 : Consumer)
  | bfx (sx : Bool) (wm1 : BitVec 5) (low : BitVec 5) (c0 : Consumer)
  | min (c1 : Consumer) (c0 : Consumer)
  | max (c1 : Consumer) (c0 : Consumer)
  | minu (c1 : Consumer) (c0 : Consumer)
  | maxu (c1 : Consumer) (c0 : Consumer)
  | cmp (k : Cond) (c1 : Consumer) (c0 : Consumer)
  | cmpi (k : Cond) (imm : BitVec 12) (c0 : Consumer)
  | sel (c1 : Consumer) (c0 : Consumer)
  | test (c1 : Consumer) (c0 : Consumer)
  | steer (c1 : Consumer) (c0 : Consumer)
  | merge (c1 : Consumer) (c0 : Consumer)
  | gate (t : Bool) (c1 : Consumer) (c0 : Consumer)
  | pand (c1 : Consumer) (c0 : Consumer)
  | por (c1 : Consumer) (c0 : Consumer)
  | pnot (c1 : Consumer) (c0 : Consumer)
  | pxor (c1 : Consumer) (c0 : Consumer)
  | drop
  | cnt (n : BitVec 15) (c0 : Consumer)
  | cntx (c1 : Consumer) (c0 : Consumer)
  | accum (c1 : Consumer) (c0 : Consumer)
  | fireno (c1 : Consumer) (c0 : Consumer)
  | cellid (c1 : Consumer) (c0 : Consumer)
  | laneid (c1 : Consumer) (c0 : Consumer)
  | rd (g : BitVec 6) (h : Hint) (c0 : Consumer)
  | wr (g : BitVec 6) (c0 : Consumer)
  | rdp (k : BitVec 3) (h : Hint) (c0 : Consumer)
  | wrp (k : BitVec 3) (c0 : Consumer)
  | dadd (f : Fmt) (rm : Rnd) (c1 : Consumer) (c0 : Consumer)
  | dsub (f : Fmt) (rm : Rnd) (c1 : Consumer) (c0 : Consumer)
  | dmul (f : Fmt) (rm : Rnd) (c1 : Consumer) (c0 : Consumer)
  | dfma (f : Fmt) (rm : Rnd) (c1 : Consumer) (c0 : Consumer)
  | dfms (f : Fmt) (rm : Rnd) (c1 : Consumer) (c0 : Consumer)
  | dmac (f : Fmt) (acc : BitVec 2)
  | ddiv (f : Fmt) (rm : Rnd) (c1 : Consumer) (c0 : Consumer)
  | dsqrt (f : Fmt) (rm : Rnd) (c1 : Consumer) (c0 : Consumer)
  | drsqrt (f : Fmt) (rm : Rnd) (c1 : Consumer) (c0 : Consumer)
  | drcp (f : Fmt) (rm : Rnd) (c1 : Consumer) (c0 : Consumer)
  | dexp2 (f : Fmt) (rm : Rnd) (c1 : Consumer) (c0 : Consumer)
  | dlog2 (f : Fmt) (rm : Rnd) (c1 : Consumer) (c0 : Consumer)
  | dscale (f : Fmt) (rm : Rnd) (c1 : Consumer) (c0 : Consumer)
  | dneg (f : Fmt) (rm : Rnd) (c1 : Consumer) (c0 : Consumer)
  | dabs (f : Fmt) (rm : Rnd) (c1 : Consumer) (c0 : Consumer)
  | dcvt (f : Fmt) (rm : Rnd) (c1 : Consumer) (c0 : Consumer)
  | dmin (f : Fmt) (rm : Rnd) (c1 : Consumer) (c0 : Consumer)
  | dmax (f : Fmt) (rm : Rnd) (c1 : Consumer) (c0 : Consumer)
  | drelu (f : Fmt) (rm : Rnd) (c1 : Consumer) (c0 : Consumer)
  | dclamp (f : Fmt) (rm : Rnd) (c1 : Consumer) (c0 : Consumer)
  | dthr (f : Fmt) (rm : Rnd) (c1 : Consumer) (c0 : Consumer)
  | dcmp (k : Cond) (c1 : Consumer) (c0 : Consumer)
  | dsel (f : Fmt) (rm : Rnd) (c1 : Consumer) (c0 : Consumer)
  | dkill (f : Fmt) (rm : Rnd) (c1 : Consumer) (c0 : Consumer)
  | dtrunc (f : Fmt) (rm : Rnd) (c1 : Consumer) (c0 : Consumer)
  | dnorm (f : Fmt) (rm : Rnd) (c1 : Consumer) (c0 : Consumer)
  | drep (f : Fmt) (c1 : Consumer) (c0 : Consumer)
  | dxtr (f : Fmt) (rm : Rnd) (c1 : Consumer) (c0 : Consumer)
  | dlane (f : Fmt) (rm : Rnd) (c1 : Consumer) (c0 : Consumer)
  | dshuf (f : Fmt) (rm : Rnd) (c1 : Consumer) (c0 : Consumer)
  | drot (f : Fmt) (rm : Rnd) (c1 : Consumer) (c0 : Consumer)
  | dred (f : Fmt) (rm : Rnd) (c1 : Consumer) (c0 : Consumer)
  | dbcast (f : Fmt) (rm : Rnd) (c1 : Consumer) (c0 : Consumer)
  | dacc (acc : BitVec 2)
  | daccrd (f : Fmt) (rm : Rnd) (acc : BitVec 2) (c0 : Consumer)
  | daccz (acc : BitVec 2)
  | dwst (f : Fmt)
  | drdv (v : BitVec 5) (h : Hint) (f : Fmt) (c0 : Consumer)
  | dwrv (v : BitVec 5) (f : Fmt) (rm : Rnd) (c0 : Consumer)
  | recv (ch : BitVec 3) (n : BitVec 6) (off : BitVec 6) (c0 : Consumer)
  | peek (ch : BitVec 3) (n : BitVec 6) (off : BitVec 6) (c0 : Consumer)
  | send (ch : BitVec 3) (n : BitVec 6)
  | advc (ch : BitVec 3) (n : BitVec 6)
  | advp (ch : BitVec 3) (n : BitVec 6)
  | chst (ch : BitVec 3) (out : Bool) (c0 : Consumer)
  | agb (p : BitVec 6)
  | agl (p : BitVec 6) (lv : BitVec 3)
  | agfmt (p : BitVec 6) (f : Fmt)
  | aggo (p : BitVec 6) (c0 : Consumer)
  | aggat (p : BitVec 6) (f : Fmt) (c0 : Consumer)
  | agsct (p : BitVec 6) (f : Fmt) (c0 : Consumer)
  | agctr (p : BitVec 6) (lv : BitVec 3) (c0 : Consumer)
  | retry (p : BitVec 6) (c0 : Consumer)
  | lds (p : BitVec 6) (h : Hint) (f : Fmt) (c0 : Consumer)
  | sts (p : BitVec 6) (f : Fmt) (c0 : Consumer)
  | ldv (p : BitVec 6) (h : Hint) (f : Fmt) (c0 : Consumer)
  | stv (p : BitVec 6) (f : Fmt) (c0 : Consumer)
  | reclaim (p : BitVec 6) (c0 : Consumer)
  | pref (p : BitVec 6) (h : Hint) (depth : BitVec 6)
  | drain (path : DrainPath) (c0 : Consumer)
  | win (p : BitVec 6) (w : BitVec 3) (c0 : Consumer)
  | copy (p : BitVec 6) (h : Hint) (c0 : Consumer)
  | copyr (p : BitVec 6) (h : Hint) (f : Fmt) (op : RedOp) (c0 : Consumer)
  | copyc (p : BitVec 6) (h : Hint) (s : BitVec 6) (c0 : Consumer)
  | cplw (vis : Bool) (c0 : Consumer)
  | atom (p : BitVec 6) (sc : Scope) (o : Order) (op : AtomOp) (c0 : Consumer)
  | lda (p : BitVec 6) (sc : Scope) (acq : Bool) (c0 : Consumer)
  | stl (p : BitVec 6) (sc : Scope) (rel : Bool) (c0 : Consumer)
  | fence (sc : Scope) (c0 : Consumer)
  | own (p : BitVec 6) (op : AtomOp)
  | upd (p : BitVec 6)
  | arrive (sc : Scope) (rel : Bool) (c0 : Consumer)
  | waitg (sc : Scope) (acq : Bool) (c0 : Consumer)
  | bar (sc : Scope) (ar : Bool) (c0 : Consumer)
  | quiet (sc : Scope) (c0 : Consumer)
  | lift
  | seamoPush (p : BitVec 6) (rel : Bool) (c0 : Consumer)
  | seamoPop (p : BitVec 6) (acq : Bool) (c0 : Consumer)
  | seamoStatus (p : BitVec 6) (c0 : Consumer)
  | coll (f : Fmt) (op : RedOp) (sc : Scope) (kind : CollKind) (c0 : Consumer)
  | wqadd (p : BitVec 6) (sc : Scope) (rel : Bool) (c0 : Consumer)
  | wqtake (p : BitVec 6) (sc : Scope) (acq : Bool) (c0 : Consumer)
  | wqclose (p : BitVec 6) (sc : Scope) (rel : Bool) (c0 : Consumer)
  | cmdMatrix (rel : Bool) (c0 : Consumer)
  | cmdBulk (rel : Bool) (c0 : Consumer)
  | cmdCollective (rel : Bool) (c0 : Consumer)
  | cmdLift (rel : Bool) (c0 : Consumer)
  | cmdChild (rel : Bool) (c0 : Consumer)
  | cmdwait (sc : Scope) (acq : Bool) (c0 : Consumer)
  | egress (p : BitVec 6) (rel : Bool) (c0 : Consumer)
  | ingress (p : BitVec 6) (acq : Bool) (c0 : Consumer)
  | syscfg (p : BitVec 6) (f : Fmt) (c0 : Consumer)
  | mma (p : BitVec 6) (acc : BitVec 2) (f : Fmt) (rm : Rnd) (c0 : Consumer)
  | mmasp (p : BitVec 6) (acc : BitVec 2) (f : Fmt) (rm : Rnd) (c0 : Consumer)
  | mmarow (p : BitVec 6) (acc : BitVec 2) (f : Fmt) (rm : Rnd) (c0 : Consumer)
  | wedge (c0 : Consumer)
  | prune (p : BitVec 6) (f : Fmt) (t : Bool) (c0 : Consumer)
  | nmhdr (p : BitVec 6) (c0 : Consumer)
  | nmchk (p : BitVec 6) (c0 : Consumer)
  | nmest (p : BitVec 6) (c0 : Consumer)
  | scana (p : BitVec 6) (tree : Bool) (c0 : Consumer)
  | scano (p : BitVec 6) (tree : Bool) (c0 : Consumer)
  | isld (p : BitVec 6) (cam : BitVec 6) (c0 : Consumer)
  | isprb (p : BitVec 6) (cam : BitVec 6) (c0 : Consumer)
  | union (p : BitVec 6) (c0 : Consumer)
  | mergek (p : BitVec 6) (f : Fmt) (c0 : Consumer)
  | fibh (p : BitVec 6) (c0 : Consumer)
  | trap (code : BitVec 8)
  | halt
  | srd (n : BitVec 12) (c0 : Consumer)
  | swr (n : BitVec 12) (c0 : Consumer)
  | ptst (c1 : Consumer) (c0 : Consumer)
  | pclr (c1 : Consumer) (c0 : Consumer)
  | excrd (c1 : Consumer) (c0 : Consumer)
  | bankk (g : BitVec 6) (file : BankFile) (c0 : Consumer)
  | banko (g : BitVec 6) (file : BankFile) (c0 : Consumer)
  | bankw (g : BitVec 6) (file : BankFile) (c0 : Consumer)
  | tlbinv (sys : Bool) (c0 : Consumer)
  | perf (n : BitVec 8) (c0 : Consumer)
  | cyc (c1 : Consumer) (c0 : Consumer)
  | fend
  | launchToken (v : Word)
  | hostRegisterWrite (page off : Nat) (v : DWord)
  | ingToken (port : BitVec 6) (v : Word)
  | egDataRead (port : BitVec 6)
  | ownerWrite (port : BitVec 6) (v : Word)
  | rcvGo
  | hostMemoryRead (off n : Nat)
  | hostMemoryWrite (off : Nat) (bytes : List Byte)
  | launchDispatch
  | regionGrant (k : Nat)
  | seedInject (rid : Nat)
  | preload (rid lift var : Nat)
  | firingStart (cell ctx : Nat)
  | firingEnd (cell ctx : Nat)
  | tokenArrive (k : Nat)
  | divideComplete (cell pe : Nat)
  | ageCounterExpiry (cell pe slot : Nat)
  | benchClockStop (bench : Nat)
  | bankIdleTimeout (cell bank : Nat)
  | bankWakeDone (cell bank : Nat)
  | spadBankIdleTimeout (bank : Nat)
  | spadBankWakeDone (bank : Nat)
  | spallArrive (k : Nat)
  | memoryReply (cell port k : Nat)
  | pageWalk (cell port k : Nat)
  | atomicUnitApply (cell port k : Nat)
  | copyrLineUpdate (cell slot : Nat)
  | copySrcComplete (cell slot : Nat)
  | copyVisComplete (cell slot : Nat)
  | commandIssue (slot : Nat)
  | commandRetire (slot : Nat)
  | matrixOpStart (rid sr : Nat)
  | matrixOpComplete (rid sr : Nat)
  | collComplete (k : Nat)
  | seamRemoteEntry (ctx seam : Nat) (entry : DWord) (marks : Option Word × Option Word)
  | phaseNotify (rid gid cell : Nat)
  | updApply (rid : Nat)
  | workQueueApply (q : Nat)
  | drainedReport (rid : Nat)
  | liftWedge (rid : Nat)
  | contextRetire (ctx : Nat)
  | hangLimitExpiry (rid : Nat)
  | faultHoldExpiry (rid : Nat)
  | switchGraceExpiry (rid : Nat)
  | tswAtReached
  | tswCtlWrite (v : Word)
  | resumeWrite (v : Word)
  | fltCauseClear (cell : Nat)
  | switchPoint (rid : Nat)
  | park (rid : Nat)
  | regionResume (k : Nat)
  | softError (e : SoftError)
  | deviceStart (d2d dram fuse : Bool)
  | firmwareReady
  | readyTimeout
  | recoveryTimeout
  | droopTrip (bench : Nat)
  | droopRelease (bench : Nat)
  | currentCeilingTrip
  | currentCeilingRelease
  | thermalTrip
  | thermalRelease
  | watchdogExpiry
  | budgetChange (watts : Nat)
  | modCap (v : BitVec 16)
  | dbgReq (v : Word)
  | sidebandRegisterWrite (reg index : Nat) (v : Word)
  | firmwareUpdate (image : List Byte)
  | attestationQuote (nonce : List Byte)
  | returnCommand (cmd : List Byte)
  | debugRead (q : DebugReq)
  | sidebandWake
  | i3cAddressTimeout
  | firmwareFailureReport
  | packageSleepEntry
  | supplyLoss
  | tlbinvRemoteBroadcast (ctl : Word) (va : DWord)
  deriving DecidableEq, Repr

end Sys2Proof
end

