-- ==== Sys2Proof/WellFormed.lean ====
section
/-! DEFINITION. Which instructions are well formed: the admitted values of each field by R28 to R33 and the rows of R35 to R40. -/

namespace Sys2Proof

/-- The stream-output role of R28. -/
def Fmt.stream : Fmt → Bool
  | .int4 | .code4 => false
  | .fp32 | .bf16 | .fp16 | .e4m3 | .e5m2 | .e2m3 | .e3m2 | .e2m1 | .x | .int8 | .int32 | .uint8 => true

/-- The word role of R28. -/
def Fmt.word : Fmt → Bool
  | .x | .int4 | .code4 => false
  | .fp32 | .bf16 | .fp16 | .e4m3 | .e5m2 | .e2m3 | .e3m2 | .e2m1 | .int8 | .int32 | .uint8 => true

/-- The memory-element role of R28. -/
def Fmt.memory : Fmt → Bool
  | .x => false
  | .fp32 | .bf16 | .fp16 | .e4m3 | .e5m2 | .e2m3 | .e3m2 | .e2m1 | .int8 | .int32 | .uint8 | .int4 | .code4 => true

/-- The matrix-operand role of R28. -/
def Fmt.matrix : Fmt → Bool
  | .x | .int32 | .uint8 | .int4 | .code4 => false
  | .fp32 | .bf16 | .fp16 | .e4m3 | .e5m2 | .e2m3 | .e3m2 | .e2m1 | .int8 => true

/-- The element formats of COPYR (R38, R231). -/
def Fmt.reduce : Fmt → Bool
  | .fp32 | .bf16 | .fp16 | .int32 => true
  | .e4m3 | .e5m2 | .e2m3 | .e3m2 | .e2m1 | .x | .int8 | .uint8 | .int4 | .code4 => false

/-- The element formats of COLL (R321). -/
def Fmt.collective : Fmt → Bool
  | .fp32 | .bf16 | .fp16 | .e4m3 | .e5m2 | .int8 | .int32 | .uint8 => true
  | .e2m3 | .e3m2 | .e2m1 | .x | .int4 | .code4 => false

/-- The conditions that DCMP admits (R30). -/
def Cond.dcmp : Cond → Bool
  | .ltu | .geu => false
  | .eq | .ne | .lt | .ge | .le | .gt => true

/-- The operations that OWN admits (R32). -/
def AtomOp.own : AtomOp → Bool
  | .xchg | .cas => false
  | .add | .and | .or | .xor | .min | .max | .minu | .maxu | .fadd | .fmin | .fmax | .incw => true

/-- The scopes of ARRIVE, WAITG and BAR: 0b010 to 0b110 (R39). -/
def Scope.group : Scope → Bool
  | .pe | .cell => false
  | .grp | .region | .die | .dev | .sys => true

/-- The scopes of COLL: 0b010, 0b101, 0b110 (R39). -/
def Scope.collective : Scope → Bool
  | .grp | .dev | .sys => true
  | .pe | .cell | .region | .die => false

/-- The kinds whose reduce op may differ from 0b00 and whose formats R321 narrows. -/
def CollKind.reduces : CollKind → Bool
  | .allReduce | .reduceScatter => true
  | .allGather | .broadcast | .a2aBlock | .a2aDrop => false

/-- COLL's format, op, scope and kind together (R39, R321). -/
def collOk (f : Fmt) (op : RedOp) (sc : Scope) (kind : CollKind) : Bool :=
  sc.collective && (if kind.reduces then f.reduce else f.collective && (op == .add))

/-- The selectors of COPYC that exist (R283). -/
def convSel (s : Nat) : Bool := s ≤ 4 || (0x10 ≤ s && s ≤ 0x14) || s == 0x20 || s == 0x21

/-- The numbers of the system-register map (R346). -/
def sysRegPresent (n : Nat) : Bool :=
  n ≤ 5 || (0x10 ≤ n && n ≤ 0x14) || (0x18 ≤ n && n ≤ 0x1B) || (0x20 ≤ n && n ≤ 0x25) ||
    n == 0x30 || n == 0x31 || (0x38 ≤ n && n ≤ 0x3D)

/-- REG of BANKK, BANKO and BANKW by file (R40): 0 to 63, 0 to 31, and 0 under .SPAD. -/
def bankReg (file : BankFile) (g : BitVec 6) : Bool :=
  match file with
  | .scalar => true
  | .vector => g.toNat < 32
  | .spad => g.toNat == 0

/-- The field values that the row of each opcode admits (R44). The steps without an encoding have no such limits. -/
def Instr.wellFormed (i : Instr) : Bool :=
  match i with
  | .nop => true
  | .mov _ _ => true
  | .const _ _ => true
  | .shlor _ _ => true
  | .add _ _ => true
  | .addi _ _ => true
  | .sub _ _ => true
  | .neg _ _ => true
  | .mul _ _ => true
  | .mulh _ _ => true
  | .mulhu _ _ => true
  | .div _ _ => true
  | .divu _ _ => true
  | .rem _ _ => true
  | .remu _ _ => true
  | .muli _ _ => true
  | .and _ _ => true
  | .andi _ _ => true
  | .or _ _ => true
  | .ori _ _ => true
  | .xor _ _ => true
  | .xori _ _ => true
  | .shl _ _ => true
  | .shli _ _ => true
  | .shr _ _ => true
  | .shri _ _ => true
  | .sar _ _ => true
  | .sari _ _ => true
  | .clz _ _ => true
  | .popc _ _ => true
  | .brev _ _ => true
  | .bfx _ _ _ _ => true
  | .min _ _ => true
  | .max _ _ => true
  | .minu _ _ => true
  | .maxu _ _ => true
  | .cmp _ _ _ => true
  | .cmpi _ _ _ => true
  | .sel _ _ => true
  | .test _ _ => true
  | .steer _ _ => true
  | .merge _ _ => true
  | .gate _ _ _ => true
  | .pand _ _ => true
  | .por _ _ => true
  | .pnot _ _ => true
  | .pxor _ _ => true
  | .drop => true
  | .cnt n _ => decide (1 ≤ n.toNat)
  | .cntx _ _ => true
  | .accum _ _ => true
  | .fireno _ _ => true
  | .cellid _ _ => true
  | .laneid _ _ => true
  | .rd _ _ _ => true
  | .wr _ _ => true
  | .rdp _ _ _ => true
  | .wrp _ _ => true
  | .dadd f _ _ _ => f.stream
  | .dsub f _ _ _ => f.stream
  | .dmul f _ _ _ => f.stream
  | .dfma f _ _ _ => f.stream
  | .dfms f _ _ _ => f.stream
  | .dmac f _ => f.matrix
  | .ddiv f _ _ _ => f.stream
  | .dsqrt f _ _ _ => f.stream
  | .drsqrt f _ _ _ => f.stream
  | .drcp f _ _ _ => f.stream
  | .dexp2 f _ _ _ => f.stream
  | .dlog2 f _ _ _ => f.stream
  | .dscale f _ _ _ => f.stream
  | .dneg f _ _ _ => f.stream
  | .dabs f _ _ _ => f.stream
  | .dcvt f _ _ _ => f.stream
  | .dmin f _ _ _ => f.stream
  | .dmax f _ _ _ => f.stream
  | .drelu f _ _ _ => f.stream
  | .dclamp f _ _ _ => f.stream
  | .dthr f _ _ _ => f.stream
  | .dcmp k _ _ => k.dcmp
  | .dsel f _ _ _ => f.stream
  | .dkill f _ _ _ => f.stream
  | .dtrunc f _ _ _ => f.stream
  | .dnorm f _ _ _ => f.stream
  | .drep f _ _ => f.word
  | .dxtr f _ _ _ => f.word
  | .dlane f _ _ _ => f.stream
  | .dshuf f _ _ _ => f.stream
  | .drot f _ _ _ => f.stream
  | .dred f _ _ _ => f.stream
  | .dbcast f _ _ _ => f.stream
  | .dacc _ => true
  | .daccrd f _ _ _ => f.stream
  | .daccz _ => true
  | .dwst f => f.matrix
  | .drdv _ _ f _ => f.word
  | .dwrv _ f _ _ => f.word
  | .recv _ n _ _ => decide (1 ≤ n.toNat)
  | .peek _ n _ _ => decide (1 ≤ n.toNat)
  | .send _ n => decide (1 ≤ n.toNat)
  | .advc _ n => decide (1 ≤ n.toNat)
  | .advp _ n => decide (1 ≤ n.toNat)
  | .chst _ _ _ => true
  | .agb _ => true
  | .agl _ lv => decide (lv.toNat ≤ 5)
  | .agfmt _ f => f.memory
  | .aggo _ _ => true
  | .aggat _ f _ => f.memory
  | .agsct _ f _ => f.memory
  | .agctr _ lv _ => decide (lv.toNat ≤ 5)
  | .retry _ _ => true
  | .lds _ _ f _ => f.memory
  | .sts _ f _ => f.memory
  | .ldv _ _ f _ => f.memory
  | .stv _ f _ => f.memory
  | .reclaim _ _ => true
  | .pref _ _ depth => decide (1 ≤ depth.toNat)
  | .drain _ _ => true
  | .win _ _ _ => true
  | .copy _ _ _ => true
  | .copyr _ _ f _ _ => f.reduce
  | .copyc _ _ s _ => convSel s.toNat
  | .cplw _ _ => true
  | .atom _ _ _ _ _ => true
  | .lda _ _ _ _ => true
  | .stl _ _ _ _ => true
  | .fence _ _ => true
  | .own _ op => op.own
  | .upd _ => true
  | .arrive sc _ _ => sc.group
  | .waitg sc _ _ => sc.group
  | .bar sc _ _ => sc.group
  | .quiet _ _ => true
  | .lift => true
  | .seamoPush _ _ _ => true
  | .seamoPop _ _ _ => true
  | .seamoStatus _ _ => true
  | .coll f op sc kind _ => collOk f op sc kind
  | .wqadd _ _ _ _ => true
  | .wqtake _ _ _ _ => true
  | .wqclose _ _ _ _ => true
  | .cmdMatrix _ _ => true
  | .cmdBulk _ _ => true
  | .cmdCollective _ _ => true
  | .cmdLift _ _ => true
  | .cmdChild _ _ => true
  | .cmdwait _ _ _ => true
  | .egress _ _ _ => true
  | .ingress _ _ _ => true
  | .syscfg _ f _ => f.matrix
  | .mma _ _ f _ _ => f.word
  | .mmasp _ _ f _ _ => f.word
  | .mmarow _ _ f _ _ => f.word
  | .wedge _ => true
  | .prune _ f _ _ => f.matrix
  | .nmhdr _ _ => true
  | .nmchk _ _ => true
  | .nmest _ _ => true
  | .scana _ _ _ => true
  | .scano _ _ _ => true
  | .isld _ _ _ => true
  | .isprb _ _ _ => true
  | .union _ _ => true
  | .mergek _ f _ => f.word
  | .fibh _ _ => true
  | .trap _ => true
  | .halt => true
  | .srd n _ => sysRegPresent n.toNat
  | .swr n _ => sysRegPresent n.toNat
  | .ptst _ _ => true
  | .pclr _ _ => true
  | .excrd _ _ => true
  | .bankk g file _ => bankReg file g
  | .banko g file _ => bankReg file g
  | .bankw g file _ => bankReg file g
  | .tlbinv _ _ => true
  | .perf _ _ => true
  | .cyc _ _ => true
  | .fend => true
  | .launchToken _ => true
  | .hostRegisterWrite _ _ _ => true
  | .ingToken _ _ => true
  | .egDataRead _ => true
  | .ownerWrite _ _ => true
  | .rcvGo => true
  | .hostMemoryRead _ _ => true
  | .hostMemoryWrite _ _ => true
  | .launchDispatch => true
  | .regionGrant _ => true
  | .seedInject _ => true
  | .preload _ _ _ => true
  | .firingStart _ _ => true
  | .firingEnd _ _ => true
  | .tokenArrive _ => true
  | .divideComplete _ _ => true
  | .ageCounterExpiry _ _ _ => true
  | .benchClockStop _ => true
  | .bankIdleTimeout _ _ => true
  | .bankWakeDone _ _ => true
  | .spadBankIdleTimeout _ => true
  | .spadBankWakeDone _ => true
  | .spallArrive _ => true
  | .memoryReply _ _ _ => true
  | .pageWalk _ _ _ => true
  | .atomicUnitApply _ _ _ => true
  | .copyrLineUpdate _ _ => true
  | .copySrcComplete _ _ => true
  | .copyVisComplete _ _ => true
  | .commandIssue _ => true
  | .commandRetire _ => true
  | .matrixOpStart _ _ => true
  | .matrixOpComplete _ _ => true
  | .collComplete _ => true
  | .seamRemoteEntry _ _ _ _ => true
  | .phaseNotify _ _ _ => true
  | .updApply _ => true
  | .workQueueApply _ => true
  | .drainedReport _ => true
  | .liftWedge _ => true
  | .contextRetire _ => true
  | .hangLimitExpiry _ => true
  | .faultHoldExpiry _ => true
  | .switchGraceExpiry _ => true
  | .tswAtReached => true
  | .tswCtlWrite _ => true
  | .resumeWrite _ => true
  | .fltCauseClear _ => true
  | .switchPoint _ => true
  | .park _ => true
  | .regionResume _ => true
  | .softError _ => true
  | .deviceStart _ _ _ => true
  | .firmwareReady => true
  | .readyTimeout => true
  | .recoveryTimeout => true
  | .droopTrip _ => true
  | .droopRelease _ => true
  | .currentCeilingTrip => true
  | .currentCeilingRelease => true
  | .thermalTrip => true
  | .thermalRelease => true
  | .watchdogExpiry => true
  | .budgetChange _ => true
  | .modCap _ => true
  | .dbgReq _ => true
  | .sidebandRegisterWrite _ _ _ => true
  | .firmwareUpdate _ => true
  | .attestationQuote _ => true
  | .returnCommand _ => true
  | .debugRead _ => true
  | .sidebandWake => true
  | .i3cAddressTimeout => true
  | .firmwareFailureReport => true
  | .packageSleepEntry => true
  | .supplyLoss => true
  | .tlbinvRemoteBroadcast _ _ => true

end Sys2Proof
end

