-- ==== Sys2Proof/Decode.lean ====
section
/-! DEFINITION. The decoder of R27 to R43, total on any word and rejecting by the loader step that R23 names, and the encoder
written from the same tables. A word is read as four numbers: opcode [31:24], [23:18], [17:9] and [8:0]. -/

namespace Sys2Proof

/-- Why a word is rejected: reserved opcode (step 8, R41), reserved field value (step 9, R44), bad consumer slot (step 11, R18, R34). -/
inductive Reject where
  | opcode | field | consumer
  deriving DecidableEq, Repr

/-- Bits [lo+w-1:lo] of a number. -/
def bits (n lo w : Nat) : Nat := n / 2 ^ lo % 2 ^ w

/-- IMM15, bits [23:9] of a word, from its two parts (R27). -/
def imm15 (hi mid : Nat) : Nat := hi * 512 + mid

/-- A check of the loader. -/
def need (b : Bool) (r : Reject) : Except Reject Unit := if b then .ok () else .error r

/-- A field whose code must be an admitted one (R44). -/
def fieldOf {α : Type} (o : Option α) : Except Reject α :=
  match o with
  | some a => .ok a
  | none => .error .field

/-- The code of each FieldSel (R18). -/
def FieldSel.code : FieldSel → Nat
  | .l => 0
  | .r => 1
  | .p => 2
  | .a => 3

/-- The FieldSel of a 2-bit code (R18). -/
def FieldSel.ofCode (n : Nat) : FieldSel :=
  match n with
  | 0 => .l
  | 1 => .r
  | 2 => .p
  | _ => .a

/-- The code of each Fmt (R28). -/
def Fmt.code : Fmt → Nat
  | .fp32 => 0
  | .bf16 => 1
  | .fp16 => 2
  | .e4m3 => 3
  | .e5m2 => 4
  | .e2m3 => 5
  | .e3m2 => 6
  | .e2m1 => 7
  | .x => 8
  | .int8 => 9
  | .int32 => 10
  | .uint8 => 11
  | .int4 => 12
  | .code4 => 13

/-- The Fmt of a 4-bit code, where one is admitted (R28). -/
def Fmt.ofCode (n : Nat) : Option Fmt :=
  match n with
  | 0 => some .fp32
  | 1 => some .bf16
  | 2 => some .fp16
  | 3 => some .e4m3
  | 4 => some .e5m2
  | 5 => some .e2m3
  | 6 => some .e3m2
  | 7 => some .e2m1
  | 8 => some .x
  | 9 => some .int8
  | 10 => some .int32
  | 11 => some .uint8
  | 12 => some .int4
  | 13 => some .code4
  | _ => Option.none

/-- The code of each Rnd (R29). -/
def Rnd.code : Rnd → Nat
  | .rne => 0
  | .rtz => 1
  | .rdn => 2
  | .rup => 3

/-- The Rnd of a 2-bit code (R29). -/
def Rnd.ofCode (n : Nat) : Rnd :=
  match n with
  | 0 => .rne
  | 1 => .rtz
  | 2 => .rdn
  | _ => .rup

/-- The code of each Cond (R30). -/
def Cond.code : Cond → Nat
  | .eq => 0
  | .ne => 1
  | .lt => 2
  | .ge => 3
  | .ltu => 4
  | .geu => 5
  | .le => 6
  | .gt => 7

/-- The Cond of a 3-bit code (R30). -/
def Cond.ofCode (n : Nat) : Cond :=
  match n with
  | 0 => .eq
  | 1 => .ne
  | 2 => .lt
  | 3 => .ge
  | 4 => .ltu
  | 5 => .geu
  | 6 => .le
  | _ => .gt

/-- The code of each Scope (R31). -/
def Scope.code : Scope → Nat
  | .pe => 0
  | .cell => 1
  | .grp => 2
  | .region => 3
  | .die => 4
  | .dev => 5
  | .sys => 6

/-- The Scope of a 3-bit code, where one is admitted (R31). -/
def Scope.ofCode (n : Nat) : Option Scope :=
  match n with
  | 0 => some .pe
  | 1 => some .cell
  | 2 => some .grp
  | 3 => some .region
  | 4 => some .die
  | 5 => some .dev
  | 6 => some .sys
  | _ => Option.none

/-- The code of each Order (R31). -/
def Order.code : Order → Nat
  | .rlx => 0
  | .acq => 1
  | .rel => 2
  | .ar => 3

/-- The Order of a 2-bit code (R31). -/
def Order.ofCode (n : Nat) : Order :=
  match n with
  | 0 => .rlx
  | 1 => .acq
  | 2 => .rel
  | _ => .ar

/-- The code of each AtomOp (R32). -/
def AtomOp.code : AtomOp → Nat
  | .add => 0
  | .and => 1
  | .or => 2
  | .xor => 3
  | .min => 4
  | .max => 5
  | .minu => 6
  | .maxu => 7
  | .xchg => 8
  | .cas => 9
  | .fadd => 10
  | .fmin => 11
  | .fmax => 12
  | .incw => 13

/-- The AtomOp of a 4-bit code, where one is admitted (R32). -/
def AtomOp.ofCode (n : Nat) : Option AtomOp :=
  match n with
  | 0 => some .add
  | 1 => some .and
  | 2 => some .or
  | 3 => some .xor
  | 4 => some .min
  | 5 => some .max
  | 6 => some .minu
  | 7 => some .maxu
  | 8 => some .xchg
  | 9 => some .cas
  | 10 => some .fadd
  | 11 => some .fmin
  | 12 => some .fmax
  | 13 => some .incw
  | _ => Option.none

/-- The code of each RedOp (R32). -/
def RedOp.code : RedOp → Nat
  | .add => 0
  | .min => 1
  | .max => 2

/-- The RedOp of a 2-bit code, where one is admitted (R32). -/
def RedOp.ofCode (n : Nat) : Option RedOp :=
  match n with
  | 0 => some .add
  | 1 => some .min
  | 2 => some .max
  | _ => Option.none

/-- The code of each Hint (R33). -/
def Hint.code : Hint → Nat
  | .none => 0
  | .last => 1
  | .far => 2

/-- The Hint of a 2-bit code, where one is admitted (R33). -/
def Hint.ofCode (n : Nat) : Option Hint :=
  match n with
  | 0 => some .none
  | 1 => some .last
  | 2 => some .far
  | _ => Option.none

/-- The code of each DrainPath (R38). -/
def DrainPath.code : DrainPath → Nat
  | .localSpad => 0
  | .remoteSpad => 1
  | .global => 2
  | .host => 3

/-- The DrainPath of a 2-bit code (R38). -/
def DrainPath.ofCode (n : Nat) : DrainPath :=
  match n with
  | 0 => .localSpad
  | 1 => .remoteSpad
  | 2 => .global
  | _ => .host

/-- The code of each CollKind (R39). -/
def CollKind.code : CollKind → Nat
  | .allReduce => 0
  | .reduceScatter => 1
  | .allGather => 2
  | .broadcast => 3
  | .a2aBlock => 4
  | .a2aDrop => 5

/-- The CollKind of a 4-bit code, where one is admitted (R39). -/
def CollKind.ofCode (n : Nat) : Option CollKind :=
  match n with
  | 0 => some .allReduce
  | 1 => some .reduceScatter
  | 2 => some .allGather
  | 3 => some .broadcast
  | 4 => some .a2aBlock
  | 5 => some .a2aDrop
  | _ => Option.none

/-- The code of each BankFile (R40). -/
def BankFile.code : BankFile → Nat
  | .scalar => 0
  | .vector => 1
  | .spad => 2

/-- The BankFile of a 2-bit code, where one is admitted (R40). -/
def BankFile.ofCode (n : Nat) : Option BankFile :=
  match n with
  | 0 => some .scalar
  | 1 => some .vector
  | 2 => some .spad
  | _ => Option.none

/-- ORDER of BAR: 0b00 or 0b11 (R39). -/
def arOf (n : Nat) : Except Reject Bool :=
  match n with
  | 0 => .ok false
  | 3 => .ok true
  | _ => .error .field

/-- SCOPE of TLBINV: 0b101 DEV or 0b110 SYS (R39). -/
def sysOf (n : Nat) : Except Reject Bool :=
  match n with
  | 5 => .ok false
  | 6 => .ok true
  | _ => .error .field

/-- A consumer slot: [8] valid, [7:6] field, [5:0] target index; an invalid slot is all zero (R18). -/
def consumerOf (n : Nat) : Except Reject Consumer :=
  if n = 0 then .ok none
  else if n < 256 then .error .consumer
  else .ok (some ⟨FieldSel.ofCode (bits n 6 2), BitVec.ofNat 6 (bits n 0 6)⟩)

/-- Opcodes 0x00 to 0x3F (R35, R42). -/
def decodeControl (op hi mid c0 : Nat) : Except Reject Instr :=
  match op with
  | 0x00 =>
    if hi == 0 && mid == 0 && c0 == 0 then .ok .nop else .error .field
  | 0x01 => do
    need (bits hi 0 6 == 0) .field
    let c0 ← consumerOf c0
    let c1 ← consumerOf mid
    return .mov c1 c0
  | 0x02 => do
    let imm := BitVec.ofNat 15 (bits (imm15 hi mid) 0 15)
    let c0 ← consumerOf c0
    return .const imm c0
  | 0x03 => do
    let imm := BitVec.ofNat 15 (bits (imm15 hi mid) 0 15)
    let c0 ← consumerOf c0
    return .shlor imm c0
  | 0x04 => do
    need (bits hi 0 6 == 0) .field
    let c0 ← consumerOf c0
    let c1 ← consumerOf mid
    return .add c1 c0
  | 0x05 => do
    let imm := BitVec.ofNat 15 (bits (imm15 hi mid) 0 15)
    let c0 ← consumerOf c0
    return .addi imm c0
  | 0x06 => do
    need (bits hi 0 6 == 0) .field
    let c0 ← consumerOf c0
    let c1 ← consumerOf mid
    return .sub c1 c0
  | 0x07 => do
    need (bits hi 0 6 == 0) .field
    let c0 ← consumerOf c0
    let c1 ← consumerOf mid
    return .neg c1 c0
  | 0x08 => do
    need (bits hi 0 6 == 0) .field
    let c0 ← consumerOf c0
    let c1 ← consumerOf mid
    return .mul c1 c0
  | 0x09 => do
    need (bits hi 0 6 == 0) .field
    let c0 ← consumerOf c0
    let c1 ← consumerOf mid
    return .mulh c1 c0
  | 0x0A => do
    need (bits hi 0 6 == 0) .field
    let c0 ← consumerOf c0
    let c1 ← consumerOf mid
    return .mulhu c1 c0
  | 0x0B => do
    need (bits hi 0 6 == 0) .field
    let c0 ← consumerOf c0
    let c1 ← consumerOf mid
    return .div c1 c0
  | 0x0C => do
    need (bits hi 0 6 == 0) .field
    let c0 ← consumerOf c0
    let c1 ← consumerOf mid
    return .divu c1 c0
  | 0x0D => do
    need (bits hi 0 6 == 0) .field
    let c0 ← consumerOf c0
    let c1 ← consumerOf mid
    return .rem c1 c0
  | 0x0E => do
    need (bits hi 0 6 == 0) .field
    let c0 ← consumerOf c0
    let c1 ← consumerOf mid
    return .remu c1 c0
  | 0x0F => do
    let imm := BitVec.ofNat 15 (bits (imm15 hi mid) 0 15)
    let c0 ← consumerOf c0
    return .muli imm c0
  | 0x10 => do
    need (bits hi 0 6 == 0) .field
    let c0 ← consumerOf c0
    let c1 ← consumerOf mid
    return .and c1 c0
  | 0x11 => do
    let imm := BitVec.ofNat 15 (bits (imm15 hi mid) 0 15)
    let c0 ← consumerOf c0
    return .andi imm c0
  | 0x12 => do
    need (bits hi 0 6 == 0) .field
    let c0 ← consumerOf c0
    let c1 ← consumerOf mid
    return .or c1 c0
  | 0x13 => do
    let imm := BitVec.ofNat 15 (bits (imm15 hi mid) 0 15)
    let c0 ← consumerOf c0
    return .ori imm c0
  | 0x14 => do
    need (bits hi 0 6 == 0) .field
    let c0 ← consumerOf c0
    let c1 ← consumerOf mid
    return .xor c1 c0
  | 0x15 => do
    let imm := BitVec.ofNat 15 (bits (imm15 hi mid) 0 15)
    let c0 ← consumerOf c0
    return .xori imm c0
  | 0x16 => do
    need (bits hi 0 6 == 0) .field
    let c0 ← consumerOf c0
    let c1 ← consumerOf mid
    return .shl c1 c0
  | 0x17 => do
    let sh := BitVec.ofNat 5 (bits (imm15 hi mid) 0 5)
    need (bits (imm15 hi mid) 5 10 == 0) .field
    let c0 ← consumerOf c0
    return .shli sh c0
  | 0x18 => do
    need (bits hi 0 6 == 0) .field
    let c0 ← consumerOf c0
    let c1 ← consumerOf mid
    return .shr c1 c0
  | 0x19 => do
    let sh := BitVec.ofNat 5 (bits (imm15 hi mid) 0 5)
    need (bits (imm15 hi mid) 5 10 == 0) .field
    let c0 ← consumerOf c0
    return .shri sh c0
  | 0x1A => do
    need (bits hi 0 6 == 0) .field
    let c0 ← consumerOf c0
    let c1 ← consumerOf mid
    return .sar c1 c0
  | 0x1B => do
    let sh := BitVec.ofNat 5 (bits (imm15 hi mid) 0 5)
    need (bits (imm15 hi mid) 5 10 == 0) .field
    let c0 ← consumerOf c0
    return .sari sh c0
  | 0x1C => do
    need (bits hi 0 6 == 0) .field
    let c0 ← consumerOf c0
    let c1 ← consumerOf mid
    return .clz c1 c0
  | 0x1D => do
    need (bits hi 0 6 == 0) .field
    let c0 ← consumerOf c0
    let c1 ← consumerOf mid
    return .popc c1 c0
  | 0x1E => do
    need (bits hi 0 6 == 0) .field
    let c0 ← consumerOf c0
    let c1 ← consumerOf mid
    return .brev c1 c0
  | 0x1F => do
    let sx := bits (imm15 hi mid) 10 1 == 1
    let wm1 := BitVec.ofNat 5 (bits (imm15 hi mid) 5 5)
    let low := BitVec.ofNat 5 (bits (imm15 hi mid) 0 5)
    need (bits (imm15 hi mid) 11 4 == 0) .field
    let c0 ← consumerOf c0
    return .bfx sx wm1 low c0
  | 0x20 => do
    need (bits hi 0 6 == 0) .field
    let c0 ← consumerOf c0
    let c1 ← consumerOf mid
    return .min c1 c0
  | 0x21 => do
    need (bits hi 0 6 == 0) .field
    let c0 ← consumerOf c0
    let c1 ← consumerOf mid
    return .max c1 c0
  | 0x22 => do
    need (bits hi 0 6 == 0) .field
    let c0 ← consumerOf c0
    let c1 ← consumerOf mid
    return .minu c1 c0
  | 0x23 => do
    need (bits hi 0 6 == 0) .field
    let c0 ← consumerOf c0
    let c1 ← consumerOf mid
    return .maxu c1 c0
  | 0x24 => do
    let k := Cond.ofCode (bits hi 3 3)
    need (bits hi 0 3 == 0) .field
    let c0 ← consumerOf c0
    let c1 ← consumerOf mid
    return .cmp k c1 c0
  | 0x25 => do
    let k := Cond.ofCode (bits (imm15 hi mid) 12 3)
    let imm := BitVec.ofNat 12 (bits (imm15 hi mid) 0 12)
    let c0 ← consumerOf c0
    return .cmpi k imm c0
  | 0x26 => do
    need (bits hi 0 6 == 0) .field
    let c0 ← consumerOf c0
    let c1 ← consumerOf mid
    return .sel c1 c0
  | 0x27 => do
    need (bits hi 0 6 == 0) .field
    let c0 ← consumerOf c0
    let c1 ← consumerOf mid
    return .test c1 c0
  | 0x28 => do
    need (bits hi 0 6 == 0) .field
    let c0 ← consumerOf c0
    let c1 ← consumerOf mid
    return .steer c1 c0
  | 0x29 => do
    need (bits hi 0 6 == 0) .field
    let c0 ← consumerOf c0
    let c1 ← consumerOf mid
    return .merge c1 c0
  | 0x2A => do
    let t := bits hi 0 1 == 1
    need (bits hi 1 5 == 0) .field
    let c0 ← consumerOf c0
    let c1 ← consumerOf mid
    return .gate t c1 c0
  | 0x2B => do
    need (bits hi 0 6 == 0) .field
    let c0 ← consumerOf c0
    let c1 ← consumerOf mid
    return .pand c1 c0
  | 0x2C => do
    need (bits hi 0 6 == 0) .field
    let c0 ← consumerOf c0
    let c1 ← consumerOf mid
    return .por c1 c0
  | 0x2D => do
    need (bits hi 0 6 == 0) .field
    let c0 ← consumerOf c0
    let c1 ← consumerOf mid
    return .pnot c1 c0
  | 0x2E => do
    need (bits hi 0 6 == 0) .field
    let c0 ← consumerOf c0
    let c1 ← consumerOf mid
    return .pxor c1 c0
  | 0x2F => do
    need (bits hi 0 6 == 0) .field
    need (c0 == 0) .consumer
    need (mid == 0) .consumer
    return .drop
  | 0x30 => do
    let n := BitVec.ofNat 15 (bits (imm15 hi mid) 0 15)
    need (decide (1 ≤ n.toNat)) .field
    let c0 ← consumerOf c0
    return .cnt n c0
  | 0x31 => do
    need (bits hi 0 6 == 0) .field
    let c0 ← consumerOf c0
    let c1 ← consumerOf mid
    return .cntx c1 c0
  | 0x32 => do
    need (bits hi 0 6 == 0) .field
    let c0 ← consumerOf c0
    let c1 ← consumerOf mid
    return .accum c1 c0
  | 0x33 => do
    need (bits hi 0 6 == 0) .field
    let c0 ← consumerOf c0
    let c1 ← consumerOf mid
    return .fireno c1 c0
  | 0x34 => do
    need (bits hi 0 6 == 0) .field
    let c0 ← consumerOf c0
    let c1 ← consumerOf mid
    return .cellid c1 c0
  | 0x35 => do
    need (bits hi 0 6 == 0) .field
    let c0 ← consumerOf c0
    let c1 ← consumerOf mid
    return .laneid c1 c0
  | 0x38 => do
    let g := BitVec.ofNat 6 (bits hi 0 6)
    let h ← fieldOf (Hint.ofCode (bits mid 7 2))
    need (bits mid 0 7 == 0) .field
    let c0 ← consumerOf c0
    return .rd g h c0
  | 0x39 => do
    let g := BitVec.ofNat 6 (bits hi 0 6)
    need (bits mid 0 9 == 0) .field
    let c0 ← consumerOf c0
    return .wr g c0
  | 0x3A => do
    let k := BitVec.ofNat 3 (bits hi 0 3)
    let h ← fieldOf (Hint.ofCode (bits mid 7 2))
    need (bits hi 3 3 == 0) .field
    need (bits mid 0 7 == 0) .field
    let c0 ← consumerOf c0
    return .rdp k h c0
  | 0x3B => do
    let k := BitVec.ofNat 3 (bits hi 0 3)
    need (bits hi 3 3 == 0) .field
    need (bits mid 0 9 == 0) .field
    let c0 ← consumerOf c0
    return .wrp k c0
  | _ => .error .opcode

/-- Opcodes 0x40 to 0x7F (R36, R43). -/
def decodeDataPlane (op hi mid c0 : Nat) : Except Reject Instr :=
  match op with
  | 0x40 => do
    let f ← fieldOf (Fmt.ofCode (bits hi 2 4))
    let rm := Rnd.ofCode (bits hi 0 2)
    need (f.stream) .field
    let c0 ← consumerOf c0
    let c1 ← consumerOf mid
    return .dadd f rm c1 c0
  | 0x41 => do
    let f ← fieldOf (Fmt.ofCode (bits hi 2 4))
    let rm := Rnd.ofCode (bits hi 0 2)
    need (f.stream) .field
    let c0 ← consumerOf c0
    let c1 ← consumerOf mid
    return .dsub f rm c1 c0
  | 0x42 => do
    let f ← fieldOf (Fmt.ofCode (bits hi 2 4))
    let rm := Rnd.ofCode (bits hi 0 2)
    need (f.stream) .field
    let c0 ← consumerOf c0
    let c1 ← consumerOf mid
    return .dmul f rm c1 c0
  | 0x43 => do
    let f ← fieldOf (Fmt.ofCode (bits hi 2 4))
    let rm := Rnd.ofCode (bits hi 0 2)
    need (f.stream) .field
    let c0 ← consumerOf c0
    let c1 ← consumerOf mid
    return .dfma f rm c1 c0
  | 0x44 => do
    let f ← fieldOf (Fmt.ofCode (bits hi 2 4))
    let rm := Rnd.ofCode (bits hi 0 2)
    need (f.stream) .field
    let c0 ← consumerOf c0
    let c1 ← consumerOf mid
    return .dfms f rm c1 c0
  | 0x45 => do
    let f ← fieldOf (Fmt.ofCode (bits hi 2 4))
    let acc := BitVec.ofNat 2 (bits mid 0 2)
    need (bits hi 0 2 == 0) .field
    need (bits mid 2 7 == 0) .field
    need (f.matrix) .field
    need (c0 == 0) .consumer
    return .dmac f acc
  | 0x46 => do
    let f ← fieldOf (Fmt.ofCode (bits hi 2 4))
    let rm := Rnd.ofCode (bits hi 0 2)
    need (f.stream) .field
    let c0 ← consumerOf c0
    let c1 ← consumerOf mid
    return .ddiv f rm c1 c0
  | 0x47 => do
    let f ← fieldOf (Fmt.ofCode (bits hi 2 4))
    let rm := Rnd.ofCode (bits hi 0 2)
    need (f.stream) .field
    let c0 ← consumerOf c0
    let c1 ← consumerOf mid
    return .dsqrt f rm c1 c0
  | 0x48 => do
    let f ← fieldOf (Fmt.ofCode (bits hi 2 4))
    let rm := Rnd.ofCode (bits hi 0 2)
    need (f.stream) .field
    let c0 ← consumerOf c0
    let c1 ← consumerOf mid
    return .drsqrt f rm c1 c0
  | 0x49 => do
    let f ← fieldOf (Fmt.ofCode (bits hi 2 4))
    let rm := Rnd.ofCode (bits hi 0 2)
    need (f.stream) .field
    let c0 ← consumerOf c0
    let c1 ← consumerOf mid
    return .drcp f rm c1 c0
  | 0x4A => do
    let f ← fieldOf (Fmt.ofCode (bits hi 2 4))
    let rm := Rnd.ofCode (bits hi 0 2)
    need (f.stream) .field
    let c0 ← consumerOf c0
    let c1 ← consumerOf mid
    return .dexp2 f rm c1 c0
  | 0x4B => do
    let f ← fieldOf (Fmt.ofCode (bits hi 2 4))
    let rm := Rnd.ofCode (bits hi 0 2)
    need (f.stream) .field
    let c0 ← consumerOf c0
    let c1 ← consumerOf mid
    return .dlog2 f rm c1 c0
  | 0x4C => do
    let f ← fieldOf (Fmt.ofCode (bits hi 2 4))
    let rm := Rnd.ofCode (bits hi 0 2)
    need (f.stream) .field
    let c0 ← consumerOf c0
    let c1 ← consumerOf mid
    return .dscale f rm c1 c0
  | 0x4D => do
    let f ← fieldOf (Fmt.ofCode (bits hi 2 4))
    let rm := Rnd.ofCode (bits hi 0 2)
    need (f.stream) .field
    let c0 ← consumerOf c0
    let c1 ← consumerOf mid
    return .dneg f rm c1 c0
  | 0x4E => do
    let f ← fieldOf (Fmt.ofCode (bits hi 2 4))
    let rm := Rnd.ofCode (bits hi 0 2)
    need (f.stream) .field
    let c0 ← consumerOf c0
    let c1 ← consumerOf mid
    return .dabs f rm c1 c0
  | 0x4F => do
    let f ← fieldOf (Fmt.ofCode (bits hi 2 4))
    let rm := Rnd.ofCode (bits hi 0 2)
    need (f.stream) .field
    let c0 ← consumerOf c0
    let c1 ← consumerOf mid
    return .dcvt f rm c1 c0
  | 0x50 => do
    let f ← fieldOf (Fmt.ofCode (bits hi 2 4))
    let rm := Rnd.ofCode (bits hi 0 2)
    need (f.stream) .field
    let c0 ← consumerOf c0
    let c1 ← consumerOf mid
    return .dmin f rm c1 c0
  | 0x51 => do
    let f ← fieldOf (Fmt.ofCode (bits hi 2 4))
    let rm := Rnd.ofCode (bits hi 0 2)
    need (f.stream) .field
    let c0 ← consumerOf c0
    let c1 ← consumerOf mid
    return .dmax f rm c1 c0
  | 0x52 => do
    let f ← fieldOf (Fmt.ofCode (bits hi 2 4))
    let rm := Rnd.ofCode (bits hi 0 2)
    need (f.stream) .field
    let c0 ← consumerOf c0
    let c1 ← consumerOf mid
    return .drelu f rm c1 c0
  | 0x53 => do
    let f ← fieldOf (Fmt.ofCode (bits hi 2 4))
    let rm := Rnd.ofCode (bits hi 0 2)
    need (f.stream) .field
    let c0 ← consumerOf c0
    let c1 ← consumerOf mid
    return .dclamp f rm c1 c0
  | 0x54 => do
    let f ← fieldOf (Fmt.ofCode (bits hi 2 4))
    let rm := Rnd.ofCode (bits hi 0 2)
    need (f.stream) .field
    let c0 ← consumerOf c0
    let c1 ← consumerOf mid
    return .dthr f rm c1 c0
  | 0x55 => do
    let k := Cond.ofCode (bits hi 3 3)
    need (bits hi 0 3 == 0) .field
    need (k.dcmp) .field
    let c0 ← consumerOf c0
    let c1 ← consumerOf mid
    return .dcmp k c1 c0
  | 0x56 => do
    let f ← fieldOf (Fmt.ofCode (bits hi 2 4))
    let rm := Rnd.ofCode (bits hi 0 2)
    need (f.stream) .field
    let c0 ← consumerOf c0
    let c1 ← consumerOf mid
    return .dsel f rm c1 c0
  | 0x57 => do
    let f ← fieldOf (Fmt.ofCode (bits hi 2 4))
    let rm := Rnd.ofCode (bits hi 0 2)
    need (f.stream) .field
    let c0 ← consumerOf c0
    let c1 ← consumerOf mid
    return .dkill f rm c1 c0
  | 0x58 => do
    let f ← fieldOf (Fmt.ofCode (bits hi 2 4))
    let rm := Rnd.ofCode (bits hi 0 2)
    need (f.stream) .field
    let c0 ← consumerOf c0
    let c1 ← consumerOf mid
    return .dtrunc f rm c1 c0
  | 0x59 => do
    let f ← fieldOf (Fmt.ofCode (bits hi 2 4))
    let rm := Rnd.ofCode (bits hi 0 2)
    need (f.stream) .field
    let c0 ← consumerOf c0
    let c1 ← consumerOf mid
    return .dnorm f rm c1 c0
  | 0x60 => do
    let f ← fieldOf (Fmt.ofCode (bits hi 2 4))
    need (bits hi 0 2 == 0) .field
    need (f.word) .field
    let c0 ← consumerOf c0
    let c1 ← consumerOf mid
    return .drep f c1 c0
  | 0x61 => do
    let f ← fieldOf (Fmt.ofCode (bits hi 2 4))
    let rm := Rnd.ofCode (bits hi 0 2)
    need (f.word) .field
    let c0 ← consumerOf c0
    let c1 ← consumerOf mid
    return .dxtr f rm c1 c0
  | 0x62 => do
    let f ← fieldOf (Fmt.ofCode (bits hi 2 4))
    let rm := Rnd.ofCode (bits hi 0 2)
    need (f.stream) .field
    let c0 ← consumerOf c0
    let c1 ← consumerOf mid
    return .dlane f rm c1 c0
  | 0x63 => do
    let f ← fieldOf (Fmt.ofCode (bits hi 2 4))
    let rm := Rnd.ofCode (bits hi 0 2)
    need (f.stream) .field
    let c0 ← consumerOf c0
    let c1 ← consumerOf mid
    return .dshuf f rm c1 c0
  | 0x64 => do
    let f ← fieldOf (Fmt.ofCode (bits hi 2 4))
    let rm := Rnd.ofCode (bits hi 0 2)
    need (f.stream) .field
    let c0 ← consumerOf c0
    let c1 ← consumerOf mid
    return .drot f rm c1 c0
  | 0x65 => do
    let f ← fieldOf (Fmt.ofCode (bits hi 2 4))
    let rm := Rnd.ofCode (bits hi 0 2)
    need (f.stream) .field
    let c0 ← consumerOf c0
    let c1 ← consumerOf mid
    return .dred f rm c1 c0
  | 0x66 => do
    let f ← fieldOf (Fmt.ofCode (bits hi 2 4))
    let rm := Rnd.ofCode (bits hi 0 2)
    need (f.stream) .field
    let c0 ← consumerOf c0
    let c1 ← consumerOf mid
    return .dbcast f rm c1 c0
  | 0x68 => do
    let acc := BitVec.ofNat 2 (bits mid 0 2)
    need (bits hi 0 6 == 0) .field
    need (bits mid 2 7 == 0) .field
    need (c0 == 0) .consumer
    return .dacc acc
  | 0x69 => do
    let f ← fieldOf (Fmt.ofCode (bits hi 2 4))
    let rm := Rnd.ofCode (bits hi 0 2)
    let acc := BitVec.ofNat 2 (bits mid 0 2)
    need (bits mid 2 7 == 0) .field
    need (f.stream) .field
    let c0 ← consumerOf c0
    return .daccrd f rm acc c0
  | 0x6A => do
    let acc := BitVec.ofNat 2 (bits mid 0 2)
    need (bits hi 0 6 == 0) .field
    need (bits mid 2 7 == 0) .field
    need (c0 == 0) .consumer
    return .daccz acc
  | 0x6B => do
    let f ← fieldOf (Fmt.ofCode (bits hi 2 4))
    need (bits hi 0 2 == 0) .field
    need (bits mid 0 9 == 0) .field
    need (f.matrix) .field
    need (c0 == 0) .consumer
    return .dwst f
  | 0x70 => do
    let v := BitVec.ofNat 5 (bits hi 0 5)
    let h ← fieldOf (Hint.ofCode (bits mid 7 2))
    let f ← fieldOf (Fmt.ofCode (bits mid 3 4))
    need (bits hi 5 1 == 0) .field
    need (bits mid 0 3 == 0) .field
    need (f.word) .field
    let c0 ← consumerOf c0
    return .drdv v h f c0
  | 0x71 => do
    let v := BitVec.ofNat 5 (bits hi 0 5)
    let f ← fieldOf (Fmt.ofCode (bits mid 3 4))
    let rm := Rnd.ofCode (bits mid 1 2)
    need (bits hi 5 1 == 0) .field
    need (bits mid 0 1 == 0) .field
    need (bits mid 7 2 == 0) .field
    need (f.word) .field
    let c0 ← consumerOf c0
    return .dwrv v f rm c0
  | _ => .error .opcode

/-- Opcodes 0x80 to 0x8F (R37). -/
def decodeChannel (op hi mid c0 : Nat) : Except Reject Instr :=
  match op with
  | 0x80 => do
    let ch := BitVec.ofNat 3 (bits (imm15 hi mid) 12 3)
    let n := BitVec.ofNat 6 (bits (imm15 hi mid) 6 6)
    let off := BitVec.ofNat 6 (bits (imm15 hi mid) 0 6)
    need (decide (1 ≤ n.toNat)) .field
    let c0 ← consumerOf c0
    return .recv ch n off c0
  | 0x81 => do
    let ch := BitVec.ofNat 3 (bits (imm15 hi mid) 12 3)
    let n := BitVec.ofNat 6 (bits (imm15 hi mid) 6 6)
    let off := BitVec.ofNat 6 (bits (imm15 hi mid) 0 6)
    need (decide (1 ≤ n.toNat)) .field
    let c0 ← consumerOf c0
    return .peek ch n off c0
  | 0x82 => do
    let ch := BitVec.ofNat 3 (bits (imm15 hi mid) 12 3)
    let n := BitVec.ofNat 6 (bits (imm15 hi mid) 6 6)
    need (bits (imm15 hi mid) 0 6 == 0) .field
    need (decide (1 ≤ n.toNat)) .field
    need (c0 == 0) .consumer
    return .send ch n
  | 0x83 => do
    let ch := BitVec.ofNat 3 (bits (imm15 hi mid) 12 3)
    let n := BitVec.ofNat 6 (bits (imm15 hi mid) 6 6)
    need (bits (imm15 hi mid) 0 6 == 0) .field
    need (decide (1 ≤ n.toNat)) .field
    need (c0 == 0) .consumer
    return .advc ch n
  | 0x84 => do
    let ch := BitVec.ofNat 3 (bits (imm15 hi mid) 12 3)
    let n := BitVec.ofNat 6 (bits (imm15 hi mid) 6 6)
    need (bits (imm15 hi mid) 0 6 == 0) .field
    need (decide (1 ≤ n.toNat)) .field
    need (c0 == 0) .consumer
    return .advp ch n
  | 0x85 => do
    let ch := BitVec.ofNat 3 (bits (imm15 hi mid) 12 3)
    let out := bits (imm15 hi mid) 5 1 == 1
    need (bits (imm15 hi mid) 0 5 == 0) .field
    need (bits (imm15 hi mid) 6 6 == 0) .field
    let c0 ← consumerOf c0
    return .chst ch out c0
  | _ => .error .opcode

/-- Opcodes 0x90 to 0xAF (R38). -/
def decodeStream (op hi mid c0 : Nat) : Except Reject Instr :=
  match op with
  | 0x90 => do
    let p := BitVec.ofNat 6 (bits hi 0 6)
    need (bits mid 0 9 == 0) .field
    need (c0 == 0) .consumer
    return .agb p
  | 0x91 => do
    let p := BitVec.ofNat 6 (bits hi 0 6)
    let lv := BitVec.ofNat 3 (bits mid 6 3)
    need (bits mid 0 6 == 0) .field
    need (decide (lv.toNat ≤ 5)) .field
    need (c0 == 0) .consumer
    return .agl p lv
  | 0x92 => do
    let p := BitVec.ofNat 6 (bits hi 0 6)
    let f ← fieldOf (Fmt.ofCode (bits mid 2 4))
    need (bits mid 0 2 == 0) .field
    need (bits mid 6 3 == 0) .field
    need (f.memory) .field
    need (c0 == 0) .consumer
    return .agfmt p f
  | 0x93 => do
    let p := BitVec.ofNat 6 (bits hi 0 6)
    need (bits mid 0 9 == 0) .field
    let c0 ← consumerOf c0
    return .aggo p c0
  | 0x94 => do
    let p := BitVec.ofNat 6 (bits hi 0 6)
    let f ← fieldOf (Fmt.ofCode (bits mid 2 4))
    need (bits mid 0 2 == 0) .field
    need (bits mid 6 3 == 0) .field
    need (f.memory) .field
    let c0 ← consumerOf c0
    return .aggat p f c0
  | 0x95 => do
    let p := BitVec.ofNat 6 (bits hi 0 6)
    let f ← fieldOf (Fmt.ofCode (bits mid 2 4))
    need (bits mid 0 2 == 0) .field
    need (bits mid 6 3 == 0) .field
    need (f.memory) .field
    let c0 ← consumerOf c0
    return .agsct p f c0
  | 0x96 => do
    let p := BitVec.ofNat 6 (bits hi 0 6)
    let lv := BitVec.ofNat 3 (bits mid 6 3)
    need (bits mid 0 6 == 0) .field
    need (decide (lv.toNat ≤ 5)) .field
    let c0 ← consumerOf c0
    return .agctr p lv c0
  | 0x97 => do
    let p := BitVec.ofNat 6 (bits hi 0 6)
    need (bits mid 0 9 == 0) .field
    let c0 ← consumerOf c0
    return .retry p c0
  | 0x98 => do
    let p := BitVec.ofNat 6 (bits hi 0 6)
    let h ← fieldOf (Hint.ofCode (bits mid 6 2))
    let f ← fieldOf (Fmt.ofCode (bits mid 2 4))
    need (bits mid 0 2 == 0) .field
    need (bits mid 8 1 == 0) .field
    need (f.memory) .field
    let c0 ← consumerOf c0
    return .lds p h f c0
  | 0x99 => do
    let p := BitVec.ofNat 6 (bits hi 0 6)
    let f ← fieldOf (Fmt.ofCode (bits mid 2 4))
    need (bits mid 0 2 == 0) .field
    need (bits mid 6 3 == 0) .field
    need (f.memory) .field
    let c0 ← consumerOf c0
    return .sts p f c0
  | 0x9A => do
    let p := BitVec.ofNat 6 (bits hi 0 6)
    let h ← fieldOf (Hint.ofCode (bits mid 6 2))
    let f ← fieldOf (Fmt.ofCode (bits mid 2 4))
    need (bits mid 0 2 == 0) .field
    need (bits mid 8 1 == 0) .field
    need (f.memory) .field
    let c0 ← consumerOf c0
    return .ldv p h f c0
  | 0x9B => do
    let p := BitVec.ofNat 6 (bits hi 0 6)
    let f ← fieldOf (Fmt.ofCode (bits mid 2 4))
    need (bits mid 0 2 == 0) .field
    need (bits mid 6 3 == 0) .field
    need (f.memory) .field
    let c0 ← consumerOf c0
    return .stv p f c0
  | 0x9C => do
    let p := BitVec.ofNat 6 (bits hi 0 6)
    need (bits mid 0 9 == 0) .field
    let c0 ← consumerOf c0
    return .reclaim p c0
  | 0x9D => do
    let p := BitVec.ofNat 6 (bits hi 0 6)
    let h ← fieldOf (Hint.ofCode (bits mid 6 2))
    let depth := BitVec.ofNat 6 (bits mid 0 6)
    need (bits mid 8 1 == 0) .field
    need (decide (1 ≤ depth.toNat)) .field
    need (c0 == 0) .consumer
    return .pref p h depth
  | 0x9E => do
    let path := DrainPath.ofCode (bits mid 6 2)
    need (bits hi 0 6 == 0) .field
    need (bits mid 0 6 == 0) .field
    need (bits mid 8 1 == 0) .field
    let c0 ← consumerOf c0
    return .drain path c0
  | 0x9F => do
    let p := BitVec.ofNat 6 (bits hi 0 6)
    let w := BitVec.ofNat 3 (bits mid 6 3)
    need (bits mid 0 6 == 0) .field
    let c0 ← consumerOf c0
    return .win p w c0
  | 0xA0 => do
    let p := BitVec.ofNat 6 (bits hi 0 6)
    let h ← fieldOf (Hint.ofCode (bits mid 6 2))
    need (bits mid 0 6 == 0) .field
    need (bits mid 8 1 == 0) .field
    let c0 ← consumerOf c0
    return .copy p h c0
  | 0xA1 => do
    let p := BitVec.ofNat 6 (bits hi 0 6)
    let h ← fieldOf (Hint.ofCode (bits mid 6 2))
    let f ← fieldOf (Fmt.ofCode (bits mid 2 4))
    let op ← fieldOf (RedOp.ofCode (bits mid 0 2))
    need (bits mid 8 1 == 0) .field
    need (f.reduce) .field
    let c0 ← consumerOf c0
    return .copyr p h f op c0
  | 0xA2 => do
    let p := BitVec.ofNat 6 (bits hi 0 6)
    let h ← fieldOf (Hint.ofCode (bits mid 6 2))
    let s := BitVec.ofNat 6 (bits mid 0 6)
    need (bits mid 8 1 == 0) .field
    need (convSel s.toNat) .field
    let c0 ← consumerOf c0
    return .copyc p h s c0
  | 0xA3 => do
    let vis := bits mid 6 1 == 1
    need (bits hi 0 6 == 0) .field
    need (bits mid 0 6 == 0) .field
    need (bits mid 7 2 == 0) .field
    let c0 ← consumerOf c0
    return .cplw vis c0
  | _ => .error .opcode

/-- Opcodes 0xB0 to 0xC7 (R39). -/
def decodeSync (op hi mid c0 : Nat) : Except Reject Instr :=
  match op with
  | 0xB0 => do
    let p := BitVec.ofNat 6 (bits hi 0 6)
    let sc ← fieldOf (Scope.ofCode (bits mid 6 3))
    let o := Order.ofCode (bits mid 4 2)
    let op ← fieldOf (AtomOp.ofCode (bits mid 0 4))
    let c0 ← consumerOf c0
    return .atom p sc o op c0
  | 0xB1 => do
    let p := BitVec.ofNat 6 (bits hi 0 6)
    let sc ← fieldOf (Scope.ofCode (bits mid 6 3))
    let acq := bits mid 4 1 == 1
    need (bits mid 0 4 == 0) .field
    need (bits mid 5 1 == 0) .field
    let c0 ← consumerOf c0
    return .lda p sc acq c0
  | 0xB2 => do
    let p := BitVec.ofNat 6 (bits hi 0 6)
    let sc ← fieldOf (Scope.ofCode (bits mid 6 3))
    let rel := bits mid 5 1 == 1
    need (bits mid 0 5 == 0) .field
    let c0 ← consumerOf c0
    return .stl p sc rel c0
  | 0xB3 => do
    let sc ← fieldOf (Scope.ofCode (bits mid 6 3))
    need (bits mid 4 2 == 3) .field
    need (bits hi 0 6 == 0) .field
    need (bits mid 0 4 == 0) .field
    let c0 ← consumerOf c0
    return .fence sc c0
  | 0xB4 => do
    let p := BitVec.ofNat 6 (bits hi 0 6)
    let op ← fieldOf (AtomOp.ofCode (bits mid 0 4))
    need (bits mid 4 5 == 0) .field
    need (op.own) .field
    need (c0 == 0) .consumer
    return .own p op
  | 0xB5 => do
    let p := BitVec.ofNat 6 (bits hi 0 6)
    need (bits mid 0 9 == 0) .field
    need (c0 == 0) .consumer
    return .upd p
  | 0xB6 => do
    let sc ← fieldOf (Scope.ofCode (bits mid 6 3))
    let rel := bits mid 5 1 == 1
    need (bits hi 0 6 == 0) .field
    need (bits mid 0 5 == 0) .field
    need (sc.group) .field
    let c0 ← consumerOf c0
    return .arrive sc rel c0
  | 0xB7 => do
    let sc ← fieldOf (Scope.ofCode (bits mid 6 3))
    let acq := bits mid 4 1 == 1
    need (bits hi 0 6 == 0) .field
    need (bits mid 0 4 == 0) .field
    need (bits mid 5 1 == 0) .field
    need (sc.group) .field
    let c0 ← consumerOf c0
    return .waitg sc acq c0
  | 0xB8 => do
    let sc ← fieldOf (Scope.ofCode (bits mid 6 3))
    let ar ← arOf (bits mid 4 2)
    need (bits hi 0 6 == 0) .field
    need (bits mid 0 4 == 0) .field
    need (sc.group) .field
    let c0 ← consumerOf c0
    return .bar sc ar c0
  | 0xB9 => do
    let sc ← fieldOf (Scope.ofCode (bits mid 6 3))
    need (bits hi 0 6 == 0) .field
    need (bits mid 0 6 == 0) .field
    let c0 ← consumerOf c0
    return .quiet sc c0
  | 0xBA => do
    need (bits hi 0 6 == 0) .field
    need (bits mid 0 9 == 0) .field
    need (c0 == 0) .consumer
    return .lift
  | 0xBB =>
    match bits mid 0 4 with
    | 0 => do
      let p := BitVec.ofNat 6 (bits hi 0 6)
      let rel := bits mid 5 1 == 1
      need (bits mid 4 1 == 0) .field
      need (bits mid 6 3 == 0) .field
      let c0 ← consumerOf c0
      return .seamoPush p rel c0
    | 1 => do
      let p := BitVec.ofNat 6 (bits hi 0 6)
      let acq := bits mid 4 1 == 1
      need (bits mid 5 4 == 0) .field
      let c0 ← consumerOf c0
      return .seamoPop p acq c0
    | 2 => do
      let p := BitVec.ofNat 6 (bits hi 0 6)
      need (bits mid 4 5 == 0) .field
      let c0 ← consumerOf c0
      return .seamoStatus p c0
    | _ => .error .field
  | 0xBC => do
    let f ← fieldOf (Fmt.ofCode (bits hi 2 4))
    let op ← fieldOf (RedOp.ofCode (bits hi 0 2))
    let sc ← fieldOf (Scope.ofCode (bits mid 6 3))
    let kind ← fieldOf (CollKind.ofCode (bits mid 0 4))
    need (bits mid 4 2 == 0) .field
    need (collOk f op sc kind) .field
    let c0 ← consumerOf c0
    return .coll f op sc kind c0
  | 0xBD => do
    let p := BitVec.ofNat 6 (bits hi 0 6)
    let sc ← fieldOf (Scope.ofCode (bits mid 6 3))
    let rel := bits mid 5 1 == 1
    need (bits mid 0 5 == 0) .field
    let c0 ← consumerOf c0
    return .wqadd p sc rel c0
  | 0xBE => do
    let p := BitVec.ofNat 6 (bits hi 0 6)
    let sc ← fieldOf (Scope.ofCode (bits mid 6 3))
    let acq := bits mid 4 1 == 1
    need (bits mid 0 4 == 0) .field
    need (bits mid 5 1 == 0) .field
    let c0 ← consumerOf c0
    return .wqtake p sc acq c0
  | 0xBF => do
    let p := BitVec.ofNat 6 (bits hi 0 6)
    let sc ← fieldOf (Scope.ofCode (bits mid 6 3))
    let rel := bits mid 5 1 == 1
    need (bits mid 0 5 == 0) .field
    let c0 ← consumerOf c0
    return .wqclose p sc rel c0
  | 0xC0 =>
    match bits mid 0 4 with
    | 0 => do
      let rel := bits mid 5 1 == 1
      need (bits hi 0 6 == 0) .field
      need (bits mid 4 1 == 0) .field
      need (bits mid 6 3 == 0) .field
      let c0 ← consumerOf c0
      return .cmdMatrix rel c0
    | 1 => do
      let rel := bits mid 5 1 == 1
      need (bits hi 0 6 == 0) .field
      need (bits mid 4 1 == 0) .field
      need (bits mid 6 3 == 0) .field
      let c0 ← consumerOf c0
      return .cmdBulk rel c0
    | 2 => do
      let rel := bits mid 5 1 == 1
      need (bits hi 0 6 == 0) .field
      need (bits mid 4 1 == 0) .field
      need (bits mid 6 3 == 0) .field
      let c0 ← consumerOf c0
      return .cmdCollective rel c0
    | 3 => do
      let rel := bits mid 5 1 == 1
      need (bits hi 0 6 == 0) .field
      need (bits mid 4 1 == 0) .field
      need (bits mid 6 3 == 0) .field
      let c0 ← consumerOf c0
      return .cmdLift rel c0
    | 4 => do
      let rel := bits mid 5 1 == 1
      need (bits hi 0 6 == 0) .field
      need (bits mid 4 1 == 0) .field
      need (bits mid 6 3 == 0) .field
      let c0 ← consumerOf c0
      return .cmdChild rel c0
    | _ => .error .field
  | 0xC1 => do
    let sc ← fieldOf (Scope.ofCode (bits mid 6 3))
    let acq := bits mid 4 1 == 1
    need (bits hi 0 6 == 0) .field
    need (bits mid 0 4 == 0) .field
    need (bits mid 5 1 == 0) .field
    let c0 ← consumerOf c0
    return .cmdwait sc acq c0
  | 0xC2 => do
    let p := BitVec.ofNat 6 (bits hi 0 6)
    let rel := bits mid 5 1 == 1
    need (bits mid 6 3 == 6) .field
    need (bits mid 0 5 == 0) .field
    let c0 ← consumerOf c0
    return .egress p rel c0
  | 0xC3 => do
    let p := BitVec.ofNat 6 (bits hi 0 6)
    let acq := bits mid 4 1 == 1
    need (bits mid 6 3 == 6) .field
    need (bits mid 0 4 == 0) .field
    need (bits mid 5 1 == 0) .field
    let c0 ← consumerOf c0
    return .ingress p acq c0
  | _ => .error .opcode

/-- Opcodes 0xC8 to 0xDF (R38). -/
def decodeEngine (op hi mid c0 : Nat) : Except Reject Instr :=
  match op with
  | 0xC8 => do
    let p := BitVec.ofNat 6 (bits hi 0 6)
    let f ← fieldOf (Fmt.ofCode (bits mid 2 4))
    need (bits mid 0 2 == 0) .field
    need (bits mid 6 3 == 0) .field
    need (f.matrix) .field
    let c0 ← consumerOf c0
    return .syscfg p f c0
  | 0xC9 => do
    let p := BitVec.ofNat 6 (bits hi 0 6)
    let acc := BitVec.ofNat 2 (bits mid 6 2)
    let f ← fieldOf (Fmt.ofCode (bits mid 2 4))
    let rm := Rnd.ofCode (bits mid 0 2)
    need (bits mid 8 1 == 0) .field
    need (f.word) .field
    let c0 ← consumerOf c0
    return .mma p acc f rm c0
  | 0xCA => do
    let p := BitVec.ofNat 6 (bits hi 0 6)
    let acc := BitVec.ofNat 2 (bits mid 6 2)
    let f ← fieldOf (Fmt.ofCode (bits mid 2 4))
    let rm := Rnd.ofCode (bits mid 0 2)
    need (bits mid 8 1 == 0) .field
    need (f.word) .field
    let c0 ← consumerOf c0
    return .mmasp p acc f rm c0
  | 0xCB => do
    let p := BitVec.ofNat 6 (bits hi 0 6)
    let acc := BitVec.ofNat 2 (bits mid 6 2)
    let f ← fieldOf (Fmt.ofCode (bits mid 2 4))
    let rm := Rnd.ofCode (bits mid 0 2)
    need (bits mid 8 1 == 0) .field
    need (f.word) .field
    let c0 ← consumerOf c0
    return .mmarow p acc f rm c0
  | 0xCC => do
    need (bits hi 0 6 == 0) .field
    need (bits mid 0 9 == 0) .field
    let c0 ← consumerOf c0
    return .wedge c0
  | 0xD0 => do
    let p := BitVec.ofNat 6 (bits hi 0 6)
    let f ← fieldOf (Fmt.ofCode (bits mid 2 4))
    let t := bits mid 1 1 == 1
    need (bits mid 0 1 == 0) .field
    need (bits mid 6 3 == 0) .field
    need (f.matrix) .field
    let c0 ← consumerOf c0
    return .prune p f t c0
  | 0xD1 => do
    let p := BitVec.ofNat 6 (bits hi 0 6)
    need (bits mid 0 9 == 0) .field
    let c0 ← consumerOf c0
    return .nmhdr p c0
  | 0xD2 => do
    let p := BitVec.ofNat 6 (bits hi 0 6)
    need (bits mid 0 9 == 0) .field
    let c0 ← consumerOf c0
    return .nmchk p c0
  | 0xD3 => do
    let p := BitVec.ofNat 6 (bits hi 0 6)
    need (bits mid 0 9 == 0) .field
    let c0 ← consumerOf c0
    return .nmest p c0
  | 0xD8 => do
    let p := BitVec.ofNat 6 (bits hi 0 6)
    let tree := bits mid 0 1 == 1
    need (bits mid 1 8 == 0) .field
    let c0 ← consumerOf c0
    return .scana p tree c0
  | 0xD9 => do
    let p := BitVec.ofNat 6 (bits hi 0 6)
    let tree := bits mid 0 1 == 1
    need (bits mid 1 8 == 0) .field
    let c0 ← consumerOf c0
    return .scano p tree c0
  | 0xDA => do
    let p := BitVec.ofNat 6 (bits hi 0 6)
    let cam := BitVec.ofNat 6 (bits mid 0 6)
    need (bits mid 6 3 == 0) .field
    let c0 ← consumerOf c0
    return .isld p cam c0
  | 0xDB => do
    let p := BitVec.ofNat 6 (bits hi 0 6)
    let cam := BitVec.ofNat 6 (bits mid 0 6)
    need (bits mid 6 3 == 0) .field
    let c0 ← consumerOf c0
    return .isprb p cam c0
  | 0xDC => do
    let p := BitVec.ofNat 6 (bits hi 0 6)
    need (bits mid 0 9 == 0) .field
    let c0 ← consumerOf c0
    return .union p c0
  | 0xDD => do
    let p := BitVec.ofNat 6 (bits hi 0 6)
    let f ← fieldOf (Fmt.ofCode (bits mid 2 4))
    need (bits mid 0 2 == 0) .field
    need (bits mid 6 3 == 0) .field
    need (f.word) .field
    let c0 ← consumerOf c0
    return .mergek p f c0
  | 0xDE => do
    let p := BitVec.ofNat 6 (bits hi 0 6)
    need (bits mid 0 9 == 0) .field
    let c0 ← consumerOf c0
    return .fibh p c0
  | _ => .error .opcode

/-- Opcodes 0xE0 to 0xFF (R39, R40). -/
def decodeSystem (op hi mid c0 : Nat) : Except Reject Instr :=
  match op with
  | 0xE0 => do
    let code := BitVec.ofNat 8 (bits (imm15 hi mid) 0 8)
    need (bits (imm15 hi mid) 8 7 == 0) .field
    need (c0 == 0) .consumer
    return .trap code
  | 0xE1 => do
    need (hi == 0) .field
    need (mid == 0) .field
    need (c0 == 0) .consumer
    return .halt
  | 0xE2 => do
    let n := BitVec.ofNat 12 (bits (imm15 hi mid) 0 12)
    need (bits (imm15 hi mid) 12 3 == 0) .field
    need (sysRegPresent n.toNat) .field
    let c0 ← consumerOf c0
    return .srd n c0
  | 0xE3 => do
    let n := BitVec.ofNat 12 (bits (imm15 hi mid) 0 12)
    need (bits (imm15 hi mid) 12 3 == 0) .field
    need (sysRegPresent n.toNat) .field
    let c0 ← consumerOf c0
    return .swr n c0
  | 0xE4 => do
    need (bits hi 0 6 == 0) .field
    let c0 ← consumerOf c0
    let c1 ← consumerOf mid
    return .ptst c1 c0
  | 0xE5 => do
    need (bits hi 0 6 == 0) .field
    let c0 ← consumerOf c0
    let c1 ← consumerOf mid
    return .pclr c1 c0
  | 0xE6 => do
    need (bits hi 0 6 == 0) .field
    let c0 ← consumerOf c0
    let c1 ← consumerOf mid
    return .excrd c1 c0
  | 0xE7 => do
    let g := BitVec.ofNat 6 (bits hi 0 6)
    let file ← fieldOf (BankFile.ofCode (bits mid 0 2))
    need (bits mid 2 7 == 0) .field
    need (bankReg file g) .field
    let c0 ← consumerOf c0
    return .bankk g file c0
  | 0xE8 => do
    let g := BitVec.ofNat 6 (bits hi 0 6)
    let file ← fieldOf (BankFile.ofCode (bits mid 0 2))
    need (bits mid 2 7 == 0) .field
    need (bankReg file g) .field
    let c0 ← consumerOf c0
    return .banko g file c0
  | 0xE9 => do
    let g := BitVec.ofNat 6 (bits hi 0 6)
    let file ← fieldOf (BankFile.ofCode (bits mid 0 2))
    need (bits mid 2 7 == 0) .field
    need (bankReg file g) .field
    let c0 ← consumerOf c0
    return .bankw g file c0
  | 0xEA => do
    let sys ← sysOf (bits mid 6 3)
    need (bits hi 0 6 == 0) .field
    need (bits mid 0 6 == 0) .field
    let c0 ← consumerOf c0
    return .tlbinv sys c0
  | 0xEB => do
    let n := BitVec.ofNat 8 (bits (imm15 hi mid) 0 8)
    need (bits (imm15 hi mid) 8 7 == 0) .field
    let c0 ← consumerOf c0
    return .perf n c0
  | 0xEC => do
    need (bits hi 0 6 == 0) .field
    let c0 ← consumerOf c0
    let c1 ← consumerOf mid
    return .cyc c1 c0
  | 0xED => do
    need (bits hi 0 6 == 0) .field
    need (c0 == 0) .consumer
    need (mid == 0) .consumer
    return .fend
  | _ => .error .opcode

/-- The instruction of a word given in parts (R27, R34). -/
def decodeParts (op hi mid c0 : Nat) : Except Reject Instr :=
  if op < 0x40 then decodeControl op hi mid c0
  else if op < 0x80 then decodeDataPlane op hi mid c0
  else if op < 0x90 then decodeChannel op hi mid c0
  else if op < 0xB0 then decodeStream op hi mid c0
  else if op < 0xC8 then decodeSync op hi mid c0
  else if op < 0xE0 then decodeEngine op hi mid c0
  else decodeSystem op hi mid c0

/-- The instruction of a 32-bit word (R27). -/
def decodeWord (w : Word) : Except Reject Instr :=
  decodeParts (bits w.toNat 24 8) (bits w.toNat 18 6) (bits w.toNat 9 9) (bits w.toNat 0 9)

/-- The word at the front of a run of bytes, little-endian (R6), and the bytes after it. -/
def takeWord : List Byte → Option (Word × List Byte)
  | a :: b :: c :: d :: rest => some (d ++ c ++ b ++ a, rest)
  | _ => none

/-- The instruction at the front of a run of bytes, and the bytes after it. -/
def decodeBytes (bs : List Byte) : Option (Instr × List Byte) :=
  match takeWord bs with
  | none => none
  | some (w, rest) =>
    match decodeWord w with
    | .ok i => some (i, rest)
    | .error _ => none

/-- The four bytes of a word in memory order (R6). -/
def wordBytes (w : Word) : List Byte :=
  [w.extractLsb' 0 8, w.extractLsb' 8 8, w.extractLsb' 16 8, w.extractLsb' 24 8]

/-- The instruction that the decoder reads from an instruction of `nbits` bits `w`, laid out as the hardware stores it; the
bits above `nbits` are zero. A row without an encoding has no bits and no word. -/
def decodeTableWord (nbits w : Nat) : Option Instr :=
  if nbits = 0 then none
  else (decodeBytes (wordBytes (BitVec.ofNat 32 (w % 2 ^ nbits)))).map Prod.fst

/-- The four parts of a word (R27). -/
structure Parts where
  op : Nat
  hi : Nat
  mid : Nat
  c0 : Nat
  deriving DecidableEq, Repr

/-- Parts of a word that holds a 15-bit number in [23:9]. -/
def Parts.imm (op n c0 : Nat) : Parts := ⟨op, n / 512, n % 512, c0⟩

/-- The word made of its parts. -/
def Parts.word (x : Parts) : Word := BitVec.ofNat 32 (((x.op * 64 + x.hi) * 512 + x.mid) * 512 + x.c0)

/-- The 9 bits of a consumer slot (R18). -/
def consumerCode (c : Consumer) : Nat :=
  match c with
  | none => 0
  | some t => 256 + t.field.code * 64 + t.index.toNat

/-- The parts of an instruction's word, field by field from R27 and R35 to R43; none for a step that has no encoding. -/
def encodeParts (i : Instr) : Option Parts :=
  match i with
  | .nop => some ⟨0x00, 0, 0, 0⟩
  | .mov c1 c0 => some ⟨0x01, 0, consumerCode c1, consumerCode c0⟩
  | .const imm c0 => some (Parts.imm 0x02 (imm.toNat) (consumerCode c0))
  | .shlor imm c0 => some (Parts.imm 0x03 (imm.toNat) (consumerCode c0))
  | .add c1 c0 => some ⟨0x04, 0, consumerCode c1, consumerCode c0⟩
  | .addi imm c0 => some (Parts.imm 0x05 (imm.toNat) (consumerCode c0))
  | .sub c1 c0 => some ⟨0x06, 0, consumerCode c1, consumerCode c0⟩
  | .neg c1 c0 => some ⟨0x07, 0, consumerCode c1, consumerCode c0⟩
  | .mul c1 c0 => some ⟨0x08, 0, consumerCode c1, consumerCode c0⟩
  | .mulh c1 c0 => some ⟨0x09, 0, consumerCode c1, consumerCode c0⟩
  | .mulhu c1 c0 => some ⟨0x0A, 0, consumerCode c1, consumerCode c0⟩
  | .div c1 c0 => some ⟨0x0B, 0, consumerCode c1, consumerCode c0⟩
  | .divu c1 c0 => some ⟨0x0C, 0, consumerCode c1, consumerCode c0⟩
  | .rem c1 c0 => some ⟨0x0D, 0, consumerCode c1, consumerCode c0⟩
  | .remu c1 c0 => some ⟨0x0E, 0, consumerCode c1, consumerCode c0⟩
  | .muli imm c0 => some (Parts.imm 0x0F (imm.toNat) (consumerCode c0))
  | .and c1 c0 => some ⟨0x10, 0, consumerCode c1, consumerCode c0⟩
  | .andi imm c0 => some (Parts.imm 0x11 (imm.toNat) (consumerCode c0))
  | .or c1 c0 => some ⟨0x12, 0, consumerCode c1, consumerCode c0⟩
  | .ori imm c0 => some (Parts.imm 0x13 (imm.toNat) (consumerCode c0))
  | .xor c1 c0 => some ⟨0x14, 0, consumerCode c1, consumerCode c0⟩
  | .xori imm c0 => some (Parts.imm 0x15 (imm.toNat) (consumerCode c0))
  | .shl c1 c0 => some ⟨0x16, 0, consumerCode c1, consumerCode c0⟩
  | .shli sh c0 => some (Parts.imm 0x17 (sh.toNat) (consumerCode c0))
  | .shr c1 c0 => some ⟨0x18, 0, consumerCode c1, consumerCode c0⟩
  | .shri sh c0 => some (Parts.imm 0x19 (sh.toNat) (consumerCode c0))
  | .sar c1 c0 => some ⟨0x1A, 0, consumerCode c1, consumerCode c0⟩
  | .sari sh c0 => some (Parts.imm 0x1B (sh.toNat) (consumerCode c0))
  | .clz c1 c0 => some ⟨0x1C, 0, consumerCode c1, consumerCode c0⟩
  | .popc c1 c0 => some ⟨0x1D, 0, consumerCode c1, consumerCode c0⟩
  | .brev c1 c0 => some ⟨0x1E, 0, consumerCode c1, consumerCode c0⟩
  | .bfx sx wm1 low c0 => some (Parts.imm 0x1F (sx.toNat * 1024 + wm1.toNat * 32 + low.toNat) (consumerCode c0))
  | .min c1 c0 => some ⟨0x20, 0, consumerCode c1, consumerCode c0⟩
  | .max c1 c0 => some ⟨0x21, 0, consumerCode c1, consumerCode c0⟩
  | .minu c1 c0 => some ⟨0x22, 0, consumerCode c1, consumerCode c0⟩
  | .maxu c1 c0 => some ⟨0x23, 0, consumerCode c1, consumerCode c0⟩
  | .cmp k c1 c0 => some ⟨0x24, k.code * 8, consumerCode c1, consumerCode c0⟩
  | .cmpi k imm c0 => some (Parts.imm 0x25 (k.code * 4096 + imm.toNat) (consumerCode c0))
  | .sel c1 c0 => some ⟨0x26, 0, consumerCode c1, consumerCode c0⟩
  | .test c1 c0 => some ⟨0x27, 0, consumerCode c1, consumerCode c0⟩
  | .steer c1 c0 => some ⟨0x28, 0, consumerCode c1, consumerCode c0⟩
  | .merge c1 c0 => some ⟨0x29, 0, consumerCode c1, consumerCode c0⟩
  | .gate t c1 c0 => some ⟨0x2A, t.toNat, consumerCode c1, consumerCode c0⟩
  | .pand c1 c0 => some ⟨0x2B, 0, consumerCode c1, consumerCode c0⟩
  | .por c1 c0 => some ⟨0x2C, 0, consumerCode c1, consumerCode c0⟩
  | .pnot c1 c0 => some ⟨0x2D, 0, consumerCode c1, consumerCode c0⟩
  | .pxor c1 c0 => some ⟨0x2E, 0, consumerCode c1, consumerCode c0⟩
  | .drop => some ⟨0x2F, 0, 0, 0⟩
  | .cnt n c0 => some (Parts.imm 0x30 (n.toNat) (consumerCode c0))
  | .cntx c1 c0 => some ⟨0x31, 0, consumerCode c1, consumerCode c0⟩
  | .accum c1 c0 => some ⟨0x32, 0, consumerCode c1, consumerCode c0⟩
  | .fireno c1 c0 => some ⟨0x33, 0, consumerCode c1, consumerCode c0⟩
  | .cellid c1 c0 => some ⟨0x34, 0, consumerCode c1, consumerCode c0⟩
  | .laneid c1 c0 => some ⟨0x35, 0, consumerCode c1, consumerCode c0⟩
  | .rd g h c0 => some ⟨0x38, g.toNat, h.code * 128, consumerCode c0⟩
  | .wr g c0 => some ⟨0x39, g.toNat, 0, consumerCode c0⟩
  | .rdp k h c0 => some ⟨0x3A, k.toNat, h.code * 128, consumerCode c0⟩
  | .wrp k c0 => some ⟨0x3B, k.toNat, 0, consumerCode c0⟩
  | .dadd f rm c1 c0 => some ⟨0x40, f.code * 4 + rm.code, consumerCode c1, consumerCode c0⟩
  | .dsub f rm c1 c0 => some ⟨0x41, f.code * 4 + rm.code, consumerCode c1, consumerCode c0⟩
  | .dmul f rm c1 c0 => some ⟨0x42, f.code * 4 + rm.code, consumerCode c1, consumerCode c0⟩
  | .dfma f rm c1 c0 => some ⟨0x43, f.code * 4 + rm.code, consumerCode c1, consumerCode c0⟩
  | .dfms f rm c1 c0 => some ⟨0x44, f.code * 4 + rm.code, consumerCode c1, consumerCode c0⟩
  | .dmac f acc => some ⟨0x45, f.code * 4, acc.toNat, 0⟩
  | .ddiv f rm c1 c0 => some ⟨0x46, f.code * 4 + rm.code, consumerCode c1, consumerCode c0⟩
  | .dsqrt f rm c1 c0 => some ⟨0x47, f.code * 4 + rm.code, consumerCode c1, consumerCode c0⟩
  | .drsqrt f rm c1 c0 => some ⟨0x48, f.code * 4 + rm.code, consumerCode c1, consumerCode c0⟩
  | .drcp f rm c1 c0 => some ⟨0x49, f.code * 4 + rm.code, consumerCode c1, consumerCode c0⟩
  | .dexp2 f rm c1 c0 => some ⟨0x4A, f.code * 4 + rm.code, consumerCode c1, consumerCode c0⟩
  | .dlog2 f rm c1 c0 => some ⟨0x4B, f.code * 4 + rm.code, consumerCode c1, consumerCode c0⟩
  | .dscale f rm c1 c0 => some ⟨0x4C, f.code * 4 + rm.code, consumerCode c1, consumerCode c0⟩
  | .dneg f rm c1 c0 => some ⟨0x4D, f.code * 4 + rm.code, consumerCode c1, consumerCode c0⟩
  | .dabs f rm c1 c0 => some ⟨0x4E, f.code * 4 + rm.code, consumerCode c1, consumerCode c0⟩
  | .dcvt f rm c1 c0 => some ⟨0x4F, f.code * 4 + rm.code, consumerCode c1, consumerCode c0⟩
  | .dmin f rm c1 c0 => some ⟨0x50, f.code * 4 + rm.code, consumerCode c1, consumerCode c0⟩
  | .dmax f rm c1 c0 => some ⟨0x51, f.code * 4 + rm.code, consumerCode c1, consumerCode c0⟩
  | .drelu f rm c1 c0 => some ⟨0x52, f.code * 4 + rm.code, consumerCode c1, consumerCode c0⟩
  | .dclamp f rm c1 c0 => some ⟨0x53, f.code * 4 + rm.code, consumerCode c1, consumerCode c0⟩
  | .dthr f rm c1 c0 => some ⟨0x54, f.code * 4 + rm.code, consumerCode c1, consumerCode c0⟩
  | .dcmp k c1 c0 => some ⟨0x55, k.code * 8, consumerCode c1, consumerCode c0⟩
  | .dsel f rm c1 c0 => some ⟨0x56, f.code * 4 + rm.code, consumerCode c1, consumerCode c0⟩
  | .dkill f rm c1 c0 => some ⟨0x57, f.code * 4 + rm.code, consumerCode c1, consumerCode c0⟩
  | .dtrunc f rm c1 c0 => some ⟨0x58, f.code * 4 + rm.code, consumerCode c1, consumerCode c0⟩
  | .dnorm f rm c1 c0 => some ⟨0x59, f.code * 4 + rm.code, consumerCode c1, consumerCode c0⟩
  | .drep f c1 c0 => some ⟨0x60, f.code * 4, consumerCode c1, consumerCode c0⟩
  | .dxtr f rm c1 c0 => some ⟨0x61, f.code * 4 + rm.code, consumerCode c1, consumerCode c0⟩
  | .dlane f rm c1 c0 => some ⟨0x62, f.code * 4 + rm.code, consumerCode c1, consumerCode c0⟩
  | .dshuf f rm c1 c0 => some ⟨0x63, f.code * 4 + rm.code, consumerCode c1, consumerCode c0⟩
  | .drot f rm c1 c0 => some ⟨0x64, f.code * 4 + rm.code, consumerCode c1, consumerCode c0⟩
  | .dred f rm c1 c0 => some ⟨0x65, f.code * 4 + rm.code, consumerCode c1, consumerCode c0⟩
  | .dbcast f rm c1 c0 => some ⟨0x66, f.code * 4 + rm.code, consumerCode c1, consumerCode c0⟩
  | .dacc acc => some ⟨0x68, 0, acc.toNat, 0⟩
  | .daccrd f rm acc c0 => some ⟨0x69, f.code * 4 + rm.code, acc.toNat, consumerCode c0⟩
  | .daccz acc => some ⟨0x6A, 0, acc.toNat, 0⟩
  | .dwst f => some ⟨0x6B, f.code * 4, 0, 0⟩
  | .drdv v h f c0 => some ⟨0x70, v.toNat, h.code * 128 + f.code * 8, consumerCode c0⟩
  | .dwrv v f rm c0 => some ⟨0x71, v.toNat, f.code * 8 + rm.code * 2, consumerCode c0⟩
  | .recv ch n off c0 => some (Parts.imm 0x80 (ch.toNat * 4096 + n.toNat * 64 + off.toNat) (consumerCode c0))
  | .peek ch n off c0 => some (Parts.imm 0x81 (ch.toNat * 4096 + n.toNat * 64 + off.toNat) (consumerCode c0))
  | .send ch n => some (Parts.imm 0x82 (ch.toNat * 4096 + n.toNat * 64) (0))
  | .advc ch n => some (Parts.imm 0x83 (ch.toNat * 4096 + n.toNat * 64) (0))
  | .advp ch n => some (Parts.imm 0x84 (ch.toNat * 4096 + n.toNat * 64) (0))
  | .chst ch out c0 => some (Parts.imm 0x85 (ch.toNat * 4096 + out.toNat * 32) (consumerCode c0))
  | .agb p => some ⟨0x90, p.toNat, 0, 0⟩
  | .agl p lv => some ⟨0x91, p.toNat, lv.toNat * 64, 0⟩
  | .agfmt p f => some ⟨0x92, p.toNat, f.code * 4, 0⟩
  | .aggo p c0 => some ⟨0x93, p.toNat, 0, consumerCode c0⟩
  | .aggat p f c0 => some ⟨0x94, p.toNat, f.code * 4, consumerCode c0⟩
  | .agsct p f c0 => some ⟨0x95, p.toNat, f.code * 4, consumerCode c0⟩
  | .agctr p lv c0 => some ⟨0x96, p.toNat, lv.toNat * 64, consumerCode c0⟩
  | .retry p c0 => some ⟨0x97, p.toNat, 0, consumerCode c0⟩
  | .lds p h f c0 => some ⟨0x98, p.toNat, h.code * 64 + f.code * 4, consumerCode c0⟩
  | .sts p f c0 => some ⟨0x99, p.toNat, f.code * 4, consumerCode c0⟩
  | .ldv p h f c0 => some ⟨0x9A, p.toNat, h.code * 64 + f.code * 4, consumerCode c0⟩
  | .stv p f c0 => some ⟨0x9B, p.toNat, f.code * 4, consumerCode c0⟩
  | .reclaim p c0 => some ⟨0x9C, p.toNat, 0, consumerCode c0⟩
  | .pref p h depth => some ⟨0x9D, p.toNat, h.code * 64 + depth.toNat, 0⟩
  | .drain path c0 => some ⟨0x9E, 0, path.code * 64, consumerCode c0⟩
  | .win p w c0 => some ⟨0x9F, p.toNat, w.toNat * 64, consumerCode c0⟩
  | .copy p h c0 => some ⟨0xA0, p.toNat, h.code * 64, consumerCode c0⟩
  | .copyr p h f op c0 => some ⟨0xA1, p.toNat, h.code * 64 + f.code * 4 + op.code, consumerCode c0⟩
  | .copyc p h s c0 => some ⟨0xA2, p.toNat, h.code * 64 + s.toNat, consumerCode c0⟩
  | .cplw vis c0 => some ⟨0xA3, 0, vis.toNat * 64, consumerCode c0⟩
  | .atom p sc o op c0 => some ⟨0xB0, p.toNat, sc.code * 64 + o.code * 16 + op.code, consumerCode c0⟩
  | .lda p sc acq c0 => some ⟨0xB1, p.toNat, sc.code * 64 + acq.toNat * 16, consumerCode c0⟩
  | .stl p sc rel c0 => some ⟨0xB2, p.toNat, sc.code * 64 + rel.toNat * 32, consumerCode c0⟩
  | .fence sc c0 => some ⟨0xB3, 0, sc.code * 64 + 48, consumerCode c0⟩
  | .own p op => some ⟨0xB4, p.toNat, op.code, 0⟩
  | .upd p => some ⟨0xB5, p.toNat, 0, 0⟩
  | .arrive sc rel c0 => some ⟨0xB6, 0, sc.code * 64 + rel.toNat * 32, consumerCode c0⟩
  | .waitg sc acq c0 => some ⟨0xB7, 0, sc.code * 64 + acq.toNat * 16, consumerCode c0⟩
  | .bar sc ar c0 => some ⟨0xB8, 0, sc.code * 64 + (if ar then 48 else 0), consumerCode c0⟩
  | .quiet sc c0 => some ⟨0xB9, 0, sc.code * 64, consumerCode c0⟩
  | .lift => some ⟨0xBA, 0, 0, 0⟩
  | .seamoPush p rel c0 => some ⟨0xBB, p.toNat, rel.toNat * 32, consumerCode c0⟩
  | .seamoPop p acq c0 => some ⟨0xBB, p.toNat, acq.toNat * 16 + 1, consumerCode c0⟩
  | .seamoStatus p c0 => some ⟨0xBB, p.toNat, 2, consumerCode c0⟩
  | .coll f op sc kind c0 => some ⟨0xBC, f.code * 4 + op.code, sc.code * 64 + kind.code, consumerCode c0⟩
  | .wqadd p sc rel c0 => some ⟨0xBD, p.toNat, sc.code * 64 + rel.toNat * 32, consumerCode c0⟩
  | .wqtake p sc acq c0 => some ⟨0xBE, p.toNat, sc.code * 64 + acq.toNat * 16, consumerCode c0⟩
  | .wqclose p sc rel c0 => some ⟨0xBF, p.toNat, sc.code * 64 + rel.toNat * 32, consumerCode c0⟩
  | .cmdMatrix rel c0 => some ⟨0xC0, 0, rel.toNat * 32, consumerCode c0⟩
  | .cmdBulk rel c0 => some ⟨0xC0, 0, rel.toNat * 32 + 1, consumerCode c0⟩
  | .cmdCollective rel c0 => some ⟨0xC0, 0, rel.toNat * 32 + 2, consumerCode c0⟩
  | .cmdLift rel c0 => some ⟨0xC0, 0, rel.toNat * 32 + 3, consumerCode c0⟩
  | .cmdChild rel c0 => some ⟨0xC0, 0, rel.toNat * 32 + 4, consumerCode c0⟩
  | .cmdwait sc acq c0 => some ⟨0xC1, 0, sc.code * 64 + acq.toNat * 16, consumerCode c0⟩
  | .egress p rel c0 => some ⟨0xC2, p.toNat, rel.toNat * 32 + 384, consumerCode c0⟩
  | .ingress p acq c0 => some ⟨0xC3, p.toNat, acq.toNat * 16 + 384, consumerCode c0⟩
  | .syscfg p f c0 => some ⟨0xC8, p.toNat, f.code * 4, consumerCode c0⟩
  | .mma p acc f rm c0 => some ⟨0xC9, p.toNat, acc.toNat * 64 + f.code * 4 + rm.code, consumerCode c0⟩
  | .mmasp p acc f rm c0 => some ⟨0xCA, p.toNat, acc.toNat * 64 + f.code * 4 + rm.code, consumerCode c0⟩
  | .mmarow p acc f rm c0 => some ⟨0xCB, p.toNat, acc.toNat * 64 + f.code * 4 + rm.code, consumerCode c0⟩
  | .wedge c0 => some ⟨0xCC, 0, 0, consumerCode c0⟩
  | .prune p f t c0 => some ⟨0xD0, p.toNat, f.code * 4 + t.toNat * 2, consumerCode c0⟩
  | .nmhdr p c0 => some ⟨0xD1, p.toNat, 0, consumerCode c0⟩
  | .nmchk p c0 => some ⟨0xD2, p.toNat, 0, consumerCode c0⟩
  | .nmest p c0 => some ⟨0xD3, p.toNat, 0, consumerCode c0⟩
  | .scana p tree c0 => some ⟨0xD8, p.toNat, tree.toNat, consumerCode c0⟩
  | .scano p tree c0 => some ⟨0xD9, p.toNat, tree.toNat, consumerCode c0⟩
  | .isld p cam c0 => some ⟨0xDA, p.toNat, cam.toNat, consumerCode c0⟩
  | .isprb p cam c0 => some ⟨0xDB, p.toNat, cam.toNat, consumerCode c0⟩
  | .union p c0 => some ⟨0xDC, p.toNat, 0, consumerCode c0⟩
  | .mergek p f c0 => some ⟨0xDD, p.toNat, f.code * 4, consumerCode c0⟩
  | .fibh p c0 => some ⟨0xDE, p.toNat, 0, consumerCode c0⟩
  | .trap code => some (Parts.imm 0xE0 (code.toNat) (0))
  | .halt => some ⟨0xE1, 0, 0, 0⟩
  | .srd n c0 => some (Parts.imm 0xE2 (n.toNat) (consumerCode c0))
  | .swr n c0 => some (Parts.imm 0xE3 (n.toNat) (consumerCode c0))
  | .ptst c1 c0 => some ⟨0xE4, 0, consumerCode c1, consumerCode c0⟩
  | .pclr c1 c0 => some ⟨0xE5, 0, consumerCode c1, consumerCode c0⟩
  | .excrd c1 c0 => some ⟨0xE6, 0, consumerCode c1, consumerCode c0⟩
  | .bankk g file c0 => some ⟨0xE7, g.toNat, file.code, consumerCode c0⟩
  | .banko g file c0 => some ⟨0xE8, g.toNat, file.code, consumerCode c0⟩
  | .bankw g file c0 => some ⟨0xE9, g.toNat, file.code, consumerCode c0⟩
  | .tlbinv sys c0 => some ⟨0xEA, 0, (if sys then 384 else 320), consumerCode c0⟩
  | .perf n c0 => some (Parts.imm 0xEB (n.toNat) (consumerCode c0))
  | .cyc c1 c0 => some ⟨0xEC, 0, consumerCode c1, consumerCode c0⟩
  | .fend => some ⟨0xED, 0, 0, 0⟩
  | .launchToken _ => none
  | .hostRegisterWrite _ _ _ => none
  | .ingToken _ _ => none
  | .egDataRead _ => none
  | .ownerWrite _ _ => none
  | .rcvGo => none
  | .hostMemoryRead _ _ => none
  | .hostMemoryWrite _ _ => none
  | .launchDispatch => none
  | .regionGrant _ => none
  | .seedInject _ => none
  | .preload _ _ _ => none
  | .firingStart _ _ => none
  | .firingEnd _ _ => none
  | .tokenArrive _ => none
  | .divideComplete _ _ => none
  | .ageCounterExpiry _ _ _ => none
  | .benchClockStop _ => none
  | .bankIdleTimeout _ _ => none
  | .bankWakeDone _ _ => none
  | .spadBankIdleTimeout _ => none
  | .spadBankWakeDone _ => none
  | .spallArrive _ => none
  | .memoryReply _ _ _ => none
  | .pageWalk _ _ _ => none
  | .atomicUnitApply _ _ _ => none
  | .copyrLineUpdate _ _ => none
  | .copySrcComplete _ _ => none
  | .copyVisComplete _ _ => none
  | .commandIssue _ => none
  | .commandRetire _ => none
  | .matrixOpStart _ _ => none
  | .matrixOpComplete _ _ => none
  | .collComplete _ => none
  | .seamRemoteEntry _ _ _ _ => none
  | .phaseNotify _ _ _ => none
  | .updApply _ => none
  | .workQueueApply _ => none
  | .drainedReport _ => none
  | .liftWedge _ => none
  | .contextRetire _ => none
  | .hangLimitExpiry _ => none
  | .faultHoldExpiry _ => none
  | .switchGraceExpiry _ => none
  | .tswAtReached => none
  | .tswCtlWrite _ => none
  | .resumeWrite _ => none
  | .fltCauseClear _ => none
  | .switchPoint _ => none
  | .park _ => none
  | .regionResume _ => none
  | .softError _ => none
  | .deviceStart _ _ _ => none
  | .firmwareReady => none
  | .readyTimeout => none
  | .recoveryTimeout => none
  | .droopTrip _ => none
  | .droopRelease _ => none
  | .currentCeilingTrip => none
  | .currentCeilingRelease => none
  | .thermalTrip => none
  | .thermalRelease => none
  | .watchdogExpiry => none
  | .budgetChange _ => none
  | .modCap _ => none
  | .dbgReq _ => none
  | .sidebandRegisterWrite _ _ _ => none
  | .firmwareUpdate _ => none
  | .attestationQuote _ => none
  | .returnCommand _ => none
  | .debugRead _ => none
  | .sidebandWake => none
  | .i3cAddressTimeout => none
  | .firmwareFailureReport => none
  | .packageSleepEntry => none
  | .supplyLoss => none
  | .tlbinvRemoteBroadcast _ _ => none

/-- The word of an instruction; none for a step that has no encoding. -/
def encode (i : Instr) : Option Word := (encodeParts i).map Parts.word

end Sys2Proof
end

