-- ==== Sys2Proof/Machine/Signature.lean ====
section
/-! DEFINITION. What each instruction accepts and emits, from the tables of R35 to R40: the fields a consumer slot may name,
marked true where they take a digit stream, the consumer slots, and the opcode. -/

namespace Sys2Proof

/-- The fields that an opcode accepts (R34), in the order l, r, p, a; true marks a digit stream. -/
def Instr.accepts (i : Instr) : List (FieldSel × Bool) :=
  match i with
  | .nop => []
  | .mov _ _ => [(.l, false)]
  | .const _ _ => [(.l, false)]
  | .shlor _ _ => [(.l, false)]
  | .add _ _ => [(.l, false), (.r, false)]
  | .addi _ _ => [(.l, false)]
  | .sub _ _ => [(.l, false), (.r, false)]
  | .neg _ _ => [(.l, false)]
  | .mul _ _ => [(.l, false), (.r, false)]
  | .mulh _ _ => [(.l, false), (.r, false)]
  | .mulhu _ _ => [(.l, false), (.r, false)]
  | .div _ _ => [(.l, false), (.r, false)]
  | .divu _ _ => [(.l, false), (.r, false)]
  | .rem _ _ => [(.l, false), (.r, false)]
  | .remu _ _ => [(.l, false), (.r, false)]
  | .muli _ _ => [(.l, false)]
  | .and _ _ => [(.l, false), (.r, false)]
  | .andi _ _ => [(.l, false)]
  | .or _ _ => [(.l, false), (.r, false)]
  | .ori _ _ => [(.l, false)]
  | .xor _ _ => [(.l, false), (.r, false)]
  | .xori _ _ => [(.l, false)]
  | .shl _ _ => [(.l, false), (.r, false)]
  | .shli _ _ => [(.l, false)]
  | .shr _ _ => [(.l, false), (.r, false)]
  | .shri _ _ => [(.l, false)]
  | .sar _ _ => [(.l, false), (.r, false)]
  | .sari _ _ => [(.l, false)]
  | .clz _ _ => [(.l, false)]
  | .popc _ _ => [(.l, false)]
  | .brev _ _ => [(.l, false)]
  | .bfx _ _ _ _ => [(.l, false)]
  | .min _ _ => [(.l, false), (.r, false)]
  | .max _ _ => [(.l, false), (.r, false)]
  | .minu _ _ => [(.l, false), (.r, false)]
  | .maxu _ _ => [(.l, false), (.r, false)]
  | .cmp _ _ _ => [(.l, false), (.r, false)]
  | .cmpi _ _ _ => [(.l, false)]
  | .sel _ _ => [(.l, false), (.r, false), (.p, false)]
  | .test _ _ => [(.l, false), (.r, false)]
  | .steer _ _ => [(.l, false), (.p, false)]
  | .merge _ _ => [(.l, false), (.r, false), (.p, false)]
  | .gate _ _ _ => [(.l, false), (.p, false)]
  | .pand _ _ => [(.l, false), (.r, false)]
  | .por _ _ => [(.l, false), (.r, false)]
  | .pnot _ _ => [(.l, false)]
  | .pxor _ _ => [(.l, false), (.r, false)]
  | .drop => [(.l, false)]
  | .cnt _ _ => [(.l, false)]
  | .cntx _ _ => [(.l, false), (.r, false)]
  | .accum _ _ => [(.l, false), (.p, false)]
  | .fireno _ _ => [(.l, false)]
  | .cellid _ _ => [(.l, false)]
  | .laneid _ _ => [(.l, false)]
  | .rd _ _ _ => [(.l, false)]
  | .wr _ _ => [(.l, false)]
  | .rdp _ _ _ => [(.l, false)]
  | .wrp _ _ => [(.l, false)]
  | .dadd _ _ _ _ => [(.l, true), (.r, true)]
  | .dsub _ _ _ _ => [(.l, true), (.r, true)]
  | .dmul _ _ _ _ => [(.l, true), (.r, true)]
  | .dfma _ _ _ _ => [(.l, true), (.r, true), (.a, true)]
  | .dfms _ _ _ _ => [(.l, true), (.r, true), (.a, true)]
  | .dmac _ _ => [(.l, true)]
  | .ddiv _ _ _ _ => [(.l, true), (.r, true)]
  | .dsqrt _ _ _ _ => [(.l, true)]
  | .drsqrt _ _ _ _ => [(.l, true)]
  | .drcp _ _ _ _ => [(.l, true)]
  | .dexp2 _ _ _ _ => [(.l, true)]
  | .dlog2 _ _ _ _ => [(.l, true)]
  | .dscale _ _ _ _ => [(.l, true), (.r, false)]
  | .dneg _ _ _ _ => [(.l, true)]
  | .dabs _ _ _ _ => [(.l, true)]
  | .dcvt _ _ _ _ => [(.l, true)]
  | .dmin _ _ _ _ => [(.l, true), (.r, true)]
  | .dmax _ _ _ _ => [(.l, true), (.r, true)]
  | .drelu _ _ _ _ => [(.l, true)]
  | .dclamp _ _ _ _ => [(.l, true), (.r, true), (.a, true)]
  | .dthr _ _ _ _ => [(.l, true), (.r, true)]
  | .dcmp _ _ _ => [(.l, true), (.r, true)]
  | .dsel _ _ _ _ => [(.l, true), (.r, true), (.p, true)]
  | .dkill _ _ _ _ => [(.l, true), (.p, true)]
  | .dtrunc _ _ _ _ => [(.l, true)]
  | .dnorm _ _ _ _ => [(.l, true)]
  | .drep _ _ _ => [(.l, false)]
  | .dxtr _ _ _ _ => [(.l, true), (.r, false)]
  | .dlane _ _ _ _ => [(.l, true), (.r, false)]
  | .dshuf _ _ _ _ => [(.l, true), (.r, false)]
  | .drot _ _ _ _ => [(.l, true), (.r, false)]
  | .dred _ _ _ _ => [(.l, true)]
  | .dbcast _ _ _ _ => [(.l, true)]
  | .dacc _ => [(.l, true)]
  | .daccrd _ _ _ _ => [(.l, false)]
  | .daccz _ => [(.l, false)]
  | .dwst _ => [(.l, true)]
  | .drdv _ _ _ _ => [(.l, false)]
  | .dwrv _ _ _ _ => [(.l, true)]
  | .recv _ _ _ _ => []
  | .peek _ _ _ _ => []
  | .send _ _ => [(.l, false)]
  | .advc _ _ => [(.l, false)]
  | .advp _ _ => [(.l, false)]
  | .chst _ _ _ => [(.l, false)]
  | .agb _ => [(.l, false), (.r, false)]
  | .agl _ _ => [(.l, false), (.r, false)]
  | .agfmt _ _ => [(.l, false)]
  | .aggo _ _ => [(.l, false)]
  | .aggat _ _ _ => [(.l, false)]
  | .agsct _ _ _ => [(.l, false), (.r, false)]
  | .agctr _ _ _ => [(.l, false)]
  | .retry _ _ => [(.l, false)]
  | .lds _ _ _ _ => [(.l, false)]
  | .sts _ _ _ => [(.l, false), (.r, false)]
  | .ldv _ _ _ _ => [(.l, false), (.r, false)]
  | .stv _ _ _ => [(.l, false), (.r, false)]
  | .reclaim _ _ => [(.l, false)]
  | .pref _ _ _ => [(.l, false)]
  | .drain _ _ => [(.l, false)]
  | .win _ _ _ => [(.l, false), (.r, false)]
  | .copy _ _ _ => [(.l, false), (.r, false)]
  | .copyr _ _ _ _ _ => [(.l, false), (.r, false)]
  | .copyc _ _ _ _ => [(.l, false), (.r, false)]
  | .cplw _ _ => [(.l, false)]
  | .atom _ _ _ op _ => if op == .cas then [(.l, false), (.r, false), (.a, false)] else [(.l, false), (.r, false)]
  | .lda _ _ _ _ => [(.l, false)]
  | .stl _ _ _ _ => [(.l, false), (.r, false)]
  | .fence _ _ => [(.l, false)]
  | .own _ _ => [(.l, false), (.r, false)]
  | .upd _ => [(.l, false), (.r, false)]
  | .arrive _ _ _ => [(.l, false)]
  | .waitg _ _ _ => [(.l, false)]
  | .bar _ _ _ => [(.l, false)]
  | .quiet _ _ => [(.l, false)]
  | .lift => [(.l, false)]
  | .seamoPush _ _ _ => [(.l, false), (.r, false)]
  | .seamoPop _ _ _ => [(.l, false), (.r, false)]
  | .seamoStatus _ _ => [(.l, false), (.r, false)]
  | .coll _ _ _ _ _ => [(.l, false), (.r, false)]
  | .wqadd _ _ _ _ => [(.l, false), (.r, false)]
  | .wqtake _ _ _ _ => [(.l, false)]
  | .wqclose _ _ _ _ => [(.l, false)]
  | .cmdMatrix _ _ => [(.l, false), (.r, false)]
  | .cmdBulk _ _ => [(.l, false), (.r, false)]
  | .cmdCollective _ _ => [(.l, false), (.r, false)]
  | .cmdLift _ _ => [(.l, false), (.r, false)]
  | .cmdChild _ _ => [(.l, false), (.r, false)]
  | .cmdwait _ _ _ => [(.l, false)]
  | .egress _ _ _ => [(.l, false), (.r, false)]
  | .ingress _ _ _ => [(.l, false)]
  | .syscfg _ _ _ => [(.l, false), (.r, false)]
  | .mma _ _ _ _ _ => [(.l, false), (.r, false)]
  | .mmasp _ _ _ _ _ => [(.l, false), (.r, false)]
  | .mmarow _ _ _ _ _ => [(.l, false), (.r, false)]
  | .wedge _ => [(.l, false)]
  | .prune _ _ _ _ => [(.l, false), (.r, false)]
  | .nmhdr _ _ => [(.l, false), (.r, false)]
  | .nmchk _ _ => [(.l, false)]
  | .nmest _ _ => [(.l, false)]
  | .scana _ _ _ => [(.l, false), (.r, false)]
  | .scano _ _ _ => [(.l, false), (.r, false)]
  | .isld _ _ _ => [(.l, false)]
  | .isprb _ _ _ => [(.l, false)]
  | .union _ _ => [(.l, false), (.r, false)]
  | .mergek _ _ _ => [(.l, false), (.r, false)]
  | .fibh _ _ => [(.l, false)]
  | .trap _ => [(.l, false)]
  | .halt => [(.l, false)]
  | .srd _ _ => [(.l, false)]
  | .swr _ _ => [(.l, false)]
  | .ptst _ _ => [(.l, false)]
  | .pclr _ _ => [(.l, false)]
  | .excrd _ _ => [(.l, false)]
  | .bankk _ _ _ => [(.l, false)]
  | .banko _ _ _ => [(.l, false)]
  | .bankw _ _ _ => [(.l, false)]
  | .tlbinv _ _ => [(.l, false)]
  | .perf _ _ => [(.l, false)]
  | .cyc _ _ => [(.l, false)]
  | .fend => [(.l, false)]
  | .launchToken _ => []
  | .hostRegisterWrite _ _ _ => []
  | .ingToken _ _ => []
  | .egDataRead _ => []
  | .ownerWrite _ _ => []
  | .rcvGo => []
  | .hostMemoryRead _ _ => []
  | .hostMemoryWrite _ _ => []
  | .launchDispatch => []
  | .regionGrant _ => []
  | .seedInject _ => []
  | .preload _ _ _ => []
  | .firingStart _ _ => []
  | .firingEnd _ _ => []
  | .tokenArrive _ => []
  | .divideComplete _ _ => []
  | .ageCounterExpiry _ _ _ => []
  | .benchClockStop _ => []
  | .bankIdleTimeout _ _ => []
  | .bankWakeDone _ _ => []
  | .spadBankIdleTimeout _ => []
  | .spadBankWakeDone _ => []
  | .spallArrive _ => []
  | .memoryReply _ _ _ => []
  | .pageWalk _ _ _ => []
  | .atomicUnitApply _ _ _ => []
  | .copyrLineUpdate _ _ => []
  | .copySrcComplete _ _ => []
  | .copyVisComplete _ _ => []
  | .commandIssue _ => []
  | .commandRetire _ => []
  | .matrixOpStart _ _ => []
  | .matrixOpComplete _ _ => []
  | .collComplete _ => []
  | .seamRemoteEntry _ _ _ _ => []
  | .phaseNotify _ _ _ => []
  | .updApply _ => []
  | .workQueueApply _ => []
  | .drainedReport _ => []
  | .liftWedge _ => []
  | .contextRetire _ => []
  | .hangLimitExpiry _ => []
  | .faultHoldExpiry _ => []
  | .switchGraceExpiry _ => []
  | .tswAtReached => []
  | .tswCtlWrite _ => []
  | .resumeWrite _ => []
  | .fltCauseClear _ => []
  | .switchPoint _ => []
  | .park _ => []
  | .regionResume _ => []
  | .softError _ => []
  | .deviceStart _ _ _ => []
  | .firmwareReady => []
  | .readyTimeout => []
  | .recoveryTimeout => []
  | .droopTrip _ => []
  | .droopRelease _ => []
  | .currentCeilingTrip => []
  | .currentCeilingRelease => []
  | .thermalTrip => []
  | .thermalRelease => []
  | .watchdogExpiry => []
  | .budgetChange _ => []
  | .modCap _ => []
  | .dbgReq _ => []
  | .sidebandRegisterWrite _ _ _ => []
  | .firmwareUpdate _ => []
  | .attestationQuote _ => []
  | .returnCommand _ => []
  | .debugRead _ => []
  | .sidebandWake => []
  | .i3cAddressTimeout => []
  | .firmwareFailureReport => []
  | .packageSleepEntry => []
  | .supplyLoss => []
  | .tlbinvRemoteBroadcast _ _ => []

/-- The consumer slots of an instruction, C0 before C1 (R34). -/
def Instr.consumers (i : Instr) : List Consumer :=
  match i with
  | .nop => []
  | .mov c1 c0 => [c0, c1]
  | .const _ c0 => [c0]
  | .shlor _ c0 => [c0]
  | .add c1 c0 => [c0, c1]
  | .addi _ c0 => [c0]
  | .sub c1 c0 => [c0, c1]
  | .neg c1 c0 => [c0, c1]
  | .mul c1 c0 => [c0, c1]
  | .mulh c1 c0 => [c0, c1]
  | .mulhu c1 c0 => [c0, c1]
  | .div c1 c0 => [c0, c1]
  | .divu c1 c0 => [c0, c1]
  | .rem c1 c0 => [c0, c1]
  | .remu c1 c0 => [c0, c1]
  | .muli _ c0 => [c0]
  | .and c1 c0 => [c0, c1]
  | .andi _ c0 => [c0]
  | .or c1 c0 => [c0, c1]
  | .ori _ c0 => [c0]
  | .xor c1 c0 => [c0, c1]
  | .xori _ c0 => [c0]
  | .shl c1 c0 => [c0, c1]
  | .shli _ c0 => [c0]
  | .shr c1 c0 => [c0, c1]
  | .shri _ c0 => [c0]
  | .sar c1 c0 => [c0, c1]
  | .sari _ c0 => [c0]
  | .clz c1 c0 => [c0, c1]
  | .popc c1 c0 => [c0, c1]
  | .brev c1 c0 => [c0, c1]
  | .bfx _ _ _ c0 => [c0]
  | .min c1 c0 => [c0, c1]
  | .max c1 c0 => [c0, c1]
  | .minu c1 c0 => [c0, c1]
  | .maxu c1 c0 => [c0, c1]
  | .cmp _ c1 c0 => [c0, c1]
  | .cmpi _ _ c0 => [c0]
  | .sel c1 c0 => [c0, c1]
  | .test c1 c0 => [c0, c1]
  | .steer c1 c0 => [c0, c1]
  | .merge c1 c0 => [c0, c1]
  | .gate _ c1 c0 => [c0, c1]
  | .pand c1 c0 => [c0, c1]
  | .por c1 c0 => [c0, c1]
  | .pnot c1 c0 => [c0, c1]
  | .pxor c1 c0 => [c0, c1]
  | .drop => []
  | .cnt _ c0 => [c0]
  | .cntx c1 c0 => [c0, c1]
  | .accum c1 c0 => [c0, c1]
  | .fireno c1 c0 => [c0, c1]
  | .cellid c1 c0 => [c0, c1]
  | .laneid c1 c0 => [c0, c1]
  | .rd _ _ c0 => [c0]
  | .wr _ c0 => [c0]
  | .rdp _ _ c0 => [c0]
  | .wrp _ c0 => [c0]
  | .dadd _ _ c1 c0 => [c0, c1]
  | .dsub _ _ c1 c0 => [c0, c1]
  | .dmul _ _ c1 c0 => [c0, c1]
  | .dfma _ _ c1 c0 => [c0, c1]
  | .dfms _ _ c1 c0 => [c0, c1]
  | .dmac _ _ => []
  | .ddiv _ _ c1 c0 => [c0, c1]
  | .dsqrt _ _ c1 c0 => [c0, c1]
  | .drsqrt _ _ c1 c0 => [c0, c1]
  | .drcp _ _ c1 c0 => [c0, c1]
  | .dexp2 _ _ c1 c0 => [c0, c1]
  | .dlog2 _ _ c1 c0 => [c0, c1]
  | .dscale _ _ c1 c0 => [c0, c1]
  | .dneg _ _ c1 c0 => [c0, c1]
  | .dabs _ _ c1 c0 => [c0, c1]
  | .dcvt _ _ c1 c0 => [c0, c1]
  | .dmin _ _ c1 c0 => [c0, c1]
  | .dmax _ _ c1 c0 => [c0, c1]
  | .drelu _ _ c1 c0 => [c0, c1]
  | .dclamp _ _ c1 c0 => [c0, c1]
  | .dthr _ _ c1 c0 => [c0, c1]
  | .dcmp _ c1 c0 => [c0, c1]
  | .dsel _ _ c1 c0 => [c0, c1]
  | .dkill _ _ c1 c0 => [c0, c1]
  | .dtrunc _ _ c1 c0 => [c0, c1]
  | .dnorm _ _ c1 c0 => [c0, c1]
  | .drep _ c1 c0 => [c0, c1]
  | .dxtr _ _ c1 c0 => [c0, c1]
  | .dlane _ _ c1 c0 => [c0, c1]
  | .dshuf _ _ c1 c0 => [c0, c1]
  | .drot _ _ c1 c0 => [c0, c1]
  | .dred _ _ c1 c0 => [c0, c1]
  | .dbcast _ _ c1 c0 => [c0, c1]
  | .dacc _ => []
  | .daccrd _ _ _ c0 => [c0]
  | .daccz _ => []
  | .dwst _ => []
  | .drdv _ _ _ c0 => [c0]
  | .dwrv _ _ _ c0 => [c0]
  | .recv _ _ _ c0 => [c0]
  | .peek _ _ _ c0 => [c0]
  | .send _ _ => []
  | .advc _ _ => []
  | .advp _ _ => []
  | .chst _ _ c0 => [c0]
  | .agb _ => []
  | .agl _ _ => []
  | .agfmt _ _ => []
  | .aggo _ c0 => [c0]
  | .aggat _ _ c0 => [c0]
  | .agsct _ _ c0 => [c0]
  | .agctr _ _ c0 => [c0]
  | .retry _ c0 => [c0]
  | .lds _ _ _ c0 => [c0]
  | .sts _ _ c0 => [c0]
  | .ldv _ _ _ c0 => [c0]
  | .stv _ _ c0 => [c0]
  | .reclaim _ c0 => [c0]
  | .pref _ _ _ => []
  | .drain _ c0 => [c0]
  | .win _ _ c0 => [c0]
  | .copy _ _ c0 => [c0]
  | .copyr _ _ _ _ c0 => [c0]
  | .copyc _ _ _ c0 => [c0]
  | .cplw _ c0 => [c0]
  | .atom _ _ _ _ c0 => [c0]
  | .lda _ _ _ c0 => [c0]
  | .stl _ _ _ c0 => [c0]
  | .fence _ c0 => [c0]
  | .own _ _ => []
  | .upd _ => []
  | .arrive _ _ c0 => [c0]
  | .waitg _ _ c0 => [c0]
  | .bar _ _ c0 => [c0]
  | .quiet _ c0 => [c0]
  | .lift => []
  | .seamoPush _ _ c0 => [c0]
  | .seamoPop _ _ c0 => [c0]
  | .seamoStatus _ c0 => [c0]
  | .coll _ _ _ _ c0 => [c0]
  | .wqadd _ _ _ c0 => [c0]
  | .wqtake _ _ _ c0 => [c0]
  | .wqclose _ _ _ c0 => [c0]
  | .cmdMatrix _ c0 => [c0]
  | .cmdBulk _ c0 => [c0]
  | .cmdCollective _ c0 => [c0]
  | .cmdLift _ c0 => [c0]
  | .cmdChild _ c0 => [c0]
  | .cmdwait _ _ c0 => [c0]
  | .egress _ _ c0 => [c0]
  | .ingress _ _ c0 => [c0]
  | .syscfg _ _ c0 => [c0]
  | .mma _ _ _ _ c0 => [c0]
  | .mmasp _ _ _ _ c0 => [c0]
  | .mmarow _ _ _ _ c0 => [c0]
  | .wedge c0 => [c0]
  | .prune _ _ _ c0 => [c0]
  | .nmhdr _ c0 => [c0]
  | .nmchk _ c0 => [c0]
  | .nmest _ c0 => [c0]
  | .scana _ _ c0 => [c0]
  | .scano _ _ c0 => [c0]
  | .isld _ _ c0 => [c0]
  | .isprb _ _ c0 => [c0]
  | .union _ c0 => [c0]
  | .mergek _ _ c0 => [c0]
  | .fibh _ c0 => [c0]
  | .trap _ => []
  | .halt => []
  | .srd _ c0 => [c0]
  | .swr _ c0 => [c0]
  | .ptst c1 c0 => [c0, c1]
  | .pclr c1 c0 => [c0, c1]
  | .excrd c1 c0 => [c0, c1]
  | .bankk _ _ c0 => [c0]
  | .banko _ _ c0 => [c0]
  | .bankw _ _ c0 => [c0]
  | .tlbinv _ c0 => [c0]
  | .perf _ c0 => [c0]
  | .cyc c1 c0 => [c0, c1]
  | .fend => []
  | .launchToken _ => []
  | .hostRegisterWrite _ _ _ => []
  | .ingToken _ _ => []
  | .egDataRead _ => []
  | .ownerWrite _ _ => []
  | .rcvGo => []
  | .hostMemoryRead _ _ => []
  | .hostMemoryWrite _ _ => []
  | .launchDispatch => []
  | .regionGrant _ => []
  | .seedInject _ => []
  | .preload _ _ _ => []
  | .firingStart _ _ => []
  | .firingEnd _ _ => []
  | .tokenArrive _ => []
  | .divideComplete _ _ => []
  | .ageCounterExpiry _ _ _ => []
  | .benchClockStop _ => []
  | .bankIdleTimeout _ _ => []
  | .bankWakeDone _ _ => []
  | .spadBankIdleTimeout _ => []
  | .spadBankWakeDone _ => []
  | .spallArrive _ => []
  | .memoryReply _ _ _ => []
  | .pageWalk _ _ _ => []
  | .atomicUnitApply _ _ _ => []
  | .copyrLineUpdate _ _ => []
  | .copySrcComplete _ _ => []
  | .copyVisComplete _ _ => []
  | .commandIssue _ => []
  | .commandRetire _ => []
  | .matrixOpStart _ _ => []
  | .matrixOpComplete _ _ => []
  | .collComplete _ => []
  | .seamRemoteEntry _ _ _ _ => []
  | .phaseNotify _ _ _ => []
  | .updApply _ => []
  | .workQueueApply _ => []
  | .drainedReport _ => []
  | .liftWedge _ => []
  | .contextRetire _ => []
  | .hangLimitExpiry _ => []
  | .faultHoldExpiry _ => []
  | .switchGraceExpiry _ => []
  | .tswAtReached => []
  | .tswCtlWrite _ => []
  | .resumeWrite _ => []
  | .fltCauseClear _ => []
  | .switchPoint _ => []
  | .park _ => []
  | .regionResume _ => []
  | .softError _ => []
  | .deviceStart _ _ _ => []
  | .firmwareReady => []
  | .readyTimeout => []
  | .recoveryTimeout => []
  | .droopTrip _ => []
  | .droopRelease _ => []
  | .currentCeilingTrip => []
  | .currentCeilingRelease => []
  | .thermalTrip => []
  | .thermalRelease => []
  | .watchdogExpiry => []
  | .budgetChange _ => []
  | .modCap _ => []
  | .dbgReq _ => []
  | .sidebandRegisterWrite _ _ _ => []
  | .firmwareUpdate _ => []
  | .attestationQuote _ => []
  | .returnCommand _ => []
  | .debugRead _ => []
  | .sidebandWake => []
  | .i3cAddressTimeout => []
  | .firmwareFailureReport => []
  | .packageSleepEntry => []
  | .supplyLoss => []
  | .tlbinvRemoteBroadcast _ _ => []

/-- The opcode of an instruction, 0 for a step without an encoding (R35 to R40). -/
def Instr.opcode (i : Instr) : Nat :=
  match i with
  | .nop => 0x00
  | .mov _ _ => 0x01
  | .const _ _ => 0x02
  | .shlor _ _ => 0x03
  | .add _ _ => 0x04
  | .addi _ _ => 0x05
  | .sub _ _ => 0x06
  | .neg _ _ => 0x07
  | .mul _ _ => 0x08
  | .mulh _ _ => 0x09
  | .mulhu _ _ => 0x0A
  | .div _ _ => 0x0B
  | .divu _ _ => 0x0C
  | .rem _ _ => 0x0D
  | .remu _ _ => 0x0E
  | .muli _ _ => 0x0F
  | .and _ _ => 0x10
  | .andi _ _ => 0x11
  | .or _ _ => 0x12
  | .ori _ _ => 0x13
  | .xor _ _ => 0x14
  | .xori _ _ => 0x15
  | .shl _ _ => 0x16
  | .shli _ _ => 0x17
  | .shr _ _ => 0x18
  | .shri _ _ => 0x19
  | .sar _ _ => 0x1A
  | .sari _ _ => 0x1B
  | .clz _ _ => 0x1C
  | .popc _ _ => 0x1D
  | .brev _ _ => 0x1E
  | .bfx _ _ _ _ => 0x1F
  | .min _ _ => 0x20
  | .max _ _ => 0x21
  | .minu _ _ => 0x22
  | .maxu _ _ => 0x23
  | .cmp _ _ _ => 0x24
  | .cmpi _ _ _ => 0x25
  | .sel _ _ => 0x26
  | .test _ _ => 0x27
  | .steer _ _ => 0x28
  | .merge _ _ => 0x29
  | .gate _ _ _ => 0x2A
  | .pand _ _ => 0x2B
  | .por _ _ => 0x2C
  | .pnot _ _ => 0x2D
  | .pxor _ _ => 0x2E
  | .drop => 0x2F
  | .cnt _ _ => 0x30
  | .cntx _ _ => 0x31
  | .accum _ _ => 0x32
  | .fireno _ _ => 0x33
  | .cellid _ _ => 0x34
  | .laneid _ _ => 0x35
  | .rd _ _ _ => 0x38
  | .wr _ _ => 0x39
  | .rdp _ _ _ => 0x3A
  | .wrp _ _ => 0x3B
  | .dadd _ _ _ _ => 0x40
  | .dsub _ _ _ _ => 0x41
  | .dmul _ _ _ _ => 0x42
  | .dfma _ _ _ _ => 0x43
  | .dfms _ _ _ _ => 0x44
  | .dmac _ _ => 0x45
  | .ddiv _ _ _ _ => 0x46
  | .dsqrt _ _ _ _ => 0x47
  | .drsqrt _ _ _ _ => 0x48
  | .drcp _ _ _ _ => 0x49
  | .dexp2 _ _ _ _ => 0x4A
  | .dlog2 _ _ _ _ => 0x4B
  | .dscale _ _ _ _ => 0x4C
  | .dneg _ _ _ _ => 0x4D
  | .dabs _ _ _ _ => 0x4E
  | .dcvt _ _ _ _ => 0x4F
  | .dmin _ _ _ _ => 0x50
  | .dmax _ _ _ _ => 0x51
  | .drelu _ _ _ _ => 0x52
  | .dclamp _ _ _ _ => 0x53
  | .dthr _ _ _ _ => 0x54
  | .dcmp _ _ _ => 0x55
  | .dsel _ _ _ _ => 0x56
  | .dkill _ _ _ _ => 0x57
  | .dtrunc _ _ _ _ => 0x58
  | .dnorm _ _ _ _ => 0x59
  | .drep _ _ _ => 0x60
  | .dxtr _ _ _ _ => 0x61
  | .dlane _ _ _ _ => 0x62
  | .dshuf _ _ _ _ => 0x63
  | .drot _ _ _ _ => 0x64
  | .dred _ _ _ _ => 0x65
  | .dbcast _ _ _ _ => 0x66
  | .dacc _ => 0x68
  | .daccrd _ _ _ _ => 0x69
  | .daccz _ => 0x6A
  | .dwst _ => 0x6B
  | .drdv _ _ _ _ => 0x70
  | .dwrv _ _ _ _ => 0x71
  | .recv _ _ _ _ => 0x80
  | .peek _ _ _ _ => 0x81
  | .send _ _ => 0x82
  | .advc _ _ => 0x83
  | .advp _ _ => 0x84
  | .chst _ _ _ => 0x85
  | .agb _ => 0x90
  | .agl _ _ => 0x91
  | .agfmt _ _ => 0x92
  | .aggo _ _ => 0x93
  | .aggat _ _ _ => 0x94
  | .agsct _ _ _ => 0x95
  | .agctr _ _ _ => 0x96
  | .retry _ _ => 0x97
  | .lds _ _ _ _ => 0x98
  | .sts _ _ _ => 0x99
  | .ldv _ _ _ _ => 0x9A
  | .stv _ _ _ => 0x9B
  | .reclaim _ _ => 0x9C
  | .pref _ _ _ => 0x9D
  | .drain _ _ => 0x9E
  | .win _ _ _ => 0x9F
  | .copy _ _ _ => 0xA0
  | .copyr _ _ _ _ _ => 0xA1
  | .copyc _ _ _ _ => 0xA2
  | .cplw _ _ => 0xA3
  | .atom _ _ _ _ _ => 0xB0
  | .lda _ _ _ _ => 0xB1
  | .stl _ _ _ _ => 0xB2
  | .fence _ _ => 0xB3
  | .own _ _ => 0xB4
  | .upd _ => 0xB5
  | .arrive _ _ _ => 0xB6
  | .waitg _ _ _ => 0xB7
  | .bar _ _ _ => 0xB8
  | .quiet _ _ => 0xB9
  | .lift => 0xBA
  | .seamoPush _ _ _ => 0xBB
  | .seamoPop _ _ _ => 0xBB
  | .seamoStatus _ _ => 0xBB
  | .coll _ _ _ _ _ => 0xBC
  | .wqadd _ _ _ _ => 0xBD
  | .wqtake _ _ _ _ => 0xBE
  | .wqclose _ _ _ _ => 0xBF
  | .cmdMatrix _ _ => 0xC0
  | .cmdBulk _ _ => 0xC0
  | .cmdCollective _ _ => 0xC0
  | .cmdLift _ _ => 0xC0
  | .cmdChild _ _ => 0xC0
  | .cmdwait _ _ _ => 0xC1
  | .egress _ _ _ => 0xC2
  | .ingress _ _ _ => 0xC3
  | .syscfg _ _ _ => 0xC8
  | .mma _ _ _ _ _ => 0xC9
  | .mmasp _ _ _ _ _ => 0xCA
  | .mmarow _ _ _ _ _ => 0xCB
  | .wedge _ => 0xCC
  | .prune _ _ _ _ => 0xD0
  | .nmhdr _ _ => 0xD1
  | .nmchk _ _ => 0xD2
  | .nmest _ _ => 0xD3
  | .scana _ _ _ => 0xD8
  | .scano _ _ _ => 0xD9
  | .isld _ _ _ => 0xDA
  | .isprb _ _ _ => 0xDB
  | .union _ _ => 0xDC
  | .mergek _ _ _ => 0xDD
  | .fibh _ _ => 0xDE
  | .trap _ => 0xE0
  | .halt => 0xE1
  | .srd _ _ => 0xE2
  | .swr _ _ => 0xE3
  | .ptst _ _ => 0xE4
  | .pclr _ _ => 0xE5
  | .excrd _ _ => 0xE6
  | .bankk _ _ _ => 0xE7
  | .banko _ _ _ => 0xE8
  | .bankw _ _ _ => 0xE9
  | .tlbinv _ _ => 0xEA
  | .perf _ _ => 0xEB
  | .cyc _ _ => 0xEC
  | .fend => 0xED
  | .launchToken _ => 0
  | .hostRegisterWrite _ _ _ => 0
  | .ingToken _ _ => 0
  | .egDataRead _ => 0
  | .ownerWrite _ _ => 0
  | .rcvGo => 0
  | .hostMemoryRead _ _ => 0
  | .hostMemoryWrite _ _ => 0
  | .launchDispatch => 0
  | .regionGrant _ => 0
  | .seedInject _ => 0
  | .preload _ _ _ => 0
  | .firingStart _ _ => 0
  | .firingEnd _ _ => 0
  | .tokenArrive _ => 0
  | .divideComplete _ _ => 0
  | .ageCounterExpiry _ _ _ => 0
  | .benchClockStop _ => 0
  | .bankIdleTimeout _ _ => 0
  | .bankWakeDone _ _ => 0
  | .spadBankIdleTimeout _ => 0
  | .spadBankWakeDone _ => 0
  | .spallArrive _ => 0
  | .memoryReply _ _ _ => 0
  | .pageWalk _ _ _ => 0
  | .atomicUnitApply _ _ _ => 0
  | .copyrLineUpdate _ _ => 0
  | .copySrcComplete _ _ => 0
  | .copyVisComplete _ _ => 0
  | .commandIssue _ => 0
  | .commandRetire _ => 0
  | .matrixOpStart _ _ => 0
  | .matrixOpComplete _ _ => 0
  | .collComplete _ => 0
  | .seamRemoteEntry _ _ _ _ => 0
  | .phaseNotify _ _ _ => 0
  | .updApply _ => 0
  | .workQueueApply _ => 0
  | .drainedReport _ => 0
  | .liftWedge _ => 0
  | .contextRetire _ => 0
  | .hangLimitExpiry _ => 0
  | .faultHoldExpiry _ => 0
  | .switchGraceExpiry _ => 0
  | .tswAtReached => 0
  | .tswCtlWrite _ => 0
  | .resumeWrite _ => 0
  | .fltCauseClear _ => 0
  | .switchPoint _ => 0
  | .park _ => 0
  | .regionResume _ => 0
  | .softError _ => 0
  | .deviceStart _ _ _ => 0
  | .firmwareReady => 0
  | .readyTimeout => 0
  | .recoveryTimeout => 0
  | .droopTrip _ => 0
  | .droopRelease _ => 0
  | .currentCeilingTrip => 0
  | .currentCeilingRelease => 0
  | .thermalTrip => 0
  | .thermalRelease => 0
  | .watchdogExpiry => 0
  | .budgetChange _ => 0
  | .modCap _ => 0
  | .dbgReq _ => 0
  | .sidebandRegisterWrite _ _ _ => 0
  | .firmwareUpdate _ => 0
  | .attestationQuote _ => 0
  | .returnCommand _ => 0
  | .debugRead _ => 0
  | .sidebandWake => 0
  | .i3cAddressTimeout => 0
  | .firmwareFailureReport => 0
  | .packageSleepEntry => 0
  | .supplyLoss => 0
  | .tlbinvRemoteBroadcast _ _ => 0

/-- Whether an instruction sits in slot 0 (R17). -/
def Instr.dataPlane (i : Instr) : Bool := decide (0x40 ≤ i.opcode) && decide (i.opcode < 0x80)

/-- Whether the consumer slots of an instruction carry a digit stream (R36): every data-plane opcode but DXTR and DWRV. -/
def Instr.emitsStream (i : Instr) : Bool := i.dataPlane && i.opcode != 0x61 && i.opcode != 0x71

end Sys2Proof
end

