-- ==== Sys2Proof/Config.lean ====
section
/-! DEFINITION. What the machine holds fixed: the free values, which the spec leaves open (constants without a body, so that
nothing can be proved of them), and the cryptographic standards that the spec names and does not restate. -/

namespace Sys2Proof.Config

/-- Bytes of a scratchpad segment that no write has reached since the segment became live: indexed by the epoch at which the
segment became live and by the physical address (R222; log 5). -/
opaque spadByte : Nat → Nat → Byte

/-- The value bits of a token or lane that a dead register or a dead segment delivers poisoned: indexed by a count and a lane
(R167, R169, R177; log 5). -/
opaque poisonWord : Nat → Nat → Word

/-- The digit position at which a lane settles when the spec does not fix the digit string: indexed by the execution and the
lane (R61, R189; log 9). -/
opaque settleAt : Nat → Nat → Nat

/-- Bits of 2^x and log2 x that the interval evaluation of the model has not separated, by operand (R62; log 10). -/
opaque transcendental : Nat → Nat → Int → Nat

/-- The 64-byte SHAKE256 digest of R370 (log 13). -/
opaque shake256 : List Byte → List Byte

/-- Whether an ML-DSA-65 signature (third argument) verifies on a message (second) under a public key (first) (R363; log 13). -/
opaque mlDsaVerify : List Byte → List Byte → List Byte → Bool

/-- The ML-DSA-65 signature of a message under the device identity key (R370; log 13). -/
opaque mlDsaSign : List Byte → List Byte

/-- The public key under which a return command must verify (R371; log 13). -/
opaque returnKey : List Byte

/-- Whether another member's seam is open and has room for an entry: indexed by the member, its seam and the cycle (R319; log 14). -/
opaque seamTakes : Nat → Nat → Nat → Bool

/-- The bytes of the boot ROM, which MEAS0 covers (R370; log 13). -/
opaque romBytes : List Byte

/-- The bytes of the fuses, which MEAS2 covers with SECSTATE, by the value of the rollback counter (R370; log 13). -/
opaque fuseBytes : Nat → List Byte

/-- The key hash in fuses (R364; log 13). -/
opaque keyHash : List Byte

/-- Whether the fuses mark the part provisioned-debug (R368; log 13). -/
opaque provisionedDebug : Bool

/-- The bytes of memory contents that package sleep loses: indexed by a count and the physical address (R371; log 5). -/
opaque lostByte : Nat → Nat → Byte

/-- The bytes of the private part of a save slot: indexed by the park and the offset (R344; log 5). -/
opaque saveByte : Nat → Nat → Byte

/-- Which line of a full slice of the last-level cache leaves: indexed by a count (R4, R215; log 12). -/
opaque llcVictim : Nat → Nat

/-- Which translation of a full TLB tile leaves: indexed by a count (R109, R237; log 12). -/
opaque tlbVictim : Nat → Nat

/-- Whether another member of the device group is present (R114; log 14). -/
opaque memberPresent : Nat → Bool

/-- Whether a member of the device group has acknowledged, by a cycle, the TLBINV broadcast of a stamp (R241; log 14). -/
opaque memberAcked : Nat → Nat → Nat → Bool

/-- What a sensor reads at a sample: 1 the hottest junction, 2 the power of the module (R369; log 40). -/
opaque sensor : Nat → Nat → BitVec 16

/-- The records of the launches that the device firmware makes once it is ready (R81, R363; log 52). -/
opaque firmwareLaunches : List (List Word)

end Sys2Proof.Config
end

