-- ==== Sys2Proof/Machine/Numbers.lean ====
section
/-! DEFINITION. The values of words and digit streams and the exact arithmetic on them: R51 to R69, R74, R75. A value is held
exactly; a node's result is rounded once. The five flags are bits [4:0] of R70: NV 16, DZ 8, OF 4, UF 2, NX 1. -/

namespace Sys2Proof

/-- A value: the classes of R59, with a finite nonzero value as (-1)^neg * m * 2^e, m odd. -/
inductive Val where
  | nan
  | inf (neg : Bool)
  | zero (neg : Bool)
  | fin (neg : Bool) (m : Nat) (e : Int)
  deriving DecidableEq, Repr

/-- Flag bits (R70). -/
def flagNV : Word := 16
def flagDZ : Word := 8
def flagOF : Word := 4
def flagUF : Word := 2
def flagNX : Word := 1

/-- The number of trailing zero bits of a nonzero number. -/
def trailing (m : Nat) : Nat := Nat.log2 (m ^^^ (m - 1))

/-- The value (-1)^neg * m * 2^e with m made odd; a zero keeps the sign. -/
def Val.mk (neg : Bool) (m : Nat) (e : Int) : Val :=
  if m = 0 then .zero neg else .fin neg (m / 2 ^ trailing m) (e + trailing m)

/-- The value of an integer; 0 is +0. -/
def Val.ofInt (i : Int) : Val := Val.mk (decide (i < 0)) i.natAbs 0

/-- The value of i * 2^e; 0 is +0. -/
def Val.ofScaled (i : Int) (e : Int) : Val := Val.mk (decide (i < 0)) i.natAbs e

/-- The sign of a value; NaN has none. -/
def Val.neg : Val → Bool
  | .nan => false
  | .inf n | .zero n | .fin n _ _ => n

/-- The negation of a value. -/
def Val.negate : Val → Val
  | .nan => .nan
  | .inf n => .inf !n
  | .zero n => .zero !n
  | .fin n m e => .fin (!n) m e

/-- The magnitude of a value (R187, DABS). -/
def Val.abs : Val → Val
  | .nan => .nan
  | .inf _ => .inf false
  | .zero _ => .zero false
  | .fin _ m e => .fin false m e

/-- Whether a value is NaN. -/
def Val.isNan : Val → Bool
  | .nan => true
  | .inf _ | .zero _ | .fin _ _ _ => false

/-- Whether a value is a zero. -/
def Val.isZero : Val → Bool
  | .zero _ => true
  | .nan | .inf _ | .fin _ _ _ => false

/-- Whether a value is finite and nonzero. -/
def Val.isFin : Val → Bool
  | .fin _ _ _ => true
  | .nan | .inf _ | .zero _ => false

/-- The truth of a stream operand used as a predicate (R188). -/
def Val.truth : Val → Bool
  | .nan | .zero _ => false
  | .inf _ | .fin _ _ _ => true

/-- A power of two times a value (R60). -/
def Val.scale (v : Val) (k : Int) : Val :=
  match v with
  | .fin n m e => .fin n m (e + k)
  | .nan | .inf _ | .zero _ => v

/-- The integer i with |v| = i * 2^q for q at most every exponent concerned; used for sums and comparisons. -/
def Val.at (v : Val) (q : Int) : Int :=
  match v with
  | .fin n m e => (if n then -1 else 1) * ((m * 2 ^ (e - q).toNat : Nat) : Int)
  | .nan | .inf _ | .zero _ => 0

/-- The exponent of a finite value, 0 for the other classes. -/
def Val.exp : Val → Int
  | .fin _ _ e => e
  | .nan | .inf _ | .zero _ => 0

/-- An exact result: a value, or with `more` a magnitude strictly between m * 2^e and (m + 1) * 2^e. -/
structure Exact where
  val : Val
  more : Bool
  deriving DecidableEq, Repr

/-- A result that is exactly a value. -/
def Exact.of (v : Val) : Exact := ⟨v, false⟩

/-- A binary floating-point format (R51 to R53, R74): significand bits, smallest normal exponent, the largest finite value as
top * 2^topExp, and whether it has infinities and a NaN. -/
structure FloatSpec where
  p : Nat
  emin : Int
  top : Nat
  topExp : Int
  hasInf : Bool
  hasNan : Bool
  deriving DecidableEq, Repr

/-- A format is a floating-point format or a range of integers (R51). -/
inductive NumSpec where
  | float (s : FloatSpec)
  | int (lo hi : Int)
  deriving DecidableEq, Repr

/-- The formats of R51 to R53. CODE4 has no value (R55); as a range it is that of its index. -/
def Fmt.spec : Fmt → NumSpec
  | .fp32 => .float ⟨24, -126, 2 ^ 24 - 1, 104, true, true⟩
  | .bf16 => .float ⟨8, -126, 255, 120, true, true⟩
  | .fp16 => .float ⟨11, -14, 2047, 5, true, true⟩
  | .e4m3 => .float ⟨4, -6, 14, 5, false, true⟩
  | .e5m2 => .float ⟨3, -14, 7, 13, true, true⟩
  | .e2m3 => .float ⟨4, 0, 15, -1, false, false⟩
  | .e3m2 => .float ⟨3, -2, 7, 2, false, false⟩
  | .e2m1 => .float ⟨2, 0, 3, 1, false, false⟩
  | .x => .float ⟨32, -1022, 2 ^ 32 - 1, 992, true, true⟩
  | .int8 => .int (-128) 127
  | .int32 => .int (-2147483648) 2147483647
  | .uint8 => .int 0 255
  | .int4 => .int (-8) 7
  | .code4 => .int 0 15

/-- ACC40 of R74. -/
def acc40 : FloatSpec := ⟨40, -1022, 2 ^ 40 - 1, 984, true, true⟩

/-- The number D of digits of a stream of each format (R51, R53); 0 where the format has no stream. -/
def Fmt.digits : Fmt → Nat
  | .fp32 => 12
  | .bf16 => 4
  | .fp16 => 6
  | .e4m3 | .e5m2 | .e2m3 | .e3m2 => 2
  | .e2m1 => 1
  | .x => 16
  | .int8 | .uint8 => 4
  | .int32 => 16
  | .int4 | .code4 => 0

/-- The bits of a word of each format (R51); X has none. -/
def Fmt.width : Fmt → Nat
  | .fp32 | .int32 => 32
  | .bf16 | .fp16 => 16
  | .e4m3 | .e5m2 | .int8 | .uint8 => 8
  | .e2m3 | .e3m2 => 6
  | .e2m1 | .int4 | .code4 => 4
  | .x => 0

/-- Whether a magnitude whose kept part is `n` and whose dropped part compares with one half as `half` (below, tie, above)
and is nonzero as `inexact` says rounds up (R63). -/
def roundsUp (rm : Rnd) (neg : Bool) (n : Nat) (half : Ordering) (inexact : Bool) : Bool :=
  match rm with
  | .rne => match half with
    | .lt => false
    | .gt => true
    | .eq => n % 2 == 1
  | .rtz => false
  | .rdn => neg && inexact
  | .rup => !neg && inexact

/-- The number n nearest to m * 2^e in units of 2^q by the mode, and whether it differs from the exact value; m is not 0. A
magnitude below a quarter of a unit needs no division. -/
def quantise (rm : Rnd) (neg : Bool) (m : Nat) (e q : Int) (more : Bool) : Nat × Bool :=
  if q ≤ e then
    let n := m * 2 ^ (e - q).toNat
    (if roundsUp rm neg n .lt more then n + 1 else n, more)
  else if e + Nat.log2 m + 3 < q then (if roundsUp rm neg 0 .lt true then 1 else 0, true)
  else
    let d := (q - e).toNat
    let n := m / 2 ^ d
    let r := m % 2 ^ d
    let half := 2 ^ (d - 1)
    let o := if r < half then Ordering.lt else if r = half && !more then Ordering.eq else Ordering.gt
    let inexact := more || r != 0
    (if roundsUp rm neg n o inexact then n + 1 else n, inexact)

/-- The largest finite value of a format with a sign. -/
def FloatSpec.largest (s : FloatSpec) (neg : Bool) : Val := Val.mk neg s.top s.topExp

/-- The result of an overflow (R64). -/
def FloatSpec.overflow (s : FloatSpec) (rm : Rnd) (neg : Bool) : Val :=
  if !s.hasInf then s.largest neg
  else match rm with
    | .rne => .inf neg
    | .rtz => s.largest neg
    | .rdn => if neg then .inf true else s.largest false
    | .rup => if neg then s.largest true else .inf false

/-- A finite nonzero result rounded to a floating-point format, with its flags (R62 to R65). A unit above that of the largest
finite value means overflow: the significand then has its full length. -/
def FloatSpec.roundFin (s : FloatSpec) (rm : Rnd) (neg : Bool) (m : Nat) (e : Int) (more : Bool) : Val × Word :=
  let top : Int := e + Nat.log2 m
  let q : Int := max top s.emin - (s.p - 1)
  let (n, inexact) := quantise rm neg m e q more
  let big : Bool :=
    if q ≤ s.topExp then decide (s.top * 2 ^ (s.topExp - q).toNat < n) else true
  if big then (s.overflow rm neg, flagOF ||| flagNX)
  else
    let free : Int := top - (s.p - 1)
    let (n', _) := quantise rm neg m e free more
    let tiny : Bool := decide (top < s.emin) && (decide (top + 1 < s.emin) || decide (n' < 2 ^ s.p))
    (Val.mk neg n q, (if inexact then flagNX else 0) ||| (if tiny && inexact then flagUF else 0))

/-- A result rounded to a floating-point format (R62 to R66, R69): NaN where there is none becomes +0 with NV, an infinity
where there is none becomes the largest finite value with NV. -/
def FloatSpec.round (s : FloatSpec) (rm : Rnd) (x : Exact) : Val × Word :=
  match x.val with
  | .nan => if s.hasNan then (.nan, 0) else (.zero false, flagNV)
  | .inf n => if s.hasInf then (.inf n, 0) else (s.largest n, flagNV)
  | .zero n => (.zero n, 0)
  | .fin n m e => s.roundFin rm n m e x.more

/-- The integer of a finite or zero value after rounding in a mode, and whether it was inexact. -/
def roundInt (rm : Rnd) (x : Exact) : Int × Bool :=
  match x.val with
  | .fin n m e =>
    let (k, inexact) := quantise rm n m e 0 x.more
    (if n then -(k : Int) else (k : Int), inexact)
  | .nan | .inf _ | .zero _ => (0, false)

/-- A result converted to a range of integers: rounded in the mode, then clamped with NV alone (R64, R69; log 18). -/
def roundToRange (lo hi : Int) (rm : Rnd) (x : Exact) : Val × Word :=
  match x.val with
  | .nan => (.zero false, flagNV)
  | .inf n => (Val.ofInt (if n then lo else hi), flagNV)
  | .zero _ => (.zero false, 0)
  | .fin neg m e =>
    if 64 ≤ e + Nat.log2 m then (Val.ofInt (if neg then lo else hi), flagNV)
    else
    let (i, inexact) := roundInt rm x
    if i < lo then (Val.ofInt lo, flagNV)
    else if hi < i then (Val.ofInt hi, flagNV)
    else (Val.ofInt i, if inexact then flagNX else 0)

/-- A result rounded once to a format, with the flags of the rounding (R62, R69). -/
def roundTo (f : Fmt) (rm : Rnd) (x : Exact) : Val × Word :=
  match f.spec with
  | .float s => s.round rm x
  | .int lo hi => roundToRange lo hi rm x

/-! Words (R51, R52, R54). -/

/-- Where the exponent and the fraction of a floating-point word stand, and its bias. -/
structure WordSpec where
  expBits : Nat
  fracBits : Nat
  bias : Int
  deriving DecidableEq, Repr

/-- The fields of each floating-point word (R51); none for integers and X. -/
def Fmt.fields : Fmt → Option WordSpec
  | .fp32 => some ⟨8, 23, 127⟩
  | .bf16 => some ⟨8, 7, 127⟩
  | .fp16 => some ⟨5, 10, 15⟩
  | .e4m3 => some ⟨4, 3, 7⟩
  | .e5m2 => some ⟨5, 2, 15⟩
  | .e2m3 => some ⟨2, 3, 1⟩
  | .e3m2 => some ⟨3, 2, 3⟩
  | .e2m1 => some ⟨2, 1, 1⟩
  | .x | .int8 | .int32 | .uint8 | .int4 | .code4 => Option.none

/-- Whether an all-ones exponent field holds infinities and NaNs, as it does in the formats with an infinity (R52). -/
def Fmt.ieeeTop : Fmt → Bool
  | .fp32 | .bf16 | .fp16 | .e5m2 => true
  | .e4m3 | .e2m3 | .e3m2 | .e2m1 | .x | .int8 | .int32 | .uint8 | .int4 | .code4 => false

/-- The single NaN pattern of each format (R52); 0 where there is none. -/
def Fmt.nanWord : Fmt → Word
  | .fp32 => 0x7FC00000
  | .bf16 => 0x7FC0
  | .fp16 => 0x7E00
  | .e4m3 => 0x7F
  | .e5m2 => 0x7E
  | .e2m3 | .e3m2 | .e2m1 | .x | .int8 | .int32 | .uint8 | .int4 | .code4 => 0

/-- The two's complement value of the low `n` bits. -/
def signedOf (n w : Nat) : Int :=
  let v := w % 2 ^ n
  if 2 * v < 2 ^ n then (v : Int) else (v : Int) - (2 ^ n : Nat)

/-- The value of a word of a format, from its low bits (R51, R52, R54), with NV for a signalling NaN (R66). -/
def wordVal (f : Fmt) (w : Word) : Val × Word :=
  let n := w.toNat % 2 ^ f.width
  match f.fields with
  | some ws =>
    let frac := n % 2 ^ ws.fracBits
    let ex := n / 2 ^ ws.fracBits % 2 ^ ws.expBits
    let neg := n / 2 ^ (ws.fracBits + ws.expBits) == 1
    let full := 2 ^ ws.expBits - 1
    if f.ieeeTop && ex == full then
      if frac = 0 then (.inf neg, 0)
      else (.nan, if frac < 2 ^ (ws.fracBits - 1) then flagNV else 0)
    else if f == .e4m3 && ex == full && frac == 7 then (.nan, 0)
    else if ex = 0 then (Val.mk neg frac (1 - ws.bias - ws.fracBits), 0)
    else (Val.mk neg (2 ^ ws.fracBits + frac) (ex - ws.bias - ws.fracBits), 0)
  | Option.none =>
    match f with
    | .int8 | .int32 | .int4 => (Val.ofInt (signedOf f.width n), 0)
    | .fp32 | .bf16 | .fp16 | .e4m3 | .e5m2 | .e2m3 | .e3m2 | .e2m1 | .x | .uint8 | .code4 => (Val.ofInt n, 0)

/-- The word of a value that the format represents, in the low bits of a 32-bit lane, extended by R54. -/
def valWord (f : Fmt) (v : Val) : Word :=
  match f.fields with
  | some ws =>
    let sign (b : Bool) : Nat := if b then 2 ^ (ws.fracBits + ws.expBits) else 0
    match v with
    | .nan => f.nanWord
    | .inf n => BitVec.ofNat 32 (sign n + (2 ^ ws.expBits - 1) * 2 ^ ws.fracBits)
    | .zero n => BitVec.ofNat 32 (sign n)
    | .fin n m e =>
      let top : Int := e + Nat.log2 m
      let ex : Int := max (top + ws.bias) 1
      let sig := m * 2 ^ (e - (ex - ws.bias - ws.fracBits)).toNat
      let field := if sig < 2 ^ ws.fracBits then 0 else ex.toNat
      BitVec.ofNat 32 (sign n + field * 2 ^ ws.fracBits + sig % 2 ^ ws.fracBits)
  | Option.none =>
    match v with
    | .fin n m e => BitVec.ofInt 32 ((if n then -1 else 1) * ((m * 2 ^ e.toNat : Nat) : Int))
    | .nan | .inf _ | .zero _ => 0

/-- The conversion of a result to a word of a format: rounded once, then placed (R69, R54). -/
def toWord (f : Fmt) (rm : Rnd) (x : Exact) : Word × Word :=
  let (v, fl) := roundTo f rm x
  (valWord f v, fl)

/-! Exact operations (R67, R187). Each returns the exact result and the flags of its class row. -/

/-- The exact sum of two finite or zero values; an exact zero from nonzero inputs is +0, or -0 under RDN (R65, R67). -/
def sumFin (rm : Rnd) (a b : Val) : Val :=
  match a, b with
  | .zero x, .zero y => if x == y then .zero x else .zero (rm == .rdn)
  | .zero _, y => y
  | x, .zero _ => x
  | x, y =>
    let q := min x.exp y.exp
    let i := x.at q + y.at q
    if i = 0 then .zero (rm == .rdn) else Val.ofScaled i q

/-- The add row of R67. -/
def addVal (rm : Rnd) (a b : Val) : Val × Word :=
  match a, b with
  | .nan, _ | _, .nan => (.nan, 0)
  | .inf x, .inf y => if x == y then (.inf x, 0) else (.nan, flagNV)
  | .inf x, .zero _ | .inf x, .fin _ _ _ => (.inf x, 0)
  | .zero _, .inf y | .fin _ _ _, .inf y => (.inf y, 0)
  | x, y => (sumFin rm x y, 0)

/-- The multiply row of R67. -/
def mulVal (a b : Val) : Val × Word :=
  match a, b with
  | .zero _, .inf _ | .inf _, .zero _ => (.nan, flagNV)
  | .nan, _ | _, .nan => (.nan, 0)
  | .inf x, .inf y => (.inf (x != y), 0)
  | .inf x, .fin y _ _ | .fin x _ _, .inf y => (.inf (x != y), 0)
  | .zero x, .zero y | .zero x, .fin y _ _ | .fin x _ _, .zero y => (.zero (x != y), 0)
  | .fin x m e, .fin y m' e' => (Val.mk (x != y) (m * m') (e + e'), 0)

/-- The fused multiply-add row of R67: the product unrounded, then the add row. -/
def fmaVal (rm : Rnd) (a b c : Val) : Val × Word :=
  let (p, f) := mulVal a b
  if f == flagNV then (.nan, flagNV)
  else addVal rm p c

/-- The divide row of R67. A finite quotient keeps more than 80 bits and says whether anything is left. -/
def divVal (a b : Val) : Exact × Word :=
  match a, b with
  | .nan, _ | _, .nan => (Exact.of .nan, 0)
  | .zero _, .zero _ | .inf _, .inf _ => (Exact.of .nan, flagNV)
  | .fin x _ _, .zero y => (Exact.of (.inf (x != y)), flagDZ)
  | .inf x, .zero y | .inf x, .fin y _ _ => (Exact.of (.inf (x != y)), 0)
  | .zero x, .fin y _ _ | .zero x, .inf y | .fin x _ _, .inf y => (Exact.of (.zero (x != y)), 0)
  | .fin x m e, .fin y m' e' =>
    let k := 88 + Nat.log2 m'
    let n := m * 2 ^ k
    if n % m' = 0 then (Exact.of (Val.mk (x != y) (n / m') (e - e' - k)), 0)
    else (⟨.fin (x != y) (n / m') (e - e' - k), true⟩, 0)

/-- The integer square root, one bit at a time from bit b - 1 down. -/
def isqrtFrom (n : Nat) : Nat → Nat → Nat
  | 0, r => r
  | b + 1, r => let t := r + 2 ^ b; isqrtFrom n b (if t * t ≤ n then t else r)

/-- The integer square root. -/
def isqrt (n : Nat) : Nat := isqrtFrom n (Nat.log2 n / 2 + 1) 0

/-- The square root of m * 2^e with at least 80 bits. -/
def sqrtFin (m : Nat) (e : Int) : Exact :=
  let k : Nat := 170 + (e % 2).toNat
  let n := m * 2 ^ k
  let r := isqrt n
  if r * r = n then Exact.of (Val.mk false r ((e - k) / 2)) else ⟨.fin false r ((e - k) / 2), true⟩

/-- The square root row of R67. -/
def sqrtVal (a : Val) : Exact × Word :=
  match a with
  | .nan => (Exact.of .nan, 0)
  | .zero n => (Exact.of (.zero n), 0)
  | .inf n => if n then (Exact.of .nan, flagNV) else (Exact.of (.inf false), 0)
  | .fin n m e => if n then (Exact.of .nan, flagNV) else (sqrtFin m e, 0)

/-- The reciprocal square root row of R67: the root of the reciprocal, both by integer division and root. -/
def rsqrtVal (a : Val) : Exact × Word :=
  match a with
  | .nan => (Exact.of .nan, 0)
  | .zero n => (Exact.of (.inf n), flagDZ)
  | .inf n => if n then (Exact.of .nan, flagNV) else (Exact.of (.zero false), 0)
  | .fin n m e =>
    if n then (Exact.of .nan, flagNV)
    else
      let k : Nat := 2 * (Nat.log2 m + 90) + (e % 2).toNat
      let q := 2 ^ k / m
      let r := isqrt q
      let ex : Int := -((e + k) / 2)
      if q * m = 2 ^ k && r * r = q then (Exact.of (Val.mk false r ex), 0) else (⟨.fin false r ex, true⟩, 0)

/-- The reciprocal row of R67. -/
def rcpVal (a : Val) : Exact × Word :=
  match a with
  | .nan => (Exact.of .nan, 0)
  | .zero n => (Exact.of (.inf n), flagDZ)
  | .inf n => (Exact.of (.zero n), 0)
  | .fin _ _ _ => divVal (.fin false 1 0) a

/-! 2^x and log2 x: an interval of fixed-point numbers with w fraction bits encloses the result; the first 81 bits are taken
once both ends agree on them. -/

/-- Lower sums of the series Σ t^n / n!, term by term, rounding each term down. -/
def expLow (w t : Nat) : Nat → Nat → Nat → Nat → Nat
  | 0, _, _, acc => acc
  | f + 1, n, term, acc => let term' := term * t / (n * 2 ^ w); expLow w t f (n + 1) term' (acc + term')

/-- Upper sums of the same series, rounding each term up. -/
def expHigh (w t : Nat) : Nat → Nat → Nat → Nat → Nat
  | 0, _, _, acc => acc
  | f + 1, n, term, acc => let term' := term * t / (n * 2 ^ w) + 1; expHigh w t f (n + 1) term' (acc + term')

/-- Bounds of ln 2 with w fraction bits, from Σ 1 / (k 2^k). -/
def ln2Low (w : Nat) : Nat → Nat → Nat → Nat
  | 0, _, acc => acc
  | f + 1, k, acc => ln2Low w f (k + 1) (acc + 2 ^ w / (k * 2 ^ k))

/-- The lower bound of ln 2, and an upper bound w + 2 units above it. -/
def ln2 (w : Nat) : Nat := ln2Low w w 1 0

/-- Bounds of 2^g, 0 < g < 1, for g = n / 2^k, with w fraction bits. -/
def exp2Bounds (w n k : Nat) : Nat × Nat :=
  let lo := ln2 w * n / 2 ^ k
  let hi := (ln2 w + w + 2) * n / 2 ^ k + 1
  (expLow w lo (w / 2) 1 (2 ^ w) (2 ^ w), expHigh w hi (w / 2) 1 (2 ^ w) (2 ^ w) + 2)

/-- The first widths at which the two bounds agree after dropping w - 80 bits; the fallback is a free value (log 10). -/
def agree (bounds : Nat → Nat × Nat) (drop : Nat → Nat) (fallback : Nat) : List Nat → Nat
  | [] => fallback
  | w :: ws =>
    let (lo, hi) := bounds w
    if lo / 2 ^ drop w = hi / 2 ^ drop w then lo / 2 ^ drop w else agree bounds drop fallback ws

/-- 2^v for a finite nonzero v (R62, R67): exact at the integers, irrational elsewhere. -/
def exp2Fin (neg : Bool) (m : Nat) (e : Int) : Exact :=
  if 12 < e + Nat.log2 m then
    (if neg then ⟨.fin false 1 (-4000), true⟩ else Exact.of (.fin false 1 4000))
  else if 0 ≤ e then
    let i : Int := (m * 2 ^ e.toNat : Nat)
    Exact.of (.fin false 1 (if neg then -i else i))
  else if e + Nat.log2 m < -100 then
    (if neg then ⟨.fin false (2 ^ 90 - 1) (-90), true⟩ else ⟨.fin false (2 ^ 90) (-90), true⟩)
  else
    let k := (-e).toNat
    let i : Int := if neg then -(m : Int) else m
    let whole := i / (2 ^ k : Nat)
    let g := (i % (2 ^ k : Nat)).toNat
    let a := agree (fun w => exp2Bounds w g k) (fun w => w - 80) (Config.transcendental 0 m e % 2 ^ 80 + 2 ^ 80) [224, 448, 896]
    ⟨.fin false a (whole - 80), true⟩

/-- The exp2 row of R67. -/
def exp2Val (a : Val) : Exact :=
  match a with
  | .nan => Exact.of .nan
  | .inf n => if n then Exact.of (.zero false) else Exact.of (.inf false)
  | .zero _ => Exact.of (.fin false 1 0)
  | .fin n m e => exp2Fin n m e

/-- Sums of Σ z^(2k+1) / (2k+1) with z = a / b: lower with `up` 0, upper with `up` 1. -/
def atanhSum (w a b up : Nat) : Nat → Nat → Nat → Nat → Nat
  | 0, _, _, acc => acc
  | f + 1, j, pow, acc => atanhSum w a b up f (j + 2) (pow * a * a / (b * b) + up) (acc + pow / j + up)

/-- Bounds of ln(n / 2^k) for 1 < n / 2^k < 2, with w fraction bits. -/
def lnBounds (w n k : Nat) : Nat × Nat :=
  let a := n - 2 ^ k
  let b := n + 2 ^ k
  let z := 2 ^ w * a / b
  (2 * atanhSum w a b 0 (w / 2) 1 z 0, 2 * (atanhSum w a b 1 (w / 2) 1 (z + 1) 0 + 2))

/-- Bounds of the magnitude of c + log2(n / 2^k), with w fraction bits; the sign is that of c, or positive for c = 0. -/
def log2Bounds (w n k : Nat) (c : Int) : Nat × Nat :=
  let (lo, hi) := lnBounds w n k
  let l := lo * 2 ^ w / (ln2 w + w + 2)
  let h := hi * 2 ^ w / ln2 w + 1
  let i (x : Nat) : Nat := (c * (2 ^ w : Nat) + x).natAbs
  if c < 0 then (i h, i l) else (i l, i h)

/-- log2 of a positive finite value (R62, R67): exact at the powers of two, irrational elsewhere. -/
def log2Fin (m : Nat) (e : Int) : Exact :=
  let k := Nat.log2 m
  let c : Int := e + k
  if m = 1 then Exact.of (Val.ofInt c)
  else
    let a := agree (fun w => log2Bounds w m k c) (fun w => w - 160) (Config.transcendental 1 m e) [320, 640, 1280]
    ⟨.fin (decide (c < 0)) a (-160), true⟩

/-- The log2 row of R67. -/
def log2Val (a : Val) : Exact × Word :=
  match a with
  | .nan => (Exact.of .nan, 0)
  | .inf n => if n then (Exact.of .nan, flagNV) else (Exact.of (.inf false), 0)
  | .zero _ => (Exact.of (.inf true), flagDZ)
  | .fin n m e => if n then (Exact.of .nan, flagNV) else (log2Fin m e, 0)

/-- The integer part towards zero, signed as the operand (R187). -/
def truncVal (a : Val) : Val :=
  match a with
  | .fin n m e => if 0 ≤ e then a else Val.mk n (m / 2 ^ (-e).toNat) 0
  | .nan | .inf _ | .zero _ => a

/-- The exact sum of a list by the rows of DRED (R196). -/
def sumAll (rm : Rnd) (vs : List Val) : Val × Word :=
  if vs.any Val.isNan then (.nan, 0)
  else
    let pos := vs.any (· == .inf false)
    let neg := vs.any (· == .inf true)
    if pos && neg then (.nan, flagNV)
    else if pos then (.inf false, 0)
    else if neg then (.inf true, 0)
    else if vs.all (· == .zero false) then (.zero false, 0)
    else if vs.all (· == .zero true) then (.zero true, 0)
    else
      let q := vs.foldl (fun q v => min q v.exp) 0
      let i := vs.foldl (fun i v => i + v.at q) 0
      if i = 0 then (.zero (rm == .rdn), 0) else (Val.ofScaled i q, 0)

/-! Orders (R68). -/

/-- The order of two values, neither NaN, with -0 and +0 equal. -/
def ordVal (a b : Val) : Ordering :=
  match a, b with
  | .inf x, .inf y => if x == y then .eq else if x then .lt else .gt
  | .inf x, _ => if x then .lt else .gt
  | _, .inf y => if y then .gt else .lt
  | x, y => let q := min x.exp y.exp; compare (x.at q) (y.at q)

/-- The order of two values, neither NaN, with -0 below +0 (R68). -/
def ordZ (a b : Val) : Ordering :=
  match a, b with
  | .zero x, .zero y => if x == y then .eq else if x then .lt else .gt
  | x, y => ordVal x y

/-- Whether DMIN (least) or DMAX takes its left operand (R68, R190): equal values take l; a NaN gives way. -/
def picksLeft (least : Bool) (l r : Val) : Bool :=
  if l.isNan then r.isNan
  else if r.isNan then true
  else match ordZ l r with
    | .eq => true
    | .lt => least
    | .gt => !least

/-- DMIN or DMAX (R68). -/
def minMax (least : Bool) (l r : Val) : Val := if picksLeft least l r then l else r

/-- The condition of DCMP (R68, R190): unordered with NaN, zeros equal. -/
def cmpVal (k : Cond) (l r : Val) : Bool :=
  if l.isNan || r.isNan then k == .ne
  else match k with
    | .eq => ordVal l r == .eq
    | .ne => ordVal l r != .eq
    | .lt | .ltu => ordVal l r == .lt
    | .ge | .geu => ordVal l r != .lt
    | .le => ordVal l r != .gt
    | .gt => ordVal l r == .gt

/-- An MX scale applied to a value (R56). -/
def mxScale (s : Byte) (v : Val) : Val := if s = 0xFF then .nan else v.scale (s.toNat - 127)

end Sys2Proof
end

