-- ==== Sys2Proof/Machine/State.lean ====
section
/-! DEFINITION. The state of the machine as plain data: everything that spec/ gives the device, the model's own agenda of
actions still to happen (log 1), and the reset state. -/

namespace Sys2Proof.Machine

/-- Why a step stops with a fault. -/
inductive Fault where
  /-- Raised by `step` when the agenda names a site whose block exists and whose word is none the loader accepts; no load
  produces such a state. Safe: the machine stops where the hardware never stands. -/
  | undecodable
  deriving DecidableEq, Repr

/-- Why a step is refused. -/
inductive Refusal where
  /-- An instruction that has no meaning in this model. No arm of `exec` uses it any more. Safe. -/
  | notModelled (mnemonic : String)
  deriving DecidableEq, Repr

/-- A poison mark with its origin in the layout of FLT_ORIGIN (R138, R329). -/
abbrev Mark := Option Word

/-- A control token: value bits and mark (R138). -/
structure Tok where
  v : Word
  mark : Mark
  deriving DecidableEq, Repr

/-- One lane of a number, an accumulator or a weight register: its value and its mark (R183, R197). -/
structure Lane where
  val : Val
  mark : Mark
  deriving DecidableEq, Repr

/-- The place of an instruction: global cell number, context slot, index in the block (R17, R115). -/
structure Site where
  cell : Nat
  ctx : Nat
  index : Nat
  deriving DecidableEq, Repr

/-- Which consumer of a producer a field is: slot C0, slot C1, or the n-th link route of its PE (R205). -/
inductive Edge where
  | c0 | c1 | link (n : Nat)
  deriving DecidableEq, Repr

/-- Where a number came from, for spalls: its producer, its ordinal there, the edge and the hops of that edge (R204). -/
structure Source where
  site : Site
  id : Nat
  edge : Edge
  hops : Nat
  deriving DecidableEq, Repr

/-- What the spec fixes of the digits of a number: nothing, the canonical string of a word format, or a first digit that is nonzero
where the value is (R58, R61, R186). -/
inductive Form where
  | free
  | canon (f : Fmt)
  | normal
  deriving DecidableEq, Repr

/-- A number on a stream field (R58, R180): 128 lanes, the digit count of its producer's format, the cycles in which its head and its
digits arrive, as far as they have left, how many of these entries have left the FIFO, whether an execution has consumed it, whether its
producer has skipped the rest of it (R210), its source, and the form of its digits. -/
structure Num where
  lanes : List Lane
  digits : Nat
  came : List Nat
  taken : Nat
  used : Bool
  cut : Bool
  src : Source
  form : Form
  deriving DecidableEq, Repr

/-- A field of an instruction: its FIFO of tokens, the entries reserved at issue, its queue of numbers (R123, R124, R180). -/
structure FieldQ where
  toks : List Tok
  resv : Nat
  nums : List Num
  deriving DecidableEq, Repr

/-- On which input lanes an output lane depends (R206). -/
inductive Dep where
  | same
  | from (lanes : List Nat)
  | all
  deriving DecidableEq, Repr

/-- When the head and the digits of an output number may leave (R181, R191, R192): the input position that the head needs on each
field; the fields whose digits settle or decide the lanes, and which positions the decision of each lane waits for (each on a field, and
whether it must have arrived before the cycle; none: at once; R189); the lanes that lose the rest of an operand as they decide; and for each field the k and the lanes for which output digit j needs input position k + j. -/
structure Course where
  heads : List (FieldSel × Nat)
  asks : List FieldSel
  due : List (List (FieldSel × Nat × Bool))
  lose : List (FieldSel × BitVec 128)
  bounds : List (FieldSel × Nat × BitVec 128)
  deriving DecidableEq, Repr

/-- A number that an instruction has executed and has not emitted to its end (R179, R181, R205, R206): its lanes, digits and form, the
entries that have left, the first cycle in which its head may leave, its course with the lanes that have not decided and the cycle in which
the last has; its consumers and what they have spalled, the lanes that stop and have stopped, its input numbers and the spalls forwarded
to them. -/
structure Made where
  id : Nat
  lanes : List Lane
  digits : Nat
  form : Form
  pos : Nat
  start : Nat
  course : Course
  undone : BitVec 128
  doneAt : Option Nat
  edges : List Edge
  got : List (Edge × BitVec 128)
  stopping : BitVec 128
  stopped : BitVec 128
  ins : List (FieldSel × Source)
  sent : List (Source × BitVec 128)
  dep : Dep
  deriving DecidableEq, Repr

/-- The run of a load stream: the scratchpad segment of its last access, the virtual page through which it was reached, and its hint (R176). -/
structure LoadRun where
  segment : Nat
  page : Nat
  hint : Hint
  deriving DecidableEq, Repr

/-- The state of one instruction in its context slot (R123, R125, R155 to R159, R179, R205); `wants` says that its guard held before the issues
of this cycle, `begun` that a sequence of CNT or CNTX had started there before a FEND closed its firing, `aged` is the cycle in which its age
reached 1,024, `sentAt` the last cycle in which it emitted a head or a digit. -/
structure Slot where
  l : FieldQ
  r : FieldQ
  p : FieldQ
  a : FieldQ
  done : Nat
  seq : Nat
  sum : Word
  sumMark : Mark
  issuedAt : Option Nat
  wants : Bool
  begun : Bool
  age : Nat
  aged : Option Nat
  waking : Bool
  sentAt : Option Nat
  nextId : Nat
  made : List Made
  run : Option LoadRun
  deriving DecidableEq, Repr

/-- An input channel in the consumer's channel store (R117 to R119): capacity, consumer pointer, committed producer pointer as
the consumer sees it, buffer, whether an ADVC has executed in this firing, and the producer where a channel entry feeds it. -/
structure InChan where
  cap : Nat
  cp : Word
  pp : Word
  buf : List Tok
  advanced : Bool
  fed : Bool
  srcCell : Nat
  srcCtx : Nat
  srcChan : Nat
  hops : Nat
  deriving DecidableEq, Repr

/-- An output channel (R119, R129): its consumer, capacity, hops, committed pointer, tokens written and not committed, the
producer's view of CP, and whether an ADVP has executed in this firing. -/
structure OutChan where
  cell : Nat
  ctx : Nat
  chan : Nat
  cap : Nat
  hops : Nat
  pp : Word
  w : Nat
  cpv : Word
  advanced : Bool
  present : Bool
  deriving DecidableEq, Repr

/-- A block in its context slot (R16, R115, R120, R122). -/
structure Block where
  ctx : Nat
  kind : Nat
  nin : Nat
  nout : Nat
  lgFire : Nat
  words : List Word
  rates : List Nat
  prods : List Nat
  slots : List Slot
  ins : List InChan
  outs : List OutChan
  fireNo : Word
  fired : Nat
  firing : Bool
  fend : Option Nat
  deriving DecidableEq, Repr

/-- A register file entry with the value it held before the accesses of cycle `at?` (R164): the strongest read mark and the
highest writer of that cycle. -/
structure Timed (α : Type) where
  now : α
  was : α
  at? : Option Nat
  hint : Nat
  writer : Option Nat
  deriving DecidableEq, Repr

/-- A scalar register (R160, R162). -/
structure GReg where
  val : Word
  valid : Bool
  far : Bool
  mark : Mark
  deriving DecidableEq, Repr

/-- A vector register (R160, R162): lane words, one valid bit, one FAR mark, lane poison mask and one origin. -/
structure VReg where
  lanes : List Word
  valid : Bool
  far : Bool
  mask : BitVec 128
  origin : Word
  deriving DecidableEq, Repr

/-- A predicate register (R160, R162). -/
structure KReg where
  val : Word
  mark : Mark
  deriving DecidableEq, Repr

/-- The power state of a bank (R165, R177). A waking bank holds whether it wakes from OFF and the cycle at which it is FULL. -/
inductive BankState where
  | off | keep | full
  | waking (fromOff : Bool) (due : Nat)
  deriving DecidableEq, Repr

/-- A register bank: its state, and the last cycle that was not idle (R165). -/
structure Bank where
  st : BankState
  busyAt : Nat
  deriving DecidableEq, Repr

/-- An accumulator register of a PE (R197): KIND INT or FLOAT, and its lanes; a lane that is not listed is +0, unmarked. -/
structure Acc where
  int : Bool
  lanes : List Lane
  deriving DecidableEq, Repr

/-- The stationary weights of a PE (R202, R246): lanes not listed are +0; an MX scale for the whole register where a matrix
command loaded one, and the word format in which they are held (R54, R344). -/
structure Weights where
  lanes : List Lane
  mx : List Byte
  fmt : Fmt
  deriving DecidableEq, Repr

/-- A division in course: the instruction, its result, and the bench cycles that it still takes after its first (R137, R142, R143). -/
structure Division where
  site : Site
  tok : Tok
  left : Nat
  deriving DecidableEq, Repr

/-- A processing element of a cell (R102, R125, R160). -/
structure Pe where
  division : Option Division
  issuedAt : Option Nat
  acc : List Acc
  cur : Weights
  shadow : Weights
  stored : Bool
  deriving DecidableEq, Repr

/-- EXC with its value before the events of cycle `at?` and the flags raised in that cycle (R70). -/
structure Exc where
  now : Word
  was : Word
  raised : Word
  at? : Option Nat
  deriving DecidableEq, Repr

/-- The five fault registers of a cell (R329). -/
structure FaultRegs where
  cause : Word
  origin : Word
  addr : DWord
  aux : DWord
  fire : Word
  deriving DecidableEq, Repr

/-- A window of a port (R236). -/
structure Window where
  slot : Nat
  vbase : Nat
  len : Nat
  pbase : Nat
  r : Bool
  w : Bool
  ver : Bool
  enabled : Bool
  deriving DecidableEq, Repr

/-- A part of an access: virtual address, bytes, its physical address once translated with the version attribute and the size of the page that
the translation came from (0 for a window; R241), and what it has read, or that it has been written, once it is performed (R224). -/
structure Part where
  va : Nat
  size : Nat
  pa : Option Nat
  ver : Bool
  page : Nat
  got : Option (List Byte)
  poison : Bool
  deriving DecidableEq, Repr

/-- How far an access of a port has come: waiting for a walk, translated, holding a fault since a cycle (R242, R244), done with
the tokens it replies, or emitting a stream of tokens, after whose last a fault may be raised, with the entry reserved at issue still
unused or not (R286). -/
inductive Stage where
  | walk
  | ready
  | held (code : Nat) (va : Nat) (second : Bool) (since : Nat)
  | done (toks : List Tok)
  | stream (toks : List Tok) (fault : Option (Nat × Nat × Nat)) (reserved : Bool)
  deriving DecidableEq, Repr

/-- The four operand tokens of an execution; a field that is not required holds none. -/
structure Opnds where
  l : Option Tok
  r : Option Tok
  p : Option Tok
  a : Option Tok
  deriving DecidableEq, Repr

/-- An access in flight at a port (R223): the instruction, its place and firing, operands, further tokens it took, first byte,
first bit in it, parts, stage, the first part found dead, the global order of its issue, the cycle in which its request reached the bank or
home at which it waits (R177, R227, R308), and the windows of the port where a WIN has replaced them since its issue (R245). -/
structure Access where
  site : Site
  fire : Word
  instr : Instr
  ops : Opnds
  more : List Tok
  va : Nat
  bit : Nat
  parts : List Part
  stage : Stage
  dead : Option Nat
  stamp : Nat
  arr : Option Nat
  wins : Option (List Window)
  deriving DecidableEq, Repr

/-- A nest in progress at a port (R221): the AGGO, its trigger, the six indices of the next offset, and the cycle of the last
offset. -/
structure Nest where
  site : Site
  trig : Tok
  idx : List Nat
  at? : Option Nat
  deriving DecidableEq, Repr

/-- A memory port (R218). -/
structure Port where
  num : Nat
  base : DWord
  cnt : List Word
  str : List Word
  fmt : Fmt
  limit : Word
  wins : List Window
  accs : List Access
  nest : Option Nest
  deriving DecidableEq, Repr

/-- A link route from the slot-0 instruction of a PE of this cell (R111, R112). -/
structure Route where
  ctx : Nat
  pe : Nat
  cell : Nat
  dctx : Nat
  dpe : Nat
  field : FieldSel
  hops : Nat
  deriving DecidableEq, Repr

/-- The register files of a cell and the states of their banks (R160, R165). -/
structure RegFiles where
  g : List (Timed GReg)
  v : List (Timed VReg)
  k : List (Timed KReg)
  gBanks : List Bank
  vBanks : List Bank
  deriving DecidableEq, Repr

/-- The exception state of a cell: EXC, and the fault registers with their value before the faults of cycle `at?`, the value onto which those
faults are recorded, and the faults in cell order (R70, R328, R329). -/
structure CellFaults where
  exc : Exc
  regs : FaultRegs
  was : FaultRegs
  at? : Option Nat
  base : FaultRegs
  raised : List (Nat × FaultRegs)
  deriving DecidableEq, Repr

/-- A fault that an engine agent holds: code, virtual address, whether it reads and writes there, and its first cycle (R242, R244). -/
structure Hold where
  code : Nat
  va : Nat
  read : Bool
  write : Bool
  since : Nat
  deriving DecidableEq, Repr

/-- A byte as an engine agent has read it; `bad` where its line was poisoned or its segment dead (R384). -/
structure RByte where
  b : Byte
  bad : Bool
  deriving DecidableEq, Repr

/-- What every engine agent carries (R292, R384): the instruction that issued it, its firing, context and region, the cell and the port
through which it translates (no port: the context's page table alone), a held fault, whether it has logged DEAD_SPAD and a sink,
whether an element was poisoned, the order of its issue, since when a request of it has waited at a bank, and the windows of the port where
a WIN has replaced them since its issue (R245), and the ranges that it writes, once they are known (R233). -/
structure Eng where
  site : Site
  fire : Word
  ctx : Nat
  rid : Nat
  cell : Nat
  port : Option Nat
  held : Option Hold
  deadLogged : Bool
  sunk : Bool
  poisoned : Bool
  stamp : Nat
  arr : Option Nat
  wins : Option (List Window)
  puts : Option (List (Nat × Nat))
  deriving DecidableEq, Repr

/-- What a copy does with its source (R229, R231, R282). -/
inductive CopyKind where
  | plain
  | reduce (f : Fmt) (op : RedOp)
  | convert (sel : Nat)
  deriving DecidableEq, Repr

/-- A copy in flight (R229 to R232, R282 to R285): its engine part, the cycle of its acceptance, kind, hint, descriptor, what it has read, whether
SRC is reached and with which status, the scratchpad segments that it has read (R176), the writes already performed, its status, and whether
it has ended (a copy that ends in BADDESC or FAULTED). -/
structure Copy where
  eng : Eng
  accepted : Nat
  kind : CopyKind
  hint : Hint
  desc : List Byte
  got : List RByte
  src : Bool
  srcStatus : Nat
  segs : List Nat
  at_ : Nat
  status : Nat
  ended : Bool
  deriving DecidableEq, Repr

/-- A copy slot of a cell (R232): its sequence and the copy that holds it. -/
structure CopySlot where
  slot : Nat
  seq : Nat
  job : Option Copy
  deriving DecidableEq, Repr

/-- A cell that belongs to a live region (R102, R160, R218, R329, R350): global number, region, context, place in the region,
lift parity and the cycle at which the wave or wedge reaches it, blocks, current context slot, end of a change of slot, link
routes, registers, PEs, faults, counters by number, the PERF latch, ports, copy slots. -/
structure Cell where
  num : Nat
  rid : Nat
  context : Nat
  rx : Nat
  ry : Nat
  parity : Bool
  adoptAt : Nat
  blocks : List Block
  cur : Option Nat
  last : Option Nat
  switchUntil : Nat
  arrivedAt : Nat
  divider : Nat
  held0 : List Nat
  routes : List Route
  regs : RegFiles
  pes : List Pe
  flt : CellFaults
  counters : List (Nat × Word)
  latch : List Word
  ports : List Port
  copies : List CopySlot
  deriving DecidableEq, Repr

/-- A token on its way to a field: destination, value, lift parity, cycle of arrival, index of its producer (R19, R123, R133). -/
structure Flight where
  site : Site
  field : FieldSel
  tok : Tok
  parity : Bool
  due : Nat
  from_ : Nat
  deriving DecidableEq, Repr

/-- A pointer update on its way along a channel: a committed PP to the consumer, or a CP to the producer (R123, R129). -/
structure ChanMsg where
  cell : Nat
  ctx : Nat
  chan : Nat
  toConsumer : Bool
  value : Word
  due : Nat
  deriving DecidableEq, Repr

/-- Spalls of one number on their way to its producer: one bit per lane (R204). -/
structure SpallMsg where
  dest : Source
  mask : BitVec 128
  due : Nat
  deriving DecidableEq, Repr

/-! Memory (R175 to R177, R214, R215, R225, R226, R237). -/

/-- A 4 KiB segment of a scratchpad, by physical page number: live bit, FAR mark, context tag, the epoch of its present life,
and the bytes written in it (R175, R176, R222). -/
structure Segment where
  page : Nat
  live : Bool
  far : Bool
  tag : Nat
  epoch : Nat
  written : BitVec 4096
  deriving DecidableEq, Repr

/-- The version state of a line of a versioned page (R226). -/
structure Version where
  line : Nat
  ver : Byte
  pv : Bool
  deriving DecidableEq, Repr

/-- A translation held by a TLB tile (R237): F-die, tile, context, first virtual address, size, first physical address,
attributes, and the entry with its address for the compare-and-swap of R240. -/
structure TlbEntry where
  die : Nat
  tile : Nat
  ctx : Nat
  vbase : Nat
  size : Nat
  pbase : Nat
  ver : Bool
  entryAddr : Nat
  entry : Nat
  deriving DecidableEq, Repr

/-- A line of the last-level cache (R215, R356): line number, dirty, and the context tag of its last write. -/
structure LlcLine where
  line : Nat
  dirty : Bool
  tag : Nat
  deriving DecidableEq, Repr

/-- Energy charged to a context tag in fJ (R356 to R358): kind 0 fabric, 1 last-level cache, 2 DRAM, 3 scratchpad, 4 link. The
system account has the tag 4096. -/
structure Charge where
  tag : Nat
  kind : Nat
  fj : Nat
  deriving DecidableEq, Repr

/-- A write by the sequencer that waits for a scratchpad bank to wake (R177), and the slot of the command that retires after it (R92, R301). -/
structure Posted where
  tag : Nat
  pa : Nat
  bytes : List Byte
  cmd : Option Nat
  deriving DecidableEq, Repr

/-- The memory of the device, with the accounts of R356 and the context tags whose accounts run (R355); `units` holds the words whose atomic
unit has applied an operation in this cycle (R308), `leaving` the dirty lines whose writeback falls in this cycle (R357), `picks` counts the
free choices of a line or translation to replace (log 12). Lists are
sorted by their key and hold no entry equal to what an unlisted key reads as. -/
structure MemSys where
  bytes : List Host.Cell
  marks : List Nat
  bad : List Nat
  llc : List LlcLine
  banks : List (Nat × Bank)
  segs : List Segment
  vers : List Version
  verPages : List Nat
  tlb : List TlbEntry
  epochs : Nat
  acct : List Charge
  metered : List Nat
  posted : List Posted
  units : List Nat
  leaving : List LlcLine
  picks : Nat
  deriving DecidableEq, Repr

/-! Contexts and the device's registers (R346). -/

/-- A dictionary slot (R285): the format of the load that filled it and its 16 entries as bytes. -/
structure Dict where
  fmt : Fmt
  bytes : List Byte
  deriving DecidableEq, Repr

/-- The per-context registers of R346, the context's 16 dictionary slots (R285), and the counters CFIRINGS, CMDS and EGRESSED
(R358). -/
structure CtxRegs where
  fltCtl : Word
  fltLog : DWord
  fltCnt : Word
  occMap : DWord
  hangLimit : Word
  seamBase : DWord
  ptRoot : DWord
  saveBase : DWord
  dicts : List Dict
  cfirings : DWord
  cmds : DWord
  egressed : DWord
  deriving DecidableEq, Repr

/-- The device-wide registers of R346. -/
structure DevRegs where
  ctxSel : Word
  faultHold : Word
  switchGrace : Word
  tswAt : DWord
  tswCtl : Word
  member : Nat
  deriving DecidableEq, Repr

/-- A host port (R77 to R79): ingress channel, overflow, egress entries, and the owner register. -/
structure HostPort where
  num : Nat
  ingress : List Word
  ovf : Bool
  egress : List DWord
  owner : Word
  deriving DecidableEq, Repr

/-! Synchronisation (R311 to R325). -/

/-- An installed group (R87, R314): its id, its members by global cell number in rank order, phase, the members that have arrived,
and the phase that has reached each member. -/
structure Group where
  gid : Nat
  members : List Nat
  phase : Nat
  arrived : List Nat
  learned : List (Nat × Nat)
  deriving DecidableEq, Repr

/-- An owner of the region's owner table (R311): its engine part (whose site names its block), first virtual address, words, operation,
buffer, whether it has been read, whether it is being flushed, and the cycle of its last update. -/
structure Owner where
  eng : Eng
  va : Nat
  size : Nat
  op : AtomOp
  buf : List Tok
  ready : Bool
  closing : Bool
  at? : Option Nat
  deriving DecidableEq, Repr

/-- An update on its way to its owner, which is named by the stamp of its engine part (R312). -/
structure Update where
  site : Site
  owner : Nat
  va : Nat
  tok : Tok
  due : Nat
  deriving DecidableEq, Repr

/-- A tile of an MMASP share (R272): its address, its scales, its place, and its header as it was read and checked. -/
structure TileRef where
  tile : Nat
  scales : Nat
  n0 : Nat
  k0 : Nat
  head : Nat
  deriving DecidableEq, Repr

/-- A write of an engine agent that is still to be performed: its address, its bytes, the bits of them that it writes, and the origin
of its poison. -/
structure EngPut where
  va : Nat
  bytes : List RByte
  masks : List Byte
  origin : Word
  elems : Nat
  deriving DecidableEq, Repr

/-- An operation of a systolic region (R252, R278): its engine part, its instruction or command, descriptor, the bands of a sparse
share, whether it has started and the cycle at which its wedge has swept, its PE rows of weights loaded, the bytes of the tiles of
its band, next row of activations (of the band in progress), a C write still to be performed, its status, and the entries of C that a
sparse share starts from under INIT, once it has read them. -/
structure SysOp where
  eng : Eng
  instr : Option Instr
  cmd : Option Nat
  desc : List Byte
  bands : List (List TileRef)
  started : Bool
  swept : Nat
  loaded : Nat
  wts : List RByte
  row : Nat
  out : Option EngPut
  status : Nat
  inits : Option (List RByte)
  deriving DecidableEq, Repr

/-- A systolic region S0 to S3 (R246, R256): established or not, rectangle, weight format, the cell and port of its commands, its
queue (the operation in progress first), the cycle at which a WEDGE has swept it, and ROW of ROWPROG (R255). -/
structure Systolic where
  on : Bool
  x0 : Nat
  y0 : Nat
  w : Nat
  h : Nat
  wf : Fmt
  cell : Nat
  port : Nat
  queue : List SysOp
  busy : Nat
  row : Nat
  deriving DecidableEq, Repr

/-- A seed still to inject: its channel and its value (R89). -/
structure Seed where
  cell : Nat
  ctx : Nat
  chan : Nat
  value : Word
  deriving DecidableEq, Repr

/-- A fault to be taken (R327, R329, R330): the cell whose registers record it, the context, the region, its contents, and the order of the
issue of its instruction, where that was before this cycle (R294). -/
structure FaultRec where
  cell : Option Nat
  ctx : Nat
  rid : Option Nat
  code : Nat
  sub : Nat
  held : Bool
  parked : Bool
  origin : Word
  addr : DWord
  aux : DWord
  fire : Word
  stamp : Option Nat := none
  deriving DecidableEq, Repr

/-- How a switch arose (R338): for a waiting launch, named by its order; under a limit of power; by TSW_CTL. `hold` is a park that the
expiry of FAULT_HOLD began (R244, R342). -/
inductive SwitchKind where
  | shrink (launch : Nat)
  | narrow (limit : Nat)
  | timed (var : Nat)
  | hold
  deriving DecidableEq, Repr

/-- A switch in progress (R338, R340): its form, its first cycle, whether its switch point has come and only the load of its target is
awaited, and for a park under FAULT_HOLD the fault that has outlived it (R342). -/
structure Switch where
  kind : SwitchKind
  start : Nat
  reached : Bool
  fault : Option FaultRec
  deriving DecidableEq, Repr

/-- A region (R103): its number here, context, priority, arrival of its launch, die, origin and rectangle; lift, variant, image and
POWER; `leaving`, the lift and variant that a wedge in progress sweeps out (R353); clusters in grant order (R108) and the pointer of each AGE (R218); launch result (R84); seeds; requests to switch lifts
(R131, R316), HALT and Stop; the sweep of a wave or wedge in progress; a switch; the idle count (R336); systolic regions; owners;
groups; `gone` once it has ended and only finishes writes that it has issued (R328, R354). -/
structure Region where
  rid : Nat
  ctx : Nat
  prio : Nat
  order : Nat
  die : Nat
  x0 : Nat
  y0 : Nat
  w : Nat
  h : Nat
  lift : Nat
  var : Nat
  img : Nat
  power : Nat
  leaving : Option (Nat × Nat)
  clusters : List (Nat × Nat)
  ages : List Nat
  result : Nat
  reported : Bool
  cmd : Option Nat
  seeds : List Seed
  seedFrom : Nat
  liftReq : Option Word
  liftCmds : List Nat
  stopAt : Option Nat
  stopCause : Word
  stopRank : Nat
  haltAt : Option Nat
  sweeping : Bool
  sweepEnd : Nat
  drainedAt : Option Nat
  switch : Option Switch
  idle : Nat
  moved : Bool
  sys : List Systolic
  owners : List Owner
  updates : List Update
  groups : List Group
  gone : Bool
  deriving DecidableEq, Repr

/-- An instruction that has issued and waits to complete: its operands, any further tokens it took, notes and bytes of its own, a
fault it holds, and the global order of its issue. -/
structure Pend where
  site : Site
  fire : Word
  instr : Instr
  ops : Opnds
  more : List Tok
  notes : List Nat
  data : List Byte
  eng : Option Eng
  stamp : Nat
  deriving DecidableEq, Repr

/-- A parked region (R342): its cells, its waiting instructions, the cycle of the park, whether FAULT_HOLD parked it, whether RESUME has
named its context, and the number of the free bytes that stand in the private part of its save slots (R344; log 5). -/
structure Parked where
  region : Region
  cells : List Cell
  pends : List Pend
  parkedAt : Nat
  byHold : Bool
  resumed : Bool
  salt : Nat
  deriving DecidableEq, Repr

/-! Launch, commands, queues, seams, collectives (R81 to R98, R317 to R325). -/

/-- A launch (R82, R83): its record, the child-launch command that made it, its arrival, and once it waits for cells (step 5) its
image and candidate variants, and whether a shrink has been looked for since it was last judged (R106, R338). -/
structure Launch where
  words : List Word
  cmd : Option Nat
  by0 : Bool
  order : Nat
  img : Option Nat
  vars : List Nat
  judged : Bool
  deriving DecidableEq, Repr

/-- A graph image that the loader has accepted (R85): its context, its address, its words. -/
structure Image where
  id : Nat
  ctx : Nat
  va : Nat
  words : List Word
  deriving DecidableEq, Repr

/-- A context slot of a cell that holds a lift's variant, and the CTX of its blocks there (R85, R104, R115). -/
structure Loaded where
  cell : Nat
  slot : Nat
  ctx : Nat
  img : Nat
  lift : Nat
  var : Nat
  order : Nat
  deriving DecidableEq, Repr

/-- A command (R91 to R94): slot, generation, context, kind, issuer, descriptor, whether that could not be read, predecessors it waits on, whether one of them was
not DONE, issue, engine status once its kind has run, retirement with its order, status, and a bulk copy. -/
structure Cmd where
  slot : Nat
  gen : Nat
  ctx : Nat
  kind : Nat
  eng : Eng
  desc : List Byte
  spoilt : Bool
  waits : List (Nat × Nat)
  cancelled : Bool
  issued : Bool
  result : Option Nat
  retired : Bool
  status : Nat
  order : Nat
  copy : Option Copy
  deriving DecidableEq, Repr

/-- A work queue (R95, R96): an unbound queue has no context; the entries added since it was opened, and the cycle of its last
operation. -/
structure WorkQueue where
  num : Nat
  ctx : Option Nat
  closed : Bool
  entries : List (DWord × Mark)
  added : Word
  at? : Option Nat
  deriving DecidableEq, Repr

/-- An entry of a seam with the marks of its two tokens (R320). -/
structure SeamEntry where
  v : DWord
  lo : Mark
  hi : Mark
  deriving DecidableEq, Repr

/-- An open seam (R317 to R320): its record, the in-fabric part (oldest first), the marks of the entries in the ring (oldest
first) with the number of the oldest, and the entries held at a push end for its peer, each with the stamp of its push. -/
structure Seam where
  ctx : Nat
  num : Nat
  ring : Nat
  slots : Nat
  remote : Bool
  popEnd : Bool
  member : Nat
  peer : Nat
  fab : List SeamEntry
  back : List (Mark × Mark)
  first : Nat
  out : List (Nat × SeamEntry)
  deriving DecidableEq, Repr

/-- A participant of a collective (R322): its engine part, its instruction or command, rank, descriptor, what it has sent, its flags, and
the cycle of its join. -/
structure Join where
  eng : Eng
  cmd : Option Nat
  instr : Option Instr
  desc : List Byte
  sent : List RByte
  counts : List Nat
  readDone : Bool
  status : Nat
  at_ : Nat
  deriving DecidableEq, Repr

/-- A collective instance (R322): context, scope, group, id, the joins so far, and the elements written of its run. -/
structure Coll where
  ctx : Nat
  scope : Scope
  gid : Nat
  cid : Nat
  npart : Nat
  joins : List Join
  written : List Nat
  deriving DecidableEq, Repr

/-- A CAM of an M-die (R109, R288): the region that claims it and its entries: coordinate, position, mark. -/
structure Cam where
  die : Nat
  num : Nat
  rid : Nat
  entries : List (Word × Nat × Mark)
  deriving DecidableEq, Repr

/-! Power, boot and sideband (R360 to R373). -/

/-- A bench of an F-die (R105, R154, R360): its steps up by droop trips, the cycle of the last trip or step back, its steps up by the
current ceiling, whether its clock is stopped, and its count of quiet bench cycles. -/
structure Bench where
  num : Nat
  droop : Nat
  tripAt : Nat
  current : Nat
  stopped : Bool
  quiet : Nat
  deriving DecidableEq, Repr

/-- Where the device stands in its start (R366, R367, R371): without supply, held in reset, in a start, in recovery, in minimal mode
without a wait for an image, ready, or after a failed start. -/
inductive BootPhase where
  | off | held | starting | recovery | minimal | ready | failed
  deriving DecidableEq, Repr

/-- The state of R362 to R371: the fields of BOOT_STATUS, the security state and debug level, package sleep, the SVN of the running image,
the resident and the staged image, the rollback counter, whether the identity key exists, MEAS0 to MEAS3, the recovery registers, the
safe table, an update in progress, and the sideband registers; `limits` holds the sticky bits alone. -/
structure Boot where
  phase : BootPhase
  reason : Nat
  attempts : Nat
  minimal : Bool
  secState : Nat
  debug : Nat
  sleep : Bool
  svn : Nat
  image : List Byte
  staged : List Byte
  rollback : Nat
  idKey : Bool
  meas : List (List Byte)
  rcvAddr : DWord
  rcvLen : Word
  safeTable : Bool
  updating : Bool
  budget : Nat
  modCap : Nat
  tempMax : Nat
  pwrNow : Nat
  limits : Word
  dbgReq : Word
  mailbox : List Word
  smbus : Bool
  deriving DecidableEq, Repr

/-- What the device sends out, besides vectors: answers to host and debug reads with their EP bit or status, and messages to other
members of the group (R114, R241, R319, R373, R383). Kinds: 1 a TLBINV broadcast, 2 its acknowledgement, 3 a seam entry, 4 the answer
to a host read of a register page, 5 to a host read of memory, 6 a quote, 7 the answer to a debug read, 8 to another sideband
command, 9 the vector of a host port, 10 a host write and 11 a host read of another member's register page, 12 a host write and 13 a host read
of another member's memory; for 10 to 13 the status is the member. -/
structure Sent where
  kind : Nat
  bytes : List Byte
  status : Nat
  deriving DecidableEq, Repr

/-- A fault record on its way to the fault log of a context (R331): the faulting cell (4,096 where there is none), its place in cell order, and
its contents. -/
structure LogItem where
  cell : Nat
  rank : Nat
  ctx : Nat
  regs : FaultRegs
  deriving DecidableEq, Repr

/-- A host access to memory that is still to be performed (R305, R383): its offset in the memory BAR, the bytes of a write, else the number
of bytes to read, and the cycle in which it has come (R177). -/
structure HostOp where
  off : Nat
  put : Option (List Byte)
  n : Nat
  arr : Nat
  deriving DecidableEq, Repr

/-- An action still to happen (log 1): an instruction that may issue, a step of the machine, the eviction of a line of the last-level
cache, an error that arises in a line of DRAM (log 54), the look at every guard before the issues of a cycle (R125), a host access whose wait
at a bank is over (R177), or a further attempt of the waiting instruction of a stamp. -/
inductive Action where
  | issue (site : Site)
  | event (i : Instr)
  | evict (line : Nat)
  | spoil (line : Nat)
  | guards
  | host
  | resolve (stamp : Nat)
  deriving DecidableEq, Repr

/-- The state of the machine; `drops` holds PRELOAD_DROP of the cells outside every region (R334, R350), `debugQ` the debug reads that are
answered at the start of the next cycle (R373). -/
structure State where
  cycle : Nat
  agenda : List Action
  site : Site
  fresh : Nat
  cells : List Cell
  flight : List Flight
  chanMsgs : List ChanMsg
  spalls : List SpallMsg
  mem : MemSys
  regions : List Region
  ctxs : List (Nat × CtxRegs)
  dev : DevRegs
  thermal : Bool
  msix : List Nat
  pend : List Pend
  stamps : Nat
  hostPorts : List HostPort
  lrec : List Word
  launchQ : List Launch
  launches : List Launch
  images : List Image
  loaded : List Loaded
  cmds : List Cmd
  queues : List WorkQueue
  seams : List Seam
  colls : List Coll
  cams : List Cam
  parked : List Parked
  benches : List Bench
  boot : Boot
  outbox : List Sent
  drops : List (Nat × Word)
  logQ : List LogItem
  hostOps : List HostOp
  debugQ : List DebugReq
  deriving DecidableEq, Repr

/-! The state right after reset. -/

/-- An empty memory system: nothing listed, every segment dead, every bank OFF (R175; logs 2, 4). -/
def MemSys.reset : MemSys :=
  { bytes := [], marks := [], bad := [], llc := [], banks := [], segs := [], vers := [], verPages := [], tlb := [], epochs := 0, acct := [], metered := [],
    posted := [], units := [], leaving := [], picks := 0 }

/-- The device-wide registers at reset (R346). -/
def DevRegs.reset : DevRegs := { ctxSel := 0, faultHold := 270000, switchGrace := 0x40000, tswAt := 0, tswCtl := 0, member := 0 }

/-- The start and the sideband at reset (R368, R369; log 2). -/
def Boot.reset : Boot :=
  { phase := .held, reason := 0, attempts := 0, minimal := false, secState := Config.provisionedDebug.toNat, debug := 0, sleep := false, svn := 0, image := [], staged := [],
    rollback := 0, idKey := true, meas := List.replicate 4 (List.replicate 64 0), rcvAddr := 0, rcvLen := 0, safeTable := false, updating := false,
    budget := 350, modCap := 2800, tempMax := 0, pwrNow := 0, limits := 0, dbgReq := 0, mailbox := List.replicate 256 0, smbus := false }

/-- The machine right after reset (R78, R95, R175, R346, R366 to R369; logs 2, 3): no region is live and no launch waits. -/
def State.reset : State :=
  { cycle := 0, agenda := [], site := ⟨0, 0, 0⟩, fresh := 0, cells := [], flight := [], chanMsgs := [], spalls := [], mem := .reset, regions := [],
    ctxs := [], dev := .reset, thermal := false, msix := [], pend := [], stamps := 0,
    hostPorts := (List.range 64).map (fun n => { num := n, ingress := [], ovf := false, egress := [], owner := 0 }),
    lrec := List.replicate 12 0, launchQ := [], launches := [], images := [], loaded := [], cmds := [],
    queues := (List.range 64).map (fun n => { num := n, ctx := none, closed := false, entries := [], added := 0, at? := none }),
    seams := [], colls := [], cams := [], parked := [],
    benches := (List.range 64).map (fun n => { num := n, droop := 0, tripAt := 0, current := 0, stopped := true, quiet := 0 }),
    boot := .reset, outbox := [], drops := [], logQ := [], hostOps := [], debugQ := [] }

end Sys2Proof.Machine
end

