-- ==== Sys2Proof/Machine/Ops.lean ====
section
/-! DEFINITION. The named operations on cells, blocks, instruction slots, fields and tokens: R18, R19, R115, R123, R124, R138. -/

namespace Sys2Proof.Machine

/-- A list in the order of `le`, elements that are equal in it as they stood. -/
def insertBy {α : Type} (le : α → α → Bool) (x : α) : List α → List α
  | [] => [x]
  | y :: ys => if le x y then x :: y :: ys else y :: insertBy le x ys

def sortBy {α : Type} (le : α → α → Bool) (l : List α) : List α := l.foldr (insertBy le) []

/-- What a meaning answers. -/
abbrev Result := Host.Outcome State Fault Refusal

/-! Empty pieces of state. -/

def FieldQ.empty : FieldQ := ⟨[], 0, []⟩

def Slot.empty : Slot :=
  { l := .empty, r := .empty, p := .empty, a := .empty, done := 0, seq := 0, sum := 0, sumMark := none, issuedAt := none,
    wants := false, begun := false, age := 0, aged := none, waking := false, sentAt := none, nextId := 0, made := [], run := none }

def Timed.of {α : Type} (x : α) : Timed α := ⟨x, x, none, 0, none⟩

def Acc.zero : Acc := ⟨false, []⟩

def Weights.zero : Weights := ⟨[], [], .fp32⟩

def Pe.fresh : Pe :=
  { division := none, issuedAt := none, acc := List.replicate 4 .zero, cur := .zero, shadow := .zero, stored := false }

/-- The register files after the configuration-complete wave (R161). -/
def RegFiles.fresh : RegFiles :=
  { g := List.replicate 64 (Timed.of ⟨0, false, false, none⟩), v := List.replicate 32 (Timed.of ⟨[], false, false, 0, 0⟩),
    k := List.replicate 8 (Timed.of ⟨0, none⟩), gBanks := List.replicate 4 ⟨.off, 0⟩, vBanks := List.replicate 8 ⟨.off, 0⟩ }

def FaultRegs.clear : FaultRegs := ⟨0, 0, 0, 0, 0⟩

def CellFaults.fresh : CellFaults := ⟨⟨0, 0, 0, none⟩, .clear, .clear, none, .clear, []⟩

/-! Finding and changing cells, blocks, slots, PEs. -/

def State.cell? (s : State) (n : Nat) : Option Cell := s.cells.find? (fun c => c.num == n)

def State.updCell (s : State) (n : Nat) (f : Cell → Cell) : State :=
  { s with cells := s.cells.map (fun c => if c.num == n then f c else c) }

def Cell.block? (c : Cell) (ctx : Nat) : Option Block := c.blocks.find? (fun b => b.ctx == ctx)

def Cell.updBlock (c : Cell) (ctx : Nat) (f : Block → Block) : Cell :=
  { c with blocks := c.blocks.map (fun b => if b.ctx == ctx then f b else b) }

def Block.slot (b : Block) (i : Nat) : Slot := b.slots.getD i .empty

def Block.updSlot (b : Block) (i : Nat) (f : Slot → Slot) : Block := { b with slots := b.slots.set i (f (b.slot i)) }

def Cell.pe (c : Cell) (p : Nat) : Pe := c.pes.getD p .fresh

def Cell.updPe (c : Cell) (p : Nat) (f : Pe → Pe) : Cell := { c with pes := c.pes.set p (f (c.pe p)) }

def State.block? (s : State) (t : Site) : Option Block := (s.cell? t.cell).bind (fun c => c.block? t.ctx)

def State.updBlock (s : State) (t : Site) (f : Block → Block) : State := s.updCell t.cell (fun c => c.updBlock t.ctx f)

def State.updSlot (s : State) (t : Site) (f : Slot → Slot) : State := s.updBlock t (fun b => b.updSlot t.index f)

def State.slot (s : State) (t : Site) : Slot :=
  match s.block? t with
  | some b => b.slot t.index
  | none => .empty

/-- The PE and the slot of an index (R17). -/
def Site.pe (t : Site) : Nat := t.index / 4

def Site.slotNo (t : Site) : Nat := t.index % 4

/-- The number of an execution's (PE, slot) in the order of R164 and R294. -/
def Site.rank (t : Site) : Nat := t.index

def State.region? (s : State) (rid : Nat) : Option Region := s.regions.find? (fun r => r.rid == rid)

def State.updRegion (s : State) (rid : Nat) (f : Region → Region) : State :=
  { s with regions := s.regions.map (fun r => if r.rid == rid then f r else r) }

/-- The instruction that a block holds at an index, read from its configuration storage (R17, R27). A slot that holds NOP is
empty (R42). -/
def Block.instr? (b : Block) (i : Nat) : Option Instr :=
  match b.words[i]? with
  | none => none
  | some w =>
    match decodeWord w with
    | .ok .nop => none
    | .ok j => some j
    | .error _ => none

/-! Fields and tokens. -/

def Slot.field (sl : Slot) (f : FieldSel) : FieldQ :=
  match f with
  | .l => sl.l
  | .r => sl.r
  | .p => sl.p
  | .a => sl.a

def Slot.updField (sl : Slot) (f : FieldSel) (g : FieldQ → FieldQ) : Slot :=
  match f with
  | .l => { sl with l := g sl.l }
  | .r => { sl with r := g sl.r }
  | .p => { sl with p := g sl.p }
  | .a => { sl with a := g sl.a }

/-- The head token of a field. -/
def Slot.head (sl : Slot) (f : FieldSel) : Option Tok := (sl.field f).toks.head?

def FieldQ.dropToks (q : FieldQ) (n : Nat) : FieldQ := { q with toks := q.toks.drop n }

/-- What an execution takes: so many tokens of each field. -/
abbrev Takes := List (FieldSel × Nat)

/-- Whether each field holds the tokens that an execution takes (R124). -/
def Slot.has (sl : Slot) (t : Takes) : Bool := t.all (fun x => decide (x.2 ≤ (sl.field x.1).toks.length))

/-- The slot after the head tokens have been consumed (R123, R134). -/
def Slot.consume (sl : Slot) (t : Takes) : Slot := t.foldl (fun sl x => sl.updField x.1 (·.dropToks x.2)) sl

/-- The operand of a field if the execution takes it. -/
def Slot.opnd (sl : Slot) (t : Takes) (f : FieldSel) : Option Tok := if t.any (fun x => x.1 == f) then sl.head f else none

/-- The four operands of an execution. -/
def Slot.opnds (sl : Slot) (t : Takes) : Opnds := ⟨sl.opnd t .l, sl.opnd t .r, sl.opnd t .p, sl.opnd t .a⟩

/-- The value of an operand, 0 where the field is not taken. -/
def tokVal (t : Option Tok) : Word :=
  match t with
  | some t => t.v
  | none => 0

def tokMark (t : Option Tok) : Mark :=
  match t with
  | some t => t.mark
  | none => none

/-- The mark of what an execution emits: that of its first marked operand in the order l, r, p, a (R138). -/
def Opnds.mark (o : Opnds) : Mark := (tokMark o.l).or ((tokMark o.r).or ((tokMark o.p).or (tokMark o.a)))

/-- The predicate value of R135: true when nonzero. -/
def truth (w : Word) : Bool := w != 0

/-- The token 1 or 0 of R135. -/
def boolWord (b : Bool) : Word := if b then 1 else 0

/-! Room at consumers, and emission (R123, R124, R136). -/

/-- Tokens that an execution sends to a consumer slot. -/
abbrev Emits := List (Consumer × Nat)

/-- The tokens sent to one field by an execution. -/
def Emits.to (e : Emits) (t : Target) : Nat := e.foldl (fun n x => if x.1 = some t then n + x.2 else n) 0

/-- The tokens that an execution takes from one field. -/
def Takes.of (t : Takes) (f : FieldSel) : Nat := t.foldl (fun n x => if x.1 == f then n + x.2 else n) 0

/-- Whether the FIFO of a field has room for what an execution sends to it; the entries that the issue itself frees count as
free (R124, R136). -/
def Block.roomAt (b : Block) (self : Nat) (takes : Takes) (e : Emits) (t : Target) : Bool :=
  let q := (b.slot t.index.toNat).field t.field
  let freed := if t.index.toNat = self then Takes.of takes t.field else 0
  decide (q.toks.length + q.resv + Emits.to e t ≤ 4 + freed)

/-- Whether every valid consumer can take every token that the execution emits (R124). -/
def Block.room (b : Block) (self : Nat) (takes : Takes) (e : Emits) : Bool :=
  e.all (fun x => match x.1 with
    | none => true
    | some t => b.roomAt self takes e t)

/-- Reserve entries at a consumer's FIFO (R124). -/
def Block.reserve (b : Block) (c : Consumer) (n : Nat) : Block :=
  match c with
  | none => b
  | some t => b.updSlot t.index.toNat (fun sl => sl.updField t.field (fun q => { q with resv := q.resv + n }))

/-- The latency of a token inside a cell: 1 bench cycle on the same PE, 2 on another (R123). -/
def hopTo (t : Site) (target : Target) : Nat := if target.index.toNat / 4 = t.pe then 1 else 2

/-- The token on its way from an instruction to a consumer of its block, `extra` bench cycles late (R123, R137). -/
def flightTo (c : Cell) (now : Nat) (t : Site) (target : Target) (tok : Tok) (extra : Nat) : Flight :=
  { site := ⟨t.cell, t.ctx, target.index.toNat⟩, field := target.field, tok := tok, parity := c.parity,
    due := now + (hopTo t target + extra) * c.divider, from_ := t.index }

/-- Send a token whose FIFO entry is already reserved. -/
def State.send (s : State) (t : Site) (c : Consumer) (tok : Tok) (extra : Nat) : State :=
  match c with
  | none => s
  | some target =>
    match s.cell? t.cell with
    | none => s
    | some cell => { s with flight := s.flight ++ [flightTo cell s.cycle t target tok extra] }

/-- Reserve an entry and send a token (R124); a token with no valid consumer slot is discarded (R34). -/
def State.emit (s : State) (t : Site) (c : Consumer) (tok : Tok) : State :=
  (s.updBlock t (fun b => b.reserve c 1)).send t c tok 0

/-- Send one token to every consumer slot: out(v) of R134. -/
def State.emitAll (s : State) (t : Site) (cs : List Consumer) (tok : Tok) : State :=
  cs.foldl (fun s c => s.emit t c tok) s

/-- Reserve the entries of a reply that comes later. -/
def State.reserveAll (s : State) (t : Site) (e : Emits) : State :=
  s.updBlock t (fun b => e.foldl (fun b x => b.reserve x.1 x.2) b)

/-- Reply with tokens on C0, whose entries were reserved at issue. -/
def State.reply (s : State) (t : Site) (c : Consumer) (toks : List Tok) : State :=
  toks.foldl (fun s tok => s.send t c tok 0) s

/-! Counters (R350). -/

/-- Advance counter n of a cell, modulo 2^32. -/
def Cell.count (c : Cell) (n : Nat) (k : Word) : Cell :=
  if c.counters.any (fun x => x.1 == n) then
    { c with counters := c.counters.map (fun x => if x.1 == n then (x.1, x.2 + k) else x) }
  else { c with counters := c.counters ++ [(n, k)] }

def Cell.counter (c : Cell) (n : Nat) : Word :=
  match c.counters.find? (fun x => x.1 == n) with
  | some x => x.2
  | none => 0

def State.count (s : State) (cell n : Nat) (k : Word) : State := s.updCell cell (fun c => c.count n k)

/-! Origins (R329). -/

/-- An origin: cell, PE, slot and FIRE_NO [13:0] of an instruction (R329). -/
def originOf (t : Site) (fire : Word) : Word :=
  BitVec.ofNat 32 (t.cell % 4096 + (t.pe % 16) * 4096 + t.slotNo * 65536 + fire.toNat % 16384 * 262144)

/-- The FIRE_NO of the block at a site (R122). -/
def State.fireNo (s : State) (t : Site) : Word :=
  match s.block? t with
  | some b => b.fireNo
  | none => 0

def State.origin (s : State) (t : Site) : Word := originOf t (s.fireNo t)

/-- A token poisoned by the instruction at a site (R332). -/
def State.poison (s : State) (t : Site) (v : Word) : Tok := ⟨v, some (s.origin t)⟩

end Sys2Proof.Machine
end

