-- ==== Sys2Proof/Machine/Memory.lean ====
section
/-! DEFINITION. Memory: the canonical list of bytes, poison markers, the last-level cache and its charges, scratchpad banks and
segments, page walks. R175 to R177, R214 to R216, R222, R225, R226, R235 to R240, R356, R357, R380. -/

namespace Sys2Proof.Machine

/-! Bytes (R6, R214). What an unlisted address reads as is 0 (log 4). -/

/-- What an address that the list does not hold reads as (log 4). -/
def Memory.unlisted : Byte := 0

/-- The byte at an address. -/
def Memory.get (m : List Host.Cell) (a : Nat) : Byte :=
  match m.find? (fun c => c.1 == a) with
  | some c => c.2
  | none => Memory.unlisted

/-- The list with the byte at an address replaced: sorted, and holding no entry equal to what an unlisted address reads as. -/
def Memory.set (m : List Host.Cell) (a : Nat) (b : Byte) : List Host.Cell :=
  match m with
  | [] => if b = Memory.unlisted then [] else [(a, b)]
  | (x, y) :: rest =>
    if a < x then (if b = Memory.unlisted then (x, y) :: rest else (a, b) :: (x, y) :: rest)
    else if a = x then (if b = Memory.unlisted then rest else (a, b) :: rest)
    else (x, y) :: Memory.set rest a b

/-- The bytes from an address upwards replaced. -/
def Memory.setAll (m : List Host.Cell) (a : Nat) (bs : List Byte) : List Host.Cell :=
  match bs with
  | [] => m
  | b :: rest => Memory.setAll (Memory.set m a b) (a + 1) rest

/-- The canonical form: addresses strictly rising and no entry equal to what an unlisted address reads as. -/
def Memory.wf (m : List Host.Cell) : Bool :=
  match m with
  | [] => true
  | (a, b) :: rest => (b != Memory.unlisted) && rest.all (fun c => decide (a < c.1)) && Memory.wf rest

/-- A little-endian number from bytes (R6). -/
def leNat (bs : List Byte) : Nat :=
  match bs with
  | [] => 0
  | b :: rest => b.toNat + 256 * leNat rest

/-- The n little-endian bytes of a number (R6). -/
def leBytes (n v : Nat) : List Byte :=
  match n with
  | 0 => []
  | n + 1 => BitVec.ofNat 8 v :: leBytes n (v / 256)

/-! Sorted lists of numbers. -/

/-- A number added to a sorted list without repeats. -/
def insertNat (l : List Nat) (a : Nat) : List Nat :=
  match l with
  | [] => [a]
  | x :: rest => if a < x then a :: x :: rest else if a = x then x :: rest else x :: insertNat rest a

/-! The address map (R214). -/

/-- The targets of a physical address. -/
inductive Region214 where
  | dram | spad | host
  deriving DecidableEq, Repr

/-- The target of a physical address (R214). -/
def target (pa : Nat) : Option Region214 :=
  if pa < 0x8000000000 then some .dram
  else if 0x8000000000000 ≤ pa ∧ pa < 0x8000020000000 then some .spad
  else if 0xC000000000000 ≤ pa ∧ pa < 0xD000000000000 then some .host
  else none

/-- The M-die of a scratchpad address (R214). -/
def spadDie (pa : Nat) : Nat := pa / 2 ^ 27 % 4

/-- The scratchpad bank of an address, numbered over the four M-dies (R175, R214). -/
def spadBank (pa : Nat) : Nat := spadDie pa * 512 + pa / 2 ^ 12 % 512

/-- The stack of a DRAM line (R215). -/
def lineStack (line : Nat) : Nat := (line ^^^ (line >>> 3) ^^^ (line >>> 6)) &&& 7

/-- The home M-die of a DRAM line (R215). -/
def lineHome (line : Nat) : Nat := ((line ^^^ (line >>> 3) ^^^ (line >>> 6)) &&& 7) >>> 1

/-- The M-die that holds an address; host memory has none (R214, R215). -/
def homeDie (pa : Nat) : Option Nat :=
  match target pa with
  | some .dram => some (lineHome (pa / 64))
  | some .spad => some (spadDie pa)
  | some .host | none => none

/-! Energy (R356). -/

/-- Charge fJ of one kind to a context tag. -/
def chargeTo (l : List Charge) (tag kind fj : Nat) : List Charge :=
  match l with
  | [] => [⟨tag, kind, fj⟩]
  | c :: rest => if c.tag = tag ∧ c.kind = kind then { c with fj := c.fj + fj } :: rest else c :: chargeTo rest tag kind fj

/-- A charge to a context whose account runs, else to the system account (R355, R357). -/
def MemSys.charge (m : MemSys) (tag kind fj : Nat) : MemSys :=
  { m with acct := chargeTo m.acct (if m.metered.contains tag then tag else 4096) kind fj }

/-- The fJ charged to a tag of a kind. -/
def MemSys.charged (m : MemSys) (tag kind : Nat) : Nat :=
  match m.acct.find? (fun c => c.tag == tag && c.kind == kind) with
  | some c => c.fj
  | none => 0

/-! The last-level cache (R215, R356, R357, R380). -/

/-- Clear the 64 bytes of a line and set its marker: what a read that meets an uncorrectable error leaves (R380). -/
def MemSys.loseLine (m : MemSys) (line : Nat) : MemSys :=
  { m with bytes := Memory.setAll m.bytes (line * 64) (List.replicate 64 0), marks := insertNat m.marks line,
           bad := m.bad.filter (· != line) }

/-- The eviction of a line: a dirty line is written back, its charge falling due as the cycle ends, since a write of the same cycle comes before
the writeback (R357). -/
def MemSys.evict (m : MemSys) (line : Nat) : MemSys :=
  match m.llc.find? (fun x => x.line == line) with
  | none => m
  | some x =>
    let m := { m with llc := m.llc.filter (fun y => y.line != line) }
    if x.dirty then { m with bad := m.bad.filter (· != line), leaving := m.leaving ++ [x] } else m

/-- The writebacks of a cycle charged to the tags of the last writes before them, or to the system account where that context has no state
(R357). -/
def MemSys.writeBacks (m : MemSys) : MemSys :=
  m.leaving.foldl (fun (m : MemSys) x => (m.charge x.tag 2 896000).charge x.tag 1 64000) { m with leaving := [] }

/-- An uncorrectable error arises in a line of DRAM; the next read of the line from there meets it (R380; log 54). -/
def MemSys.spoil (m : MemSys) (line : Nat) : MemSys :=
  if target (line * 64) = some .dram then { m with bad := insertNat m.bad line } else m

/-- The home slice of a line: its M-die, and one of 64 slices of 16 MiB on it (R4, R215). -/
def llcSlice (line : Nat) : Nat × Nat := (lineHome line, line / 8 % 64)

/-- The 64-byte lines of a slice (R4, R215). -/
def sliceLines : Nat := 262144

/-- A place for a line in its slice: where the slice is full, a line of it leaves, whose choice is free (R4, R215; log 12). -/
def MemSys.makeRoom (m : MemSys) (line : Nat) : MemSys :=
  let l := m.llc.filter (fun x => decide (llcSlice x.line = llcSlice line))
  if l.length < sliceLines then m
  else match l[Config.llcVictim m.picks % l.length]? with
    | some x => { m.evict x.line with picks := m.picks + 1 }
    | none => m

/-- A request of n bytes at the home of a DRAM line, with its charge. A read, or a write of part of the line, that misses
fills the line from DRAM, and the fill may meet an uncorrectable error; a write of the whole line replaces what holds one (R225). A write to
a line whose writeback falls in the same cycle comes before it, and its tag stands (R357). -/
def MemSys.atHome (m : MemSys) (tag line n : Nat) (write full : Bool) : MemSys :=
  let held := m.llc.any (fun x => x.line == line)
  let late := write && !held && m.leaving.any (fun x => x.line == line)
  let hit := held || late
  let m := if write then { m with leaving := m.leaving.map (fun x => if x.line = line then ⟨line, true, tag⟩ else x) } else m
  let m := if hit || (write && full) then m.charge tag 1 (1000 * n) else (m.charge tag 2 896000).charge tag 1 64000
  let m := if write && full then { m with bad := m.bad.filter (· != line) }
    else if !hit && m.bad.contains line then m.loseLine line else m
  if hit then
    (if write then { m with llc := m.llc.map (fun x => if x.line = line then ⟨line, true, tag⟩ else x) } else m)
  else
    let m := m.makeRoom line
    { m with llc := m.llc ++ [⟨line, write, tag⟩] }

/-! Scratchpad banks and segments (R165, R175 to R177). -/

/-- The state of a scratchpad bank; a bank that is not listed is OFF. -/
def MemSys.bank (m : MemSys) (b : Nat) : Bank :=
  match m.banks.find? (fun x => x.1 == b) with
  | some x => x.2
  | none => ⟨.off, 0⟩

/-- Insert or replace an entry of a list sorted by key. -/
def putKey {α : Type} (l : List (Nat × α)) (k : Nat) (v : α) : List (Nat × α) :=
  match l with
  | [] => [(k, v)]
  | (x, y) :: rest => if k < x then (k, v) :: (x, y) :: rest else if k = x then (k, v) :: rest else (x, y) :: putKey rest k v

def MemSys.setBank (m : MemSys) (b : Nat) (x : Bank) : MemSys := { m with banks := putKey m.banks b x }

def Segment.dead (page : Nat) : Segment := ⟨page, false, false, 0, 0, 0⟩

/-- The segment of a scratchpad page; one that is not listed is dead. -/
def MemSys.seg (m : MemSys) (page : Nat) : Segment :=
  match m.segs.find? (fun x => x.page == page) with
  | some x => x
  | none => .dead page

def putSeg (l : List Segment) (g : Segment) : List Segment :=
  match l with
  | [] => [g]
  | x :: rest => if g.page < x.page then g :: x :: rest else if g.page = x.page then g :: rest else x :: putSeg rest g

def MemSys.setSeg (m : MemSys) (g : Segment) : MemSys := { m with segs := putSeg m.segs g }

/-- The bank of a scratchpad page loses its contents: every segment of it dies (R165, R177). -/
def MemSys.bankOff (m : MemSys) (b : Nat) : MemSys :=
  { m with segs := m.segs.map (fun (g : Segment) => if spadBank (g.page * 4096) = b then .dead g.page else g) }.setBank b ⟨.off, 0⟩

/-- Whether a scratchpad access can be performed: at once, after a wake it has started or found, or on dead contents. -/
inductive SpadGate where
  | go | wait | dead
  deriving DecidableEq, Repr

/-- A read finds a bank: it is no longer idle, and a KEEP bank begins to wake, in 12 cycles (R165, R177). -/
def MemSys.readTouch (m : MemSys) (now b : Nat) : MemSys :=
  let x := m.bank b
  match x.st with
  | .off => m
  | .keep => m.setBank b ⟨.waking false (now + 12), now⟩
  | .waking _ _ | .full => m.setBank b { x with busyAt := now }

/-- A read at a scratchpad bank (R177): dead where the segment is dead or the bank is OFF or waking from OFF; a KEEP bank is
woken, in 12 cycles, but by a dead read of an engine agent, which wakes nothing (R384). -/
def MemSys.readGate (m : MemSys) (now pa : Nat) (wakes : Bool) : MemSys × SpadGate :=
  let b := spadBank pa
  let x := m.bank b
  if !(m.seg (pa / 4096)).live then (if wakes || x.st ≠ .keep then m.readTouch now b else m, .dead)
  else match x.st with
    | .off => (m, .dead)
    | .waking true _ => (m, .dead)
    | .waking false _ => (m.setBank b { x with busyAt := now }, .wait)
    | .keep => (m.setBank b ⟨.waking false (now + 12), now⟩, .wait)
    | .full => (m.setBank b { x with busyAt := now }, .go)

/-- A write at a scratchpad bank (R177): a KEEP bank is woken in 12 cycles, an OFF bank in 96. -/
def MemSys.writeGate (m : MemSys) (now pa : Nat) : MemSys × SpadGate :=
  let b := spadBank pa
  let x := m.bank b
  match x.st with
  | .off => (m.setBank b ⟨.waking true (now + 96), now⟩, .wait)
  | .keep => (m.setBank b ⟨.waking false (now + 12), now⟩, .wait)
  | .waking _ _ => (m.setBank b { x with busyAt := now }, .wait)
  | .full => (m.setBank b { x with busyAt := now }, .go)

/-- The byte of a live segment: what was written since it became live, else a free value (R222; log 5). -/
def MemSys.spadByte (m : MemSys) (pa : Nat) : Byte :=
  let g := m.seg (pa / 4096)
  if g.written.getLsbD (pa % 4096) then Memory.get m.bytes pa else Config.spadByte g.epoch pa

/-- The segment of a page made live by a write under a tag (R176); a dead segment starts a new life, in which no line carries a mark (R222). -/
def MemSys.enliven (m : MemSys) (page tag : Nat) : MemSys :=
  let g := m.seg page
  if g.live then m.setSeg { g with far := false, tag := tag }
  else { m with epochs := m.epochs + 1, marks := m.marks.filter (fun l => l / 64 != page) }.setSeg ⟨page, true, false, tag, m.epochs, 0⟩

/-- Bytes written to a live segment. -/
def MemSys.spadWrite (m : MemSys) (pa : Nat) (bs : List Byte) : MemSys :=
  match bs with
  | [] => m
  | b :: rest =>
    let g := m.seg (pa / 4096)
    let m := { m with bytes := Memory.set m.bytes pa b }
    (m.setSeg { g with written := g.written ||| (1 <<< (pa % 4096)) }).spadWrite (pa + 1) rest

/-- The segment after a read with a hint (R176). -/
def Segment.hinted (g : Segment) (h : Hint) : Segment :=
  if !g.live then g
  else match h with
    | .none => { g with far := false }
    | .far => { g with far := true }
    | .last => .dead g.page

/-- The mark that a read's hint leaves on a segment (R176); a change of marks restarts the idle run of its bank (R165). -/
def MemSys.hintSeg (m : MemSys) (now page : Nat) (h : Hint) : MemSys :=
  let g := m.seg page
  let b := spadBank (page * 4096)
  if g.hinted h = g then m else (m.setSeg (g.hinted h)).setBank b { m.bank b with busyAt := now }

/-- Whether the memory map refuses an address: no range of R214, or the paired segment of a versioned page, which only its versions
reach (R214, R226). -/
def MemSys.refuses (m : MemSys) (pa : Nat) : Bool :=
  match target pa with
  | none => true
  | some .spad => m.verPages.contains ((pa / 4096) ^^^ 0x200)
  | some .dram | some .host => false

/-! Reads and writes by physical address. A request lies in one 64-byte line. -/

/-- What a read of a part finds. -/
inductive Seen where
  | bytes (bs : List Byte) (poison : Bool)
  | dead
  | wait
  deriving DecidableEq, Repr

def MemSys.plain (m : MemSys) (pa n : Nat) : List Byte := (List.range n).map (fun i => Memory.get m.bytes (pa + i))

/-- Read n bytes of one line under a context tag (R177, R214, R225, R380); `wakes` is false for an engine agent (R384). -/
def MemSys.readAs (wakes : Bool) (m : MemSys) (now tag pa n : Nat) : MemSys × Seen :=
  match target pa with
  | some .dram =>
    let m := m.atHome tag (pa / 64) n false false
    (m, .bytes (m.plain pa n) (m.marks.contains (pa / 64)))
  | some .spad =>
    let (m, g) := m.readGate now pa wakes
    match g with
    | .dead => (m, .dead)
    | .wait => (m, .wait)
    | .go => (m.charge tag 3 (800 * n), .bytes ((List.range n).map (fun i => m.spadByte (pa + i))) (m.marks.contains (pa / 64)))
  | some .host => (m.charge tag 4 (5000 * n), .bytes (m.plain pa n) (m.marks.contains (pa / 64)))
  | none => (m, .dead)

/-- A read by any agent but an engine. -/
def MemSys.read (m : MemSys) (now tag pa n : Nat) : MemSys × Seen := m.readAs true now tag pa n

/-- The markers after a write of n bytes at an address: a poisoned write sets the line's marker, an unpoisoned write of the
whole line clears it (R225). -/
def marksAfter (marks : List Nat) (pa n : Nat) (poison : Bool) : List Nat :=
  if poison then insertNat marks (pa / 64)
  else if pa % 64 = 0 ∧ 64 ≤ n then marks.filter (· != pa / 64)
  else marks

/-- Write bytes within one line under a context tag; false where the access must wait for a bank's wake. -/
def MemSys.write (m : MemSys) (now tag pa : Nat) (bs : List Byte) (poison : Bool) : MemSys × Bool :=
  let n := bs.length
  match target pa with
  | some .dram =>
    let m := m.atHome tag (pa / 64) n true (n == 64)
    ({ m with bytes := Memory.setAll m.bytes pa bs, marks := marksAfter m.marks pa n poison }, true)
  | some .spad =>
    let (m, g) := m.writeGate now pa
    match g with
    | .go =>
      let m := ((m.enliven (pa / 4096) tag).spadWrite pa bs).charge tag 3 (800 * n)
      ({ m with marks := marksAfter m.marks pa n poison }, true)
    | .wait | .dead => (m, false)
  | some .host =>
    (({ m with bytes := Memory.setAll m.bytes pa bs, marks := marksAfter m.marks pa n poison }).charge tag 4 (5000 * n), true)
  | none => (m, true)

/-- The write of a request that has read its line: one request, which the read has charged (R356). -/
def MemSys.rewrite (m : MemSys) (now tag pa : Nat) (bs : List Byte) (poison : Bool) : MemSys × Bool :=
  let (m', ok) := m.write now tag pa bs poison
  ({ m' with acct := m.acct }, ok)

/-- The byte that a write of some bits of it leaves: the other bits as held, or free where nothing has written them (R222). -/
def mixByte (old : Byte) (mask new : Byte) : Byte := (old &&& ~~~mask) ||| (new &&& mask)

/-- Write the bits of a mask in the bytes from an address, within one line (R222). -/
def MemSys.writeBits (m : MemSys) (now tag pa : Nat) (masks news : List Byte) (poison : Bool) : MemSys × Bool :=
  match target pa with
  | some .spad =>
    let (m, g) := m.writeGate now pa
    match g with
    | .go =>
      let m := m.enliven (pa / 4096) tag
      let bs := (List.range news.length).map (fun i => mixByte (m.spadByte (pa + i)) (masks.getD i 0) (news.getD i 0))
      let m := (m.spadWrite pa bs).charge tag 3 (800 * news.length)
      ({ m with marks := marksAfter m.marks pa 0 poison }, true)
    | .wait | .dead => (m, false)
  | some .dram =>
    let m := m.atHome tag (pa / 64) news.length true false
    let bs := (List.range news.length).map (fun i => mixByte (Memory.get m.bytes (pa + i)) (masks.getD i 0) (news.getD i 0))
    ({ m with bytes := Memory.setAll m.bytes pa bs, marks := marksAfter m.marks pa 0 poison }, true)
  | some .host =>
    let bs := (List.range news.length).map (fun i => mixByte (Memory.get m.bytes (pa + i)) (masks.getD i 0) (news.getD i 0))
    (({ m with bytes := Memory.setAll m.bytes pa bs, marks := marksAfter m.marks pa 0 poison }).charge tag 4 (5000 * news.length), true)
  | none => (m, true)

/-! Translation (R235 to R240). -/

/-- What an access needs of its page. -/
structure Need where
  r : Bool
  w : Bool
  deriving DecidableEq, Repr

def Need.load : Need := ⟨true, false⟩
def Need.store : Need := ⟨false, true⟩
def Need.both : Need := ⟨true, true⟩

/-- VA [63:57] all equal VA [56] (R235). -/
def canonical (va : Nat) : Bool := va / 2 ^ 56 = 0 || va / 2 ^ 56 = 255

/-- The tile that serves an address: the XOR of the six 6-bit fields of VA [56:21] (R237). -/
def tileOf (va : Nat) : Nat :=
  let v := va / 2 ^ 21
  (v ^^^ (v >>> 6) ^^^ (v >>> 12) ^^^ (v >>> 18) ^^^ (v >>> 24) ^^^ (v >>> 30)) % 64

/-- What translation answers: a physical address with the version attribute, a fault code, or a walk to make. -/
inductive Xlat where
  | ok (pa : Nat) (ver : Bool)
  | fault (code : Nat)
  | walk
  deriving DecidableEq, Repr

def bitOf (n i : Nat) : Bool := n / 2 ^ i % 2 == 1

/-- The window that an address hits: the first enabled one that covers it (R235, R236). -/
def windowHit (ws : List Window) (va : Nat) : Option Window :=
  ws.find? (fun w => w.enabled && decide (w.vbase ≤ va) && decide (va < w.vbase + w.len))

/-- Whether a page-table entry permits an access (R235 step 5). -/
def permits (entry : Nat) (n : Need) : Bool := (!n.r || bitOf entry 2) && (!n.w || bitOf entry 3)

/-- The translation that a tile holds for an address (R237). -/
def MemSys.tileHit (m : MemSys) (die ctx va : Nat) : Option TlbEntry :=
  m.tlb.find? (fun e => e.die == die && e.ctx == ctx && e.tile == tileOf va && decide (e.vbase ≤ va) && decide (va < e.vbase + e.size))

/-- Steps 1 to 3 and 5 of R235; a write through a tile entry whose D is clear goes to the walker (R240). -/
def MemSys.lookup (m : MemSys) (ws : List Window) (die ctx va : Nat) (n : Need) : Xlat :=
  if !canonical va then .fault 5
  else match windowHit ws va with
    | some w => if (!n.r || w.r) && (!n.w || w.w) then .ok (w.pbase + (va - w.vbase)) w.ver else .fault 5
    | none =>
      match m.tileHit die ctx va with
      | some e =>
        if !permits e.entry n then .fault 5
        else if n.w && !bitOf e.entry 6 then .walk
        else .ok (e.pbase + (va - e.vbase)) e.ver
      | none => .walk

/-- A page-table entry that V, its reserved bits and its level admit (R239): `level` 3 is the root. -/
def entryOk (entry level : Nat) : Bool :=
  let leaf := bitOf entry 1
  let p64 := bitOf entry 8
  let ver := bitOf entry 7
  let pa := entry % 2 ^ 52 / 4096 * 4096
  bitOf entry 0 && !bitOf entry 4 && entry / 2 ^ 9 % 8 == 0 && entry / 2 ^ 52 % 256 == 0 &&
    !(leaf && level == 3) && !(p64 && !(leaf && level == 0)) &&
    !(ver && !(leaf && level == 0 && !p64 && target pa == some .spad)) &&
    !(leaf && level == 2 && pa % 2 ^ 30 != 0) && !(leaf && level == 1 && pa % 2 ^ 21 != 0) && !(leaf && p64 && pa % 2 ^ 16 != 0)

/-- A walker's read of an entry: none where it lies outside DRAM, meets an error or a marked line (R238). -/
def MemSys.readEntry (m : MemSys) (now tag pa : Nat) : MemSys × Option Nat :=
  match target pa with
  | some .dram =>
    match m.read now tag pa 8 with
    | (m, .bytes bs false) => (m, some (leNat bs))
    | (m, .bytes _ true) | (m, .dead) | (m, .wait) => (m, none)
  | some .spad | some .host | none => (m, none)

/-- The page size that a leaf maps (R238). -/
def leafSize (entry level : Nat) : Nat :=
  if level = 2 then 2 ^ 30 else if level = 1 then 2 ^ 21 else if bitOf entry 8 then 2 ^ 16 else 4096

/-- The entry of a table for an address, with the entry's address (R238): none where it cannot be read or is not admitted. -/
def MemSys.tableEntry (m : MemSys) (now tag va level base : Nat) : MemSys × Option (Nat × Nat) :=
  let index := if level = 3 then va / 2 ^ 39 % 2 ^ 18 else va / 2 ^ (12 + 9 * level) % 512
  let addr := base + 8 * index
  match m.readEntry now tag addr with
  | (m, none) => (m, none)
  | (m, some entry) => (m, if entryOk entry level then some (entry, addr) else none)

/-- The table that an entry points to (R239). -/
def tableBase (entry : Nat) : Nat := entry % 2 ^ 52 / 4096 * 4096

/-- The levels below a table (R238): `level` counts down from 3; answers the leaf entry, its address and its level. An entry of L0 with LEAF = 0,
below which there is no table and for which R239 names no fault, faults PAGE (DESIGN CHOICE, log 63). -/
def MemSys.walkFrom (m : MemSys) (now tag va : Nat) : Nat → Nat → MemSys × Option (Nat × Nat × Nat)
  | 0, base => match m.tableEntry now tag va 0 base with
    | (m, none) => (m, none)
    | (m, some x) => (m, if bitOf x.1 1 then some (x.1, x.2, 0) else none)
  | l + 1, base => match m.tableEntry now tag va (l + 1) base with
    | (m, none) => (m, none)
    | (m, some x) => if bitOf x.1 1 then (m, some (x.1, x.2, l + 1)) else m.walkFrom now tag va l (tableBase x.1)

/-- The words of a range of bytes. -/
def wordsOf (pa n : Nat) : List Nat := (List.range ((pa % 4 + n + 3) / 4)).map (fun i => pa / 4 + i)

/-- Whether the atomic unit of a word of a range has applied an operation in this cycle already (R308). -/
def MemSys.unitBusy (m : MemSys) (pa n : Nat) : Bool := (wordsOf pa n).any m.units.contains

/-- The atomic units of the words of a range apply an operation (R308). -/
def MemSys.useUnit (m : MemSys) (pa n : Nat) : MemSys := { m with units := m.units ++ wordsOf pa n }

/-- The translations of a tile (R109). -/
def tileEntries : Nat := 4096

/-- A translation put into its tile in place of an earlier one of the same page; where the tile is full, one of it leaves, whose choice is
free (R109, R237; log 12). -/
def MemSys.fillTile (m : MemSys) (e : TlbEntry) : MemSys :=
  let keep := m.tlb.filter (fun x => !(x.die == e.die && x.ctx == e.ctx && x.tile == e.tile && x.vbase == e.vbase && x.size == e.size))
  let mine := keep.filter (fun x => x.die == e.die && x.tile == e.tile)
  if mine.length < tileEntries then { m with tlb := keep ++ [e] }
  else match mine[Config.tlbVictim m.picks % mine.length]? with
    | some x => { m with tlb := keep.filter (fun y => !decide (y = x)) ++ [e], picks := m.picks + 1 }
    | none => { m with tlb := keep ++ [e] }

/-- A walk of a context's table (R238 to R240): the leaf is judged by step 5, A and D are set in its entry by a compare-and-swap at the entry's
home, which waits for the next cycle where the atomic unit has applied an operation in this one (R308), and the tile is filled. -/
def MemSys.walk (m : MemSys) (now die ctx : Nat) (ptRoot : DWord) (va : Nat) (n : Need) : MemSys × Xlat :=
  if !ptRoot.getLsbD 0 then (m, .fault 4)
  else
    match m.walkFrom now ctx va 3 (ptRoot.toNat / 2 ^ 21 % 2 ^ 31 * 2 ^ 21) with
    | (m, none) => (m, .fault 4)
    | (m, some (entry, addr, level)) =>
      if !permits entry n then (m, .fault 5)
      else
        let withA := if bitOf entry 5 then entry else entry + 32
        let entry' := if n.w && !bitOf withA 6 then withA + 64 else withA
        if entry' ≠ entry ∧ m.unitBusy addr 8 = true then (m, .walk)
        else
        let m := if entry' = entry then m else (m.write now ctx addr (leBytes 8 entry') false).1.useUnit addr 8
        let size := leafSize entry level
        let e : TlbEntry := { die := die, tile := tileOf va, ctx := ctx, vbase := va / size * size, size := size,
                              pbase := entry % 2 ^ 52 / 4096 * 4096 / size * size, ver := bitOf entry 7, entryAddr := addr, entry := entry' }
        (m.fillTile e, .ok (e.pbase + (va - e.vbase)) e.ver)

/-- A write through a tile entry whose D is clear: a compare-and-swap of the entry against the cached value; where it fails,
or where no entry is held, a walk from the root (R240). -/
def MemSys.walkOrSet (m : MemSys) (now die ctx : Nat) (ptRoot : DWord) (va : Nat) (n : Need) : MemSys × Xlat :=
  match m.tileHit die ctx va with
  | none => m.walk now die ctx ptRoot va n
  | some e =>
    match m.readEntry now ctx e.entryAddr with
    | (m, some held) =>
      if held = e.entry && n.w && permits e.entry n then
        if m.unitBusy e.entryAddr 8 then (m, .walk)
        else
        let e' := { e with entry := if bitOf held 6 then held else held + 64 }
        let m := (m.rewrite now ctx e.entryAddr (leBytes 8 e'.entry) false).1.useUnit e.entryAddr 8
        ({ m with tlb := m.tlb.map (fun x => if x = e then e' else x) }, .ok (e.pbase + (va - e.vbase)) e.ver)
      else m.walk now die ctx ptRoot va n
    | (m, none) => m.walk now die ctx ptRoot va n

/-- The whole translation of R235 in one step, for an agent with the windows `ws`; `walk` where its compare-and-swap waits (R308). -/
def MemSys.translate (m : MemSys) (now : Nat) (ws : List Window) (die ctx : Nat) (ptRoot : DWord) (va : Nat) (n : Need) : MemSys × Xlat :=
  match m.lookup ws die ctx va n with
  | .walk => m.walkOrSet now die ctx ptRoot va n
  | x => (m, x)

/-! The sequencer and the host (R84, R177, R331). -/

/-- A translation by the sequencer, which has no windows and no tile; its compare-and-swap does not wait at an atomic unit, but those of the
same cycle wait behind it (log 11); what the memory map refuses is PROT (R214, R226). -/
def MemSys.translateSeq (m : MemSys) (now ctx : Nat) (ptRoot : DWord) (va : Nat) (n : Need) : MemSys × Xlat :=
  if !canonical va then (m, .fault 5)
  else
    let (m', x) := { m with units := [] }.walk now 0 ctx ptRoot va n
    ({ m' with tlb := m.tlb, units := m.units ++ m'.units }, match x with
      | .ok pa ver => if m'.refuses pa then .fault 5 else .ok pa ver
      | .fault _ | .walk => x)

/-- The physical address to which a table maps an address with its permissions; the look sets neither A nor D (R236). -/
def MemSys.tablePa (m : MemSys) (now ctx : Nat) (ptRoot : DWord) (va : Nat) (n : Need) : MemSys × Option Nat :=
  if !canonical va || !ptRoot.getLsbD 0 then (m, none)
  else match m.walkFrom now ctx va 3 (ptRoot.toNat / 2 ^ 21 % 2 ^ 31 * 2 ^ 21) with
    | (m, none) => (m, none)
    | (m, some (entry, _, level)) =>
      let size := leafSize entry level
      (m, if permits entry n then some (entry % 2 ^ 52 / 4096 * 4096 / size * size + va % size) else none)

/-- A write that is performed now, or once the scratchpad bank it has begun to wake is FULL (R177); `cmd` is the command that retires after
it (R92, R301). -/
def MemSys.post (m : MemSys) (now tag pa : Nat) (bs : List Byte) (cmd : Option Nat := none) : MemSys :=
  let (m, ok) := m.write now tag pa bs false
  if ok then m else { m with posted := m.posted ++ [⟨tag, pa, bs, cmd⟩] }

/-- The posted writes performed in their order, but for those whose banks still wake. -/
def MemSys.flushPosted (m : MemSys) (now : Nat) : MemSys := m.posted.foldl (fun m x => m.post now x.tag x.pa x.bytes x.cmd) { m with posted := [] }

end Sys2Proof.Machine
end

