-- ==== Sys2Proof/Machine/Flags.lean ====
section
/-! DEFINITION. Flags and faults: EXC (R70, R71), and taking a fault as one shared operation, with its registers, its log record,
its action and its interrupt (R327 to R333). -/

namespace Sys2Proof.Machine

/-! EXC (R70). -/

/-- EXC with the copy of its value before this cycle brought up to date. -/
def Exc.touch (e : Exc) (now : Nat) : Exc := if e.at? = some now then e else ⟨e.now, e.now, 0, some now⟩

/-- Flags that hardware raises. -/
def Exc.raise (e : Exc) (now : Nat) (flags : Word) : Exc :=
  if flags = 0 then e else let e := e.touch now; { e with now := e.now ||| flags, raised := e.raised ||| flags }

/-- What a read returns: the value before the raises of its cycle. -/
def Exc.read (e : Exc) (now : Nat) : Word := if e.at? = some now then e.was else e.now

/-- A write by software: bits [4:0]; a bit raised in the same cycle ends as 1. -/
def Exc.write (e : Exc) (now : Nat) (v : Word) : Exc :=
  let e := e.touch now
  { e with now := (v &&& 31) ||| e.raised }

/-- EXCRD's clear of the flags that a token names; a flag raised in the same cycle stays (R349). -/
def Exc.clear (e : Exc) (now : Nat) (v : Word) : Exc :=
  let e := e.touch now
  { e with now := (e.now &&& ~~~(v &&& 31)) ||| e.raised }

def Cell.raiseFlags (c : Cell) (now : Nat) (flags : Word) : Cell := { c with flt := { c.flt with exc := c.flt.exc.raise now flags } }

def State.raiseFlags (s : State) (cell : Nat) (flags : Word) : State := s.updCell cell (fun c => c.raiseFlags s.cycle flags)

/-! Contexts' registers (R346). -/

/-- The registers of a context at their reset values (R331, R336, R346). -/
def CtxRegs.reset : CtxRegs :=
  { fltCtl := 0x00036FE0, fltLog := 0, fltCnt := 0, occMap := 0, hangLimit := 0x100000, seamBase := 0, ptRoot := 0, saveBase := 0,
    dicts := List.replicate 16 ⟨.fp32, List.replicate 64 0⟩, cfirings := 0, cmds := 0, egressed := 0 }

def State.ctxRegs (s : State) (ctx : Nat) : CtxRegs :=
  match s.ctxs.find? (fun x => x.1 == ctx) with
  | some x => x.2
  | none => .reset

def State.updCtx (s : State) (ctx : Nat) (f : CtxRegs → CtxRegs) : State :=
  { s with ctxs := putKey s.ctxs ctx (f (s.ctxRegs ctx)) }

/-! Fault codes (R327). -/

def codeDeadReg : Nat := 1
def codeDeadSpad : Nat := 2
def codeNmMalformed : Nat := 3
def codePage : Nat := 4
def codeProt : Nat := 5
def codeAtomAlign : Nat := 6
def codePriv : Nat := 7
def codeStaleToken : Nat := 8
def codeAdvRange : Nat := 9
def codeVersionRange : Nat := 10
def codeHang : Nat := 11
def codePoisonSink : Nat := 12
def codeMcheck : Nat := 13
def codeEvicted : Nat := 14
def codeFibreMalformed : Nat := 15
def codeTrap : Nat := 16
def codeWqClosed : Nat := 17

/-- Whether a fault stops its region: the context's FLT_CTL bit of its code, unless it is held (R327, R331). -/
def faultStops (ctl : Word) (code : Nat) (held : Bool) : Bool := ctl.getLsbD code && !held

/-- FLT_CAUSE of a fault (R329). -/
def causeWord (code sub : Nat) (held stop parked : Bool) : Word :=
  BitVec.ofNat 32 (code % 256 + sub % 256 * 256 + held.toNat * 65536 + stop.toNat * 131072 + parked.toNat * 524288 + 2147483648)

/-- The fault registers after a fault: the first since the last clear is recorded, a later one only sets OVF (R329). -/
def FaultRegs.record (r new : FaultRegs) : FaultRegs :=
  if r.cause.getLsbD 31 then { r with cause := r.cause ||| 0x00040000 } else new

def CellFaults.touch (f : CellFaults) (now : Nat) : CellFaults :=
  if f.at? = some now then f else { f with was := f.regs, at? := some now, base := f.regs, raised := [] }

/-- A fault recorded in a cell's registers; the faults of one cycle are taken in cell order, whichever is found first (R294, R328). -/
def CellFaults.record (f : CellFaults) (now rank : Nat) (new : FaultRegs) : CellFaults :=
  let f := f.touch now
  if f.raised.all (fun x => decide (x.1 ≤ rank)) then { f with regs := f.regs.record new, raised := f.raised ++ [(rank, new)] }
  else
    let l := insertBy (fun (x y : Nat × FaultRegs) => decide (x.1 < y.1)) (rank, new) f.raised
    { f with regs := (l.map (fun x => x.2)).foldl FaultRegs.record f.base, raised := l }

/-- The clear of the five registers by a write of FLT_CAUSE; the faults of the same cycle are recorded after it (R329). -/
def CellFaults.clear (f : CellFaults) (now : Nat) : CellFaults :=
  let f := f.touch now
  { f with regs := (f.raised.map (fun x => x.2)).foldl FaultRegs.record FaultRegs.clear, base := .clear }

/-- What a read of the fault registers returns: their value before the faults of its cycle (R329). -/
def CellFaults.read (f : CellFaults) (now : Nat) : FaultRegs := if f.at? = some now then f.was else f.regs

/-- The bytes of a log record (R331). -/
def recordBytes (r : FaultRegs) (seq : Word) : List Byte :=
  leBytes 4 r.cause.toNat ++ leBytes 4 r.origin.toNat ++ leBytes 8 r.addr.toNat ++ leBytes 8 r.aux.toNat ++
    leBytes 4 r.fire.toNat ++ leBytes 4 seq.toNat

/-- The entries of a fault log: 2^LGN, LGN at least 4 and at most 20 (R331). -/
def logLines (fltLog : DWord) : Nat := 2 ^ (max 4 (min 20 (fltLog.toNat / 2 % 32)))

/-- Append a record to a context's fault log (R331): nothing is written where EN = 0; a write that faults clears EN. -/
def State.writeLog (s : State) (ctx : Nat) (r : FaultRegs) : State :=
  let c := s.ctxRegs ctx
  if !c.fltLog.getLsbD 0 then s
  else
    let va := c.fltLog.toNat / 4096 * 4096 + 32 * (c.fltCnt.toNat % logLines c.fltLog)
    match s.mem.translateSeq s.cycle ctx c.ptRoot va .store with
    | (m, .ok pa _) =>
      if (target pa).isSome then
        let s := { s with mem := m.post s.cycle ctx pa (recordBytes { r with cause := r.cause &&& ~~~0x00040000 } c.fltCnt) }
        let s := s.updCtx ctx (fun c => { c with fltCnt := c.fltCnt + 1 })
        { s with msix := s.msix ++ [s.dev.member] }
      else { s with mem := m }.updCtx ctx (fun c => { c with fltLog := c.fltLog &&& ~~~1 })
    | (m, .fault _) | (m, .walk) => { s with mem := m }.updCtx ctx (fun c => { c with fltLog := c.fltLog &&& ~~~1 })

/-- The order in which the records of a cycle reach the log: ascending cell, then cell order (R331). -/
def LogItem.before (x y : LogItem) : Bool := decide (x.cell < y.cell) || (decide (x.cell = y.cell) && decide (x.rank < y.rank))

/-- A record on its way to the log; the records of a cycle are appended as it ends (R331). -/
def State.log (s : State) (x : LogItem) : State := { s with logQ := insertBy LogItem.before x s.logQ }

/-- The record of a fault that no cell records. -/
def State.logAlone (s : State) (ctx : Nat) (r : FaultRegs) : State := s.log ⟨4096, s.stamps, ctx, r⟩

/-- The records of a cycle appended to the logs of their contexts in their order (R331). -/
def State.flushLog (s : State) : State := s.logQ.foldl (fun s x => s.writeLog x.ctx x.regs) { s with logQ := [] }

/-- A region that a fault stops: nothing of it issues from the next cycle on (R328), and the endpoint raises its vector (R331). Of the faults
of one cycle the first in cell order stops it. -/
def State.stopRegion (s : State) (rid : Nat) (cause : Word) (rank : Nat) : State :=
  let s := s.updRegion rid (fun r =>
    if r.stopAt = none then { r with stopAt := some s.cycle, stopCause := cause, stopRank := rank }
    else if r.stopAt = some s.cycle ∧ rank < r.stopRank then { r with stopCause := cause, stopRank := rank } else r)
  { s with msix := s.msix ++ [s.dev.member] }

/-- Whether a region still runs: it exists and has not ended. -/
def State.regionLives (s : State) (rid : Nat) : Bool := (s.region? rid).any (fun r => !r.gone)

/-- Taking a fault (R327 to R331): the cell's registers, the context's log, then the action. A fault of an operation whose region has
ended stops nothing. -/
def State.raise (s : State) (f : FaultRec) : State :=
  let stop := faultStops (s.ctxRegs f.ctx).fltCtl f.code f.held && (match f.rid with
    | some rid => s.regionLives rid
    | none => true)
  let regs : FaultRegs := ⟨causeWord f.code f.sub f.held stop f.parked, f.origin, f.addr, f.aux, f.fire⟩
  let rank := f.stamp.getD s.stamps
  let s := match f.cell with
    | some n => s.updCell n (fun c => { c with flt := c.flt.record s.cycle rank regs })
    | none => s
  let s := s.log ⟨(f.cell.map (fun n => n % 4096)).getD 4096, rank, f.ctx, regs⟩
  match stop, f.rid with
  | true, some rid => s.stopRegion rid regs.cause rank
  | true, none | false, _ => s

/-- A fault raised by the instruction at a site, with its own origin (R329); `stamp` is that of an instruction that issued before this cycle. -/
def State.faultAt (s : State) (t : Site) (code sub : Nat) (held : Bool) (addr aux : DWord) (stamp : Option Nat := none) : State :=
  match s.cell? t.cell with
  | none => s
  | some c =>
    s.raise { cell := some t.cell, ctx := c.context, rid := some c.rid, code := code, sub := sub, held := held, parked := false,
              origin := s.origin t, addr := addr, aux := aux, fire := s.fireNo t, stamp := stamp }

/-- A PROT, PRIV or WQ_CLOSED that is no access: FLT_AUX holds the opcode (R330). -/
def State.opcodeFault (s : State) (t : Site) (code : Nat) (i : Instr) (stamp : Option Nat := none) : State :=
  s.faultAt t code 0 false 0 (BitVec.ofNat 64 i.opcode) stamp

/-- FLT_AUX of POISON_SINK (R330): the sink's cell, PE, slot and kind. -/
def sinkAux (t : Site) (kind : Nat) : DWord :=
  BitVec.ofNat 64 (t.cell % 4096 + t.pe % 16 * 4096 + t.slotNo * 65536 + kind % 8 * 262144)

/-- A poisoned value reaches a sink (R333): the record carries the poison's origin; `stamp` is that of an instruction that issued before this
cycle. -/
def State.sink (s : State) (t : Site) (kind : Nat) (addr : DWord) (origin : Word) (stamp : Option Nat := none) : State :=
  match s.cell? t.cell with
  | none => s
  | some c =>
    s.raise { cell := some t.cell, ctx := c.context, rid := some c.rid, code := codePoisonSink, sub := 0, held := false,
              parked := false, origin := origin, addr := addr, aux := sinkAux t kind,
              fire := BitVec.ofNat 32 (origin.toNat / 262144), stamp := stamp }

/-- The sinks of one execution: the first is logged, each later one advances POISON_SINKS (R333, R350). -/
def State.sinks (s : State) (t : Site) (kind : Nat) (addr : DWord) (origins : List Word) : State :=
  match origins with
  | [] => s
  | o :: rest => (s.sink t kind addr o).count t.cell 5 (BitVec.ofNat 32 rest.length)

end Sys2Proof.Machine
end

