-- ==== Sys2Proof/Machine/Operands.lean ====
section
/-! DEFINITION. Operands: the tokens that each execution takes and emits (R34, R97, R128, R134 to R157), register-file accesses
with their marks and banks (R163 to R167), and immediates (R35). -/

namespace Sys2Proof.Machine

/-! Immediates. -/

/-- sext(IMM15, 15) of R35. -/
def sext15 (imm : BitVec 15) : Word := imm.signExtend 32

/-- An unsigned 15-bit immediate. -/
def zext15 (imm : BitVec 15) : Word := imm.zeroExtend 32

/-- The right side of CMPI: zero-extended under LTU and GEU, sign-extended otherwise (R148). -/
def cmpImm (k : Cond) (imm : BitVec 12) : Word :=
  match k with
  | .ltu | .geu => imm.zeroExtend 32
  | .eq | .ne | .lt | .ge | .le | .gt => imm.signExtend 32

/-! Same-cycle register accesses (R164). -/

/-- The register with the copy of its value before this cycle brought up to date. -/
def Timed.touch {α : Type} (r : Timed α) (now : Nat) : Timed α := if r.at? = some now then r else ⟨r.now, r.now, some now, 0, none⟩

/-- The value that every read of a cycle returns: the one held before the cycle. -/
def Timed.view {α : Type} (r : Timed α) (now : Nat) : α := if r.at? = some now then r.was else r.now

/-- The strength of a read's mark: LAST over FAR over none (R164). -/
def hintRank : Hint → Nat
  | .none => 1
  | .far => 2
  | .last => 3

/-- A read with a hint: the strongest hint of the cycle marks the value held before it, unless a write has replaced it. -/
def Timed.readMark {α : Type} (r : Timed α) (now : Nat) (h : Hint) (mark : Hint → α → α) : Timed α :=
  let r := r.touch now
  let k := max r.hint (hintRank h)
  let strongest : Hint := if k = 3 then .last else if k = 2 then .far else .none
  match r.writer with
  | some _ => { r with hint := k }
  | none => { r with now := mark strongest r.was, hint := k }

/-- A write by the instruction of a rank in (PE, slot) order: the highest of the cycle remains. -/
def Timed.write {α : Type} (r : Timed α) (now rank : Nat) (x : α) : Timed α :=
  let r := r.touch now
  match r.writer with
  | some k => if k ≤ rank then { r with now := x, writer := some rank } else r
  | none => { r with now := x, writer := some rank }

/-- The marks that a read leaves (R163). -/
def GReg.marked (h : Hint) (r : GReg) : GReg :=
  match h with
  | .none => { r with far := false }
  | .far => { r with far := true }
  | .last => { r with valid := false, far := false }

def VReg.marked (h : Hint) (r : VReg) : VReg :=
  match h with
  | .none => { r with far := false }
  | .far => { r with far := true }
  | .last => { r with valid := false, far := false }

def RegFiles.gReg (f : RegFiles) (g : Nat) : Timed GReg := f.g.getD g (Timed.of ⟨0, false, false, none⟩)
def RegFiles.vReg (f : RegFiles) (v : Nat) : Timed VReg := f.v.getD v (Timed.of ⟨[], false, false, 0, 0⟩)
def RegFiles.kReg (f : RegFiles) (k : Nat) : Timed KReg := f.k.getD k (Timed.of ⟨0, none⟩)
def RegFiles.gBank (f : RegFiles) (b : Nat) : Bank := f.gBanks.getD b ⟨.off, 0⟩
def RegFiles.vBank (f : RegFiles) (b : Nat) : Bank := f.vBanks.getD b ⟨.off, 0⟩

def RegFiles.setG (f : RegFiles) (g : Nat) (x : Timed GReg) : RegFiles := { f with g := f.g.set g x }
def RegFiles.setV (f : RegFiles) (v : Nat) (x : Timed VReg) : RegFiles := { f with v := f.v.set v x }
def RegFiles.setK (f : RegFiles) (k : Nat) (x : Timed KReg) : RegFiles := { f with k := f.k.set k x }
def RegFiles.setGBank (f : RegFiles) (b : Nat) (x : Bank) : RegFiles := { f with gBanks := f.gBanks.set b x }
def RegFiles.setVBank (f : RegFiles) (b : Nat) (x : Bank) : RegFiles := { f with vBanks := f.vBanks.set b x }

def Cell.updRegs (c : Cell) (f : RegFiles → RegFiles) : Cell := { c with regs := f c.regs }

/-! Banks (R126, R165 to R167). -/

/-- What an access finds at its bank: it can go (a dead read goes at once), it starts a wake, or it waits for one. -/
inductive BankNeed where
  | go | wake | wait
  deriving DecidableEq, Repr

/-- A read of a register of a bank (R126, R167). -/
def Bank.readNeed (b : Bank) (valid : Bool) : BankNeed :=
  match b.st with
  | .off | .full => .go
  | .keep => if valid then .wake else .go
  | .waking fromOff _ => if valid && !fromOff then .wait else .go

/-- A write of a register of a bank (R126). -/
def Bank.writeNeed (b : Bank) : BankNeed :=
  match b.st with
  | .off | .keep => .wake
  | .waking _ _ => .wait
  | .full => .go

/-- The bank with its wake started: 4 bench cycles from KEEP, 24 from OFF (R165). -/
def Bank.startWake (b : Bank) (now d : Nat) : Bank :=
  match b.st with
  | .off => ⟨.waking true (now + 24 * d), now⟩
  | .keep => ⟨.waking false (now + 4 * d), now⟩
  | .waking _ _ | .full => b

/-- The bank after a dead read (R163, R165): no longer idle, and its wake started where it is in KEEP. -/
def Bank.deadTouch (b : Bank) (now d : Nat) : Bank :=
  match b.st with
  | .off => b
  | .keep => b.startWake now d
  | .waking _ _ | .full => { b with busyAt := now }

/-- What an instruction's register access finds at its bank. -/
def bankNeed (c : Cell) (now : Nat) (i : Instr) : BankNeed :=
  match i with
  | .rd g _ _ => (c.regs.gBank (g.toNat / 16)).readNeed ((c.regs.gReg g.toNat).view now).valid
  | .wr g _ => (c.regs.gBank (g.toNat / 16)).writeNeed
  | .drdv v _ _ _ => (c.regs.vBank (v.toNat / 4)).readNeed ((c.regs.vReg v.toNat).view now).valid
  | .dwrv v _ _ _ => (c.regs.vBank (v.toNat / 4)).writeNeed
  | _ => .go

/-- The wake that an instruction's access starts (R126, R166). -/
def Cell.startWake (c : Cell) (now : Nat) (i : Instr) : Cell :=
  match i with
  | .rd g _ _ | .wr g _ =>
    c.updRegs (fun f => f.setGBank (g.toNat / 16) ((f.gBank (g.toNat / 16)).startWake now c.divider))
  | .drdv v _ _ _ | .dwrv v _ _ _ =>
    c.updRegs (fun f => f.setVBank (v.toNat / 4) ((f.vBank (v.toNat / 4)).startWake now c.divider))
  | _ => c

/-- Whether a read of a register is dead: its register is invalid, or its bank is OFF or waking from OFF (R167). -/
def deadRead (b : Bank) (valid : Bool) : Bool :=
  !valid || (match b.st with
    | .off => true
    | .waking fromOff _ => fromOff
    | .keep | .full => false)

/-- Every register of a scalar bank made invalid. -/
def RegFiles.killG (f : RegFiles) (b : Nat) : RegFiles :=
  { f with g := f.g.mapIdx (fun i r => if i / 16 = b then { r with now := { r.now with valid := false, far := false } } else r) }

/-- Every register of a vector bank made invalid. -/
def RegFiles.killV (f : RegFiles) (b : Nat) : RegFiles :=
  { f with v := f.v.mapIdx (fun i r => if i / 4 = b then { r with now := { r.now with valid := false, far := false } } else r) }

/-! What an execution takes and emits. -/

/-- Whether some word of the block names a field of the instruction at an index (R97, R98). -/
def Block.named (b : Block) (index : Nat) (f : FieldSel) : Bool :=
  (List.range b.words.length).any (fun j => match b.instr? j with
    | none => false
    | some i => i.consumers.any (fun c => match c with
      | none => false
      | some t => t.index.toNat == index && t.field == f))

/-- The 64-bit registers of R346. -/
def sysReg64 (n : Nat) : Bool := n == 5 || n == 0x12 || n == 0x13 || n == 0x21 || n == 0x23 || n == 0x25 || n == 0x30 || n == 0x31 || n == 0x3B

/-- The tokens that an execution needs at the heads of its fields (R34, R97, R134, R152, R155, R156, R241, R277, R286,
R320, R347). -/
def needsOf (i : Instr) (b : Block) (index : Nat) (sl : Slot) : Takes :=
  match i with
  | .merge _ _ =>
    match sl.head .p with
    | some p => if truth p.v then [(.p, 1), (.l, 1)] else [(.p, 1), (.r, 1)]
    | none => [(.p, 1)]
  | .cmdMatrix _ _ | .cmdBulk _ _ | .cmdCollective _ _ | .cmdLift _ _ | .cmdChild _ _ =>
    if b.named index .r then [(.l, 2), (.r, 1)] else [(.l, 2)]
  | .egress _ _ _ => if b.named index .r then [(.l, 1), (.r, 1)] else [(.l, 1)]
  | .ingress _ _ _ => if b.kind == 4 && !b.named index .l then [] else [(.l, 1)]
  | .seamoPop _ _ _ | .seamoStatus _ _ => [(.l, 1)]
  | .tlbinv _ _ | .nmest _ _ | .isld _ _ _ => [(.l, 3)]
  | .nmchk _ _ | .fibh _ _ | .isprb _ _ _ => [(.l, 2)]
  | .scana _ _ _ | .scano _ _ _ => [(.l, 3), (.r, 2)]
  | .union _ _ => [(.l, 2), (.r, 2)]
  | .swr n _ => if sysReg64 n.toNat then [(.l, 2)] else [(.l, 1)]
  | _ => (i.accepts.filter (fun x => !x.2)).map (fun x => (x.1, 1))

/-- The tokens that an execution consumes: those it needs, except inside a sequence of CNT or CNTX (R155, R156). -/
def consumesOf (i : Instr) (b : Block) (index : Nat) (sl : Slot) : Takes :=
  match i with
  | .cnt n _ => if sl.seq + 1 < n.toNat then [] else [(.l, 1)]
  | .cntx _ _ => if sl.seq + 1 < (tokVal (sl.head .r)).toNat then [] else [(.l, 1), (.r, 1)]
  | _ => needsOf i b index sl

/-- The tokens that an execution emits on each consumer slot (R34, R151, R153, R156, R157, R97, R320, R347). -/
def emitsOf (i : Instr) (sl : Slot) : Emits :=
  match i with
  | .steer c1 c0 => if truth (tokVal (sl.head .p)) then [(c0, 1)] else [(c1, 1)]
  | .gate t c1 c0 => if truth (tokVal (sl.head .p)) == t then [(c0, 1), (c1, 1)] else []
  | .accum c1 c0 => if truth (tokVal (sl.head .p)) then [(c0, 1), (c1, 1)] else []
  | .cntx c1 c0 => if tokVal (sl.head .r) = 0 then [] else [(c0, 1), (c1, 1)]
  | .wqtake _ _ _ c0 => [(c0, 2)]
  | .seamoPop _ _ c0 => [(c0, 2)]
  | .nmhdr _ c0 => [(c0, 2)]
  | .srd n c0 => if sysReg64 n.toNat then [(c0, 2)] else [(c0, 1)]
  | .aggo _ _ => []
  | _ => if i.emitsStream then [] else i.consumers.map (fun c => (c, 1))

/-- The executions of an instruction in one firing, where they are limited (R128). -/
def execLimit (i : Instr) : Option Nat :=
  match i with
  | .recv _ n _ _ | .peek _ n _ _ | .send _ n => some n.toNat
  | _ => none

end Sys2Proof.Machine
end

