-- ==== Sys2Proof/Machine/Issue.lean ====
section
/-! DEFINITION. The guard of an instruction, the arbitration of a PE's control ALU, and issue (R120, R124 to R126, R136, R137). -/

namespace Sys2Proof.Machine

/-- Whether a region's instructions may issue: it exists, and no fault has stopped it before this cycle (R328). -/
def State.regionGoes (s : State) (rid : Nat) : Bool :=
  match s.region? rid with
  | none => false
  | some r => match r.stopAt with
    | none => true
    | some k => decide (s.cycle ≤ k)

/-- Whether the bench of a cell acts in this cycle (R105): its divider, and the thermal stop of R360. -/
def State.benchActs (s : State) (c : Cell) : Bool := decide (s.cycle % c.divider = 0) && !s.thermal

/-- Whether the head tokens of a CNT or CNTX have started a sequence (R155, R156); a count of 0 starts none. -/
def Slot.sequence (sl : Slot) (i : Instr) : Bool :=
  match i with
  | .cnt _ _ => (sl.head .l).isSome
  | .cntx _ _ => (sl.head .l).isSome && (sl.head .r).any (fun t => t.v != 0)
  | _ => false

/-- Whether the instructions of a block may issue: its cell is awake, the block is current and in a firing, no change of slot is
in course, and no FEND has closed the firing before this cycle, except to what was executing then: an instruction that waits on a wake, or
the sequence of a CNT or CNTX (R120, R124, R159, R348; log 46). -/
def State.running (s : State) (c : Cell) (b : Block) (sl : Slot) : Bool :=
  decide (c.cur = some b.ctx) && b.firing && decide (c.switchUntil ≤ s.cycle) && decide (c.adoptAt ≤ s.cycle) && s.benchActs c &&
    s.regionGoes c.rid &&
    (match b.fend with
    | none => true
    | some f => decide (s.cycle ≤ f) || sl.waking || sl.begun)

/-- Whether the channel of a RECV or PEEK holds the token of the next execution (R129). -/
def chanReady (i : Instr) (b : Block) (sl : Slot) : Bool :=
  match i with
  | .recv ch _ off _ | .peek ch _ off _ =>
    match b.ins[ch.toNat]? with
    | some ic => decide (off.toNat + sl.done < (ic.pp - ic.cp).toNat)
    | none => false
  | _ => true

def Cell.port? (c : Cell) (n : Nat) : Option Port := c.ports.find? (fun p => p.num == n)

/-- The ports whose accesses an instruction adds to (R223). -/
def accessPort (i : Instr) : Option Nat :=
  match i with
  | .aggat p _ _ | .agsct p _ _ | .lds p _ _ _ | .sts p _ _ | .ldv p _ _ _ | .stv p _ _ | .reclaim p _ => some p.toNat
  | .win p _ _ | .copy p _ _ | .copyr p _ _ _ _ | .copyc p _ _ _ => some p.toNat
  | .atom p _ _ _ _ | .lda p _ _ _ | .stl p _ _ _ => some p.toNat
  | .mma p _ _ _ _ | .mmasp p _ _ _ _ | .mmarow p _ _ _ _ | .prune p _ _ _ => some p.toNat
  | .nmhdr p _ | .nmchk p _ => some p.toNat
  | .scana p _ _ | .scano p _ _ | .isld p _ _ | .isprb p _ _ | .union p _ | .fibh p _ => some p.toNat
  | _ => none

/-- Whether a port has room for one more access: at most 64 are in flight (R223). -/
def portRoom (c : Cell) (i : Instr) : Bool :=
  match accessPort i with
  | none => true
  | some p => match c.port? p with
    | none => true
    | some q => decide (q.accs.length < 64)

/-- Whether an instruction issues a copy (R230, R282). -/
def isCopy (i : Instr) : Bool :=
  match i with
  | .copy _ _ _ | .copyr _ _ _ _ _ | .copyc _ _ _ _ => true
  | _ => false

/-- COPY, COPYR and COPYC do not issue with 256 copies of the cell in flight (R230). -/
def copyRoom (c : Cell) (i : Instr) : Bool :=
  !isCopy i || decide ((c.copies.filter (fun x => match x.job with
    | some j => !j.ended
    | none => false)).length +
      (c.ports.foldl (fun n p => n + (p.accs.filter (fun a => isCopy a.instr && (match a.stage with
        | .done _ | .stream _ _ _ => false
        | .walk | .ready | .held _ _ _ _ => true))).length) 0) < 256)

/-- MERGEK begins a run only once its run before has ended (R290). -/
def State.mergeFree (s : State) (c : Cell) (b : Block) (index : Nat) (i : Instr) : Bool :=
  match i with
  | .mergek _ _ _ => !s.pend.any (fun p => decide (p.site = ⟨c.num, b.ctx, index⟩))
  | _ => true

/-- AGL and AGGO wait while a nest of their port runs (R220). -/
def nestFree (c : Cell) (i : Instr) : Bool :=
  match i with
  | .agl p _ | .aggo p _ => match c.port? p.toNat with
    | none => true
    | some q => q.nest.isNone
  | _ => true

/-- Whether a waiting instruction is an INGRESS of a host port. -/
def Pend.ingress (q : Pend) (p : BitVec 6) : Bool :=
  match q.instr with
  | .ingress n _ _ => n == p
  | _ => false

/-- An untriggered INGRESS of a host-port block executes while its host port holds an ingress token that no waiting INGRESS has claimed (R98). -/
def State.ingressGuard (s : State) (b : Block) (index : Nat) (i : Instr) : Bool :=
  match i with
  | .ingress p _ _ =>
    !(b.kind == 4 && !b.named index .l) || s.hostPorts.any (fun h => h.num == p.toNat && decide ((s.pend.filter (fun q => q.ingress p)).length < h.ingress.length))
  | _ => true

/-- UPD does not issue while an update of its cell has reached an owner that still reads its range: the wait back-pressures the sender (R312;
log 50). -/
def State.updRoom (s : State) (c : Cell) (i : Instr) : Bool :=
  match i with
  | .upd _ => !(s.region? c.rid).any (fun r => r.updates.any (fun u => decide (u.site.cell = c.num) && decide (u.due ≤ s.cycle) &&
      r.owners.any (fun o => o.eng.stamp == u.owner && !o.ready)))
  | _ => true

/-- The guard of a control instruction, but for its register bank (R124): its block runs, its fields hold their tokens, every
consumer has room, executions are left, and what it reads or adds to is there. -/
def State.holds (s : State) (c : Cell) (b : Block) (index : Nat) (i : Instr) : Bool :=
  let sl := b.slot index
  s.running c b sl && sl.has (needsOf i b index sl) && b.room index (consumesOf i b index sl) (emitsOf i sl) &&
    (match execLimit i with
    | none => true
    | some n => decide (sl.done < n)) &&
    chanReady i b sl && portRoom c i && copyRoom c i && nestFree c i && s.mergeFree c b index i && s.ingressGuard b index i && s.updRoom c i

/-- Whether the control ALU of a PE can issue in this cycle (R125): none issued yet, no division in course. -/
def Pe.free (p : Pe) (now : Nat) : Bool := decide (p.issuedAt ≠ some now) && p.division.isNone

/-- The control slots of a PE whose guards hold (R125). -/
def State.contenders (s : State) (c : Cell) (b : Block) (pe : Nat) : List Nat :=
  [4 * pe + 1, 4 * pe + 2, 4 * pe + 3].filter (fun j => match b.instr? j with
    | none => false
    | some i => s.holds c b j i && (bankNeed c s.cycle i == .go))

/-- The slot of a list whose age reached 1,024 first, the lowest of those of one cycle; none where no slot has (R125). -/
def Block.firstAged (b : Block) : List Nat → Option Nat
  | [] => none
  | j :: rest => match (b.slot j).aged, b.firstAged rest with
    | none, k => k
    | some _, none => some j
    | some x, some k => if ((b.slot k).aged.getD x) < x then some k else some j

/-- The slot that the arbitration issues: the slot that reached age 1,024 first, else the lowest (R125). -/
def State.winner (s : State) (c : Cell) (b : Block) (pe : Nat) : Option Nat :=
  let l := s.contenders c b pe
  (b.firstAged l).or l.head?

/-- Whether a control instruction at a site issues in this cycle (R124, R125). -/
def State.ready (s : State) (t : Site) (i : Instr) : Bool :=
  match s.cell? t.cell with
  | none => false
  | some c => match c.block? t.ctx with
    | none => false
    | some b =>
      s.holds c b t.index i && (bankNeed c s.cycle i == .go) && (c.pe t.pe).free s.cycle && decide (s.winner c b t.pe = some t.index)

/-- The bookkeeping of an issue: tokens consumed, the PE's issue of this cycle, the age and the wake of the slot, ISSUED and its
energy (R124, R125, R350, R356). -/
def Cell.tookAt (c : Cell) (now : Nat) (t : Site) (i : Instr) : Cell :=
  let c := c.updBlock t.ctx (fun b => b.updSlot t.index (fun sl =>
    { (sl.consume (consumesOf i b t.index sl)) with done := sl.done + 1, issuedAt := some now, age := 0, aged := none, waking := false }))
  (c.updPe t.pe (fun p => { p with issuedAt := some now })).count 1 1

def State.took (s : State) (t : Site) (i : Instr) : State :=
  let tag := match s.cell? t.cell with
    | some c => c.context
    | none => 0
  { s.updCell t.cell (fun c => c.tookAt s.cycle t i) with mem := s.mem.charge tag 0 1000 }

/-- An instruction whose guard lacks only its bank: it starts the bank's wake or waits for one, and counts as executing
(R126, R166). -/
def State.wakeFor (s : State) (t : Site) (i : Instr) : State :=
  match s.cell? t.cell with
  | none => s
  | some c => match c.block? t.ctx with
    | none => s
    | some b =>
      if s.holds c b t.index i then
        match bankNeed c s.cycle i with
        | .go => s
        | .wake => (s.updCell t.cell (fun c => c.startWake s.cycle i)).updSlot t (fun sl => { sl with waking := true })
        | .wait => s.updSlot t (fun sl => { sl with waking := true })
      else s

/-- The operands of the execution that would issue at a site. -/
def State.opnds (s : State) (t : Site) (i : Instr) : Opnds :=
  match s.block? t with
  | some b => (b.slot t.index).opnds (needsOf i b t.index (b.slot t.index))
  | none => ⟨none, none, none, none⟩

/-- Issue of a control instruction at the current site: where its guard holds and its PE grants it, it consumes its tokens and
has its effect; otherwise nothing happens but the wake of its bank. -/
def issueCtl (i : Instr) (s : State) (effect : State → Opnds → State) : Result :=
  if s.ready s.site i then .next (effect (s.took s.site i) (s.opnds s.site i))
  else .next (s.wakeFor s.site i)

/-- A control-ALU instruction that emits one value on every consumer slot, marked as its operands are (R134, R138). -/
def runAlu (i : Instr) (s : State) (f : Word → Word → Word → Word) : Result :=
  issueCtl i s (fun s' o => s'.emitAll s.site i.consumers ⟨f (tokVal o.l) (tokVal o.r) (tokVal o.p), o.mark⟩)

/-- The second token at the head of a field; some instructions take two or three (R97, R241, R347). -/
def State.nthTok (s : State) (t : Site) (f : FieldSel) (n : Nat) : Option Tok := ((s.slot t).field f).toks[n]?

end Sys2Proof.Machine
end

