-- ==== Sys2Proof/Machine/Control.lean ====
section
/-! DEFINITION. The control-plane instructions, opcodes 0x00 to 0x35 (R134 to R159), and the completion of a division. -/

namespace Sys2Proof.Machine

/-! Values. -/

/-- Bits [63:32] of the signed product (R141). -/
def mulHigh (l r : Word) : Word := ((l.signExtend 64 * r.signExtend 64).extractLsb' 32 32)

/-- Bits [63:32] of the unsigned product (R141). -/
def mulHighU (l r : Word) : Word := ((l.zeroExtend 64 * r.zeroExtend 64).extractLsb' 32 32)

/-- The number of leading zero bits among the low n bits (R145). -/
def clzFrom (w : Word) : Nat → Nat
  | 0 => 0
  | n + 1 => if w.getLsbD n then 0 else clzFrom w n + 1

/-- CLZ of R145. -/
def clz32 (w : Word) : Word := BitVec.ofNat 32 (clzFrom w 32)

/-- The set bits among the low n (R145). -/
def popcFrom (w : Word) : Nat → Nat
  | 0 => 0
  | n + 1 => (w.getLsbD n).toNat + popcFrom w n

/-- POPC of R145. -/
def popc32 (w : Word) : Word := BitVec.ofNat 32 (popcFrom w 32)

/-- The low n bits moved to mirrored places (R145). -/
def brevFrom (w : Word) : Nat → Nat
  | 0 => 0
  | n + 1 => (w.getLsbD n).toNat * 2 ^ (31 - n) + brevFrom w n

/-- BREV of R145. -/
def brev32 (w : Word) : Word := BitVec.ofNat 32 (brevFrom w 32)

/-- The field of R146: bits past bit 31 read as zero; the sign of a field narrower than 32 bits is bit width - 1. -/
def bitField (sx : Bool) (width low : Nat) (l : Word) : Word :=
  let f := l >>> low
  if width < 32 then
    let mask : Word := BitVec.ofNat 32 (2 ^ width - 1)
    let g := f &&& mask
    if sx && g.getLsbD (width - 1) then g ||| ~~~mask else g
  else f

/-- The conditions of R30 on 32-bit words (R148). -/
def cmpWord (k : Cond) (l y : Word) : Bool :=
  match k with
  | .eq => l == y
  | .ne => l != y
  | .lt => BitVec.slt l y
  | .ge => !BitVec.slt l y
  | .ltu => BitVec.ult l y
  | .geu => !BitVec.ult l y
  | .le => !BitVec.slt y l
  | .gt => BitVec.slt y l

/-- DIV of R142. -/
def divS (l r : Word) : Word := if r = 0 then 0xFFFFFFFF else l.sdiv r

/-- DIVU of R142. -/
def divU (l r : Word) : Word := if r = 0 then 0xFFFFFFFF else l / r

/-- REM of R142. -/
def remS (l r : Word) : Word := if r = 0 then l else l.srem r

/-- REMU of R142. -/
def remU (l r : Word) : Word := if r = 0 then l else l % r

/-! Instructions. -/

/-- NOP: a slot that holds it behaves as an empty slot and never fires (R42). -/
def execNop (s : State) : Result := .next s

/-- MOV (R140). -/
def execMov (c1 c0 : Consumer) (s : State) : Result :=
  runAlu (.mov c1 c0) s (fun l _ _ => l)

/-- CONST (R140: the l token is a trigger). -/
def execConst (imm : BitVec 15) (c0 : Consumer) (s : State) : Result :=
  runAlu (.const imm c0) s (fun _ _ _ => sext15 imm)

/-- SHLOR (R140). -/
def execShlor (imm : BitVec 15) (c0 : Consumer) (s : State) : Result :=
  runAlu (.shlor imm c0) s (fun l _ _ => (l <<< 15) ||| zext15 imm)

/-- ADD (R141). -/
def execAdd (c1 c0 : Consumer) (s : State) : Result :=
  runAlu (.add c1 c0) s (fun l r _ => l + r)

/-- ADDI (R141). -/
def execAddi (imm : BitVec 15) (c0 : Consumer) (s : State) : Result :=
  runAlu (.addi imm c0) s (fun l _ _ => l + sext15 imm)

/-- SUB (R141). -/
def execSub (c1 c0 : Consumer) (s : State) : Result :=
  runAlu (.sub c1 c0) s (fun l r _ => l - r)

/-- NEG (R141). -/
def execNeg (c1 c0 : Consumer) (s : State) : Result :=
  runAlu (.neg c1 c0) s (fun l _ _ => 0 - l)

/-- MUL (R141). -/
def execMul (c1 c0 : Consumer) (s : State) : Result :=
  runAlu (.mul c1 c0) s (fun l r _ => l * r)

/-- MULH (R141). -/
def execMulh (c1 c0 : Consumer) (s : State) : Result :=
  runAlu (.mulh c1 c0) s (fun l r _ => mulHigh l r)

/-- MULHU (R141). -/
def execMulhu (c1 c0 : Consumer) (s : State) : Result :=
  runAlu (.mulhu c1 c0) s (fun l r _ => mulHighU l r)

/-- MULI (R141). -/
def execMuli (imm : BitVec 15) (c0 : Consumer) (s : State) : Result :=
  runAlu (.muli imm c0) s (fun l _ _ => l * sext15 imm)

/-- AND (R144). -/
def execAnd (c1 c0 : Consumer) (s : State) : Result :=
  runAlu (.and c1 c0) s (fun l r _ => l &&& r)

/-- ANDI (R144). -/
def execAndi (imm : BitVec 15) (c0 : Consumer) (s : State) : Result :=
  runAlu (.andi imm c0) s (fun l _ _ => l &&& sext15 imm)

/-- OR (R144). -/
def execOr (c1 c0 : Consumer) (s : State) : Result :=
  runAlu (.or c1 c0) s (fun l r _ => l ||| r)

/-- ORI (R144). -/
def execOri (imm : BitVec 15) (c0 : Consumer) (s : State) : Result :=
  runAlu (.ori imm c0) s (fun l _ _ => l ||| sext15 imm)

/-- XOR (R144). -/
def execXor (c1 c0 : Consumer) (s : State) : Result :=
  runAlu (.xor c1 c0) s (fun l r _ => l ^^^ r)

/-- XORI (R144). -/
def execXori (imm : BitVec 15) (c0 : Consumer) (s : State) : Result :=
  runAlu (.xori imm c0) s (fun l _ _ => l ^^^ sext15 imm)

/-- SHL (R144). -/
def execShl (c1 c0 : Consumer) (s : State) : Result :=
  runAlu (.shl c1 c0) s (fun l r _ => l <<< (r &&& 31))

/-- SHLI (R144). -/
def execShli (sh : BitVec 5) (c0 : Consumer) (s : State) : Result :=
  runAlu (.shli sh c0) s (fun l _ _ => l <<< sh)

/-- SHR (R144). -/
def execShr (c1 c0 : Consumer) (s : State) : Result :=
  runAlu (.shr c1 c0) s (fun l r _ => l >>> (r &&& 31))

/-- SHRI (R144). -/
def execShri (sh : BitVec 5) (c0 : Consumer) (s : State) : Result :=
  runAlu (.shri sh c0) s (fun l _ _ => l >>> sh)

/-- SAR (R144). -/
def execSar (c1 c0 : Consumer) (s : State) : Result :=
  runAlu (.sar c1 c0) s (fun l r _ => l.sshiftRight (r &&& 31).toNat)

/-- SARI (R144). -/
def execSari (sh : BitVec 5) (c0 : Consumer) (s : State) : Result :=
  runAlu (.sari sh c0) s (fun l _ _ => l.sshiftRight sh.toNat)

/-- CLZ (R145). -/
def execClz (c1 c0 : Consumer) (s : State) : Result :=
  runAlu (.clz c1 c0) s (fun l _ _ => clz32 l)

/-- POPC (R145). -/
def execPopc (c1 c0 : Consumer) (s : State) : Result :=
  runAlu (.popc c1 c0) s (fun l _ _ => popc32 l)

/-- BREV (R145). -/
def execBrev (c1 c0 : Consumer) (s : State) : Result :=
  runAlu (.brev c1 c0) s (fun l _ _ => brev32 l)

/-- BFX (R146). -/
def execBfx (sx : Bool) (wm1 low : BitVec 5) (c0 : Consumer) (s : State) : Result :=
  runAlu (.bfx sx wm1 low c0) s (fun l _ _ => bitField sx (wm1.toNat + 1) low.toNat l)

/-- MIN (R147). -/
def execMin (c1 c0 : Consumer) (s : State) : Result :=
  runAlu (.min c1 c0) s (fun l r _ => if BitVec.slt r l then r else l)

/-- MAX (R147). -/
def execMax (c1 c0 : Consumer) (s : State) : Result :=
  runAlu (.max c1 c0) s (fun l r _ => if BitVec.slt l r then r else l)

/-- MINU (R147). -/
def execMinu (c1 c0 : Consumer) (s : State) : Result :=
  runAlu (.minu c1 c0) s (fun l r _ => if BitVec.ult r l then r else l)

/-- MAXU (R147). -/
def execMaxu (c1 c0 : Consumer) (s : State) : Result :=
  runAlu (.maxu c1 c0) s (fun l r _ => if BitVec.ult l r then r else l)

/-- CMP (R148). -/
def execCmp (k : Cond) (c1 c0 : Consumer) (s : State) : Result :=
  runAlu (.cmp k c1 c0) s (fun l r _ => boolWord (cmpWord k l r))

/-- CMPI (R148). -/
def execCmpi (k : Cond) (imm : BitVec 12) (c0 : Consumer) (s : State) : Result :=
  runAlu (.cmpi k imm c0) s (fun l _ _ => boolWord (cmpWord k l (cmpImm k imm)))

/-- SEL (R149). -/
def execSel (c1 c0 : Consumer) (s : State) : Result :=
  runAlu (.sel c1 c0) s (fun l r p => if truth p then l else r)

/-- TEST (R149). -/
def execTest (c1 c0 : Consumer) (s : State) : Result :=
  runAlu (.test c1 c0) s (fun l r _ => boolWord (truth (l &&& r)))

/-- PAND (R150). -/
def execPand (c1 c0 : Consumer) (s : State) : Result :=
  runAlu (.pand c1 c0) s (fun l r _ => boolWord (truth l && truth r))

/-- POR (R150). -/
def execPor (c1 c0 : Consumer) (s : State) : Result :=
  runAlu (.por c1 c0) s (fun l r _ => boolWord (truth l || truth r))

/-- PNOT (R150). -/
def execPnot (c1 c0 : Consumer) (s : State) : Result :=
  runAlu (.pnot c1 c0) s (fun l _ _ => boolWord (!truth l))

/-- PXOR (R150). -/
def execPxor (c1 c0 : Consumer) (s : State) : Result :=
  runAlu (.pxor c1 c0) s (fun l r _ => boolWord (truth l != truth r))

/-- MERGE (R152: the selected token alone is taken, the other field reads as not taken). -/
def execMerge (c1 c0 : Consumer) (s : State) : Result :=
  runAlu (.merge c1 c0) s (fun l r p => if truth p then l else r)

/-- Start a division: it holds the PE's ALU for 34 bench cycles, its consumers' entries reserved (R137, R142, R143). -/
def startDivision (i : Instr) (s : State) (f : Word → Word → Word) : Result :=
  issueCtl i s (fun s' o =>
    let tok : Tok := ⟨f (tokVal o.l) (tokVal o.r), o.mark⟩
    let s' := s'.reserveAll s.site (i.consumers.map (fun c => (c, 1)))
    s'.updCell s.site.cell (fun c => c.updPe s.site.pe (fun p => { p with division := some ⟨s.site, tok, 33⟩ })))

/-- DIV (R142). -/
def execDiv (c1 c0 : Consumer) (s : State) : Result := startDivision (.div c1 c0) s divS

/-- DIVU (R142). -/
def execDivu (c1 c0 : Consumer) (s : State) : Result := startDivision (.divu c1 c0) s divU

/-- REM (R142). -/
def execRem (c1 c0 : Consumer) (s : State) : Result := startDivision (.rem c1 c0) s remS

/-- REMU (R142). -/
def execRemu (c1 c0 : Consumer) (s : State) : Result := startDivision (.remu c1 c0) s remU

/-- DIVIDE_COMPLETE: a bench cycle of the division of a PE passes (R105); in the last of its 34 it emits its result, which arrives at issue + 34
on the same PE and + 35 on another, and the ALU is free from the next cycle (R137, R143). -/
def execDivideComplete (cell pe : Nat) (s : State) : Result :=
  match s.cell? cell with
  | none => .next s
  | some c => match (c.pe pe).division with
    | none => .next s
    | some d =>
      if !s.benchActs c then .next s
      else if d.left ≤ 1 then
        let cs := match (c.block? d.site.ctx).bind (fun b => b.instr? d.site.index) with
          | some i => i.consumers
          | none => []
        let s := s.updCell cell (fun c => c.updPe pe (fun p => { p with division := none, issuedAt := some s.cycle }))
        .next (cs.foldl (fun s t => s.send d.site t d.tok 0) s)
      else .next (s.updCell cell (fun c => c.updPe pe (fun p => { p with division := some { d with left := d.left - 1 } })))

/-- STEER (R151): the l token goes to C0 when p is true, to C1 when it is false. -/
def execSteer (c1 c0 : Consumer) (s : State) : Result :=
  issueCtl (.steer c1 c0) s (fun s' o =>
    s'.emit s.site (if truth (tokVal o.p) then c0 else c1) ⟨tokVal o.l, o.mark⟩)

/-- A token discarded by DROP or GATE: a marked one counts in POISON_DISC (R138, R350). -/
def discardTok (s : State) (t : Option Tok) : State :=
  match tokMark t with
  | some _ => s.count s.site.cell 3 1
  | none => s

/-- GATE (R153). -/
def execGate (t : Bool) (c1 c0 : Consumer) (s : State) : Result :=
  issueCtl (.gate t c1 c0) s (fun s' o =>
    if truth (tokVal o.p) == t then s'.emitAll s.site [c0, c1] ⟨tokVal o.l, o.mark⟩ else discardTok s' o.l)

/-- DROP (R153). -/
def execDrop (s : State) : Result := issueCtl .drop s (fun s' o => discardTok s' o.l)

/-- A slot after an execution of a sequence of n: the next, or none where this was the last (R155, R156, R159). -/
def Slot.nextIn (sl : Slot) (n : Nat) : Slot :=
  if sl.seq + 1 < n then { sl with seq := sl.seq + 1 } else { sl with seq := 0, begun := false }

/-- CNT (R155): execution e of the sequence emits b + e; the last removes the base token. -/
def execCnt (n : BitVec 15) (c0 : Consumer) (s : State) : Result :=
  let e := (s.slot s.site).seq
  issueCtl (.cnt n c0) s (fun s' o =>
    (s'.updSlot s.site (fun sl => sl.nextIn n.toNat)).emit s.site c0
      ⟨tokVal o.l + BitVec.ofNat 32 e, o.mark⟩)

/-- CNTX (R156): the index on C0 and the last-flag on C1; a count of 0 takes its tokens and emits nothing. -/
def execCntx (c1 c0 : Consumer) (s : State) : Result :=
  let e := (s.slot s.site).seq
  issueCtl (.cntx c1 c0) s (fun s' o =>
    let n := (tokVal o.r).toNat
    let s' := s'.updSlot s.site (fun sl => sl.nextIn n)
    if n = 0 then s'
    else (s'.emit s.site c0 ⟨tokVal o.l + BitVec.ofNat 32 e, o.mark⟩).emit s.site c1 ⟨boolWord (decide (e + 1 = n)), o.mark⟩)

/-- ACCUM (R157): the sum and its mark grow with each term; a true p emits them and clears them. -/
def execAccum (c1 c0 : Consumer) (s : State) : Result :=
  let sl := s.slot s.site
  issueCtl (.accum c1 c0) s (fun s' o =>
    let sum := sl.sum + tokVal o.l
    let mark := sl.sumMark.or (tokMark o.l)
    if truth (tokVal o.p) then
      (s'.updSlot s.site (fun sl => { sl with sum := 0, sumMark := none })).emitAll s.site [c0, c1] ⟨sum, mark.or (tokMark o.p)⟩
    else s'.updSlot s.site (fun sl => { sl with sum := sum, sumMark := mark }))

/-- FIRENO (R122, R158). -/
def execFireno (c1 c0 : Consumer) (s : State) : Result :=
  runAlu (.fireno c1 c0) s (fun _ _ _ => s.fireNo s.site)

/-- The identity word of CELLID (R158). -/
def cellIdWord (c : Cell) (t : Site) : Word :=
  BitVec.ofNat 32 (c.num % 4096 + c.rx % 32 * 2 ^ 12 + c.ry % 32 * 2 ^ 17 + t.ctx % 4 * 2 ^ 22 + t.pe % 16 * 2 ^ 24)

/-- CELLID (R158). -/
def execCellid (c1 c0 : Consumer) (s : State) : Result :=
  runAlu (.cellid c1 c0) s (fun _ _ _ => match s.cell? s.site.cell with
    | some c => cellIdWord c s.site
    | none => 0)

/-- LANEID (R158). -/
def execLaneid (c1 c0 : Consumer) (s : State) : Result :=
  runAlu (.laneid c1 c0) s (fun l _ _ =>
    BitVec.ofNat 32 (l.toNat % 128 + s.site.pe % 16 * 2 ^ 7 + s.site.cell % 4096 * 2 ^ 11))

end Sys2Proof.Machine
end

