-- ==== Sys2Proof/Machine/Registers.lean ====
section
/-! DEFINITION. Register reads and writes, banks and their forced states, and the bank steps (R160 to R178). -/

namespace Sys2Proof.Machine

/-! Waiting instructions. -/

/-- A control instruction that issues, reserves its reply and waits: it is appended to the list of waiting instructions. -/
def State.wait (s : State) (t : Site) (i : Instr) (o : Opnds) (more : List Tok) (notes : List Nat) : State :=
  { s with pend := s.pend ++ [⟨t, s.fireNo t, i, o, more, notes, [], none, s.stamps⟩], stamps := s.stamps + 1 }

/-! Register instructions (R168). -/

/-- The bank of a scalar register with an access in this cycle (R165). -/
def Cell.touchG (c : Cell) (now g : Nat) : Cell :=
  c.updRegs (fun f => f.setGBank (g / 16) { f.gBank (g / 16) with busyAt := now })

/-- The bank of a vector register with an access in this cycle (R165). -/
def Cell.touchV (c : Cell) (now v : Nat) : Cell :=
  c.updRegs (fun f => f.setVBank (v / 4) { f.vBank (v / 4) with busyAt := now })

/-- A dead read of a scalar register at its bank: an access (R163), which begins the wake of a KEEP bank (R165). -/
def Cell.deadTouchG (c : Cell) (now g : Nat) : Cell :=
  c.updRegs (fun f => f.setGBank (g / 16) ((f.gBank (g / 16)).deadTouch now c.divider))

/-- A dead read of a vector register at its bank (R163, R165). -/
def Cell.deadTouchV (c : Cell) (now v : Nat) : Cell :=
  c.updRegs (fun f => f.setVBank (v / 4) ((f.vBank (v / 4)).deadTouch now c.divider))

/-- The token of a dead read: poisoned by the reading instruction, its value free (R167; log 5). -/
def State.deadTok (s : State) (t : Site) : Tok := s.poison t (Config.poisonWord s.fresh 0)

/-- DEAD_REG with the file and the number of the register in FLT_ADDR (R167). -/
def State.deadReg (s : State) (t : Site) (file n : Nat) : State :=
  { s with fresh := s.fresh + 1 }.faultAt t codeDeadReg 0 false (BitVec.ofNat 64 (file * 64 + n)) 0

/-- The mark of a token read from a register: the trigger's, otherwise the register's (R168). -/
def readMarkOf (trigger reg : Mark) : Mark := trigger.or reg

/-- RD (R163, R164, R167, R168). -/
def execRd (g : BitVec 6) (h : Hint) (c0 : Consumer) (s : State) : Result :=
  issueCtl (.rd g h c0) s (fun s' o =>
    match s.cell? s.site.cell with
    | none => s'
    | some c =>
      let r := (c.regs.gReg g.toNat).view s.cycle
      if deadRead (c.regs.gBank (g.toNat / 16)) r.valid then
        ((s'.updCell s.site.cell (fun c => c.deadTouchG s.cycle g.toNat)).deadReg s.site 0 g.toNat).emit s.site c0 (s.deadTok s.site)
      else
        (s'.updCell s.site.cell (fun c => (c.touchG s.cycle g.toNat).updRegs (fun f =>
          f.setG g.toNat ((f.gReg g.toNat).readMark s.cycle h GReg.marked)))).emit s.site c0 ⟨r.val, readMarkOf (tokMark o.l) r.mark⟩)

/-- WR (R163, R164, R168): emits l after the write. -/
def execWr (g : BitVec 6) (c0 : Consumer) (s : State) : Result :=
  issueCtl (.wr g c0) s (fun s' o =>
    (s'.updCell s.site.cell (fun c => (c.touchG s.cycle g.toNat).updRegs (fun f =>
      f.setG g.toNat ((f.gReg g.toNat).write s.cycle s.site.rank ⟨tokVal o.l, true, false, tokMark o.l⟩)))).emit s.site c0
        ⟨tokVal o.l, tokMark o.l⟩)

/-- RDP (R162, R168): predicates are always valid and ignore hints. -/
def execRdp (k : BitVec 3) (h : Hint) (c0 : Consumer) (s : State) : Result :=
  issueCtl (.rdp k h c0) s (fun s' o =>
    match s.cell? s.site.cell with
    | none => s'
    | some c =>
      let r := (c.regs.kReg k.toNat).view s.cycle
      s'.emit s.site c0 ⟨r.val, readMarkOf (tokMark o.l) r.mark⟩)

/-- WRP (R164, R168): writes all 32 bits of l and emits l. -/
def execWrp (k : BitVec 3) (c0 : Consumer) (s : State) : Result :=
  issueCtl (.wrp k c0) s (fun s' o =>
    (s'.updCell s.site.cell (fun c => c.updRegs (fun f =>
      f.setK k.toNat ((f.kReg k.toNat).write s.cycle s.site.rank ⟨tokVal o.l, tokMark o.l⟩)))).emit s.site c0
        ⟨tokVal o.l, tokMark o.l⟩)

/-! Forced bank states (R171, R178). -/

/-- The three forced states. -/
inductive Force where
  | keep | off | wake
  deriving DecidableEq, Repr

/-- The code of a bank's state (R171, R172). -/
def BankState.code : BankState → Nat
  | .off => 0
  | .keep => 1
  | .full => 2
  | .waking _ _ => 3

/-- The bank that a BANK instruction names: the register file and the bank in it, or a scratchpad bank from its token. -/
inductive BankName where
  | scalar (b : Nat)
  | vector (b : Nat)
  | spad (b : Nat)
  deriving DecidableEq, Repr

/-- The bank named by REG, the file and the l token: [8:0] bank and [10:9] M-die under .SPAD (R40, R178). -/
def bankName (g : BitVec 6) (file : BankFile) (l : Word) : BankName :=
  match file with
  | .scalar => .scalar (g.toNat / 16)
  | .vector => .vector (g.toNat / 4)
  | .spad => .spad (l.toNat % 2048)

/-- The bank itself. -/
def State.bankOf (s : State) (cell : Nat) (b : BankName) : Bank :=
  match b with
  | .spad b => s.mem.bank b
  | .scalar b => match s.cell? cell with
    | some c => c.regs.gBank b
    | none => ⟨.off, 0⟩
  | .vector b => match s.cell? cell with
    | some c => c.regs.vBank b
    | none => ⟨.off, 0⟩

/-- Whether some instruction of the cell waits on a wake of a register bank (R166, R171). -/
def Cell.bankAwaited (c : Cell) (b : BankName) : Bool :=
  c.blocks.any (fun bl => (List.range bl.slots.length).any (fun j => (bl.slot j).waking && (match bl.instr? j, b with
    | some (.rd g _ _), .scalar k | some (.wr g _), .scalar k => decide (g.toNat / 16 = k)
    | some (.drdv v _ _ _), .vector k | some (.dwrv v _ _ _), .vector k => decide (v.toNat / 4 = k)
    | _, _ => false)))

/-- A bank put OFF: its contents are lost and every register or segment of it is invalid (R165, R171). -/
def State.bankToOff (s : State) (cell : Nat) (b : BankName) : State :=
  match b with
  | .spad b => { s with mem := s.mem.bankOff b }
  | .scalar b => s.updCell cell (fun c => c.updRegs (fun f => (f.killG b).setGBank b ⟨.off, s.cycle⟩))
  | .vector b => s.updCell cell (fun c => c.updRegs (fun f => (f.killV b).setVBank b ⟨.off, s.cycle⟩))

/-- A bank given a state. DESIGN CHOICE (log 47): the cycle in which a bank comes to a state is not idle. -/
def State.setBankState (s : State) (cell : Nat) (b : BankName) (st : BankState) : State :=
  match b with
  | .spad b => { s with mem := s.mem.setBank b ⟨st, s.cycle⟩ }
  | .scalar b => s.updCell cell (fun c => c.updRegs (fun f => f.setGBank b ⟨st, s.cycle⟩))
  | .vector b => s.updCell cell (fun c => c.updRegs (fun f => f.setVBank b ⟨st, s.cycle⟩))

/-- The latency of a forced wake: 4 or 24 bench cycles for registers, 12 or 96 cycles for the scratchpad (R165, R177). -/
def wakeDelay (b : BankName) (fromOff : Bool) (divider : Nat) : Nat :=
  match b with
  | .spad _ => if fromOff then 96 else 12
  | .scalar _ | .vector _ => (if fromOff then 24 else 4) * divider

/-- Whether every live segment of a scratchpad bank carries a context's tag (R178). -/
def MemSys.bankOwned (m : MemSys) (b ctx : Nat) : Bool :=
  m.segs.all (fun (g : Segment) => !(g.live && spadBank (g.page * 4096) == b) || g.tag == ctx)

/-- What a BANK instruction does when its bank is not waited on (R171, R178): the state after, and whether the forced state has
been reached. -/
def State.force (s : State) (cell divider : Nat) (f : Force) (b : BankName) : State × Bool :=
  match f, (s.bankOf cell b).st with
  | .keep, .full => (s.setBankState cell b .keep, true)
  | .keep, _ => (s, true)
  | .off, .full | .off, .keep => (s.bankToOff cell b, true)
  | .off, _ => (s, true)
  | .wake, .keep => (s.setBankState cell b (.waking false (s.cycle + wakeDelay b false divider)), false)
  | .wake, .off => (s.setBankState cell b (.waking true (s.cycle + wakeDelay b true divider)), false)
  | .wake, _ => (s, true)

/-- Whether the bank is WAKING. -/
def Bank.isWaking (b : Bank) : Bool :=
  match b.st with
  | .waking _ _ => true
  | .off | .keep | .full => false

/-- One attempt of a waiting BANK instruction (R171): none where it still waits. `notes` holds the code of the bank's state before
it acted, once it has started a wake. -/
def State.bankAttempt (s : State) (f : Force) (g : BitVec 6) (file : BankFile) (c0 : Consumer) (p : Pend) : Option State :=
  let b := bankName g file (tokVal p.ops.l)
  match s.cell? p.site.cell with
  | none => none
  | some c =>
    let bank := s.bankOf p.site.cell b
    match p.notes with
    | code :: _ => if bank.isWaking then none else some (s.reply p.site c0 [⟨BitVec.ofNat 32 code, p.ops.mark⟩])
    | [] =>
      if bank.isWaking || c.bankAwaited b then none
      else
        let spadFault := match b, f with
          | .spad k, .keep | .spad k, .off => !s.mem.bankOwned k c.context
          | _, _ => false
        if spadFault then
          some ((s.opcodeFault p.site codeProt p.instr (some p.stamp)).updBlock p.site (fun bl => match c0 with
            | none => bl
            | some t => bl.updSlot t.index.toNat (fun sl => sl.updField t.field (fun q => { q with resv := q.resv - 1 }))))
        else
          let (s', reached) := s.force p.site.cell c.divider f b
          if reached then some (s'.reply p.site c0 [⟨BitVec.ofNat 32 bank.st.code, p.ops.mark⟩])
          else some { s' with pend := s'.pend ++ [{ p with notes := [bank.st.code] }] }

/-- A waiting instruction is tried: it completes, or stays at its place in the list. -/
def State.tryPend (s : State) (k : Nat) (attempt : State → Pend → Option State) : State :=
  match s.pend[k]? with
  | none => s
  | some p =>
    match attempt { s with pend := s.pend.eraseIdx k } p with
    | some s' => s'
    | none => s

/-- BANKK, BANKO and BANKW (R171, R178): the token checks of .SPAD at issue, then the wait, then the action. -/
def issueBank (i : Instr) (f : Force) (g : BitVec 6) (file : BankFile) (c0 : Consumer) (s : State) : Result :=
  issueCtl i s (fun s' o =>
    if file = .spad ∧ 2048 ≤ (tokVal o.l).toNat then s'.opcodeFault s.site codeProt i
    else
      let s' := (s'.reserveAll s.site [(c0, 1)]).wait s.site i o [] []
      s'.tryPend (s'.pend.length - 1) (fun s p => s.bankAttempt f g file c0 p))

/-- BANKK (R171). -/
def execBankk (g : BitVec 6) (file : BankFile) (c0 : Consumer) (s : State) : Result := issueBank (.bankk g file c0) .keep g file c0 s

/-- BANKO (R171). -/
def execBanko (g : BitVec 6) (file : BankFile) (c0 : Consumer) (s : State) : Result := issueBank (.banko g file c0) .off g file c0 s

/-- BANKW (R171). -/
def execBankw (g : BitVec 6) (file : BankFile) (c0 : Consumer) (s : State) : Result := issueBank (.bankw g file c0) .wake g file c0 s

/-! The steps of banks (R165, R177). -/

/-- Whether 8 idle cycles have passed since the last cycle that was not idle. -/
def Bank.idle8 (b : Bank) (now d : Nat) : Bool := decide (b.busyAt + 9 * d ≤ now)

/-- Where an idle FULL bank goes by the marks of what it holds: OFF with nothing valid, KEEP with everything valid FAR, else
nowhere (R165). -/
def idleTarget (valids fars : List Bool) : Option BankState :=
  if !valids.any id then some .off
  else if (valids.zip fars).all (fun x => !x.1 || x.2) then some .keep
  else none

/-- BANK_IDLE_TIMEOUT (R165): register banks 0 to 3 are scalar, 4 to 11 vector. -/
def execBankIdleTimeout (cell bank : Nat) (s : State) : Result :=
  match s.cell? cell with
  | none => .next s
  | some c =>
    let name : BankName := if bank < 4 then .scalar bank else .vector (bank - 4)
    let b := s.bankOf cell name
    let regs : List (Bool × Bool) := if bank < 4 then
        (List.range 16).map (fun i => let r := (c.regs.gReg (bank * 16 + i)).now; (r.valid, r.far))
      else (List.range 4).map (fun i => let r := (c.regs.vReg ((bank - 4) * 4 + i)).now; (r.valid, r.far))
    if bank < 12 ∧ b.st = .full ∧ b.idle8 s.cycle c.divider = true ∧ c.bankAwaited name = false then
      match idleTarget (regs.map (·.1)) (regs.map (·.2)) with
      | some .off => .next (s.bankToOff cell name)
      | some .keep => .next (s.setBankState cell name .keep)
      | some .full | some (.waking _ _) | none => .next s
    else .next s

/-- BANK_WAKE_DONE (R165): a wake ends at its cycle and the bank is FULL; one that began from OFF holds nothing valid. -/
def execBankWakeDone (cell bank : Nat) (s : State) : Result :=
  let name : BankName := if bank < 4 then .scalar bank else .vector (bank - 4)
  match (s.bankOf cell name).st with
  | .waking _ due => if due ≤ s.cycle then .next (s.setBankState cell name .full) else .next s
  | .off | .keep | .full => .next s

/-- The segments of a scratchpad bank that are listed. -/
def MemSys.bankSegs (m : MemSys) (b : Nat) : List Segment := m.segs.filter (fun (g : Segment) => spadBank (g.page * 4096) == b)

/-- SPAD_BANK_IDLE_TIMEOUT (R165, R177). -/
def execSpadBankIdleTimeout (bank : Nat) (s : State) : Result :=
  let b := s.mem.bank bank
  let segs := s.mem.bankSegs bank
  if b.st = .full ∧ b.idle8 s.cycle 1 = true then
    match idleTarget (segs.map (·.live)) (segs.map (·.far)) with
    | some .off => .next (s.bankToOff 0 (.spad bank))
    | some .keep => .next (s.setBankState 0 (.spad bank) .keep)
    | some .full | some (.waking _ _) | none => .next s
  else .next s

/-- SPAD_BANK_WAKE_DONE (R177): the bank is FULL; what has waited for it is performed in this cycle in the order of its arrival. -/
def execSpadBankWakeDone (bank : Nat) (s : State) : Result :=
  match (s.mem.bank bank).st with
  | .waking _ due => if due ≤ s.cycle then .next (s.setBankState 0 (.spad bank) .full) else .next s
  | .off | .keep | .full => .next s

end Sys2Proof.Machine
end

