-- ==== Sys2Proof/Machine/Channel.lean ====
section
/-! DEFINITION. The channel instructions (R128, R129), pointer updates on their way, and the arrival of a token (R19, R133). -/

namespace Sys2Proof.Machine

def InChan.absent : InChan := ⟨0, 0, 0, [], false, false, 0, 0, 0, 0⟩

def OutChan.absent : OutChan := ⟨0, 0, 0, 0, 0, 0, 0, 0, false, false⟩

def Block.inChan (b : Block) (c : Nat) : InChan := b.ins.getD c .absent

def Block.outChan (b : Block) (c : Nat) : OutChan := b.outs.getD c .absent

def Block.updIn (b : Block) (c : Nat) (f : InChan → InChan) : Block := { b with ins := b.ins.set c (f (b.inChan c)) }

def Block.updOut (b : Block) (c : Nat) (f : OutChan → OutChan) : Block := { b with outs := b.outs.set c (f (b.outChan c)) }

/-- Occupancy: PP - CP as the consumer sees it (R119). -/
def InChan.occupancy (c : InChan) : Nat := (c.pp - c.cp).toNat

/-- Free space by the producer's view of CP (R129). -/
def OutChan.free (c : OutChan) : Nat := c.cap - (c.pp - c.cpv).toNat - c.w

/-- The token at a position counted from CP, pointers modulo 2^32 (R119, R129). -/
def InChan.tokenAt (c : InChan) (k : Nat) : Tok := c.buf.getD ((c.cp + BitVec.ofNat 32 k).toNat % c.cap) ⟨0, none⟩

/-- The cycles of a pointer's way: one per cell, and the next cycle within a cell (R123). -/
def transit (hops divider : Nat) : Nat := max 1 hops * divider

/-- A CP update on its way to the producer; a seed channel has none (R118, R129). -/
def State.sendCp (s : State) (c : InChan) (divider : Nat) : State :=
  if c.fed then
    { s with chanMsgs := s.chanMsgs ++ [⟨c.srcCell, c.srcCtx, c.srcChan, false, c.cp, s.cycle + transit c.hops divider⟩] }
  else s

/-- A committed PP on its way to the consumer (R129). -/
def State.sendPp (s : State) (c : OutChan) (divider : Nat) : State :=
  if c.present then
    { s with chanMsgs := s.chanMsgs ++ [⟨c.cell, c.ctx, c.chan, true, c.pp, s.cycle + transit c.hops divider⟩] }
  else s

def State.divider (s : State) (cell : Nat) : Nat :=
  match s.cell? cell with
  | some c => c.divider
  | none => 1

/-- RECV and PEEK: execution e emits the token at CP + offset + e (R129). -/
def readChannel (i : Instr) (ch : BitVec 3) (off : BitVec 6) (c0 : Consumer) (s : State) : Result :=
  let e := (s.slot s.site).done
  issueCtl i s (fun s' _ =>
    match s.block? s.site with
    | none => s'
    | some b => s'.emit s.site c0 ((b.inChan ch.toNat).tokenAt (off.toNat + e)))

/-- RECV (R128, R129). -/
def execRecv (ch : BitVec 3) (n off : BitVec 6) (c0 : Consumer) (s : State) : Result :=
  readChannel (.recv ch n off c0) ch off c0 s

/-- PEEK (R128, R129). -/
def execPeek (ch : BitVec 3) (n off : BitVec 6) (c0 : Consumer) (s : State) : Result :=
  readChannel (.peek ch n off c0) ch off c0 s

/-- SEND (R129): the l token goes to slot (PP + w) mod CAP of the consumer's buffer. -/
def execSend (ch : BitVec 3) (n : BitVec 6) (s : State) : Result :=
  issueCtl (.send ch n) s (fun s' o =>
    match s.block? s.site with
    | none => s'
    | some b =>
      let oc := b.outChan ch.toNat
      let tok : Tok := ⟨tokVal o.l, tokMark o.l⟩
      let s' := s'.updBlock ⟨oc.cell, oc.ctx, 0⟩ (fun d => d.updIn oc.chan (fun ic =>
        { ic with buf := ic.buf.set ((oc.pp + BitVec.ofNat 32 oc.w).toNat % oc.cap) tok }))
      s'.updBlock s.site (fun b => b.updOut ch.toNat (fun oc => { oc with w := oc.w + 1 })))

/-- ADV_RANGE with the opcode and the channel in FLT_AUX (R129, R330). -/
def State.advFault (s : State) (t : Site) (op : Nat) (ch : BitVec 3) : State :=
  s.faultAt t codeAdvRange 0 false 0 (BitVec.ofNat 64 (op + ch.toNat * 256))

/-- ADVC (R129). -/
def execAdvc (ch : BitVec 3) (n : BitVec 6) (s : State) : Result :=
  issueCtl (.advc ch n) s (fun s' _ =>
    match s.block? s.site with
    | none => s'
    | some b =>
      let ic := b.inChan ch.toNat
      if ic.occupancy < n.toNat then s'.advFault s.site 0x83 ch
      else
        let ic' := { ic with cp := ic.cp + n.zeroExtend 32, advanced := true }
        (s'.updBlock s.site (fun b => b.updIn ch.toNat (fun _ => ic'))).sendCp ic' (s.divider s.site.cell))

/-- ADVP (R129). -/
def execAdvp (ch : BitVec 3) (n : BitVec 6) (s : State) : Result :=
  issueCtl (.advp ch n) s (fun s' _ =>
    match s.block? s.site with
    | none => s'
    | some b =>
      let oc := b.outChan ch.toNat
      if oc.w < n.toNat then s'.advFault s.site 0x84 ch
      else
        let oc' := { oc with pp := oc.pp + n.zeroExtend 32, w := oc.w - n.toNat, advanced := true }
        (s'.updBlock s.site (fun b => b.updOut ch.toNat (fun _ => oc'))).sendPp oc' (s.divider s.site.cell))

/-- CHST (R129): the occupancy of an input channel, or the free space of an output channel. -/
def execChst (ch : BitVec 3) (out : Bool) (c0 : Consumer) (s : State) : Result :=
  issueCtl (.chst ch out c0) s (fun s' o =>
    match s.block? s.site with
    | none => s'
    | some b =>
      let v := if out then (b.outChan ch.toNat).free else (b.inChan ch.toNat).occupancy
      s'.emit s.site c0 ⟨BitVec.ofNat 32 v, o.mark⟩)

/-- The bench of a cell, numbered over the F-dies (R102, R105). -/
def benchOf (cell : Nat) : Nat := cell / 1024 % 4 * 16 + cell / 32 % 32 / 2

/-- The clock of a cell's bench restarts (R154). -/
def State.restartBench (s : State) (cell : Nat) : State :=
  { s with benches := s.benches.map (fun b => if b.num = benchOf cell then { b with stopped := false, quiet := 0 } else b) }

/-- A token has arrived at a cell: its bench runs (R154). -/
def State.arrived (s : State) (cell : Nat) : State := (s.updCell cell (fun c => { c with arrivedAt := s.cycle })).restartBench cell

/-- Whether what travels to a cell arrives in this cycle: its time has come, and the bench of the cell acts (R105). -/
def State.lands (s : State) (cell due : Nat) : Bool :=
  decide (due ≤ s.cycle) && (match s.cell? cell with
    | some c => decide (s.cycle % c.divider = 0)
    | none => true)

/-- A pointer update takes effect; one that brings tokens to its consumer counts as their arrival (R123, R129, R154). -/
def State.deliver (s : State) (m : ChanMsg) : State :=
  let s := s.updBlock ⟨m.cell, m.ctx, 0⟩ (fun b =>
    if m.toConsumer then b.updIn m.chan (fun c => { c with pp := m.value }) else b.updOut m.chan (fun c => { c with cpv := m.value }))
  if m.toConsumer then s.arrived m.cell else s

/-- Every pointer update that arrives takes effect (R105, R123, R129). -/
def State.deliverPointers (s : State) : State :=
  (s.chanMsgs.filter (fun m => s.lands m.cell m.due)).foldl State.deliver
    { s with chanMsgs := s.chanMsgs.filter (fun m => !s.lands m.cell m.due) }

/-! Tokens between instructions. -/

/-- The order in which tokens enter one field: arrival cycle, then producer index (R19). -/
def Flight.before (a b : Flight) : Bool := decide (a.due < b.due) || (decide (a.due = b.due) && decide (a.from_ < b.from_))

/-- Whether another token of the same field comes first. -/
def State.overtaken (s : State) (k : Nat) (f : Flight) : Bool :=
  (List.range s.flight.length).any (fun j => match s.flight[j]? with
    | some g => decide (j ≠ k) && decide (g.site = f.site) && decide (g.field = f.field) &&
        (g.before f || (!f.before g && decide (j < k)))
    | none => false)

/-- STALE_TOKEN with the target, the field and the parity in FLT_AUX (R133, R330). -/
def State.staleToken (s : State) (f : Flight) : State :=
  s.faultAt f.site codeStaleToken 0 false 0 (BitVec.ofNat 64 (f.site.index % 64 + f.field.code * 64 + f.parity.toNat * 256))

/-- The lift parity of the PEs of a cell in a cycle: the wedge inverts it as it reaches them (R132, R133). -/
def Cell.parityAt (c : Cell) (now : Nat) : Bool := if c.adoptAt ≤ now then c.parity else !c.parity

/-- TOKEN_ARRIVE (R19, R123, R133): the k-th token on its way reaches its PE. Of the PE's parity it enters its FIFO, whose entry
was reserved at issue (before the wedge has reached the PE, a FIFO of the old lift, which the wedge replaces); of the other parity it is
held while the wedge is still to reach the cell, else it is discarded with STALE_TOKEN. A token for a block whose firing FEND has closed is
discarded (R348). -/
def execTokenArrive (k : Nat) (s : State) : Result :=
  match s.flight[k]? with
  | none => .next s
  | some f =>
    if s.lands f.site.cell f.due = false ∨ s.overtaken k f = true then .next s
    else
      let gone := { s with flight := s.flight.eraseIdx k }
      match s.cell? f.site.cell with
      | none => .next gone
      | some c =>
        let passed := decide (c.adoptAt ≤ s.cycle)
        if f.parity == c.parityAt s.cycle then
          .next ((if passed then gone.updBlock f.site (fun b => b.updSlot f.site.index (fun sl => sl.updField f.field (fun q =>
            { q with resv := q.resv - 1, toks := if b.fend.isSome then q.toks else q.toks ++ [f.tok] }))) else gone).arrived f.site.cell)
        else if !passed then .next s
        else .next (gone.staleToken f)

end Sys2Proof.Machine
end

