-- ==== Sys2Proof/Machine/DataPlane.lean ====
section
/-! DEFINITION. Slot 0: the guard of a data-plane instruction, what leaves it digit by digit, spalls, and settling (R73, R124, R179
to R184, R189, R204 to R213; log 8). An execution makes the lanes of its output number at once; the head and the digits leave as
`State.advanceDigits` lets them. -/

namespace Sys2Proof.Machine

def Lane.zero : Lane := ⟨.zero false, none⟩

/-- A lane of a list; one that is not listed is +0, unmarked. -/
def laneAt (l : List Lane) (i : Nat) : Lane := l.getD i .zero

/-- The 128 lanes of a function of the lane number. -/
def lanes128 {α : Type} (f : Nat → α) : List α := (List.range 128).map f

/-! Numbers in field FIFOs (R58, R180). -/

/-- Whether input position j of a number has arrived before a cycle; position 0 is the head, and a number has no position after its last
(R58, R182). What its producer has skipped is not waited for (R210). -/
def Num.before (n : Num) (j now : Nat) : Bool :=
  match n.came[min j n.digits]? with
  | some c => decide (c < now)
  | none => n.cut

/-- Whether input position j of a number has arrived by a cycle. -/
def Num.by (n : Num) (j now : Nat) : Bool := n.before j (now + 1)

/-- Whether nothing of a number is still to come or to leave its FIFO. -/
def Num.over (n : Num) : Bool := n.used && decide (n.taken = n.came.length) && (n.cut || decide (n.came.length = n.digits + 1))

/-- The entries of a field's digit FIFO: those that have arrived and have not left it (R180; log 8). -/
def FieldQ.entries (q : FieldQ) (now : Nat) : Nat :=
  q.nums.foldl (fun k n => k + ((n.came.filter (fun c => decide (c ≤ now))).length - n.taken)) 0

/-- Whether a field's digit FIFO, of 8 digit cycles, has space (R180). -/
def FieldQ.space (q : FieldQ) (now : Nat) : Bool := decide (q.entries now < 8)

/-- The stream fields of an instruction (R36). -/
def streamFields (i : Instr) : List FieldSel := (i.accepts.filter (fun x => x.2)).map (fun x => x.1)

/-- The number that the next execution consumes on a field: the first that none has consumed (R179). -/
def FieldQ.next (q : FieldQ) : Option Num := q.nums.find? (fun n => !n.used)

def Slot.num (sl : Slot) (f : FieldSel) : Option Num := (sl.field f).next

/-- The numbers that the next execution consumes, in the order l, r, p, a. -/
def Slot.headNums (sl : Slot) (i : Instr) : List Num := (streamFields i).filterMap sl.num

/-- The first number that no execution has consumed marked as consumed. -/
def useFirst : List Num → List Num
  | [] => []
  | n :: rest => if n.used then n :: useFirst rest else { n with used := true } :: rest

def FieldQ.use (q : FieldQ) : FieldQ := { q with nums := useFirst q.nums }

/-- Whether an instruction needs a number to its last digit before it acts (R170, R181, R194). -/
def isSink (i : Instr) : Bool :=
  match i with
  | .dwrv _ _ _ _ | .dxtr _ _ _ _ | .dmac _ _ | .dacc _ | .dwst _ => true
  | _ => false

/-- Whether a sink has what it needs of a number: DWRV when the last digit arrives, DXTR, DMAC, DACC and DWST in the cycle after (R170,
R181). -/
def sinkTime (i : Instr) (n : Num) (now : Nat) : Bool :=
  match i with
  | .dwrv _ _ _ _ => n.by n.digits now
  | .dxtr _ _ _ _ | .dmac _ _ | .dacc _ | .dwst _ => n.before n.digits now
  | _ => true

/-! What a bundle does in a cycle (R179 to R181, R191, R205, R210). -/

/-- The links that carry the stream of a slot-0 instruction (R111, R112), numbered. -/
def Cell.links (c : Cell) (t : Site) : List (Nat × Route) :=
  ((List.range c.routes.length).zip c.routes).filter (fun x => x.2.ctx == t.ctx && x.2.pe == t.pe)

/-- A receiver of a stream: the edge, the instruction and the field that it reaches, and its hops. -/
structure Receiver where
  edge : Edge
  site : Site
  field : FieldSel
  hops : Nat
  deriving DecidableEq, Repr

/-- The receiver that a consumer slot names: an instruction of the same cell, one hop away (R181). -/
def receiverOf (t : Site) (e : Edge) (x : Consumer) : List Receiver :=
  match x with
  | none => []
  | some g => [⟨e, ⟨t.cell, t.ctx, g.index.toNat⟩, g.field, 1⟩]

/-- The receivers of a stream: valid C0 and C1, and the links of its PE (R179, R205). -/
def receivers (c : Cell) (t : Site) (i : Instr) : List Receiver :=
  (match i.consumers with
    | [x, y] => receiverOf t .c0 x ++ receiverOf t .c1 y
    | [x] => receiverOf t .c0 x
    | _ => []) ++ (c.links t).map (fun x => ⟨.link x.1, ⟨x.2.cell, x.2.dctx, 4 * x.2.dpe⟩, x.2.field, x.2.hops⟩)

/-- Whether every receiver of a stream has FIFO space (R180). -/
def State.streamRoom (s : State) (c : Cell) (t : Site) (i : Instr) : Bool :=
  (receivers c t i).all (fun x => ((s.slot x.site).field x.field).space s.cycle)

/-- An input number of an output number in progress, while its entries are not all over. -/
def Slot.input (sl : Slot) (m : Made) (f : FieldSel) : Option Num :=
  match m.ins.find? (fun x => x.1 == f) with
  | some x => (sl.field f).nums.find? (fun n => decide (n.src = x.2))
  | none => none

/-- Whether position j of an input has arrived before a cycle; an input that is over has. -/
def Slot.inputBefore (sl : Slot) (m : Made) (f : FieldSel) (j now : Nat) : Bool :=
  match sl.input m f with
  | some n => n.before j now
  | none => true

/-- The lanes of a mask as a function of the lane number. -/
def inMask (m : BitVec 128) (i : Nat) : Bool := m.getLsbD i

/-- The mask of the lanes that a predicate picks. -/
def maskOf (p : Nat → Bool) : BitVec 128 := (List.range 128).foldl (fun m i => if p i then m ||| (1 <<< i) else m) 0

/-- The lanes in a mask. -/
def maskCount (m : BitVec 128) : Nat := (List.range 128).foldl (fun n i => if inMask m i then n + 1 else n) 0

/-- Whether the next entry of a number may leave in a cycle, its receivers' space aside (R181, R191, R192): the head once its input
positions have arrived and in the cycle after the last lane has decided; digit j in the cycle after the input positions that bound it. -/
def Made.may (m : Made) (sl : Slot) (now : Nat) : Bool :=
  if m.pos = 0 then
    decide (m.start ≤ now) && m.course.heads.all (fun x => sl.inputBefore m x.1 x.2 (now + 1)) && decide (m.undone = 0) &&
      m.doneAt.all (fun c => decide (c < now))
  else m.course.bounds.all (fun x => x.2.2 &&& ~~~m.stopped == 0 || sl.inputBefore m x.1 (x.2.1 + m.pos) now)

/-- What a digit bundle does in a cycle: nothing, a no-digit cycle for want of a receiver's space, an entry, or the skip of a number
all of whose lanes stop (R180, R181, R210). -/
inductive Move where
  | idle | blocked | emit | skip
  deriving DecidableEq, Repr

/-- Whether the bundle of a PE moves in a cycle: its bench acts, its region runs, and no operation of a systolic region holds it (R105, R248,
R328). -/
def State.bundleGoes (s : State) (c : Cell) (pe : Nat) : Bool :=
  s.benchActs c && s.regionGoes c.rid && decide (c.adoptAt ≤ s.cycle) && !c.held0.contains pe

/-- What the bundle of an instruction does in this cycle. -/
def State.move (s : State) (c : Cell) (t : Site) (i : Instr) : Move :=
  let sl := s.slot t
  match sl.made with
  | [] => .idle
  | m :: _ =>
    if !s.bundleGoes c t.pe then .idle
    else if m.stopping = BitVec.allOnes 128 then .skip
    else if !m.may sl s.cycle then .idle
    else if s.streamRoom c t i then .emit
    else .blocked

/-- Whether the bundle has nothing left to emit after this cycle, so that a new head may leave in the next (R179). -/
def State.bundleFree (s : State) (c : Cell) (t : Site) (i : Instr) : Bool :=
  match (s.slot t).made with
  | [] => true
  | [m] => (match s.move c t i with
    | .emit => decide (m.pos = m.digits)
    | .skip => true
    | .idle | .blocked => false)
  | _ => false

/-! The guard and issue of slot 0. -/

/-- The guard of a slot-0 instruction but for the time of a sink and its bank (R124): heads arrived, tokens held, room. One without a
stream field puts its head on the bundle in the cycle after issue, so it waits for the bundle and for space (R169, R181). -/
def State.holds0 (s : State) (c : Cell) (b : Block) (t : Site) (i : Instr) : Bool :=
  let sl := b.slot t.index
  s.running c b sl && !c.held0.contains t.pe && (streamFields i).all (fun f => match sl.num f with
    | some n => n.by 0 s.cycle
    | none => false) &&
    sl.has (needsOf i b t.index sl) && b.room t.index (consumesOf i b t.index sl) (emitsOf i sl) &&
    (!i.emitsStream || !(streamFields i).isEmpty || (s.bundleFree c t i && s.streamRoom c t i))

/-- Whether a slot-0 instruction executes (R124, R170, R181). -/
def State.ready0 (s : State) (t : Site) (i : Instr) : Bool :=
  match s.cell? t.cell with
  | none => false
  | some c => match c.block? t.ctx with
    | none => false
    | some b =>
      s.holds0 c b t i && (bankNeed c s.cycle i == .go) && ((b.slot t.index).headNums i).all (fun n => sinkTime i n s.cycle)

/-- What an execution of a slot-0 instruction consumes: the numbers and tokens of its operands (R179). -/
structure DataOps where
  l : Option Num
  r : Option Num
  p : Option Num
  a : Option Num
  toks : Opnds
  deriving DecidableEq, Repr

def State.dataOps (s : State) (t : Site) (i : Instr) : DataOps :=
  let sl := s.slot t
  let pick (f : FieldSel) : Option Num := if (streamFields i).contains f then sl.num f else none
  ⟨pick .l, pick .r, pick .p, pick .a, s.opnds t i⟩

/-- The bookkeeping of an execution: one number of each stream field and the tokens of the control fields are consumed. -/
def State.took0 (s : State) (t : Site) (i : Instr) : State :=
  s.updBlock t (fun b => b.updSlot t.index (fun sl =>
    let sl := (streamFields i).foldl (fun sl f => sl.updField f FieldQ.use) sl
    { (sl.consume (consumesOf i b t.index sl)) with done := sl.done + 1, issuedAt := some s.cycle, waking := false }))

/-- The wake that a slot-0 register access starts once its heads have arrived (R126, R170). -/
def State.wake0 (s : State) (t : Site) (i : Instr) : State :=
  match s.cell? t.cell with
  | none => s
  | some c => match c.block? t.ctx with
    | none => s
    | some b =>
      if s.holds0 c b t i then
        match bankNeed c s.cycle i with
        | .go => s
        | .wake => (s.updCell t.cell (fun c => c.startWake s.cycle i)).updSlot t (fun sl => { sl with waking := true })
        | .wait => s.updSlot t (fun sl => { sl with waking := true })
      else s

/-- An execution of the slot-0 instruction at the current site. -/
def issueData (i : Instr) (s : State) (effect : State → DataOps → State) : Result :=
  if s.ready0 s.site i then .next (effect (s.took0 s.site i) (s.dataOps s.site i))
  else .next (s.wake0 s.site i)

/-! Poison of numbers (R183). -/

/-- The mark of lane i of an operand number. -/
def numMark (n : Option Num) (i : Nat) : Mark :=
  match n with
  | some n => (laneAt n.lanes i).mark
  | none => none

/-- The value of lane i of an operand number. -/
def numVal (n : Option Num) (i : Nat) : Val :=
  match n with
  | some n => (laneAt n.lanes i).val
  | none => .zero false

/-- The mark of an output lane: the first poisoned operand in the order l, r, p, a, numbers and tokens alike; `src` is the lane of
l that the output lane reads. -/
def DataOps.mark (o : DataOps) (src i : Nat) : Mark :=
  ((numMark o.l src).or (tokMark o.toks.l)).or (((numMark o.r i).or (tokMark o.toks.r)).or
    (((numMark o.p i).or (tokMark o.toks.p)).or ((numMark o.a i).or (tokMark o.toks.a))))

/-! Output (R179, R181, R205). -/

/-- What an execution makes: lanes, digits, the dependence of lanes, the form of its digits, and its course. -/
structure Output where
  lanes : List Lane
  digits : Nat
  dep : Dep
  form : Form
  course : Course
  deriving DecidableEq, Repr

/-- The sources of the numbers that an execution consumed (R206). -/
def DataOps.sources (o : DataOps) : List (FieldSel × Source) :=
  [(FieldSel.l, o.l), (.r, o.r), (.p, o.p), (.a, o.a)].filterMap (fun x => x.2.map (fun n => (x.1, n.src)))

/-- The number of an execution put behind those that its instruction is still to emit; its head leaves no earlier than the cycle after issue
where the instruction has no stream field (R179, R181). -/
def State.emitNum (s : State) (t : Site) (i : Instr) (o : DataOps) (out : Output) : State :=
  match s.cell? t.cell with
  | none => s
  | some c =>
    s.updSlot t (fun sl =>
      { sl with
        nextId := sl.nextId + 1
        made := sl.made ++ [{ id := sl.nextId, lanes := out.lanes, digits := out.digits, form := out.form, pos := 0,
                              start := if (streamFields i).isEmpty then s.cycle + 1 else s.cycle, course := out.course,
                              undone := if out.course.due.isEmpty then 0 else BitVec.allOnes 128, doneAt := none,
                              edges := (receivers c t i).map (fun x => x.edge), got := [], stopping := 0, stopped := 0, ins := o.sources, sent := [],
                              dep := out.dep }] })

/-- The course of an instruction with online delay δ on its stream fields (R72, R181). -/
def delayed (i : Instr) (delta : Nat) : Course :=
  { heads := (streamFields i).map (fun f => (f, delta)), asks := [], due := [], lose := [],
    bounds := (streamFields i).map (fun f => (f, delta - 1, BitVec.allOnes 128)) }

/-- The course of DRDV, DREP and DACCRD (R181). -/
def Course.atOnce : Course := ⟨[], [], [], [], []⟩

/-! Spalls (R204 to R210, R213). -/

/-- The input lanes for which every dependent output lane has stopped (R206). -/
def satisfied (dep : Dep) (stopped : BitVec 128) : BitVec 128 :=
  match dep with
  | .same => stopped
  | .all => if stopped = BitVec.allOnes 128 then stopped else 0
  | .from l => maskOf (fun x => (List.range 128).all (fun i => l.getD i 0 != x || inMask stopped i))

/-- Add lanes to an entry of a list of masks. -/
def addMask {α : Type} [DecidableEq α] (l : List (α × BitVec 128)) (k : α) (m : BitVec 128) : List (α × BitVec 128) :=
  match l with
  | [] => [(k, m)]
  | (x, y) :: rest => if x = k then (x, y ||| m) :: rest else (x, y) :: addMask rest k m

def maskAt {α : Type} [DecidableEq α] (l : List (α × BitVec 128)) (k : α) : BitVec 128 :=
  match l.find? (fun x => x.1 = k) with
  | some x => x.2
  | none => 0

/-- Spalls of one number sent to its producer, and counted (R204, R213). -/
def State.sendSpalls (s : State) (t : Site) (src : Source) (mask : BitVec 128) (counter : Nat) : State :=
  if mask = 0 then s
  else
    { s with spalls := s.spalls ++ [(⟨src, mask, s.cycle + src.hops * s.divider t.cell⟩ : SpallMsg)] }.count t.cell counter
      (BitVec.ofNat 32 (maskCount mask))

/-- The first number in progress of an instruction changed. -/
def Slot.updMade (sl : Slot) (f : Made → Made) : Slot :=
  match sl.made with
  | [] => sl
  | m :: rest => { sl with made := f m :: rest }

/-- SPALL_ARRIVE (R205, R209): the k-th record of spalls reaches its producer, which notes it where it still emits the number; else the spalls
have no effect. What they stop is stopped from the next cycle on. -/
def execSpallArrive (k : Nat) (s : State) : Result :=
  match s.spalls[k]? with
  | none => .next s
  | some sp =>
    if s.lands sp.dest.site.cell sp.due then
      .next ({ s with spalls := s.spalls.eraseIdx k }.updSlot sp.dest.site (fun sl =>
        { sl with made := sl.made.map (fun (m : Made) => if m.id = sp.dest.id then { m with got := addMask m.got sp.dest.edge sp.mask } else m) }))
    else .next s

/-- The lanes that every consumer of a number has spalled (R205). -/
def Made.spalled (m : Made) : BitVec 128 := m.edges.foldl (fun a e => a &&& maskAt m.got e) (BitVec.allOnes 128)

/-- The lanes that stop from the next cycle on: a number without a consumer stops nowhere, since no spall of it arrives (R205). -/
def Made.stops (m : Made) : BitVec 128 := if m.edges.isEmpty then 0 else m.spalled

/-- The lanes that stop, which from now on have stopped, and the spalls that they forward to every stream input (R205, R206, R208): for the
input lanes all of whose output lanes have stopped, once. -/
def State.stopLanes (s : State) (t : Site) (m : Made) : State :=
  if m.stopping &&& ~~~m.stopped = 0 then s
  else
    let new := satisfied m.dep m.stopping
    let s := m.ins.foldl (fun s x => s.sendSpalls t x.2 (new &&& ~~~maskAt m.sent x.2) 0x21) s
    s.updSlot t (fun sl => sl.updMade (fun m => { m with stopped := m.stopping, sent := m.ins.foldl (fun l x => addMask l x.2 new) m.sent }))

/-- The lanes of a deciding instruction that decide in this cycle: the positions that each waits for have arrived, those that must have
arrived before it included (R189, R191). -/
def Made.decides (m : Made) (sl : Slot) (now : Nat) : BitVec 128 :=
  m.undone &&& maskOf (fun i => (m.course.due.getD i []).all (fun x => sl.inputBefore m x.1 x.2.1 (if x.2.2 then now else now + 1)))

/-- The decisions of a cycle, and the spalls that they send where digits remain (R190, R191). -/
def State.decideLanes (s : State) (t : Site) (m : Made) : State :=
  let sl := s.slot t
  let now := m.decides sl s.cycle
  if now = 0 then s
  else
    let s := m.course.lose.foldl (fun s x => match sl.input m x.1 with
      | some n => if n.by n.digits s.cycle then s else s.sendSpalls t n.src (x.2 &&& now) 0x20
      | none => s) s
    s.updSlot t (fun sl => { sl with made := sl.made.map (fun x => if x.id = m.id then
      { x with undone := x.undone &&& ~~~now, doneAt := if x.undone &&& ~~~now = 0 then some s.cycle else none } else x) })

/-- The first cycle, at or after a time, in which the bench of a cell acts (R105). -/
def State.actsFrom (s : State) (cell due : Nat) : Nat :=
  let d := max 1 (s.divider cell)
  (due + d - 1) / d * d

/-- An entry of a number put on its way to a receiver: the head begins the number there. -/
def Made.reach (m : Made) (t : Site) (x : Receiver) (at' : Nat) (q : FieldQ) : FieldQ :=
  let src : Source := ⟨t, m.id, x.edge, x.hops⟩
  if m.pos = 0 then
    { q with nums := q.nums ++ [{ lanes := m.lanes, digits := m.digits, came := [at'], taken := 0, used := false, cut := false, src := src, form := m.form }] }
  else { q with nums := q.nums.map (fun n => if n.src = src then { n with came := n.came ++ [at'] } else n) }

/-- The next entry of a number leaves (R181): it is on its way to every receiver, its lanes that have not stopped are charged, and a digit
counts on each that has (R205, R213, R356). After the last the instruction goes on to its next number. -/
def State.emitEntry (s : State) (c : Cell) (t : Site) (i : Instr) (m : Made) : State :=
  let killed := maskCount m.stopped
  let s := (receivers c t i).foldl (fun s x =>
    let due := s.actsFrom x.site.cell (s.cycle + x.hops * c.divider)
    s.updSlot x.site (fun sl => sl.updField x.field (m.reach t x due))) s
  let s := s.updSlot t (fun sl =>
    { (if m.pos = m.digits then { sl with made := sl.made.tail } else sl.updMade (fun m => { m with pos := m.pos + 1 })) with sentAt := some s.cycle })
  let s : State := { s with mem := s.mem.charge c.context 0 (66 * (128 - killed)) }
  if m.pos = 0 then s else s.count t.cell 0x22 (BitVec.ofNat 32 killed)

/-- A number all of whose lanes have stopped is skipped: its receivers wait for no more of it (R210, R213). -/
def State.skipRest (s : State) (c : Cell) (t : Site) (i : Instr) (m : Made) : State :=
  let s := (receivers c t i).foldl (fun s x => s.updSlot x.site (fun sl => sl.updField x.field (fun q =>
    { q with nums := q.nums.map (fun n => if n.src = ⟨t, m.id, x.edge, x.hops⟩ then { n with cut := true } else n) }))) s
  (s.updSlot t (fun sl => { sl with made := sl.made.tail })).count t.cell 0x23 (BitVec.ofNat 32 (m.digits + 1 - m.pos))

/-- A bundle's cycle: lanes decide, lanes stop, an entry leaves or the rest is skipped, and the lanes that stop next are noted. -/
def State.advanceBundle (s : State) (c : Cell) (t : Site) (i : Instr) : State :=
  let mv := s.move c t i
  let s := (s.slot t).made.foldl (fun s m => s.decideLanes t m) s
  let first (s : State) (f : State → Made → State) : State := match (s.slot t).made with
    | [] => s
    | m :: _ => f s m
  let s := first s (fun s m => s.stopLanes t m)
  let s := match mv with
    | .emit => first s (fun s m => s.emitEntry c t i m)
    | .skip => first s (fun s m => s.skipRest c t i m)
    | .idle | .blocked => s
  s.updSlot t (fun sl => sl.updMade (fun m => { m with stopping := m.stops }))

/-- The oldest entry that arrived before a cycle leaves a FIFO; an entry of a number that no execution has consumed leaves only where
`open'` (R112, R180). -/
def takeEntry (open' : Bool) (now : Nat) : List Num → List Num
  | [] => []
  | n :: rest => match n.came[n.taken]? with
    | some c => if c < now ∧ (n.used || open') = true then { n with taken := n.taken + 1 } :: rest else n :: rest
    | none => n :: takeEntry open' now rest

/-- A FIFO after a cycle, without the numbers of which nothing is left. -/
def FieldQ.drain (q : FieldQ) (open' : Bool) (now : Nat) : FieldQ := { q with nums := (takeEntry open' now q.nums).filter (fun n => !n.over) }

/-- Whether a sink has a number complete whose effect still waits (R180). -/
def Slot.sinkWaits (sl : Slot) (i : Instr) (now : Nat) : Bool := isSink i && (sl.headNums i).any (fun n => n.before n.digits now)

/-- The entries that leave the FIFOs of a slot-0 instruction in a cycle (R180); while its block does not fire, new numbers wait there (R112). -/
def State.drainFields (s : State) (c : Cell) (b : Block) (t : Site) (i : Instr) : State :=
  if s.bundleGoes c t.pe && !(s.slot t).sinkWaits i s.cycle then
    s.updSlot t (fun sl => (streamFields i).foldl (fun sl f => sl.updField f (fun q => q.drain (b.firing && c.cur == some b.ctx) s.cycle)) sl)
  else s

/-- The slot-0 instructions that hold a number, or have one to emit. -/
def State.bundles (s : State) : List (Cell × Block × Site × Instr) :=
  s.cells.flatMap (fun c => if !s.benchActs c then [] else c.blocks.flatMap (fun b => (List.range 16).filterMap (fun p =>
    let sl := b.slot (4 * p)
    if sl.made.isEmpty && sl.l.nums.isEmpty && sl.r.nums.isEmpty && sl.p.nums.isEmpty && sl.a.nums.isEmpty then none
    else (b.instr? (4 * p)).map (fun i => (c, b, ⟨c.num, b.ctx, 4 * p⟩, i)))))

/-- The data plane in a cycle: every bundle moves, and what has arrived leaves the FIFOs of those that are not blocked (R180, R181). -/
def State.advanceDigits (s : State) : State :=
  let l := s.bundles
  let free := l.filter (fun x => s.move x.1 x.2.2.1 x.2.2.2 != .blocked)
  let s := l.foldl (fun s x => s.advanceBundle x.1 x.2.2.1 x.2.2.2) s
  free.foldl (fun s x => s.drainFields x.1 x.2.1 x.2.2.1 x.2.2.2) s

/-! Settling (R73, R189). -/

/-- The signed canonical digits of a word-format number as an integer of D radix-4 digits, and its scale (R58, "a word becomes a
stream"); integers have none that the spec states. -/
def canonDigits (f : Fmt) (v : Val) : Option (Int × Int) :=
  match f.spec, v with
  | .float sp, .fin n m e =>
    let top : Int := max (e + Nat.log2 m) sp.emin
    let d := f.digits
    let k : Int := e - (top + 1 - 2 * d)
    if 0 ≤ k then some ((if n then -1 else 1) * ((m * 2 ^ k.toNat : Nat) : Int), top) else none
  | .float _, .nan | .float _, .inf _ | .float _, .zero _ => none
  | .int _ _, _ => none

/-- The prefix of D digits through position j. -/
def prefixAt (x : Int) (d j : Nat) : Int :=
  if j ≤ d then (if x < 0 then -1 else 1) * ((x.natAbs / 4 ^ (d - j) : Nat) : Int) else x * (4 ^ (j - d) : Nat)

/-- The position that no operand reaches: a lane with no settling position (R189). -/
def never : Nat := 4096

/-- Whether the aligned difference of two prefixes through position j settles their order (R73, R182, R189): each operand with digits left
may still add less than 4^(-j); once neither has any, the exact values differ. -/
def gapAt (x y : Int) (ex ey : Int) (dx dy j : Nat) : Bool :=
  let lo := min ex ey
  let p := prefixAt x dx j * 2 ^ (ex - lo).toNat - prefixAt y dy j * 2 ^ (ey - lo).toNat
  let open' := (if j < dx then 1 else 0) + (if j < dy then 1 else 0)
  decide (p ≠ 0) && decide (open' * 2 ^ (max ex ey - lo).toNat ≤ p.natAbs)

/-- The first position from `j` up that settles; `fuel` positions are tried. -/
def firstSettled (p : Nat → Bool) : Nat → Nat → Nat
  | 0, _ => never
  | fuel + 1, j => if p j then j else firstSettled p fuel (j + 1)

/-- The position at which one operand's sign or truth settles (R189): 0 at the head. DESIGN CHOICE (log 9): a number of value zero travels
with class zero, so that it settles there. -/
def settleOne (fresh lane : Nat) (n : Num) (v : Val) : Nat :=
  match v with
  | .nan | .inf _ | .zero _ => 0
  | .fin _ _ _ =>
    match n.form with
    | .normal => 1
    | .free => 1 + Config.settleAt fresh lane % n.digits
    | .canon f => match canonDigits f v with
      | some (x, e) => firstSettled (gapAt x 0 e e n.digits 0) n.digits 1
      | none => 1 + Config.settleAt fresh lane % n.digits

/-- The canonical digits of a number's value, where the number carries them. -/
def Num.canonical (n : Num) (v : Val) : Option (Int × Int) :=
  match n.form with
  | .canon f => canonDigits f v
  | .free | .normal => none

/-- The position at which the order of two operands settles (R189): 0 at the head. -/
def settleTwo (fresh lane : Nat) (nx ny : Num) (x y : Val) : Nat :=
  let d := max nx.digits ny.digits
  match x, y with
  | .nan, _ | _, .nan | .inf _, _ | _, .inf _ => 0
  | .zero _, .zero _ => 0
  | .fin _ _ _, .zero _ => settleOne fresh lane nx x
  | .zero _, .fin _ _ _ => settleOne fresh lane ny y
  | .fin _ _ _, .fin _ _ _ =>
    if ordZ x y = .eq then never
    else match nx.canonical x, ny.canonical y with
      | some (a, ea), some (b, eb) => firstSettled (gapAt a b ea eb nx.digits ny.digits) d 1
      | _, _ => 1 + Config.settleAt fresh lane % d

/-- The position whose arrival decides a lane that settles at position j (R189). -/
def decidesAt (d j : Nat) : Nat := if j = 0 ∨ d < j then j else min (j + 2) d

/-- What the decision of a lane waits for (R189), from the positions at which its orders settle and the operands of each: the later of those
that settle, `at'` of it arriving on every field asked; of one that none settles, the last digit of the longer of its operands, which has
arrived before. -/
def waitsOf (asks : List FieldSel) (longest : List FieldSel → Nat) (at' : Nat → Nat) (orders : List (Nat × List FieldSel)) :
    List (FieldSel × Nat × Bool) :=
  let done := (orders.filter (fun x => decide (x.1 < never))).map (fun x => x.1)
  (if done.isEmpty then [] else asks.map (fun f => (f, at' (done.foldl max 0), false))) ++
    (orders.filter (fun x => decide (never ≤ x.1))).flatMap (fun x => x.2.map (fun f => (f, longest x.2, true)))

end Sys2Proof.Machine
end

