-- ==== Sys2Proof/Machine/Digit.lean ====
section
/-! DEFINITION. The data-plane instructions, opcodes 0x40 to 0x71 (R169, R170, R185 to R203). -/

namespace Sys2Proof.Machine

/-! Shared forms. -/

/-- An exact value with its flags, as a result to round. -/
def exactPair (x : Val × Word) : Exact × Word := (Exact.of x.1, x.2)

/-- The flags of all lanes together (R70). -/
def allFlags (l : List (Lane × Word)) : Word := l.foldl (fun a x => a ||| x.2) 0

/-- A lane rounded once to the output format, with the flags of the operation and of the rounding (R62). -/
def roundLane (f : Fmt) (rm : Rnd) (x : Exact × Word) (m : Mark) : Lane × Word :=
  let (v, fl) := roundTo f rm x.1
  (⟨v, m⟩, x.2 ||| fl)

/-- The bench divider of the current site. -/
def State.pace (s : State) : Nat := s.divider s.site.cell

/-- Raise the flags of an execution and emit its lanes (R70, R186). -/
def State.finish (s : State) (i : Instr) (o : DataOps) (lanes : List (Lane × Word)) (digits : Nat) (dep : Dep) (form : Form) (course : Course) :
    State :=
  (s.raiseFlags s.site.cell (allFlags lanes)).emitNum s.site i o ⟨lanes.map (fun x => x.1), digits, dep, form, course⟩

/-- An instruction that computes each lane on its own and emits after an online delay (R72, R181, R186). -/
def elementwise (i : Instr) (f : Fmt) (rm : Rnd) (delta : Nat) (op : Val → Val → Val → Exact × Word) (s : State) : Result :=
  issueData i s (fun s' o =>
    let lanes := lanes128 (fun k => roundLane f rm (op (numVal o.l k) (numVal o.r k) (numVal o.a k)) (o.mark k k))
    s'.finish i o lanes f.digits .same .free (delayed i delta))

/-- The settling position of one operand on each lane (R189). -/
def settles (fresh : Nat) (n : Option Num) : List Nat :=
  match n with
  | some n => lanes128 (fun k => settleOne fresh k n (laneAt n.lanes k).val)
  | none => []

/-- The digits of the longest operand among some fields. -/
def DataOps.longest (o : DataOps) (fs : List FieldSel) : Nat :=
  [(FieldSel.l, o.l), (.r, o.r), (.p, o.p), (.a, o.a)].foldl (fun d x => match x.2 with
    | some n => if fs.contains x.1 then max d n.digits else d
    | none => d) 0

/-- DABS and DNORM: the head leaves in the cycle after every lane's sign has settled; digit j of DABS after input digit j, of DNORM after input
digit s + j, s being the last position to settle; DNORM's first digit is nonzero where the value is (R181, R186). -/
def afterSign (norm : Bool) (i : Instr) (f : Fmt) (rm : Rnd) (op : Val → Val) (s : State) : Result :=
  issueData i s (fun s' o =>
    let lanes := lanes128 (fun k => roundLane f rm (Exact.of (op (numVal o.l k)), 0) (o.mark k k))
    let due := settles s.fresh o.l
    let k := if norm then due.foldl max 0 else 0
    { s' with fresh := s'.fresh + 1 }.finish i o lanes f.digits .same (if norm then .normal else .free)
      ⟨[], [.l], due.map (fun j => waitsOf [.l] o.longest id [(j, [.l])]), [], [(.l, k, BitVec.allOnes 128)]⟩)

/-! Arithmetic (R186, R187). -/

/-- DADD (R186). -/
def execDadd (f : Fmt) (rm : Rnd) (c1 c0 : Consumer) (s : State) : Result :=
  elementwise (.dadd f rm c1 c0) f rm 2 (fun l r _ => exactPair (addVal rm l r)) s

/-- DSUB (R67, R186: l plus the negation of r). -/
def execDsub (f : Fmt) (rm : Rnd) (c1 c0 : Consumer) (s : State) : Result :=
  elementwise (.dsub f rm c1 c0) f rm 2 (fun l r _ => exactPair (addVal rm l r.negate)) s

/-- DMUL (R186). -/
def execDmul (f : Fmt) (rm : Rnd) (c1 c0 : Consumer) (s : State) : Result :=
  elementwise (.dmul f rm c1 c0) f rm 3 (fun l r _ => exactPair (mulVal l r)) s

/-- DFMA (R186). -/
def execDfma (f : Fmt) (rm : Rnd) (c1 c0 : Consumer) (s : State) : Result :=
  elementwise (.dfma f rm c1 c0) f rm 4 (fun l r a => exactPair (fmaVal rm l r a)) s

/-- DFMS (R67, R186: the negation applies to a). -/
def execDfms (f : Fmt) (rm : Rnd) (c1 c0 : Consumer) (s : State) : Result :=
  elementwise (.dfms f rm c1 c0) f rm 4 (fun l r a => exactPair (fmaVal rm l r a.negate)) s

/-- DDIV (R186). -/
def execDdiv (f : Fmt) (rm : Rnd) (c1 c0 : Consumer) (s : State) : Result :=
  elementwise (.ddiv f rm c1 c0) f rm 4 (fun l r _ => divVal l r) s

/-- DSQRT (R186). -/
def execDsqrt (f : Fmt) (rm : Rnd) (c1 c0 : Consumer) (s : State) : Result :=
  elementwise (.dsqrt f rm c1 c0) f rm 4 (fun l _ _ => sqrtVal l) s

/-- DRSQRT (R186). -/
def execDrsqrt (f : Fmt) (rm : Rnd) (c1 c0 : Consumer) (s : State) : Result :=
  elementwise (.drsqrt f rm c1 c0) f rm 4 (fun l _ _ => rsqrtVal l) s

/-- DRCP (R186). -/
def execDrcp (f : Fmt) (rm : Rnd) (c1 c0 : Consumer) (s : State) : Result :=
  elementwise (.drcp f rm c1 c0) f rm 4 (fun l _ _ => rcpVal l) s

/-- DEXP2 (R186). -/
def execDexp2 (f : Fmt) (rm : Rnd) (c1 c0 : Consumer) (s : State) : Result :=
  elementwise (.dexp2 f rm c1 c0) f rm 6 (fun l _ _ => (exp2Val l, 0)) s

/-- DLOG2 (R186). -/
def execDlog2 (f : Fmt) (rm : Rnd) (c1 c0 : Consumer) (s : State) : Result :=
  elementwise (.dlog2 f rm c1 c0) f rm 6 (fun l _ _ => log2Val l) s

/-- DSCALE (R186, R187: l times 2 to the signed token). -/
def execDscale (f : Fmt) (rm : Rnd) (c1 c0 : Consumer) (s : State) : Result :=
  let n : Int := (tokVal ((s.slot s.site).head .r)).toInt
  elementwise (.dscale f rm c1 c0) f rm 2 (fun l _ _ => (Exact.of (l.scale n), 0)) s

/-- DNEG (R186, R187). -/
def execDneg (f : Fmt) (rm : Rnd) (c1 c0 : Consumer) (s : State) : Result :=
  elementwise (.dneg f rm c1 c0) f rm 1 (fun l _ _ => (Exact.of l.negate, 0)) s

/-- DCVT (R186). -/
def execDcvt (f : Fmt) (rm : Rnd) (c1 c0 : Consumer) (s : State) : Result :=
  elementwise (.dcvt f rm c1 c0) f rm 2 (fun l _ _ => (Exact.of l, 0)) s

/-- DTRUNC (R186, R187). -/
def execDtrunc (f : Fmt) (rm : Rnd) (c1 c0 : Consumer) (s : State) : Result :=
  elementwise (.dtrunc f rm c1 c0) f rm 2 (fun l _ _ => (Exact.of (truncVal l), 0)) s

/-- DABS (R181, R186, R187). -/
def execDabs (f : Fmt) (rm : Rnd) (c1 c0 : Consumer) (s : State) : Result :=
  afterSign false (.dabs f rm c1 c0) f rm Val.abs s

/-- DNORM (R181, R186, R187: the value of DCVT, later). -/
def execDnorm (f : Fmt) (rm : Rnd) (c1 c0 : Consumer) (s : State) : Result :=
  afterSign true (.dnorm f rm c1 c0) f rm id s

/-! Early decision (R188 to R192). -/

/-- What a deciding instruction finds on a lane: the value to round, the positions at which its orders settle with the operands of each, the operands that
lose their remaining digits, and the operand that passes through, if one does. -/
structure Verdict where
  val : Val
  orders : List (Nat × List FieldSel)
  lose : List FieldSel
  pass : Option FieldSel
  deriving DecidableEq, Repr

/-- The lanes of verdicts that a predicate picks. -/
def lanesOf (vs : List Verdict) (p : Verdict → Bool) : BitVec 128 := maskOf (fun k => (vs[k]?).any p)

/-- The course of verdicts on the fields that they ask; `at'` gives the position whose arrival ends the wait of a lane (R190, R191, R192). -/
def courseOf (asks : List FieldSel) (longest : List FieldSel → Nat) (vs : List Verdict) (at' : Nat → Nat) : Course :=
  { heads := [], asks := asks, due := vs.map (fun v => waitsOf asks longest at' v.orders),
    lose := [FieldSel.l, .r, .p, .a].map (fun f => (f, lanesOf vs (fun v => v.lose.contains f))),
    bounds := [FieldSel.l, .r, .a].map (fun f => (f, 0, lanesOf vs (fun v => v.pass == some f))) }

/-- A deciding instruction: values rounded to the format; each lane decides once the position that R189 names has arrived, and sends its
spalls in that cycle (R190, R191). `asks` are the fields whose digits the decision reads. -/
def decide' (i : Instr) (f : Fmt) (rm : Rnd) (digits : Nat) (verdict : DataOps → Nat → Verdict) (asks : List FieldSel) (at' : Nat → Nat → Nat)
    (s : State) : Result :=
  issueData i s (fun s' o =>
    let vs := lanes128 (fun k => verdict o k)
    let lanes := lanes128 (fun k => roundLane f rm (Exact.of ((vs.map (fun v => v.val)).getD k .nan), 0) (o.mark k k))
    { s' with fresh := s'.fresh + 2 }.finish i o lanes digits .same .free (courseOf asks o.longest vs (at' (o.longest asks))))

/-- The position at which the order of two operand numbers settles on a lane. -/
def orderAt (fresh k : Nat) (x y : Option Num) : Nat :=
  match x, y with
  | some x, some y => settleTwo fresh k x y (laneAt x.lanes k).val (laneAt y.lanes k).val
  | _, _ => 0

/-- The position at which one operand settles on a lane. -/
def signAt (fresh k : Nat) (x : Option Num) : Nat :=
  match x with
  | some x => settleOne fresh k x (laneAt x.lanes k).val
  | none => 0

/-- DMIN and DMAX (R68, R190): the loser loses its digits; both do when the result is NaN. -/
def minMaxVerdict (least : Bool) (fresh : Nat) (o : DataOps) (k : Nat) : Verdict :=
  let l := numVal o.l k
  let r := numVal o.r k
  let left := picksLeft least l r
  let none' := l.isNan && r.isNan
  ⟨if left then l else r, [(orderAt fresh k o.l o.r, [.l, .r])], if none' then [.l, .r] else if left then [.r] else [.l],
    if none' then none else if left then some .l else some .r⟩

/-- DRELU (R68, R190). -/
def reluVerdict (fresh : Nat) (o : DataOps) (k : Nat) : Verdict :=
  let x := numVal o.l k
  let pos := !x.isNan && !x.isZero && !x.neg
  ⟨if x.isNan then .nan else if pos then x else .zero false, [(signAt fresh k o.l, [.l])], if pos then [] else [.l], if pos then some .l else none⟩

/-- DCLAMP (R68, R189, R190): DMIN(DMAX(x, lo), hi) with x = l, lo = r, hi = a. -/
def clampVerdict (fresh : Nat) (o : DataOps) (k : Nat) : Verdict :=
  let x := numVal o.l k
  let lo := numVal o.r k
  let hi := numVal o.a k
  let first := picksLeft false x lo
  let mid := if first then x else lo
  let second := picksLeft true mid hi
  let orders := [(orderAt fresh k o.l o.r, [FieldSel.l, .r]),
    (orderAt (fresh + 1) k o.a (if first then o.l else o.r), [FieldSel.a, if first then .l else .r])]
  ⟨if second then mid else hi, orders, if !second then [.l, .r] else if first then [.r, .a] else [.l, .a],
    some (if !second then .a else if first then .l else .r)⟩

/-- DTHR (R68, R190): x when x ≥ t, +0 when not; a NaN x stays NaN. -/
def thrVerdict (fresh : Nat) (o : DataOps) (k : Nat) : Verdict :=
  let x := numVal o.l k
  let t := numVal o.r k
  let ge := !x.isNan && !t.isNan && (ordZ x t != .lt)
  ⟨if x.isNan then .nan else if ge then x else .zero false, [(orderAt fresh k o.l o.r, [.l, .r])], if ge || x.isNan then [.r] else [.l, .r],
    if ge then some .l else none⟩

/-- DCMP (R68, R188, R190). -/
def cmpVerdict (c : Cond) (fresh : Nat) (o : DataOps) (k : Nat) : Verdict :=
  ⟨if cmpVal c (numVal o.l k) (numVal o.r k) then .fin false 1 0 else .zero false, [(orderAt fresh k o.l o.r, [.l, .r])], [.l, .r], none⟩

/-- DKILL (R188, R190). -/
def killVerdict (fresh : Nat) (o : DataOps) (k : Nat) : Verdict :=
  let p := (numVal o.p k).truth
  ⟨if p then numVal o.l k else .zero false, [(signAt fresh k o.p, [.p])], if p then [.p] else [.p, .l], if p then some .l else none⟩

/-- DSEL (R188, R192): not a deciding instruction, it sends no spall of its own. -/
def selVerdict (fresh : Nat) (o : DataOps) (k : Nat) : Verdict :=
  ⟨if (numVal o.p k).truth then numVal o.l k else numVal o.r k, [(signAt fresh k o.p, [.p])], [], some (if (numVal o.p k).truth then .l else .r)⟩

/-- DMIN (R190). -/
def execDmin (f : Fmt) (rm : Rnd) (c1 c0 : Consumer) (s : State) : Result :=
  decide' (.dmin f rm c1 c0) f rm f.digits (minMaxVerdict true s.fresh) [.l, .r] decidesAt s

/-- DMAX (R190). -/
def execDmax (f : Fmt) (rm : Rnd) (c1 c0 : Consumer) (s : State) : Result :=
  decide' (.dmax f rm c1 c0) f rm f.digits (minMaxVerdict false s.fresh) [.l, .r] decidesAt s

/-- DRELU (R190). -/
def execDrelu (f : Fmt) (rm : Rnd) (c1 c0 : Consumer) (s : State) : Result :=
  decide' (.drelu f rm c1 c0) f rm f.digits (reluVerdict s.fresh) [.l] decidesAt s

/-- DCLAMP (R190). -/
def execDclamp (f : Fmt) (rm : Rnd) (c1 c0 : Consumer) (s : State) : Result :=
  decide' (.dclamp f rm c1 c0) f rm f.digits (clampVerdict s.fresh) [.l, .r, .a] decidesAt s

/-- DTHR (R190). -/
def execDthr (f : Fmt) (rm : Rnd) (c1 c0 : Consumer) (s : State) : Result :=
  decide' (.dthr f rm c1 c0) f rm f.digits (thrVerdict s.fresh) [.l, .r] decidesAt s

/-- DCMP (R182, R190): numbers of one digit; +1 and +0 are exact in every format. -/
def execDcmp (k : Cond) (c1 c0 : Consumer) (s : State) : Result :=
  decide' (.dcmp k c1 c0) .x .rne 1 (cmpVerdict k s.fresh) [.l, .r] decidesAt s

/-- DSEL (R192). -/
def execDsel (f : Fmt) (rm : Rnd) (c1 c0 : Consumer) (s : State) : Result :=
  decide' (.dsel f rm c1 c0) f rm f.digits (selVerdict s.fresh) [.p] (fun _ j => j) s

/-- DKILL (R190). -/
def execDkill (f : Fmt) (rm : Rnd) (c1 c0 : Consumer) (s : State) : Result :=
  decide' (.dkill f rm c1 c0) f rm f.digits (killVerdict s.fresh) [.p] decidesAt s

/-! Moving lanes (R193 to R196). -/

/-- DREP (R193). DESIGN CHOICE (log 9): its digits are the canonical string of the word, as DRDV's are. -/
def execDrep (f : Fmt) (c1 c0 : Consumer) (s : State) : Result :=
  issueData (.drep f c1 c0) s (fun s' o =>
    let (v, fl) := wordVal f (tokVal o.toks.l)
    s'.finish (.drep f c1 c0) o (lanes128 (fun _ => (⟨v, tokMark o.toks.l⟩, fl))) f.digits .same (.canon f) .atOnce)

/-- DXTR (R194): the lane named by r [6:0], rounded to a word. -/
def execDxtr (f : Fmt) (rm : Rnd) (c1 c0 : Consumer) (s : State) : Result :=
  issueData (.dxtr f rm c1 c0) s (fun s' o =>
    let k := (tokVal o.toks.r).toNat % 128
    let (w, fl) := toWord f rm (Exact.of (numVal o.l k))
    (s'.raiseFlags s.site.cell fl).emitAll s.site [c0, c1] ⟨w, (numMark o.l k).or (tokMark o.toks.r)⟩)

/-- An instruction whose output lane i carries input lane src(i) (R195). -/
def moveLanes (i : Instr) (f : Fmt) (rm : Rnd) (src : Word → Nat → Nat) (s : State) : Result :=
  issueData i s (fun s' o =>
    let r := tokVal o.toks.r
    let lanes := lanes128 (fun k => roundLane f rm (Exact.of (numVal o.l (src r k)), 0) (o.mark (src r k) k))
    s'.finish i o lanes f.digits (.from (lanes128 (src r))) .free (delayed i 2))

/-- The source lane of DLANE: g = r [2:0], o = r [14:8] (R195). -/
def laneGroup (r : Word) (i : Nat) : Nat :=
  let n := 2 ^ (r.toNat % 8)
  i / n * n + r.toNat / 256 % 128 % n

/-- DLANE (R195). -/
def execDlane (f : Fmt) (rm : Rnd) (c1 c0 : Consumer) (s : State) : Result := moveLanes (.dlane f rm c1 c0) f rm laneGroup s

/-- DSHUF (R195). -/
def execDshuf (f : Fmt) (rm : Rnd) (c1 c0 : Consumer) (s : State) : Result :=
  moveLanes (.dshuf f rm c1 c0) f rm (fun r i => i ^^^ (r.toNat % 128)) s

/-- DROT (R195). -/
def execDrot (f : Fmt) (rm : Rnd) (c1 c0 : Consumer) (s : State) : Result :=
  moveLanes (.drot f rm c1 c0) f rm (fun r i => (i + 128 - r.toNat % 128) % 128) s

/-- DBCAST (R195). -/
def execDbcast (f : Fmt) (rm : Rnd) (c1 c0 : Consumer) (s : State) : Result := moveLanes (.dbcast f rm c1 c0) f rm (fun _ _ => 0) s

/-- The mark of a number as a whole: that of its lowest-numbered poisoned lane (R170, R183). -/
def firstPoison (lanes : List Lane) : Mark := (lanes.filterMap (fun x => x.mark)).head?

/-- The lanes of an operand number. -/
def opLanes (n : Option Num) : List Lane := lanes128 (fun k => ⟨numVal n k, numMark n k⟩)

/-- DRED (R183, R196): the exact sum of the 128 lanes, rounded once, on every lane. -/
def execDred (f : Fmt) (rm : Rnd) (c1 c0 : Consumer) (s : State) : Result :=
  issueData (.dred f rm c1 c0) s (fun s' o =>
    let ls := opLanes o.l
    let x := roundLane f rm (exactPair (sumAll rm (ls.map (fun x => x.val)))) (firstPoison ls)
    s'.finish (.dred f rm c1 c0) o (lanes128 (fun _ => x)) f.digits .all .free (delayed (.dred f rm c1 c0) 14))

/-! Accumulators and weights (R197 to R203). -/

/-- The clamp of a 48-bit integer accumulator (R74). -/
def sat48 (i : Int) : Int := max (-(2 ^ 47)) (min (2 ^ 47 - 1) i)

/-- The integer of an accumulator lane of KIND INT. -/
def intOf (v : Val) : Int := (roundInt .rtz (Exact.of v)).1

/-- A term added to an accumulator lane by its KIND (R67, R197). -/
def addTerm (int : Bool) (acc t : Val) : Val × Word :=
  if int then
    match t with
    | .nan => (acc, flagNV)
    | .inf n => (Val.ofInt (if n then -(2 ^ 47) else 2 ^ 47 - 1), flagNV)
    | .zero _ | .fin _ _ _ =>
      let (n, inexact) := roundInt .rne (Exact.of t)
      let sum := intOf acc + n
      (Val.ofInt (sat48 sum), (if inexact then flagNX else 0) ||| (if sat48 sum = sum then 0 else flagNV))
  else
    let (v, fl) := addVal .rne acc t
    let (w, fl') := acc40.round .rne (Exact.of v)
    (w, fl ||| fl')

def Pe.accReg (p : Pe) (a : Nat) : Acc := p.acc.getD a .zero

def Pe.setAcc (p : Pe) (a : Nat) (x : Acc) : Pe := { p with acc := p.acc.set a x }

/-- The PE of the current site. -/
def State.peOf (s : State) (t : Site) : Pe :=
  match s.cell? t.cell with
  | some c => c.pe t.pe
  | none => .fresh

def State.updPe (s : State) (t : Site) (f : Pe → Pe) : State := s.updCell t.cell (fun c => c.updPe t.pe f)

/-- Terms with their flags and marks added to the lanes of an accumulator; a poisoned term is a sink of kind 2 (R197, R333). -/
def State.accumulate (s : State) (t : Site) (acc : BitVec 2) (terms : List (Lane × Word)) : State :=
  let reg := (s.peOf t).accReg acc.toNat
  let new := terms.mapIdx (fun k x =>
    let old := laneAt reg.lanes k
    let (v, fl) := addTerm reg.int old.val x.1.val
    ((⟨v, x.1.mark.or old.mark⟩ : Lane), x.2 ||| fl))
  let s := s.updPe t (fun p => p.setAcc acc.toNat ⟨reg.int, new.map (fun x => x.1)⟩)
  (s.raiseFlags t.cell (allFlags new)).sinks t 2 0 (terms.filterMap (fun x => x.1.mark))

/-- DMAC (R198): the number rounded to the operand format, times the current weight, exactly; the term is poisoned with either. -/
def execDmac (f : Fmt) (acc : BitVec 2) (s : State) : Result :=
  issueData (.dmac f acc) s (fun s' o =>
    let w := (s.peOf s.site).cur.lanes
    s'.accumulate s.site acc (lanes128 (fun k =>
      let (v, fl) := roundTo f .rne (Exact.of (numVal o.l k))
      let (p, fl') := mulVal v (laneAt w k).val
      (⟨p, (numMark o.l k).or (laneAt w k).mark⟩, fl ||| fl'))))

/-- DACC (R199). -/
def execDacc (acc : BitVec 2) (s : State) : Result :=
  issueData (.dacc acc) s (fun s' o => s'.accumulate s.site acc (lanes128 (fun k => (⟨numVal o.l k, numMark o.l k⟩, 0))))

/-- DACCRD (R200): every lane rounded once; the accumulator is unchanged. DESIGN CHOICE (log 55): where the token and the lane are both
poisoned, the origin is the token's. -/
def execDaccrd (f : Fmt) (rm : Rnd) (acc : BitVec 2) (c0 : Consumer) (s : State) : Result :=
  issueData (.daccrd f rm acc c0) s (fun s' o =>
    let reg := (s.peOf s.site).accReg acc.toNat
    let lanes := lanes128 (fun k =>
      roundLane f rm (Exact.of (laneAt reg.lanes k).val, 0) ((tokMark o.toks.l).or (laneAt reg.lanes k).mark))
    s'.finish (.daccrd f rm acc c0) o lanes f.digits .same .free .atOnce)

/-- DACCZ (R201): every lane +0, unmarked; KIND INT when bit [0] of the token is 1. -/
def execDaccz (acc : BitVec 2) (s : State) : Result :=
  issueData (.daccz acc) s (fun s' o =>
    s'.updPe s.site (fun p => p.setAcc acc.toNat ⟨(tokVal o.toks.l).getLsbD 0, []⟩))

/-- DWST (R202): each lane's shadow weight. -/
def execDwst (f : Fmt) (s : State) : Result :=
  issueData (.dwst f) s (fun s' o =>
    let lanes := lanes128 (fun k => roundLane f .rne (Exact.of (numVal o.l k), 0) (numMark o.l k))
    (s'.updPe s.site (fun p => { p with shadow := ⟨lanes.map (fun x => x.1), [], f⟩, stored := true })).raiseFlags s.site.cell
      (allFlags lanes))

/-! Vector registers (R169, R170). -/

/-- DRDV (R163, R167, R169): the register's words on the lanes; a dead register gives 128 lanes poisoned by the instruction, whose
values are free (log 5). -/
def execDrdv (v : BitVec 5) (h : Hint) (f : Fmt) (c0 : Consumer) (s : State) : Result :=
  let i : Instr := .drdv v h f c0
  issueData i s (fun s' o =>
    match s.cell? s.site.cell with
    | none => s'
    | some c =>
      let r := (c.regs.vReg v.toNat).view s.cycle
      if deadRead (c.regs.vBank (v.toNat / 4)) r.valid then
        let lanes := lanes128 (fun k => (⟨(wordVal f (Config.poisonWord s.fresh k)).1, some (s.origin s.site)⟩ : Lane))
        ((s'.updCell s.site.cell (fun c => c.deadTouchV s.cycle v.toNat)).deadReg s.site 1 v.toNat).emitNum s.site i o
          ⟨lanes, f.digits, .same, .free, .atOnce⟩
      else
        let lanes := lanes128 (fun k =>
          let (x, fl) := wordVal f (r.lanes.getD k 0)
          ((⟨x, (tokMark o.toks.l).or (if inMask r.mask k then some r.origin else none)⟩ : Lane), fl))
        let s' := s'.updCell s.site.cell (fun c => (c.touchV s.cycle v.toNat).updRegs (fun g =>
          g.setV v.toNat ((g.vReg v.toNat).readMark s.cycle h VReg.marked)))
        (s'.raiseFlags s.site.cell (allFlags lanes)).emitNum s.site i o ⟨lanes.map (fun x => x.1), f.digits, .same, .canon f, .atOnce⟩)

/-- DWRV (R164, R170): every lane rounded to a word; the lane poison mask; then a token of 0. -/
def execDwrv (v : BitVec 5) (f : Fmt) (rm : Rnd) (c0 : Consumer) (s : State) : Result :=
  issueData (.dwrv v f rm c0) s (fun s' o =>
    let ls := opLanes o.l
    let ws := ls.map (fun x => toWord f rm (Exact.of x.val))
    let reg : VReg := { lanes := ws.map (fun x => x.1), valid := true, far := false, mask := maskOf (fun k => (laneAt ls k).mark.isSome),
                        origin := (firstPoison ls).getD 0 }
    let s' := s'.updCell s.site.cell (fun c => (c.touchV s.cycle v.toNat).updRegs (fun g =>
      g.setV v.toNat ((g.vReg v.toNat).write s.cycle s.site.rank reg)))
    (s'.raiseFlags s.site.cell (ws.foldl (fun a x => a ||| x.2) 0)).emit s.site c0 ⟨0, none⟩)

end Sys2Proof.Machine
end

