-- ==== Sys2Proof/Machine/Firing.lean ====
section
/-! DEFINITION. The start and the end of a firing (R119 to R122, R128, R155 to R159, R176, R202), age counters (R125). -/

namespace Sys2Proof.Machine

/-! Start (R120). -/

/-- Whether a block has reached its LGFIRE limit in this lift (R16). -/
def Block.atLimit (b : Block) : Bool := b.lgFire != 63 && decide (2 ^ b.lgFire ≤ b.fired)

/-- Whether every channel meets the block's declared rate or production (R119, R120). -/
def Block.channelsReady (b : Block) : Bool :=
  (List.range b.nin).all (fun c => decide (b.rates.getD c 0 ≤ (b.inChan c).occupancy)) &&
    (List.range b.nout).all (fun c => decide (b.prods.getD c 0 ≤ (b.outChan c).free) || !(b.outChan c).present)

/-- The port of the lowest-indexed untriggered INGRESS of a host-port block (R98). -/
def Block.ingressPort (b : Block) : Option Nat :=
  if b.kind = 4 then
    (List.range b.words.length).findSome? (fun j => match b.instr? j with
      | some (.ingress p _ _) => if b.named j .l then none else some p.toNat
      | _ => none)
  else none

/-- Whether the host port that a host-port block needs holds an ingress token (R98). -/
def State.ingressReady (s : State) (b : Block) : Bool :=
  match b.ingressPort with
  | none => true
  | some p => match s.hostPorts.find? (fun h => h.num == p) with
    | some h => !h.ingress.isEmpty
    | none => false

/-- Whether a region's cells may begin a firing: no HALT before this cycle, no switch that holds them (R328, R340, R348). -/
def State.regionBegins (s : State) (rid : Nat) : Bool :=
  s.regionGoes rid && (match s.region? rid with
    | none => false
    | some r => r.switch.isNone && (match r.haltAt with
      | none => true
      | some k => decide (s.cycle ≤ k)))

/-- Whether a block can start a firing (R120). -/
def State.canFire (s : State) (b : Block) : Bool := !b.firing && !b.atLimit && b.channelsReady && s.ingressReady b

/-- The contexts of a cell's blocks, ascending. -/
def Cell.ctxs (c : Cell) : List Nat := [0, 1, 2, 3].filter (fun k => (c.block? k).isSome)

/-- The contexts in round-robin order from the block that fired last (R120). -/
def Cell.roundRobin (c : Cell) : List Nat :=
  match c.last with
  | none => c.ctxs
  | some k => c.ctxs.filter (fun x => decide (k < x)) ++ c.ctxs.filter (fun x => decide (x ≤ k))

/-- The block of a cell that starts next (R120). -/
def State.nextToFire (s : State) (c : Cell) : Option Nat :=
  if c.blocks.any (fun b => b.firing) then none
  else c.roundRobin.find? (fun k => match c.block? k with
    | some b => s.canFire b
    | none => false)

/-- A slot at the start of a firing: no executions yet, ACCUM's sum and a sequence's state cleared (R128, R157, R159). -/
def Slot.begin (sl : Slot) : Slot := { sl with done := 0, seq := 0, begun := false, sum := 0, sumMark := none, age := 0, aged := none, waking := false, run := none }

def Block.begin (b : Block) : Block :=
  { b with firing := true, fend := none, slots := b.slots.map Slot.begin, ins := b.ins.map (fun c => { c with advanced := false }),
           outs := b.outs.map (fun c => { c with w := 0, advanced := false }) }

/-- FIRING_START (R120): the next block of the cell in round-robin order starts; a change of context slot takes 2 cycles. -/
def execFiringStart (cell ctx : Nat) (s : State) : Result :=
  match s.cell? cell with
  | none => .next s
  | some c =>
    if s.regionBegins c.rid && s.benchActs c && decide (c.adoptAt ≤ s.cycle) && decide (c.switchUntil ≤ s.cycle) &&
        decide (s.nextToFire c = some ctx) then
      let until' := if c.cur = some ctx then c.switchUntil else s.cycle + 2
      .next (s.updCell cell (fun c => { (c.updBlock ctx Block.begin) with cur := some ctx, last := some ctx, switchUntil := until' }))
    else .next s

/-! End (R121). -/

/-- Whether every RECV and PEEK of the block has emitted its count; a FEND waives the rest (R121, R348). -/
def Block.received (b : Block) : Bool :=
  b.fend.isSome || (List.range b.words.length).all (fun j => match b.instr? j with
    | some (.recv _ n _ _) | some (.peek _ n _ _) => decide (n.toNat ≤ (b.slot j).done)
    | _ => true)

/-- Whether a site belongs to a block of a cell. -/
def Site.of (t : Site) (cell ctx : Nat) : Bool := t.cell == cell && t.ctx == ctx

/-- Whether a sequence of CNT or CNTX has started at a slot and has not reached its last execution (R155, R156, R159); a FEND lets no further
one start (R348; log 46). -/
def Block.inSequence (b : Block) (j : Nat) : Bool :=
  (b.slot j).seq != 0 || ((b.fend.isNone || (b.slot j).begun) && (b.instr? j).any (fun i => (b.slot j).sequence i))

/-- Whether an instruction of the block is executing, or a reply to it is pending; an operation of a systolic
region in progress is one, whichever firing issued it (R121, R143, R159, R166, R248). -/
def State.executing (s : State) (c : Cell) (b : Block) : Bool :=
  (b.slots.any (fun sl => sl.waking || !sl.made.isEmpty)) || (List.range b.slots.length).any b.inSequence ||
    c.pes.any (fun p => match p.division with
      | some d => d.site.of c.num b.ctx
      | none => false) ||
    c.ports.any (fun p => p.accs.any (fun a => a.site.of c.num b.ctx) || (match p.nest with
      | some n => n.site.of c.num b.ctx
      | none => false)) ||
    s.pend.any (fun p => p.site.of c.num b.ctx) || (s.region? c.rid).any (fun r => r.sys.any (fun y => match y.queue.head? with
      | some o => (o.started || decide (0 < o.loaded) || o.eng.held.isSome) && o.eng.site.of c.num b.ctx
      | none => false))

/-- Whether a token, a number, a spall or an update of the block is in flight (R121, R212, R312). -/
def State.inFlight (s : State) (c : Cell) (b : Block) : Bool :=
  s.flight.any (fun f => f.site.of c.num b.ctx) || s.spalls.any (fun x => x.dest.site.of c.num b.ctx) ||
    (s.region? c.rid).any (fun r => r.updates.any (fun u => u.site.of c.num b.ctx)) ||
    b.slots.any (fun sl => [sl.l, sl.r, sl.p, sl.a].any (fun q => q.nums.any (fun n => !n.used && !n.by 0 s.cycle)))

/-- Whether some instruction's guard holds, its wake or its ALU aside (R121). -/
def State.anyGuard (s : State) (c : Cell) (b : Block) : Bool :=
  (List.range b.words.length).any (fun j => match b.instr? j with
    | none => false
    | some i => if j % 4 = 0 then s.holds0 c b ⟨c.num, b.ctx, j⟩ i else s.holds c b j i)

/-- Whether the firing of a block ends; not before the change of slot that began it is over (R120, R121). -/
def State.ends (s : State) (c : Cell) (b : Block) : Bool :=
  b.firing && decide (c.switchUntil ≤ s.cycle) && b.received && !s.executing c b && !s.inFlight c b && !s.anyGuard c b

/-- Tokens left in the field FIFOs of a block (R121). -/
def Block.leftTokens (b : Block) : Nat :=
  b.slots.foldl (fun n sl => n + sl.l.toks.length + sl.r.toks.length + sl.p.toks.length + sl.a.toks.length) 0

/-- A field at the end of a firing: its tokens are discarded, and the numbers of its own block; numbers that came over a link wait
(R112, R121). -/
def FieldQ.clear (q : FieldQ) (cell ctx : Nat) : FieldQ :=
  { toks := [], resv := 0, nums := q.nums.filter (fun n => !n.src.site.of cell ctx) }

def Slot.clear (sl : Slot) (cell ctx : Nat) : Slot :=
  { sl with l := sl.l.clear cell ctx, r := sl.r.clear cell ctx, p := sl.p.clear cell ctx, a := sl.a.clear cell ctx, run := none }

/-- An input channel at the end of a firing: with no ADVC, CP advances by the declared rate (R121). -/
def InChan.close (c : InChan) (rate : Nat) : InChan := if c.advanced then c else { c with cp := c.cp + BitVec.ofNat 32 rate }

/-- An output channel at the end of a firing: with no ADVP, PP advances by the tokens written; otherwise the rest is discarded
(R121). -/
def OutChan.close (c : OutChan) : OutChan :=
  { c with pp := if c.advanced then c.pp else c.pp + BitVec.ofNat 32 c.w, w := 0 }

/-- The block after its firing has ended (R121, R122). -/
def Block.finish (b : Block) (cell : Nat) : Block :=
  { b with firing := false, fend := none, slots := b.slots.map (fun sl => sl.clear cell b.ctx),
           ins := b.ins.mapIdx (fun k c => c.close (b.rates.getD k 0)), outs := b.outs.map OutChan.close, fireNo := b.fireNo + 1,
           fired := b.fired + 1 }

/-- The weight registers swap in every PE whose DWST wrote in the firing (R202). -/
def Pe.swapStored (p : Pe) : Pe := if p.stored then { p with cur := p.shadow, shadow := p.cur, stored := false } else p

/-- The hints of the load streams whose runs end with the firing (R176). -/
def State.applyRuns (s : State) (b : Block) : State :=
  b.slots.foldl (fun s sl => match sl.run with
    | some r => { s with mem := s.mem.hintSeg s.cycle r.segment r.hint }
    | none => s) s

/-- FIRING_END (R121): channels, FIFOs, FIRE_NO, counters, weight registers and load streams. -/
def execFiringEnd (cell ctx : Nat) (s : State) : Result :=
  match s.cell? cell with
  | none => .next s
  | some c => match c.block? ctx with
    | none => .next s
    | some b =>
      if s.regionGoes c.rid && s.benchActs c && decide (c.cur = some ctx) && s.ends c b then
        let b' := b.finish cell
        let s := (s.applyRuns b).updCell cell (fun c =>
          let c := c.updBlock ctx (fun _ => b')
          ({ c with pes := c.pes.map Pe.swapStored }.count 0 1).count 2 (BitVec.ofNat 32 b.leftTokens))
        let s := (b.ins.zip b'.ins).foldl (fun s x => if x.1.cp = x.2.cp then s else s.sendCp x.2 c.divider) s
        .next ((b.outs.zip b'.outs).foldl (fun s x => if x.1.pp = x.2.pp then s else s.sendPp x.2 c.divider) s)
      else .next s

/-! Age (R125). -/

/-- AGE_COUNTER_EXPIRY: a slot whose age has reached 1,024 goes ahead of lower slots (R125). -/
def execAgeCounterExpiry (cell pe slot : Nat) (s : State) : Result :=
  match s.cell? cell with
  | none => .next s
  | some c => match c.cur with
    | none => .next s
    | some ctx =>
      .next (s.updSlot ⟨cell, ctx, 4 * pe + slot⟩ (fun sl =>
        if 1024 ≤ sl.age ∧ sl.aged = none then { sl with aged := some s.cycle } else sl))

/-- What a cell's control slots stand at before the issues of a cycle: whose guards hold (R125), and where a sequence of CNT or CNTX has
started, until a FEND closes the firing (R159, R348; log 46). -/
def State.noteGuards (s : State) (c : Cell) : Cell :=
  match c.cur.bind (fun k => c.block? k) with
  | none => c
  | some b =>
    c.updBlock b.ctx (fun b => { b with slots := b.slots.mapIdx (fun j sl => match b.instr? j with
      | none => sl
      | some i => if j % 4 = 0 then sl
        else { sl with wants := s.holds c b j i, begun := if b.fend.all (fun f => decide (s.cycle ≤ f)) then sl.sequence i else sl.begun }) })

/-- The look at every guard before the issues of a cycle (R125). -/
def State.lookAtGuards (s : State) : State :=
  { s with cells := s.cells.map (fun c => if s.benchActs c then s.noteGuards c else c) }

/-- The age of a control slot after a cycle (R125): a cycle whose guard held without issue advances it, also where another instruction has
since taken the place that it would have had; a cycle that only waits for a bank leaves it; any other cycle clears it. -/
def State.agedSlot (s : State) (c : Cell) (b : Block) (j : Nat) (sl : Slot) : Slot :=
  match b.instr? j with
  | none => sl
  | some i =>
    if j % 4 = 0 ∨ sl.issuedAt = some s.cycle then sl
    else if sl.wants then
      match bankNeed c s.cycle i with
      | .go => { sl with age := min 1024 (sl.age + 1) }
      | .wake | .wait => sl
    else { sl with age := 0, aged := none }

/-- The end of a cycle for a cell's control slots: ages, and the cycles spent waiting on wakes (R125, R350). -/
def State.ageCell (s : State) (c : Cell) : Cell :=
  if !s.benchActs c then c
  else match c.cur.bind (fun k => c.block? k) with
    | none => c
    | some b =>
      let waiting := (b.slots.filter (fun sl => sl.waking)).length
      let c' := c.updBlock b.ctx (fun b => { b with slots := b.slots.mapIdx (fun j sl => s.agedSlot c b j sl) })
      if waiting = 0 then c' else c'.count 4 (BitVec.ofNat 32 waiting)

end Sys2Proof.Machine
end

