-- ==== Sys2Proof/Machine/Port.lean ====
section
/-! DEFINITION. Memory ports: loop nests, element addresses, accesses in flight and their translation (R218 to R224, R235, R242). -/

namespace Sys2Proof.Machine

/-! Ports (R218). -/

/-- A port as the wave and every wedge leave it (R218). -/
def Port.fresh (n : Nat) : Port :=
  { num := n, base := 0, cnt := List.replicate 6 0, str := List.replicate 6 0, fmt := .fp32, limit := 0, wins := [], accs := [], nest := none }

def Cell.port (c : Cell) (n : Nat) : Port := (c.port? n).getD (.fresh n)

/-- A port changed; a port that is not listed is as the wave left it. -/
def Cell.updPort (c : Cell) (n : Nat) (f : Port → Port) : Cell :=
  if (c.port? n).isSome then { c with ports := c.ports.map (fun p => if p.num == n then f p else p) }
  else { c with ports := c.ports ++ [f (.fresh n)] }

def State.port (s : State) (cell n : Nat) : Port :=
  match s.cell? cell with
  | some c => c.port n
  | none => .fresh n

def State.updPort (s : State) (cell n : Nat) (f : Port → Port) : State := s.updCell cell (fun c => c.updPort n f)

/-! Nests (R220, R221). -/

/-- AGB (R220). -/
def execAgb (p : BitVec 6) (s : State) : Result :=
  issueCtl (.agb p) s (fun s' o => s'.updPort s.site.cell p.toNat (fun q => { q with base := joinWords (tokVal o.l) (tokVal o.r) }))

/-- AGL (R220). -/
def execAgl (p : BitVec 6) (lv : BitVec 3) (s : State) : Result :=
  issueCtl (.agl p lv) s (fun s' o => s'.updPort s.site.cell p.toNat (fun q =>
    { q with cnt := q.cnt.set lv.toNat (tokVal o.l), str := q.str.set lv.toNat (tokVal o.r) }))

/-- AGFMT (R220). -/
def execAgfmt (p : BitVec 6) (f : Fmt) (s : State) : Result :=
  issueCtl (.agfmt p f) s (fun s' o => s'.updPort s.site.cell p.toNat (fun q => { q with fmt := f, limit := tokVal o.l }))

/-- The offset of a nest's indices: the sum of index times stride, modulo 2^32 (R221). -/
def nestOffset (idx : List Nat) (str : List Word) : Word :=
  (idx.zip str).foldl (fun a x => a + BitVec.ofNat 32 x.1 * x.2) 0

/-- The next indices, level 0 fastest; none after the last (R221). A level with count 0 behaves as count 1. -/
def nextIndices (idx : List Nat) (cnt : List Word) : Option (List Nat) :=
  match idx, cnt with
  | i :: is, c :: cs =>
    if i + 1 < max c.toNat 1 then some ((i + 1) :: is)
    else (nextIndices is cs).map (fun r => 0 :: r)
  | _, _ => none

/-- The nest that this AGGO runs at its port. -/
def State.myNest (s : State) (t : Site) (p : Nat) : Option Nest :=
  match (s.port t.cell p).nest with
  | some n => if n.site = t then some n else none
  | none => none

/-- Whether a nest can emit its next offset in this cycle: one at most per cycle, and every consumer has room (R221). -/
def State.nestReady (s : State) (t : Site) (c0 : Consumer) (n : Nest) : Bool :=
  decide (n.at? ≠ some s.cycle) && (match s.cell? t.cell, s.block? t with
    | some c, some b => s.benchActs c && s.regionGoes c.rid && b.room t.index [] [(c0, 1)]
    | _, _ => false)

/-- One offset of a nest (R221). -/
def State.nestStep (s : State) (t : Site) (p : Nat) (c0 : Consumer) (n : Nest) : State :=
  let q := s.port t.cell p
  let s := s.updPort t.cell p (fun q =>
    { q with nest := (nextIndices n.idx q.cnt).map (fun i => { n with idx := i, at? := some s.cycle }) })
  s.emit t c0 ⟨nestOffset n.idx q.str, n.trig.mark⟩

/-- AGGO (R220, R221): the trigger starts the nest; each further turn of the instruction emits the next offset. -/
def execAggo (p : BitVec 6) (c0 : Consumer) (s : State) : Result :=
  match s.myNest s.site p.toNat with
  | some n => if s.nestReady s.site c0 n then .next (s.nestStep s.site p.toNat c0 n) else .next s
  | none =>
    issueCtl (.aggo p c0) s (fun s' o => s'.updPort s.site.cell p.toNat (fun q =>
      { q with nest := some ⟨s.site, ⟨tokVal o.l, tokMark o.l⟩, List.replicate 6 0, none⟩ }))

/-- AGCTR (R220): the index that the next offset carries at a level; 0 when no nest runs. -/
def execAgctr (p : BitVec 6) (lv : BitVec 3) (c0 : Consumer) (s : State) : Result :=
  issueCtl (.agctr p lv c0) s (fun s' o =>
    let v := match (s.port s.site.cell p.toNat).nest with
      | some n => n.idx.getD lv.toNat 0
      | none => 0
    s'.emit s.site c0 ⟨BitVec.ofNat 32 v, o.mark⟩)

/-! Elements (R219, R222, R224). -/

/-- The classes of formats (R219). -/
inductive UnitClass where
  | byte | nibble | sextet
  deriving DecidableEq, Repr

def unitClass (f : Fmt) : UnitClass :=
  match f with
  | .e2m1 | .int4 | .code4 => .nibble
  | .e2m3 | .e3m2 => .sextet
  | .fp32 | .bf16 | .fp16 | .e4m3 | .e5m2 | .x | .int8 | .int32 | .uint8 => .byte

/-- The size of an element in units (R222). -/
def sizeUnits (f : Fmt) : Nat :=
  match f with
  | .fp32 | .int32 => 4
  | .bf16 | .fp16 => 2
  | .e4m3 | .e5m2 | .e2m3 | .e3m2 | .e2m1 | .x | .int8 | .uint8 | .int4 | .code4 => 1

/-- Where an element lies: first byte, first bit in it, and bytes touched (R219). -/
structure Place where
  va : Nat
  bit : Nat
  bytes : Nat
  deriving DecidableEq, Repr

/-- BASE plus a signed displacement, modulo 2^64. -/
def addrAt (base : DWord) (d : Int) : Nat := (base + BitVec.ofInt 64 d).toNat

/-- The place of the element of a format at offset o (R55, R219). -/
def elementAt (base : DWord) (f : Fmt) (o : Int) : Place :=
  match unitClass f with
  | .byte => ⟨addrAt base o, 0, sizeUnits f⟩
  | .nibble => ⟨addrAt base (o / 2), 4 * (o % 2).toNat, 1⟩
  | .sextet =>
    let i := (o % 4).toNat
    let first := 6 * i / 8
    ⟨addrAt base (3 * (o / 4) + first), 6 * i % 8, (6 * i + 5) / 8 - first + 1⟩

/-- The parts of a range of bytes: one, or two where it straddles a 64-byte line (R224). -/
def splitParts (va size : Nat) : List Part :=
  let room := 64 - va % 64
  if size ≤ room then [⟨va, size, none, false, 0, none, false⟩]
  else [⟨va, room, none, false, 0, none, false⟩, ⟨(va + room) % 2 ^ 64, size - room, none, false, 0, none, false⟩]

/-- What an access needs of its pages, and whether it counts as a write (R235, R330). DESIGN CHOICE (log 56): RECLAIM, which step 5 of R235
does not list, needs what a load does. -/
def needOf (i : Instr) : Need :=
  match i with
  | .sts _ _ _ | .agsct _ _ _ | .stv _ _ _ | .stl _ _ _ _ => .store
  | .atom _ _ _ _ _ => .both
  | _ => .load

/-- The element bits of a read, low bit first (R54, R222). -/
def elementBits (f : Fmt) (bit : Nat) (bs : List Byte) : Word :=
  let n := leNat bs / 2 ^ bit % 2 ^ f.width
  match f with
  | .int8 | .int4 => BitVec.ofInt 32 (signedOf f.width n)
  | .fp32 | .bf16 | .fp16 | .e4m3 | .e5m2 | .e2m3 | .e3m2 | .e2m1 | .x | .int32 | .uint8 | .code4 => BitVec.ofNat 32 n

/-- The bytes of an element's bits in their place, and the mask of those bits (R222). -/
def placedBytes (f : Fmt) (bit bytes : Nat) (v : Word) : List Byte × List Byte :=
  (leBytes bytes (v.toNat % 2 ^ f.width * 2 ^ bit), leBytes bytes ((2 ^ f.width - 1) * 2 ^ bit))

/-! Accesses in flight (R223, R224, R235, R242). -/

/-- The page-table root of the context of a cell. -/
def State.rootOf (s : State) (c : Cell) : DWord := (s.ctxRegs c.context).ptRoot

/-- The F-die of a cell (R102). -/
def Cell.die (c : Cell) : Nat := c.num / 1024 % 4

/-- The size of the page from which a translation came; 0 for that of a window (R235, R241). -/
def MemSys.pageOf (m : MemSys) (ws : List Window) (die ctx va : Nat) : Nat :=
  match windowHit ws va with
  | some _ => 0
  | none => match m.tileHit die ctx va with
    | some e => e.size
    | none => 0

/-- Whether an instruction accesses one element, whose second part FLT_AUX names (R224, R330). -/
def isElement (i : Instr) : Bool :=
  match i with
  | .lds _ _ _ _ | .sts _ _ _ | .aggat _ _ _ | .agsct _ _ _ | .ldv _ _ _ _ | .stv _ _ _ | .reclaim _ _ => true
  | _ => false

/-- Translate the parts that are not translated yet: with `walk` false by steps 1 to 3 and 5 of R235 alone, with it true by walks
as well. Answers the parts, and where it stopped: none done, or the fault code and address, or a walk still to make. -/
def translateParts (s : State) (c : Cell) (ws : List Window) (n : Need) (walk : Bool) : List Part → Bool →
    State × List Part × Option (Option (Nat × Nat × Bool))
  | [], _ => (s, [], none)
  | p :: rest, second =>
    match p.pa with
    | some _ =>
      let (s, ps, st) := translateParts s c ws n walk rest true
      (s, p :: ps, st)
    | none =>
      let (m, x) := if walk then s.mem.translate s.cycle ws c.die c.context (s.rootOf c) p.va n
        else (s.mem, s.mem.lookup ws c.die c.context p.va n)
      let s := { s with mem := m }
      match x with
      | .ok pa ver =>
        let (s, ps, st) := translateParts s c ws n walk rest true
        (s, { p with pa := some pa, ver := ver, page := m.pageOf ws c.die c.context p.va } :: ps, st)
      | .fault code => (s, p :: rest, some (some (code, p.va, second)))
      | .walk => (s, p :: rest, some none)

/-- FLT_AUX of a fault on an access: port, write, second part (R330). -/
def accessAux (port : Nat) (write second : Bool) : DWord :=
  BitVec.ofNat 64 (port % 64 + write.toNat * 64 + second.toNat * 128)

/-- A fault on an access of a port, with the issuing instruction as origin (R242, R330); `stamp` is the order of its issue. -/
def State.accessFault (s : State) (t : Site) (fire : Word) (port code va : Nat) (write second held : Bool) (stamp : Option Nat := none) : State :=
  match s.cell? t.cell with
  | none => s
  | some c =>
    s.raise { cell := some t.cell, ctx := c.context, rid := some c.rid, code := code, sub := 0, held := held, parked := false,
              origin := originOf t fire, addr := BitVec.ofNat 64 va, aux := accessAux port write second, fire := fire, stamp := stamp }

/-- Whether a translated part reaches what the memory map refuses (R214, R226). -/
def MemSys.forbidden (m : MemSys) (p : Part) : Bool := p.pa.any m.refuses

/-- The word accesses, which end in PROT at once where step 5 of R235 refuses them (R306). -/
def isWordAccess (i : Instr) : Bool :=
  match i with
  | .atom _ _ _ _ _ | .lda _ _ _ _ | .stl _ _ _ _ => true
  | _ => false

/-- The versioned pages after a translation is used: a page reached through a versioned translation is versioned; one reached
through another is not, and its lines lose their versions (R226). -/
def MemSys.notePage (m : MemSys) (p : Part) : MemSys :=
  match p.pa with
  | none => m
  | some pa =>
    let page := pa / 4096
    if target pa = some .spad then
      (if p.ver then { m with verPages := insertNat m.verPages page }
      else { m with verPages := m.verPages.filter (· != page), vers := m.vers.filter (fun v => v.line / 64 != page) })
    else m

/-- An access after an attempt to translate it: translated, waiting for a walk, holding a fault, or dropped with PROT. It translates through
the windows that its port had at its issue (R245). -/
def State.advance (s : State) (t : Site) (port : Nat) (a : Access) (walk : Bool) : State × Access :=
  match s.cell? t.cell with
  | none => (s, a)
  | some c =>
    let n := needOf a.instr
    let (s, ps, st) := translateParts s c (a.wins.getD (c.port port).wins) n walk a.parts false
    let a := { a with parts := ps }
    match st with
    | none =>
      match ps.find? (fun p => s.mem.forbidden p) with
      | some p => (s.accessFault t a.fire port codeProt p.va n.w (isElement a.instr && decide (p.va ≠ a.va)) false (some a.stamp), { a with stage := .done [] })
      | none => ({ s with mem := ps.foldl MemSys.notePage s.mem }, { a with stage := .ready })
    | some none => (s, { a with stage := .walk })
    | some (some (code, va, second)) =>
      let second := isElement a.instr && second
      if isWordAccess a.instr && code == codeProt && canonical va then
        (s.accessFault t a.fire port code va n.w second false (some a.stamp), { a with stage := .done [] })
      else
      let since := match a.stage with
        | .held _ _ _ k => k
        | .walk | .ready | .done _ | .stream _ _ _ => s.cycle
      (s.accessFault t a.fire port code va n.w second true (some a.stamp), { a with stage := .held code va second since })

/-! Load streams (R176). -/

def Stage.isDone (st : Stage) : Bool :=
  match st with
  | .done _ | .stream _ _ _ => true
  | .walk | .ready | .held _ _ _ _ => false

/-- The version state of a line; VER 0 and PV 0 when its page has become versioned (R226). -/
def MemSys.version (m : MemSys) (line : Nat) : Version :=
  match m.vers.find? (fun v => v.line == line) with
  | some v => v
  | none => ⟨line, 0, false⟩

/-- The address of the previous copy: the same bank, the segment number XOR 1 (R226). -/
def pairAddr (pa : Nat) : Nat := pa ^^^ 0x200000

/-- How far the version that an LDV asks for lies ahead of its line's (R227). -/
def MemSys.ahead (m : MemSys) (a : Access) (pa : Nat) : Nat := (BitVec.ofNat 8 (tokVal a.ops.r).toNat - (m.version (pa / 64)).ver).toNat

/-- A part as an access reaches it: an LDV that asks for the version before reads the previous copy (R226, R227). -/
def MemSys.reached (m : MemSys) (a : Access) (p : Part) : Part :=
  match a.instr, p.pa with
  | .ldv _ _ _ _, some pa => if p.ver && decide (m.ahead a pa = 255) then { p with pa := some (pairAddr pa) } else p
  | _, _ => p

/-- The part that a load stream reaches next: of the first access of its instruction that is not performed. -/
def State.nextOf (s : State) (t : Site) (port : Nat) : Option Part :=
  ((s.port t.cell port).accs.find? (fun a => decide (a.site = t) && !a.stage.isDone)).bind (fun a =>
    (a.parts.find? (fun p => p.got.isNone)).map (s.mem.reached a))

/-- Whether a part falls outside the segment of a run; a part that is not translated yet is judged by its page (DEDUCED; log 48). -/
def LoadRun.leaves (r : LoadRun) (p : Part) : Bool :=
  match p.pa with
  | some pa => pa / 4096 != r.segment
  | none => p.va / 4096 != r.page

/-- A run of a load stream ends once its last access has been performed and its stream's next access, where it has issued, falls in another
segment: the hint takes effect on the segment it leaves (R176). -/
def State.endRun (s : State) (t : Site) (port : Nat) : State :=
  match (s.slot t).run, s.nextOf t port with
  | some r, some p =>
    if r.leaves p then { s with mem := s.mem.hintSeg s.cycle r.segment r.hint }.updSlot t (fun sl => { sl with run := none }) else s
  | _, _ => s

/-- Issue an access: it takes its place in the port's order, translated as far as windows and tiles reach (R223, R235). -/
def State.startAccess (s : State) (t : Site) (i : Instr) (o : Opnds) (more : List Tok) (port : Nat) (va bit : Nat) (parts : List Part) : State :=
  let a : Access := { site := t, fire := s.fireNo t, instr := i, ops := o, more := more, va := va, bit := bit, parts := parts, stage := .walk,
                      dead := none, stamp := s.stamps, arr := none, wins := none }
  let s := { s with stamps := s.stamps + 1 }
  let (s, a) := s.advance t port a false
  ((s.updPort t.cell port (fun q => { q with accs := q.accs ++ [a] })).endRun t port).reserveAll t (emitsOf i .empty)

/-- Whether an element instruction passes the checks of R219: its format is of the class of the port's FMT, and its offset lies
below LIMIT. -/
def offsetOk (q : Port) (f : Fmt) (o : Word) : Bool :=
  decide (q.limit = 0) || decide (o.toNat + sizeUnits f ≤ q.limit.toNat)

/-- The element access of an offset: PROT where R219 refuses it, else an access of the port (R219, R222). -/
def elementAccess (i : Instr) (p : BitVec 6) (f : Fmt) (offset : Word → Word) (s : State) : Result :=
  issueCtl i s (fun s' o =>
    let q := s.port s.site.cell p.toNat
    let off := offset (tokVal o.l)
    if unitClass f ≠ unitClass q.fmt then s'.opcodeFault s.site codeProt i
    else
      let e := elementAt q.base f off.toInt
      if !offsetOk q f off then s'.accessFault s.site (s.fireNo s.site) p.toNat codeProt e.va (needOf i).w false false
      else s'.startAccess s.site i o [] p.toNat e.va e.bit (splitParts e.va e.bytes))

/-- LDS (R222). -/
def execLds (p : BitVec 6) (h : Hint) (f : Fmt) (c0 : Consumer) (s : State) : Result := elementAccess (.lds p h f c0) p f id s

/-- STS (R222). -/
def execSts (p : BitVec 6) (f : Fmt) (c0 : Consumer) (s : State) : Result := elementAccess (.sts p f c0) p f id s

/-- AGGAT (R222): the offset is the coordinate times the size in units. DESIGN CHOICE (log 57): the product is taken modulo 2^32 and read as the
signed offset, in AGSCT too. -/
def execAggat (p : BitVec 6) (f : Fmt) (c0 : Consumer) (s : State) : Result :=
  elementAccess (.aggat p f c0) p f (fun c => c * BitVec.ofNat 32 (sizeUnits f)) s

/-- AGSCT (R222). -/
def execAgsct (p : BitVec 6) (f : Fmt) (c0 : Consumer) (s : State) : Result :=
  elementAccess (.agsct p f c0) p f (fun c => c * BitVec.ofNat 32 (sizeUnits f)) s

/-- LDV (R227). -/
def execLdv (p : BitVec 6) (h : Hint) (f : Fmt) (c0 : Consumer) (s : State) : Result := elementAccess (.ldv p h f c0) p f id s

/-- STV (R227). -/
def execStv (p : BitVec 6) (f : Fmt) (c0 : Consumer) (s : State) : Result := elementAccess (.stv p f c0) p f id s

/-- RECLAIM (R227): acts on the line that holds the unit at its offset, in the port's own format. -/
def execReclaim (p : BitVec 6) (c0 : Consumer) (s : State) : Result :=
  elementAccess (.reclaim p c0) p (s.port s.site.cell p.toNat).fmt id s

/-! Performing an access (R177, R222 to R227). -/

/-- What an attempt to perform an access answers: performed with its reply, not yet, with a fault that drops it, or handed over to
an engine agent, which replies later. -/
inductive Performed where
  | done (s : State) (toks : List Tok)
  | later (s : State) (a : Access)
  | drop (s : State)
  | gone (s : State)

/-- Whether two ranges of bytes meet, an earlier part and a later one: by physical address where both are translated; an earlier part that is
not translated may reach any byte (R223). -/
def overlaps (a b : Part) : Bool :=
  match b.pa, a.pa with
  | some x, some y => decide (y < x + b.size) && decide (x < y + a.size)
  | none, _ => true
  | some _, none => decide (a.va < b.va + b.size) && decide (b.va < a.va + a.size)

/-- The scratchpad bank of a translated part. -/
def Part.bank (p : Part) : Option Nat := p.pa.bind (fun pa => if target pa = some .spad then some (spadBank pa) else none)

/-- Whether an access may wait at its line's version (R226). -/
def waitsVersion (i : Instr) : Bool :=
  match i with
  | .ldv _ _ _ _ | .stv _ _ _ | .reclaim _ _ => true
  | _ => false

/-- Whether an instruction reads further ranges that its first reads name; until they are known they may be any (R223). -/
def readsFurther (i : Instr) : Bool :=
  match i with
  | .nmchk _ _ | .fibh _ _ | .scana _ _ _ | .scano _ _ _ | .isld _ _ _ | .isprb _ _ _ | .union _ _ => true
  | _ => false

/-- Whether two accesses of a port are performed in their order: two writes, or overlapping bytes (R223); accesses of one
scratchpad bank, and those of one load stream, unless the earlier waits at a version (R176, R177; log 8). -/
def ordered (b a : Access) : Bool :=
  readsFurther b.instr || ((needOf a.instr).w && (needOf b.instr).w) || a.parts.any (fun x => b.parts.any (overlaps x)) ||
    (!waitsVersion b.instr && (decide (a.site = b.site) ||
      a.parts.any (fun x => x.bank.isSome && b.parts.any (fun y => x.bank == y.bank))))

/-- Whether an instruction installs a window as it replies (R245). -/
def isWin (i : Instr) : Bool :=
  match i with
  | .win _ _ _ => true
  | _ => false

/-- Whether an earlier access of the same port must be performed first; a WIN acts at the head of the port's order, where it replies (R245). -/
def Port.blocked (q : Port) (k : Nat) (a : Access) : Bool :=
  (isWin a.instr && decide (k ≠ 0)) || (List.range k).any (fun j => match q.accs[j]? with
    | some b => !b.stage.isDone && ordered b a
    | none => false)

/-- The tag of a cell's requests: its context (R356). -/
def State.tagOf (s : State) (cell : Nat) : Nat :=
  match s.cell? cell with
  | some c => c.context
  | none => 0

/-- The run of a load stream reaches a segment, through a virtual page; the hint takes effect on a segment that it leaves (R176). -/
def State.moveRun (s : State) (t : Site) (page vpage : Nat) (h : Hint) : State :=
  let s := match (s.slot t).run with
    | some r => if r.segment = page then s else { s with mem := s.mem.hintSeg s.cycle r.segment r.hint }
    | none => s
  s.updSlot t (fun sl => { sl with run := some ⟨page, vpage, h⟩ })

/-- The index of the first part of an access that is not performed yet. -/
def Access.nextPart (a : Access) : Option Nat := a.parts.findIdx? (fun p => p.got.isNone)

def Access.setPart (a : Access) (k : Nat) (f : Part → Part) : Access := { a with parts := a.parts.modify k f }

/-- The bytes that an access has read. -/
def Access.bytes (a : Access) : List Byte := a.parts.flatMap (fun p => p.got.getD [])

def Access.poisoned (a : Access) : Bool := a.parts.any (fun p => p.poison) || a.dead.isSome

/-- The mark of a loaded token: its operands' first, else the loading instruction where the line is poisoned (R225). -/
def Access.mark (a : Access) : Mark := a.ops.mark.or (if a.poisoned then some (originOf a.site a.fire) else none)

/-- Whether an instruction reads as an engine agent, whose dead reads wake nothing (R384). -/
def isEngine (i : Instr) : Bool :=
  match i with
  | .copy _ _ _ | .copyr _ _ _ _ _ | .copyc _ _ _ _ | .mma _ _ _ _ _ | .mmasp _ _ _ _ _ | .mmarow _ _ _ _ _ | .prune _ _ _ _ => true
  | _ => false

/-- Read the next part of a load; a part in a dead segment poisons the element and logs DEAD_SPAD once (R177, R224, R225). -/
def State.readPart (s : State) (a : Access) (h : Hint) (k : Nat) : State × Access × Bool :=
  match a.parts[k]? with
  | none => (s, a, false)
  | some p => match p.pa with
    | none => (s, a, false)
    | some pa =>
      let (m, seen) := s.mem.readAs (!isEngine a.instr) s.cycle (s.tagOf a.site.cell) pa p.size
      let s := { s with mem := m }
      match seen with
      | .wait => (s, a, false)
      | .dead =>
        let bs := (List.range p.size).map (fun i => Config.spadByte s.fresh (pa + i))
        let s := if target pa = some .spad then s.moveRun a.site (pa / 4096) (p.va / 4096) h else s
        ({ s with fresh := s.fresh + 1 }, { a.setPart k (fun p => { p with got := some bs, poison := true }) with dead := a.dead.or (some k) }, true)
      | .bytes bs poison =>
        let s := if target pa = some .spad then s.moveRun a.site (pa / 4096) (p.va / 4096) h else s
        (s, a.setPart k (fun p => { p with got := some bs, poison := poison }), true)

/-- The port of an access. -/
def Access.portNo (a : Access) : Nat := (accessPort a.instr).getD 0

/-- DEAD_SPAD of an access: the first byte of the element, and whether its second part was found dead and its first was not (R177, R330). -/
def State.deadSpad (s : State) (a : Access) : State :=
  s.accessFault a.site a.fire a.portNo codeDeadSpad a.va (needOf a.instr).w (decide (a.dead = some 1)) false (some a.stamp)

/-- One turn of a plain load (R222, R224): the next part is read; after the last, the element is delivered. -/
def State.performLoad (s : State) (a : Access) (f : Fmt) (h : Hint) : Performed :=
  match a.nextPart with
  | none => .done s [⟨elementBits f a.bit a.bytes, a.mark⟩]
  | some k =>
    let (s, a', ok) := s.readPart a h k
    if !ok then .later s a'
    else
      match a'.nextPart with
      | some _ => .later s a'
      | none =>
        let s := if a'.dead.isSome then s.deadSpad a' else s
        .done s [⟨elementBits f a'.bit a'.bytes, a'.mark⟩]

/-- The mark of what a write stores: that of its first marked token in the order l, r, a (R225). -/
def storeMark (o : Opnds) : Mark := (tokMark o.l).or ((tokMark o.r).or (tokMark o.a))

/-- The sink of a poisoned store: kind 4 in host memory, else 0 (R333). -/
def sinkKind (pa : Nat) : Nat := if target pa = some .host then 4 else 0

/-- The bytes and masks of part k of an element's placed bytes. -/
def partSlice (a : Access) (k : Nat) (l : List Byte) : List Byte :=
  (l.drop ((a.parts.take k).foldl (fun n p => n + p.size) 0)).take ((a.parts[k]?.map (fun p => p.size)).getD 0)

/-- One turn of a plain store (R222, R224, R225): the next part is written under its mask; after the last, the reply is 0. -/
def State.performStore (s : State) (a : Access) (f : Fmt) (v : Word) : Performed :=
  let bytes := a.parts.foldl (fun n p => n + p.size) 0
  let (data, masks) := placedBytes f a.bit bytes v
  let mark := storeMark a.ops
  match a.nextPart with
  | none => .done s [⟨0, none⟩]
  | some k =>
    match (a.parts[k]?.bind (fun p => p.pa)) with
    | none => .later s a
    | some pa =>
      let tag := s.tagOf a.site.cell
      let whole := (partSlice a k masks).all (· == 0xFF)
      let (m, ok) := if whole then s.mem.write s.cycle tag pa (partSlice a k data) mark.isSome
        else s.mem.writeBits s.cycle tag pa (partSlice a k masks) (partSlice a k data) mark.isSome
      let s := { s with mem := m }
      if !ok then .later s a
      else
        let a := a.setPart k (fun p => { p with got := some [] })
        match a.nextPart with
        | some _ => .later s a
        | none =>
          let s := match mark with
            | some o => s.sink a.site (sinkKind pa) (BitVec.ofNat 64 a.va) o (some a.stamp)
            | none => s
          .done s [⟨0, none⟩]

/-! Versioned lines (R226, R227). -/

/-- A line's version state put into its place in a list that names no line of VER 0 and PV 0. -/
def putVersion (l : List Version) (v : Version) : List Version :=
  let keep := l.filter (fun x => x.line != v.line)
  if v.ver = 0 ∧ v.pv = false then keep
  else keep.takeWhile (fun x => decide (x.line < v.line)) ++ v :: keep.dropWhile (fun x => decide (x.line < v.line))

def MemSys.setVersion (m : MemSys) (v : Version) : MemSys := { m with vers := putVersion m.vers v }

/-- Whether a versioned access may act: its page is versioned and its element lies in one line (R227). -/
def Access.versionOk (a : Access) : Bool := decide (a.parts.length = 1) && a.parts.all (fun p => p.ver)

/-- A fault that drops a versioned access, or an access the memory map refuses (R227, R330). -/
def State.dropAccess (s : State) (a : Access) (code : Nat) : State :=
  s.accessFault a.site a.fire a.portNo code a.va (needOf a.instr).w false false (some a.stamp)

/-- The fault record of VERSION_RANGE and ATOM_ALIGN: the address, FLT_AUX 0 (R330). -/
def State.addrFault (s : State) (t : Site) (fire : Word) (code va : Nat) (stamp : Option Nat := none) : State :=
  match s.cell? t.cell with
  | none => s
  | some c =>
    s.raise { cell := some t.cell, ctx := c.context, rid := some c.rid, code := code, sub := 0, held := false, parked := false,
              origin := originOf t fire, addr := BitVec.ofNat 64 va, aux := 0, fire := fire, stamp := stamp }

/-- One turn of LDV (R177, R227): the current or the previous copy, a wait, or VERSION_RANGE; a dead segment is found at once. Its hint acts on
the segment of the copy that it reads (R176). -/
def State.performLdv (s : State) (a : Access) (f : Fmt) (h : Hint) : Performed :=
  if !a.versionOk then .drop (s.dropAccess a codeProt)
  else match (a.parts.head?.bind (fun p => p.pa)) with
    | none => .later s a
    | some pa =>
      let v := s.mem.version (pa / 64)
      let d := s.mem.ahead a pa
      if !(s.mem.seg (pa / 4096)).live || d = 0 then s.performLoad a f h
      else if d = 255 ∧ v.pv = true then
        match s.performLoad (a.setPart 0 (fun p => { p with pa := some (pairAddr pa) })) f h with
        | .done s t => .done s t
        | .later s _ => .later s a
        | .drop s => .drop s
        | .gone s => .gone s
      else if d ≤ 127 then .later s a
      else .drop (s.addrFault a.site a.fire codeVersionRange a.va (some a.stamp))

/-- The bytes of the line that holds an address, as held. -/
def MemSys.lineBytes (m : MemSys) (pa : Nat) : List Byte := (List.range 64).map (fun i => m.spadByte (pa / 64 * 64 + i))

/-- The old copy of a line that STV has written, put into the paired segment: the bytes that the line held and its poison marker, where its
segment was live (R222, R227); the move counts as one access of the 64 bytes (R356; log 58). -/
def MemSys.keepOld (m old : MemSys) (tag pa : Nat) : MemSys :=
  let m := ((m.enliven (pairAddr pa / 4096) tag).spadWrite (pairAddr pa / 64 * 64) (old.lineBytes pa)).charge tag 3 (800 * 64)
  { m with marks := if (old.seg (pa / 4096)).live && old.marks.contains (pa / 64) then insertNat m.marks (pairAddr pa / 64)
    else m.marks.filter (· != pairAddr pa / 64) }

/-- One turn of STV (R227): it waits for PV = 0, keeps the old copy with its poison marker, writes the element, and replies the new version. -/
def State.performStv (s : State) (a : Access) (f : Fmt) : Performed :=
  if !a.versionOk then .drop (s.dropAccess a codeProt)
  else match (a.parts.head?.bind (fun p => p.pa)) with
    | none => .later s a
    | some pa =>
      let v := s.mem.version (pa / 64)
      if v.pv then .later s a
      else
        match s.performStore a f (tokVal a.ops.r) with
        | .done s' _ =>
          .done { s' with mem := (s'.mem.keepOld s.mem (s.tagOf a.site.cell) pa).setVersion ⟨pa / 64, v.ver + 1, true⟩ } [⟨(v.ver + 1).zeroExtend 32, none⟩]
        | .later s' a' => .later s' a'
        | .drop s' => .drop s'
        | .gone s' => .gone s'

/-- RECLAIM (R227): PV := 0; the reply is VER. -/
def State.performReclaim (s : State) (a : Access) : Performed :=
  if !a.versionOk then .drop (s.dropAccess a codeProt)
  else match (a.parts.head?.bind (fun p => p.pa)) with
    | none => .later s a
    | some pa =>
      let v := s.mem.version (pa / 64)
      .done { s with mem := s.mem.setVersion { v with pv := false } } [⟨v.ver.zeroExtend 32, a.ops.mark⟩]

/-! Prefetch (R228). -/

/-- One line of a prefetch: a DRAM line is read at its home, a scratchpad bank is woken, a host line is left alone. -/
def State.prefLine (s : State) (c : Cell) (port va : Nat) : State :=
  match s.mem.translate s.cycle (c.port port).wins c.die c.context (s.rootOf c) va .load with
  | (m, .ok pa _) =>
    match target pa with
    | some .dram => { s with mem := (m.read s.cycle c.context (pa / 64 * 64) 64).1 }
    | some .spad => { s with mem := (m.writeGate s.cycle pa).1 }
    | some .host | none => { s with mem := m }
  | (m, .fault _) | (m, .walk) => { s with mem := m }

/-- PREF (R228). -/
def execPref (p : BitVec 6) (h : Hint) (depth : BitVec 6) (s : State) : Result :=
  issueCtl (.pref p h depth) s (fun s' o =>
    match s.cell? s.site.cell with
    | none => s'
    | some c =>
      let va := addrAt (c.port p.toNat).base (tokVal o.l).toInt / 64 * 64
      (List.range depth.toNat).foldl (fun s k => s.prefLine c p.toNat ((va + 64 * k) % 2 ^ 64)) s')

end Sys2Proof.Machine
end

