-- ==== Sys2Proof/Machine/Engine.lean ====
section
/-! DEFINITION. Engine agents (R292): their reads and writes through a port's windows or the context's page table, held faults,
dead segments and sinks (R230, R242, R333, R384). -/

namespace Sys2Proof.Machine

/-! Agents. -/

/-- The engine agent of an instruction at a site that accesses memory through a port of its cell, or through none. -/
def State.engOf (s : State) (t : Site) (fire : Word) (port : Option Nat) (stamp : Nat) : Eng :=
  let (ctx, rid) := match s.cell? t.cell with
    | some c => (c.context, c.rid)
    | none => (0, 0)
  { site := t, fire := fire, ctx := ctx, rid := rid, cell := t.cell, port := port, held := none, deadLogged := false, sunk := false,
    poisoned := false, stamp := stamp, arr := none, wins := none, puts := none }

/-- The cell of the issuing instruction, while its region holds it. -/
def State.engCell (s : State) (e : Eng) : Option Nat :=
  match s.cell? e.site.cell with
  | some c => if c.rid = e.rid then some c.num else none
  | none => none

/-- A fault of an engine agent: its origin is the instruction that issued the operation (R329). -/
def State.raiseEng (s : State) (e : Eng) (code sub : Nat) (held : Bool) (addr aux : DWord) : State :=
  s.raise { cell := s.engCell e, ctx := e.ctx, rid := some e.rid, code := code, sub := sub, held := held, parked := false,
            origin := originOf e.site e.fire, addr := addr, aux := aux, fire := e.fire, stamp := some e.stamp }

/-- Flags of an engine operation enter EXC of the issuing cell (R231, R252, R323). -/
def State.engFlags (s : State) (e : Eng) (flags : Word) : State :=
  match s.engCell e with
  | some n => s.raiseFlags n flags
  | none => s

/-- A sink of an engine agent, of kind 1: its first is logged, each later one advances POISON_SINKS (R333). -/
def State.engSink (s : State) (e : Eng) (addr : Nat) (origin : Word) : State × Eng :=
  if e.sunk then
    (match s.engCell e with
      | some n => s.count n 5 1
      | none => s, { e with poisoned := true })
  else
    (s.raise { cell := s.engCell e, ctx := e.ctx, rid := some e.rid, code := codePoisonSink, sub := 0, held := false, parked := false,
               origin := origin, addr := BitVec.ofNat 64 addr, aux := sinkAux e.site 1,
               fire := BitVec.ofNat 32 (origin.toNat / 262144), stamp := some e.stamp }, { e with sunk := true, poisoned := true })

/-- The origin that poison met by an engine agent's own read carries: the issuing instruction (R384). -/
def Eng.origin (e : Eng) : Word := originOf e.site e.fire

/-! Ranges. -/

/-- The requests of a range of bytes: one for each 64-byte line it touches. -/
def lineChunks (va n : Nat) : List (Nat × Nat) :=
  (List.range (if n = 0 then 0 else (va % 64 + n + 63) / 64)).map (fun i =>
    let lo := max va ((va / 64 + i) * 64)
    let hi := min (va + n) ((va / 64 + i + 1) * 64)
    (lo % 2 ^ 64, hi - lo))

/-- A request with its translation. -/
structure Span where
  va : Nat
  n : Nat
  pa : Nat
  ver : Bool
  deriving DecidableEq, Repr

/-- What an attempt to reach a range answers: every request translated, a fault to hold, an address that the memory map refuses,
or a bank still waking. -/
inductive Reach where
  | ok (spans : List Span)
  | fault (code va : Nat)
  | refused (va : Nat)
  | wait
  deriving DecidableEq, Repr

/-- The windows of the port through which an agent translates, as they stood at its issue; none where it has no port (R230, R235, R245). -/
def State.winsOf (s : State) (e : Eng) : List Window :=
  match e.port with
  | some p => e.wins.getD (s.port e.cell p).wins
  | none => []

/-- An agent whose request waits at a bank keeps the cycle of its arrival (R177). -/
def Eng.waits (e : Eng) (now : Nat) : Eng := { e with arr := some (e.arr.getD now) }

/-- An agent whose request has been performed. -/
def Eng.served (e : Eng) : Eng := { e with arr := none }

/-- Translate the requests of an agent in their order (R235). -/
def State.spans (s : State) (e : Eng) (n : Need) : List (Nat × Nat) → List Span → State × Reach
  | [], acc => (s, .ok acc.reverse)
  | (va, k) :: rest, acc =>
    match s.mem.translate s.cycle (s.winsOf e) (e.cell / 1024 % 4) e.ctx (s.ctxRegs e.ctx).ptRoot va n with
    | (m, .fault code) => ({ s with mem := m }, .fault code va)
    | (m, .walk) => ({ s with mem := m }, .wait)
    | (m, .ok pa ver) =>
      let p : Part := ⟨va, k, some pa, ver, 0, none, false⟩
      if m.forbidden p then ({ s with mem := m }, .refused va)
      else { s with mem := m.notePage p }.spans e n rest (⟨va, k, pa, ver⟩ :: acc)

/-- Whether the scratchpad banks of the requests are ready; wakes are started where they are not (R177). -/
def MemSys.gates (m : MemSys) (now : Nat) (write : Bool) : List Span → MemSys × Bool
  | [] => (m, true)
  | x :: rest =>
    match target x.pa with
    | some .spad =>
      let (m, g) := if write then m.writeGate now x.pa else m.readGate now x.pa false
      let (m, ok) := m.gates now write rest
      (m, ok && decide (g ≠ .wait))
    | some .dram | some .host | none => m.gates now write rest

/-- Reach a list of ranges: translate every request, then see that every bank is ready. -/
def State.reach (s : State) (e : Eng) (n : Need) (ranges : List (Nat × Nat)) : State × Reach :=
  match s.spans e n (ranges.flatMap (fun r => lineChunks r.1 r.2)) [] with
  | (s, .ok spans) =>
    let (m, ok) := s.mem.gates s.cycle n.w spans
    ({ s with mem := m }, if ok then .ok spans else .wait)
  | (s, x) => (s, x)

/-- A fault held by an agent (R230, R242): it is logged, and the count of FAULT_HOLD starts with its first record. -/
def State.holdEng (s : State) (e : Eng) (code va : Nat) (n : Need) : State × Eng :=
  let since := match e.held with
    | some h => h.since
    | none => s.cycle
  (s.raiseEng e code 0 true (BitVec.ofNat 64 va) (accessAux (e.port.getD 0) n.w false), { e with held := some ⟨code, va, n.r, n.w, since⟩ })

/-! Reads and writes. -/

/-- An operation of a region moves data: the cycle is not idle for it (R336). -/
def State.stirs (s : State) (e : Eng) : State := s.updRegion e.rid (fun r => { r with moved := true })

/-- An operation whose requests are performed moves data (R336). -/
def State.moves (s : State) (e : Eng) (l : List Span) : State := if l.isEmpty then s else s.stirs e

/-- An operation whose request meets a bank that wakes: it has moved data in the cycle in which it sent it, and keeps its arrival (R177, R336). -/
def State.sends (s : State) (e : Eng) : State := if e.arr.isNone then s.stirs e else s

/-- The bytes of reached requests, with the virtual address of the first byte found dead (R384). -/
def State.gather (s : State) (e : Eng) : List Span → State × List RByte × Option Nat
  | [] => (s, [], none)
  | x :: rest =>
    match s.mem.readAs false s.cycle e.ctx x.pa x.n with
    | (m, .bytes bs poison) =>
      let (s, l, d) := { s with mem := m }.gather e rest
      (s, bs.map (fun b => ⟨b, poison⟩) ++ l, d)
    | (m, .dead) | (m, .wait) =>
      let dead := (List.range x.n).map (fun i => (⟨Config.spadByte s.fresh (x.pa + i), true⟩ : RByte))
      let (s, l, _) := { s with mem := m, fresh := s.fresh + 1 }.gather e rest
      (s, dead ++ l, some x.va)

/-- What an attempt to read answers. -/
inductive Got where
  | bytes (l : List RByte)
  | held
  | refused
  | wait
  deriving DecidableEq, Repr

/-- DEAD_SPAD of an agent, logged once, for the first element that it found dead (R384). -/
def State.deadEng (s : State) (e : Eng) (dead : Option Nat) (write : Bool) : State × Eng :=
  match dead with
  | none => (s, e)
  | some va =>
    if e.deadLogged then (s, { e with poisoned := true })
    else (s.raiseEng e codeDeadSpad 0 false (BitVec.ofNat 64 va) (accessAux (e.port.getD 0) write false), { e with deadLogged := true, poisoned := true })

/-- Read ranges, with the requests that were read; `elem` gives the first byte of the element that holds an address, for DEAD_SPAD (R384). -/
def State.readSpans (s : State) (e : Eng) (elem : Nat → Nat) (ranges : List (Nat × Nat)) : State × Eng × List Span × Got :=
  match s.reach e .load ranges with
  | (s, .ok spans) =>
    let (s, l, dead) := (s.moves e spans).gather e spans
    let e := e.served
    let (s, e) := s.deadEng e (dead.map elem) false
    (s, if l.any (fun b => b.bad) then { e with poisoned := true } else e, spans, .bytes l)
  | (s, .fault code va) =>
    let (s, e) := s.holdEng e code va .load
    (s, e, [], .held)
  | (s, .refused va) =>
    (s.raiseEng e codeProt 0 false (BitVec.ofNat 64 va) (accessAux (e.port.getD 0) false false), e, [], .refused)
  | (s, .wait) => (s.sends e, e.waits s.cycle, [], .wait)

/-- Read ranges. -/
def State.readEng (s : State) (e : Eng) (elem : Nat → Nat) (ranges : List (Nat × Nat)) : State × Eng × Got :=
  match s.readSpans e elem ranges with
  | (s, e, _, g) => (s, e, g)

/-- The sinks of a write of an agent: `elems` poisoned elements, where the operation counts them, else one for each poisoned line; the first
is logged, where none of the operation has been, with the address of the first poisoned byte (R333). -/
def State.engSinks (s : State) (e : Eng) (origin : Word) (bad : List Nat) (elems : Option Nat) : State × Eng :=
  match bad with
  | [] => (s, e)
  | addr :: _ =>
    let (s, e) := s.engSink e addr origin
    (match s.engCell e with
      | some n => s.count n 5 (BitVec.ofNat 32 (elems.getD bad.length - 1))
      | none => s, e)

/-- Write the bytes of reached requests, poisoning each line where `bad` says so; answers the addresses of the first poisoned bytes of the
lines. -/
def MemSys.scatter (m : MemSys) (now tag : Nat) : List Span → List RByte → MemSys × List Nat
  | [], _ => (m, [])
  | x :: rest, l =>
    let mine := l.take x.n
    let bad := mine.any (fun b => b.bad)
    let (m, _) := m.write now tag x.pa (mine.map (fun b => b.b)) bad
    let (m, more) := m.scatter now tag rest (l.drop x.n)
    (m, if bad then (x.va + mine.findIdx (fun (b : RByte) => b.bad)) :: more else more)

/-- What an attempt to write answers. -/
inductive Put where
  | done
  | held
  | refused
  | wait
  deriving DecidableEq, Repr

/-- Write ranges with the bytes that follow one another in `l`; `elems` counts the poisoned elements among them, where each is a sink. -/
def State.writeEng (s : State) (e : Eng) (n : Need) (origin : Word) (ranges : List (Nat × Nat)) (l : List RByte) (elems : Option Nat := none) :
    State × Eng × Put :=
  match s.reach e n ranges with
  | (s, .ok spans) =>
    let s := s.moves e spans
    let (m, bad) := s.mem.scatter s.cycle e.ctx spans l
    let (s, e) := { s with mem := m }.engSinks e.served origin bad elems
    (s, e, .done)
  | (s, .fault code va) =>
    let (s, e) := s.holdEng e code va n
    (s, e, .held)
  | (s, .refused va) =>
    (s.raiseEng e codeProt 0 false (BitVec.ofNat 64 va) (accessAux (e.port.getD 0) n.w false), e, .refused)
  | (s, .wait) => (s.sends e, e.waits s.cycle, .wait)

/-- RETRY of an agent's held fault (R243): its request is translated again; true where it still faults. A compare-and-swap that waits at its
atomic unit (R308) is no fault: the request goes on from there. -/
def State.retryEng (s : State) (e : Eng) : State × Eng × Bool :=
  match e.held with
  | none => (s, e, false)
  | some h =>
    match s.mem.translate s.cycle (s.winsOf e) (e.cell / 1024 % 4) e.ctx (s.ctxRegs e.ctx).ptRoot h.va ⟨h.read, h.write⟩ with
    | (m, .ok _ _) => ({ s with mem := m }, { e with held := none }, false)
    | (m, .fault code) =>
      let (s, e) := { s with mem := m }.holdEng e code h.va ⟨h.read, h.write⟩
      (s, e, true)
    | (m, .walk) => ({ s with mem := m }, { e with held := none }, false)

/-! Reads of a port by the instructions that read more than an element. -/

/-- The untranslated parts of ranges of bytes. -/
def readParts (ranges : List (Nat × Nat)) : List Part :=
  (ranges.flatMap (fun r => lineChunks r.1 r.2)).map (fun x => ⟨x.1, x.2, none, false, 0, none, false⟩)

/-- Issue an instruction that reads ranges of bytes through a port, as loads of it (R223). -/
def State.startReads (s : State) (t : Site) (i : Instr) (o : Opnds) (more : List Tok) (port va : Nat) (ranges : List (Nat × Nat)) : State :=
  s.startAccess t i o more port va 0 (readParts ranges)

/-- The bytes that an access has read. -/
def Access.rbytes (a : Access) : List RByte := a.parts.flatMap (fun p => (p.got.getD []).map (fun b => ⟨b, p.poison⟩))

/-- Read the next part; true once every part has been read. A part found dead logs DEAD_SPAD once for the instruction. -/
def State.readNext (s : State) (a : Access) : State × Access × Bool :=
  match a.nextPart with
  | none => (s, a, true)
  | some k =>
    let (s, a', ok) := s.readPart a .none k
    if !ok then (s, a', false)
    else
      let s := if a'.dead.isSome && a.dead.isNone then
          s.accessFault a.site a.fire a.portNo codeDeadSpad ((a.parts[k]?.map (fun p => p.va)).getD a.va) false false false (some a.stamp)
        else s
      (s, a', a'.nextPart.isNone)

/-- Further ranges that an access reads, once what it has read names them. -/
def State.extend (s : State) (a : Access) (ranges : List (Nat × Nat)) : State × Access :=
  s.advance a.site a.portNo { a with parts := a.parts ++ readParts ranges, stage := .walk } false

/-- The engine agent to which an access hands over: it translates through the same port. -/
def State.engOfAccess (s : State) (a : Access) : Eng :=
  { s.engOf a.site a.fire (some a.portNo) a.stamp with deadLogged := a.dead.isSome, wins := a.wins }

/-! Fields of bytes. -/

def rbNat (l : List RByte) : Nat := leNat (l.map (fun b => b.b))

def rbBad (l : List RByte) : Bool := l.any (fun b => b.bad)

/-- A little-endian field of n bytes at an offset of a descriptor. -/
def fieldAt (d : List Byte) (off n : Nat) : Nat := leNat ((d.drop off).take n)

/-- A signed field of n bytes. -/
def sfieldAt (d : List Byte) (off n : Nat) : Int := signedOf (8 * n) (fieldAt d off n)

/-- An address displaced by a signed amount, modulo 2^64. -/
def vaPlus (va : Nat) (d : Int) : Nat := ((va : Int) + d).emod (2 ^ 64) |>.toNat

/-- Whether two ranges of bytes meet. -/
def rangesMeet (a b : Nat × Nat) : Bool := decide (0 < a.2) && decide (0 < b.2) && decide (a.1 < b.1 + b.2) && decide (b.1 < a.1 + a.2)

def listsMeet (a b : List (Nat × Nat)) : Bool := a.any (fun x => b.any (rangesMeet x))

/-- Element i of packed elements of a format (R54, R55): its bits and its poison. -/
def packedAt (f : Fmt) (l : List RByte) (i : Nat) : Word × Bool :=
  let bit := f.width * i
  let mine := (l.drop (bit / 8)).take ((bit % 8 + f.width + 7) / 8)
  let v := rbNat mine / 2 ^ (bit % 8) % 2 ^ f.width
  (match f with
    | .int8 | .int4 => BitVec.ofInt 32 (signedOf f.width v)
    | .fp32 | .bf16 | .fp16 | .e4m3 | .e5m2 | .e2m3 | .e3m2 | .e2m1 | .x | .int32 | .uint8 | .code4 => BitVec.ofNat 32 v, rbBad mine)

/-- The bytes of packed elements (R55), zero bits in the rest of the last byte. -/
def packBits (w : Nat) (l : List Nat) : Nat := l.foldr (fun x acc => x % 2 ^ w + 2 ^ w * acc) 0

/-- Bytes that n elements of a format fill when packed. -/
def packedBytes (f : Fmt) (n : Nat) : Nat := (f.width * n + 7) / 8

end Sys2Proof.Machine
end

