-- ==== Sys2Proof/Machine/Fibre.lean ====
section
/-! DEFINITION. Fibres: their checks, FIBH, SCANA, SCANO, ISLD, ISPRB, UNION, MERGEK (R279 to R281, R286 to R290). -/

namespace Sys2Proof.Machine

/-! The fibre (R279 to R281). -/

/-- The end token of every stream of coordinates (R280). -/
def endToken : Word := 0xFFFFFFFF

/-- A fibre header (R280). -/
structure FibreHead where
  nnz : Nat
  dim : Nat
  vfmt : Nat
  wide : Bool
  deriving DecidableEq, Repr

def fibreHead (h : List Byte) : FibreHead := ⟨fieldAt h 0 4, fieldAt h 4 4, fieldAt h 8 1 % 16, bitOf (fieldAt h 8 1) 4⟩

def byteSum (l : List Byte) : Nat := l.foldl (fun n b => n + b.toNat) 0

/-- The value formats that a fibre admits: the memory element role, not CODE4 (R280). -/
def fibreFmt (n : Nat) : Option Fmt :=
  match Fmt.ofCode n with
  | some f => if f.memory && f != .code4 then some f else none
  | none => none

/-- The first header check of R281 that fails. -/
def headerFault (h : List Byte) : Option Nat :=
  let x := fibreHead h
  if byteSum h % 256 ≠ 0x5C then some 0x01
  else if fieldAt h 8 8 / 32 % 2 ^ 51 ≠ 0 ∨ (fibreFmt x.vfmt).isNone then some 0x02
  else if x.dim = 0 ∨ (x.wide = false ∧ 65536 < x.dim) then some 0x03
  else if x.dim < x.nnz then some 0x04
  else none

/-- The bytes of a coordinate. -/
def coordBytes (wide : Bool) : Nat := if wide then 4 else 2

/-- The i-th coordinate of bytes read, with its poison. -/
def coordAt (wide : Bool) (l : List RByte) (i : Nat) : Nat × Bool :=
  let mine := (l.drop (coordBytes wide * i)).take (coordBytes wide)
  (rbNat mine, rbBad mine)

/-- The check of a coordinate against its bound and the coordinate before it (R281). -/
def coordFault (dim : Nat) (prev : Option Nat) (c : Nat) : Option Nat :=
  if dim ≤ c then some 0x05
  else match prev with
    | some p => if c ≤ p then some 0x06 else none
    | none => none

/-- The first coordinate of n that fails, with its sub-code and its index. -/
def firstCoordFault (dim : Nat) (wide : Bool) (l : List RByte) (n : Nat) : Option (Nat × Nat) :=
  (List.range n).findSome? (fun i =>
    (coordFault dim (if i = 0 then none else some (coordAt wide l (i - 1)).1) (coordAt wide l i).1).map (fun sub => (sub, i)))

/-! Operands of several tokens. -/

/-- The mark of the first marked token of a list. -/
def firstMark (l : List (Option Tok)) : Mark := l.foldr (fun t m => (tokMark t).or m) none

/-- The tokens of a field that an execution takes, in order. -/
def State.toks (s : State) (t : Site) (f : FieldSel) (n : Nat) : List Tok := ((s.slot t).field f).toks.take n

def tokAt (l : List Tok) (i : Nat) : Word := tokVal l[i]?

/-- The 64-bit value of two tokens, low half first. -/
def pairAt (l : List Tok) (i : Nat) : Nat := (joinWords (tokAt l i) (tokAt l (i + 1))).toNat

/-- The operands with the mark of all their tokens on the first. -/
def markedOps (ls rs : List Tok) : Opnds :=
  ⟨some ⟨tokAt ls 0, firstMark ((ls ++ rs).map some)⟩, none, none, none⟩

/-- Issue a fibre instruction: misaligned addresses raise PROT (R286), otherwise its first ranges are read. -/
def issueFibre (i : Instr) (p : BitVec 6) (nl nr : Nat) (addrs : List Tok → List Tok → List Nat)
    (ranges : List Tok → List Tok → List (Nat × Nat)) (guard : State → Bool) (claim : State → State) (s : State) : Result :=
  issueCtl i s (fun s' _ =>
    let ls := s.toks s.site .l nl
    let rs := s.toks s.site .r nr
    let as := addrs ls rs
    if as.any (fun a => a % 8 != 0) || !guard s then s'.opcodeFault s.site codeProt i
    else (claim s').startReads s.site i (markedOps ls rs) (ls ++ rs) p.toNat (as.headD 0) (ranges ls rs))

/-- A FIBRE_MALFORMED fault of an access (R281, R330). -/
def State.fibreFault (s : State) (a : Access) (sub va : Nat) : State :=
  match s.cell? a.site.cell with
  | none => s
  | some c =>
    s.raise { cell := some c.num, ctx := c.context, rid := some c.rid, code := codeFibreMalformed, sub := sub, held := false, parked := false,
              origin := originOf a.site a.fire, addr := BitVec.ofNat 64 va, aux := 0, fire := a.fire, stamp := some a.stamp }

/-- A token derived from words read: the operands' mark, else the instruction's origin where a word was poisoned (R286). -/
def Access.derived (a : Access) (v : Word) (bad : Bool) : Tok :=
  ⟨v, a.ops.mark.or (if bad then some (originOf a.site a.fire) else none)⟩

/-- The access with the mark that a poisoned header word puts on every token derived from it (R286). -/
def Access.headed (a : Access) (bad : Bool) : Access := { a with ops := ⟨some (a.derived (tokVal a.ops.l) bad), none, none, none⟩ }

def Access.streaming (a : Access) (toks : List Tok) (fault : Option (Nat × Nat × Nat)) : Access := { a with stage := .stream toks fault true }

/-! FIBH (R286). -/

def execFibh (p : BitVec 6) (c0 : Consumer) (s : State) : Result :=
  issueFibre (.fibh p c0) p 2 0 (fun ls _ => [pairAt ls 0]) (fun ls _ => [(pairAt ls 0, 16)]) (fun _ => true) id s

/-- FIBH once a read of it is complete: the sub-code and the offset, then NNZ. -/
def State.fibhRead (s : State) (a : Access) : Performed :=
  let l := a.rbytes
  let h := (l.take 16).map (fun b => b.b)
  let x := fibreHead h
  let finish (sub off : Nat) (bad : Bool) : Performed :=
    .later s (a.streaming [a.derived (BitVec.ofNat 32 (sub + min off 0xFFFFFF * 256)) bad, a.derived (BitVec.ofNat 32 x.nnz) (rbBad (l.take 4))] none)
  match headerFault h with
  | some sub => finish sub 0 (rbBad (l.take 16))
  | none =>
    let cb := coordBytes x.wide
    if l.length < 16 + x.nnz * cb then
      let (s, a) := s.extend a [(a.va + 16, x.nnz * cb)]
      .later s a
    else
      match firstCoordFault x.dim x.wide (l.drop 16) x.nnz with
      | some (sub, i) => finish sub (16 + i * cb) (rbBad (l.take (16 + (i + 1) * cb)))
      | none => finish 0 0 (rbBad l)

/-! SCANA and SCANO (R286, R287). -/

/-- Words of 64 bits that n bits fill. -/
def words64 (n : Nat) : Nat := (n + 63) / 64

/-- The first ranges of a scan: the masks, or their summaries under .TREE. -/
def scanRanges (tree : Bool) (a b len : Nat) : List (Nat × Nat) :=
  let n := if tree then words64 (words64 len) else words64 len
  [(a, 8 * n), (b, 8 * n)]

def issueScan (i : Instr) (p : BitVec 6) (tree : Bool) (s : State) : Result :=
  issueFibre i p 3 2 (fun ls rs => [pairAt ls 0, pairAt rs 0])
    (fun ls rs => scanRanges tree (pairAt ls 0) (pairAt rs 0) (tokAt ls 2).toNat) (fun _ => true) id s

def execScana (p : BitVec 6) (tree : Bool) (c0 : Consumer) (s : State) : Result := issueScan (.scana p tree c0) p tree s

def execScano (p : BitVec 6) (tree : Bool) (c0 : Consumer) (s : State) : Result := issueScan (.scano p tree c0) p tree s

/-- Bit i of a mask read as 64-bit little-endian words, with the poison of its word. -/
def maskBit (l : List RByte) (i : Nat) : Bool × Bool :=
  (bitOf ((l[i / 8]?.map (fun b => b.b.toNat)).getD 0) (i % 8), rbBad ((l.drop (i / 64 * 8)).take 8))

/-- The tokens of a scan over two masks. -/
def scanTokens (a : Access) (both : Bool) (len : Nat) (x y : Nat → Bool × Bool) : List Tok :=
  ((List.range len).filterMap (fun i =>
    let (p, bp) := x i
    let (q, bq) := y i
    if (if both then p && q else p || q) then some (a.derived (BitVec.ofNat 32 i) (bp || bq)) else none)) ++ [a.derived endToken false]

/-- The leaf words that a mask's operand reads under .TREE: its own summary bit is 1 and the combined condition holds. -/
def treeLeaves (both : Bool) (n : Nat) (own other : Nat → Bool) : List Nat :=
  (List.range n).filter (fun k => own k && (if both then other k else true))

/-- A scan once a read of it is complete. -/
def State.scanRead (s : State) (a : Access) (both tree : Bool) : Performed :=
  let l := a.rbytes
  let len := (tokAt a.more 2).toNat
  if !tree then
    let n := 8 * words64 len
    .later s (a.streaming (scanTokens a both len (maskBit (l.take n)) (maskBit (l.drop n))) none)
  else
    let leaves := words64 len
    let n := 8 * words64 leaves
    let sa := maskBit (l.take n)
    let sb := maskBit ((l.drop n).take n)
    let la := treeLeaves both leaves (fun k => (sa k).1) (fun k => (sb k).1)
    let lb := treeLeaves both leaves (fun k => (sb k).1) (fun k => (sa k).1)
    if l.length < 2 * n + 8 * (la.length + lb.length) then
      let (s, a) := s.extend a (la.map (fun k => (pairAt a.more 0 + n + 8 * k, 8)) ++ lb.map (fun k => (pairAt a.more 3 + n + 8 * k, 8)))
      .later s a
    else
      let bitIn (ls : List Nat) (bytes : List RByte) (sum : Nat → Bool × Bool) (i : Nat) : Bool × Bool :=
        match ls.idxOf? (i / 64) with
        | none => (false, (sum (i / 64)).2)
        | some k =>
          let (v, bad) := maskBit bytes (64 * k + i % 64)
          (v, bad || (sum (i / 64)).2)
      let rest := l.drop (2 * n)
      .later s (a.streaming (scanTokens a both len (bitIn la (rest.take (8 * la.length)) sa) (bitIn lb (rest.drop (8 * la.length)) sb)) none)

/-! CAMs (R288, R289). -/

/-- The M-die of the AGE that serves the ports of a cell (R218, R288). -/
def State.camDie (s : State) (cell : Nat) : Nat :=
  match s.cell? cell with
  | none => 0
  | some c => match s.region? c.rid with
    | none => 0
    | some r => (r.clusters.getD (((c.ry * r.w + c.rx) % (8 * r.clusters.length)) / 8) (0, 0)).1

def State.cam? (s : State) (die num : Nat) : Option Cam := s.cams.find? (fun c => c.die == die && c.num == num)

/-- Whether a region may use a CAM: nobody's, or its own (R288). -/
def State.camFree (s : State) (cell num : Nat) : Bool :=
  match s.cam? (s.camDie cell) num, s.cell? cell with
  | some m, some c => m.rid == c.rid
  | some _, none => false
  | none, _ => true

/-- A CAM claimed by the region of a cell (R288). -/
def State.claimCam (s : State) (cell num : Nat) : State :=
  match s.cam? (s.camDie cell) num, s.cell? cell with
  | none, some c => { s with cams := s.cams ++ [⟨s.camDie cell, num, c.rid, []⟩] }
  | none, none | some _, _ => s

def State.fillCam (s : State) (cell num : Nat) (entries : List (Word × Nat × Mark)) : State :=
  { s with cams := s.cams.map (fun c => if c.die == s.camDie cell && c.num == num then { c with entries := entries } else c) }

/-- The CAM that an instruction names. -/
def camOf (i : Instr) : Option Nat :=
  match i with
  | .isld _ cam _ | .isprb _ cam _ => some cam.toNat
  | _ => none

/-- Whether an operation on a CAM has ended: a probe has, once it has emitted its last token (R289). -/
def Stage.isOver (st : Stage) : Bool :=
  match st with
  | .done _ => true
  | .stream toks _ _ => toks.isEmpty
  | .walk | .ready | .held _ _ _ _ => false

/-- Whether an operation on a CAM that arrived earlier has still to be applied, or a probe that arrived earlier still runs (R289). -/
def State.camBusy (s : State) (a : Access) : Bool :=
  s.cells.any (fun c => c.ports.any (fun p => p.accs.any (fun b =>
    decide (b.stamp < a.stamp) && (camOf b.instr).isSome && decide (camOf b.instr = camOf a.instr) &&
      decide (s.camDie c.num = s.camDie a.site.cell) && !b.stage.isOver)))

/-- ISLD (R286, R288). -/
def execIsld (p : BitVec 6) (cam : BitVec 6) (c0 : Consumer) (s : State) : Result :=
  issueFibre (.isld p cam c0) p 3 0 (fun ls _ => [pairAt ls 0]) (fun ls _ => [(pairAt ls 0, 16)])
    (fun s => s.camFree s.site.cell cam.toNat) (fun s' => s'.claimCam s.site.cell cam.toNat) s

/-- ISPRB (R286, R288). -/
def execIsprb (p : BitVec 6) (cam : BitVec 6) (c0 : Consumer) (s : State) : Result :=
  issueFibre (.isprb p cam c0) p 2 0 (fun ls _ => [pairAt ls 0]) (fun ls _ => [(pairAt ls 0, 16)])
    (fun s => s.camFree s.site.cell cam.toNat) id s

/-- ISLD once a read of it is complete: positions START to min(START + 1,024, NNZ) - 1, each checked against the one before. -/
def State.isldRead (s : State) (a : Access) (cam : Nat) : Performed :=
  if s.camBusy a then .later s a
  else
    let l := a.rbytes
    let h := (l.take 16).map (fun b => b.b)
    let x := fibreHead h
    match headerFault h with
    | some sub => .drop ((s.fillCam a.site.cell cam []).fibreFault a sub a.va)
    | none =>
      let start := (tokAt a.more 2).toNat
      let n := min 1024 (x.nnz - start)
      let lead := if start = 0 ∨ n = 0 then 0 else 1
      let cb := coordBytes x.wide
      if l.length < 16 + (n + lead) * cb then
        let (s, a) := s.extend a [(a.va + 16 + (start - lead) * cb, (n + lead) * cb)]
        .later s a
      else
        let cs := l.drop 16
        match (List.range n).findSome? (fun i =>
          (coordFault x.dim (if i + lead = 0 then none else some (coordAt x.wide cs (i + lead - 1)).1) (coordAt x.wide cs (i + lead)).1).map
            (fun sub => (sub, i))) with
        | some (sub, i) => .drop ((s.fillCam a.site.cell cam []).fibreFault a sub (a.va + 16 + (start + i) * cb))
        | none =>
          let t := a.headed (rbBad (l.take 16))
          let entries := (List.range n).map (fun i =>
            let (c, bad) := coordAt x.wide cs (i + lead)
            (BitVec.ofNat 32 c, start + i, (t.derived 0 bad).mark))
          .done (s.fillCam a.site.cell cam entries) [t.derived (BitVec.ofNat 32 n) false]

/-- ISPRB once a read of it is complete: the matches in probe order, then the end token; a check that fails ends the stream. -/
def State.isprbRead (s : State) (a : Access) (cam : Nat) : Performed :=
  if s.camBusy a then .later s a
  else
    let l := a.rbytes
    let h := (l.take 16).map (fun b => b.b)
    let x := fibreHead h
    let t := a.headed (rbBad (l.take 16))
    match headerFault h with
    | some sub => .drop (s.fibreFault a sub a.va)
    | none =>
      let cb := coordBytes x.wide
      if l.length < 16 + x.nnz * cb then
        let (s, a) := s.extend a [(a.va + 16, x.nnz * cb)]
        .later s a
      else
        let cs := l.drop 16
        let fault := firstCoordFault x.dim x.wide cs x.nnz
        let n := match fault with
          | some (_, i) => i
          | none => x.nnz
        let entries := match s.cam? (s.camDie a.site.cell) cam with
          | some m => m.entries
          | none => []
        let toks := (List.range n).flatMap (fun i =>
          let (c, bad) := coordAt x.wide cs i
          match entries.find? (fun e => e.1 == BitVec.ofNat 32 c) with
          | none => []
          | some e =>
            let mark := (t.derived 0 bad).mark.or e.2.2
            [(⟨e.1, mark⟩ : Tok), ⟨BitVec.ofNat 32 e.2.1, mark⟩, ⟨BitVec.ofNat 32 i, mark⟩])
        .later s (a.streaming (toks ++ [t.derived endToken false])
          (fault.map (fun f => (codeFibreMalformed, f.1, a.va + 16 + f.2 * cb))))

/-! UNION (R286). -/

def execUnion (p : BitVec 6) (c0 : Consumer) (s : State) : Result :=
  issueFibre (.union p c0) p 2 2 (fun ls rs => [pairAt ls 0, pairAt rs 0]) (fun ls rs => [(pairAt ls 0, 16), (pairAt rs 0, 16)])
    (fun _ => true) id s

/-- A fibre in the course of UNION: its address, header and coordinates. -/
structure FibreIn where
  va : Nat
  head : FibreHead
  coords : List RByte

/-- The coordinate at a position, if there is one: its value and poison, or the check it fails. -/
def FibreIn.look (f : FibreIn) (i : Nat) : Option (Except (Nat × Nat) (Nat × Bool)) :=
  if f.head.nnz ≤ i then none
  else
    let (c, bad) := coordAt f.head.wide f.coords i
    let prev := if i = 0 then none else some (coordAt f.head.wide f.coords (i - 1)).1
    match coordFault f.head.dim prev c with
    | some sub => some (.error (sub, f.va + 16 + i * coordBytes f.head.wide))
    | none => some (.ok (c, bad))

/-- The triples of a union from positions i and j on, and the check that ends it early; a coordinate that is compared with another derives from
both (R286). -/
def unionFrom (a : Access) (x y : FibreIn) : Nat → Nat → Nat → List Tok × Option (Nat × Nat)
  | 0, _, _ => ([], none)
  | fuel + 1, i, j =>
    let triple (c : Nat) (bad : Bool) (p q : Word) : List Tok := [a.derived (BitVec.ofNat 32 c) bad, a.derived p bad, a.derived q bad]
    match x.look i, y.look j with
    | some (.error f), _ => ([], some f)
    | _, some (.error f) => ([], some f)
    | none, none => ([], none)
    | some (.ok (c, bad)), none =>
      let (l, f) := unionFrom a x y fuel (i + 1) j
      (triple c bad (BitVec.ofNat 32 i) endToken ++ l, f)
    | none, some (.ok (d, bad)) =>
      let (l, f) := unionFrom a x y fuel i (j + 1)
      (triple d bad endToken (BitVec.ofNat 32 j) ++ l, f)
    | some (.ok (c, bc)), some (.ok (d, bd)) =>
      if c < d then
        let (l, f) := unionFrom a x y fuel (i + 1) j
        (triple c (bc || bd) (BitVec.ofNat 32 i) endToken ++ l, f)
      else if d < c then
        let (l, f) := unionFrom a x y fuel i (j + 1)
        (triple d (bc || bd) endToken (BitVec.ofNat 32 j) ++ l, f)
      else
        let (l, f) := unionFrom a x y fuel (i + 1) (j + 1)
        (triple c (bc || bd) (BitVec.ofNat 32 i) (BitVec.ofNat 32 j) ++ l, f)

/-- UNION once a read of it is complete. -/
def State.unionRead (s : State) (a : Access) : Performed :=
  let l := a.rbytes
  let ha := (l.take 16).map (fun b => b.b)
  let hb := ((l.drop 16).take 16).map (fun b => b.b)
  let va := pairAt a.more 0
  let vb := pairAt a.more 2
  match headerFault ha, headerFault hb with
  | some sub, _ => .drop (s.fibreFault a sub va)
  | none, some sub => .drop (s.fibreFault a sub vb)
  | none, none =>
    let x := fibreHead ha
    let y := fibreHead hb
    let na := x.nnz * coordBytes x.wide
    let nb := y.nnz * coordBytes y.wide
    if l.length < 32 + na + nb then
      let (s, a) := s.extend a [(va + 16, na), (vb + 16, nb)]
      .later s a
    else
      let t := a.headed (rbBad (l.take 32))
      let (toks, f) := unionFrom t ⟨va, x, (l.drop 32).take na⟩ ⟨vb, y, l.drop (32 + na)⟩ (x.nnz + y.nnz + 1) 0 0
      .later s (a.streaming (toks ++ [t.derived endToken false]) (f.map (fun f => (codeFibreMalformed, f.1, f.2))))

/-! MERGEK (R290). -/

/-- The order of two keys under a word format (R290): whether the right key is less than the left. -/
def keyLess (f : Fmt) (r l : Word) : Bool :=
  match f with
  | .int8 => decide (signedOf 8 (r.toNat % 256) < signedOf 8 (l.toNat % 256))
  | .int32 => r.slt l
  | .uint8 => decide (r.toNat % 256 < l.toNat % 256)
  | .fp32 | .bf16 | .fp16 | .e4m3 | .e5m2 | .e2m3 | .e3m2 | .e2m1 | .x | .int4 | .code4 =>
    let a := (wordVal f r).1
    let b := (wordVal f l).1
    if a.isNan then false else if b.isNan then true else ordZ a b == .lt

/-- MERGEK (R290): it takes the lengths of a run of each field and emits their sum; the run itself follows. -/
def execMergek (p : BitVec 6) (f : Fmt) (c0 : Consumer) (s : State) : Result :=
  issueCtl (.mergek p f c0) s (fun s' o =>
    let nl := (tokVal o.l).toNat % 2 ^ 31
    let nr := (tokVal o.r).toNat % 2 ^ 31
    let s' := s'.emit s.site c0 ⟨BitVec.ofNat 32 (nl + nr), o.mark⟩
    if nl + nr = 0 then s' else s'.wait s.site (.mergek p f c0) o [] [nl, nr, 0])

/-- The side whose pair leaves next (R290); none while a head that decides it has not arrived. -/
def mergeSide (f : Fmt) (nl nr : Nat) (l r : Option Tok) : Option FieldSel :=
  if nl = 0 then (if r.isSome then some .r else none)
  else if nr = 0 then (if l.isSome then some .l else none)
  else match l, r with
    | some x, some y => if keyLess f y.v x.v then some .r else some .l
    | _, _ => none

/-- Whether the instruction at a site may go on in this cycle: its bench acts and its region has not stopped. -/
def State.goesOn (s : State) (t : Site) : Bool :=
  match s.cell? t.cell with
  | some c => s.benchActs c && s.regionGoes c.rid
  | none => false

/-- One token of a run: the key or the payload of the pair that leaves. The notes hold the pairs left on each side and, between a
key and its payload, the side (1 left, 2 right). -/
def State.mergeStep (s : State) (f : Fmt) (c0 : Consumer) (p : Pend) : Option State :=
  let sl := s.slot p.site
  let nl := p.notes.getD 0 0
  let nr := p.notes.getD 1 0
  let side : Option FieldSel := match p.notes.getD 2 0 with
    | 0 => mergeSide f nl nr (sl.head .l) (sl.head .r)
    | 1 => if (sl.head .l).isSome then some .l else none
    | _ => if (sl.head .r).isSome then some .r else none
  match side, s.block? p.site with
  | some fd, some b =>
    match sl.head fd with
    | none => none
    | some tok =>
      if s.goesOn p.site && b.room p.site.index [(fd, 1)] [(c0, 1)] then
        let s := (s.updSlot p.site (fun sl => sl.consume [(fd, 1)])).emit p.site c0 tok
        let more (notes : List Nat) : State := { s with pend := s.pend ++ [{ p with notes := notes }] }
        if p.notes.getD 2 0 = 0 then some (more [nl, nr, if fd = .l then 1 else 2])
        else
          let (nl, nr) := if fd = .l then (nl - 1, nr) else (nl, nr - 1)
          if nl + nr = 0 then some s else some (more [nl, nr, 0])
      else none
  | _, _ => none

end Sys2Proof.Machine
end

