-- ==== Sys2Proof/Machine/Convert.lean ====
section
/-! DEFINITION. The conversions of COPYC, from the bytes read to the bytes written (R281 to R285). -/

namespace Sys2Proof.Machine

/-- The fields of a COPYC descriptor (R282). -/
structure Conv where
  sel : Nat
  p0 : Nat
  p1 : Nat
  p2 : Nat
  p3 : Nat
  nrow : Nat
  ncol : Nat
  nnz : Nat
  fmt : Fmt
  b : Nat
  ew : Nat
  dict : Nat
  deriving DecidableEq, Repr

def convOf (sel : Nat) (d : List Byte) : Conv :=
  let flags := fieldAt d 0x34 4
  { sel := sel, p0 := fieldAt d 0x08 8, p1 := fieldAt d 0x10 8, p2 := fieldAt d 0x18 8, p3 := fieldAt d 0x20 8,
    nrow := fieldAt d 0x28 4, ncol := fieldAt d 0x2C 4, nnz := fieldAt d 0x30 4, fmt := (Fmt.ofCode (flags % 16)).getD .fp32,
    b := flags / 16 % 256, ew := flags / 2 ^ 12 % 256, dict := flags / 2 ^ 20 % 16 }

/-- Whether a selector converts to or from blocked-ELL. -/
def isEll (sel : Nat) : Bool := sel == 0x04 || sel == 0x14

/-- The fibres that a selector makes or reads, and their DIM (R283). -/
def Conv.fibres (c : Conv) : Nat := if c.sel % 16 = 1 then c.ncol else c.nrow
def Conv.dim (c : Conv) : Nat := if c.sel % 16 = 1 then c.nrow else c.ncol

/-- The bytes of a bitmap. -/
def Conv.mapBytes (c : Conv) : Nat := (c.nrow * c.ncol + 7) / 8

/-- The bytes that the descriptor alone shows a conversion to read and to write: all of them where no size comes from the data, else those that it
reads and writes whatever the data are (R282, R283). -/
def Conv.sure (c : Conv) : List (Nat × Nat) × List (Nat × Nat) :=
  let vals (n : Nat) := packedBytes c.fmt n
  let blocks := c.nrow / c.b * c.ew
  if c.sel ≤ 0x01 then
    ([(c.p1, 4 * (c.fibres + 1)), (c.p2, 4 * c.nnz), (c.p3, vals c.nnz)], [(c.p0, 16 * c.fibres + coordBytes (decide (65536 < c.dim)) * c.nnz + vals c.nnz)])
  else if c.sel = 0x02 then
    ([(c.p1, 4 * c.nnz), (c.p2, 4 * c.nnz), (c.p3, vals c.nnz)], [(c.p0, 16 * c.fibres + coordBytes (decide (65536 < c.dim)) * c.nnz + vals c.nnz)])
  else if c.sel = 0x03 then ([(c.p1, c.mapBytes)], [(c.p0, 16 * c.fibres)])
  else if c.sel = 0x04 then ([(c.p1, 4 * blocks), (c.p2, vals (blocks * c.b * c.b))], [(c.p0, 16 * c.fibres)])
  else if c.sel = 0x10 ∨ c.sel = 0x11 then ([(c.p0, 16 * c.fibres)], [(c.p1, 4 * (c.fibres + 1))])
  else if c.sel = 0x13 then ([(c.p0, 16 * c.fibres)], [(c.p1, c.mapBytes)])
  else if c.sel = 0x14 then ([(c.p0, 16 * c.fibres)], [(c.p1, 4 * blocks), (c.p2, vals (blocks * c.b * c.b))])
  else if c.sel = 0x20 then ([(c.p1, packedBytes .code4 c.nnz)], [(c.p0, vals c.nnz)])
  else ([], [])

/-- The cases of BADDESC that a descriptor alone shows (R229, R284). -/
def convBad (sel : Nat) (d : List Byte) : Bool :=
  let c := convOf sel d
  let flags := fieldAt d 0x34 4
  fieldAt d 0 8 != 1 || fieldAt d 0x38 8 != 0 || decide (2 ^ 24 ≤ flags) || c.nrow == 0 || decide (16777216 < c.nrow) || c.ncol == 0 ||
    (match Fmt.ofCode (flags % 16) with
    | some f => !f.memory || (f == .code4 && decide (sel ≤ 0x14))
    | none => true) ||
    (isEll sel && (c.b == 0 || decide (128 < c.b) || c.ew == 0 || c.nrow % c.b != 0)) ||
    (decide (sel ≤ 0x14) && c.p0 % 8 != 0) || listsMeet c.sure.1 c.sure.2

/-! Elements and packing (R55). -/

/-- Packed elements as bytes; a byte is poisoned where an element in it is. -/
def packElems (w : Nat) (l : List (Nat × Bool)) : List RByte :=
  let n := packBits w (l.map (fun x => x.1))
  (List.range ((w * l.length + 7) / 8)).map (fun k =>
    ⟨BitVec.ofNat 8 (n / 2 ^ (8 * k)), ((l.drop (8 * k / w)).take ((8 * k + 7) / w + 1 - 8 * k / w)).any (fun x => x.2)⟩)

/-- Words of 32 bits as bytes. -/
def wordBytes32 (l : List Nat) : List RByte := packElems 32 (l.map (fun x => (x, false)))

/-- The i-th 32-bit word of bytes read. -/
def word32 (l : List RByte) (i : Nat) : Nat := rbNat ((l.drop (4 * i)).take 4)

/-- The bits and poison of value i, as a number. -/
def valueAt (f : Fmt) (l : List RByte) (i : Nat) : Nat × Bool :=
  let bit := f.width * i
  let mine := (l.drop (bit / 8)).take ((bit % 8 + f.width + 7) / 8)
  (rbNat mine / 2 ^ (bit % 8) % 2 ^ f.width, rbBad mine)

/-- Bytes padded with zeros to a multiple of 8. -/
def pad8 (l : List RByte) : List RByte := l ++ List.replicate ((8 - l.length % 8) % 8) ⟨0, false⟩

/-- The bytes of a fibre with the given positions (R279, R280, R282). -/
def fibreBytes (dim : Nat) (f : Fmt) (l : List (Nat × Nat × Bool)) : List RByte :=
  let wide := decide (65536 < dim)
  let head := leBytes 4 l.length ++ leBytes 4 dim ++ [BitVec.ofNat 8 (f.code + wide.toNat * 16)] ++ List.replicate 6 0
  let check : Byte := BitVec.ofInt 8 (0x5C - byteSum head)
  (head ++ [check]).map (fun b => ⟨b, false⟩) ++ pad8 (packElems (8 * coordBytes wide) (l.map (fun x => (x.1, false)))) ++
    pad8 (packElems f.width (l.map (fun x => x.2)))

/-! Units in order, to the first that fails. -/

/-- The fibres of a unit, or its failing check with the offending address. -/
abbrev ConvUnit := Except (Nat × Nat) (List (List (Nat × Nat × Bool)))

/-- The fibres of the units before the first that fails, and that failure. -/
def goodUnits : List ConvUnit → List (List (Nat × Nat × Bool)) × Option (Nat × Nat)
  | [] => ([], none)
  | .error f :: _ => ([], some f)
  | .ok fs :: rest =>
    let (l, f) := goodUnits rest
    (fs ++ l, f)

/-- The first index of a range that breaks its bound or is not above the one before it. -/
def indexFault (bound base lo n : Nat) (idx : Nat → Nat) : Option (Nat × Nat) :=
  (List.range n).findSome? (fun i =>
    if bound ≤ idx (lo + i) ∨ (i ≠ 0 ∧ idx (lo + i) ≤ idx (lo + i - 1)) then some (0x09, base + 4 * (lo + i)) else none)

/-- The first pointer of CSR or CSC that is below the one before it, or the last where it is not NNZ (R281): with its unit. -/
def pointerFault (c : Conv) (got : List RByte) : Option (Nat × (Nat × Nat)) :=
  match (List.range c.fibres).find? (fun r => decide (word32 got (r + 1) < word32 got r)) with
  | some r => some (r, 0x08, c.p1 + 4 * (r + 1))
  | none => if word32 got c.fibres = c.nnz then none else some (c.fibres - 1, 0x08, c.p1 + 4 * c.fibres)

/-- Row r of CSR, or column r of CSC. A unit whose pointers pass NNZ is not converted: a later pointer fails (DEDUCED; log 49). -/
def csrUnit (c : Conv) (got : List RByte) (r : Nat) : ConvUnit :=
  let n := c.fibres
  let idx := got.drop (4 * (n + 1))
  let vals := idx.drop (4 * c.nnz)
  let lo := word32 got r
  let hi := word32 got (r + 1)
  if hi < lo ∨ c.nnz < hi ∨ (r + 1 = n ∧ hi ≠ c.nnz) then .error (0x08, c.p1 + 4 * (r + 1))
  else match indexFault c.dim c.p2 lo (hi - lo) (word32 idx) with
    | some f => .error f
    | none => .ok [(List.range (hi - lo)).map (fun i => (word32 idx (lo + i), valueAt c.fmt vals (lo + i)))]

/-- The first element of COO that fails, with the row in which it fails and the offending address. -/
def cooFault (c : Conv) (got : List RByte) : Option (Nat × Nat) :=
  let row (i : Nat) := word32 got i
  let col (i : Nat) := word32 (got.drop (4 * c.nnz)) i
  (List.range c.nnz).findSome? (fun i =>
    let prev := if i = 0 then 0 else row (i - 1)
    if c.nrow ≤ row i ∨ row i < prev then some (prev, c.p1 + 4 * i)
    else if c.ncol ≤ col i ∨ (i ≠ 0 ∧ row i = prev ∧ col i ≤ col (i - 1)) then some (row i, c.p2 + 4 * i)
    else none)

def cooUnit (c : Conv) (got : List RByte) (r : Nat) : ConvUnit :=
  match cooFault c got with
  | some (bad, va) => if bad ≤ r then .error (0x09, va) else .ok [entries]
  | none => .ok [entries]
where
  entries : List (Nat × Nat × Bool) :=
    let cols := got.drop (4 * c.nnz)
    let vals := cols.drop (4 * c.nnz)
    (List.range c.nnz).filterMap (fun i => if word32 got i = r then some (word32 cols i, valueAt c.fmt vals i) else none)

/-- Bit i of bytes read. -/
def bitAt (l : List RByte) (i : Nat) : Bool := bitOf ((l[i / 8]?.map (fun b => b.b.toNat)).getD 0) (i % 8)

/-- The set bits before a bit. -/
def bitsBefore (l : List RByte) (n : Nat) : Nat := ((List.range n).filter (bitAt l)).length

def bitmapUnit (c : Conv) (got : List RByte) (r : Nat) : ConvUnit :=
  let vals := got.drop c.mapBytes
  .ok [(List.range c.ncol).filterMap (fun k =>
    if bitAt got (r * c.ncol + k) then some (k, valueAt c.fmt vals (bitsBefore got (r * c.ncol + k))) else none)]

/-- The slots of a row block that are present: their number in the row block and block column. -/
def ellSlots (c : Conv) (got : List RByte) (rb : Nat) : List (Nat × Nat) :=
  (List.range c.ew).filterMap (fun e => let bc := word32 got (rb * c.ew + e); if bc = 0xFFFFFFFF then none else some (e, bc))

/-- Row block rb of blocked-ELL. -/
def ellUnit (c : Conv) (got : List RByte) (rb : Nat) : ConvUnit :=
  let slots := ellSlots c got rb
  let vals := got.drop (4 * (c.nrow / c.b * c.ew))
  let fault := (List.range slots.length).findSome? (fun i => match slots[i]? with
    | some (e, bc) =>
      if (c.ncol + c.b - 1) / c.b ≤ bc ∨ (match (if i = 0 then none else slots[i - 1]?) with
        | some (_, p) => decide (bc ≤ p)
        | none => false) = true then some (0x09, c.p1 + 4 * (rb * c.ew + e)) else none
    | none => none)
  match fault with
  | some f => .error f
  | none => .ok ((List.range c.b).map (fun i => slots.flatMap (fun (e, bc) => (List.range c.b).filterMap (fun j =>
      if bc * c.b + j < c.ncol then some (bc * c.b + j, valueAt c.fmt vals (((rb * c.ew + e) * c.b + i) * c.b + j)) else none))))

/-- The units of a forward conversion. -/
def Conv.units (c : Conv) (got : List RByte) : List ConvUnit :=
  if c.sel = 0x04 then (List.range (c.nrow / c.b)).map (ellUnit c got)
  else (List.range c.fibres).map (fun r =>
    if c.sel = 0x02 then cooUnit c got r else if c.sel = 0x03 then bitmapUnit c got r else csrUnit c got r)

/-! Reading a fibre block (R279, R283). -/

/-- A fibre of a source block: its offset, header, and positions. -/
structure Fib where
  off : Nat
  head : FibreHead
  bad : Bool
  items : List (Nat × Nat × Bool)

/-- The bytes of a fibre of a header. -/
def FibreHead.size (x : FibreHead) : Nat :=
  let r8 (n : Nat) := (n + 7) / 8 * 8
  16 + r8 (x.nnz * coordBytes x.wide) + r8 (packedBytes ((fibreFmt x.vfmt).getD .fp32) x.nnz)

/-- Where a walk over a fibre block stops: more bytes are wanted, or a check fails. -/
inductive FibStop where
  | want (bytes : Nat)
  | fault (sub off : Nat)
  deriving DecidableEq, Repr

/-- The fibres of a block from an offset on. -/
def walkFibres (c : Conv) (l : List RByte) : Nat → Nat → List Fib × Option FibStop
  | 0, _ => ([], none)
  | n + 1, off =>
    if l.length < off + 16 then ([], some (.want (off + 16 - l.length)))
    else
      let hb := (l.drop off).take 16
      let h := hb.map (fun b => b.b)
      match headerFault h with
      | some sub => ([], some (.fault sub off))
      | none =>
        let x := fibreHead h
        if x.vfmt ≠ c.fmt.code then ([], some (.fault 0x02 off))
        else if l.length < off + x.size then ([], some (.want (off + x.size - l.length)))
        else
          let cs := l.drop (off + 16)
          let cb := coordBytes x.wide
          let vals := l.drop (off + 16 + (x.nnz * cb + 7) / 8 * 8)
          match firstCoordFault x.dim x.wide cs x.nnz with
          | some (sub, i) => ([], some (.fault sub (off + 16 + i * cb)))
          | none =>
            match (List.range x.nnz).find? (fun i => decide (c.dim ≤ (coordAt x.wide cs i).1)) with
            | some i => ([], some (.fault 0x09 (off + 16 + i * cb)))
            | none =>
              let f : Fib := ⟨off, x, rbBad hb || rbBad (cs.take (x.nnz * cb)),
                (List.range x.nnz).map (fun i => ((coordAt x.wide cs i).1, valueAt c.fmt vals i))⟩
              let (fs, stop) := walkFibres c l n (off + x.size)
              (f :: fs, stop)

/-! What a conversion reads (R283). -/

/-- The ranges still to be read, by what has been read; none once it is complete. -/
def Conv.ranges (c : Conv) (got : List RByte) : List (Nat × Nat) :=
  let once (l : List (Nat × Nat)) : List (Nat × Nat) := if got.length < l.foldl (fun n r => n + r.2) 0 then l else []
  let vals (n : Nat) := packedBytes c.fmt n
  if c.sel = 0x00 ∨ c.sel = 0x01 then once [(c.p1, 4 * (c.fibres + 1)), (c.p2, 4 * c.nnz), (c.p3, vals c.nnz)]
  else if c.sel = 0x02 then once [(c.p1, 4 * c.nnz), (c.p2, 4 * c.nnz), (c.p3, vals c.nnz)]
  else if c.sel = 0x03 then
    (if got.length < c.mapBytes then [(c.p1, c.mapBytes)]
    else
      let n := vals (bitsBefore got (c.nrow * c.ncol))
      if got.length < c.mapBytes + n then [(c.p2, n)] else [])
  else if c.sel = 0x04 then
    let n := c.nrow / c.b * c.ew
    once [(c.p1, 4 * n), (c.p2, vals (n * c.b * c.b))]
  else if c.sel = 0x20 then once [(c.p1, packedBytes .code4 c.nnz)]
  else if c.sel = 0x21 then once [(c.p1, vals 16)]
  else match (walkFibres c got c.fibres 0).2 with
    | some (.want n) => [((c.p0 + got.length) % 2 ^ 64, n)]
    | some (.fault _ _) | none => []

/-- Whether a word that steers the conversion was read poisoned (R384). -/
def Conv.poisoned (c : Conv) (got : List RByte) : Bool :=
  if c.sel = 0x00 ∨ c.sel = 0x01 then rbBad (got.take (4 * (c.fibres + 1) + 4 * c.nnz))
  else if c.sel = 0x02 then rbBad (got.take (8 * c.nnz))
  else if c.sel = 0x03 then rbBad (got.take c.mapBytes)
  else if c.sel = 0x04 then rbBad (got.take (4 * (c.nrow / c.b * c.ew)))
  else if c.sel = 0x20 ∨ c.sel = 0x21 then false
  else (walkFibres c got c.fibres 0).1.any (fun f => f.bad)

/-! What a conversion writes (R283, R284). -/

/-- The writes of a conversion in their order, and the check that ended it. -/
structure ConvOut where
  writes : List (Nat × List RByte)
  fault : Option (Nat × Nat)

/-- Fibres laid end to end from an address. -/
def layFibres (c : Conv) : Nat → List (List (Nat × Nat × Bool)) → List (Nat × List RByte)
  | _, [] => []
  | va, l :: rest =>
    let bs := fibreBytes c.dim c.fmt l
    (va, bs) :: layFibres c ((va + bs.length) % 2 ^ 64) rest

/-- The pointers of fibres: 0, then the running count; nothing where there is no fibre. -/
def runningCounts (l : List Nat) : List Nat :=
  match l with
  | [] => []
  | _ => 0 :: (List.range l.length).map (fun i => (l.take (i + 1)).foldl (· + ·) 0)

/-- The distinct block columns of the fibres of a row block, ascending. -/
def blockCols (b : Nat) (fs : List Fib) : List Nat :=
  fs.foldl (fun acc f => f.items.foldl (fun acc x => insertNat acc (x.1 / b)) acc) []

/-- Row blocks of B fibres, to the first that needs more than EW blocks. -/
def ellBlocks (c : Conv) : Nat → Nat → List Fib → List (List Fib × List Nat) × Option (Nat × Nat)
  | 0, _, _ => ([], none)
  | n + 1, rb, fs =>
    if fs.length < c.b then ([], none)
    else
      let mine := fs.take c.b
      let cols := blockCols c.b mine
      if c.ew < cols.length then ([], some (0x0A, c.p1 + 4 * (rb * c.ew)))
      else
        let (l, f) := ellBlocks c n (rb + 1) (fs.drop c.b)
        ((mine, cols) :: l, f)

/-- The reverse conversions: arrays P1 to P3 of the fibres before the one that fails. -/
def reverseOut (c : Conv) (got : List RByte) : ConvOut :=
  let (fs, stop) := walkFibres c got c.fibres 0
  let fault : Option (Nat × Nat) := match stop with
    | some (.fault sub off) => some (sub, c.p0 + off)
    | some (.want _) | none => none
  let items := fs.flatMap (fun f => f.items)
  let coords := wordBytes32 (items.map (fun x => x.1))
  let vals := packElems c.fmt.width (items.map (fun x => x.2))
  if c.sel = 0x10 ∨ c.sel = 0x11 then
    ⟨[(c.p1, wordBytes32 (runningCounts (fs.map (fun f => f.items.length)))), (c.p2, coords), (c.p3, vals)], fault⟩
  else if c.sel = 0x12 then
    ⟨[(c.p1, wordBytes32 ((fs.mapIdx (fun r f => List.replicate f.items.length r)).flatten)), (c.p2, coords), (c.p3, vals)], fault⟩
  else if c.sel = 0x13 then
    let bits := fs.flatMap (fun f => (List.range c.ncol).map (fun k => ((f.items.any (fun x => x.1 == k)).toNat, false)))
    ⟨[(c.p1, packElems 1 bits), (c.p2, vals)], fault⟩
  else
    let (blocks, f) := ellBlocks c (c.nrow / c.b) 0 fs
    let idx := blocks.flatMap (fun x => x.2 ++ List.replicate (c.ew - x.2.length) 0xFFFFFFFF)
    let elems := blocks.flatMap (fun x => (List.range c.ew).flatMap (fun e => (List.range c.b).flatMap (fun i => (List.range c.b).map (fun j =>
      match x.2[e]?, x.1[i]? with
      | some bc, some fb => ((fb.items.find? (fun y => y.1 == bc * c.b + j)).map (fun y => y.2)).getD (0, false)
      | _, _ => (0, false)))))
    ⟨[(c.p1, wordBytes32 idx), (c.p2, packElems c.fmt.width elems)], f.or fault⟩

/-- The whole output of a conversion; of the checks of its source those of the pointers come first (R281); `entries` are those of the dictionary slot (R285). -/
def Conv.out (c : Conv) (entries : List Byte) (got : List RByte) : ConvOut :=
  if c.sel ≤ 0x04 then
    let (fs, f) := goodUnits (c.units got)
    ⟨layFibres c c.p0 fs, (if c.sel ≤ 0x01 then (pointerFault c got).map (fun x => x.2) else none).or f⟩
  else if c.sel ≤ 0x14 then reverseOut c got
  else if c.sel = 0x20 then
    let elems := (List.range c.nnz).map (fun i =>
      let (code, bad) := valueAt .code4 got i
      ((valueAt c.fmt (entries.map (fun b => ⟨b, false⟩)) code).1, bad))
    ⟨[(c.p0, packElems c.fmt.width elems)], none⟩
  else ⟨[], none⟩

/-- The arrays of the fibre that a walk over a block has come to, where its header has been read: address, bytes, bits of an element. -/
def Conv.fibreArrays (c : Conv) (got : List RByte) : List (Nat × Nat × Nat) :=
  let off := (walkFibres c got c.fibres 0).1.foldl (fun _ (f : Fib) => f.off + f.head.size) 0
  if got.length < off + 16 then []
  else
    let x := fibreHead (((got.drop off).take 16).map (fun b => b.b))
    let coords := x.nnz * coordBytes x.wide
    [(c.p0 + off + 16, coords, 8 * coordBytes x.wide), (c.p0 + off + 16 + (coords + 7) / 8 * 8, packedBytes c.fmt x.nnz, c.fmt.width)]

/-- The first byte of the element of a source array that holds an address: pointers and indices of 32 bits, coordinates, values of the format
(R384). -/
def Conv.elemAt (c : Conv) (got : List RByte) (va : Nat) : Nat :=
  let within (base n w : Nat) : Option Nat := if base ≤ va ∧ va < base + n then some (base + (va - base) * 8 / w * w / 8) else none
  let vals (n : Nat) := packedBytes c.fmt n
  let l : List (Option Nat) :=
    if c.sel ≤ 0x01 then [within c.p1 (4 * (c.fibres + 1)) 32, within c.p2 (4 * c.nnz) 32, within c.p3 (vals c.nnz) c.fmt.width]
    else if c.sel = 0x02 then [within c.p1 (4 * c.nnz) 32, within c.p2 (4 * c.nnz) 32, within c.p3 (vals c.nnz) c.fmt.width]
    else if c.sel = 0x03 then [within c.p2 (vals (c.nrow * c.ncol)) c.fmt.width]
    else if c.sel = 0x04 then
      let n := c.nrow / c.b * c.ew
      [within c.p1 (4 * n) 32, within c.p2 (vals (n * c.b * c.b)) c.fmt.width]
    else if c.sel = 0x21 then [within c.p1 (vals 16) c.fmt.width]
    else if c.sel = 0x20 then []
    else (c.fibreArrays got).map (fun x => within x.1 x.2.1 x.2.2)
  (l.findSome? id).getD va

/-- The ranges that a conversion has read: its whole source. -/
def Conv.source (c : Conv) (got : List RByte) : List (Nat × Nat) :=
  if 0x10 ≤ c.sel ∧ c.sel ≤ 0x14 then [(c.p0, got.length)]
  else if c.sel = 0x03 then [(c.p1, c.mapBytes), (c.p2, got.length - c.mapBytes)]
  else c.ranges []

end Sys2Proof.Machine
end

