-- ==== Sys2Proof/Machine/Copy.lean ====
section
/-! DEFINITION. Copies: COPY, COPYR, COPYC, their steps, CPLW (R229 to R232, R282 to R285, R381, R382). -/

namespace Sys2Proof.Machine

/-! Descriptors (R229). -/

/-- The bytes of an element of a reduce format. -/
def reduceSize (f : Fmt) : Nat :=
  match f with
  | .fp32 | .int32 => 4
  | .bf16 | .fp16 => 2
  | .e4m3 | .e5m2 | .e2m3 | .e3m2 | .e2m1 | .x | .int8 | .uint8 | .int4 | .code4 => 1

/-- The rows of a copy: source, destination, bytes. -/
def copyRows (d : List Byte) : List (Nat × Nat × Nat) :=
  (List.range (fieldAt d 0x1C 4)).map (fun (r : Nat) =>
    (vaPlus (fieldAt d 0x08 8) (r * sfieldAt d 0x20 4), vaPlus (fieldAt d 0x10 8) (r * sfieldAt d 0x24 4), fieldAt d 0x18 4))

/-- The cases of BADDESC of a copy (R229); FLAGS is 0 but for a bulk-copy command. DESIGN CHOICE (log 59): the ranges that may not overlap are
those of the rows; what lies between strided rows is in none. -/
def copyBad (d : List Byte) (flags : Nat → Bool) (reduce : Option Fmt) : Bool :=
  let rowb := fieldAt d 0x18 4
  let rows := fieldAt d 0x1C 4
  fieldAt d 0 8 != 1 || rowb == 0 || decide (16777216 < rowb) || rows == 0 || decide (65536 < rows) || !flags (fieldAt d 0x28 4) ||
    (d.drop 0x2C).any (fun b => b != 0) ||
    (match reduce with
    | some f =>
      let n := reduceSize f
      fieldAt d 0x08 8 % n != 0 || fieldAt d 0x10 8 % n != 0 || fieldAt d 0x20 4 % n != 0 || fieldAt d 0x24 4 % n != 0 || rowb % n != 0
    | none => false) ||
    (copyRows d).any (fun x => (copyRows d).any (fun y => rangesMeet (x.1, rowb) (y.2.1, rowb)))

/-! Copy slots (R232, R382). -/

def Cell.copySlot (c : Cell) (n : Nat) : CopySlot := (c.copies.find? (fun x => x.slot == n)).getD ⟨n, 0, none⟩

def CopySlot.free (x : CopySlot) : Bool :=
  match x.job with
  | some j => j.ended
  | none => true

def Cell.setCopySlot (c : Cell) (x : CopySlot) : Cell :=
  if c.copies.any (fun y => y.slot == x.slot) then { c with copies := c.copies.map (fun y => if y.slot == x.slot then x else y) }
  else { c with copies := c.copies ++ [x] }

/-- The lowest free copy slot of a cell. -/
def Cell.freeSlot (c : Cell) : Nat := ((List.range 256).find? (fun n => (c.copySlot n).free)).getD 0

/-- A copy takes the lowest free slot, whose sequence advances; answers its tag (R232, R382). -/
def State.takeSlot (s : State) (cell : Nat) (j : Copy) : State × Word :=
  match s.cell? cell with
  | none => (s, 0)
  | some c =>
    let n := c.freeSlot
    let seq := ((c.copySlot n).seq + 1) % 256
    ({ s with stamps := s.stamps + 1 }.updCell cell (fun c => c.setCopySlot ⟨n, seq, some { j with accepted := s.cycle }⟩), BitVec.ofNat 32 (n + 256 * seq))

def Copy.fresh (e : Eng) (kind : CopyKind) (h : Hint) (d : List Byte) : Copy :=
  { eng := { e with puts := if d.isEmpty then some [] else match kind with
      | .plain | .reduce _ _ => some ((copyRows d).map (fun r => (r.2.1, r.2.2)))
      | .convert _ => none },
    accepted := 0, kind := kind, hint := h, desc := d, got := [], src := false, srcStatus := 0, segs := [], at_ := 0, status := 0, ended := false }

/-- A copy that has ended with a status: it has reached both levels, SRC with this status where it had not reached it (R232). -/
def Copy.end_ (j : Copy) (status : Nat) : Copy :=
  { j with src := true, srcStatus := if j.src then j.srcStatus else status, ended := true, status := status }

/-- A copy that has reached SRC: its status there reflects the reads of its source (R232). -/
def Copy.reachSrc (j : Copy) : Copy := { j with src := true, srcStatus := if j.eng.poisoned then 3 else 0 }

/-- The kind and hint of a copy instruction. -/
def copyKind (i : Instr) : CopyKind × Hint :=
  match i with
  | .copyr _ h f op _ => (.reduce f op, h)
  | .copyc _ h sel _ => (.convert sel.toNat, h)
  | .copy _ h _ => (.plain, h)
  | _ => (.plain, .none)

/-- Issue of COPY, COPYR and COPYC (R230, R282): a misaligned descriptor address completes the copy at once. -/
def issueCopy (i : Instr) (p : BitVec 6) (c0 : Consumer) (s : State) : Result :=
  issueCtl i s (fun s' o =>
    let addr := (joinWords (tokVal o.l) (tokVal o.r)).toNat
    let (kind, h) := copyKind i
    if addr % 64 ≠ 0 then
      let (s', tag) := s'.takeSlot s.site.cell ((Copy.fresh (s'.engOf s.site (s.fireNo s.site) (some p.toNat) s'.stamps) kind h []).end_ 1)
      s'.emit s.site c0 ⟨tag, o.mark⟩
    else s'.startReads s.site i o [] p.toNat addr [(addr, 64)])

/-- COPY (R230). -/
def execCopy (p : BitVec 6) (h : Hint) (c0 : Consumer) (s : State) : Result := issueCopy (.copy p h c0) p c0 s

/-- COPYR (R230, R231). -/
def execCopyr (p : BitVec 6) (h : Hint) (f : Fmt) (op : RedOp) (c0 : Consumer) (s : State) : Result :=
  issueCopy (.copyr p h f op c0) p c0 s

/-- COPYC (R282). -/
def execCopyc (p : BitVec 6) (h : Hint) (sel : BitVec 6) (c0 : Consumer) (s : State) : Result := issueCopy (.copyc p h sel c0) p c0 s

/-- Whether a descriptor is rejected for its kind of copy. -/
def Copy.bad (j : Copy) : Bool :=
  match j.kind with
  | .plain => copyBad j.desc (· == 0) none
  | .reduce f _ => copyBad j.desc (· == 0) (some f)
  | .convert sel => convBad sel j.desc

/-- A copy instruction once its descriptor has been read: it allocates a slot and replies with the tag (R230, R384). -/
def State.copyRead (s : State) (a : Access) : Performed :=
  let (kind, h) := copyKind a.instr
  let j := Copy.fresh (s.engOfAccess a) kind h (a.rbytes.map (fun b => b.b))
  let (s, tag) := s.takeSlot a.site.cell (if a.poisoned || j.bad then j.end_ 1 else j)
  .done s [⟨tag, a.ops.mark⟩]

/-! SRC (R230, R232, R285). -/

/-- The scratchpad segments that requests reach. -/
def spadPages (l : List Span) : List Nat := l.filterMap (fun x => if target x.pa = some .spad then some (x.pa / 4096) else none)

/-- The hint of a copy acts at SRC completion on the source segments that it has read (R176, R230). -/
def State.hintCopy (s : State) (j : Copy) : State :=
  { s with mem := j.segs.foldl (fun m page => m.hintSeg s.cycle page j.hint) s.mem }

/-- The context's dictionary slot (R285). -/
def State.dict (s : State) (ctx n : Nat) : Dict := (s.ctxRegs ctx).dicts.getD n ⟨.fp32, []⟩

/-- The order in which copies were accepted: by cycle, then by issuing cell, then by issue (R285; log 19). -/
def Copy.before (k j : Copy) : Bool :=
  decide (k.accepted < j.accepted) || (decide (k.accepted = j.accepted) && (decide (k.eng.site.cell % 4096 < j.eng.site.cell % 4096) ||
    (decide (k.eng.site.cell % 4096 = j.eng.site.cell % 4096) && decide (k.eng.stamp < j.eng.stamp))))

/-- Whether a COPYC of the context that was accepted earlier holds back one on a dictionary slot: a load waits for earlier decodes to reach
SRC, a decode for earlier loads; those of a parked region count too (R285). -/
def State.dictBusy (s : State) (j : Copy) (c : Conv) : Bool :=
  (s.cells ++ s.parked.flatMap (fun p => p.cells)).any (fun x => x.copies.any (fun y => match y.job with
    | none => false
    | some k => match k.kind with
      | .convert sel =>
        decide (k.eng.ctx = j.eng.ctx) && k.before j && !k.src && (convOf sel k.desc).dict == c.dict &&
          ((c.sel == 0x21 && sel == 0x20) || (c.sel == 0x20 && sel == 0x21) || (c.sel == 0x21 && sel == 0x21))
      | .plain | .reduce _ _ => false))

/-- The first byte of the element that holds a source byte, for DEAD_SPAD (R384). -/
def Copy.elem (j : Copy) (va : Nat) : Nat :=
  match j.kind with
  | .reduce f _ => va / reduceSize f * reduceSize f
  | .convert sel => (convOf sel j.desc).elemAt j.got va
  | .plain => va

/-- What a conversion does once it has read its source: BADDESC, or SRC with the check that failed (R284, R285). -/
def State.convRead (s : State) (j : Copy) (c : Conv) : State × Copy :=
  let out := c.out (s.dict j.eng.ctx c.dict).bytes j.got
  if c.poisoned j.got || listsMeet (c.source j.got) (out.writes.map (fun w => (w.1, w.2.length))) then (s, j.end_ 1)
  else
    let j : Copy := { j with desc := j.desc ++ (s.dict j.eng.ctx c.dict).bytes,
                             eng := { j.eng with puts := some (out.writes.map (fun (w : Nat × List RByte) => (w.1, w.2.length))) } }
    let s := s.hintCopy j
    let s := if c.sel = 0x21 then
        s.updCtx j.eng.ctx (fun x => { x with dicts := x.dicts.set c.dict ⟨c.fmt, j.got.map (fun b => b.b)⟩ })
      else s
    match out.fault with
    | some (sub, va) => (s.raiseEng j.eng codeFibreMalformed sub false (BitVec.ofNat 64 va) 0, { j with src := true, srcStatus := 4, status := 4 })
    | none => (s, j.reachSrc)

/-- An attempt of a copy to reach SRC: it reads what is left of its source. -/
def State.copySrc (s : State) (j : Copy) : State × Copy :=
  if j.src || j.eng.held.isSome then (s, j)
  else match j.kind with
    | .convert sel =>
      let c := convOf sel j.desc
      if s.dictBusy j c then (s, j)
      else if sel = 0x20 ∧ (s.dict j.eng.ctx c.dict).fmt ≠ c.fmt then (s, j.end_ 1)
      else match c.ranges j.got with
        | [] => s.convRead j c
        | ranges =>
          match s.readSpans j.eng j.elem ranges with
          | (s, e, spans, .bytes l) =>
            let j := { j with eng := e, got := j.got ++ l, segs := j.segs ++ spadPages spans }
            if (c.ranges j.got).isEmpty then s.convRead j c else (s, j)
          | (s, e, _, .held) | (s, e, _, .wait) => (s, { j with eng := e })
          | (s, e, _, .refused) => (s, { j with eng := e }.end_ 2)
    | .plain | .reduce _ _ =>
      match s.readSpans j.eng j.elem ((copyRows j.desc).map (fun r => (r.1, r.2.2))) with
      | (s, e, spans, .bytes l) =>
        let j := { j with eng := e, got := l, segs := spadPages spans }
        (s.hintCopy j, j.reachSrc)
      | (s, e, _, .held) | (s, e, _, .wait) => (s, { j with eng := e })
      | (s, e, _, .refused) => (s, { j with eng := e }.end_ 2)

/-! Reduce updates (R231, R381). -/

/-- One element combined into the destination (R231), with its flags. -/
def reduceWord (f : Fmt) (op : RedOp) (d x : Word) : Word × Word :=
  match f with
  | .int32 => (match op with
    | .add => d + x
    | .min => if d.slt x then d else x
    | .max => if d.slt x then x else d, 0)
  | .fp32 | .bf16 | .fp16 | .e4m3 | .e5m2 | .e2m3 | .e3m2 | .e2m1 | .x | .int8 | .uint8 | .int4 | .code4 =>
    let (a, fa) := wordVal f d
    let (b, fb) := wordVal f x
    if (fa ||| fb) ≠ 0 then (f.nanWord, flagNV)
    else match op with
      | .add =>
        let (v, fl) := addVal .rne a b
        let (w, fl') := toWord f .rne (Exact.of v)
        (w, fl ||| fl')
      | .min => (valWord f (minMax true a b), 0)
      | .max => (valWord f (minMax false a b), 0)

/-- The line updates of a reduce copy in their order: destination, bytes, and their place in the source bytes. -/
def copyLines (d : List Byte) : List (Nat × Nat × Nat) :=
  ((copyRows d).mapIdx (fun r x => (lineChunks x.2.1 x.2.2).map (fun y => (y.1, y.2, r * x.2.2 + (y.1 - x.2.1))))).flatten

/-- The bytes of one update, element by element, with the flags it raises. A marked line, or a poisoned source element, poisons. -/
def combine (f : Fmt) (op : RedOp) (old src : List RByte) : List RByte × Word :=
  let n := reduceSize f
  (List.range (src.length / n)).foldl (fun (acc : List RByte × Word) i =>
    let d := (old.drop (n * i)).take n
    let x := (src.drop (n * i)).take n
    let (w, fl) := reduceWord f op (BitVec.ofNat 32 (rbNat d)) (BitVec.ofNat 32 (rbNat x))
    (acc.1 ++ (leBytes n w.toNat).map (fun b => ⟨b, rbBad d || rbBad x⟩), acc.2 ||| fl)) ([], 0)

/-- An attempt of a reduce copy to apply its next line update, whole, at the line's home, whose atomic units apply one operation in a cycle
(R231, R308); the update is one request, which the read of the line has charged (R356). -/
def State.copyLine (s : State) (j : Copy) : State × Copy :=
  match j.kind with
  | .plain | .convert _ => (s, j)
  | .reduce f op =>
    if !j.src || j.ended || j.eng.held.isSome then (s, j)
    else match (copyLines j.desc)[j.at_]? with
      | none => (s, j)
      | some (va, n, off) =>
        match s.reach j.eng .both [(va, n)] with
        | (s, .ok spans) =>
          if spans.any (fun x => s.mem.unitBusy x.pa x.n) then (s.sends j.eng, { j with eng := j.eng.waits s.cycle })
          else
          let (s, old, dead) := s.gather j.eng spans
          let (s, e) := s.deadEng j.eng.served (dead.map (fun a => a / reduceSize f * reduceSize f)) true
          let (l, fl) := combine f op old ((j.got.drop off).take n)
          let s := s.engFlags e fl
          let (m, bad) := s.mem.scatter s.cycle e.ctx spans l
          let (s, e) := { s with mem := { m with acct := s.mem.acct } }.engSinks e e.origin bad none
          ({ s with mem := spans.foldl (fun m x => m.useUnit x.pa x.n) s.mem }, { j with eng := e, at_ := j.at_ + 1 })
        | (s, .fault code va) =>
          let (s, e) := s.holdEng j.eng code va .both
          (s, { j with eng := e })
        | (s, .refused va) =>
          (s.raiseEng j.eng codeProt 0 false (BitVec.ofNat 64 va) (accessAux (j.eng.port.getD 0) true false), j.end_ 2)
        | (s, .wait) => (s.sends j.eng, { j with eng := j.eng.waits s.cycle })

/-! VIS (R232). -/

/-- The writes of a plain copy or a conversion in their order; a conversion has kept the dictionary entries that its slot held when
it read its source. -/
def Copy.writes (j : Copy) : List (Nat × List RByte) :=
  match j.kind with
  | .plain => (copyRows j.desc).mapIdx (fun r x => (x.2.1, (j.got.drop (r * x.2.2)).take x.2.2))
  | .reduce _ _ => []
  | .convert sel =>
    ((convOf sel j.desc).out (j.desc.drop 64) j.got).writes

/-- Perform writes until one must wait. -/
def State.copyPuts (s : State) (j : Copy) : List (Nat × List RByte) → State × Copy
  | [] => (s, j.end_ (if j.status ≠ 0 then j.status else if j.eng.poisoned then 3 else 0))
  | (va, l) :: rest =>
    match s.writeEng j.eng .store j.eng.origin [(va, l.length)] l with
    | (s, e, .done) => s.copyPuts { j with eng := e, at_ := j.at_ + 1 } rest
    | (s, e, .held) | (s, e, .wait) => (s, { j with eng := e })
    | (s, e, .refused) => (s, { j with eng := e }.end_ 2)

/-- An attempt of a copy to reach VIS: every destination write is performed, then its slot is free. -/
def State.copyVis (s : State) (j : Copy) : State × Copy :=
  if !j.src || j.ended || j.eng.held.isSome then (s, j)
  else match j.kind with
    | .reduce _ _ => if j.at_ < (copyLines j.desc).length then (s, j) else s.copyPuts j []
    | .plain | .convert _ => s.copyPuts j (j.writes.drop j.at_)

/-- A step of the copy in a slot of a cell. -/
def State.stepCopy (s : State) (cell slot : Nat) (f : State → Copy → State × Copy) : State :=
  match s.cell? cell with
  | none => s
  | some c =>
    let x := c.copySlot slot
    match x.job with
    | none => s
    | some j =>
      if j.ended then s
      else
        let (s, j) := f s j
        s.updCell cell (fun c => c.setCopySlot { x with job := some j })

/-- COPY_SRC_COMPLETE (R232). -/
def execCopySrcComplete (cell slot : Nat) (s : State) : Result := .next (s.stepCopy cell slot State.copySrc)

/-- COPY_VIS_COMPLETE (R232). -/
def execCopyVisComplete (cell slot : Nat) (s : State) : Result := .next (s.stepCopy cell slot State.copyVis)

/-- COPYR_LINE_UPDATE (R231, R381). -/
def execCopyrLineUpdate (cell slot : Nat) (s : State) : Result := .next (s.stepCopy cell slot State.copyLine)

/-! CPLW (R232). -/

/-- The answer of CPLW, once the copy has reached the level: the tag and a status; STALE where the tag names no copy of its slot. -/
def Cell.cplw (c : Cell) (vis : Bool) (tag : Word) : Option Word :=
  let answer (status : Nat) : Word := BitVec.ofNat 32 (tag.toNat % 65536 + status * 65536)
  let x := c.copySlot (tag.toNat % 256)
  match x.job with
  | none => some (answer 0xFF)
  | some j =>
    if 65536 ≤ tag.toNat ∨ x.seq ≠ tag.toNat / 256 % 256 then some (answer 0xFF)
    else if j.ended then some (answer (if vis then j.status else j.srcStatus))
    else if !vis && j.src then some (answer j.srcStatus)
    else none

def State.cplwAttempt (s : State) (vis : Bool) (c0 : Consumer) (p : Pend) : Option State :=
  match s.cell? p.site.cell with
  | none => none
  | some c => (c.cplw vis (tokVal p.ops.l)).map (fun w => s.reply p.site c0 [⟨w, none⟩])

/-- CPLW (R232). -/
def execCplw (vis : Bool) (c0 : Consumer) (s : State) : Result :=
  issueCtl (.cplw vis c0) s (fun s' o =>
    let s' := (s'.reserveAll s.site [(c0, 1)]).wait s.site (.cplw vis c0) o [] []
    s'.tryPend (s'.pend.length - 1) (fun s p => s.cplwAttempt vis c0 p))

end Sys2Proof.Machine
end

