-- ==== Sys2Proof/Machine/Translation.lean ====
section
/-! DEFINITION. Waiting for earlier accesses (R233, R300, R310), held faults and RETRY (R242, R243), WIN (R236, R245), TLBINV (R241),
page walks. -/

namespace Sys2Proof.Machine

/-! Earlier accesses of a cell. -/

/-- The M-dies that border an F-die (R101). -/
def borders (die : Nat) : List Nat :=
  match die with
  | 0 => [0, 2]
  | 1 => [0, 1, 3]
  | 2 => [0, 2, 3]
  | _ => [1, 3]

/-- The path of a physical address from an F-die (R110, R214). -/
def pathOf (die pa : Nat) : Option DrainPath :=
  match target pa with
  | some .dram => some .global
  | some .host => some .host
  | some .spad => some (if (borders die).contains (spadDie pa) then .localSpad else .remoteSpad)
  | none => none

/-- Whether an address of an agent lies in a path, as far as is known without a walk; an address not yet translated lies in each. -/
def State.vaInPath (s : State) (e : Eng) (path : DrainPath) (va : Nat) : Bool :=
  match s.mem.lookup (s.winsOf e) (e.cell / 1024 % 4) e.ctx va .store with
  | .ok pa _ => pathOf (e.cell / 1024 % 4) pa == some path
  | .fault _ | .walk => true

/-- Whether a part of an access lies in a path. -/
def Part.inPath (p : Part) (die : Nat) (path : DrainPath) : Bool :=
  match p.pa with
  | some pa => pathOf die pa == some path
  | none => true

/-- The stores that DRAIN counts (R233). -/
def isStore (i : Instr) : Bool :=
  match i with
  | .sts _ _ _ | .stv _ _ _ | .agsct _ _ _ => true
  | _ => false

/-- The instructions whose engine operations write destinations that DRAIN counts (R233, R254, R270). -/
def writesLater (i : Instr) : Bool :=
  match i with
  | .copy _ _ _ | .copyr _ _ _ _ _ | .copyc _ _ _ _ | .mma _ _ _ _ _ | .mmasp _ _ _ _ _ | .mmarow _ _ _ _ _ | .prune _ _ _ _ => true
  | _ => false

/-- Whether an engine agent of a cell, issued before a stamp, may still write into a path; ranges that are not known yet lie in each (R233). -/
def State.engWrites (s : State) (cell stamp : Nat) (path : DrainPath) (e : Eng) : Bool :=
  decide (e.site.cell = cell) && decide (e.stamp < stamp) && (match e.puts with
    | none => true
    | some l => (l.flatMap (fun r => lineChunks r.1 r.2)).any (fun x => s.vaInPath e path x.1))

/-- Whether every write that a cell issued before a stamp, into a path, has been performed: its stores, and those of its copies, prunings and
matrix operations (R233, R254, R270). -/
def State.drained (s : State) (cell stamp : Nat) (path : DrainPath) : Bool :=
  match s.cell? cell with
  | none => true
  | some c =>
    c.ports.all (fun p => p.accs.all (fun a => !decide (a.stamp < stamp) || a.stage.isDone ||
      (!writesLater a.instr && !(isStore a.instr && a.parts.any (fun x => x.inPath c.die path))))) &&
    c.copies.all (fun x => match x.job with
      | some j => j.ended || !s.engWrites cell stamp path j.eng
      | none => true) &&
    s.pend.all (fun p => !writesLater p.instr || (match p.eng with
      | some e => !s.engWrites cell stamp path e
      | none => !decide (p.site.cell = cell) || !decide (p.stamp < stamp))) &&
    s.regions.all (fun r => r.sys.all (fun y => y.queue.all (fun o => !s.engWrites cell stamp path o.eng)))

/-- Whether an instruction is OWN. -/
def isOwn (i : Instr) : Bool :=
  match i with
  | .own _ _ => true
  | _ => false

/-- The instructions that make a signal event (R292): while one of them waits, its event has not been performed. -/
def isSignal (i : Instr) : Bool :=
  match i with
  | .wqadd _ _ _ _ | .wqtake _ _ _ _ | .wqclose _ _ _ _ | .arrive _ _ _ | .waitg _ _ _ | .bar _ _ _ => true
  | .seamoPush _ _ _ | .seamoPop _ _ _ | .ingress _ _ _ | .egress _ _ _ | .cplw _ _ => true
  | .cmdMatrix _ _ | .cmdBulk _ _ | .cmdCollective _ _ | .cmdLift _ _ | .cmdChild _ _ | .cmdwait _ _ _ => true
  | _ => false

/-- Whether every event that a cell issued before a stamp has been performed: the reads have returned, the writes are performed, and no signal
waits, acquires among them (R292, R296, R300); the flush and the read of an OWN are accesses of its cell (R310, R313). -/
def State.performedBefore (s : State) (cell stamp : Nat) : Bool :=
  match s.cell? cell with
  | none => true
  | some c => c.ports.all (fun p => p.accs.all (fun a => !decide (a.stamp < stamp) || a.stage.isDone)) &&
      s.pend.all (fun q => !((isOwn q.instr || isSignal q.instr) && decide (q.site.cell = cell) && decide (q.stamp < stamp)))

/-- Issue an instruction that reserves its reply and waits for its attempt to succeed. -/
def issueWait (i : Instr) (c0 : Consumer) (s : State) (attempt : State → Pend → Option State) : Result :=
  issueCtl i s (fun s' o =>
    let s' := (s'.reserveAll s.site [(c0, 1)]).wait s.site i o [] []
    s'.tryPend (s'.pend.length - 1) attempt)

def State.drainAttempt (s : State) (path : DrainPath) (c0 : Consumer) (p : Pend) : Option State :=
  if s.drained p.site.cell p.stamp path then some (s.reply p.site c0 [⟨0, none⟩]) else none

/-- DRAIN (R233). -/
def execDrain (path : DrainPath) (c0 : Consumer) (s : State) : Result :=
  issueWait (.drain path c0) c0 s (fun s p => s.drainAttempt path c0 p)

/-! Every engine agent of the state. -/

/-- Apply a function to the agents that a test selects, wherever they stand: copies of cells, commands, systolic operations, waiting
instructions, owners, participants of collectives. -/
def State.mapCopies (s : State) (sel : Eng → Bool) (f : State → Eng → State × Eng) : State :=
  (s.cells.flatMap (fun c => c.copies.map (fun x => (c.num, x.slot)))).foldl (fun s (n, k) => s.stepCopy n k (fun s j =>
    if sel j.eng then
      let (s, e) := f s j.eng
      (s, { j with eng := e })
    else (s, j))) s

def State.mapCmds (s : State) (sel : Eng → Bool) (f : State → Eng → State × Eng) : State :=
  (s.cmds.map (fun c => c.slot)).foldl (fun s k => match s.cmds.find? (fun c => c.slot == k) with
    | none => s
    | some c =>
      let (s, e) := if sel c.eng then f s c.eng else (s, c.eng)
      let (s, copy) : State × Option Copy := match c.copy with
        | some j =>
          if sel j.eng then
            let (s, e) := f s j.eng
            (s, some { j with eng := e })
          else (s, some j)
        | none => (s, none)
      { s with cmds := s.cmds.map (fun x => if x.slot == k then { c with eng := e, copy := copy } else x) }) s

def State.mapPends (s : State) (sel : Eng → Bool) (f : State → Eng → State × Eng) : State :=
  (s.pend.map (fun p => p.stamp)).foldl (fun s k => match s.pend.find? (fun p => p.stamp == k) with
    | none => s
    | some p => match p.eng with
      | none => s
      | some e =>
        if sel e then
          let (s, e) := f s e
          { s with pend := s.pend.map (fun x => if x.stamp == k then { x with eng := some e } else x) }
        else s) s

/-- The agents of a list changed, threading the state. -/
def mapEngList {α : Type} (get : α → Eng) (put : α → Eng → α) (sel : Eng → Bool) (f : State → Eng → State × Eng) : List α → State → State × List α
  | [], s => (s, [])
  | x :: rest, s =>
    let (s, e) := if sel (get x) then f s (get x) else (s, get x)
    let (s, l) := mapEngList get put sel f rest s
    (s, put x e :: l)

def State.mapRegions (s : State) (sel : Eng → Bool) (f : State → Eng → State × Eng) : State :=
  (s.regions.map (fun r => r.rid)).foldl (fun s rid => match s.region? rid with
    | none => s
    | some r =>
      let (s, owners) := mapEngList Owner.eng (fun o e => { o with eng := e }) sel f r.owners s
      let s := s.updRegion rid (fun r => { r with owners := owners })
      (List.range r.sys.length).foldl (fun s k => match s.region? rid with
        | none => s
        | some r => match r.sys[k]? with
          | none => s
          | some y =>
            let (s, q) := mapEngList SysOp.eng (fun o e => { o with eng := e }) sel f y.queue s
            s.updRegion rid (fun r => { r with sys := r.sys.modify k (fun y => { y with queue := q }) })) s) s

def State.mapColls (s : State) (sel : Eng → Bool) (f : State → Eng → State × Eng) : State :=
  (List.range s.colls.length).foldl (fun s k => match s.colls[k]? with
    | none => s
    | some x =>
      let (s, joins) := mapEngList Join.eng (fun j e => { j with eng := e }) sel f x.joins s
      { s with colls := s.colls.modify k (fun x => { x with joins := joins }) }) s

def State.mapEngs (s : State) (sel : Eng → Bool) (f : State → Eng → State × Eng) : State :=
  ((((s.mapCopies sel f).mapCmds sel f).mapPends sel f).mapRegions sel f).mapColls sel f

/-- The faults that engine agents hold. -/
def State.heldEngs (s : State) : List Eng :=
  (s.cells.flatMap (fun c => c.copies.filterMap (fun x => x.job.map (fun j => j.eng))) ++
    s.cmds.flatMap (fun c => if c.retired then [] else c.eng :: (c.copy.map (fun j => j.eng)).toList) ++ s.pend.filterMap (fun p => p.eng) ++
    s.regions.flatMap (fun r => r.owners.map (fun o => o.eng) ++ r.sys.flatMap (fun y => y.queue.map (fun o => o.eng))) ++
    s.colls.flatMap (fun x => x.joins.map (fun j => j.eng))).filter (fun e => e.held.isSome)

/-! RETRY (R243). -/

def Stage.isHeld (st : Stage) : Bool :=
  match st with
  | .held _ _ _ _ => true
  | .walk | .ready | .done _ | .stream _ _ _ => false

/-- Translate again every held access of a port that a test selects; answers the state. -/
def State.retryAccesses (s : State) (cell port : Nat) (sel : Access → Bool) : State :=
  (List.range (s.port cell port).accs.length).foldl (fun s k => match (s.port cell port).accs[k]? with
    | none => s
    | some a =>
      if a.stage.isHeld && sel a then
        let (s, a') := s.advance a.site port { a with parts := a.parts.map (fun p => if p.got.isSome then p else { p with pa := none }) } true
        (s.updPort cell port (fun q => { q with accs := q.accs.set k a' })).endRun a.site port
      else s) s

/-- Whether a port, or an agent that acts through it, holds a fault (R243). -/
def State.portHolds (s : State) (cell port : Nat) : Bool :=
  (s.port cell port).accs.any (fun a => a.stage.isHeld) || s.heldEngs.any (fun e => e.cell == cell && e.port == some port)

/-- RETRY (R243): 2 where nothing is held, 0 where every translation now succeeds, 1 otherwise. -/
def execRetry (p : BitVec 6) (c0 : Consumer) (s : State) : Result :=
  issueCtl (.retry p c0) s (fun s' _ =>
    let cell := s.site.cell
    if !s'.portHolds cell p.toNat then s'.emit s.site c0 ⟨2, none⟩
    else
      let s' := s'.retryAccesses cell p.toNat (fun _ => true)
      let s' := s'.mapEngs (fun e => e.held.isSome && e.cell == cell && e.port == some p.toNat) (fun s e =>
        let (s, e, _) := s.retryEng e
        (s, e))
      s'.emit s.site c0 ⟨boolWord (s'.portHolds cell p.toNat), none⟩)

/-! WIN (R236, R245). -/

/-- The fields of a window record against the table of R236, each with its offset. -/
def winChecks (d : List Byte) : List (Bool × Nat) :=
  let vbase := fieldAt d 0x00 8
  let len := fieldAt d 0x08 8
  let pbase := fieldAt d 0x10 8
  let attr := fieldAt d 0x1C 4
  [(decide (vbase % 4096 = 0) && canonical vbase, 0x00), (decide (len % 4096 = 0) && canonical (vbase + len - 1) && decide (vbase + len ≤ 2 ^ 64), 0x08),
   (decide (pbase % 4096 = 0) && decide (pbase < 2 ^ 52) && (target pbase).isSome && decide (target pbase = target (pbase + len - 1)), 0x10),
   (decide (fieldAt d 0x18 4 = 0), 0x18), (decide (attr < 8) && (!bitOf attr 2 || decide (target pbase = some .spad)), 0x1C)]

/-- The window of a record, where it meets the table of R236. -/
def winRecord (w : Nat) (d : List Byte) : Option Window :=
  let attr := fieldAt d 0x1C 4
  if (winChecks d).all (fun c => c.1) then
    some { slot := w, vbase := fieldAt d 0x00 8, len := fieldAt d 0x08 8, pbase := fieldAt d 0x10 8, r := bitOf attr 0, w := bitOf attr 1, ver := bitOf attr 2,
           enabled := true }
  else none

/-- WIN (R245): PRIV outside context 0; the record is read through the port. -/
def execWin (p : BitVec 6) (w : BitVec 3) (c0 : Consumer) (s : State) : Result :=
  issueCtl (.win p w c0) s (fun s' o =>
    if s.tagOf s.site.cell ≠ 0 then s'.opcodeFault s.site codePriv (.win p w c0)
    else
      let addr := (joinWords (tokVal o.l) (tokVal o.r)).toNat
      s'.startReads s.site (.win p w c0) o [] p.toNat addr [(addr, 32)])

/-- What was issued through a port before a WIN keeps the windows of its issue (R245). -/
def State.keepWins (s : State) (cell port : Nat) : State :=
  let old := (s.port cell port).wins
  (s.updPort cell port (fun q => { q with accs := q.accs.map (fun a => { a with wins := a.wins.or (some old) }) })).mapEngs
    (fun e => e.cell == cell && e.port == some port) (fun s e => (s, { e with wins := e.wins.or (some old) }))

/-- The windows of a port with window w replaced by that of a record, or taken out where its LENGTH is 0 (R245). -/
def withWindow (l : List Window) (w : Nat) (x : Option Window) : List Window :=
  l.filter (fun y => decide (y.slot < w)) ++ x.toList ++ l.filter (fun y => decide (w < y.slot))

/-- WIN once its record has been read, at the head of the port's order: a record that breaks R236 is PROT; the window is installed as the reply
leaves. -/
def State.winRead (s : State) (a : Access) (w : Nat) : Performed :=
  let d := a.rbytes.map (fun b => b.b)
  if fieldAt d 0x08 8 ≠ 0 ∧ winRecord w d = none then .drop (s.opcodeFault a.site codeProt a.instr (some a.stamp))
  else .later s { a with stage := .done [⟨0, a.mark⟩] }

/-- The window of a WIN installed, in the cycle in which it emits 0: what issues from then on uses it, and what was issued before keeps the
windows of its issue (R245). -/
def State.installWin (s : State) (a : Access) (w : Nat) : State :=
  let d := a.rbytes.map (fun b => b.b)
  (s.keepWins a.site.cell a.portNo).updPort a.site.cell a.portNo (fun q =>
    { q with wins := withWindow q.wins w (if fieldAt d 0x08 8 = 0 then none else winRecord w d) })

/-! TLBINV (R241). -/

/-- What a TLBINV covers. -/
structure Cover where
  kind : Nat
  ctx : Nat
  va : Nat
  deriving DecidableEq, Repr

/-- Whether it covers a range of addresses of a context. -/
def Cover.hits (v : Cover) (ctx lo n : Nat) : Bool :=
  v.kind == 2 || (v.ctx == ctx && (v.kind == 1 || (decide (lo ≤ v.va) && decide (v.va < lo + n))))

/-- The pages that hold an address of a context: its 4 KiB, every page under which a tile holds it, and the page that maps it now (R241). -/
def State.pagesAt (s : State) (ctx va : Nat) : List (Nat × Nat) :=
  let root := (s.ctxRegs ctx).ptRoot
  (va / 4096 * 4096, 4096) ::
    (s.mem.tlb.filter (fun e => e.ctx == ctx && decide (e.vbase ≤ va) && decide (va < e.vbase + e.size))).map (fun e => (e.vbase, e.size)) ++
    (if root.getLsbD 0 then match (s.mem.walkFrom s.cycle ctx va 3 (root.toNat / 2 ^ 21 % 2 ^ 31 * 2 ^ 21)).2 with
      | some (entry, _, level) => [(va / leafSize entry level * leafSize entry level, leafSize entry level)]
      | none => [] else [])

/-- Whether it covers some page of a range of addresses; `pages` are those that hold its VA. -/
def Cover.meets (v : Cover) (pages : List (Nat × Nat)) (ctx lo n : Nat) : Bool :=
  v.kind == 2 || (v.ctx == ctx && (v.kind == 1 || pages.any (fun x => rangesMeet x (lo, n))))

/-- Whether the page through which a part was translated is covered, however the table maps its address now. -/
def Cover.through (v : Cover) (ctx : Nat) (x : Part) : Bool := x.pa.isSome && decide (x.page ≠ 0) && v.hits ctx (x.va / x.page * x.page) x.page

/-- Whether a part is still to be performed and its address, or the page through which it was translated, is covered. -/
def Cover.open (v : Cover) (pages : List (Nat × Nat)) (ctx : Nat) (x : Part) : Bool :=
  x.got.isNone && (v.meets pages ctx x.va x.size || v.through ctx x)

/-- Whether an access translated through a covered translation has still a part to be performed, and nothing held stands before
it in its port. -/
def State.mustPerform (s : State) (v : Cover) (pages : List (Nat × Nat)) : Bool :=
  s.cells.any (fun c => c.ports.any (fun p => (List.range p.accs.length).any (fun k => match p.accs[k]? with
    | none => false
    | some a => a.stage == .ready && a.parts.any (fun x => x.pa.isSome && v.open pages c.context x) &&
        !(p.accs.take k).any (fun b => b.stage.isHeld))))

/-- An access without its covered translations: it is translated again. -/
def Access.forget (v : Cover) (pages : List (Nat × Nat)) (ctx : Nat) (a : Access) : Access :=
  if a.parts.any (v.open pages ctx) then
    { a with parts := a.parts.map (fun x => if v.open pages ctx x then { x with pa := none } else x),
             stage := if a.stage == .ready then .walk else a.stage }
  else a

/-- Discard the covered translations of accesses that are held, wait for a walk, or stand behind a held one; in a parked region those of
every access (R241). -/
def State.discardHeld (s : State) (v : Cover) (pages : List (Nat × Nat)) : State :=
  let each (ctx : Nat) (p : Port) (all : Bool) : Port := { p with accs := p.accs.mapIdx (fun k a =>
    if all || a.stage.isHeld || a.stage == .walk || (a.stage == .ready && (p.accs.take k).any (fun b => b.stage.isHeld)) then a.forget v pages ctx
    else a) }
  { s with
    cells := s.cells.map (fun c => { c with ports := c.ports.map (fun p => each c.context p false) })
    parked := s.parked.map (fun (x : Parked) => { x with cells := x.cells.map (fun c => { c with ports := c.ports.map (fun p => each c.context p true) }) }) }

/-- The windows of a list, the covered ones disabled (R236). -/
def Cover.disable (v : Cover) (pages : List (Nat × Nat)) (ctx : Nat) (l : List Window) : List Window :=
  l.map (fun w => if v.meets pages ctx w.vbase w.len then { w with enabled := false } else w)

/-- The windows of a cell's ports, and those that its accesses keep, the covered ones disabled. -/
def Cell.disable (c : Cell) (v : Cover) (pages : List (Nat × Nat)) : Cell :=
  { c with ports := c.ports.map (fun p => { p with wins := v.disable pages c.context p.wins,
                                                   accs := p.accs.map (fun a => { a with wins := a.wins.map (v.disable pages c.context) }) }) }

/-- Drop covered tile entries and disable covered windows of every port, of parked regions too (R236, R241). -/
def State.dropCovered (s : State) (v : Cover) (pages : List (Nat × Nat)) : State :=
  let off (e : Eng) : Eng := { e with wins := e.wins.map (v.disable pages e.ctx) }
  ({ s with
    mem := { s.mem with tlb := s.mem.tlb.filter (fun e => !v.hits e.ctx e.vbase e.size) },
    cells := s.cells.map (fun c => c.disable v pages),
    parked := s.parked.map (fun (x : Parked) => { x with
      cells := x.cells.map (fun c => { c.disable v pages with copies := c.copies.map (fun y => { y with job := y.job.map (fun j => { j with eng := off j.eng }) }) }),
      pends := x.pends.map (fun p => { p with eng := p.eng.map off }) }) } : State).mapEngs (fun _ => true) (fun s e => (s, off e))

/-- The held accesses and agents that a TLBINV covers are translated again, as RETRY does (R241, R243). -/
def State.retryCovered (s : State) (v : Cover) (pages : List (Nat × Nat)) : State :=
  let ports := s.cells.flatMap (fun c => c.ports.map (fun p => (c.num, c.context, p.num)))
  let s := ports.foldl (fun s (n, ctx, p) => s.retryAccesses n p (fun a => match a.stage with
    | .held _ va _ _ => v.meets pages ctx va 1
    | .walk | .ready | .done _ | .stream _ _ _ => false)) s
  s.mapEngs (fun e => match e.held with
    | some h => v.meets pages e.ctx h.va 1
    | none => false) (fun s e =>
      let (s, e, _) := s.retryEng e
      (s, e))

/-- What every die does before it acknowledges (R241); none while a covered request has still to be performed. -/
def State.invalidate (s : State) (v : Cover) : Option State :=
  let pages := s.pagesAt v.ctx v.va
  if s.mustPerform v pages then none else some (((s.discardHeld v pages).dropCovered v pages).retryCovered v pages)

def coverOf (ctl va : Nat) : Cover := ⟨ctl / 2 ^ 12 % 4, ctl % 4096, va⟩

/-- The operands that TLBINV refuses (R241). -/
def coverBad (ctl va : Nat) : Bool := ctl / 2 ^ 12 % 4 == 3 || decide (2 ^ 14 ≤ ctl) || (ctl / 2 ^ 12 % 4 == 0 && !canonical va)

/-- A message sent to another member over the Muzhanko links, with its charge to a context tag (R114, R356; log 14). -/
def State.sendMember (s : State) (tag kind : Nat) (bytes : List Byte) (status : Nat) : State :=
  { s with outbox := s.outbox ++ [⟨kind, bytes, status⟩], mem := s.mem.charge tag 4 (5000 * bytes.length) }

def allPaths : List DrainPath := [.localSpad, .remoteSpad, .global, .host]

/-- Whether every other member of the group has acknowledged a broadcast (R241; log 14). -/
def State.membersAcked (s : State) (stamp : Nat) : Bool :=
  (List.range 16).all (fun m => decide (m = s.dev.member) || !Config.memberPresent m || Config.memberAcked m stamp s.cycle)

/-- An attempt of TLBINV (R241): once the cell's writes before it are performed the invalidation is broadcast, under .SYS to the other members as
well; it acts on this device once no request through a covered translation has still to be performed; a note says so, and 0 is emitted once
every member has acknowledged. -/
def State.tlbinvAttempt (s : State) (sys : Bool) (c0 : Consumer) (p : Pend) : Option State :=
  let ctl := (tokVal p.ops.l).toNat
  let last (s : State) : State :=
    if !sys || s.membersAcked p.stamp then s.reply p.site c0 [⟨0, none⟩] else { s with pend := s.pend ++ [{ p with notes := [1, 1] }] }
  match p.notes with
  | [] =>
    if allPaths.all (s.drained p.site.cell p.stamp) then
      let s : State := if sys then s.sendMember (s.tagOf p.site.cell) 1 (leBytes 4 ctl ++ leBytes 8 (pairAt p.more 0)) 0 else s
      match s.invalidate (coverOf ctl (pairAt p.more 0)) with
      | some s => some (last s)
      | none => some { s with pend := s.pend ++ [{ p with notes := [1] }] }
    else none
  | [_] => (s.invalidate (coverOf ctl (pairAt p.more 0))).map last
  | _ => if s.membersAcked p.stamp then some (s.reply p.site c0 [⟨0, none⟩]) else none

/-- TLBINV (R241): PRIV outside context 0, PROT on a control token it refuses. -/
def execTlbinv (sys : Bool) (c0 : Consumer) (s : State) : Result :=
  issueCtl (.tlbinv sys c0) s (fun s' o =>
    let more := (s.toks s.site .l 3).drop 1
    let ctl := (tokVal o.l).toNat
    if s.tagOf s.site.cell ≠ 0 then s'.opcodeFault s.site codePriv (.tlbinv sys c0)
    else if coverBad ctl (pairAt more 0) then s'.opcodeFault s.site codeProt (.tlbinv sys c0)
    else
      let s' := (s'.reserveAll s.site [(c0, 1)]).wait s.site (.tlbinv sys c0) o more []
      s'.tryPend (s'.pend.length - 1) (fun s p => s.tlbinvAttempt sys c0 p))

/-- TLBINV_REMOTE_BROADCAST (R241): once no covered request has still to be performed, it acts and acknowledges. -/
def execTlbinvRemoteBroadcast (ctl : Word) (va : DWord) (s : State) : Result :=
  match s.invalidate (coverOf ctl.toNat va.toNat) with
  | some s => .next (s.sendMember 4096 2 (leBytes 4 ctl.toNat ++ leBytes 8 va.toNat) 0)
  | none => .next s

/-! Page walks (R238). -/

/-- An access after a walk: one whose compare-and-swap waits at its atomic unit keeps the cycle in which its request arrived there (R308). -/
def Access.walked (a : Access) (arr : Option Nat) (now : Nat) : Access :=
  { a with arr := if a.stage == .walk then some (arr.getD now) else none }

/-- PAGE_WALK (R235, R238, R242): the k-th access of a port is translated by walks, or holds the fault they find. -/
def execPageWalk (cell port k : Nat) (s : State) : Result :=
  match (s.port cell port).accs[k]? with
  | none => .next s
  | some a =>
    match a.stage with
    | .walk =>
      let (s, b) := s.advance a.site port a true
      .next ((s.updPort cell port (fun q => { q with accs := q.accs.set k (b.walked a.arr s.cycle) })).endRun a.site port)
    | .ready | .held _ _ _ _ | .done _ | .stream _ _ _ => .next s

end Sys2Proof.Machine
end

