-- ==== Sys2Proof/Machine/Sparse.lean ====
section
/-! DEFINITION. N:M tiles: their header and checks (R260 to R264), prediction (R275), PRUNE (R265 to R270), NMHDR, NMCHK, NMEST
(R277). -/

namespace Sys2Proof.Machine

/-! The tile (R260 to R262). -/

/-- A tile header (R261). -/
structure TileHead where
  n : Nat
  lgm : Nat
  sparse : Bool
  trans : Bool
  fmt : Nat
  ixw : Nat
  low : Nat
  rows : Nat
  kg : Nat
  vcount : Nat
  latcl : Nat
  deriving DecidableEq, Repr

/-- The fields of the 64 bits of a header; `low` is bits [15:14]. -/
def tileHead (h : Nat) : TileHead :=
  { n := h % 16, lgm := h / 2 ^ 4 % 4, sparse := bitOf h 6, trans := bitOf h 7, fmt := h / 2 ^ 8 % 16, ixw := h / 2 ^ 12 % 4,
    low := h / 2 ^ 14 % 4, rows := h / 2 ^ 16 % 512 + 1, kg := h / 2 ^ 25 % 256 + 1, vcount := h / 2 ^ 33 % 2 ^ 21,
    latcl := h / 2 ^ 54 % 4 }

/-- M of a header. -/
def TileHead.m (t : TileHead) : Nat := 2 ^ (t.lgm + 1)

/-- K of a tile. -/
def TileHead.k (t : TileHead) : Nat := t.kg * t.m

/-- The weights kept of each group: N, or all M in a dense tile. -/
def TileHead.kept (t : TileHead) : Nat := if t.sparse then t.n else t.m

/-- The elements that a tile holds. -/
def TileHead.count (t : TileHead) : Nat := t.rows * t.kg * t.kept

/-- The bits of an index. -/
def TileHead.indexBits (t : TileHead) : Nat := 2 ^ (t.ixw + 1)

/-- The matrix format of a header, if it has the operand role. -/
def matrixFmt (code : Nat) : Option Fmt :=
  match Fmt.ofCode code with
  | some f => if f.matrix then some f else none
  | none => none

def TileHead.elem (t : TileHead) : Fmt := (matrixFmt t.fmt).getD .int8

/-- The bytes rounded up to a multiple of 8. -/
def round8 (n : Nat) : Nat := (n + 7) / 8 * 8

/-- V of R260. -/
def TileHead.valueBytes (t : TileHead) : Nat := round8 (packedBytes t.elem t.count)

/-- The bytes that the indices fill, before rounding. -/
def TileHead.rawIndexBytes (t : TileHead) : Nat := if t.sparse then (t.count * t.indexBits + 7) / 8 else 0

/-- All the bytes of a tile. -/
def TileHead.size (t : TileHead) : Nat := 8 + t.valueBytes + round8 t.rawIndexBytes

/-- The first header check of R264 that fails. -/
def headSub (h : Nat) : Option Nat :=
  let t := tileHead h
  if byteSum (leBytes 8 h) % 256 ≠ 0xA5 then some 0x07
  else if (matrixFmt t.fmt).isNone ∨ t.low ≠ 0 then some 0x04
  else if t.sparse = false ∧ (t.n ≠ 0 ∨ t.trans = true ∨ t.ixw ≠ 0) then some 0x03
  else if t.sparse = true ∧ t.m < t.n then some 0x01
  else if t.sparse = true ∧ t.n = t.m then some 0x02
  else if t.sparse = true ∧ (t.ixw = 3 ∨ t.indexBits < t.lgm + 1) then some 0x05
  else if t.vcount ≠ t.count % 2 ^ 21 then some 0x06
  else none

/-- Index e of the index bytes (R262). -/
def TileHead.indexAt (t : TileHead) (l : List RByte) (e : Nat) : Nat :=
  let bit := t.indexBits * e
  ((l[bit / 8]?.map (fun b => b.b.toNat)).getD 0) / 2 ^ (bit % 8) % 2 ^ t.indexBits

/-- The offset from T of the byte that holds index e. -/
def TileHead.indexByte (t : TileHead) (e : Nat) : Nat := 8 + t.valueBytes + t.indexBits * e / 8

/-- The checks of one index (R264). -/
def TileHead.indexSub (t : TileHead) (l : List RByte) (e : Nat) : Option Nat :=
  if t.m ≤ t.indexAt l e then some 0x08
  else if e % t.n ≠ 0 ∧ t.indexAt l e ≤ t.indexAt l (e - 1) then some 0x09
  else none

/-- The kept count of a position column of a block of M tile rows by one group. -/
def TileHead.columnCount (t : TileHead) (l : List RByte) (rb g j : Nat) : Nat :=
  (List.range t.m).foldl (fun c i =>
    (List.range t.n).foldl (fun c s => if t.indexAt l (((rb * t.m + i) * t.kg + g) * t.n + s) = j then c + 1 else c) c) 0

/-- The TRANS check (R264): the offset of the offending byte. -/
def TileHead.transFault (t : TileHead) (l : List RByte) : Option Nat :=
  if t.rows % t.m ≠ 0 then some 0
  else (List.range (t.rows / t.m)).findSome? (fun rb => (List.range t.kg).findSome? (fun g =>
    if (List.range t.m).all (fun j => t.columnCount l rb g j == t.n) then none else some (t.indexByte (rb * t.m * t.kg * t.n + g * t.n))))

/-- The first check of R264 that a header's indices fail: its sub-code and the offset of the offending byte. -/
def TileHead.indexFault (t : TileHead) (l : List RByte) : Option (Nat × Nat) :=
  if !t.sparse then none
  else match (List.range t.count).findSome? (fun e => (t.indexSub l e).map (fun sub => (sub, t.indexByte e))) with
    | some f => some f
    | none => if t.trans then (t.transFault l).map (fun off => (0x0A, off)) else none

/-- The range of the index bytes of a tile at T, empty where it has none. -/
def TileHead.indexRange (t : TileHead) (va : Nat) : List (Nat × Nat) :=
  if t.rawIndexBytes = 0 then [] else [((va + 8 + t.valueBytes) % 2 ^ 64, t.rawIndexBytes)]

/-! Prediction (R275). -/

def ceilDiv (a b : Nat) : Nat := (a + b - 1) / b

/-- The fill weight f8 of R265. -/
def fillWeight (latcl : Nat) : Nat := 8 - 2 * latcl

/-- The predicted cycles of a tile with the given KG and ROWS (R275). -/
def predict (t : TileHead) (kg rows w h mrows d : Nat) : Nat :=
  if t.sparse && t.n == 0 then 0
  else
    let c := ceilDiv (kg * t.kept * fillWeight t.latcl) 8
    ceilDiv c (4 * h) * ceilDiv rows (512 * w) * (mrows * d + 4 * h + 4 * w + 8)

/-- The systolic region of a number in the region of a cell (R246). -/
def State.systolic (s : State) (cell k : Nat) : Option Systolic :=
  match s.cell? cell with
  | none => none
  | some c => match s.region? c.rid with
    | none => none
    | some r => match r.sys[k]? with
      | some y => if y.on then some y else none
      | none => none

/-! Reading headers (R277). -/

/-- Issue NMHDR or NMCHK: a misaligned tile address raises PROT. -/
def issueTile (i : Instr) (p : BitVec 6) (va : Nat) (o : Opnds) (more : List Tok) (s s' : State) : State :=
  if va % 8 ≠ 0 then s'.opcodeFault s.site codeProt i
  else s'.startReads s.site i o more p.toNat va [(va, 8)]

/-- NMHDR (R277). -/
def execNmhdr (p : BitVec 6) (c0 : Consumer) (s : State) : Result :=
  issueCtl (.nmhdr p c0) s (fun s' o => issueTile (.nmhdr p c0) p (joinWords (tokVal o.l) (tokVal o.r)).toNat o [] s s')

/-- NMCHK (R277). -/
def execNmchk (p : BitVec 6) (c0 : Consumer) (s : State) : Result :=
  issueCtl (.nmchk p c0) s (fun s' _ =>
    let ls := s.toks s.site .l 2
    issueTile (.nmchk p c0) p (pairAt ls 0) (markedOps ls []) ls s s')

/-- NMHDR once its header has been read. -/
def State.nmhdrRead (s : State) (a : Access) : Performed :=
  let l := a.rbytes
  .done s [a.derived (BitVec.ofNat 32 (rbNat (l.take 4))) (rbBad l), a.derived (BitVec.ofNat 32 (rbNat ((l.drop 4).take 4))) (rbBad l)]

/-- NMCHK once a read of it is complete. -/
def State.nmchkRead (s : State) (a : Access) : Performed :=
  let l := a.rbytes
  let h := rbNat (l.take 8)
  let t := tileHead h
  let answer (sub off : Nat) : Performed := .done s [a.derived (BitVec.ofNat 32 (sub + off * 256)) (rbBad l)]
  match headSub h with
  | some sub => answer sub 0
  | none =>
    if l.length < 8 + t.rawIndexBytes then
      let (s, a) := s.extend a (t.indexRange a.va)
      .later s a
    else match t.indexFault (l.drop 8) with
      | some (sub, off) => answer sub off
      | none => answer 0 0

/-- NMEST (R277): a prediction from three tokens. -/
def execNmest (p : BitVec 6) (c0 : Consumer) (s : State) : Result :=
  issueCtl (.nmest p c0) s (fun s' _ =>
    let ls := s.toks s.site .l 3
    let shape := (tokAt ls 2).toNat
    let h := pairAt ls 0
    let t := tileHead h
    match s.systolic s.site.cell (shape % 4), matrixFmt (shape / 2 ^ 18 % 16) with
    | some y, some af =>
      if 2 ^ 22 ≤ shape then s'.opcodeFault s.site codeProt (.nmest p c0)
      else
        let v := if (headSub h).isSome then 0xFFFFFFFF else min 0xFFFFFFFE (predict t t.kg t.rows y.w y.h (shape / 4 % 2 ^ 16 + 1) af.digits)
        s'.emit s.site c0 ⟨BitVec.ofNat 32 v, firstMark (ls.map some)⟩
    | some _, none | none, some _ | none, none => s'.opcodeFault s.site codeProt (.nmest p c0))

/-! PRUNE (R265 to R270). -/

/-- A descriptor of PRUNE (R269). -/
structure PruneDesc where
  src : Nat
  dst : Nat
  pat : Nat
  lds : Int
  rows : Nat
  k : Nat
  n : Nat
  lgm : Nat
  deriving DecidableEq, Repr

def pruneDesc (d : List Byte) : PruneDesc :=
  { src := fieldAt d 0 8, dst := fieldAt d 8 8, pat := fieldAt d 0x10 8, lds := sfieldAt d 0x18 4, rows := fieldAt d 0x1C 2,
    k := fieldAt d 0x1E 2, n := fieldAt d 0x20 4 % 16, lgm := fieldAt d 0x20 4 / 16 % 4 }

def PruneDesc.m (d : PruneDesc) : Nat := 2 ^ (d.lgm + 1)

/-- The tile that PRUNE makes, but for LATCL. -/
def PruneDesc.tile (d : PruneDesc) (f : Fmt) (trans : Bool) : TileHead :=
  { n := d.n, lgm := d.lgm, sparse := true, trans := trans, fmt := f.code, ixw := if d.m ≤ 4 then 0 else 1, low := 0, rows := d.rows,
    kg := d.k / d.m, vcount := d.rows * (d.k / d.m) * d.n % 2 ^ 21, latcl := 0 }

/-- The bytes of the pattern bitmap (R269). -/
def PruneDesc.patBytes (d : PruneDesc) : Nat := (d.rows * d.k + 63) / 64 * 8

/-- The source rows. -/
def PruneDesc.source (d : PruneDesc) (f : Fmt) : List (Nat × Nat) :=
  (List.range d.rows).map (fun (r : Nat) => (vaPlus d.src (r * d.lds), packedBytes f d.k))

/-- The cases of BADDESC of PRUNE (R270). -/
def PruneDesc.bad (d : PruneDesc) (raw : List Byte) (f : Fmt) (trans : Bool) : Bool :=
  let tile := [(d.dst, (d.tile f trans).size)]
  let pat := if d.pat = 0 then [] else [(d.pat, d.patBytes)]
  d.rows == 0 || decide (512 < d.rows) || d.k == 0 || d.k % d.m != 0 || decide (256 * d.m < d.k) || decide (d.m ≤ d.n) ||
    decide (64 ≤ fieldAt raw 0x20 4) || (raw.drop 0x24).any (· != 0) || (trans && d.rows % d.m != 0) || d.dst % 8 != 0 || d.pat % 8 != 0 ||
    listsMeet tile pat || listsMeet tile (d.source f) || listsMeet pat (d.source f)

/-- Whether one element's key is greater than another's (R266). -/
def keyOver (a b : Val) : Bool :=
  if a.isNan then !b.isNan else if b.isNan then false else ordVal a.abs b.abs == .gt

/-- The positions that a group keeps without TRANS, ascending (R267). -/
def keepGroup (n m : Nat) (key : Nat → Val) : List Nat :=
  (List.range m).filter (fun j => decide (((List.range m).filter (fun i =>
    keyOver (key i) (key j) || (decide (i < j) && !keyOver (key j) (key i)))).length < n))

/-- A position put into a list that is ordered by key, after those whose key is not less. -/
def insertKey (key : Nat → Nat → Val) (x : Nat × Nat) : List (Nat × Nat) → List (Nat × Nat)
  | [] => [x]
  | y :: rest => if keyOver (key x.1 x.2) (key y.1 y.2) then x :: y :: rest else y :: insertKey key x rest

/-- The positions of a block in the order of the greedy pass (R268). -/
def blockOrder (m : Nat) (key : Nat → Nat → Val) : List (Nat × Nat) :=
  ((List.range m).flatMap (fun i => (List.range m).map (fun j => (i, j)))).foldl (fun l x => insertKey key x l) []

def rowCount (sel : List (Nat × Nat)) (i : Nat) : Nat := (sel.filter (fun x => x.1 == i)).length
def colCount (sel : List (Nat × Nat)) (j : Nat) : Nat := (sel.filter (fun x => x.2 == j)).length

/-- The greedy pass (R268). -/
def greedy (n : Nat) (l : List (Nat × Nat)) : List (Nat × Nat) :=
  l.foldl (fun sel x => if rowCount sel x.1 < n ∧ colCount sel x.2 < n then x :: sel else sel) []

/-- A place of the search: a row, or a column. -/
inductive Seat where
  | row (i : Nat)
  | col (j : Nat)
  deriving DecidableEq, Repr

/-- The breadth-first search of the completion (R268): paths in the order found, each from its end back to its start. -/
def seek (n m : Nat) (sel : List (Nat × Nat)) : Nat → List (List Seat) → List Seat → Option (List Seat)
  | 0, _, _ => none
  | fuel + 1, queue, seen =>
    match queue with
    | [] => none
    | path :: rest =>
      match path.head? with
      | some (.row i) =>
        let next := (List.range m).filter (fun j => !sel.contains (i, j) && !seen.contains (.col j))
        match next.find? (fun j => decide (colCount sel j < n)) with
        | some j => some (.col j :: path)
        | none => seek n m sel fuel (rest ++ next.map (fun j => .col j :: path)) (seen ++ next.map .col)
      | some (.col j) =>
        let next := (List.range m).filter (fun i => sel.contains (i, j) && !seen.contains (.row i))
        seek n m sel fuel (rest ++ next.map (fun i => .row i :: path)) (seen ++ next.map .row)
      | none => none

/-- The selection after a path: row-to-column pairs are added, column-to-row pairs are removed. The path is given from its end. -/
def applyPath (sel : List (Nat × Nat)) : List Seat → List (Nat × Nat)
  | .col j :: .row i :: rest => (i, j) :: applyPath sel (.row i :: rest)
  | .row i :: .col j :: rest => (applyPath sel (.col j :: rest)).filter (fun x => x != (i, j))
  | _ => sel

/-- The completion (R268). -/
def complete (n m : Nat) : Nat → List (Nat × Nat) → List (Nat × Nat)
  | 0, sel => sel
  | fuel + 1, sel =>
    match (List.range m).find? (fun i => decide (rowCount sel i < n)) with
    | none => sel
    | some i0 => match seek n m sel (4 * m) [[.row i0]] [.row i0] with
      | some path => complete n m fuel (applyPath sel path)
      | none => sel

/-- The positions that each row of a block keeps under TRANS, ascending (R268). -/
def keepBlock (n m : Nat) (key : Nat → Nat → Val) : List (List Nat) :=
  let sel := complete n m (n * m) (greedy n (blockOrder m key))
  (List.range m).map (fun i => (List.range m).filter (fun j => sel.contains (i, j)))

/-- The kept positions of every tile row and group, in the order of the tile's elements. -/
def PruneDesc.keep (d : PruneDesc) (trans : Bool) (key : Nat → Nat → Val) : List (List (List Nat)) :=
  let kg := d.k / d.m
  if trans then
    let blocks := (List.range (d.rows / d.m)).map (fun rb => (List.range kg).map (fun g =>
      keepBlock d.n d.m (fun i j => key (rb * d.m + i) (g * d.m + j))))
    (List.range d.rows).map (fun r => (List.range kg).map (fun g => (((blocks.getD (r / d.m) []).getD g []).getD (r % d.m) [])))
  else (List.range d.rows).map (fun r => (List.range kg).map (fun g => keepGroup d.n d.m (fun j => key r (g * d.m + j))))

/-- LATCL (R265): the compacted rows whose weights are not all zero, out of all. -/
def latclOf (fill total : Nat) : Nat :=
  if total = 0 ∨ fill = total then 0 else if 3 * total ≤ 4 * fill then 1 else if total ≤ 2 * fill then 2 else 3

/-- The 64 bits of a header, with its CHECK (R261). -/
def TileHead.word (t : TileHead) : Nat :=
  let low := t.n + t.lgm * 2 ^ 4 + t.sparse.toNat * 2 ^ 6 + t.trans.toNat * 2 ^ 7 + t.fmt * 2 ^ 8 + t.ixw * 2 ^ 12 + (t.rows - 1) * 2 ^ 16 +
    (t.kg - 1) * 2 ^ 25 + t.vcount * 2 ^ 33 + t.latcl * 2 ^ 54
  low + (0xA5 + 256 - byteSum (leBytes 7 low) % 256) % 256 * 2 ^ 56

def noMark (l : List Byte) : List RByte := l.map (fun b => ⟨b, false⟩)

/-- The writes of PRUNE in their order, each with the poisoned elements that it holds: values and indices, the bitmap, and last the
header (R269, R270). -/
def pruneWrites (d : PruneDesc) (f : Fmt) (trans : Bool) (src : List RByte) : List (Nat × List RByte × Nat) :=
  let rowBytes := packedBytes f d.k
  let at' (r k : Nat) : Nat × Bool := valueAt f ((src.drop (r * rowBytes)).take rowBytes) k
  let key (r k : Nat) : Val := (wordVal f (BitVec.ofNat 32 (at' r k).1)).1
  let keep := d.keep trans key
  let t := d.tile f trans
  let places := (List.range d.rows).flatMap (fun r => (List.range t.kg).flatMap (fun g =>
    ((keep.getD r []).getD g []).map (fun j => (r, g * d.m + j, j))))
  let values := pad8 (packElems f.width (places.map (fun x => at' x.1 x.2.1)))
  let indices := pad8 (packElems t.indexBits (places.map (fun x => (x.2.2, false))))
  let fill := ((List.range (t.kg * d.n)).filter (fun e => (List.range d.rows).any (fun r =>
    match places[(r * t.kg + e / d.n) * d.n + e % d.n]? with
    | some x => !(key x.1 x.2.1).isZero
    | none => false))).length
  let mask := packBits 1 ((List.range (d.rows * d.k)).map (fun b =>
    ((((keep.getD (b / d.k) []).getD (b % d.k / d.m) []).contains (b % d.m)).toNat)))
  (if values.isEmpty then [] else [((d.dst + 8) % 2 ^ 64, values ++ indices, (places.filter (fun x => (at' x.1 x.2.1).2)).length)]) ++
    (if d.pat = 0 then [] else [(d.pat, noMark (leBytes d.patBytes mask), 0)]) ++
    [(d.dst, noMark (leBytes 8 { t with latcl := latclOf fill (t.kg * d.n) }.word), 0)]

/-- PRUNE (R270): a misaligned descriptor completes BADDESC at once. -/
def execPrune (p : BitVec 6) (f : Fmt) (t : Bool) (c0 : Consumer) (s : State) : Result :=
  issueCtl (.prune p f t c0) s (fun s' o =>
    let addr := (joinWords (tokVal o.l) (tokVal o.r)).toNat
    if addr % 64 ≠ 0 then s'.emit s.site c0 ⟨1, none⟩ else s'.startReads s.site (.prune p f t c0) o [] p.toNat addr [(addr, 64)])

/-- The ranges that PRUNE writes (R233, R270). -/
def PruneDesc.puts (d : PruneDesc) (f : Fmt) (trans : Bool) : List (Nat × Nat) :=
  (d.dst, (d.tile f trans).size) :: (if d.pat = 0 then [] else [(d.pat, d.patBytes)])

/-- PRUNE once its descriptor has been read: it goes on as an engine agent. -/
def State.pruneRead (s : State) (a : Access) (f : Fmt) (t : Bool) : Performed :=
  let raw := a.rbytes.map (fun b => b.b)
  if a.poisoned || (pruneDesc raw).bad raw f t then .done s [⟨1, none⟩]
  else
    let p : Pend := ⟨a.site, a.fire, a.instr, a.ops, [], [], raw, some { s.engOfAccess a with puts := some ((pruneDesc raw).puts f t) }, a.stamp⟩
    .gone { s with pend := s.pend ++ [p] }

/-- Bytes of a waiting instruction with their poison: the notes name the poisoned ones. -/
def Pend.rbytes (p : Pend) : List RByte := p.data.mapIdx (fun i b => ⟨b, p.notes.contains i⟩)

/-- A waiting instruction given bytes, their poison in its notes. -/
def Pend.withBytes (p : Pend) (l : List RByte) : Pend :=
  { p with data := l.map (fun b => b.b), notes := (List.range l.length).filter (fun i => ((l[i]?.map (fun b => b.bad)).getD false)) }

/-- The first byte of the packed element that holds an address, in rows of elements of w bits (R384). -/
def elemStart (w : Nat) (rows : List (Nat × Nat)) (va : Nat) : Nat :=
  match rows.find? (fun r => decide (r.1 ≤ va) && decide (va < r.1 + r.2)) with
  | some r => r.1 + (va - r.1) * 8 / w * w / 8
  | none => va

/-- The status of an engine operation that ends: POISONED where a sink was logged (R254). -/
def Eng.status (e : Eng) : Word := if e.sunk then 3 else 0

/-- A turn of PRUNE: it reads its source, then performs its writes in order, then answers. While it reads, `data` is the
descriptor and `more` is empty; afterwards `data` is the descriptor and the source, and `more` counts the writes performed. -/
def State.pruneStep (s : State) (f : Fmt) (t : Bool) (c0 : Consumer) (p : Pend) : Option State :=
  match p.eng with
  | none => none
  | some e =>
    if e.held.isSome then none
    else
      let keep (s : State) (p : Pend) : State := { s with pend := s.pend ++ [p] }
      let d := pruneDesc p.data
      match p.more with
      | [] =>
        match s.readEng e (elemStart f.width (d.source f)) (d.source f) with
        | (s, e, .bytes l) => some (keep s { ({ p with more := [⟨0, none⟩] }.withBytes (noMark (p.data.take 64) ++ l)) with eng := some { e with poisoned := false } })
        | (s, e, .held) | (s, e, .wait) => some (keep s { p with eng := some e })
        | (s, _, .refused) => some (s.reply p.site c0 [⟨2, none⟩])
      | k :: _ =>
        match (pruneWrites d f t (p.rbytes.drop 64))[k.v.toNat]? with
        | none => some (s.reply p.site c0 [⟨e.status, none⟩])
        | some (va, l, marked) =>
          match s.writeEng e .store e.origin [(va, l.length)] l (some marked) with
          | (s, e, .done) => some (keep s { p with more := [⟨k.v + 1, none⟩], eng := some e })
          | (s, e, .held) | (s, e, .wait) => some (keep s { p with eng := some e })
          | (s, _, .refused) => some (s.reply p.site c0 [⟨2, none⟩])

end Sys2Proof.Machine
end

