-- ==== Sys2Proof/Machine/Matrix.lean ====
section
/-! DEFINITION. Systolic regions (R246 to R258, R377): descriptors, accumulation in the order of R74, ACC40 entries, SYSCFG, WEDGE,
MMA, MMAROW, and the running of an operation row by row. -/

namespace Sys2Proof.Machine

/-! Places (R246). -/

def Systolic.released : Systolic :=
  { on := false, x0 := 0, y0 := 0, w := 1, h := 1, wf := .fp32, cell := 0, port := 0, queue := [], busy := 0, row := 0 }

/-- The cell of a region at a place in it. -/
def State.cellAt (s : State) (rid x y : Nat) : Option Cell := s.cells.find? (fun c => c.rid == rid && c.rx == x && c.ry == y)

/-- Whether a systolic region covers a place of its region. -/
def Systolic.covers (y : Systolic) (px py : Nat) : Bool :=
  y.on && decide (y.x0 ≤ px) && decide (px < y.x0 + y.w) && decide (y.y0 ≤ py) && decide (py < y.y0 + y.h)

/-- Whether an operation is in progress: it has begun to load weights, or it has started. -/
def Systolic.active (y : Systolic) : Bool :=
  match y.queue.head? with
  | some o => o.started || decide (0 < o.loaded) || o.eng.held.isSome
  | none => false

/-- The PE (k, c) of a systolic region: its cell and its PE number. -/
def State.sysPe (s : State) (rid : Nat) (y : Systolic) (k c : Nat) : Option (Cell × Nat) :=
  (s.cellAt rid (y.x0 + c / 4) (y.y0 + k / 4)).map (fun cell => (cell, 4 * (k % 4) + c % 4))

def State.updSys (s : State) (rid k : Nat) (f : Systolic → Systolic) : State :=
  s.updRegion rid (fun r => { r with sys := r.sys.modify k f })

def State.sysAt (s : State) (rid k : Nat) : Systolic :=
  match s.region? rid with
  | some r => r.sys.getD k .released
  | none => .released

/-- The slot-0 instructions that operations and wedges of a region's systolic regions hold (R248). -/
def State.holdSlots (s : State) (rid : Nat) : State :=
  match s.region? rid with
  | none => s
  | some r =>
    { s with cells := s.cells.map (fun c => if c.rid = rid then
        { c with held0 := if r.sys.any (fun y => y.covers c.rx c.ry && (y.active || decide (s.cycle < y.busy))) then List.range 16 else [] }
      else c) }

/-- Current and shadow weights of every PE of a systolic region swapped (R258). -/
def State.sweepWedge (s : State) (rid : Nat) (y : Systolic) : State :=
  { s with cells := s.cells.map (fun c =>
      if c.rid = rid ∧ y.covers c.rx c.ry = true then { c with pes := c.pes.map (fun p => { p with cur := p.shadow, shadow := p.cur }) } else c) }

/-! Descriptors (R249, R250). -/

/-- The path of an operation (R247). -/
inductive SysPath where
  | int | chunked | product
  deriving DecidableEq, Repr

/-- The formats FP4, FP6 and FP8. -/
def smallFloat (f : Fmt) : Bool :=
  match f with
  | .e4m3 | .e5m2 | .e2m3 | .e3m2 | .e2m1 => true
  | .fp32 | .bf16 | .fp16 | .x | .int8 | .int32 | .uint8 | .int4 | .code4 => false

/-- The path of a pair of formats; none where R247 rejects it. -/
def sysPath (af wf : Fmt) : Option SysPath :=
  if !af.matrix || !wf.matrix then none
  else if af == .int8 && wf == .int8 then some .int
  else if af == .int8 || wf == .int8 then none
  else if smallFloat af && smallFloat wf then some .chunked
  else some .product

/-- A matrix operation: the fields of its descriptor, and its output format, rounding and accumulator. -/
structure MatOp where
  a : Nat
  b : Nat
  c : Nat
  lda : Int
  ldb : Int
  ldc : Int
  saoff : Int
  sboff : Int
  m : Nat
  k : Nat
  n : Nat
  af : Option Fmt
  mxa : Bool
  mxb : Bool
  init : Bool
  out : Bool
  sr : Nat
  keepw : Bool
  fmt : Option Fmt
  rm : Rnd
  acc : Nat
  isRow : Bool
  deriving DecidableEq, Repr

/-- The output format, rounding and accumulator of an instruction, or those of a command's FLAGS (R249, R257). -/
def matOut (i : Option Instr) (flags : Nat) : Option Fmt × Rnd × Nat :=
  match i with
  | some (.mma _ acc f rm _) | some (.mmarow _ acc f rm _) | some (.mmasp _ acc f rm _) => (some f, rm, acc.toNat)
  | _ => (Fmt.ofCode (flags / 2 ^ 10 % 16), Rnd.ofCode (flags / 2 ^ 14 % 4), flags / 2 ^ 16 % 4)

def isMmarow (i : Option Instr) : Bool :=
  match i with
  | some (.mmarow _ _ _ _ _) => true
  | _ => false

def matOf (d : List Byte) (i : Option Instr) : MatOp :=
  let fl := fieldAt d 0x3C 4
  let o := matOut i fl
  { a := fieldAt d 0x08 8, b := fieldAt d 0x10 8, c := fieldAt d 0x18 8, lda := sfieldAt d 0x20 4, ldb := sfieldAt d 0x24 4,
    ldc := sfieldAt d 0x28 4, saoff := sfieldAt d 0x2C 4, sboff := sfieldAt d 0x30 4, m := fieldAt d 0x34 2 + 1, k := fieldAt d 0x36 2,
    n := fieldAt d 0x38 2, af := matrixFmt (fl % 16), mxa := bitOf fl 4, mxb := bitOf fl 5, init := bitOf fl 6, out := bitOf fl 7,
    sr := fl / 2 ^ 8 % 4, keepw := bitOf fl 18, fmt := o.1, rm := o.2.1, acc := o.2.2, isRow := isMmarow i }

/-- Blocks of 32 along K. -/
def blocks32 (k : Nat) : Nat := (k + 31) / 32

/-- Row m of A, and of its scales. -/
def MatOp.aRow (o : MatOp) (af : Fmt) (m : Nat) : Nat × Nat := (vaPlus o.a (m * o.lda), packedBytes af o.k)
def MatOp.aScales (o : MatOp) (m : Nat) : Nat × Nat := (vaPlus o.a (o.saoff + (m * blocks32 o.k : Nat)), blocks32 o.k)

/-- Row k of B, and the scales of the block that holds k. -/
def MatOp.bRow (o : MatOp) (wf : Fmt) (k : Nat) : Nat × Nat := (vaPlus o.b (k * o.ldb), packedBytes wf o.n)
def MatOp.bScales (o : MatOp) (k : Nat) : Nat × Nat := (vaPlus o.b (o.sboff + (k / 32 * o.n : Nat)), o.n)

/-- The bits of an element of C. -/
def MatOp.outBits (o : MatOp) : Nat := if o.out then 64 else (o.fmt.getD .fp32).width

/-- Row m of C. -/
def MatOp.cRow (o : MatOp) (m : Nat) : Nat × Nat := (vaPlus o.c (m * o.ldc), (o.n * o.outBits + 7) / 8)

/-- The ranges that an operation reads (R250). -/
def MatOp.reads (o : MatOp) (af wf : Fmt) : List (Nat × Nat) :=
  (List.range o.m).map (o.aRow af) ++ (if o.mxa then (List.range o.m).map o.aScales else []) ++
    (if o.keepw then [] else (List.range o.k).map (o.bRow wf) ++
      (if o.mxb then (List.range (blocks32 o.k)).map (fun c => o.bScales (32 * c)) else []))

/-- The ranges that an operation writes (R250, R254). -/
def MatOp.puts (o : MatOp) : List (Nat × Nat) := if o.c = 0 then [] else (List.range o.m).map o.cRow

/-- The cases of BADDESC that a descriptor and its systolic region show (R250, R257). -/
def MatOp.bad (o : MatOp) (d : List Byte) (isCmd : Bool) (y : Systolic) : Bool :=
  let fl := fieldAt d 0x3C 4
  fieldAt d 0 8 != 0 || !y.on || o.k == 0 || decide (4 * y.h < o.k) || o.n == 0 || decide (512 * y.w < o.n) || fieldAt d 0x3A 2 != 0 ||
    decide (2 ^ 19 ≤ fl) || (!isCmd && fl / 2 ^ 10 % 256 != 0) || (!isCmd && !o.isRow && o.c == 0) || (o.isRow && o.m != 1) ||
    (match o.af, o.fmt with
    | some af, some f => match sysPath af y.wf with
      | none => true
      | some path => (o.mxa && !smallFloat af) || (o.mxb && !smallFloat y.wf) || !f.word || (path == .int && !o.out && f != .int32) ||
          ((o.out || o.init) && (o.c % 8 != 0 || o.ldc % 8 != 0)) ||
          (o.c != 0 && listsMeet ((List.range o.m).map o.cRow) (o.reads af y.wf))
    | some _, none | none, some _ | none, none => true)

/-! Accumulation (R74, R75). -/

/-- A product of an output element: its activation and weight, their MX scales, and a mark. -/
structure Term where
  a : Val
  b : Val
  sa : Byte
  sb : Byte
  mark : Mark
  deriving DecidableEq, Repr

/-- A value times 2^(sa + sb - 254); a scale of 0xFF makes it N. -/
def scaled (mx : Bool) (sa sb : Byte) (v : Val) : Val :=
  if !mx then v else if sa = 0xFF ∨ sb = 0xFF then .nan else v.scale (sa.toNat + sb.toNat - 254)

/-- One chunk: its exact sum, scaled, with NV as R75 raises it: for a Z × I product, and for infinite products of both signs. A chunk
with a NaN operand or an MX scale of 0xFF is N and raises NV for Z × I alone; R75 leaves open whether infinite products of both signs
beside a NaN operand raise it, and the model raises none (DESIGN CHOICE, log 43). -/
def chunkVal (mx : Bool) (l : List Term) : Val × Word :=
  let ps := l.map (fun t => mulVal t.a t.b)
  let zi := ps.foldl (fun f p => f ||| p.2) (0 : Word)
  let (v, fl) := sumAll .rne (ps.map (fun p => p.1))
  match l with
  | [] => (v, 0)
  | t :: _ => if mx && (t.sa == 0xFF || t.sb == 0xFF) then (.nan, zi) else (scaled mx t.sa t.sb v, fl ||| zi)

/-- Terms in chunks of 32. -/
def chunksOf : Nat → List Term → List (List Term)
  | 0, _ => []
  | fuel + 1, l => if l.isEmpty then [] else l.take 32 :: chunksOf fuel (l.drop 32)

/-- The accumulator of one output element along its path, with the flags raised (R74, R247). R74 and R75 give a clamp by sat48 no flag;
the model raises NV for it, as DMAC does by R197 (DESIGN CHOICE, log 43). -/
def accumulateTerms (path : SysPath) (mx : Bool) (start : Lane) (l : List Term) : Lane × Word :=
  let steps : List (Val × Word) := match path with
    | .int | .chunked => (chunksOf l.length l).map (chunkVal mx)
    | .product => l.map (fun t => let (v, fl) := mulVal t.a t.b; (scaled mx t.sa t.sb v, fl))
  let (v, fl) := steps.foldl (fun (x : Val × Word) t =>
    let (v, fl) := addTerm (path == .int) x.1 t.1
    (v, x.2 ||| fl ||| t.2)) (start.val, 0)
  (⟨v, start.mark.or (l.foldr (fun t m => t.mark.or m) none)⟩, fl)

/-! ACC40 entries (R251). -/

/-- The entry of an accumulator. -/
def entryOf (int : Bool) (v : Val) : Nat :=
  if int then 2 ^ 63 + ((intOf v).emod (2 ^ 48)).toNat
  else match v with
    | .zero n => n.toNat * 2 ^ 51
    | .inf n => n.toNat * 2 ^ 51 + 2 * 2 ^ 52
    | .nan => 3 * 2 ^ 52
    | .fin n m e =>
      let ex : Int := e + Nat.log2 m + 1023
      let (sig, field) : Nat × Nat := if 1 ≤ ex then (m * 2 ^ (39 - Nat.log2 m), ex.toNat) else (m * 2 ^ (e + 1061).toNat, 0)
      sig + field * 2 ^ 40 + n.toNat * 2 ^ 51 + 2 ^ 52

/-- The start of an element from an entry, with NV where R251 refuses it. -/
def entryVal (int : Bool) (x : Nat) : Val × Word :=
  let kind := bitOf x 63
  let sig := x % 2 ^ 40
  let ex : Nat := x / 2 ^ 40 % 2 ^ 11
  let neg := bitOf x 51
  if int then
    if !kind || x / 2 ^ 48 % 2 ^ 15 != 0 then (.zero false, flagNV) else (Val.ofInt (signedOf 48 (x % 2 ^ 48)), 0)
  else if kind || x / 2 ^ 54 % 2 ^ 9 != 0 || ex == 2047 then (.nan, flagNV)
  else match x / 2 ^ 52 % 4 with
    | 0 => (.zero neg, 0)
    | 1 => (Val.mk neg sig ((max ex 1 : Nat) - 1062), 0)
    | 2 => (.inf neg, 0)
    | _ => (.nan, 0)

/-! Engine writes of elements that need not fill their bytes. -/

/-- Elements of w bits placed from a bit of the first byte on, with the mask of their bits. -/
def placeElems (bit w : Nat) (l : List (Nat × Bool)) : List RByte × List Byte :=
  let n := packBits w (l.map (fun x => x.1)) * 2 ^ bit
  let mask := (2 ^ (w * l.length) - 1) * 2 ^ bit
  let bytes := (bit + w * l.length + 7) / 8
  ((List.range bytes).map (fun k =>
    let lo := (8 * k - bit) / w
    let hi := (8 * k + 7 - bit) / w
    ⟨BitVec.ofNat 8 (n / 2 ^ (8 * k)), ((l.drop lo).take (hi + 1 - lo)).any (fun x => x.2)⟩), leBytes bytes mask)

/-- Write the bytes of reached requests under their masks; answers the addresses of the first poisoned bytes of the lines. -/
def MemSys.scatterBits (m : MemSys) (now tag : Nat) : List Span → List RByte → List Byte → MemSys × List Nat
  | [], _, _ => (m, [])
  | x :: rest, l, masks =>
    let mine := l.take x.n
    let mm := masks.take x.n
    let bad := mine.any (fun b => b.bad)
    let (m, _) := if mm.all (· == 0xFF) then m.write now tag x.pa (mine.map (fun b => b.b)) bad
      else m.writeBits now tag x.pa mm (mine.map (fun b => b.b)) bad
    let (m, more) := m.scatterBits now tag rest (l.drop x.n) (masks.drop x.n)
    (m, if bad then (x.va + mine.findIdx (fun (b : RByte) => b.bad)) :: more else more)

/-- An attempt to perform a write of elements. -/
def State.putEng (s : State) (e : Eng) (w : EngPut) : State × Eng × Put :=
  match s.reach e .store [(w.va, w.bytes.length)] with
  | (s, .ok spans) =>
    let s := s.moves e spans
    let (m, bad) := s.mem.scatterBits s.cycle e.ctx spans w.bytes w.masks
    let (s, e) := { s with mem := m }.engSinks e.served w.origin bad (some w.elems)
    (s, e, .done)
  | (s, .fault code va) =>
    let (s, e) := s.holdEng e code va .store
    (s, e, .held)
  | (s, .refused va) => (s.raiseEng e codeProt 0 false (BitVec.ofNat 64 va) (accessAux (e.port.getD 0) true false), e, .refused)
  | (s, .wait) => (s.sends e, e.waits s.cycle, .wait)

/-! SYSCFG (R256). -/

/-- Whether the instruction at a site stands in a block of KIND 2 (R16, R256). -/
def State.matrixBlock (s : State) (t : Site) : Bool :=
  match s.block? t with
  | some b => b.kind == 2
  | none => false

/-- Issue of an instruction that needs a block of KIND 2; elsewhere it raises PROT. -/
def issueMatrix (i : Instr) (s : State) (effect : State → Opnds → State) : Result :=
  issueCtl i s (fun s' o => if s.matrixBlock s.site then effect s' o else s'.opcodeFault s.site codeProt i)

def State.ridOf (s : State) (cell : Nat) : Nat :=
  match s.cell? cell with
  | some c => c.rid
  | none => 0

/-- Whether a systolic region has no operation in progress or queued; a sparse operation counts on each region that it has chosen, from
the reading of its descriptor to its end (R256, R376). -/
def State.sysIdle (s : State) (rid k : Nat) : Bool :=
  (s.sysAt rid k).queue.isEmpty && !s.pend.any (fun p => decide (s.ridOf p.site.cell = rid) && (match p.instr with
    | .mmasp _ _ _ _ _ => decide (0 < p.more.length) && (tokAt p.more 0).getLsbD k
    | _ => false))

/-- The rectangle of SYSCFG's l token. -/
def sysRect (l : Word) : Nat × Nat × Nat × Nat :=
  (l.toNat % 32, l.toNat / 2 ^ 5 % 32, l.toNat / 2 ^ 10 % 32 + 1, l.toNat / 2 ^ 15 % 32 + 1)

/-- The operands that SYSCFG refuses whatever waits (R256). -/
def sysBad (r : Option Region) (l en : Word) : Bool :=
  let (x, y, w, h) := sysRect l
  decide (2 ≤ en.toNat) || (en.getLsbD 0 && (decide (2 ^ 22 ≤ l.toNat) || (match r with
    | some r => decide (r.w < x + w) || decide (r.h < y + h)
    | none => true)))

/-- Whether a rectangle meets another established systolic region. -/
def sysMeets (sys : List Systolic) (k x y w h : Nat) : Bool :=
  (List.range sys.length).any (fun j => match sys[j]? with
    | some z => decide (j ≠ k) && z.on && decide (x < z.x0 + z.w) && decide (z.x0 < x + w) && decide (y < z.y0 + z.h) && decide (z.y0 < y + h)
    | none => false)

/-- The entry that a reply was to use is given back (R328: a fault that drops an instruction emits nothing). -/
def State.release (s : State) (t : Site) (c : Consumer) : State :=
  s.updBlock t (fun b => match c with
    | none => b
    | some g => b.updSlot g.index.toNat (fun sl => sl.updField g.field (fun q => { q with resv := q.resv - 1 })))

def State.syscfgAttempt (s : State) (p : BitVec 6) (f : Fmt) (c0 : Consumer) (q : Pend) : Option State :=
  let rid := s.ridOf q.site.cell
  let l := tokVal q.ops.l
  let k := l.toNat / 2 ^ 20 % 4
  if !s.sysIdle rid k || decide (s.cycle < (s.sysAt rid k).busy) then none
  else
    let (x, y, w, h) := sysRect l
    if !(tokVal q.ops.r).getLsbD 0 then some ((s.updSys rid k (fun _ => .released)).reply q.site c0 [⟨0, none⟩])
    else if sysMeets ((s.region? rid).map (fun r => r.sys) |>.getD []) k x y w h then
      some ((s.opcodeFault q.site codeProt q.instr (some q.stamp)).release q.site c0)
    else some ((s.updSys rid k (fun _ => { Systolic.released with
      on := true, x0 := x, y0 := y, w := w, h := h, wf := f, cell := q.site.cell, port := p.toNat })).reply q.site c0 [⟨0, none⟩])

/-- SYSCFG (R256). -/
def execSyscfg (p : BitVec 6) (f : Fmt) (c0 : Consumer) (s : State) : Result :=
  issueMatrix (.syscfg p f c0) s (fun s' o =>
    if sysBad (s.region? (s.ridOf s.site.cell)) (tokVal o.l) (tokVal o.r) then s'.opcodeFault s.site codeProt (.syscfg p f c0)
    else
      let s' := (s'.reserveAll s.site [(c0, 1)]).wait s.site (.syscfg p f c0) o [] []
      s'.tryPend (s'.pend.length - 1) (fun s q => s.syscfgAttempt p f c0 q))

/-! WEDGE (R258). -/

/-- A turn of WEDGE: the sweep begins once no operation is in progress; its last cell has swapped W + H - 1 cycles later. -/
def State.wedgeAttempt (s : State) (c0 : Consumer) (q : Pend) : Option State :=
  let rid := s.ridOf q.site.cell
  let k := (tokVal q.ops.l).toNat % 4
  let y := s.sysAt rid k
  match q.notes with
  | [] =>
    if y.active || decide (s.cycle < y.busy) then none
    else
      let due := s.cycle + y.w + y.h - 1
      let s := (s.sweepWedge rid y).updSys rid k (fun y => { y with busy := due })
      some ({ s with pend := s.pend ++ [{ q with notes := [due] }] }.holdSlots rid)
  | due :: _ => if due ≤ s.cycle then some ((s.holdSlots rid).reply q.site c0 [⟨0, none⟩]) else none

/-- WEDGE (R258). -/
def execWedge (c0 : Consumer) (s : State) : Result :=
  issueMatrix (.wedge c0) s (fun s' o =>
    if 4 ≤ (tokVal o.l).toNat ∨ (s.sysAt (s.ridOf s.site.cell) ((tokVal o.l).toNat % 4)).on = false then
      s'.opcodeFault s.site codeProt (.wedge c0)
    else
      let s' := (s'.reserveAll s.site [(c0, 1)]).wait s.site (.wedge c0) o [] []
      s'.tryPend (s'.pend.length - 1) (fun s q => s.wedgeAttempt c0 q))

/-! MMA and MMAROW (R257). -/

/-- Issue of an instruction with a 64-byte descriptor: a misaligned address completes BADDESC at once. -/
def issueDesc (i : Instr) (p : BitVec 6) (c0 : Consumer) (s : State) : Result :=
  issueMatrix i s (fun s' o =>
    let addr := (joinWords (tokVal o.l) (tokVal o.r)).toNat
    if addr % 64 ≠ 0 then s'.emit s.site c0 ⟨1, none⟩ else s'.startReads s.site i o [] p.toNat addr [(addr, 64)])

/-- MMA (R257). -/
def execMma (p : BitVec 6) (acc : BitVec 2) (f : Fmt) (rm : Rnd) (c0 : Consumer) (s : State) : Result :=
  issueDesc (.mma p acc f rm c0) p c0 s

/-- MMAROW (R257). -/
def execMmarow (p : BitVec 6) (acc : BitVec 2) (f : Fmt) (rm : Rnd) (c0 : Consumer) (s : State) : Result :=
  issueDesc (.mmarow p acc f rm c0) p c0 s

/-- MMASP (R278). -/
def execMmasp (p : BitVec 6) (acc : BitVec 2) (f : Fmt) (rm : Rnd) (c0 : Consumer) (s : State) : Result :=
  issueDesc (.mmasp p acc f rm c0) p c0 s

/-- MMA or MMAROW once its descriptor has been read: BADDESC, or it waits to be accepted; the notes hold the cycle of the read. -/
def State.mmaRead (s : State) (a : Access) : Performed :=
  let d := a.rbytes.map (fun b => b.b)
  let o := matOf d (some a.instr)
  let y := s.sysAt (s.ridOf a.site.cell) o.sr
  if a.poisoned || o.bad d false y then .done s [⟨1, none⟩]
  else .gone { s with pend := s.pend ++ [⟨a.site, a.fire, a.instr, a.ops, [], [s.cycle], d, some { s.engOfAccess a with puts := some o.puts }, a.stamp⟩] }

def SysOp.fresh (e : Eng) (i : Option Instr) (cmd : Option Nat) (d : List Byte) (bands : List (List TileRef)) : SysOp :=
  { eng := e, instr := i, cmd := cmd, desc := d, bands := bands, started := false, swept := 0, loaded := 0, wts := [], row := 0, out := none,
    status := 0, inits := none }

/-- Whether a systolic region has room for one more operation: at most 4 are queued besides the one in progress (R252, R257). -/
def Systolic.room (y : Systolic) : Bool := decide (y.queue.length < if y.active then 5 else 4)

/-- Whether an MMA or MMAROW of the same systolic region, whose descriptor was read earlier, still waits for room (R257). -/
def State.earlierMma (s : State) (rid k : Nat) (p : Pend) : Bool :=
  s.pend.any (fun q => decide (s.ridOf q.site.cell = rid) && (match q.instr with
    | .mma _ _ _ _ _ | .mmarow _ _ _ _ _ =>
      decide ((matOf q.data (some q.instr)).sr = k) && (match q.notes, p.notes with
        | t :: _, u :: _ => decide (t < u) || (decide (t = u) && decide (q.site.cell < p.site.cell)) ||
            (decide (t = u) && decide (q.site.cell = p.site.cell) && decide (q.stamp < p.stamp))
        | _, _ => false)
    | _ => false))

/-- A turn of a waiting MMA or MMAROW: it is accepted in a cycle after that of its read, when there is room and none goes before it; BADDESC
where the systolic region is no longer one that its descriptor fits (R250, R257). -/
def State.mmaAttempt (s : State) (c0 : Consumer) (p : Pend) : Option State :=
  let rid := s.ridOf p.site.cell
  let k := (matOf p.data (some p.instr)).sr
  match p.notes, p.eng with
  | t :: _, some e =>
    if (matOf p.data (some p.instr)).bad p.data false (s.sysAt rid k) then some (s.reply p.site c0 [⟨1, none⟩])
    else if decide (t < s.cycle) && (s.sysAt rid k).room && !s.earlierMma rid k p then
      some ({ s with pend := s.pend ++ [{ p with notes := [] }] }.updSys rid k (fun y =>
        { y with queue := y.queue ++ [SysOp.fresh e (some p.instr) none p.data []] }))
    else none
  | _, _ => none

/-! Running an operation (R252, R255). -/

/-- The weights of PE (k, c) of a systolic region. -/
def State.sysWeights (s : State) (rid : Nat) (y : Systolic) (k c : Nat) : Weights :=
  match s.sysPe rid y k c with
  | some (cell, pe) => (cell.pe pe).cur
  | none => .zero

/-- The shadow weights of PE row k set, from column n's lane and scale. -/
def State.setShadowRow (s : State) (rid : Nat) (y : Systolic) (k : Nat) (w : Nat → Lane) (mx : Option (Nat → Byte)) : State :=
  (List.range (4 * y.w)).foldl (fun s c => match s.sysPe rid y k c with
    | none => s
    | some (cell, pe) => s.updCell cell.num (fun cell => cell.updPe pe (fun p =>
        { p with shadow := ⟨lanes128 (fun l => w (128 * c + l)), match mx with
          | some f => lanes128 (fun l => f (128 * c + l))
          | none => [], y.wf⟩ }))) s

/-- Element k of bytes read, as a lane. An operand raises no flag of its own (R75). -/
def elemLane (f : Fmt) (l : List RByte) (e : Eng) (k : Nat) : Lane :=
  let (v, bad) := packedAt f l k
  ⟨(wordVal f v).1, if bad then some e.origin else none⟩

/-- One attempt to load PE row k: its row of B, and under MXB the scales of its block. -/
def State.loadRow (s : State) (rid : Nat) (y : Systolic) (o : MatOp) (x : SysOp) : State × SysOp :=
  if o.k ≤ x.loaded then
    ((List.range (4 * y.h - x.loaded)).foldl (fun s i => s.setShadowRow rid y (x.loaded + i) (fun _ => .zero) none) s, { x with loaded := 4 * y.h })
  else
    let ranges := o.bRow y.wf x.loaded :: (if o.mxb then [o.bScales x.loaded] else [])
    match s.readEng x.eng (elemStart y.wf.width [o.bRow y.wf x.loaded]) ranges with
    | (s, e, .bytes l) =>
      let n := packedBytes y.wf o.n
      let scales := l.drop n
      let lane (j : Nat) : Lane := if j < o.n then
          let v := elemLane y.wf l e j
          if (scales[j]?.map (fun b => b.bad)).getD false then { v with mark := some e.origin } else v
        else .zero
      (s.setShadowRow rid y x.loaded lane (if o.mxb then some (fun j => (scales[j]?.map (fun b => b.b)).getD 127) else none),
        { x with eng := e, loaded := x.loaded + 1 })
    | (s, e, .held) | (s, e, .wait) => (s, { x with eng := e })
    | (s, e, .refused) => (s, { x with eng := e, status := 2 })

/-- The KIND of the south-edge accumulators that hold the first N columns is that of the path (R250). -/
def State.kindsAgree (s : State) (rid : Nat) (y : Systolic) (o : MatOp) (int : Bool) : Bool :=
  (List.range ((o.n + 127) / 128)).all (fun c => match s.sysPe rid y (4 * y.h - 1) c with
    | some (cell, pe) => ((cell.pe pe).accReg o.acc).int == int
    | none => true)

/-- The path of an operation in a systolic region. -/
def MatOp.path (o : MatOp) (wf : Fmt) : SysPath := ((o.af.bind (fun af => sysPath af wf))).getD .product

/-- The accumulator lane of output column n at the south edge. -/
def State.southLane (s : State) (rid : Nat) (y : Systolic) (acc n : Nat) : Lane :=
  match s.sysPe rid y (4 * y.h - 1) (n / 128) with
  | some (cell, pe) => laneAt ((cell.pe pe).accReg acc).lanes (n % 128)
  | none => .zero

/-- The accumulators of the south edge given lanes 0 to length - 1, and the KIND of the path; other lanes are unchanged (R252). -/
def State.setSouth (s : State) (rid : Nat) (y : Systolic) (acc : Nat) (int : Bool) (lanes : List Lane) : State :=
  (List.range ((lanes.length + 127) / 128)).foldl (fun s c => match s.sysPe rid y (4 * y.h - 1) c with
    | none => s
    | some (cell, pe) => s.updCell cell.num (fun cell => cell.updPe pe (fun p =>
        let old := (p.accReg acc).lanes
        p.setAcc acc ⟨int, lanes128 (fun l => (lanes[128 * c + l]?).getD (laneAt old l))⟩))) s

/-- The words or entries of a row of accumulators as elements, with the flags of the rounding (R76, R252). -/
def MatOp.outElems (o : MatOp) (int : Bool) (lanes : List Lane) : List (Nat × Bool) × Word :=
  let l := lanes.map (fun x => if o.out then ((entryOf int x.val, x.mark.isSome), (0 : Word))
    else
      let (w, fl) := toWord (o.fmt.getD .fp32) o.rm (Exact.of x.val)
      ((w.toNat, x.mark.isSome), fl))
  (l.map (fun x => x.1), l.foldl (fun f x => f ||| x.2) 0)

/-- A scale byte of a list, 127 where the operand is not MX. -/
def scaleAt (mx : Bool) (l : List RByte) (i : Nat) (e : Eng) : Byte × Mark :=
  if mx then match l[i]? with
    | some b => (b.b, if b.bad then some e.origin else none)
    | none => (127, none)
  else (127, none)

/-- The start of output column n of a row under INIT: the entry read for it, or the south-edge lane (R249). -/
def State.initLane (s : State) (rid : Nat) (y : Systolic) (o : MatOp) (int : Bool) (entries : List RByte) (e : Eng) (n : Nat) : Lane × Word :=
  if !o.init then (.zero, 0)
  else if o.isRow then (s.southLane rid y o.acc n, 0)
  else
    let mine := (entries.drop (8 * n)).take 8
    let (v, fl) := entryVal int (rbNat mine)
    (⟨v, if rbBad mine then some e.origin else none⟩, fl)

/-- The C write of a row, and what it does when it has been performed. -/
def State.writeRow (s : State) (x : SysOp) (w : EngPut) : State × SysOp :=
  match s.putEng x.eng w with
  | (s, e, .done) => (s, { x with eng := e, out := none })
  | (s, e, .held) | (s, e, .wait) => (s, { x with eng := e, out := some w })
  | (s, e, .refused) => (s, { x with eng := e, out := none, status := 2 })

/-- The energy of a row (R356): each of `work` weights emits the digits of the row's activation in its lane (log 60). -/
def State.chargeRow (s : State) (e : Eng) (af : Fmt) (work : Nat) : State := { s with mem := s.mem.charge e.ctx 0 (66 * (work * af.digits)) }

/-- A row that has been computed: its charge, its flags, its accumulators and its C write (R252). -/
def State.finishRow (s : State) (rid : Nat) (y : Systolic) (o : MatOp) (x : SysOp) (row n0 work : Nat) (lanes : List (Lane × Word)) (south : Bool) : State × SysOp :=
  let s := s.chargeRow x.eng (o.af.getD .fp32) work
  let int := o.path y.wf == .int
  let accs := lanes.map (fun l => l.1)
  let (elems, fl) := o.outElems int accs
  let s := s.engFlags x.eng (allFlags lanes ||| (if o.c = 0 then 0 else fl))
  let s := if south then s.setSouth rid y o.acc int (accs.take (512 * y.w)) else s
  let x := { x with row := row + 1 }
  if o.c = 0 then (s, x)
  else
    let bit := n0 * o.outBits
    let (bytes, masks) := placeElems (bit % 8) o.outBits elems
    let w : EngPut := ⟨vaPlus o.c (row * o.ldc + (bit / 8 : Nat)), bytes, masks, (accs.findSome? (fun a => a.mark)).getD x.eng.origin,
      (elems.filter (fun x => x.2)).length⟩
    s.writeRow x w

/-- The ranges of row m of A: its elements and its scales. -/
def MatOp.rowRanges (o : MatOp) (af : Fmt) (m : Nat) : List (Nat × Nat) := o.aRow af m :: (if o.mxa then [o.aScales m] else [])

/-- The entries of n columns from n0 on in row m of C (R249, R251). -/
def MatOp.entryRange (o : MatOp) (m n0 n : Nat) : Nat × Nat := (vaPlus o.c (m * o.ldc + (8 * n0 : Nat)), 8 * n)

/-- One attempt to run the next row of a dense operation. -/
def State.runRow (s : State) (rid : Nat) (y : Systolic) (o : MatOp) (x : SysOp) : State × SysOp :=
  let af := o.af.getD .fp32
  match s.readEng x.eng (elemStart af.width [o.aRow af x.row]) (o.rowRanges af x.row ++ (if o.init && !o.isRow then [o.entryRange x.row 0 o.n] else [])) with
  | (s, e, .bytes l) =>
    let x := { x with eng := e }
    let na := packedBytes af o.k
    let ns := if o.mxa then blocks32 o.k else 0
    let acts := (List.range o.k).map (elemLane af l e)
    let weights := (List.range o.k).map (fun k => (List.range (4 * y.w)).map (fun c => s.sysWeights rid y k c))
    let lane (n : Nat) : Lane × Word :=
      let (start, fl0) := s.initLane rid y o (o.path y.wf == .int) (l.drop (na + ns)) e n
      let terms := (acts.zip weights).mapIdx (fun k aw =>
        let w := aw.2.getD (n / 128) .zero
        let b := laneAt w.lanes (n % 128)
        let (sa, ma) := scaleAt o.mxa (l.drop na) (k / 32) e
        let sb : Byte := if o.mxb then w.mx.getD (n % 128) 127 else 127
        (⟨aw.1.val, b.val, sa, sb, aw.1.mark.or (ma.or b.mark)⟩ : Term))
      let (acc, fl) := accumulateTerms (o.path y.wf) (o.mxa || o.mxb) start terms
      (acc, fl0 ||| fl)
    s.finishRow rid y o x x.row 0 (o.k * o.n) ((List.range o.n).map lane) true
  | (s, e, .held) | (s, e, .wait) => (s, { x with eng := e })
  | (s, e, .refused) => (s, { x with eng := e, status := 2 })

end Sys2Proof.Machine
end

