-- ==== Sys2Proof/Machine/Systolic.lean ====
section
/-! DEFINITION. MMASP (R271 to R276, R278, R376), and the steps of the operations of systolic regions (R252, R254, R255). -/

namespace Sys2Proof.Machine

/-! The descriptor and directory of MMASP (R272). -/

/-- The fields of an MMASP descriptor that MMA does not have. -/
structure SpDesc where
  tdir : Nat
  nt : Nat
  tra : Bool
  smask : Nat
  deriving DecidableEq, Repr

def spDesc (d : List Byte) : SpDesc :=
  let fl := fieldAt d 0x3C 4
  ⟨fieldAt d 0x10 8, fieldAt d 0x2C 4, bitOf fl 8, fl / 2 ^ 9 % 16⟩

/-- The operation of an MMASP: K is KTOT and N is NTOT. -/
def spMat (d : List Byte) (i : Instr) : MatOp :=
  let fl := fieldAt d 0x3C 4
  let o := matOut (some i) 0
  { a := fieldAt d 0x08 8, b := 0, c := fieldAt d 0x18 8, lda := sfieldAt d 0x20 4, ldb := 0, ldc := sfieldAt d 0x24 4,
    saoff := sfieldAt d 0x28 4, sboff := 0, m := fieldAt d 0x30 2 + 1, k := fieldAt d 0x34 4, n := fieldAt d 0x38 4,
    af := matrixFmt (fl % 16), mxa := bitOf fl 4, mxb := bitOf fl 5, init := bitOf fl 6, out := bitOf fl 7, sr := 0, keepw := true,
    fmt := o.1, rm := o.2.1, acc := o.2.2, isRow := false }

/-- The established regions of SMASK, by number (R376). -/
def spRegions (sys : List Systolic) (smask : Nat) : List Nat :=
  [0, 1, 2, 3].filter (fun k => bitOf smask k && (sys.getD k .released).on)

/-- The cases of BADDESC that the descriptor itself shows (R273). -/
def spBad (d : List Byte) (o : MatOp) (sys : List Systolic) : Bool :=
  let x := spDesc d
  let rs := spRegions sys x.smask
  fieldAt d 0 8 != 0 || x.tdir % 8 != 0 || o.c == 0 || x.nt == 0 || decide (65536 < x.nt) || fieldAt d 0x32 2 != 0 || o.k == 0 ||
    decide (2 ^ 20 < o.k) || o.n == 0 || decide (2 ^ 20 < o.n) || decide (2 ^ 13 ≤ fieldAt d 0x3C 4) || rs.isEmpty ||
    ((o.out || o.init) && (o.c % 8 != 0 || o.ldc % 8 != 0)) ||
    rs.any (fun k => match o.af, o.fmt with
      | some af, some f =>
        let wf := (sys.getD k .released).wf
        (match sysPath af wf with
        | none => true
        | some path => (o.mxa && !smallFloat af) || (o.mxb && !smallFloat wf) || !f.word || (path == .int && !o.out && f != .int32))
      | some _, none | none, some _ | none, none => true)

/-- Entry i of a directory that follows the descriptor in the bytes read, with its header after the directory. -/
def spEntry (d : List Byte) (nt i : Nat) : TileRef :=
  let at' := 64 + 24 * i
  ⟨fieldAt d at' 8, fieldAt d (at' + 8) 8, fieldAt d (at' + 16) 4, fieldAt d (at' + 20) 4, fieldAt d (64 + 24 * nt + 8 * i) 8⟩

def spEntries (d : List Byte) (nt : Nat) : List TileRef := (List.range nt).map (spEntry d nt)

/-- The index bytes that are read of an entry's tile: none where its header fails. -/
def TileRef.rawIndex (r : TileRef) : Nat := if (headSub r.head).isSome then 0 else (tileHead r.head).rawIndexBytes

/-- The bytes that an entry's tile fills; 8 where its header fails. -/
def TileRef.size (r : TileRef) : Nat := if (headSub r.head).isSome then 8 else (tileHead r.head).size

/-- The output columns and the reduction indices of an entry's tile; the transpose under TRA. -/
def TileRef.cols (r : TileRef) (tra : Bool) : Nat := if tra then (tileHead r.head).k else (tileHead r.head).rows
def TileRef.reds (r : TileRef) (tra : Bool) : Nat := if tra then (tileHead r.head).rows else (tileHead r.head).k

/-- The scales of an entry's tile. -/
def TileRef.scaleRange (r : TileRef) (mxb tra : Bool) : List (Nat × Nat) :=
  if mxb then [(r.scales, r.cols tra * blocks32 (r.reds tra))] else []

/-- What the checks of R273 find. -/
inductive SpVerdict where
  | bad
  | malformed (sub va : Nat)
  | ok
  deriving DecidableEq, Repr

/-- The first check of R264 that the tiles fail, in directory order; `idx` holds the index bytes of the tiles one after another. -/
def spMalformed : List TileRef → List RByte → Option (Nat × Nat)
  | [], _ => none
  | r :: rest, idx =>
    match headSub r.head with
    | some sub => some (sub, r.tile)
    | none => match (tileHead r.head).indexFault (idx.take r.rawIndex) with
      | some (sub, off) => some (sub, (r.tile + off) % 2 ^ 64)
      | none => spMalformed rest (idx.drop r.rawIndex)

/-- Whether two entries of one N0 disagree (R273). -/
def spClash (tra : Bool) (a b : TileRef) : Bool :=
  a.n0 == b.n0 && ((tileHead a.head).rows != (tileHead b.head).rows || (tileHead a.head).k != (tileHead b.head).k ||
    (decide (a.k0 < b.k0 + b.reds tra) && decide (b.k0 < a.k0 + a.reds tra)))

/-- Some two entries of a list clash. -/
def spClashes (tra : Bool) : List TileRef → Bool
  | [] => false
  | r :: rest => rest.any (spClash tra r) || spClashes tra rest

/-- The checks of R273 over everything that has been read. -/
def spVerdict (d : List Byte) (o : MatOp) (sys : List Systolic) : SpVerdict :=
  let x := spDesc d
  let es := spEntries d x.nt
  let af := o.af.getD .fp32
  let used := (List.range o.m).map (o.aRow af) ++ (if o.mxa then (List.range o.m).map o.aScales else []) ++ [(x.tdir, 24 * x.nt)] ++
    es.flatMap (fun r => (r.tile, r.size) :: (if (headSub r.head).isSome then [] else r.scaleRange o.mxb x.tra))
  if es.any (fun r => (!o.mxb && r.scales != 0) || r.k0 % 32 != 0) || listsMeet ((List.range o.m).map o.cRow) used then .bad
  else match spMalformed es (noMark (d.drop (64 + 32 * x.nt))) with
    | some (sub, va) => .malformed sub va
    | none =>
      if es.any (fun r =>
          let t := tileHead r.head
          r.tile % 8 != 0 || (spRegions sys x.smask).any (fun k => (sys.getD k .released).wf != t.elem) || (x.tra && !t.trans) ||
            decide (o.k < r.k0 + r.reds x.tra) || decide (o.n < r.n0 + r.cols x.tra)) || spClashes x.tra es then .bad
      else .ok

/-! Bands and their regions (R274 to R276). -/

/-- An entry put into a list in ascending K0. -/
def insertTile (r : TileRef) : List TileRef → List TileRef
  | [] => [r]
  | x :: rest => if r.k0 < x.k0 then r :: x :: rest else x :: insertTile r rest

/-- The bands in the order of their first entries, each with its tiles in ascending K0. -/
def bandsOf : List TileRef → List (List TileRef)
  | [] => []
  | r :: rest =>
    let bands := bandsOf rest
    match bands.find? (fun b => b.any (fun x => x.n0 == r.n0)) with
    | some b => insertTile r b :: bands.filter (fun c => !c.any (fun x => x.n0 == r.n0))
    | none => [r] :: bands

/-- The prediction of a band on a region (R275). -/
def bandPred (tra : Bool) (y : Systolic) (m d : Nat) (band : List TileRef) : Nat :=
  (band.map (fun r =>
    let t := tileHead r.head
    predict t (if tra then t.rows / t.m else t.kg) (r.cols tra) y.w y.h m d)).foldl (· + ·) 0

/-- A band put into a list in descending key, after those of the same key. -/
def insertBand (x : Nat × List TileRef) : List (Nat × List TileRef) → List (Nat × List TileRef)
  | [] => [x]
  | y :: rest => if y.1 < x.1 then x :: y :: rest else y :: insertBand x rest

/-- The least element of a list of pairs by its second part, the first of several. -/
def leastBy : List (Nat × Nat) → Option (Nat × Nat)
  | [] => none
  | x :: rest => match leastBy rest with
    | some y => if y.2 < x.2 then some y else some x
    | none => some x

/-- The bands of each region of a list, in assignment order (R276). -/
def assignBands (tra : Bool) (m d : Nat) (rs : List (Nat × Systolic)) (es : List TileRef) : List (Nat × List (List TileRef)) :=
  let keyed := (bandsOf es).map (fun b => (((rs.map (fun r => bandPred tra r.2 m d b)).min?).getD 0, b))
  let ordered := keyed.foldl (fun l x => insertBand x l) []
  let final := ordered.foldl (fun (acc : List (Nat × Nat × List (List TileRef))) x =>
    match leastBy (rs.map (fun r => (r.1, (((acc.find? (fun a => a.1 == r.1)).map (fun a => a.2.1)).getD 0) + bandPred tra r.2 m d x.2))) with
    | some (k, fin) => acc.map (fun a => if a.1 = k then (a.1, fin, a.2.2 ++ [x.2]) else a)
    | none => acc) (rs.map (fun r => (r.1, 0, [])))
  (final.map (fun a => (a.1, a.2.2))).filter (fun a => !a.2.isEmpty)

/-- A band of columns that no tile covers: `tile` is their number and `scales` no address. -/
def bareBand (n0 n : Nat) : TileRef := ⟨n, 2 ^ 64, n0, 0, 0⟩

def TileRef.bare (r : TileRef) : Bool := r.scales == 2 ^ 64

/-- The columns of a band. -/
def TileRef.width (r : TileRef) (tra : Bool) : Nat := if r.bare then r.tile else r.cols tra

/-- The columns below n that no band covers, as bands of their own, from a column on. -/
def bareFrom (tra : Bool) (es : List TileRef) (n : Nat) : Nat → Nat → List TileRef
  | 0, _ => []
  | fuel + 1, c =>
    if n ≤ c then []
    else match es.find? (fun r => decide (r.n0 ≤ c) && decide (c < r.n0 + r.cols tra)) with
      | some r => bareFrom tra es n fuel (r.n0 + r.cols tra)
      | none =>
        let next := ((es.filter (fun r => decide (c < r.n0))).map (fun r => r.n0)).foldl min n
        bareBand c (next - c) :: bareFrom tra es n fuel next

/-! MMASP (R273, R278). -/

/-- MMASP once its descriptor has been read: the regions of R376 are chosen. `more` holds their set, `notes` the cycle. -/
def State.mmaspRead (s : State) (a : Access) : Performed :=
  let d := a.rbytes.map (fun b => b.b)
  let sys := ((s.region? (s.ridOf a.site.cell)).map (fun r => r.sys)).getD []
  if a.poisoned || spBad d (spMat d a.instr) sys then .done s [⟨1, none⟩]
  else
    let mask := (spRegions sys (spDesc d).smask).foldl (fun n k => n + 2 ^ k) 0
    .gone { s with pend := s.pend ++ [⟨a.site, a.fire, a.instr, a.ops, [⟨BitVec.ofNat 32 mask, none⟩], [s.cycle], d,
      some { s.engOfAccess a with puts := some (spMat d a.instr).puts }, a.stamp⟩] }

/-- What MMASP has still to read: the directory, then the headers, then the indices. -/
def spRanges (d : List Byte) : List (Nat × Nat) :=
  let x := spDesc d
  if d.length < 64 + 24 * x.nt then [(x.tdir, 24 * x.nt)]
  else if d.length < 64 + 32 * x.nt then (List.range x.nt).map (fun i => (fieldAt d (64 + 24 * i) 8, 8))
  else
    let idx := (spEntries d x.nt).flatMap (fun r => if (headSub r.head).isSome then [] else (tileHead r.head).indexRange r.tile)
    if d.length < 64 + 32 * x.nt + (idx.map (fun r => r.2)).foldl (· + ·) 0 then idx else []

/-- The systolic regions with those outside a set not established. -/
def onlySys (sys : List Systolic) (mask : Word) : List Systolic := sys.mapIdx (fun k y => if mask.getLsbD k then y else { y with on := false })

/-- A turn of MMASP before it is accepted: it reads, checks, assigns its bands, and is accepted once every region it uses has room. -/
def State.mmaspStep (s : State) (c0 : Consumer) (p : Pend) : Option State :=
  match p.eng, p.more with
  | some e, [mask] =>
    if e.held.isSome then none
    else
      let keep (s : State) (p : Pend) : State := { s with pend := s.pend ++ [p] }
      let o := spMat p.data p.instr
      let x := spDesc p.data
      let rid := s.ridOf p.site.cell
      let sys := onlySys (((s.region? rid).map (fun r => r.sys)).getD []) mask.v
      match spRanges p.data with
      | [] =>
        match spVerdict p.data o sys with
        | .bad => some (s.reply p.site c0 [⟨1, none⟩])
        | .malformed sub va => some ((s.raiseEng e codeNmMalformed sub false (BitVec.ofNat 64 va) 0).reply p.site c0 [⟨4, none⟩])
        | .ok =>
          let es := spEntries p.data x.nt
          let rs := (spRegions sys x.smask).map (fun k => (k, sys.getD k .released))
          let plan := assignBands x.tra o.m (o.af.getD .fp32).digits rs es
          if plan.all (fun a => (s.sysAt rid a.1).room && !s.earlierMma rid a.1 p) then
            let bare := (bareFrom x.tra es o.n (2 * x.nt + 2) 0).map (fun r => [r])
            let s := (plan.mapIdx (fun i a => (i, a))).foldl (fun s a => s.updSys rid a.2.1 (fun y =>
              { y with queue := y.queue ++ [SysOp.fresh e (some p.instr) none (p.data.take 64) (if a.1 = 0 then a.2.2 ++ bare else a.2.2)] })) s
            some (keep s { p with more := [mask, ⟨0, none⟩], notes := [] })
          else none
      | ranges =>
        match s.readEng e (fun va => va) ranges with
        | (s, e, .bytes l) =>
          if e.poisoned then some (s.reply p.site c0 [⟨1, none⟩])
          else some (keep s { p with data := p.data ++ l.map (fun b => b.b), eng := some e })
        | (s, e, .held) | (s, e, .wait) => some (keep s { p with eng := some e })
        | (s, _, .refused) => some (s.reply p.site c0 [⟨2, none⟩])
  | _, _ => none

/-! Running a band (R271, R274). -/

/-- The ranges of a band's tiles and their scales. -/
def bandRanges (mxb tra : Bool) (band : List TileRef) : List (Nat × Nat) :=
  band.flatMap (fun r => if r.bare then [] else (r.tile, r.size) :: r.scaleRange mxb tra)

/-- The tiles of a band with their bytes and the bytes of their scales. -/
def bandTiles (mxb tra : Bool) : List TileRef → List RByte → List (TileRef × List RByte × List RByte)
  | [], _ => []
  | r :: rest, l =>
    if r.bare then bandTiles mxb tra rest l
    else
      let n := ((r.scaleRange mxb tra).map (fun x => x.2)).foldl (· + ·) 0
      (r, l.take r.size, (l.drop r.size).take n) :: bandTiles mxb tra rest (l.drop (r.size + n))

/-- The weight of a tile at tile row r and position k: that of the dense equivalent (R263). -/
def tileWeight (t : TileHead) (l : List RByte) (e : Eng) (r k : Nat) : Lane :=
  let values := l.drop 8
  if !t.sparse then elemLane t.elem values e (r * t.k + k)
  else
    let base := (r * t.kg + k / t.m) * t.n
    match (List.range t.n).find? (fun i => t.indexAt (l.drop (8 + t.valueBytes)) (base + i) == k % t.m) with
    | some i => elemLane t.elem values e (base + i)
    | none => .zero

/-- The weight and the scale of output column n of a band at reduction index k; +0 where no tile covers k (R271). -/
def bandWeight (mxb tra : Bool) (tiles : List (TileRef × List RByte × List RByte)) (e : Eng) (n k : Nat) : Lane × Byte :=
  match tiles.find? (fun x => decide (x.1.k0 ≤ k) && decide (k < x.1.k0 + x.1.reds tra)) with
  | none =>
    match tiles.find? (fun x => decide (x.1.k0 / 32 ≤ k / 32) && decide (k / 32 < (x.1.k0 + x.1.reds tra + 31) / 32)) with
    | some x => (.zero, (scaleAt mxb x.2.2 (n * blocks32 (x.1.reds tra) + (k - x.1.k0) / 32) e).1)
    | none => (.zero, 127)
  | some (r, l, scales) =>
    let j := k - r.k0
    let w := if tra then tileWeight (tileHead r.head) l e j n else tileWeight (tileHead r.head) l e n j
    let (sb, m) := scaleAt mxb scales (n * blocks32 (r.reds tra) + j / 32) e
    ({ w with mark := w.mark.or m }, sb)

/-- The first byte of the element of a band's tiles that holds an address: a value of a tile, else the byte itself (R261, R384). -/
def bandElem (band : List TileRef) (va : Nat) : Nat :=
  match band.find? (fun r => !r.bare && decide (r.tile + 8 ≤ va) && decide (va < r.tile + 8 + (tileHead r.head).valueBytes)) with
  | some r => elemStart (tileHead r.head).elem.width [(r.tile + 8, (tileHead r.head).valueBytes)] va
  | none => va

/-- One attempt to load the tiles of the band in progress. -/
def State.loadBand (s : State) (o : MatOp) (tra : Bool) (x : SysOp) (band : List TileRef) : State × SysOp :=
  match s.readEng x.eng (bandElem band) (bandRanges o.mxb tra band) with
  | (s, e, .bytes l) => (s, { x with eng := e, wts := l, loaded := 1 })
  | (s, e, .held) | (s, e, .wait) => (s, { x with eng := e })
  | (s, e, .refused) => (s, { x with eng := e, status := 2 })

/-- The columns of a band: the first and how many. -/
def bandCols (tra : Bool) (band : List TileRef) : Nat × Nat :=
  match band with
  | [] => (0, 0)
  | r :: _ => (r.n0, r.width tra)

/-- One attempt to read the entries of C from which the bands of a share start, before any of them is written (R250, R271). -/
def State.readInits (s : State) (o : MatOp) (tra : Bool) (x : SysOp) : State × SysOp :=
  match s.readEng x.eng (fun va => va / 8 * 8) (x.bands.flatMap (fun b => (List.range o.m).map (fun m =>
      o.entryRange m (bandCols tra b).1 (bandCols tra b).2))) with
  | (s, e, .bytes l) => (s, { x with eng := e, inits := some l })
  | (s, e, .held) | (s, e, .wait) => (s, { x with eng := e })
  | (s, e, .refused) => (s, { x with eng := e, status := 2 })

/-- Whether another share of an operation has still to read the entries of C that it starts from. -/
def State.initsOut (s : State) (rid : Nat) (x : SysOp) : Bool :=
  (s.region? rid).any (fun r => r.sys.any (fun y => y.queue.any (fun z => z.eng.stamp == x.eng.stamp && z.inits.isNone)))

/-- One attempt to run the next row of the band in progress. -/
def State.runBandRow (s : State) (rid : Nat) (y : Systolic) (o : MatOp) (tra : Bool) (x : SysOp) (band : List TileRef) : State × SysOp :=
  let af := o.af.getD .fp32
  let (n0, cols) := bandCols tra band
  match s.readEng x.eng (elemStart af.width [o.aRow af x.row]) (o.rowRanges af x.row) with
  | (s, e, .bytes l) =>
    let x := { x with eng := e }
    let na := packedBytes af o.k
    let entries := (x.inits.getD []).drop (8 * cols * x.row)
    let tiles := bandTiles o.mxb tra band x.wts
    let lane (n : Nat) : Lane × Word :=
      let (start, fl0) := s.initLane rid y o (o.path y.wf == .int) entries e n
      let terms := (List.range o.k).map (fun k =>
        let a := elemLane af l e k
        let (w, sb) := bandWeight o.mxb tra tiles e n k
        let (sa, ma) := scaleAt o.mxa (l.drop na) (k / 32) e
        (⟨a.val, w.val, sa, sb, a.mark.or (ma.or w.mark)⟩ : Term))
      let (acc, fl) := accumulateTerms (o.path y.wf) (o.mxa || o.mxb) start terms
      (acc, fl0 ||| fl)
    let work := (band.map (fun r => if r.bare then 0 else (tileHead r.head).count)).foldl (· + ·) 0
    s.finishRow rid y o x x.row n0 work ((List.range cols).map lane) (!band.any TileRef.bare)
  | (s, e, .held) | (s, e, .wait) => (s, { x with eng := e })
  | (s, e, .refused) => (s, { x with eng := e, status := 2 })

/-! The steps of a systolic region (R252, R254). -/

/-- A systolic region of a region, with the operation at a place of its queue replaced. -/
def State.putOp (s : State) (rid k i : Nat) (x : SysOp) : State := s.updSys rid k (fun y => { y with queue := y.queue.set i x })

/-- Values that the spec does not state for the weight registers of a region that has run a sparse share (log 5). -/
def State.freeWeights (s : State) (rid : Nat) (y : Systolic) : State :=
  let lanes (salt : Nat) : Weights := ⟨lanes128 (fun l => ⟨(wordVal .fp32 (Config.poisonWord (s.fresh + salt) l)).1, none⟩), [], y.wf⟩
  { s with fresh := s.fresh + 2 ^ 20, cells := s.cells.map (fun c => if c.rid = rid ∧ y.covers c.rx c.ry = true then
      { c with pes := c.pes.mapIdx (fun i p => { p with cur := lanes (c.num * 32 + 2 * i), shadow := lanes (c.num * 32 + 2 * i + 1) }) }
    else c) }

/-- An operation that must not run: MMAROW with INIT whose south-edge KIND is not that of its path (R250). -/
def State.opRefused (s : State) (rid : Nat) (y : Systolic) (o : MatOp) : Bool :=
  o.isRow && o.init && !s.kindsAgree rid y o (o.path y.wf == .int)

/-- MATRIX_OP_START (R252): the first operation that has not started loads its next PE row of weights; once all are loaded and it
is at the head of the queue, it sweeps its wedge and starts. -/
def execMatrixOpStart (rid sr : Nat) (s : State) : Result :=
  let y := s.sysAt rid sr
  match y.queue.findIdx? (fun x => !x.started) with
  | none => .next s
  | some i =>
    match y.queue[i]? with
    | none => .next s
    | some x =>
      if x.eng.held.isSome || decide (1 < i) || decide (s.cycle < y.busy) || decide (x.status ≠ 0) then .next s
      else if !x.bands.isEmpty then
        if i = 0 then .next (((s.freeWeights rid y).putOp rid sr i { x with started := true, swept := s.cycle }).holdSlots rid)
        else .next s
      else
        let o := matOf x.desc x.instr
        if o.isRow && o.init && decide (i ≠ 0) then .next s
        else if x.loaded = 0 ∧ s.opRefused rid y o = true then .next (s.putOp rid sr i { x with status := 1 })
        else if o.keepw then
          (if i = 0 then .next ((s.putOp rid sr i { x with started := true, swept := s.cycle }).holdSlots rid) else .next s)
        else if x.loaded < 4 * y.h then
          let (s, x) := s.loadRow rid y o x
          .next ((s.putOp rid sr i x).holdSlots rid)
        else if i = 0 then
          .next (((s.sweepWedge rid y).putOp rid sr i { x with started := true, swept := s.cycle + y.w + y.h - 1 }).holdSlots rid)
        else .next s

/-- The DEAD_SPAD and sink records that an MMASP has logged on any of its shares (R333, R384). -/
def State.shareFlags (s : State) (e : Eng) : Eng :=
  match s.pend.find? (fun p => p.stamp == e.stamp) with
  | some p => match p.eng with
    | some f => { e with deadLogged := e.deadLogged || f.deadLogged, sunk := e.sunk || f.sunk }
    | none => e
  | none => e

/-- What an operation has logged, kept with its instruction. -/
def State.keepFlags (s : State) (e : Eng) : State :=
  { s with pend := s.pend.map (fun p => if p.stamp = e.stamp then
      { p with eng := p.eng.map (fun f => { f with deadLogged := f.deadLogged || e.deadLogged, sunk := f.sunk || e.sunk }) } else p) }

/-- The consumer of an instruction that waits for an operation. -/
def replyTo (i : Instr) : Consumer :=
  match i with
  | .mma _ _ _ _ c0 | .mmasp _ _ _ _ c0 | .mmarow _ _ _ _ c0 => c0
  | _ => none

/-- The end of the operation at the head of a queue (R254, R274): its instruction replies once its last share has completed; a command
keeps its result. -/
def State.endOp (s : State) (rid sr : Nat) (x : SysOp) : State :=
  let s := s.keepFlags x.eng
  let s := (s.updSys rid sr (fun y => { y with queue := y.queue.tail, row := x.row })).holdSlots rid
  match x.cmd with
  | some slot => { s with cmds := s.cmds.map (fun c => if c.slot = slot then { c with result := some (if x.status = 0 then 0 else x.status) } else c) }
  | none =>
    match s.pend.find? (fun p => p.stamp == x.eng.stamp) with
    | none => s
    | some p =>
      let worst := max x.status ((p.notes.head?).getD 0)
      if (s.region? rid).any (fun r => r.sys.any (fun y => y.queue.any (fun z => z.eng.stamp == x.eng.stamp))) then
        { s with pend := s.pend.map (fun q => if q.stamp = p.stamp then { q with notes := [worst] } else q) }
      else
        let status : Word := if worst ≠ 0 then BitVec.ofNat 32 worst else (p.eng.map Eng.status).getD 0
        { s with pend := s.pend.filter (fun q => q.stamp != p.stamp) }.reply p.site (replyTo p.instr) [⟨status, none⟩]

/-- A turn of a started operation: a held C write, else its tiles, else its next row. -/
def State.opTurn (s : State) (rid : Nat) (y : Systolic) (x : SysOp) : State × SysOp :=
  match x.out with
  | some w => s.writeRow x w
  | none =>
    match x.bands with
    | band :: rest =>
      let o := spMat x.desc (x.instr.getD .nop)
      let tra := (spDesc x.desc).tra
      if o.init && x.inits.isNone then s.readInits o tra x
      else if o.init && s.initsOut rid x then (s, x)
      else if x.loaded = 0 then s.loadBand o tra x band
      else if x.row < o.m then s.runBandRow rid y o tra x band
      else (s, { x with bands := rest, loaded := 0, wts := [], row := if rest.isEmpty then x.row else 0,
                        inits := x.inits.map (fun l => l.drop (8 * (bandCols tra band).2 * o.m)) })
    | [] =>
      let o := matOf x.desc x.instr
      if x.row < o.m then s.runRow rid y o x else (s, x)

/-- Whether an operation has nothing more to do. -/
def SysOp.finished (x : SysOp) : Bool :=
  x.out.isNone && (decide (x.status ≠ 0) || (x.bands.isEmpty && (match x.instr with
    | some (.mmasp _ _ _ _ _) => true
    | _ => decide ((matOf x.desc x.instr).m ≤ x.row))))

/-- MATRIX_OP_COMPLETE (R252, R254): the operation in progress runs its next row; after its last write it completes. -/
def execMatrixOpComplete (rid sr : Nat) (s : State) : Result :=
  let y := s.sysAt rid sr
  match y.queue with
  | [] => .next s
  | x :: _ =>
    if x.eng.held.isSome || decide (s.cycle < x.swept) then .next s
    else if x.status ≠ 0 ∧ x.out.isNone then .next (s.endOp rid sr x)
    else if !x.started then .next s
    else
      let (s, x) := s.opTurn rid y { x with eng := s.shareFlags x.eng }
      let s := (s.putOp rid sr 0 x).keepFlags x.eng
      if x.finished then .next (s.endOp rid sr x) else .next s

/-! ROWPROG (R255). -/

/-- Whether an operation loads weights or their scales: a dense one before it starts, a sparse share while the tiles of its band are
read (R255, R274). -/
def SysOp.loads (x : SysOp) : Bool :=
  if x.bands.isEmpty then !x.started
  else decide (x.loaded = 0) && x.out.isNone && !((spMat x.desc (x.instr.getD .nop)).init && x.inits.isNone)

/-- ROWPROG of a systolic region (R255). -/
def Systolic.rowprog (y : Systolic) : Word :=
  let held := y.queue.find? (fun x => x.eng.held.isSome)
  let row := match y.queue.head? with
    | some x => if y.active then x.row else y.row
    | none => y.row
  BitVec.ofNat 32 (row % 2 ^ 17 + y.active.toNat * 2 ^ 17 + held.isSome.toNat * 2 ^ 18 +
    ((held.map SysOp.loads).getD false).toNat * 2 ^ 19)

end Sys2Proof.Machine
end

