-- ==== Sys2Proof/Machine/Sync.lean ====
section
/-! DEFINITION. Words in memory (R306 to R310), owner nodes (R311 to R313), group barriers (R314, R315). -/

namespace Sys2Proof.Machine

/-! ATOM, LDA, STL (R306 to R309). -/

/-- The checks of R306 on an offset: the virtual address, or the fault to raise. -/
inductive WordAt where
  | va (a : Nat)
  | fault (code a : Nat)
  | class
  deriving DecidableEq, Repr

/-- The word of an offset at a port (R306). -/
def wordAt (q : Port) (off : Word) : WordAt :=
  let va := addrAt q.base off.toInt
  if unitClass q.fmt ≠ .byte then .class
  else if q.limit ≠ 0 ∧ q.limit.toNat < off.toNat + 4 then .fault codeProt va
  else if va % 4 ≠ 0 then .fault codeAtomAlign va
  else .va va

/-- The fault of a word that R306 refuses, with the rest of the effect where it does not. -/
def State.onWord (s : State) (s' : State) (i : Instr) (p : BitVec 6) (off : Word) (write : Bool) (k : Nat → State) : State :=
  match wordAt (s.port s.site.cell p.toNat) off with
  | .class => s'.opcodeFault s.site codeProt i
  | .fault code va =>
    if code = codeAtomAlign then s'.addrFault s.site (s.fireNo s.site) codeAtomAlign va
    else s'.accessFault s.site (s.fireNo s.site) p.toNat code va write false false
  | .va va => k va

/-- Issue of ATOM, LDA or STL: an access of its port to one word. -/
def wordAccess (i : Instr) (p : BitVec 6) (s : State) : Result :=
  issueCtl i s (fun s' o => s.onWord s' i p (tokVal o.l) (needOf i).w (fun va =>
    s'.startAccess s.site i o [] p.toNat va 0 [⟨va, 4, none, false, 0, none, false⟩]))

/-- ATOM (R307). -/
def execAtom (p : BitVec 6) (sc : Scope) (o : Order) (op : AtomOp) (c0 : Consumer) (s : State) : Result :=
  wordAccess (.atom p sc o op c0) p s

/-- LDA (R309). -/
def execLda (p : BitVec 6) (sc : Scope) (acq : Bool) (c0 : Consumer) (s : State) : Result := wordAccess (.lda p sc acq c0) p s

/-- STL (R309). -/
def execStl (p : BitVec 6) (sc : Scope) (rel : Bool) (c0 : Consumer) (s : State) : Result := wordAccess (.stl p sc rel c0) p s

/-- The new word of an operation, none where it writes nothing, with the flags it raises (R307). -/
def atomNew (op : AtomOp) (old r a : Word) : Option Word × Word :=
  match op with
  | .add => (some (old + r), 0)
  | .and => (some (old &&& r), 0)
  | .or => (some (old ||| r), 0)
  | .xor => (some (old ^^^ r), 0)
  | .min => (some (if old.slt r then old else r), 0)
  | .max => (some (if old.slt r then r else old), 0)
  | .minu => (some (if old.ult r then old else r), 0)
  | .maxu => (some (if old.ult r then r else old), 0)
  | .xchg => (some r, 0)
  | .cas => (if old = r then some a else none, 0)
  | .fadd => let (w, fl) := reduceWord .fp32 .add old r; (some w, fl)
  | .fmin => let (w, fl) := reduceWord .fp32 .min old r; (some w, fl)
  | .fmax => let (w, fl) := reduceWord .fp32 .max old r; (some w, fl)
  | .incw => (some (if r.toNat ≤ old.toNat then 0 else old + 1), 0)

/-- The releases that leave through a port (R300, R303): they wait for every earlier access of their cell. -/
def isRelease (i : Instr) : Bool :=
  match i with
  | .stl _ _ rel _ => rel
  | .stv _ _ _ => true
  | .atom _ _ o _ _ => match o with
    | .rel | .ar => true
    | .rlx | .acq => false
  | _ => false

/-- Whether an instruction writes a word through which a FENCE before it releases (R295). -/
def isWordWrite (i : Instr) : Bool :=
  match i with
  | .stl _ _ _ _ | .atom _ _ _ _ _ => true
  | _ => false

/-- Whether an instruction is FENCE. -/
def isFence (i : Instr) : Bool :=
  match i with
  | .fence _ _ => true
  | _ => false

/-- Whether an access may leave its port as far as releases go: a release once every earlier access of its cell has been performed, and a write
of a word that follows a FENCE once the accesses before that FENCE have (R295, R300, R303). -/
def State.mayLeave (s : State) (cell : Nat) (a : Access) : Bool :=
  (!isRelease a.instr || s.performedBefore cell a.stamp) && (!isWordWrite a.instr ||
    s.pend.all (fun p => !(isFence p.instr && decide (p.site.cell = cell) && decide (p.stamp < a.stamp)) || s.performedBefore cell p.stamp))

/-! Scopes (R293). -/

/-- An agent: a PE of a cell, an engine agent or the sequencer of the device, the host, or an agent of another member of the group. -/
inductive Agent where
  | pe (cell pe : Nat)
  | device (n : Nat)
  | host
  | member (n : Nat)
  deriving DecidableEq, Repr

/-- Whether two cells share a group of their region's group table. -/
def State.shareGroup (s : State) (a b : Nat) : Bool :=
  (s.region? (s.ridOf a)).any (fun r => r.groups.any (fun g => g.members.contains a && g.members.contains b))

/-- Whether a cell is a member of a group that an ARRIVE, WAITG or BAR of another cell names (R293). -/
def State.inGroup (s : State) (a gid b : Nat) : Bool :=
  (s.region? (s.ridOf a)).any (fun r => r.groups.any (fun g => decide (g.gid = gid) && g.members.contains b))

/-- Whether agent b lies within a scope of agent a (R293); `named` is the group that an ARRIVE, WAITG or BAR names, none for the other
instructions. A write is performed at every scope in the cycle in which memory takes it, so no order waits on the answer (log 7). -/
def State.within (s : State) (sc : Scope) (named : Option Nat) (a b : Agent) : Bool :=
  decide (a = b) || (match sc, a, b with
    | .pe, _, _ => false
    | .cell, .pe c _, .pe d _ => decide (c = d)
    | .grp, .pe c _, .pe d _ => match named with
      | some gid => s.inGroup c gid d
      | none => decide (c = d) || s.shareGroup c d
    | .region, .pe c _, .pe d _ => decide (c = d) || ((s.cell? c).any (fun x => (s.cell? d).any (fun y => x.rid == y.rid)))
    | .die, .pe c _, .pe d _ => decide (c / 1024 = d / 1024)
    | .cell, _, _ | .grp, _, _ | .region, _, _ | .die, _, _ => false
    | .dev, .pe _ _, .pe _ _ | .dev, .pe _ _, .device _ | .dev, .device _, .pe _ _ | .dev, .device _, .device _ => true
    | .dev, _, _ => false
    | .sys, _, _ => true)

/-- The read of an atomic at its unit: the old bytes, whether they are poisoned, whether the segment is dead; none while a bank wakes. -/
def MemSys.atomRead (m : MemSys) (now tag fresh pa : Nat) : MemSys × Option (List Byte × Bool × Bool) :=
  let (m, g) := if target pa = some .spad then m.writeGate now pa else (m, .go)
  match g with
  | .wait | .dead => (m, none)
  | .go =>
    match m.read now tag pa 4 with
    | (m, .bytes bs poison) => (m, some (bs, poison, false))
    | (m, .dead) | (m, .wait) => (m, some ((List.range 4).map (fun i => Config.spadByte fresh (pa + i)), true, true))

/-- An atomic applied at the unit of its word, which applies one operation a cycle (R307, R308). -/
def State.performAtom (s : State) (a : Access) (op : AtomOp) : Performed :=
  match (a.parts.head?.bind (fun p => p.pa)) with
  | none => .later s a
  | some pa =>
    let tag := s.tagOf a.site.cell
    if target pa = some .host then .drop (s.dropAccess a codeProt)
    else if s.mem.unitBusy pa 4 then .later s a
    else match s.mem.atomRead s.cycle tag s.fresh pa with
      | (m, none) => .later { s with mem := m } a
      | (m, some (bs, poison, dead)) =>
        let s := { s with mem := m.useUnit pa 4, fresh := if dead then s.fresh + 1 else s.fresh }
        let s := if dead then s.deadSpad a else s
        let old := BitVec.ofNat 32 (leNat bs)
        let (new, fl) := atomNew op old (tokVal a.ops.r) (tokVal a.ops.a)
        let own := if poison then some (originOf a.site a.fire) else none
        let s := s.raiseFlags a.site.cell fl
        let reply : List Tok := [⟨old, a.ops.mark.or own⟩]
        match new with
        | none => .done s reply
        | some w =>
          let mark := (storeMark a.ops).or own
          let (m, _) := s.mem.rewrite s.cycle tag pa (leBytes 4 w.toNat) mark.isSome
          let s := { s with mem := m }
          .done (match mark with
            | some o => s.sink a.site 0 (BitVec.ofNat 64 a.va) o (some a.stamp)
            | none => s) reply

/-! FENCE and QUIET (R310). -/

def State.fenceAttempt (s : State) (c0 : Consumer) (p : Pend) : Option State :=
  if s.performedBefore p.site.cell p.stamp then some (s.reply p.site c0 [⟨0, none⟩]) else none

/-- FENCE (R310): in a model with one memory its place in fence order is that of its reply (R299; log 7). -/
def execFence (sc : Scope) (c0 : Consumer) (s : State) : Result :=
  issueWait (.fence sc c0) c0 s (fun s p => s.fenceAttempt c0 p)

/-- QUIET (R310). -/
def execQuiet (sc : Scope) (c0 : Consumer) (s : State) : Result :=
  issueWait (.quiet sc c0) c0 s (fun s p => s.fenceAttempt c0 p)

/-! Owner nodes (R311 to R313). -/

def State.regionOf (s : State) (cell : Nat) : Option Region := s.region? (s.ridOf cell)

/-- Whether an owner belongs to the block at a site. -/
def Owner.of (o : Owner) (t : Site) : Bool := o.eng.site.cell == t.cell && o.eng.site.ctx == t.ctx

/-- The CAP total of a cell's channels (R117). -/
def Cell.capTotal (c : Cell) : Nat := (c.blocks.flatMap (fun b => b.ins.map (fun ic => ic.cap))).foldl (· + ·) 0

/-- The cases in which OWN raises PROT (R311); a range counts until it has been flushed. -/
def ownBad (c : Cell) (owners : List Owner) (t : Site) (va n : Nat) : Bool :=
  decide (4096 - c.capTotal < n) || owners.any (fun o => !o.of t && rangesMeet (o.va, 4 * o.size) (va, 4 * n)) || decide (64 ≤ owners.length)

/-- OWN (R311): the range that its block holds is flushed, then the new range is read and entered. -/
def execOwn (p : BitVec 6) (op : AtomOp) (s : State) : Result :=
  issueCtl (.own p op) s (fun s' o =>
    let n := (tokVal o.r).toNat
    match s.cell? s.site.cell, s.block? s.site, s.regionOf s.site.cell with
    | some c, some b, some r =>
      if b.kind ≠ 1 then s'.opcodeFault s.site codeProt (.own p op)
      else s.onWord s' (.own p op) p (tokVal o.l) false (fun va =>
        if ownBad c r.owners s.site va n then s'.opcodeFault s.site codeProt (.own p op)
        else
          let e := s'.engOf s.site (s.fireNo s.site) (some p.toNat) s'.stamps
          let s' := s'.updRegion r.rid (fun r =>
            let old := r.owners.map (fun w => if w.of s.site then { w with closing := true } else w)
            { r with owners := if n = 0 then old else old ++ [⟨e, va, n, op, [], false, false, none⟩] })
          s'.wait s.site (.own p op) o [] [])
    | _, _, _ => s')

/-- The owners of the region of a cell changed. -/
def State.updOwner (s : State) (rid stamp : Nat) (f : Owner → Owner) : State :=
  s.updRegion rid (fun r => { r with owners := r.owners.map (fun o => if o.eng.stamp = stamp then f o else o) })

/-- The requests of a flush written: each poisoned word is a sink of kind 0 (R313, R333). -/
def State.flushSpans (s : State) (o : Owner) : List Span → List Tok → State × Eng
  | [], _ => (s, o.eng)
  | x :: rest, buf =>
    let mine := buf.take (x.n / 4)
    let bad := mine.filterMap (fun t => t.mark)
    let (m, _) := s.mem.write s.cycle o.eng.ctx x.pa (mine.flatMap (fun t => leBytes 4 t.v.toNat)) (!bad.isEmpty)
    let s := { s with mem := m }
    let e := o.eng
    let (s, e) := match bad with
      | [] => (s, e)
      | org :: _ =>
        if e.sunk then (s.count e.site.cell 5 (BitVec.ofNat 32 bad.length), e)
        else ((s.sink e.site 0 (BitVec.ofNat 64 (x.va + 4 * (mine.findIdx (fun (t : Tok) => t.mark.isSome)))) org (some e.stamp)).count e.site.cell 5
          (BitVec.ofNat 32 (bad.length - 1)), { e with sunk := true })
    s.flushSpans { o with eng := e } rest (buf.drop (x.n / 4))

/-- An owner gone from its region's table; updates that wait at it are discarded with its buffer (log 30). -/
def State.dropOwner (s : State) (rid stamp : Nat) : State :=
  s.updRegion rid (fun r => { r with owners := r.owners.filter (fun w => w.eng.stamp != stamp), updates := r.updates.filter (fun u => u.owner != stamp) })

/-- An attempt to flush an owner whose range has been read: it is gone once every word has been written back (R313). -/
def State.flushOwner (s : State) (rid : Nat) (o : Owner) : State :=
  if o.eng.held.isSome || (s.region? rid).any (fun r => r.updates.any (fun u => u.owner == o.eng.stamp)) then s
  else match s.reach o.eng .store [(o.va, 4 * o.size)] with
    | (s, .ok spans) =>
      let (s, _) := (s.moves o.eng spans).flushSpans o spans o.buf
      s.dropOwner rid o.eng.stamp
    | (s, .fault code va) =>
      let (s, e) := s.holdEng o.eng code va .store
      s.updOwner rid o.eng.stamp (fun w => { w with eng := e })
    | (s, .refused va) =>
      (s.raiseEng o.eng codeProt 0 false (BitVec.ofNat 64 va) (accessAux (o.eng.port.getD 0) true false)).dropOwner rid o.eng.stamp
    | (s, .wait) => (s.sends o.eng).updOwner rid o.eng.stamp (fun w => { w with eng := w.eng.waits s.cycle })

/-- An attempt to read the range of a new owner into its buffer (R311). -/
def State.readOwner (s : State) (rid : Nat) (o : Owner) : State :=
  if o.eng.held.isSome then s
  else match s.readEng o.eng (fun va => va / 4 * 4) [(o.va, 4 * o.size)] with
    | (s, e, .bytes l) =>
      let buf := (List.range o.size).map (fun i =>
        let mine := (l.drop (4 * i)).take 4
        (⟨BitVec.ofNat 32 (rbNat mine), if rbBad mine then some e.origin else none⟩ : Tok))
      s.updOwner rid o.eng.stamp (fun w => { w with eng := { e with sunk := false }, buf := buf, ready := true })
    | (s, e, .held) | (s, e, .wait) => s.updOwner rid o.eng.stamp (fun w => { w with eng := e })
    | (s, _, .refused) => s.dropOwner rid o.eng.stamp

/-- A closing owner's turn: its range is read first where that is still to do, so that the updates which wait at it are applied; then it is
flushed (R311, R312, R313). -/
def State.closeOwner (s : State) (rid : Nat) (o : Owner) : State := if o.ready then s.flushOwner rid o else s.readOwner rid o

/-- A turn of OWN, or of the flush that a drain began: the old range, then the new one, then it is done. -/
def State.ownStep (s : State) (p : Pend) : Option State :=
  let rid := s.ridOf p.site.cell
  let owners : List Owner := match s.region? rid with
    | some r => r.owners.filter (fun o => o.of p.site)
    | none => []
  let keep (s : State) : State := { s with pend := s.pend ++ [p] }
  match owners.find? (fun o => o.closing) with
  | some o => some (keep (s.closeOwner rid o))
  | none => match owners.find? (fun o => !o.ready) with
    | some o => some (keep (s.readOwner rid o))
    | none => some s

/-- UPD (R312): the owner is found by virtual address. -/
def execUpd (p : BitVec 6) (s : State) : Result :=
  issueCtl (.upd p) s (fun s' o => s.onWord s' (.upd p) p (tokVal o.l) true (fun va =>
    match s.regionOf s.site.cell with
    | none => s'
    | some r => match r.owners.find? (fun w => !w.closing && decide (w.va ≤ va) && decide (va < w.va + 4 * w.size)) with
      | none => s'.opcodeFault s.site codeProt (.upd p)
      | some w => s'.updRegion r.rid (fun r =>
          { r with updates := r.updates ++ [⟨s.site, w.eng.stamp, va, ⟨tokVal o.r, o.mark⟩, s.cycle + 1⟩] })))

/-- The order in which updates reach an owner: arrival cycle, then cell number, then issue (R312). -/
def Update.before (a b : Update) : Bool := decide (a.due < b.due) || (decide (a.due = b.due) && decide (a.site.cell < b.site.cell))

/-- The first of a list of updates, in that order. -/
def firstUpdate : List Update → Option Update
  | [] => none
  | u :: rest => match firstUpdate rest with
    | some v => if v.before u then some v else some u
    | none => some u

/-- One update applied to an owner (R312). -/
def State.applyUpdate (s : State) (rid : Nat) (o : Owner) (u : Update) : State :=
  let k := (u.va - o.va) / 4
  let old := o.buf.getD k ⟨0, none⟩
  let (new, fl) := atomNew o.op old.v u.tok.v 0
  let s := s.updRegion rid (fun r => { r with updates := r.updates.erase u })
  (s.updOwner rid o.eng.stamp (fun w => { w with buf := w.buf.set k ⟨new.getD old.v, old.mark.or u.tok.mark⟩, at? := some s.cycle })).raiseFlags
    o.eng.site.cell fl

/-- UPD_APPLY (R312): every owner whose range has been read applies its first update that has arrived, at most one per cycle. -/
def execUpdApply (rid : Nat) (s : State) : Result :=
  match s.region? rid with
  | none => .next s
  | some r => .next (r.owners.foldl (fun s o =>
      if o.ready && decide (o.at? ≠ some s.cycle) then
        match firstUpdate (r.updates.filter (fun u => u.owner == o.eng.stamp && decide (u.due ≤ s.cycle))) with
        | some u => s.applyUpdate rid o u
        | none => s
      else s) s)

/-! Group barriers (R314, R315). -/

def State.group? (s : State) (rid gid : Nat) : Option Group := (s.region? rid).bind (fun r => r.groups.find? (fun g => g.gid == gid))

def State.updGroup (s : State) (rid gid : Nat) (f : Group → Group) : State :=
  s.updRegion rid (fun r => { r with groups := r.groups.map (fun g => if g.gid = gid then f g else g) })

/-- The phase that has reached a member cell. -/
def Group.known (g : Group) (cell : Nat) : Nat :=
  match g.learned.find? (fun x => x.1 == cell) with
  | some x => x.2
  | none => 0

/-- Whether a phase is complete by a value of P (R314). -/
def phaseDone (p q : Nat) : Bool :=
  let d := (p + 2 ^ 24 - q % 2 ^ 24) % 2 ^ 24
  decide (1 ≤ d) && decide (d ≤ 2 ^ 23)

/-- The operands that a barrier instruction refuses (R315). -/
def State.barrierBad (s : State) (t : Site) (l : Word) (phase : Bool) : Bool :=
  (!phase && decide (256 ≤ l.toNat)) || (match s.group? (s.ridOf t.cell) (l.toNat % 256) with
    | some g => !g.members.contains t.cell
    | none => true)

/-- A cell's arrival at P; the last member's completes the phase (R314). -/
def Group.arrive (g : Group) (cell : Nat) : Group :=
  let arrived := cell :: g.arrived
  if g.members.all (fun m => arrived.contains m) then { g with phase := (g.phase + 1) % 2 ^ 24, arrived := [] } else { g with arrived := arrived }

/-- The token of a group and a phase. -/
def phaseTok (gid p : Nat) : Word := BitVec.ofNat 32 (gid + p * 256)

/-- Issue of a barrier instruction: PROT, or it waits. -/
def issueBarrier (i : Instr) (c0 : Consumer) (phase : Bool) (s : State) (attempt : State → Pend → Option State) : Result :=
  issueCtl i s (fun s' o =>
    if s.barrierBad s.site (tokVal o.l) phase then s'.opcodeFault s.site codeProt i
    else
      let s' := (s'.reserveAll s.site [(c0, 1)]).wait s.site i o [] []
      s'.tryPend (s'.pend.length - 1) attempt)

/-- An attempt to arrive at a group's phase: the phase arrived at, and the state after. -/
def State.arrival (s : State) (rel : Bool) (p : Pend) : Option (Nat × State) :=
  let gid := (tokVal p.ops.l).toNat % 256
  let rid := s.ridOf p.site.cell
  match s.group? rid gid with
  | none => none
  | some g =>
    if g.arrived.contains p.site.cell || (rel && !s.performedBefore p.site.cell p.stamp) then none
    else some (g.phase, s.updGroup rid gid (fun g => g.arrive p.site.cell))

def State.arriveAttempt (s : State) (rel : Bool) (c0 : Consumer) (p : Pend) : Option State :=
  (s.arrival rel p).map (fun x => x.2.reply p.site c0 [⟨phaseTok ((tokVal p.ops.l).toNat % 256) x.1, none⟩])

/-- ARRIVE (R315). -/
def execArrive (sc : Scope) (rel : Bool) (c0 : Consumer) (s : State) : Result :=
  issueBarrier (.arrive sc rel c0) c0 false s (fun s p => s.arriveAttempt rel c0 p)

/-- Whether a phase of a group has completed as its cell knows it. -/
def State.phaseKnown (s : State) (p : Pend) (gid q : Nat) : Bool :=
  match s.group? (s.ridOf p.site.cell) gid with
  | some g => phaseDone (g.known p.site.cell) q
  | none => false

def State.waitgAttempt (s : State) (c0 : Consumer) (p : Pend) : Option State :=
  let l := tokVal p.ops.l
  if s.phaseKnown p (l.toNat % 256) (l.toNat / 256) then some (s.reply p.site c0 [⟨l, tokMark p.ops.l⟩]) else none

/-- WAITG (R315): it emits its own token unchanged. -/
def execWaitg (sc : Scope) (acq : Bool) (c0 : Consumer) (s : State) : Result :=
  issueBarrier (.waitg sc acq c0) c0 true s (fun s p => s.waitgAttempt c0 p)

/-- BAR: it arrives, then waits for the phase it arrived at, which its notes then hold. -/
def State.barAttempt (s : State) (rel : Bool) (c0 : Consumer) (p : Pend) : Option State :=
  let gid := (tokVal p.ops.l).toNat % 256
  match p.notes with
  | [] => (s.arrival rel p).map (fun x => { x.2 with pend := x.2.pend ++ [{ p with notes := [x.1] }] })
  | q :: _ => if s.phaseKnown p gid q then some (s.reply p.site c0 [⟨phaseTok gid q, none⟩]) else none

/-- BAR (R315). -/
def execBar (sc : Scope) (ar : Bool) (c0 : Consumer) (s : State) : Result :=
  issueBarrier (.bar sc ar c0) c0 false s (fun s p => s.barAttempt ar c0 p)

/-- PHASE_NOTIFY (R314): the value of P reaches a member cell. -/
def execPhaseNotify (rid gid cell : Nat) (s : State) : Result :=
  .next (s.updGroup rid gid (fun g => { g with learned := putKey g.learned cell g.phase }))

end Sys2Proof.Machine
end

