-- ==== Sys2Proof/Machine/Seam.lean ====
section
/-! DEFINITION. Seams (R317 to R320). -/

namespace Sys2Proof.Machine

/-- A seam record as R318 lays it out, or none where it breaks that table. -/
def seamRecord (ctx num : Nat) (d : List Byte) : Option Seam :=
  let ring := fieldAt d 0 8
  let slots := fieldAt d 8 4
  let flags := fieldAt d 12 4
  let remote := bitOf flags 0
  let popEnd := bitOf flags 1
  let bare := remote && !popEnd
  if (d.drop 16).all (· == 0) && decide (flags < 4096) && decide (ring % 64 = 0) && canonical ring &&
      (if bare then decide (ring = 0) && decide (slots = 0)
       else decide (ring ≠ 0) && decide (64 ≤ slots) && decide (slots ≤ 16777216) && decide (slots = 2 ^ slots.log2)) then
    some { ctx := ctx, num := num, ring := ring, slots := slots, remote := remote, popEnd := popEnd, member := flags / 4 % 16,
           peer := flags / 64 % 64, fab := [], back := [], first := 0, out := [] }
  else none

def State.seam? (s : State) (ctx num : Nat) : Option Seam := s.seams.find? (fun m => m.ctx == ctx && m.num == num)

def State.setSeam (s : State) (m : Seam) : State :=
  { s with seams := s.seams.map (fun x => if x.ctx = m.ctx ∧ x.num = m.num then m else x) }

/-- The address of the ring entry k places behind the oldest. -/
def Seam.slotVa (m : Seam) (k : Nat) : Nat := m.ring + 8 * ((m.first + k) % m.slots)

/-- The seam that an instruction names. -/
def seamNum (i : Instr) : Nat :=
  match i with
  | .seamoPush p _ _ | .seamoPop p _ _ | .seamoStatus p _ => p.toNat
  | _ => 0

/-- An attempt ends with a fault, which has the place of its instruction in cell order (R294, R328): its reply entries are given back (R97,
R320). -/
def State.refuse (s : State) (p : Pend) (code : Nat) : State :=
  (emitsOf p.instr .empty).foldl (fun s x => (List.range x.2).foldl (fun s _ => s.release p.site x.1) s) (s.opcodeFault p.site code p.instr (some p.stamp))

/-- The reply entries of an instruction whose fault has been raised already are given back. -/
def State.giveUp (s : State) (p : Pend) : State :=
  (emitsOf p.instr .empty).foldl (fun s x => (List.range x.2).foldl (fun s _ => s.release p.site x.1) s) s

/-- The operand tokens of an execution put back at the heads of its fields: a queue, command or host-port instruction that faults consumes
none (R97, R328; log 51). -/
def State.putBack (s : State) (t : Site) (o : Opnds) (more : List Tok) : State :=
  s.updSlot t (fun sl => [(FieldSel.l, o.l.toList ++ more), (.r, o.r.toList), (.p, o.p.toList), (.a, o.a.toList)].foldl (fun sl x =>
    sl.updField x.1 (fun q => { q with toks := x.2 ++ q.toks })) sl)

/-- An attempt that keeps waiting with a changed agent. -/
def State.keep (s : State) (p : Pend) (e : Eng) : State := { s with pend := s.pend ++ [{ p with eng := some e }] }

/-- The oldest entry of the ring moved to the in-fabric part, which has room; none where it cannot be read yet. -/
def State.seamRefill (s : State) (e : Eng) (m : Seam) : State × Eng × Option Seam :=
  match m.back with
  | [] => (s, e, some m)
  | mark :: back =>
    match s.readEng e id [(m.slotVa 0, 8)] with
    | (s, e, .bytes l) =>
      let own : Mark := if rbBad l then some e.origin else none
      (s, e, some { m with fab := m.fab ++ [⟨BitVec.ofNat 64 (rbNat l), mark.1.or own, mark.2.or own⟩], back := back,
                           first := (m.first + 1) % m.slots })
    | (s, e, _) => (s, e, none)

/-- What an attempt to append answers. -/
inductive Appended where
  | done (m : Seam)
  | full
  | blocked
  | refused
  deriving DecidableEq, Repr

/-- An entry appended at the pop end: to the in-fabric part while the ring is empty and it has room, else to the ring (R319). -/
def State.seamAppend (s : State) (e : Eng) (m : Seam) (x : SeamEntry) : State × Eng × Appended :=
  if m.back.isEmpty && decide (m.fab.length < 256) then (s, e, .done { m with fab := m.fab ++ [x] })
  else
    let (s, e, m') := if m.fab.length < 256 then s.seamRefill e m else (s, e, some m)
    match m' with
    | none => (s, e, .blocked)
    | some m =>
      if m.slots ≤ m.back.length then (s.setSeam m, e, .full)
      else
        let s := s.setSeam m
        match s.writeEng e .store e.origin [(m.slotVa m.back.length, 8)] ((leBytes 8 x.v.toNat).map (fun b => ⟨b, false⟩)) with
        | (s, e, .done) => (s, e, .done { m with back := m.back ++ [(x.lo, x.hi)] })
        | (s, e, .held) | (s, e, .wait) => (s, e, .blocked)
        | (s, e, .refused) => (s, e, .refused)

/-- The order in which instructions arrive at a queue, a seam or a host port: the cycle of arrival, then the cell, then issue (R96, R319,
R379). -/
def Pend.arrivedBefore (q p : Pend) : Bool :=
  match q.notes, p.notes with
  | t :: _, u :: _ => decide (t < u) || (decide (t = u) && (decide (q.site.cell < p.site.cell) ||
      (decide (q.site.cell = p.site.cell) && decide (q.stamp < p.stamp))))
  | _, _ => false

/-- Whether an instruction of the same kind that arrived earlier waits at the same seam, its entry not yet at the push end (R319). -/
def State.seamEarlier (s : State) (p : Pend) (e : Eng) : Bool :=
  s.pend.any (fun q => q.arrivedBefore p && decide (q.notes.length = 1) && decide (seamNum q.instr = seamNum p.instr) &&
    (match q.eng with
    | some f => f.ctx == e.ctx
    | none => false) &&
    (match q.instr, p.instr with
    | .seamoPush _ _ _, .seamoPush _ _ _ | .seamoPop _ _ _, .seamoPop _ _ _ => true
    | _, _ => false))

/-- The word tokens of an entry. -/
def SeamEntry.toks (x : SeamEntry) : List Tok := [⟨lowWord x.v, x.lo⟩, ⟨highWord x.v, x.hi⟩]

/-- The entry that a push sends. -/
def pushEntry (p : Pend) : SeamEntry := ⟨joinWords (tokVal p.ops.l) (tokVal p.ops.r), tokMark p.ops.l, tokMark p.ops.r⟩

/-- An instruction that arrives notes the cycle (R96, R319, R379). -/
def Pend.arrive (p : Pend) (now : Nat) : Pend := if p.notes.isEmpty then { p with notes := [now] } else p

/-- A turn of SEAMO at its open seam (R320). A push that releases arrives once R300 lets it, and acts after that cycle; one to a remote seam has
appended its entry once the entry has left the push end. -/
def State.seamAct (s : State) (p : Pend) (e : Eng) (m : Seam) : Option State :=
  if m.out.any (fun x => x.1 == p.stamp) then none
  else if p.notes.isEmpty then (if s.performedBefore p.site.cell p.stamp then some (s.keep (p.arrive s.cycle) e) else none)
  else if s.seamEarlier p e then none
  else match p.instr with
    | .seamoPush _ _ c0 =>
      if m.remote && m.popEnd then some (s.refuse p codeProt)
      else if e.held.isSome then none
      else if m.remote then
        (match p.notes with
        | [_, _] => some (s.reply p.site c0 [⟨0, none⟩])
        | _ => some ((s.setSeam { m with out := m.out ++ [(p.stamp, pushEntry p)] }).keep { p with notes := p.notes ++ [1] } e))
      else match s.seamAppend e m (pushEntry p) with
        | (s, _, .done m) => some ((s.setSeam m).reply p.site c0 [⟨0, none⟩])
        | (s, e, .full) | (s, e, .blocked) => some (s.keep p e)
        | (s, _, .refused) => some (s.giveUp p)
    | .seamoPop _ _ c0 =>
      if m.remote && !m.popEnd then some (s.refuse p codeProt)
      else if e.held.isSome then none
      else match m.fab with
        | x :: rest => some ((s.setSeam { m with fab := rest }).reply p.site c0 x.toks)
        | [] =>
          if m.back.isEmpty then none
          else match s.seamRefill e m with
            | (s, _, some m) => match m.fab with
              | x :: rest => some ((s.setSeam { m with fab := rest }).reply p.site c0 x.toks)
              | [] => none
            | (s, e, none) => some (s.keep p e)
    | .seamoStatus _ c0 => some (s.reply p.site c0 [⟨BitVec.ofNat 32 (m.fab.length + m.back.length + m.out.length), none⟩])
    | _ => some s

/-- A turn of SEAMO: the first that names its seam opens it from its record (R319). -/
def State.seamAttempt (s : State) (p : Pend) : Option State :=
  match p.eng with
  | none => some s
  | some e =>
    let n := seamNum p.instr
    match s.seam? e.ctx n with
    | some m => s.seamAct p e m
    | none =>
      if e.held.isSome then none
      else
        let base := (s.ctxRegs e.ctx).seamBase.toNat
        if !bitOf base 0 then some (s.refuse p codeProt)
        else match s.readEng e id [(base / 4096 * 4096 + 64 * n, 64)] with
          | (s, e, .bytes l) => match (if rbBad l then none else seamRecord e.ctx n (l.map (fun b => b.b))) with
            | none => some (s.refuse p codeProt)
            | some m =>
              let s := { s with seams := s.seams ++ [m] }
              match s.seamAct p e m with
              | some s => some s
              | none => some (s.keep p e)
          | (s, e, .held) | (s, e, .wait) => some (s.keep p e)
          | (s, _, .refused) => some (s.giveUp p)

/-- An instruction that waits with an engine agent which translates through no port. -/
def State.waitEng (s : State) (t : Site) (i : Instr) (o : Opnds) (more : List Tok) (notes : List Nat) : State :=
  let e := s.engOf t (s.fireNo t) none s.stamps
  let s := s.wait t i o more notes
  { s with pend := s.pend.modify (s.pend.length - 1) (fun p => { p with eng := some e }) }

/-- Whether an instruction is a release that arrives at its queue, seam or host port only once what it releases has been performed (R300). -/
def arrivesLate (i : Instr) : Bool :=
  match i with
  | .wqadd _ _ rel _ | .wqclose _ _ rel _ => rel
  | .seamoPush _ rel _ => rel
  | .egress _ rel _ => rel
  | _ => false

/-- The note with which an instruction begins to wait: the cycle of its arrival, none while R300 holds a release back. -/
def State.arrivalNote (s : State) (i : Instr) : List Nat :=
  if arrivesLate i && !s.performedBefore s.site.cell s.stamps then [] else [s.cycle]

/-- Issue of SEAMO: PROT outside a block of KIND 3 (R320). -/
def issueSeam (i : Instr) (s : State) : Result :=
  issueCtl i s (fun s' o =>
    match s.block? s.site with
    | none => s'
    | some b =>
      if b.kind ≠ 3 then s'.opcodeFault s.site codeProt i
      else
        let s' := (s'.reserveAll s.site (emitsOf i .empty)).waitEng s.site i o [] (s.arrivalNote i)
        s'.tryPend (s'.pend.length - 1) State.seamAttempt)

/-- SEAMO.PUSH (R320). -/
def execSeamoPush (p : BitVec 6) (rel : Bool) (c0 : Consumer) (s : State) : Result := issueSeam (.seamoPush p rel c0) s

/-- SEAMO.POP (R320). -/
def execSeamoPop (p : BitVec 6) (acq : Bool) (c0 : Consumer) (s : State) : Result := issueSeam (.seamoPop p acq c0) s

/-- SEAMO.STATUS (R320). -/
def execSeamoStatus (p : BitVec 6) (c0 : Consumer) (s : State) : Result := issueSeam (.seamoStatus p c0) s

/-- The agent of the seam unit for an entry that arrives from a push end: it acts for the context, at no instruction. -/
def seamEng (ctx : Nat) : Eng :=
  { site := ⟨0, 0, 0⟩, fire := 0, ctx := ctx, rid := 0, cell := 0, port := none, held := none, deadLogged := false, sunk := false,
    poisoned := false, stamp := 0, arr := none, wins := none, puts := none }

/-- SEAM_REMOTE_ENTRY (R319): an entry from a push end arrives at the seam of this device, once that is open and has room. An entry
that waits at a push end of this device leaves it, in push order. -/
def execSeamRemoteEntry (ctx seam : Nat) (entry : DWord) (marks : Mark × Mark) (s : State) : Result :=
  match s.seam? ctx seam with
  | none => .next s
  | some m =>
    if !(m.remote && m.popEnd) then .next s
    else
      let s0 : State := { s with seams := s.seams.map (fun (x : Seam) =>
        if x.ctx = ctx ∧ x.remote = true ∧ x.popEnd = false ∧ x.member = s.dev.member ∧ x.peer = seam ∧ x.out.head?.map (fun y => y.2) = some ⟨entry, marks.1, marks.2⟩ then
          { x with out := x.out.tail } else x) }
      match s0.seamAppend (seamEng ctx) m ⟨entry, marks.1, marks.2⟩ with
      | (s1, _, .done m) => .next (s1.setSeam m)
      | (s1, _, .full) | (s1, _, .blocked) | (s1, _, .refused) => .next { s with mem := s1.mem }

/-- A mark as bytes of a message: whether there is one, and its origin. -/
def markBytes (m : Mark) : List Byte :=
  match m with
  | some o => 1 :: leBytes 4 o.toNat
  | none => [0]

/-- The oldest entry of each push end whose peer is another member leaves for it, while the peer's seam is open and takes it (R319; log 14);
its 8 bytes are charged to the seam's context (R356; log 12). -/
def State.forwardSeams (s : State) : State :=
  let goes (x : Seam) : Bool := decide (x.member ≠ s.dev.member) && Config.seamTakes x.member x.peer s.cycle
  let gone := (s.seams.filter goes).flatMap (fun x => (x.out.take 1).map (fun y =>
    (⟨3, leBytes 2 x.ctx ++ leBytes 1 x.peer ++ leBytes 8 y.2.v.toNat ++ markBytes y.2.lo ++ markBytes y.2.hi, x.member⟩ : Sent)))
  let m := (s.seams.filter goes).foldl (fun (m : MemSys) x => if x.out.isEmpty then m else m.charge x.ctx 4 40000) s.mem
  { s with mem := m, outbox := s.outbox ++ gone, seams := s.seams.map (fun x => if goes x then { x with out := x.out.tail } else x) }

end Sys2Proof.Machine
end

