-- ==== Sys2Proof/Machine/Collective.lean ====
section
/-! DEFINITION. Collectives (R321 to R325). -/

namespace Sys2Proof.Machine

/-- What a participant runs: kind, format, operation and scope, from its instruction or from FLAGS of its command (R321). -/
structure CollSpec where
  kind : CollKind
  f : Fmt
  op : RedOp
  sc : Scope
  deriving DecidableEq, Repr

/-- The formats of collectives (R321). -/
def collFmt (k : CollKind) (f : Fmt) : Bool :=
  match f with
  | .fp32 | .bf16 | .fp16 | .int32 => true
  | .e4m3 | .e5m2 | .int8 | .uint8 => (match k with
    | .allReduce | .reduceScatter => false
    | .allGather | .broadcast | .a2aBlock | .a2aDrop => true)
  | .e2m3 | .e3m2 | .e2m1 | .x | .int4 | .code4 => false

/-- The scopes of collectives (R322). -/
def collScope (sc : Scope) : Bool :=
  match sc with
  | .grp | .dev | .sys => true
  | .pe | .cell | .region | .die => false

/-- FLAGS of a collective command, or none where it holds a value that R321 does not give. -/
def collFlags (flags : Nat) : Option CollSpec :=
  match CollKind.ofCode (flags / 64 % 8), Fmt.ofCode (flags % 16), RedOp.ofCode (flags / 16 % 4), Scope.ofCode (flags / 512 % 8) with
  | some k, some f, some op, some sc =>
    let plain := match k with
      | .allReduce | .reduceScatter => true
      | .allGather | .broadcast | .a2aBlock | .a2aDrop => op == .add
    if collFmt k f && collScope sc && plain && decide (flags < 4096) then some ⟨k, f, op, sc⟩ else none
  | _, _, _, _ => none

def isA2a (k : CollKind) : Bool :=
  match k with
  | .a2aBlock | .a2aDrop => true
  | .allReduce | .reduceScatter | .allGather | .broadcast => false

/-! Descriptors (R321). -/

def collSend (d : List Byte) : Nat := fieldAt d 0x08 8
def collRecv (d : List Byte) : Nat := fieldAt d 0x10 8
def collScnt (d : List Byte) : Nat := fieldAt d 0x18 8
def collDrops (d : List Byte) : Nat := fieldAt d 0x20 8
def collCount (d : List Byte) : Nat := fieldAt d 0x28 4
def collCap (d : List Byte) : Nat := fieldAt d 0x2C 4
def collNpart (d : List Byte) : Nat := fieldAt d 0x30 2
def collRank (d : List Byte) : Nat := fieldAt d 0x32 2
def collCid (d : List Byte) : Nat := fieldAt d 0x34 2
def collGrp (d : List Byte) : Nat := fieldAt d 0x36 1
def collRoot (d : List Byte) : Nat := fieldAt d 0x38 2

/-- The elements that a participant sends. -/
def collSends (x : CollSpec) (d : List Byte) (counts : List Nat) : Nat :=
  match x.kind with
  | .allReduce | .allGather => collCount d
  | .reduceScatter => collNpart d * collCount d
  | .broadcast => if collRank d = collRoot d then collCount d else 0
  | .a2aBlock | .a2aDrop => counts.foldl (· + ·) 0

/-- The elements that a receive buffer holds, besides the header of an all-to-all. -/
def collRecvs (x : CollSpec) (d : List Byte) : Nat :=
  match x.kind with
  | .allReduce | .reduceScatter | .broadcast => collCount d
  | .allGather => collNpart d * collCount d
  | .a2aBlock | .a2aDrop => collCap d

/-- The buffers of a participant. -/
def collRanges (x : CollSpec) (d : List Byte) (counts : List Nat) : List (Nat × Nat) :=
  let n := sizeUnits x.f
  let scnt := if isA2a x.kind then [(collScnt d, 4 * collNpart d)] else []
  let drops := if collDrops d ≠ 0 then [(collDrops d, 4 * collNpart d)] else []
  [(collSend d, n * collSends x d counts), (collRecv d, n * collRecvs x d + (if isA2a x.kind then 64 else 0))] ++ scnt ++ drops

/-- Whether some range of a list meets a later one. -/
def anyMeet : List (Nat × Nat) → Bool
  | [] => false
  | r :: rest => rest.any (rangesMeet r) || anyMeet rest

/-- The cases of BADDESC that need no counts (R321). -/
def collBad (x : CollSpec) (d : List Byte) (command : Bool) : Bool :=
  let n := sizeUnits x.f
  let a2a := isA2a x.kind
  fieldAt d 0 4 != 2 || fieldAt d 4 4 != 0 || fieldAt d 0x37 1 != 0 || fieldAt d 0x3A 2 != 0 || (!command && fieldAt d 0x3C 4 != 0) ||
    (if a2a then collCount d != 0 || collCap d == 0 || decide (2 ^ 24 < collCap d) || collScnt d % 4 != 0
     else collCap d != 0 || collCount d == 0 || decide (2 ^ 24 < collCount d) || collScnt d != 0) ||
    (if x.kind == .a2aDrop then collDrops d % 4 != 0 else collDrops d != 0) ||
    collNpart d == 0 || decide (4096 < collNpart d) || decide (collNpart d ≤ collRank d) ||
    (x.sc != .grp && collGrp d != 0) ||
    (if x.kind == .broadcast then decide (collNpart d ≤ collRoot d) else collRoot d != 0) ||
    collSend d % n != 0 || collRecv d % (if a2a then 64 else n) != 0

/-! Joining (R322). -/

/-- Whether two participants agree (R322). -/
def collAgree (x y : CollSpec) (d e : List Byte) : Bool :=
  x.kind == y.kind && x.f == y.f && x.op == y.op && collNpart d == collNpart e && collCount d == collCount e && collCap d == collCap e &&
    collRoot d == collRoot e && collGrp d == collGrp e

/-- Whether a join belongs after another of its cycle: the cell of its instruction is higher (R322). -/
def Join.after (k j : Join) : Bool := decide (k.at_ = j.at_) && decide (j.eng.cell < k.eng.cell)

/-- The last join of a list that another of its cycle goes before: the one of the highest cell. -/
def lastAfter (j : Join) : List Join → Option Join
  | [] => none
  | k :: rest => match lastAfter j rest with
    | some m => if k.after j && k.after m then some k else some m
    | none => if k.after j then some k else none

/-- A participant joins its instance, or begins the next; an instance that is full gives up, for a join of the same cycle and a lower cell, its
join of the highest, which then joins behind it (R322). At SYS the contexts that issue one CID meet. -/
def State.joinColl (s : State) (sc : Scope) : Nat → Join → State
  | 0, _ => s
  | fuel + 1, j =>
    let cid := collCid j.desc
    let fits (x : Coll) : Bool := (sc == .sys || x.ctx == j.eng.ctx) && x.scope == sc && x.cid == cid &&
      (decide (x.joins.length < x.npart) || (lastAfter j x.joins).isSome)
    match s.colls.findIdx? fits with
    | none => { s with colls := s.colls ++ [⟨j.eng.ctx, sc, collGrp j.desc, cid, collNpart j.desc, [j], [0]⟩] }
    | some k =>
      let x := s.colls.getD k ⟨0, sc, 0, 0, 0, [], []⟩
      if x.joins.length < x.npart then { s with colls := s.colls.set k { x with joins := x.joins ++ [j], written := x.written ++ [0] } }
      else match lastAfter j x.joins with
        | some m => { s with colls := s.colls.set k { x with joins := x.joins.erase m ++ [j] } }.joinColl sc fuel m
        | none => s

/-- What a turn of a participant that has not joined yet answers. -/
inductive Joining where
  | joined (s : State)
  | ended (s : State) (status : Nat)
  | fault (s : State)
  | wait (s : State) (e : Eng)

/-- Once the descriptor has passed: for an all-to-all the counts are read, then the participant joins (R321, R322). -/
def State.joinTurn (s : State) (x : CollSpec) (e : Eng) (cmd : Option Nat) (i : Option Instr) (d : List Byte) (command : Bool) : Joining :=
  if collBad x d command then .ended s 1
  else if x.sc == .grp && !((s.group? e.rid (collGrp d)).any (fun g => g.members.contains e.site.cell)) then .fault s
  else
    let go (s : State) (e : Eng) (counts : List Nat) : Joining :=
      if anyMeet (collRanges x d counts) then .ended s 1
      else .joined (s.joinColl x.sc (s.colls.length + 1)
        { eng := e, cmd := cmd, instr := i, desc := d, sent := [], counts := counts, readDone := false, status := 0, at_ := s.cycle })
    if !isA2a x.kind then go s e []
    else match s.readEng e (fun va => va / 4 * 4) [(collScnt d, 4 * collNpart d)] with
      | (s, e, .bytes l) =>
        if rbBad l then .ended s 1
        else go s e ((List.range (collNpart d)).map (fun k => fieldAt (l.map (fun b => b.b)) (4 * k) 4))
      | (s, e, .held) | (s, e, .wait) => .wait s e
      | (s, _, .refused) => .ended s 2

/-- What COLL runs. -/
def collOf (i : Instr) : Option CollSpec :=
  match i with
  | .coll f op sc kind _ => some ⟨kind, f, op, sc⟩
  | _ => none

/-- A turn of COLL: its descriptor, then the counts, then it joins; a note says that it has joined, and it waits for its token from then on
(R321, R322, R304, R325). -/
def State.collAttempt (s : State) (c0 : Consumer) (p : Pend) : Option State :=
  if !p.notes.isEmpty then none else
  match p.eng, collOf p.instr with
  | some e, some x =>
    if e.held.isSome || !s.performedBefore p.site.cell p.stamp then none
    else
      let addr := (joinWords (tokVal p.ops.l) (tokVal p.ops.r)).toNat
      let join (s : State) (e : Eng) (d : List Byte) : State :=
        match s.joinTurn x e none (some p.instr) d false with
        | .joined s => { s with pend := s.pend ++ [{ p with eng := none, notes := [1], data := d }] }
        | .ended s status => s.reply p.site c0 [⟨BitVec.ofNat 32 status, none⟩]
        | .fault s => s.refuse p codeProt
        | .wait s e => { s with pend := s.pend ++ [{ p with eng := some e, data := d }] }
      if !p.data.isEmpty then some (join s e p.data)
      else match s.readEng e id [(addr, 64)] with
        | (s, e, .bytes l) =>
          if rbBad l then some (s.reply p.site c0 [⟨1, none⟩]) else some (join s e (l.map (fun b => b.b)))
        | (s, e, .held) | (s, e, .wait) => some (s.keep p e)
        | (s, _, .refused) => some (s.reply p.site c0 [⟨2, none⟩])
  | _, _ => some s

/-- COLL (R321): a misaligned descriptor address completes BADDESC at once. -/
def execColl (f : Fmt) (op : RedOp) (sc : Scope) (kind : CollKind) (c0 : Consumer) (s : State) : Result :=
  issueCtl (.coll f op sc kind c0) s (fun s' o =>
    if (tokVal o.l).toNat % 64 ≠ 0 then s'.emit s.site c0 ⟨1, none⟩
    else
      let s' := (s'.reserveAll s.site [(c0, 1)]).waitEng s.site (.coll f op sc kind c0) o [] []
      s'.tryPend (s'.pend.length - 1) (fun s p => s.collAttempt c0 p))

/-! A complete instance (R323 to R325). -/

/-- What a participant of an instance runs. -/
def Join.spec (j : Join) : CollSpec :=
  match j.instr.bind collOf with
  | some x => x
  | none => (collFlags (fieldAt j.desc 0x3C 4)).getD ⟨.allReduce, .fp32, .add, .dev⟩

/-- Whether the participants of an instance disagree (R322). -/
def Coll.mismatch (x : Coll) : Bool :=
  match x.joins with
  | [] => false
  | j :: rest => rest.any (fun k => !collAgree j.spec k.spec j.desc k.desc) ||
      !(x.joins.map (fun j => collRank j.desc)).Nodup

/-- The participants of an instance in rank order. -/
def Coll.ranked (x : Coll) : List Join :=
  (List.range x.npart).filterMap (fun r => x.joins.find? (fun j => collRank j.desc == r))

/-- Element i of what a participant has sent: its bits and its mark, whose origin is the instruction that sent it (R384). -/
def Join.elem (j : Join) (i : Nat) : Word × Mark :=
  let (v, bad) := packedAt j.spec.f j.sent i
  (v, if bad then some j.eng.origin else none)

/-- The reduction of element i over the ranks, in rank order from rank 0 (R323), with its flags. -/
def reduceElem (f : Fmt) (op : RedOp) : List (Word × Mark) → (Word × Mark) × Word
  | [] => ((0, none), 0)
  | x :: rest => rest.foldl (fun acc y =>
      let (w, fl) := reduceWord f op acc.1.1 y.1
      ((w, acc.1.2.or y.2), acc.2 ||| fl)) (x, 0)

/-- What rank r receives in kinds 0x0 to 0x3, with the flags raised. -/
def Coll.received (x : Coll) (spec : CollSpec) (count root r : Nat) : List (Word × Mark) × Word :=
  let js := x.ranked
  let reduce (off : Nat) : List (Word × Mark) × Word :=
    (List.range count).foldl (fun acc i =>
      let (v, fl) := reduceElem spec.f spec.op (js.map (fun j => j.elem (off + i)))
      (acc.1 ++ [v], acc.2 ||| fl)) ([], 0)
  match spec.kind with
  | .allReduce => reduce 0
  | .reduceScatter => reduce (r * count)
  | .allGather => (js.flatMap (fun j => (List.range count).map j.elem), 0)
  | .broadcast => (((js.find? (fun j => collRank j.desc == root)).map (fun j => (List.range count).map j.elem)).getD [], 0)
  | .a2aBlock | .a2aDrop => ([], 0)

/-- The bytes of elements of a format. -/
def elemBytes (f : Fmt) (l : List (Word × Mark)) : List RByte :=
  l.flatMap (fun v => (leBytes (sizeUnits f) v.1.toNat).map (fun b => ⟨b, v.2.isSome⟩))

/-- The elements for a destination in the order of R324: ascending source rank, then buffer order. -/
def Coll.toRank (x : Coll) (d : Nat) : List (Word × Mark) :=
  x.ranked.flatMap (fun j =>
    let off := (j.counts.take d).foldl (· + ·) 0
    (List.range (j.counts.getD d 0)).map (fun i => j.elem (off + i)))

/-- The elements of a source that are dropped at a destination (R324). -/
def Coll.dropped (x : Coll) (src d cap : Nat) : Nat :=
  let before := (x.ranked.take src).foldl (fun n j => n + j.counts.getD d 0) 0
  let mine := ((x.ranked[src]?).map (fun j => j.counts.getD d 0)).getD 0
  (before + mine - cap) - (before - cap)

/-- The write steps of a participant: its receive buffer, or each element for it and the drop counts. -/
def Coll.goal (x : Coll) (j : Join) : Nat :=
  match j.spec.kind with
  | .allReduce | .reduceScatter | .allGather | .broadcast => 1
  | .a2aBlock => (x.toRank (collRank j.desc)).length
  | .a2aDrop => min (x.toRank (collRank j.desc)).length (collCap j.desc) + (if collDrops j.desc = 0 then 0 else 1)

/-- A write step of a participant: its agent after, and the steps done after; each poisoned element is a sink, whose record has the origin of
the first (R323, R333). -/
def State.collPut (s : State) (j : Join) (w : Nat) (va : Nat) (l : List (Word × Mark)) : State × Join × Nat :=
  let bytes := elemBytes j.spec.f l
  match s.writeEng j.eng .store ((l.findSome? (fun v => v.2)).getD j.eng.origin) [(va, bytes.length)] bytes (some (l.filter (fun v => v.2.isSome)).length) with
  | (s, e, .done) => (s, { j with eng := e }, w + 1)
  | (s, e, .held) | (s, e, .wait) => (s, { j with eng := e }, w)
  | (s, e, .refused) => (s, { j with eng := e, status := 2 }, w)

/-- Element w of an all-to-all at its slot, then RCVD (R324). -/
def State.a2aPut (s : State) (x : Coll) (j : Join) (w : Nat) : State × Join × Nat :=
  let cap := collCap j.desc
  let n := sizeUnits j.spec.f
  let recv := collRecv j.desc
  match (x.toRank (collRank j.desc))[w]? with
  | none => (s, j, w + 1)
  | some v =>
    match s.collPut j w (recv + 64 + w % cap * n) [v] with
    | (s, j, w') =>
      if w' = w then (s, j, w)
      else match s.writeEng j.eng .store j.eng.origin [(recv, 8)] ((leBytes 8 (w + 1)).map (fun b => ⟨b, false⟩)) with
        | (s, e, .done) => (s, { j with eng := e }, w + 1)
        | (s, e, .held) | (s, e, .wait) => (s, { j with eng := e }, w)
        | (s, e, .refused) => (s, { j with eng := e, status := 2 }, w)

/-- The next write step of a participant that has done w of them. -/
def State.collWrite (s : State) (x : Coll) (j : Join) (w : Nat) : State × Join × Nat :=
  let r := collRank j.desc
  match j.spec.kind with
  | .allReduce | .reduceScatter | .allGather | .broadcast =>
    let (l, fl) := x.received j.spec (collCount j.desc) (collRoot j.desc) r
    match s.collPut j w (collRecv j.desc) l with
    | (s, j, w') => if w' = w then (s, j, w) else (s.engFlags j.eng fl, j, w')
  | .a2aBlock =>
    match s.readEng j.eng id [(collRecv j.desc + 8, 8)] with
    | (s, e, .bytes l) =>
      if (w : Int) - (rbNat l : Nat) < (collCap j.desc : Int) then s.a2aPut x { j with eng := e } w else (s, { j with eng := e }, w)
    | (s, e, .held) | (s, e, .wait) => (s, { j with eng := e }, w)
    | (s, e, .refused) => (s, { j with eng := e, status := 2 }, w)
  | .a2aDrop =>
    if w < min (x.toRank r).length (collCap j.desc) then s.a2aPut x j w
    else
      let l := (List.range x.npart).flatMap (fun d => (leBytes 4 (x.dropped r d (collCap j.desc))).map (fun b => (⟨b, false⟩ : RByte)))
      match s.writeEng j.eng .store j.eng.origin [(collDrops j.desc, l.length)] l with
      | (s, e, .done) => (s, { j with eng := e }, w + 1)
      | (s, e, .held) | (s, e, .wait) => (s, { j with eng := e }, w)
      | (s, e, .refused) => (s, { j with eng := e, status := 2 }, w)

/-- A turn of a participant: what it sends is read, then, once every participant has been read, its writes. -/
def State.collTurn (s : State) (x : Coll) (allRead : Bool) (j : Join) (w : Nat) : State × Join × Nat :=
  if j.eng.held.isSome || j.status ≠ 0 then (s, j, w)
  else if !j.readDone then
    let n := sizeUnits j.spec.f
    match s.readEng j.eng (fun va => va / n * n) [(collSend j.desc, n * collSends j.spec j.desc j.counts)] with
    | (s, e, .bytes l) => (s, { j with eng := e, sent := l, readDone := true }, w)
    | (s, e, .held) | (s, e, .wait) => (s, { j with eng := e }, w)
    | (s, e, .refused) => (s, { j with eng := e, status := 2 }, w)
  else if allRead && decide (w < x.goal j) then s.collWrite x j w
  else (s, j, w)

/-- A turn of every participant of an instance. -/
def State.collTurns (s : State) (x : Coll) (allRead : Bool) : List (Join × Nat) → State × List (Join × Nat)
  | [] => (s, [])
  | (j, w) :: rest =>
    let (s, j, w) := s.collTurn x allRead j w
    let (s, l) := s.collTurns x allRead rest
    (s, (j, w) :: l)

/-- The status that a participant emits (R325). -/
def Coll.statusOf (x : Coll) (faulted : Bool) (j : Join) : Nat :=
  if x.mismatch then 5
  else if faulted then 2
  else if j.spec.kind == .a2aDrop && (List.range x.npart).any (fun d => decide (0 < x.dropped (collRank j.desc) d (collCap j.desc))) then 6
  else if j.eng.poisoned then 3
  else 0

/-- A participant completes: its token, or the result of its command (R94, R325). -/
def State.collEnd (s : State) (j : Join) (status : Nat) : State :=
  match j.cmd with
  | some slot =>
    let r := if status = 1 ∨ status = 5 then 1 else if status = 2 then 3 else 0
    { s with cmds := s.cmds.map (fun (c : Cmd) => if c.slot = slot then { c with result := some r } else c) }
  | none => match s.pend.find? (fun p => p.stamp == j.eng.stamp) with
    | none => s
    | some p => { s with pend := s.pend.filter (fun q => q.stamp != p.stamp) }.reply p.site (match p.instr with
        | .coll _ _ _ _ c0 => c0
        | _ => none) [⟨BitVec.ofNat 32 status, none⟩]

/-- Every participant of an instance completes, and the instance is gone. -/
def State.collFinish (s : State) (k : Nat) (x : Coll) (faulted : Bool) : State :=
  x.joins.foldl (fun s j => s.collEnd j (x.statusOf faulted j)) { s with colls := s.colls.eraseIdx k }

/-- COLL_COMPLETE (R322 to R325): a turn of a complete instance; it ends once every write of it is performed.
It begins in the cycle after its last join, and waits while a participant is parked. -/
def execCollComplete (k : Nat) (s : State) : Result :=
  match s.colls[k]? with
  | none => .next s
  | some x =>
    if x.joins.length < x.npart || x.joins.any (fun j => decide (j.at_ = s.cycle) || s.parked.any (fun p => p.pends.any (fun q => q.stamp == j.eng.stamp))) then .next s
    else if x.mismatch then .next (s.collFinish k x false)
    else
      let (s, l) := s.collTurns x (x.joins.all (fun j => j.readDone)) (x.joins.zip x.written)
      let x := { x with joins := l.map (fun y => y.1), written := l.map (fun y => y.2) }
      let s := { s with colls := s.colls.set k x }
      if x.joins.any (fun j => j.status = 2) then .next (s.collFinish k x true)
      else if x.joins.all (fun j => j.readDone) && l.all (fun y => decide (x.goal y.1 ≤ y.2)) then .next (s.collFinish k x false)
      else .next s

end Sys2Proof.Machine
end

