-- ==== Sys2Proof/Machine/Queue.lean ====
section
/-! DEFINITION. Work queues (R95 to R97), host ports and the host's pages and memory BAR (R77 to R80, R97, R98, R379, R383). -/

namespace Sys2Proof.Machine

/-! Work queues. -/

def State.queue? (s : State) (n : Nat) : Option WorkQueue := s.queues.find? (fun q => q.num == n)

def State.updQueue (s : State) (n : Nat) (f : WorkQueue → WorkQueue) : State :=
  { s with queues := s.queues.map (fun q => if q.num = n then f q else q) }

/-- A queue that is unbound, or bound to another context (R95). -/
def State.queueForeign (s : State) (n ctx : Nat) : Bool :=
  match s.queue? n with
  | some q => q.ctx != some ctx
  | none => true

/-- Issue of a queue instruction: PROT, which consumes no token, or it waits for its queue (R95, R97). -/
def issueQueue (i : Instr) (p : BitVec 6) (s : State) : Result :=
  issueCtl i s (fun s' o =>
    if s.queueForeign p.toNat (s.tagOf s.site.cell) then (s'.opcodeFault s.site codeProt i).putBack s.site o []
    else (s'.reserveAll s.site (emitsOf i .empty)).wait s.site i o [] (s.arrivalNote i))

/-- WQADD (R97). -/
def execWqadd (p : BitVec 6) (sc : Scope) (rel : Bool) (c0 : Consumer) (s : State) : Result := issueQueue (.wqadd p sc rel c0) p s

/-- WQTAKE (R97). -/
def execWqtake (p : BitVec 6) (sc : Scope) (acq : Bool) (c0 : Consumer) (s : State) : Result := issueQueue (.wqtake p sc acq c0) p s

/-- WQCLOSE (R97). -/
def execWqclose (p : BitVec 6) (sc : Scope) (rel : Bool) (c0 : Consumer) (s : State) : Result := issueQueue (.wqclose p sc rel c0) p s

/-- The queue of a waiting queue instruction. -/
def queueOf (i : Instr) : Option Nat :=
  match i with
  | .wqadd p _ _ _ | .wqtake p _ _ _ | .wqclose p _ _ _ => some p.toNat
  | _ => none

def isTake (i : Instr) : Bool :=
  match i with
  | .wqtake _ _ _ _ => true
  | _ => false

/-- Whether an operation that has arrived can be applied: an add stalls while the queue is open and full, a take while it is open and
empty (R97). -/
def WorkQueue.canApply (q : WorkQueue) (i : Instr) : Bool :=
  match i with
  | .wqadd _ _ _ _ => q.closed || decide (q.entries.length < 4096)
  | .wqtake _ _ _ _ => q.closed || !q.entries.isEmpty
  | .wqclose _ _ _ _ => true
  | _ => false

/-- The releases at a queue that nothing holds back any longer arrive (R96, R300). -/
def State.arriveAtQueue (s : State) (n : Nat) : State :=
  { s with pend := s.pend.map (fun p =>
      if queueOf p.instr = some n ∧ p.notes = [] ∧ s.performedBefore p.site.cell p.stamp = true then p.arrive s.cycle else p) }

/-- The operations that have arrived at a queue before a cycle, in arrival order (R96). -/
def State.arrivedAtQueue (s : State) (n : Nat) : List Pend :=
  sortBy (fun p q => !q.arrivedBefore p) (s.pend.filter (fun p => queueOf p.instr == some n && (match p.notes with
    | t :: _ => decide (t < s.cycle)
    | [] => false)))

/-- The operation that a queue applies next: the first that is not a take, or the first take, whichever comes first and can be
applied (R96). -/
def State.nextAtQueue (s : State) (q : WorkQueue) : Option Pend :=
  let l := s.arrivedAtQueue q.num
  let puts := l.filter (fun p => !isTake p.instr)
  let takes := l.filter (fun p => isTake p.instr)
  match puts.head?.filter (fun p => q.canApply p.instr), takes.head?.filter (fun p => q.canApply p.instr) with
  | some a, some b => if a.arrivedBefore b then some a else some b
  | some a, none => some a
  | none, b => b

/-- An operation applied to its queue, with its reply (R96, R97). A WQADD that finds its queue closed raises WQ_CLOSED: R97 says both that its
entry is discarded and that it consumes no FIFO entry; the model appends nothing and leaves the operand tokens in their FIFOs (DESIGN CHOICE,
log 51). -/
def State.applyQueue (s : State) (q : WorkQueue) (p : Pend) : State :=
  match p.instr with
  | .wqadd _ _ _ c0 =>
    if q.closed then (s.refuse p codeWqClosed).putBack p.site p.ops []
    else
      let v := joinWords (tokVal p.ops.l) (tokVal p.ops.r)
      (s.updQueue q.num (fun q => { q with entries := q.entries ++ [(v, p.ops.mark)], added := q.added + 1 })).reply p.site c0 [⟨q.added + 1, none⟩]
  | .wqtake _ _ _ c0 =>
    match q.entries with
    | x :: rest => (s.updQueue q.num (fun q => { q with entries := rest })).reply p.site c0 [⟨lowWord x.1, x.2⟩, ⟨highWord x.1, x.2⟩]
    | [] => s.reply p.site c0 [⟨0xFFFFFFFF, none⟩, ⟨0xFFFFFFFF, none⟩]
  | .wqclose _ _ _ c0 => (s.updQueue q.num (fun q => { q with closed := true })).reply p.site c0 [⟨0, none⟩]
  | _ => s

/-- WORK_QUEUE_APPLY (R96): at most one operation of a queue in a cycle. -/
def execWorkQueueApply (n : Nat) (s : State) : Result :=
  match s.queue? n with
  | none => .next s
  | some q =>
    let s := s.arriveAtQueue n
    if q.at? = some s.cycle then .next s
    else match s.nextAtQueue q with
      | none => .next s
      | some p =>
        .next (({ s with pend := s.pend.filter (fun x => x.stamp != p.stamp) }.updQueue n (fun q => { q with at? := some s.cycle })).applyQueue q p)

/-! Host ports (R77 to R80, R97). -/

def State.hostPort (s : State) (n : Nat) : HostPort := (s.hostPorts.find? (fun h => h.num == n)).getD ⟨n, [], false, [], 0⟩

def State.updHostPort (s : State) (n : Nat) (f : HostPort → HostPort) : State :=
  { s with hostPorts := s.hostPorts.map (fun h => if h.num = n then f h else h) }

/-- A host port that is not enabled, or not a context's own (R79). -/
def HostPort.foreign (h : HostPort) (ctx : Nat) : Bool := !h.owner.getLsbD 31 || h.owner.toNat % 4096 != ctx

/-- The host port of a waiting INGRESS or EGRESS. -/
def hostPortOf (i : Instr) : Option (Bool × Nat) :=
  match i with
  | .ingress p _ _ => some (true, p.toNat)
  | .egress p _ _ => some (false, p.toNat)
  | _ => none

/-- Whether an instruction of its kind goes first at the same host port: one that arrived earlier, or an earlier one of its cell (R379). -/
def State.hostEarlier (s : State) (p : Pend) : Bool :=
  s.pend.any (fun q => hostPortOf q.instr == hostPortOf p.instr && (q.arrivedBefore p || (decide (q.site.cell = p.site.cell) && decide (q.stamp < p.stamp))))

/-- Whether an INGRESS.ACQ waits for host writes that are still to be performed (R80). -/
def State.hostWritesOut (s : State) (i : Instr) : Bool :=
  match i with
  | .ingress _ true _ => s.hostOps.any (fun x => x.put.isSome)
  | _ => false

/-- A turn of INGRESS: the oldest ingress token (R80, R97). -/
def State.ingressAttempt (s : State) (n : Nat) (c0 : Consumer) (p : Pend) : Option State :=
  let h := s.hostPort n
  if h.foreign (s.tagOf p.site.cell) then some ((s.refuse p codeProt).putBack p.site p.ops [])
  else if s.hostEarlier p || s.hostWritesOut p.instr then none
  else match h.ingress with
    | [] => none
    | v :: rest => some ((s.updHostPort n (fun h => { h with ingress := rest })).reply p.site c0 [⟨v, p.ops.mark⟩])

/-- INGRESS (R97, R98). -/
def execIngress (p : BitVec 6) (acq : Bool) (c0 : Consumer) (s : State) : Result :=
  issueCtl (.ingress p acq c0) s (fun s' o =>
    let s' := (s'.reserveAll s.site [(c0, 1)]).wait s.site (.ingress p acq c0) o [] [s.cycle]
    s'.tryPend (s'.pend.length - 1) (fun s q => s.ingressAttempt p.toNat c0 q))

/-- Whether an earlier EGRESS of its cell to the same port has still to arrive: the entries of one cell reach a port in cell order (R379). -/
def State.behindEgress (s : State) (cell : Nat) (i : Instr) (stamp : Nat) : Bool :=
  s.pend.any (fun q => hostPortOf q.instr == hostPortOf i && decide (q.site.cell = cell) && decide (q.stamp < stamp) && q.notes.isEmpty)

/-- A turn of EGRESS: it arrives, after R300 where it is a release, and its entry is appended once the FIFO has room; a marked entry is a sink
of kind 3 (R97, R333, R379). -/
def State.egressAttempt (s : State) (n : Nat) (c0 : Consumer) (p : Pend) : Option State :=
  let h := s.hostPort n
  if h.foreign (s.tagOf p.site.cell) then some ((s.refuse p codeProt).putBack p.site p.ops [])
  else if p.notes.isEmpty then
    (if (arrivesLate p.instr && !s.performedBefore p.site.cell p.stamp) || s.behindEgress p.site.cell p.instr p.stamp then none
     else some { s with pend := s.pend ++ [p.arrive s.cycle] })
  else if s.hostEarlier p || decide (256 ≤ h.egress.length) then none
  else
    let s := s.updHostPort n (fun h => { h with egress := h.egress ++ [joinWords (tokVal p.ops.l) (tokVal p.ops.r)] })
    let s := match p.ops.mark with
      | some o => s.sink p.site 3 0 o (some p.stamp)
      | none => s
    some (s.reply p.site c0 [⟨0, none⟩])

/-- EGRESS (R97). -/
def execEgress (p : BitVec 6) (rel : Bool) (c0 : Consumer) (s : State) : Result :=
  issueCtl (.egress p rel c0) s (fun s' o =>
    let s' := (s'.reserveAll s.site [(c0, 1)]).wait s.site (.egress p rel c0) o []
      (if s.behindEgress s.site.cell (.egress p rel c0) s.stamps then [] else s.arrivalNote (.egress p rel c0))
    s'.tryPend (s'.pend.length - 1) (fun s q => s.egressAttempt p.toNat c0 q))

/-! The host's pages (R77 to R79, R366 to R368). -/

/-- ING_TOKEN (R79). -/
def execIngToken (port : BitVec 6) (v : Word) (s : State) : Result :=
  .next (s.updHostPort port.toNat (fun h =>
    if h.owner.getLsbD 31 && decide (h.ingress.length < 64) then { h with ingress := h.ingress ++ [v] } else { h with ovf := true }))

/-- Whether a context has state: a live or parked region, or a command in flight (R355). -/
def State.hasState (s : State) (ctx : Nat) : Bool :=
  s.regions.any (fun r => r.ctx == ctx && !r.gone) || s.parked.any (fun p => p.region.ctx == ctx) || s.cmds.any (fun c => c.ctx == ctx && !c.retired)

/-- EG_DATA_READ (R79): the oldest entry leaves, and counts as egressed for the port's context (R358); an empty FIFO answers all
ones. The 8 bytes are charged to the port's context (R356). -/
def execEgDataRead (port : BitVec 6) (s : State) : Result :=
  let h := s.hostPort port.toNat
  let s := { s with mem := s.mem.charge (h.owner.toNat % 4096) 4 40000 }
  match h.egress with
  | [] => .next { s with outbox := s.outbox ++ [⟨4, leBytes 8 (2 ^ 64 - 1), 0⟩] }
  | x :: rest =>
    let ctx := h.owner.toNat % 4096
    let s := s.updHostPort port.toNat (fun h => { h with egress := rest })
    let s := if s.hasState ctx then s.updCtx ctx (fun c => { c with egressed := c.egressed + 1 }) else s
    .next { s with outbox := s.outbox ++ [⟨4, leBytes 8 x.toNat, 0⟩] }

/-- OWNER_WRITE (R78, R79): the reserved bits stay 0 (R7). -/
def execOwnerWrite (port : BitVec 6) (v : Word) (s : State) : Result :=
  .next (s.updHostPort port.toNat (fun h => { h with owner := v &&& 0x80000FFF, ingress := [], egress := [] }))

/-- Whether the launch page presents the recovery registers: while BOOT_STATUS has RECOVERY or MINIMAL set (R77, R367), and the device is
supplied. -/
def State.recovering (s : State) : Bool :=
  match s.boot.phase with
  | .recovery => true
  | .off => false
  | .held | .starting | .ready | .minimal | .failed => s.boot.minimal

/-- The bridging device passes on what the host does in the ranges of another member that is present, at the charge of the link to context 0's
tag (R114, R356, R383; log 14). -/
def State.forwardHost (s : State) (kind member : Nat) (bytes : List Byte) : State :=
  if s.dev.member = 0 ∧ member < 16 ∧ Config.memberPresent member = true then s.sendMember 0 kind bytes member else s

/-- HOST_REGISTER_WRITE (R77, R78, R114): LREC0 to LREC10, or RCV_ADDR and RCV_LEN in recovery and minimal mode; ING_STAT, whose OVF a 1
clears. Every other offset ignores writes. -/
def execHostRegisterWrite (page off : Nat) (v : DWord) (s : State) : Result :=
  if page = 0 then
    if s.recovering then
      (if off = 0 then .next { s with boot := { s.boot with rcvAddr := v } }
       else if off = 8 then .next { s with boot := { s.boot with rcvLen := lowWord v } }
       else .next s)
    else if s.boot.phase = .ready ∧ off < 0x2C ∧ off % 4 = 0 then .next { s with lrec := s.lrec.set (off / 4) (lowWord v) }
    else .next s
  else if page ≤ 64 ∧ off = 8 ∧ v.getLsbD 31 = true then .next (s.updHostPort (page - 1) (fun h => { h with ovf := false }))
  else if 65 ≤ page then .next (s.forwardHost 10 (page / 65) (leBytes 1 (page % 65) ++ leBytes 2 off ++ leBytes 8 v.toNat))
  else .next s

/-! The memory BAR (R383). -/

/-- The physical address of an offset of the memory BAR. -/
def barAddr (off : Nat) : Option Nat :=
  if off < 0x8000000000 then some off
  else if off < 0x8020000000 then some (0x8000000000000 + (off - 0x8000000000))
  else none

/-- Whether the memory BAR reads 0 and ignores writes: in recovery and minimal mode (R383), and while the device is held, starts or has failed to,
of which the spec says nothing (DESIGN CHOICE, log 45). -/
def State.barClosed (s : State) : Bool :=
  match s.boot.phase with
  | .ready => false
  | .off | .held | .starting | .recovery | .minimal | .failed => true

/-- A host read within one line: it wakes nothing and logs nothing; the second answer says that EP is set. A read of the previous copies of a
versioned page is refused (R226) with EP and free bytes, since no record may tell of it (log 6). -/
def State.hostLine (s : State) (off n : Nat) : State × List Byte × Bool :=
  match barAddr off with
  | none => (s, List.replicate n 0, false)
  | some pa =>
    if s.mem.refuses pa then ({ s with fresh := s.fresh + 1 }, (List.range n).map (fun i => Config.spadByte s.fresh (pa + i)), true)
    else if target pa = some .spad then
      let dead := !(s.mem.seg (pa / 4096)).live || (match (s.mem.bank (spadBank pa)).st with
        | .off | .waking true _ => true
        | .waking false _ | .keep | .full => false)
      if dead then ({ s with fresh := s.fresh + 1 }, (List.range n).map (fun i => Config.spadByte s.fresh (pa + i)), true)
      else ({ s with mem := (s.mem.charge 0 3 (800 * n)) }, (List.range n).map (fun i => s.mem.spadByte (pa + i)), s.mem.marks.contains (pa / 64))
    else match s.mem.read s.cycle 0 pa n with
      | (m, .bytes bs poison) => ({ s with mem := m }, bs, poison)
      | (m, .dead) | (m, .wait) => ({ s with mem := m }, List.replicate n 0, false)

/-- The lines of a host access, in order. -/
def State.hostLines (s : State) : List (Nat × Nat) → State × List Byte × Bool
  | [] => (s, [], false)
  | (off, n) :: rest =>
    let (s, bs, ep) := s.hostLine off n
    let (s, bs', ep') := s.hostLines rest
    (s, bs ++ bs', ep || ep')

/-- Package sleep ends (R371, R383). -/
def State.wakeUp (s : State) : State := { s with boot := { s.boot with sleep := false } }

/-- HOST_MEMORY_READ (R383): it takes a device in package sleep to idle first (R371), and stands behind the requests of the cells that arrive in the same cycle. -/
def execHostMemoryRead (off n : Nat) (s : State) : Result :=
  let s := s.wakeUp
  if s.barClosed then .next { s with outbox := s.outbox ++ [⟨5, List.replicate n 0, 0⟩] }
  else if 2 ^ 40 ≤ off then
    let t := s.forwardHost 13 (off / 2 ^ 40) (leBytes 5 (off % 2 ^ 40) ++ leBytes 4 n)
    .next (if t.outbox.length = s.outbox.length then { s with outbox := s.outbox ++ [(⟨5, List.replicate n 0, 0⟩ : Sent)] } else t)
  else .next { s with hostOps := s.hostOps ++ [⟨off, none, n, s.cycle⟩] }

/-- HOST_MEMORY_WRITE (R383): a scratchpad bank is woken as by any write, and the write performed once it is FULL. -/
def execHostMemoryWrite (off : Nat) (bytes : List Byte) (s : State) : Result :=
  let s := s.wakeUp
  if s.barClosed then .next s
  else if 2 ^ 40 ≤ off then .next (s.forwardHost 12 (off / 2 ^ 40) (leBytes 5 (off % 2 ^ 40) ++ bytes))
  else .next { s with hostOps := s.hostOps ++ [⟨off, some bytes, bytes.length, s.cycle⟩] }

/-- A record without a cell: the host has written in the previous copies of a versioned page (R226; log 6). -/
def State.hostProt (s : State) (pa : Nat) : State := s.logAlone 0 ⟨causeWord codeProt 0 false false false, 0, BitVec.ofNat 64 pa, 0, 0⟩

/-- The lines of a host write, from a byte of it on; what a waking bank holds back is left, with its arrival (R177, R383). -/
def State.hostPut (s : State) (off arr : Nat) (bytes : List Byte) : List (Nat × Nat) → State × Option HostOp
  | [] => (s, none)
  | x :: rest =>
    match barAddr x.1 with
    | none => s.hostPut off arr bytes rest
    | some pa =>
      if s.mem.refuses pa then (s.hostProt pa).hostPut off arr bytes rest else
      let (m, g) := if target pa = some .spad then s.mem.writeGate s.cycle pa else (s.mem, .go)
      match g with
      | .wait => ({ s with mem := m }, some ⟨x.1, some (bytes.drop (x.1 - off)), bytes.length - (x.1 - off), arr⟩)
      | .go | .dead =>
        let m := (m.write s.cycle 0 pa ((bytes.drop (x.1 - off)).take x.2) false).1
        { s with mem := m.charge 0 4 (5000 * x.2) }.hostPut off arr bytes rest

/-- The host accesses performed in their order, until one waits (R305, R383). -/
def State.hostDrain (s : State) : List HostOp → State
  | [] => { s with hostOps := [] }
  | x :: rest =>
    match x.put with
    | none =>
      let (s, bs, ep) := s.hostLines (lineChunks x.off x.n)
      { s with mem := s.mem.charge 0 4 (5000 * x.n), outbox := s.outbox ++ [(⟨5, bs, ep.toNat⟩ : Sent)] }.hostDrain rest
    | some bytes =>
      match s.hostPut x.off x.arr bytes (lineChunks x.off bytes.length) with
      | (s, none) => s.hostDrain rest
      | (s, some y) => { s with hostOps := y :: rest }

/-- The turn at memory of a host access that has waited there: the oldest is tried again, at the place of its arrival (R177). -/
def State.hostTurn (s : State) : State :=
  let rest := s.hostOps.tail
  let t := s.hostDrain (s.hostOps.take 1)
  { t with hostOps := t.hostOps ++ rest }

/-- What a host read of a register without effect answers (R77, R78, R368); BOOT_STATUS is a parameter. -/
def State.hostRegister (s : State) (bootStatus : Word) (page off : Nat) : DWord :=
  if page = 0 then
    if off = 0x80 then bootStatus.zeroExtend 64
    else if s.recovering then (if off = 0 then s.boot.rcvAddr else if off = 8 then s.boot.rcvLen.zeroExtend 64 else 0)
    else if off = 0x40 then BitVec.ofNat 64 (s.launchQ.filter (fun l => !l.judged)).length
    else 0
  else if 65 ≤ page then 0
  else
    let h := s.hostPort (page - 1)
    if off = 8 then BitVec.ofNat 64 (h.ingress.length + h.ovf.toNat * 2 ^ 31)
    else if off = 0x18 then BitVec.ofNat 64 h.egress.length
    else if off = 0x20 then h.owner.zeroExtend 64
    else 0

/-- A host read of a register without effect (R77, R114): this device's own pages answer here; those of another member that is present are
passed on by the bridging device, and that member answers (log 14). -/
def State.hostRead (s : State) (bootStatus : Word) (page off : Nat) : State × Option DWord :=
  if 65 ≤ page then
    let t := s.forwardHost 11 (page / 65) (leBytes 1 (page % 65) ++ leBytes 2 off)
    if t.outbox.length = s.outbox.length then (s, some 0) else (t, none)
  else (s, some (s.hostRegister bootStatus page off))

end Sys2Proof.Machine
end

