-- ==== Sys2Proof/Machine/Loader.lean ====
section
/-! DEFINITION. Graph images and the loader: the layout of R8 to R16, R111, R116 and R236, the checks of R18, R23, R44, R112,
R117, R118 and R127 in their order, and the result word of R24. -/

namespace Sys2Proof.Machine

/-! Fields of an image. -/

def imgU32 (ws : List Word) (off : Nat) : Nat := (ws.getD (off / 4) 0).toNat
def imgU8 (ws : List Word) (off : Nat) : Nat := imgU32 ws off / 2 ^ (8 * (off % 4)) % 256
def imgU16 (ws : List Word) (off : Nat) : Nat := imgU8 ws off + 256 * imgU8 ws (off + 1)
def imgU64 (ws : List Word) (off : Nat) : Nat := imgU32 ws off + 2 ^ 32 * imgU32 ws (off + 4)

/-- Whether n bytes from an offset are all zero. -/
def imgZero (ws : List Word) (off n : Nat) : Bool := (List.range n).all (fun i => imgU8 ws (off + i) == 0)

/-- A block of a variant (R15, R16): its offset, placement and header fields, and its words. -/
structure ImgBlock where
  off : Nat
  x : Nat
  y : Nat
  ctx : Nat
  kind : Nat
  nin : Nat
  nout : Nat
  lgFire : Nat
  words : List Word
  deriving DecidableEq, Repr

/-- A channel entry (R116). -/
structure ImgChan where
  off : Nat
  raw : Nat
  sx : Nat
  sy : Nat
  sctx : Nat
  sch : Nat
  dx : Nat
  dy : Nat
  dctx : Nat
  dch : Nat
  cap : Nat
  deriving DecidableEq, Repr

/-- A link-route entry (R111). -/
structure ImgLink where
  off : Nat
  raw : Nat
  sx : Nat
  sy : Nat
  spe : Nat
  dx : Nat
  dy : Nat
  dpe : Nat
  sctx : Nat
  dctx : Nat
  track : Nat
  yfirst : Bool
  field : FieldSel
  deriving DecidableEq, Repr

/-- A window entry (R236): where it lies, its place, and the window, or none where its fields break the table. -/
structure ImgWin where
  off : Nat
  x : Nat
  y : Nat
  port : Nat
  bad : Option Nat
  win : Option Window
  deriving DecidableEq, Repr

/-- A group entry (R13): its id and its member halfwords. -/
structure ImgGroup where
  off : Nat
  raw : Nat
  gid : Nat
  members : List Nat
  deriving DecidableEq, Repr

/-- A seed entry (R14). -/
structure ImgSeed where
  off : Nat
  raw : Nat
  x : Nat
  y : Nat
  ch : Nat
  ctx : Nat
  value : Word
  deriving DecidableEq, Repr

/-- A variant (R10): its rectangle, fold, power, and the entries of its sections; `groupEnd` is the head of a group entry that runs
past SIZE. -/
structure ImgVar where
  w : Nat
  h : Nat
  fold : Nat
  power : Nat
  blocks : List ImgBlock
  links : List ImgLink
  chans : List ImgChan
  wins : List ImgWin
  benches : List Nat
  groups : List ImgGroup
  groupEnd : Option Nat
  seeds : List ImgSeed
  deriving DecidableEq, Repr

/-! Reading the sections. -/

/-- The block entry at an offset (R15, R16). -/
def imgBlock (ws : List Word) (p : Nat) : ImgBlock :=
  let pw := imgU32 ws p
  let h := imgU32 ws (p + 4)
  { off := p, x := bits pw 0 5, y := bits pw 5 5, ctx := bits pw 10 2, kind := bits h 22 4, nin := bits h 18 4, nout := bits h 14 4,
    lgFire := bits h 8 6, words := (ws.drop (p / 4 + 2)).take (bits h 26 6 + 1) }

/-- The bytes that a block entry whose header lies at p + 4 fills. -/
def blockBytes (ws : List Word) (p : Nat) : Nat := 8 + 4 * (bits (imgU32 ws (p + 4)) 26 6 + 1)

def imgBlocks (ws : List Word) : Nat → Nat → List ImgBlock
  | 0, _ => []
  | n + 1, p => imgBlock ws p :: imgBlocks ws n (p + blockBytes ws p)

def imgChan (ws : List Word) (q : Nat) : ImgChan :=
  let v := imgU64 ws q
  { off := q, raw := v, sx := bits v 0 5, sy := bits v 5 5, sctx := bits v 10 2, sch := bits v 12 3, dx := bits v 16 5, dy := bits v 21 5,
    dctx := bits v 26 2, dch := bits v 28 3, cap := bits v 32 13 }

def imgLink (ws : List Word) (q : Nat) : ImgLink :=
  let v := imgU64 ws q
  { off := q, raw := v, sx := bits v 0 5, sy := bits v 5 5, spe := bits v 10 4, dx := bits v 14 5, dy := bits v 19 5, dpe := bits v 24 4,
    sctx := bits v 28 2, dctx := bits v 30 2, track := bits v 32 4, yfirst := bitOf v 36, field := FieldSel.ofCode (bits v 37 2) }

/-- A window entry: its bits are those of a WIN record but for PLACE, and its LENGTH is nonzero; `bad` is the first of its fields that
breaks the table of R236, by its offset. -/
def imgWin (ws : List Word) (q : Nat) : ImgWin :=
  let place := imgU32 ws (q + 0x18)
  let d := leBytes 24 (imgU64 ws q + 2 ^ 64 * imgU64 ws (q + 8) + 2 ^ 128 * imgU64 ws (q + 16)) ++ leBytes 4 0 ++ leBytes 4 (imgU32 ws (q + 0x1C))
  let checks := [(decide (imgU64 ws (q + 8) ≠ 0), 0x08), (decide (place / 2 ^ 19 = 0), 0x18)] ++ winChecks d
  { off := q, x := bits place 0 5, y := bits place 5 5, port := bits place 10 6,
    bad := [0x00, 0x08, 0x10, 0x18, 0x1C].find? (fun o => checks.any (fun c => c.2 == o && !c.1)), win := winRecord (bits place 16 3) d }

/-- The bytes of a group entry with m members. -/
def groupBytes (m : Nat) : Nat := 4 + (2 * m + 3) / 4 * 4

/-- The group entries from an offset, up to one that runs past SIZE, whose head is then given. -/
def imgGroups (ws : List Word) (size : Nat) : Nat → Nat → List ImgGroup × Option Nat
  | 0, _ => ([], none)
  | n + 1, p =>
    let head := imgU32 ws p
    let m := bits head 8 12
    if size < p + 4 ∨ size < p + groupBytes m then ([], some p)
    else
      let (l, e) := imgGroups ws size n (p + groupBytes m)
      (⟨p, head, bits head 0 8, (List.range m).map (fun i => imgU16 ws (p + 4 + 2 * i))⟩ :: l, e)

def imgSeed (ws : List Word) (q : Nat) : ImgSeed :=
  let v := imgU32 ws q
  { off := q, raw := v, x := bits v 0 5, y := bits v 5 5, ch := bits v 10 3, ctx := bits v 13 2, value := BitVec.ofNat 32 (imgU32 ws (q + 4)) }

/-- The offset and the entry count of section t of a variant record; an absent section has no entries (R11). -/
def imgSection (ws : List Word) (r t : Nat) : Nat × Nat :=
  let o := imgU32 ws (r + 4 + 4 * t)
  if o = 0 then (0, 0) else (o, imgU32 ws o % 2 ^ 24)

/-- The entries of a section of fixed entry size. -/
def imgEntries {α : Type} (ws : List Word) (r t size : Nat) (f : List Word → Nat → α) : List α :=
  let (o, n) := imgSection ws r t
  (List.range n).map (fun i => f ws (o + 4 + size * i))

/-- The variant whose record lies at r. -/
def imgVar (ws : List Word) (r : Nat) : ImgVar :=
  let size := imgU32 ws 8
  let h := imgU8 ws (r + 1)
  let b := imgSection ws r 5
  let g := imgSection ws r 6
  let gs := imgGroups ws size g.2 (g.1 + 4)
  { w := imgU8 ws r, h := h, fold := imgU8 ws (r + 2), power := imgU16 ws (r + 6),
    blocks := imgBlocks ws (imgSection ws r 1).2 ((imgSection ws r 1).1 + 4), links := imgEntries ws r 2 8 imgLink,
    chans := imgEntries ws r 3 8 imgChan, wins := imgEntries ws r 4 32 imgWin,
    benches := if b.1 = 0 then List.replicate ((h + 1) / 2) 0 else (List.range b.2).map (fun i => imgU8 ws (b.1 + 4 + i)),
    groups := gs.1, groupEnd := gs.2, seeds := imgEntries ws r 7 8 imgSeed }

/-- NLIFT, NVAR of a lift, and the record of a variant (R8, R9). -/
def imgNlift (ws : List Word) : Nat := imgU16 ws 6
def imgLift (ws : List Word) (n : Nat) : Nat := imgU32 ws 0x0C + 32 * n
def imgNvar (ws : List Word) (n : Nat) : Nat := imgU8 ws (imgLift ws n)
def imgRecord (ws : List Word) (n v : Nat) : Nat := imgU32 ws (imgLift ws n + 4 + 4 * v)
def imageVar (ws : List Word) (n v : Nat) : ImgVar := imgVar ws (imgRecord ws n v)

/-! Declared rates and productions (R119). -/

def declRate (words : List Word) (c : Nat) : Nat :=
  words.foldl (fun n w => match decodeWord w with
    | .ok (.recv ch k off _) | .ok (.peek ch k off _) => if ch.toNat = c then max n (off.toNat + k.toNat) else n
    | _ => n) 0

def declProd (words : List Word) (c : Nat) : Nat :=
  words.foldl (fun n w => match decodeWord w with
    | .ok (.send ch k) => if ch.toNat = c then n + k.toNat else n
    | _ => n) 0

/-! CRC-32 (R8). -/

def crcBit (c : BitVec 32) : BitVec 32 := if c.getLsbD 0 then (c >>> 1) ^^^ 0xEDB88320 else c >>> 1

def crcByte (c : BitVec 32) (b : Nat) : BitVec 32 := (List.range 8).foldl (fun c _ => crcBit c) (c ^^^ BitVec.ofNat 32 b)

def crcWord (c : BitVec 32) (w : Word) : BitVec 32 :=
  [w.toNat % 256, w.toNat / 256 % 256, w.toNat / 65536 % 256, w.toNat / 16777216].foldl crcByte c

/-- CRC-32 over words. -/
def crcOf (l : List Word) : Word := ~~~(l.foldl crcWord 0xFFFFFFFF)

/-! Checks: the first failure names its code and its offset. -/

/-- The codes of R24. -/
inductive LoadCode where
  | opcode | field | target | check | cycle | place
  deriving DecidableEq, Repr

def LoadCode.value : LoadCode → Nat
  | .opcode => 0x41
  | .field => 0x42
  | .target => 0x43
  | .check => 0x44
  | .cycle => 0x45
  | .place => 0x46

structure LoadErr where
  code : LoadCode
  off : Nat
  deriving DecidableEq, Repr

/-- The first failure of a list of checks, if any: each check is a condition with its failure. -/
def firstErr : List (Bool × LoadErr) → Option LoadErr
  | [] => none
  | x :: rest => if x.1 then firstErr rest else some x.2

/-- The first failure over the elements of a list. -/
def errOver {α : Type} (f : α → Option LoadErr) : List α → Option LoadErr
  | [] => none
  | x :: rest => match f x with
    | some e => some e
    | none => errOver f rest

/-! Steps 1 to 3 (R8, R9). -/

def checkHeader (ws : List Word) : Option LoadErr :=
  let size := imgU32 ws 8
  let dir := imgU32 ws 0x0C
  firstErr [(decide (imgU32 ws 0 = 0x39565250), ⟨.field, 0⟩), (decide (imgU16 ws 4 = 1), ⟨.field, 4⟩),
    (decide (1 ≤ imgNlift ws) && decide (imgNlift ws ≤ 64), ⟨.field, 6⟩), (decide (size % 4 = 0) && decide (0x60 ≤ size), ⟨.field, 8⟩),
    (decide (dir % 4 = 0) && decide (dir < size), ⟨.field, 0x0C⟩), (imgZero ws 0x14 44, ⟨.field, 0x14⟩)]

def checkCrc (ws : List Word) : Option LoadErr :=
  firstErr [(crcOf ((ws.take (imgU32 ws 8 / 4)).drop 16) == ws.getD 4 0, ⟨.check, 0x10⟩)]

def checkLift (ws : List Word) (n : Nat) : Option LoadErr :=
  let size := imgU32 ws 8
  let e := imgLift ws n
  let nvar := imgNvar ws n
  if size < e + 32 then some ⟨.field, e⟩
  else firstErr ([(decide (1 ≤ nvar) && decide (nvar ≤ 4), ⟨.field, e⟩)] ++
    (List.range 4).map (fun v =>
      let o := imgRecord ws n v
      ((if v < nvar then decide (o ≠ 0) && decide (o % 4 = 0) && decide (o < size) else decide (o = 0)), ⟨.field, e + 4 + 4 * v⟩)) ++
    [(imgZero ws (e + 1) 3, ⟨.field, e + 1⟩), (imgZero ws (e + 0x14) 12, ⟨.field, e + 0x14⟩)])

/-! Step 4 (R10, R11). -/

/-- The entry size of a section of fixed entry size. -/
def entrySize (t : Nat) : Nat :=
  match t with
  | 2 | 3 | 7 => 8
  | 4 => 32
  | 5 => 1
  | _ => 0

/-- Whether a section word's count is one that R11 admits. -/
def countOk (t n nblk h : Nat) : Bool :=
  match t with
  | 1 => n == nblk
  | 2 => decide (n ≤ 16384)
  | 3 => decide (n ≤ 8192)
  | 5 => n == (h + 1) / 2
  | 6 => decide (n ≤ 256)
  | _ => decide (n ≤ 4096)

def checkRecord (ws : List Word) (r : Nat) : Option LoadErr :=
  let size := imgU32 ws 8
  let w := imgU8 ws r
  let h := imgU8 ws (r + 1)
  let fold := imgU8 ws (r + 2)
  let nblk := imgU16 ws (r + 4)
  let secs := (List.range 7).map (fun i => i + 1)
  if size < r + 64 then some ⟨.field, r⟩
  else firstErr ([(decide (1 ≤ w) && decide (w ≤ 32), ⟨.field, r⟩), (decide (1 ≤ h) && decide (h ≤ 32), ⟨.field, r + 1⟩),
      (fold == 1 || fold == 2 || fold == 4, ⟨.field, r + 2⟩), (imgU8 ws (r + 3) == 0, ⟨.field, r + 3⟩),
      (decide (1 ≤ nblk) && decide (nblk ≤ w * h * fold), ⟨.field, r + 4⟩), (imgZero ws (r + 0x24) 28, ⟨.field, r + 0x24⟩)] ++
    secs.map (fun t =>
      let o := imgU32 ws (r + 4 + 4 * t)
      ((if o = 0 then t != 1 else decide (o % 4 = 0) && decide (o + 4 ≤ size)), ⟨.field, r + 4 + 4 * t⟩)) ++
    secs.map (fun t =>
      let (o, n) := imgSection ws r t
      (o == 0 || (imgU32 ws o / 2 ^ 24 == t && countOk t n nblk h), ⟨.field, o⟩)) ++
    secs.map (fun t =>
      let (o, n) := imgSection ws r t
      (o == 0 || decide (o + 4 + (entrySize t * n + 3) / 4 * 4 ≤ size), ⟨.field, o⟩)))

/-! Steps 5 to 12 (R15 to R18, R41 to R44). -/

/-- The channel limit of a format C word (R44). -/
def channelOk (w : Word) (nin nout : Nat) : Bool :=
  let n := w.toNat
  let ch := bits n 21 3
  match bits n 24 8 with
  | 0x80 | 0x81 | 0x83 => decide (ch < nin)
  | 0x82 | 0x84 => decide (ch < nout)
  | 0x85 => if bitOf n 14 then decide (ch < nout) else decide (ch < nin)
  | _ => true

/-- Whether an opcode may stand at an index of its block (R17). -/
def slotOk (w : Word) (i : Nat) : Bool :=
  let op := bits w.toNat 24 8
  w == 0 || decide (i % 4 = 0) == (decide (0x40 ≤ op) && decide (op ≤ 0x71))

/-- Steps 8, 9 and 10 on one word. -/
def checkWord (b : ImgBlock) (i : Nat) (w : Word) : Option LoadErr :=
  let off := b.off + 8 + 4 * i
  match decodeWord w with
  | .error .opcode => some ⟨.opcode, off⟩
  | .error .field => some ⟨.field, off⟩
  | .error .consumer | .ok _ => firstErr [(channelOk w b.nin b.nout, ⟨.field, off⟩), (slotOk w i, ⟨.place, off⟩)]

/-- The instruction of a word that has passed steps 8 to 10, whatever its consumer slots hold: they are judged at its own place in
step 11. Only format D has fields of a second slot in [17:9]; the other formats keep theirs there (R27). -/
def bareDecode (w : Word) : Except Reject Instr :=
  match decodeWord w with
  | .ok i => .ok i
  | .error _ => match decodeWord (w &&& 0xFFFFFE00) with
    | .ok i => .ok i
    | .error _ => decodeWord (w &&& 0xFFFC0000)

/-- One consumer slot of a word against R18; answers the stream fields that have a producer after it. -/
def checkConsumer (b : ImgBlock) (off : Nat) (stream : Bool) (fed : List (Nat × FieldSel)) (c : Consumer) :
    Except LoadErr (List (Nat × FieldSel)) :=
  match c with
  | none => .ok fed
  | some t =>
    let k := t.index.toNat
    match b.words[k]?.map bareDecode with
    | none | some (.ok .nop) => .error ⟨.target, off⟩
    | some (.error _) => .ok fed
    | some (.ok i) =>
      match i.accepts.find? (fun x => x.1 == t.field) with
      | none => .error ⟨.field, off⟩
      | some (_, isStream) =>
        if isStream != stream then .error ⟨.field, off⟩
        else if stream && fed.contains (k, t.field) then .error ⟨.field, off⟩
        else .ok (if stream then fed ++ [(k, t.field)] else fed)

def checkConsumers (b : ImgBlock) (off : Nat) (stream : Bool) : List Consumer → List (Nat × FieldSel) → Except LoadErr (List (Nat × FieldSel))
  | [], fed => .ok fed
  | c :: rest, fed => match checkConsumer b off stream fed c with
    | .error e => .error e
    | .ok fed => checkConsumers b off stream rest fed

/-- Step 11 on the words of a block. A malformed slot is judged at its place: c0 first, so a word whose c0 stands alone in it is
judged by that. -/
def checkTargets (b : ImgBlock) : Nat → List Word → List (Nat × FieldSel) → Option LoadErr
  | _, [], _ => none
  | i, w :: rest, fed =>
    let off := b.off + 8 + 4 * i
    match decodeWord w with
    | .ok j => match checkConsumers b off j.emitsStream j.consumers fed with
      | .error e => some e
      | .ok fed => checkTargets b (i + 1) rest fed
    | .error _ =>
      match decodeWord (w &&& 0xFFFC01FF) with
      | .ok j => match checkConsumers b off j.emitsStream j.consumers fed with
        | .error e => some e
        | .ok _ => some ⟨.field, off⟩
      | .error _ => some ⟨.field, off⟩

/-- The sum of the bytes of a word. -/
def wordSum (w : Nat) : Nat := w % 256 + w / 256 % 256 + w / 65536 % 256 + w / 16777216

/-- Steps 5 to 12 on the block entry at an offset. -/
def checkBlock (ws : List Word) (v : ImgVar) (p : Nat) : Option LoadErr :=
  let size := imgU32 ws 8
  if size < p + 4 then some ⟨.field, p⟩
  else if size < p + 8 then some ⟨.field, p + 4⟩
  else
    let b := imgBlock ws p
    let header := imgU32 ws (p + 4)
    match firstErr [(decide (imgU32 ws p < 4096), ⟨.field, p⟩),
        (decide (b.x < v.w) && decide (b.y < v.h) && decide (b.ctx < v.fold), ⟨.place, p⟩),
        (decide (b.kind ≤ 4) && decide (b.nin ≤ 8) && decide (b.nout ≤ 8) && (decide (b.lgFire ≤ 47) || b.lgFire == 63), ⟨.field, p + 4⟩),
        (decide (p + blockBytes ws p ≤ size), ⟨.field, p + 4⟩)] with
    | some e => some e
    | none => match errOver (fun x => checkWord b x.2 x.1) b.words.zipIdx with
      | some e => some e
      | none => match checkTargets b 0 b.words [] with
        | some e => some e
        | none => firstErr [(decide ((b.words.foldl (fun n w => n + wordSum w.toNat) (wordSum header)) % 256 = 0x5A), ⟨.check, p + 4⟩)]

def checkBlocks (ws : List Word) (v : ImgVar) : Nat → Nat → Option LoadErr
  | 0, _ => none
  | n + 1, p => match checkBlock ws v p with
    | some e => some e
    | none => checkBlocks ws v n (p + blockBytes ws p)

/-! Step 13 (R13, R15, R116 to R118). -/

def ImgVar.block? (v : ImgVar) (x y ctx : Nat) : Option ImgBlock := v.blocks.find? (fun b => b.x == x && b.y == y && b.ctx == ctx)

/-- The block of a later entry with the place of an earlier one. -/
def duplicate : List ImgBlock → Option LoadErr
  | [] => none
  | bs => match (bs.zipIdx.find? (fun p => (bs.take p.2).any (fun c => c.x == p.1.x && c.y == p.1.y && c.ctx == p.1.ctx))) with
    | some p => some ⟨.place, p.1.off⟩
    | none => none

/-- The capacity that channel entries have claimed so far in a cell. -/
def ImgVar.claimed (v : ImgVar) (l : List ImgChan) (x y : Nat) : Nat :=
  l.foldl (fun n c => if c.dx = x ∧ c.dy = y ∧ (v.block? c.dx c.dy c.dctx).isSome then n + c.cap else n) 0

/-- One channel entry against R117, after those before it. The spec orders the passes of one cell; that each entry is judged by the
three cases of R117 in turn, in the order of the table, and that the seed pass of R118 follows over all cells, is the model's
(DESIGN CHOICE, log 34). -/
def ImgVar.checkCap (v : ImgVar) (before : List ImgChan) (c : ImgChan) : Option LoadErr :=
  let consumer := v.block? c.dx c.dy c.dctx
  let producer := v.block? c.sx c.sy c.sctx
  firstErr [(consumer.isNone || decide (v.claimed (before ++ [c]) c.dx c.dy ≤ 4096), ⟨.place, c.off⟩),
    (decide (((consumer.map (fun b => declRate b.words c.dch)).getD 0) ≤ c.cap), ⟨.place, c.off⟩),
    (decide (((producer.map (fun b => declProd b.words c.sch)).getD 0) ≤ c.cap), ⟨.place, c.off⟩)]

/-- Whether a seed entry passes step 15 (R14). -/
def ImgVar.seedOk (v : ImgVar) (s : ImgSeed) : Bool :=
  decide (s.raw < 2 ^ 15) && ((v.block? s.x s.y s.ctx).any (fun b => decide (s.ch < b.nin)))

def ImgVar.fed (v : ImgVar) (x y ctx ch : Nat) : Bool := v.chans.any (fun c => c.dx == x && c.dy == y && c.dctx == ctx && c.dch == ch)

/-- The capacity of an input channel that no channel entry names (R118). -/
def ImgVar.seedCap (v : ImgVar) (b : ImgBlock) (ch : Nat) : Nat :=
  max (declRate b.words ch) (v.seeds.filter (fun s => v.seedOk s && s.x == b.x && s.y == b.y && s.ctx == b.ctx && s.ch == ch)).length

/-- The capacity of the seed channels of a block. -/
def ImgVar.seedCaps (v : ImgVar) (b : ImgBlock) : Nat :=
  ((List.range b.nin).filter (fun ch => !v.fed b.x b.y b.ctx ch)).foldl (fun n ch => n + v.seedCap b ch) 0

/-- The second pass of R118: the first block in section order whose seed channels push its cell past the store. -/
def ImgVar.checkSeedStore (v : ImgVar) : Option LoadErr :=
  errOver (fun (p : ImgBlock × Nat) =>
    let b := p.1
    let mine := (v.blocks.take (p.2 + 1)).filter (fun c => c.x == b.x && c.y == b.y)
    let seedTotal := mine.foldl (fun n c => n + v.seedCaps c) 0
    if seedTotal = 0 ∨ v.claimed v.chans b.x b.y + seedTotal ≤ 4096 then none
    else match v.seeds.find? (fun s => v.seedOk s && s.x == b.x && s.y == b.y) with
      | some s => some ⟨.place, s.off⟩
      | none => some ⟨.place, ((mine.find? (fun c => decide (0 < v.seedCaps c))).map (fun c => c.off)).getD b.off⟩) v.blocks.zipIdx

/-- The group limits of R13: ids are distinct, a cell lies at most once in a group and in at most 4 groups. -/
def ImgVar.checkGroupLimits (v : ImgVar) : Option LoadErr :=
  errOver (fun (p : ImgGroup × Nat) =>
    let before := v.groups.take p.2
    firstErr [(!before.any (fun g => g.gid == p.1.gid) && decide (p.1.members.map (· % 1024)).Nodup, ⟨.place, p.1.off⟩),
      (p.1.members.all (fun m => decide ((before.filter (fun g => g.members.any (fun k => k % 1024 == m % 1024))).length < 4)), ⟨.place, p.1.off⟩)])
    v.groups.zipIdx

def ImgVar.check13 (v : ImgVar) : Option LoadErr :=
  match errOver (fun (c : ImgChan) => firstErr [(!bitOf c.raw 15 && !bitOf c.raw 31 && decide (c.raw < 2 ^ 45) && decide (1 ≤ c.cap) &&
      decide (c.cap ≤ 4096), ⟨.field, c.off⟩)]) v.chans with
  | some e => some e
  | none => match duplicate v.blocks with
    | some e => some e
    | none => match errOver (fun p => v.checkCap (v.chans.take p.2) p.1) v.chans.zipIdx with
      | some e => some e
      | none => match v.checkSeedStore with
        | some e => some e
        | none => v.checkGroupLimits

/-! Step 14 (R116). -/

def ImgVar.checkEnds (v : ImgVar) (before : List ImgChan) (c : ImgChan) : Option LoadErr :=
  firstErr [((v.block? c.sx c.sy c.sctx).any (fun b => decide (c.sch < b.nout)), ⟨.target, c.off⟩),
    ((v.block? c.dx c.dy c.dctx).any (fun b => decide (c.dch < b.nin)), ⟨.target, c.off⟩),
    (!before.any (fun d => (d.sx == c.sx && d.sy == c.sy && d.sctx == c.sctx && d.sch == c.sch) ||
      (d.dx == c.dx && d.dy == c.dy && d.dctx == c.dctx && d.dch == c.dch)), ⟨.target, c.off⟩)]

/-- The output channel that a SEND, ADVP or CHST.OUT names. -/
def outputOf (w : Word) : Option Nat :=
  match decodeWord w with
  | .ok (.send ch _) | .ok (.advp ch _) | .ok (.chst ch true _) => some ch.toNat
  | _ => none

def ImgVar.check14 (v : ImgVar) : Option LoadErr :=
  match errOver (fun p => v.checkEnds (v.chans.take p.2) p.1) v.chans.zipIdx with
  | some e => some e
  | none => errOver (fun (b : ImgBlock) => errOver (fun (p : Word × Nat) => match outputOf p.1 with
      | none => none
      | some ch => firstErr [(v.chans.any (fun c => c.sx == b.x && c.sy == b.y && c.sctx == b.ctx && c.sch == ch), ⟨.target, b.off + 8 + 4 * p.2⟩)])
      b.words.zipIdx) v.blocks

/-! Step 15 (R12 to R14, R111, R112, R236). -/

/-- The slot-0 instruction at a PE of a block. -/
def ImgBlock.slot0 (b : ImgBlock) (pe : Nat) : Option Instr :=
  match b.words[4 * pe]?.map decodeWord with
  | some (.ok .nop) | some (.error _) | none => none
  | some (.ok i) => some i

/-- Whether a word of a block names a field. -/
def ImgBlock.names (b : ImgBlock) (index : Nat) (f : FieldSel) : Bool :=
  b.words.any (fun w => match decodeWord w with
    | .ok i => i.consumers.any (fun c => match c with
      | some t => t.index.toNat == index && t.field == f
      | none => false)
    | .error _ => false)

/-- The cells that a walk of n steps visits along one axis, the first included. -/
def axisSteps (a b : Nat) : List (Nat × Nat) :=
  if a ≤ b then (List.range (b - a)).map (fun i => (a + i, a + i + 1)) else (List.range (a - b)).map (fun i => (a - i, a - i - 1))

/-- The hops of a route, each a pair of neighbouring cells (R111). -/
def ImgLink.hops (l : ImgLink) : List ((Nat × Nat) × (Nat × Nat)) :=
  let row (y : Nat) := (axisSteps l.sx l.dx).map (fun p => ((p.1, y), (p.2, y)))
  let col (x : Nat) := (axisSteps l.sy l.dy).map (fun p => ((x, p.1), (x, p.2)))
  if l.yfirst then col l.sx ++ row l.dy else row l.sy ++ col l.dx

def ImgVar.checkLink (v : ImgVar) (before : List ImgLink) (l : ImgLink) : Option LoadErr :=
  let src := (v.block? l.sx l.sy l.sctx).bind (fun b => b.slot0 l.spe)
  let dst := v.block? l.dx l.dy l.dctx
  firstErr [(decide (l.raw < 2 ^ 39) && decide (l.sx < v.w) && decide (l.dx < v.w) && decide (l.sy < v.h) && decide (l.dy < v.h) &&
      !(l.sx == l.dx && l.sy == l.dy) && (src.any (fun i => i.emitsStream && !i.consumers.isEmpty)) &&
      ((dst.bind (fun b => b.slot0 l.dpe)).any (fun i => i.accepts.any (fun x => x.1 == l.field && x.2))) &&
      !(dst.any (fun b => b.names (4 * l.dpe) l.field)) &&
      !before.any (fun m => m.dx == l.dx && m.dy == l.dy && m.dctx == l.dctx && m.dpe == l.dpe && m.field == l.field) &&
      !before.any (fun m => m.track == l.track && m.hops.any (fun h => l.hops.contains h)), ⟨.field, l.off⟩)]

/-- A window entry against R236: OFFSET is that of the field that fails; where two windows of a port meet it is the later entry (R24; log 34). -/
def ImgVar.checkWin (v : ImgVar) (before : List ImgWin) (e : ImgWin) : Option LoadErr :=
  match e.bad, e.win with
  | some o, _ => some ⟨.field, e.off + o⟩
  | none, none => some ⟨.field, e.off⟩
  | none, some w =>
    let same := before.filter (fun f => f.x == e.x && f.y == e.y && f.port == e.port)
    firstErr [(decide (e.x < v.w) && decide (e.y < v.h) && !same.any (fun f => f.win.any (fun u => u.slot == w.slot)), ⟨.field, e.off + 0x18⟩),
      (!same.any (fun f => f.win.any (fun u => rangesMeet (u.vbase, u.len) (w.vbase, w.len))), ⟨.field, e.off⟩)]

/-- Bench bytes and their padding (R12). -/
def checkBenches (ws : List Word) (r : Nat) : Option LoadErr :=
  let (o, n) := imgSection ws r 5
  if o = 0 then none
  else firstErr ((List.range n).map (fun i => (decide (imgU8 ws (o + 4 + i) ≤ 5), ⟨.field, o + 4 + i⟩)) ++
    [(imgZero ws (o + 4 + n) ((n + 3) / 4 * 4 - n), ⟨.field, o + 4 + n⟩)])

def ImgVar.checkGroup (v : ImgVar) (ws : List Word) (g : ImgGroup) : Option LoadErr :=
  let m := g.members.length
  firstErr ([(decide (g.raw < 2 ^ 20) && decide (1 ≤ m) && decide (m ≤ 1024), ⟨.field, g.off⟩)] ++
    g.members.mapIdx (fun i k => (decide (k < 1024) && decide (k % 32 < v.w) && decide (k / 32 < v.h), ⟨.field, g.off + 4 + 2 * i⟩)) ++
    [(imgZero ws (g.off + 4 + 2 * m) (groupBytes m - 4 - 2 * m), ⟨.field, g.off + 4 + 2 * m⟩)])

def ImgVar.checkSeed (v : ImgVar) (s : ImgSeed) : Option LoadErr :=
  firstErr [(decide (s.raw < 2 ^ 15), ⟨.field, s.off⟩), (v.seedOk s, ⟨.target, s.off⟩)]

def ImgVar.check15 (v : ImgVar) (ws : List Word) (r : Nat) : Option LoadErr :=
  match errOver (fun p => v.checkLink (v.links.take p.2) p.1) v.links.zipIdx with
  | some e => some e
  | none => match errOver (fun p => v.checkWin (v.wins.take p.2) p.1) v.wins.zipIdx with
    | some e => some e
    | none => match checkBenches ws r with
      | some e => some e
      | none => match errOver (v.checkGroup ws) v.groups with
        | some e => some e
        | none => match v.groupEnd with
          | some p => some ⟨.field, p⟩
          | none => errOver v.checkSeed v.seeds

/-! Step 16 (R127). -/

/-- A node of the channel graph: a block's place. -/
abbrev Node := Nat × Nat × Nat

def ImgChan.src (c : ImgChan) : Node := (c.sx, c.sy, c.sctx)
def ImgChan.dst (c : ImgChan) : Node := (c.dx, c.dy, c.dctx)

/-- The nodes reached from a list of nodes in at most so many rounds. -/
def reached (chans : List ImgChan) : Nat → List Node → List Node
  | 0, l => l
  | n + 1, l =>
    let next := (chans.filter (fun c => l.contains c.src && !l.contains c.dst)).map ImgChan.dst
    if next.isEmpty then l else reached chans n (l ++ next.eraseDups)

/-- Whether a channel lies on a directed cycle: its consumer reaches its producer. -/
def onCycle (chans : List ImgChan) (c : ImgChan) : Bool := (reached chans chans.length [c.dst]).contains c.src

def ImgVar.check16 (v : ImgVar) : Option LoadErr :=
  errOver (fun (c : ImgChan) =>
    let prod := ((v.block? c.sx c.sy c.sctx).map (fun b => declProd b.words c.sch)).getD 0
    if prod < c.cap then none
    else if onCycle v.chans c then some ⟨.cycle, c.off⟩ else none) v.chans

/-! The whole image (R23, R24). -/

/-- Steps 4 to 16 on one variant. -/
def checkVariant (ws : List Word) (r : Nat) : Option LoadErr :=
  match checkRecord ws r with
  | some e => some e
  | none =>
    let v := imgVar ws r
    match checkBlocks ws v v.blocks.length ((imgSection ws r 1).1 + 4) with
    | some e => some e
    | none => match v.check13 with
      | some e => some e
      | none => match v.check14 with
        | some e => some e
        | none => match v.check15 ws r with
          | some e => some e
          | none => v.check16

/-- The result word of a failure in a variant of a lift (R24). -/
def loadResult (e : LoadErr) (lift var : Nat) : DWord :=
  BitVec.ofNat 64 (e.code.value + lift * 2 ^ 8 + var * 2 ^ 14 + e.off * 2 ^ 16)

/-- The variants of a lift, from one on. -/
def checkVariants (ws : List Word) (n : Nat) : List Nat → Option DWord
  | [] => none
  | v :: rest => match checkVariant ws (imgRecord ws n v) with
    | some e => some (loadResult e n v)
    | none => checkVariants ws n rest

def checkLifts (ws : List Word) : List Nat → Option DWord
  | [] => none
  | n :: rest => match checkLift ws n with
    | some e => some (loadResult e n 0)
    | none => match checkVariants ws n (List.range (imgNvar ws n)) with
      | some d => some d
      | none => checkLifts ws rest

/-- The loader's verdict on an image given as its words: 0 where it is accepted (R23, R24). -/
def loadImage (ws : List Word) : DWord :=
  match checkHeader ws with
  | some e => loadResult e 0 0
  | none => match checkCrc ws with
    | some e => loadResult e 0 0
    | none => (checkLifts ws (List.range (imgNlift ws))).getD 0

end Sys2Proof.Machine
end

