-- ==== Sys2Proof/Machine/Launch.lean ====
section
/-! DEFINITION. Launches: the record, the checks, the grant, the wave, seeds, preloads (R81 to R90, R104 to R109, R115 to R120,
R161, R218, R236). -/

namespace Sys2Proof.Machine

/-! The sequencer's memory accesses (R84). -/

/-- A write by the sequencer through a context's page table; one that faults is not made, and is logged as a PAGE or PROT record (R84). `cmd` is
the command that retires after it (R92, R301). -/
def State.seqWrite (s : State) (ctx va : Nat) (bytes : List Byte) (cmd : Option Nat := none) : State :=
  let fault (s : State) (code : Nat) : State := s.logAlone ctx ⟨causeWord code 0 false false false, 0, BitVec.ofNat 64 va, 0, 0⟩
  match s.mem.translateSeq s.cycle ctx (s.ctxRegs ctx).ptRoot va .store with
  | (m, .ok pa _) =>
    if (target pa).isSome then { s with mem := m.post s.cycle ctx pa bytes cmd } else fault { s with mem := m } codeProt
  | (m, .fault code) => fault { s with mem := m } code
  | (m, .walk) => fault { s with mem := m } codePage

/-- A read by the sequencer within one line; the bytes of a dead segment are free, and no bank is woken. -/
def State.seqLine (s : State) (ctx va n : Nat) : State × Except Nat (List Byte) :=
  match s.mem.translateSeq s.cycle ctx (s.ctxRegs ctx).ptRoot va .load with
  | (m, .ok pa _) =>
    if (target pa).isNone then ({ s with mem := m }, .error codeProt)
    else match m.read s.cycle ctx pa n with
      | (m', .bytes bs _) => ({ s with mem := m' }, .ok bs)
      | (_, .dead) => ({ s with mem := m, fresh := s.fresh + 1 }, .ok ((List.range n).map (fun i => Config.spadByte s.fresh (pa + i))))
      | (_, .wait) => ({ s with mem := m }, .ok ((List.range n).map (fun i => m.spadByte (pa + i))))
  | (m, .fault code) => ({ s with mem := m }, .error code)
  | (m, .walk) => ({ s with mem := m }, .error codePage)

/-- A read by the sequencer: the bytes, or the code and the address of the fault. -/
def State.seqLines (s : State) (ctx : Nat) : List (Nat × Nat) → State × Except (Nat × Nat) (List Byte)
  | [] => (s, .ok [])
  | (va, n) :: rest => match s.seqLine ctx va n with
    | (s, .error code) => (s, .error (code, va))
    | (s, .ok bs) => match s.seqLines ctx rest with
      | (s, .error e) => (s, .error e)
      | (s, .ok bs') => (s, .ok (bs ++ bs'))

def State.seqRead (s : State) (ctx va n : Nat) : State × Except (Nat × Nat) (List Byte) := s.seqLines ctx (lineChunks va n)

/-- The words of a run of bytes (R6). -/
def wordsIn : List Byte → List Word
  | a :: b :: c :: d :: rest => (d ++ c ++ b ++ a) :: wordsIn rest
  | _ => []

/-! Launch records (R81). -/

def Launch.word (l : Launch) (n : Nat) : Nat := (l.words.getD n 0).toNat
def Launch.ctx (l : Launch) : Nat := bits (l.word 0) 0 12
def Launch.prio (l : Launch) : Nat := bits (l.word 0) 12 4
def Launch.variant (l : Launch) : Nat := bits (l.word 0) 16 2
def Launch.vauto (l : Launch) : Bool := bitOf (l.word 0) 18
def Launch.lift0 (l : Launch) : Nat := bits (l.word 0) 22 6
def Launch.seedn (l : Launch) : Nat := bits (l.word 1) 0 13
def Launch.die (l : Launch) : Nat := bits (l.word 2) 0 2
def Launch.x0 (l : Launch) : Nat := bits (l.word 2) 2 5
def Launch.y0 (l : Launch) : Nat := bits (l.word 2) 7 5
def Launch.pauto (l : Launch) : Bool := bitOf (l.word 2) 12
def Launch.image (l : Launch) : Nat := l.word 4 + 2 ^ 32 * l.word 5
def Launch.result (l : Launch) : Nat := l.word 6 + 2 ^ 32 * l.word 7
def Launch.qmask (l : Launch) : Nat := l.word 8 + 2 ^ 32 * l.word 9

/-- The codes of a launch status (R84). -/
inductive LaunchStatus where
  | launched | loader | badrec | denied | novar | qbusy | groupclash | qfull | faulted | ended
  deriving DecidableEq, Repr

def LaunchStatus.code : LaunchStatus → Nat
  | .launched => 0
  | .loader => 1
  | .badrec => 2
  | .denied => 3
  | .novar => 4
  | .qbusy => 5
  | .groupclash => 6
  | .qfull => 7
  | .faulted => 8
  | .ended => 9

/-- The launch status written to its result area, and the child-launch command that waits for it given its result; the command retires once the
write is performed (R84, R92, R301). -/
def State.tellLaunch (s : State) (ctx result : Nat) (cmd : Option Nat) (st : LaunchStatus) : State :=
  let s := s.seqWrite ctx (result + 8) (leBytes 8 st.code) cmd
  match cmd with
  | some slot => { s with cmds := s.cmds.map (fun (c : Cmd) => if c.slot = slot then { c with result := some (if st = .faulted then 3 else 0) } else c) }
  | none => s

def State.endLaunch (s : State) (l : Launch) (st : LaunchStatus) : State := s.tellLaunch l.ctx l.result l.cmd st

/-- Step 1 of R83 but for CTX: reserved bits zero, addresses aligned and canonical, SEEDN at most 4,096. An odd Y0, for which R83 has no status,
fails here too unless PAUTO = 1 leaves it unread (DESIGN CHOICE, log 61). -/
def Launch.bad (l : Launch) : Bool :=
  bits (l.word 0) 19 3 != 0 || bits (l.word 0) 28 4 != 0 || decide (2 ^ 13 ≤ l.word 1) || decide (4096 < l.seedn) || decide (2 ^ 13 ≤ l.word 2) ||
    l.word 3 != 0 || l.word 10 != 0 || l.word 11 != 0 || l.image % 64 != 0 || !canonical l.image || l.result % 16 != 0 || !canonical l.result ||
    (!l.pauto && l.y0 % 2 == 1)

/-- The launch tokens that wait to be dispatched; those that a thermal stop keeps for QFULL are none of them (R82, R361). -/
def State.queued (s : State) : List Launch := s.launchQ.filter (fun l => !l.judged)

/-- A launch token: queued, or QFULL (R82). In a thermal stop, in which no memory access is performed, QFULL is written once clocks restart
(R361). -/
def State.raiseLaunch (s : State) (l : Launch) : State :=
  if s.queued.length < 64 then { s with launchQ := s.launchQ ++ [l], stamps := s.stamps + 1 }
  else if s.thermal then { s with launchQ := s.launchQ ++ [{ l with judged := true }] }
  else s.endLaunch l .qfull

/-- LAUNCH_TOKEN (R82, R371): a write to LREC11. In recovery and minimal mode it is ignored (R77), and so it is while the device is held, starts
or has failed to, of which the spec says nothing (DESIGN CHOICE, log 45). -/
def execLaunchToken (v : Word) (s : State) : Result :=
  if s.boot.phase = .ready then
    let s := { s with lrec := s.lrec.set 11 v }
    .next (s.raiseLaunch { words := s.lrec, cmd := none, by0 := false, order := s.stamps, img := none, vars := [], judged := false }).wakeUp
  else .next s

/-! Residency (R85). -/

def State.image? (s : State) (id : Nat) : Option Image := s.images.find? (fun i => i.id == id)

/-- The global number of the cell at a place of a die (R102). -/
def cellNum (die x y : Nat) : Nat := die * 1024 + y * 32 + x

/-- The cells of a rectangle in ascending order. -/
def rectCells (die x0 y0 w h : Nat) : List (Nat × Nat × Nat) :=
  (List.range h).flatMap (fun y => (List.range w).map (fun x => (cellNum die (x0 + x) (y0 + y), x, y)))

/-- Whether a cell holds a lift's variant in its context slots. -/
def State.cellLoaded (s : State) (cell img lift var : Nat) : Bool :=
  s.loaded.any (fun x => x.cell == cell && x.img == img && x.lift == lift && x.var == var)

/-- The launches that the device firmware makes once it has reported ready: they alone, and child launches of context 0, may name context 0
(R81); what they hold is not in the spec (log 52). -/
def State.raiseFirmware (s : State) : List (List Word) → State
  | [] => s
  | ws :: rest => (s.raiseLaunch { words := ws, cmd := none, by0 := true, order := s.stamps, img := none, vars := [], judged := false }).raiseFirmware rest

/-- The origins at which a rectangle fits a die, in the order of R107. -/
def origins (w h : Nat) : List (Nat × Nat × Nat) :=
  (List.range 4).flatMap (fun d => ((List.range 16).filter (fun k => decide (2 * k + h ≤ 32))).flatMap (fun k =>
    ((List.range 32).filter (fun x => decide (x + w ≤ 32))).map (fun x => (d, x, 2 * k))))

/-- The places that a launch admits for a rectangle. -/
def Launch.places (l : Launch) (w h : Nat) : List (Nat × Nat × Nat) :=
  if l.pauto then origins w h else if l.x0 + w ≤ 32 ∧ l.y0 + h ≤ 32 then [(l.die, l.x0, l.y0)] else []

/-- The variants that a launch admits. -/
def Launch.wanted (l : Launch) (ws : List Word) : List Nat :=
  if l.vauto then List.range (imgNvar ws l.lift0) else if l.variant < imgNvar ws l.lift0 then [l.variant] else []

/-- Whether a configuration is resident for a launch: the CRC field is that of its load, and some place that it admits holds one of
its variants in every cell. -/
def State.residentFor (s : State) (l : Launch) (i : Image) (crc : Word) : Bool :=
  i.words.getD 4 0 == crc && decide (l.lift0 < imgNlift i.words) && (l.wanted i.words).any (fun v =>
    let x := imageVar i.words l.lift0 v
    (l.places x.w x.h).any (fun p => (rectCells p.1 p.2.1 p.2.2 x.w x.h).all (fun c => s.cellLoaded c.1 i.id l.lift0 v)))

/-- The image of a launch: resident, or read and judged by the loader (R83 step 2). -/
inductive ImageFor where
  | ok (i : Image)
  | rejected (result : DWord)
  | fault (code va : Nat)

/-- The image of a launch (R83 step 2, R85): a launch of a context without state always runs the loader. -/
def State.loadFor (s : State) (l : Launch) : State × ImageFor :=
  match s.seqRead l.ctx l.image 64 with
  | (s, .error e) => (s, .fault e.1 e.2)
  | (s, .ok head) =>
    let hw := wordsIn head
    match s.images.reverse.find? (fun i => s.hasState l.ctx && i.ctx == l.ctx && i.va == l.image && s.residentFor l i (hw.getD 4 0)) with
    | some i => (s, .ok i)
    | none =>
      match checkHeader hw with
      | some e => (s, .rejected (loadResult e 0 0))
      | none => match s.seqRead l.ctx (l.image + 64) (imgU32 hw 8 - 64) with
        | (s, .error e) => (s, .fault e.1 e.2)
        | (s, .ok rest) =>
          let ws := hw ++ wordsIn rest
          let r := loadImage ws
          if r ≠ 0 then (s, .rejected r)
          else
            let i : Image := ⟨s.stamps, l.ctx, l.image, ws⟩
            ({ s with images := s.images ++ [i], stamps := s.stamps + 1 }, .ok i)

/-- Whether every queue that a launch claims is unbound or its own context's (R83 step 4). -/
def State.queuesFree (s : State) (l : Launch) : Bool :=
  (List.range 64).all (fun q => !bitOf l.qmask q || (match s.queue? q with
    | some x => x.ctx == none || x.ctx == some l.ctx
    | none => true))

/-- Steps 1 to 4 of R83: the launch fails with its status, or waits for cells. -/
def State.judgeLaunch (s : State) (l : Launch) : State :=
  if l.bad then s.endLaunch l .badrec
  else if l.ctx = 0 ∧ l.by0 = false then s.endLaunch l .denied
  else match s.loadFor l with
    | (s, .fault code va) =>
      (s.logAlone l.ctx ⟨causeWord code 0 false false false, 0, BitVec.ofNat 64 va, 0, 0⟩).endLaunch l .faulted
    | (s, .rejected r) => (s.seqWrite l.ctx l.result (leBytes 8 r.toNat)).endLaunch l .loader
    | (s, .ok i) =>
      let s := s.seqWrite l.ctx l.result (leBytes 8 0)
      if imgNlift i.words ≤ l.lift0 then s.endLaunch l .badrec
      else
        let fits := (l.wanted i.words).filter (fun v =>
          let x := imageVar i.words l.lift0 v
          !(l.places x.w x.h).isEmpty)
        let seeded := fits.filter (fun v => decide (l.seedn ≤ (imageVar i.words l.lift0 v).seeds.length))
        if fits.isEmpty then s.endLaunch l .novar
        else if seeded.isEmpty then s.endLaunch l .badrec
        else if !s.queuesFree l then s.endLaunch l .qbusy
        else { s with launches := s.launches ++ [{ l with img := some i.id, vars := seeded }] }

/-- LAUNCH_DISPATCH (R83): the oldest launch token, after those that a thermal stop has kept for QFULL; launches wait while clocks are stopped
(R361). It takes a device in package sleep to idle (R371). -/
def execLaunchDispatch (s : State) : Result :=
  if s.thermal || s.boot.phase ≠ .ready then .next s
  else match s.launchQ.find? (fun l => l.judged) with
    | some l => .next ({ s with launchQ := s.launchQ.erase l }.endLaunch l .qfull)
    | none => match s.launchQ with
      | [] => .next s
      | l :: rest => .next ({ s with launchQ := rest }.wakeUp.judgeLaunch l)

/-! Benches (R12, R105, R360). -/

/-- The divider sequence of R12 and its place k. -/
def dividers : List Nat := [1, 2, 3, 4, 6, 8]

def dividerUp (d steps : Nat) : Nat := dividers.getD (min 5 (dividers.findIdx (fun x => decide (d ≤ x)) + steps)) 8

/-- The regions that hold cells. -/
def State.live (s : State) : List Region := s.regions.filter (fun r => !r.gone)

/-- The variant that a region runs. -/
def State.varOf (s : State) (r : Region) : Option ImgVar := (s.image? r.img).map (fun i => imageVar i.words r.lift r.var)

/-- The divider that a region declares for a bench of its die: that of its variant. For a bench of its rectangle beyond the height of its
current variant the spec gives none; the model asks for no less than 8 there (R12; DESIGN CHOICE, log 44). -/
def State.declared (s : State) (r : Region) (bench : Nat) : Option Nat :=
  if bench < r.y0 / 2 ∨ r.y0 / 2 + (r.h + 1) / 2 ≤ bench then none
  else match s.varOf r with
    | some v => some (match v.benches[bench - r.y0 / 2]? with
      | some code => dividers.getD code 8
      | none => 8)
    | none => some 1

/-- The divider of a bench: the smallest that a live region there declares, raised by the hardware limits (R105, R360). -/
def State.benchDivider (s : State) (die bench : Nat) : Nat :=
  let asked := (s.live.filter (fun r => r.die == die)).filterMap (fun r => s.declared r bench)
  let d := asked.foldl min 8
  match s.benches.find? (fun b => b.num == die * 16 + bench) with
  | some b => max (dividerUp d b.droop) (dividerUp d b.current)
  | none => d

/-- A time still to come that stands so many bench cycles ahead at divider d, set so many bench cycles ahead at divider d' (R105). -/
def retime (now d d' due : Nat) : Nat := if due ≤ now ∨ d = d' then due else (now / d' + ((due - 1) / d - now / d + 1)) * d'

/-- A time past, kept as many bench cycles behind (R105). -/
def backdate (now d d' was : Nat) : Nat := if d = d' then was else (now / d' - (now / d - was / d)) * d'

/-- A bank of registers whose bench changes its divider: its wake and its idle cycles go on in bench cycles (R105, R165). -/
def Bank.retime (now d d' : Nat) (b : Bank) : Bank :=
  { st := match b.st with
      | .waking off due => .waking off (Machine.retime now d d' due)
      | .off | .keep | .full => b.st
    busyAt := backdate now d d' b.busyAt }

/-- A number whose entries still to come are timed by the bench of its source (R105, R181). -/
def Num.retime (now : Nat) (f : Nat → Nat × Nat) (n : Num) : Num :=
  { n with came := n.came.map (fun k => Machine.retime now (f n.src.site.cell).1 (f n.src.site.cell).2 k) }

def FieldQ.retime (now : Nat) (f : Nat → Nat × Nat) (q : FieldQ) : FieldQ := { q with nums := q.nums.map (Num.retime now f) }

/-- A cell whose bench changes its divider, and the numbers on their way to it. -/
def Cell.retime (now : Nat) (f : Nat → Nat × Nat) (c : Cell) : Cell :=
  let (d, d') := f c.num
  { c with
    divider := d'
    regs := { c.regs with gBanks := c.regs.gBanks.map (Bank.retime now d d'), vBanks := c.regs.vBanks.map (Bank.retime now d d') }
    blocks := c.blocks.map (fun b => { b with slots := b.slots.map (fun sl =>
      { sl with l := sl.l.retime now f, r := sl.r.retime now f, p := sl.p.retime now f, a := sl.a.retime now f }) }) }

/-- The cell that sends a pointer update: the producer of a channel its PP, the consumer its CP (R123, R129). -/
def State.senderOf (s : State) (m : ChanMsg) : Nat :=
  match s.block? ⟨m.cell, m.ctx, 0⟩ with
  | none => m.cell
  | some b => if m.toConsumer then (b.inChan m.chan).srcCell else (b.outChan m.chan).cell

/-- Every cell given the divider of its bench; what is under way goes on in bench cycles: those of its cell for tokens, register banks and
spalls, those of the sender for pointers and numbers (R105, R137, R165). The spec lets a new divider take hold within 16 cycles of an arrival
or a departure (R105); the model applies it at once (DESIGN CHOICE, log 53). -/
def State.setDividers (s : State) : State :=
  let f (cell : Nat) : Nat × Nat := match s.cell? cell with
    | some c => (c.divider, if 4096 ≤ c.num then c.divider else s.benchDivider c.die (c.num / 32 % 32 / 2))
    | none => (1, 1)
  let to' (cell due : Nat) : Nat := retime s.cycle (f cell).1 (f cell).2 due
  { s with
    cells := s.cells.map (Cell.retime s.cycle f)
    flight := s.flight.map (fun x => { x with due := to' x.site.cell x.due })
    chanMsgs := s.chanMsgs.map (fun m => { m with due := to' (s.senderOf m) m.due })
    spalls := s.spalls.map (fun x => { x with due := to' x.dest.site.cell x.due }) }

/-! Building cells (R115 to R120, R161, R218, R236). -/

/-- The hops between two cells of a region. -/
def hopsBetween (ax ay bx b_y : Nat) : Nat := (max ax bx - min ax bx) + (max ay b_y - min ay b_y)

/-- Where a variant is placed. -/
structure Placed where
  die : Nat
  x0 : Nat
  y0 : Nat
  deriving DecidableEq, Repr

def Placed.num (p : Placed) (x y : Nat) : Nat := cellNum p.die (p.x0 + x) (p.y0 + y)

def buildIn (p : Placed) (v : ImgVar) (b : ImgBlock) (ch : Nat) : InChan :=
  match v.chans.find? (fun c => c.dx == b.x && c.dy == b.y && c.dctx == b.ctx && c.dch == ch) with
  | some c => { cap := c.cap, cp := 0, pp := 0, buf := List.replicate c.cap ⟨0, none⟩, advanced := false, fed := true,
                srcCell := p.num c.sx c.sy, srcCtx := c.sctx, srcChan := c.sch, hops := hopsBetween c.sx c.sy c.dx c.dy }
  | none =>
    let cap := v.seedCap b ch
    { cap := cap, cp := 0, pp := 0, buf := List.replicate cap ⟨0, none⟩, advanced := false, fed := false, srcCell := 0, srcCtx := 0, srcChan := 0,
      hops := 0 }

def buildOut (p : Placed) (v : ImgVar) (b : ImgBlock) (ch : Nat) : OutChan :=
  match v.chans.find? (fun c => c.sx == b.x && c.sy == b.y && c.sctx == b.ctx && c.sch == ch) with
  | some c => { cell := p.num c.dx c.dy, ctx := c.dctx, chan := c.dch, cap := c.cap, hops := hopsBetween c.sx c.sy c.dx c.dy, pp := 0, w := 0, cpv := 0,
                advanced := false, present := true }
  | none => .absent

/-- A block in its context slot as the wave or the wedge leaves it (R115 to R122). -/
def buildBlock (p : Placed) (v : ImgVar) (b : ImgBlock) : Block :=
  { ctx := b.ctx, kind := b.kind, nin := b.nin, nout := b.nout, lgFire := b.lgFire, words := b.words,
    rates := (List.range 8).map (declRate b.words), prods := (List.range 8).map (declProd b.words),
    slots := List.replicate b.words.length .empty, ins := (List.range b.nin).map (buildIn p v b), outs := (List.range b.nout).map (buildOut p v b),
    fireNo := 0, fired := 0, firing := false, fend := none }

/-- The link routes from a cell (R111). -/
def buildRoutes (p : Placed) (v : ImgVar) (x y : Nat) : List Route :=
  (v.links.filter (fun l => l.sx == x && l.sy == y)).map (fun l =>
    { ctx := l.sctx, pe := l.spe, cell := p.num l.dx l.dy, dctx := l.dctx, dpe := l.dpe, field := l.field, hops := hopsBetween l.sx l.sy l.dx l.dy })

/-- Whether a page of a window is mapped for its context where the window says, with its permissions (R236), and memory after the look. -/
def State.windowPage (s : State) (ctx : Nat) (w : Window) (k : Nat) : MemSys × Bool :=
  match s.mem.tablePa s.cycle ctx (s.ctxRegs ctx).ptRoot (w.vbase + 4096 * k) ⟨w.r, w.w⟩ with
  | (m, pa) => (m, pa == some (w.pbase + 4096 * k))

/-- Whether every page of a window is mapped for its context where the window says, with its permissions (R236). -/
def State.windowHolds (s : State) (ctx : Nat) (w : Window) : Bool :=
  ctx == 0 || (List.range (w.len / 4096)).all (fun k => (s.windowPage ctx w k).2)

/-- The reads of the page table with which the windows of a variant are judged, and their charges (R236, R356). -/
def State.lookWindows (s : State) (ctx : Nat) (v : ImgVar) : State :=
  if ctx = 0 then s
  else (v.wins.filterMap (fun w => w.win)).foldl (fun s w =>
    (List.range (w.len / 4096)).foldl (fun (s : State) k => { s with mem := (s.windowPage ctx w k).1 }) s) s

/-- Windows in ascending order of their numbers. -/
def putWindow (l : List Window) (w : Window) : List Window :=
  l.filter (fun (x : Window) => decide (x.slot < w.slot)) ++ [w] ++ l.filter (fun (x : Window) => decide (w.slot < x.slot))

/-- The ports of a cell with the windows of a variant (R218, R236). -/
def State.buildPorts (s : State) (ctx : Nat) (v : ImgVar) (x y : Nat) : List Port :=
  let mine := v.wins.filter (fun w => w.x == x && w.y == y)
  ((List.range 64).filter (fun n => mine.any (fun w => w.port == n))).map (fun n =>
    let ws := (mine.filter (fun w => w.port == n)).foldl (fun (l : List Window) w => match w.win with
      | some u => putWindow l { u with enabled := s.windowHolds ctx u }
      | none => l) []
    { Port.fresh n with wins := ws })

/-- The blocks of a cell, ascending by context. -/
def ImgVar.cellBlocks (v : ImgVar) (x y : Nat) : List ImgBlock := [0, 1, 2, 3].filterMap (fun k => v.block? x y k)

/-- A cell as the configuration-complete wave leaves it (R88, R120, R161, R218, R350). The wave's reaching the cell counts as an arrival: the
clock of its bench runs from then on, of which R154 says nothing (DESIGN CHOICE, log 62). -/
def State.buildCell (s : State) (p : Placed) (v : ImgVar) (rid ctx x y at0 : Nat) : Cell :=
  let bs := v.cellBlocks x y
  { num := p.num x y, rid := rid, context := ctx, rx := x, ry := y, parity := false, adoptAt := at0, blocks := bs.map (buildBlock p v),
    cur := bs.head?.map (fun b => b.ctx), last := none, switchUntil := 0, arrivedAt := at0, divider := 1, held0 := [],
    routes := buildRoutes p v x y, regs := .fresh, pes := List.replicate 16 .fresh, flt := .fresh, counters := [], latch := [],
    ports := s.buildPorts ctx v x y, copies := [] }

/-- The groups of a variant (R87, R314). -/
def buildGroups (p : Placed) (v : ImgVar) : List Group :=
  v.groups.map (fun g => { gid := g.gid, members := g.members.map (fun m => p.num (m % 32) (m / 32 % 32)), phase := 0, arrived := [], learned := [] })

/-- The seeds of a variant (R89). -/
def buildSeeds (p : Placed) (v : ImgVar) (n : Nat) : List Seed := (v.seeds.take n).map (fun s => ⟨p.num s.x s.y, s.ctx, s.ch, s.value⟩)

/-! Context slots (R85, R104, R115). -/

/-- The context slots of a cell that hold a lift's variant. -/
def State.slotsOf (s : State) (cell img lift var : Nat) : List Nat :=
  (s.loaded.filter (fun x => x.cell == cell && x.img == img && x.lift == lift && x.var == var)).map (fun x => x.slot)

/-- The context slot of a cell in which the blocks with a CTX of a lift's variant lie: the CTX-th of its slots (R104). -/
def State.slotFor (s : State) (cell img lift var ctx : Nat) : Option Nat :=
  (s.loaded.find? (fun x => x.cell == cell && x.img == img && x.lift == lift && x.var == var && x.ctx == ctx)).map (fun x => x.slot)

/-- The slots in which a cell's new configuration is placed: those of no configuration first, then the one loaded longest ago. -/
def State.slotOrder (s : State) (cell : Nat) (keep : List Nat) : List Nat :=
  let held := s.loaded.filter (fun x => x.cell == cell)
  let free := (List.range 4).filter (fun k => !keep.contains k)
  let empty := free.filter (fun k => !held.any (fun x => x.slot == k))
  empty ++ ((sortBy (fun (a b : Loaded) => decide (a.order ≤ b.order)) (held.filter (fun x => free.contains x.slot))).map (fun x => x.slot))

/-- A variant placed in the context slots of a cell, unless it is there already, the blocks with CTX c in the c-th of its slots in ascending
order (R104); slots in `keep` are left alone. -/
def State.placeSlots (s : State) (cell img lift var fold : Nat) (keep : List Nat) : State :=
  if (s.slotsOf cell img lift var).length = fold then s
  else
    let slots := sortBy (fun (a b : Nat) => decide (a ≤ b)) ((s.slotOrder cell keep).take fold)
    let l := s.loaded.filter (fun x => !(x.cell == cell && (slots.contains x.slot || (x.img == img && x.lift == lift && x.var == var))))
    { s with loaded := l ++ slots.zipIdx.map (fun x => ⟨cell, x.1, x.2, img, lift, var, s.stamps⟩), stamps := s.stamps + 1 }

/-! The grant (R86, R103, R106 to R108). -/

/-- The contexts that have state. -/
def State.residents (s : State) : List Nat :=
  (s.live.map (fun r => r.ctx) ++ s.parked.map (fun p => p.region.ctx) ++ (s.cmds.filter (fun c => !c.retired)).map (fun c => c.ctx)).eraseDups

/-- Whether a context may become resident (R86). -/
def State.admits (s : State) (ctx : Nat) : Bool := s.residents.contains ctx || decide (s.residents.length < 64)

/-- The committed power (R106). -/
def State.committed (s : State) : Nat := s.live.foldl (fun n r => n + r.power) 0

/-- Whether two rectangles of one die share a cell. -/
def rectsMeet (ax ay aw ah bx b_y bw bh : Nat) : Bool :=
  decide (ax < bx + bw) && decide (bx < ax + aw) && decide (ay < b_y + bh) && decide (b_y < ay + ah)

/-- Whether the cells of a rectangle are free, those of one region aside. -/
def State.rectFree (s : State) (die x0 y0 w h : Nat) (but : Option Nat) : Bool :=
  !s.live.any (fun r => decide (but ≠ some r.rid) && r.die == die && rectsMeet x0 y0 w h r.x0 r.y0 r.w r.h)

/-- The clusters of an M-die that are free, ascending. -/
def freeClusters (taken : List (Nat × Nat)) (die : Nat) : List Nat := (List.range 64).filter (fun k => !taken.contains (die, k))

/-- Clusters taken one at a time from the bordering M-die with the most free, the lower on a tie (R108). Which of its free clusters is taken
the spec leaves open: the model takes the lowest-numbered (DESIGN CHOICE, log 53). -/
def takeClusters (die : Nat) : Nat → List (Nat × Nat) → Option (List (Nat × Nat))
  | 0, _ => some []
  | n + 1, taken =>
    let ms := borders die
    let best := ms.foldl (fun b m => if (freeClusters taken b).length < (freeClusters taken m).length then m else b) (ms.headD 0)
    match (freeClusters taken best).head? with
    | none => none
    | some k => (takeClusters die n ((best, k) :: taken)).map (fun l => (best, k) :: l)

def State.clustersTaken (s : State) : List (Nat × Nat) := s.live.flatMap (fun r => r.clusters)

/-- The clusters that a region of a rectangle is granted. -/
def State.clustersFor (s : State) (die w h : Nat) : Option (List (Nat × Nat)) := takeClusters die ((w * h + 31) / 32) s.clustersTaken

/-- The place at which a variant of a waiting launch can be granted now: the first whose cells are all free, if R108 can be met there
(R106, R107). -/
def State.placeFor (s : State) (l : Launch) (v : ImgVar) : Option (Placed × List (Nat × Nat)) :=
  if s.boot.budget < s.committed + v.power ∧ v.power ≠ 0 then none
  else match (l.places v.w v.h).find? (fun p => s.rectFree p.1 p.2.1 p.2.2 v.w v.h none) with
    | none => none
    | some p => (s.clustersFor p.1 v.w v.h).map (fun c => (⟨p.1, p.2.1, p.2.2⟩, c))

/-- Whether variant a is preferred to b: more cells, then lower POWER, then lower index (R106). -/
def preferred (a b : Nat × ImgVar) : Bool :=
  let x := a.2.w * a.2.h
  let y := b.2.w * b.2.h
  decide (y < x) || (decide (x = y) && (decide (a.2.power < b.2.power) || (decide (a.2.power = b.2.power) && decide (a.1 < b.1))))

/-- The first of a list by preference. -/
def bestVar : List (Nat × ImgVar) → Option (Nat × ImgVar)
  | [] => none
  | a :: rest => match bestVar rest with
    | some b => if preferred b a then some b else some a
    | none => some a

/-- The variant and the place that a waiting launch is granted now, if any (R86, R106, R107). -/
def State.grantFor (s : State) (l : Launch) : Option (Image × Nat × ImgVar × Placed × List (Nat × Nat)) :=
  match l.img.bind s.image? with
  | none => none
  | some i =>
    if !s.admits l.ctx then none
    else match bestVar ((l.vars.map (fun v => (v, imageVar i.words l.lift0 v))).filter (fun x => (s.placeFor l x.2).isSome)) with
      | none => none
      | some (v, x) => (s.placeFor l x).map (fun p => (i, v, x, p.1, p.2))

/-- Whether a group id of a variant is installed by another live region of its context (R83 step 5). -/
def State.groupClash (s : State) (ctx : Nat) (v : ImgVar) (but : Option Nat) : Bool :=
  s.live.any (fun r => r.ctx == ctx && decide (but ≠ some r.rid) && r.groups.any (fun g => v.groups.any (fun h => h.gid == g.gid)))

def Systolic.none : Systolic :=
  { on := false, x0 := 0, y0 := 0, w := 0, h := 0, wf := .fp32, cell := 0, port := 0, queue := [], busy := 0, row := 0 }

/-- Step 6 and 7: queues bound, opened and emptied. A queue that was unbound at step 4 and that another launch has bound since is bound anew
and emptied: the spec has no check but that of step 4 (DESIGN CHOICE, log 53). -/
def State.bindQueues (s : State) (l : Launch) : State :=
  { s with queues := s.queues.map (fun q => if bitOf l.qmask q.num then { q with ctx := some l.ctx, closed := false, entries := [], added := 0 } else q) }

/-- Cells in ascending order of their global numbers (R102). -/
def putCells (l cells : List Cell) : List Cell :=
  cells.foldl (fun l c => insertBy (fun (x y : Cell) => decide (x.num % 4096 < y.num % 4096)) c l) l

/-- A context without state: its accounting counters start at 0 (R355), and its dictionary slots are cleared by the wave of its first
region (R285). -/
def State.openAccount (s : State) (ctx : Nat) : State :=
  if s.hasState ctx then s
  else { s with mem := { s.mem with acct := s.mem.acct.filter (fun c => c.tag != ctx), metered := insertNat s.mem.metered ctx } }.updCtx ctx (fun c => { c with cfirings := 0, cmds := 0, egressed := 0, dicts := CtxRegs.reset.dicts })

/-- Steps 6 to 8 for a granted launch: the region and its cells, the wave from the next cycle on (R88). -/
def State.startRegion (s : State) (l : Launch) (i : Image) (vn : Nat) (v : ImgVar) (p : Placed) (clusters : List (Nat × Nat)) : State :=
  let s := (s.openAccount l.ctx).bindQueues l
  let rid := s.stamps
  let wave := s.cycle + 1
  let end_ := wave + v.w + v.h - 2
  let r : Region :=
    { rid := rid, ctx := l.ctx, prio := l.prio, order := l.order, die := p.die, x0 := p.x0, y0 := p.y0, w := v.w, h := v.h, lift := l.lift0, var := vn,
      img := i.id, power := v.power, leaving := none, clusters := clusters, ages := List.replicate (8 * clusters.length) 0, result := l.result, reported := false,
      cmd := l.cmd, seeds := buildSeeds p v l.seedn, seedFrom := end_ + 1, liftReq := none, liftCmds := [], stopAt := none, stopCause := 0, stopRank := 0, haltAt := none,
      sweeping := true, sweepEnd := end_, drainedAt := none, switch := none, idle := 0, moved := false, sys := List.replicate 4 .none, owners := [],
      updates := [], groups := buildGroups p v, gone := false }
  let s := { s with regions := s.regions ++ [r], stamps := s.stamps + 1 }
  let s := (rectCells p.die p.x0 p.y0 v.w v.h).foldl (fun s c => s.placeSlots c.1 i.id l.lift0 vn v.fold []) s
  let s := s.lookWindows l.ctx v
  let cells := (rectCells p.die p.x0 p.y0 v.w v.h).map (fun c => s.buildCell p v rid l.ctx c.2.1 c.2.2 (wave + c.2.1 + c.2.2))
  ({ s with cells := putCells s.cells cells, drops := s.drops.filter (fun x => !cells.any (fun c => c.num == x.1)) }).setDividers

/-! Seeds (R89, R118). -/

/-- The launch status LAUNCHED, once every seed is in (R84). -/
def State.reportLaunched (s : State) (rid : Nat) : State :=
  match s.region? rid with
  | none => s
  | some r =>
    if r.reported || !r.seeds.isEmpty then s
    else (s.updRegion rid (fun r => { r with reported := true })).tellLaunch r.ctx r.result r.cmd .launched

/-- Whether a seed finds room: in a seed channel, or at the producer's end of a channel, which must not be in a firing (R118). -/
def State.seedRoom (s : State) (x : Seed) : Bool :=
  match s.block? ⟨x.cell, x.ctx, 0⟩ with
  | none => false
  | some b =>
    let ic := b.inChan x.chan
    if ic.fed then
      (match s.block? ⟨ic.srcCell, ic.srcCtx, 0⟩ with
        | some p => !p.firing && decide (0 < (p.outChan ic.srcChan).free)
        | none => false)
    else decide (ic.occupancy < ic.cap)

/-- A seed put into its channel; in a seed channel it has arrived (R154). -/
def State.putSeed (s : State) (x : Seed) : State :=
  match s.block? ⟨x.cell, x.ctx, 0⟩ with
  | none => s
  | some b =>
    let ic := b.inChan x.chan
    let tok : Tok := ⟨x.value, none⟩
    if ic.fed then
      match s.block? ⟨ic.srcCell, ic.srcCtx, 0⟩ with
      | none => s
      | some p =>
        let oc := p.outChan ic.srcChan
        let s := s.updBlock ⟨x.cell, x.ctx, 0⟩ (fun b => b.updIn x.chan (fun ic => { ic with buf := ic.buf.set (oc.pp.toNat % oc.cap) tok }))
        let oc' := { oc with pp := oc.pp + 1 }
        (s.updBlock ⟨ic.srcCell, ic.srcCtx, 0⟩ (fun b => b.updOut ic.srcChan (fun _ => oc'))).sendPp oc' (s.divider ic.srcCell)
    else (s.updBlock ⟨x.cell, x.ctx, 0⟩ (fun b => b.updIn x.chan (fun ic => { ic with buf := ic.buf.set (ic.pp.toNat % ic.cap) tok, pp := ic.pp + 1 }))).arrived x.cell

/-- SEED_INJECT (R89): the next seed of a region, at most one in a cycle, once the sweep has been reported. -/
def execSeedInject (rid : Nat) (s : State) : Result :=
  match s.region? rid with
  | none => .next s
  | some r =>
    if s.cycle < r.seedFrom ∨ s.regionGoes rid = false ∨ s.thermal = true then .next s
    else match r.seeds with
      | [] => .next (s.reportLaunched rid)
      | x :: rest =>
        if s.seedRoom x then
          .next (((s.putSeed x).updRegion rid (fun r => { r with seeds := rest, seedFrom := s.cycle + 1 })).reportLaunched rid)
        else .next s

/-! Preloads (R85, R104). -/

/-- The slots of a cell that its live region runs; those of an old lift are free once the wedge has left the region's last cell (R353). -/
def State.currentSlots (s : State) (cell : Nat) : List Nat :=
  match (s.cell? cell).bind (fun c => s.region? c.rid) with
  | some r =>
    if r.gone then []
    else s.slotsOf cell r.img r.lift r.var ++ (match r.leaving with
      | some x => s.slotsOf cell r.img x.1 x.2
      | none => [])
  | none => []

/-- Where the configuration of a waiting launch can be preloaded: at the first place that it admits whose cells hold enough slots that neither
a variant in use nor another lift of a live region there occupies (R104). -/
def State.preloadPlace (s : State) (l : Launch) (v : ImgVar) : List (Nat × List Nat) :=
  let keep (cell : Nat) : List Nat := match (s.cell? cell).bind (fun c => s.region? c.rid) with
    | some r => if r.gone then [] else (s.loaded.filter (fun x => x.cell == cell && x.img == r.img)).map (fun x => x.slot)
    | none => []
  let cells (p : Nat × Nat × Nat) := (rectCells p.1 p.2.1 p.2.2 v.w v.h).map (fun c => (c.1, keep c.1))
  match (l.places v.w v.h).find? (fun p => (cells p).all (fun x => decide (x.2.length + v.fold ≤ 4))) with
  | some p => cells p
  | none => []

/-- PRELOAD (R85, R104): a variant of a region's image into free context slots of the region's cells, or a variant of a launch that waits
for cells, which the number then names by its order. -/
def execPreload (rid lift var : Nat) (s : State) : Result :=
  match s.region? rid with
  | none => match s.launches.find? (fun l => l.order == rid) with
    | none => .next s
    | some l => match l.img.bind s.image? with
      | none => .next s
      | some i =>
        if decide (lift = l.lift0) && l.vars.contains var then
          let v := imageVar i.words lift var
          .next ((s.preloadPlace l v).foldl (fun s x => s.placeSlots x.1 i.id lift var v.fold x.2) s)
        else .next s
  | some r => match s.image? r.img with
    | none => .next s
    | some i =>
      if r.gone || decide (imgNlift i.words ≤ lift) || decide (imgNvar i.words lift ≤ var) then .next s
      else
        let v := imageVar i.words lift var
        let cells := rectCells r.die r.x0 r.y0 (min v.w r.w) (min v.h r.h)
        if cells.any (fun c => decide (4 < (s.currentSlots c.1).length + v.fold)) then .next s
        else .next (cells.foldl (fun s c => s.placeSlots c.1 r.img lift var v.fold (s.currentSlots c.1)) s)

end Sys2Proof.Machine
end

