-- ==== Sys2Proof/Machine/Region.lean ====
section
/-! DEFINITION. The life of a region after its launch: settling, lifts, its end, the end of its context (R130 to R133, R313, R316,
R328, R336, R337, R343, R352 to R355). -/

namespace Sys2Proof.Machine

/-! Settled cells (R130). -/

/-- A block outside a firing, whose channels and fields hold nothing. -/
def Block.quiet (b : Block) : Bool :=
  !b.firing && b.ins.all (fun c => c.pp == c.cp) && b.outs.all (fun c => c.w == 0) &&
    b.slots.all (fun sl => [sl.l, sl.r, sl.p, sl.a].all (fun q => q.toks.isEmpty && q.nums.isEmpty))

/-- Whether an entry of a number is still on its way, or still to leave its producer (R130, R181). -/
def Num.moving (n : Num) (now : Nat) : Bool := n.came.any (fun k => decide (now < k)) || (!n.cut && decide (n.came.length ≤ n.digits))

/-- Whether a token, a number or a pointer of a cell's channels is in flight to it. -/
def State.cellInFlight (s : State) (c : Cell) : Bool :=
  s.flight.any (fun f => f.site.cell == c.num) || s.chanMsgs.any (fun m => m.cell == c.num && m.toConsumer) ||
    s.spalls.any (fun x => x.dest.site.cell == c.num) ||
    c.blocks.any (fun b => b.slots.any (fun sl => [sl.l, sl.r, sl.p, sl.a].any (fun q => q.nums.any (fun n =>
      n.moving s.cycle))))

/-- A settled cell (R130). -/
def State.cellSettled (s : State) (c : Cell) : Bool :=
  c.blocks.all Block.quiet && !s.cellInFlight c && c.ports.all (fun p => p.accs.isEmpty && p.nest.isNone) &&
    c.pes.all (fun p => p.division.isNone) && !s.pend.any (fun p => p.site.cell == c.num)

def State.cellsOf (s : State) (rid : Nat) : List Cell := s.cells.filter (fun c => c.rid == rid)

/-- Whether every cell of a region is settled and nothing of it is under way (R130, R248, R312). -/
def State.regionSettled (s : State) (r : Region) : Bool :=
  !r.gone && !r.sweeping && r.seeds.isEmpty && r.updates.isEmpty && r.sys.all (fun y => y.queue.isEmpty) &&
    (s.cellsOf r.rid).all s.cellSettled

/-! The occupancy map (R337). -/

/-- The 64 bytes of a cell in the map. -/
def occCell (c : Cell) : List Byte :=
  match c.cur.bind (fun k => c.block? k) with
  | none => List.replicate 64 (0 : Byte)
  | some b =>
    (List.range 8).flatMap (fun k => leBytes 4 (if k < b.nin then (b.inChan k).occupancy % 8192 + b.rates.getD k 0 % 128 * 8192 else 0)) ++
      (List.range 8).flatMap (fun k => leBytes 2 (if k < b.nout then (b.outChan k).free % 8192 else 0)) ++
      leBytes 4 b.fireNo.toNat ++
      leBytes 4 (b.ctx + b.firing.toNat * 4 + b.atLimit.toNat * 8 + min 1023 b.leftTokens * 16) ++ List.replicate 8 (0 : Byte)

/-- The bytes of the map of a region that stopped in a cycle. -/
def State.occBytes (s : State) (r : Region) (cause : Word) (stop : Nat) : List Byte :=
  leBytes 4 cause.toNat ++ leBytes 2 r.w ++ leBytes 2 r.h ++ leBytes 4 (cellNum r.die r.x0 r.y0) ++ leBytes 4 (r.lift + r.var * 64) ++
    leBytes 8 stop ++ List.replicate 40 (0 : Byte) ++
    (List.range (r.w * r.h)).flatMap (fun i => match s.cellAt r.rid (i % r.w) (i / r.w) with
      | some c => occCell c
      | none => List.replicate 64 (0 : Byte))

/-- A write through a context's page table that makes no record where it faults. -/
def State.quietWrite (s : State) (ctx va : Nat) (bytes : List Byte) : Option State :=
  match s.mem.translateSeq s.cycle ctx (s.ctxRegs ctx).ptRoot va .store with
  | (m, .ok pa _) => if (target pa).isSome then some { s with mem := m.post s.cycle ctx pa bytes } else none
  | (_, .fault _) | (_, .walk) => none

/-- Writes in ascending order; false once one has faulted, which ends them. -/
def State.quietWrites (s : State) (ctx : Nat) : List (Nat × List Byte) → State × Bool
  | [] => (s, true)
  | (va, l) :: rest => match s.quietWrite ctx va l with
    | some s => s.quietWrites ctx rest
    | none => (s, false)

/-- Bytes from an address on, cut into the lines they touch. -/
def linesOf (va : Nat) (l : List Byte) : List (Nat × List Byte) :=
  (lineChunks va l.length).map (fun x => (x.1, (l.drop (x.1 - va)).take x.2))

/-- The map written where OCCMAP enables it; whether it was written whole. -/
def State.writeOcc (s : State) (r : Region) (cause : Word) (stop : Nat) : State × Bool :=
  let reg := (s.ctxRegs r.ctx).occMap
  if reg.getLsbD 0 then s.quietWrites r.ctx (linesOf (reg.toNat / 4096 * 4096) (s.occBytes r cause stop)) else (s, false)

/-! Commands retire (R93, R94, R358). -/

/-- A command retires: its order, the count of its context, its successors freed or cancelled. -/
def State.retireCmd (s : State) (slot status : Nat) : State :=
  match s.cmds.find? (fun c => c.slot == slot && !c.retired) with
  | none => s
  | some x =>
    let cmds := s.cmds.map (fun (c : Cmd) =>
      if c.slot = slot then { c with retired := true, status := status, order := s.stamps, copy := none }
      else if c.waits.contains (slot, x.gen) then
        { c with waits := c.waits.filter (fun w => w != (slot, x.gen)), cancelled := c.cancelled || decide (status ≠ 0) }
      else c)
    { s with cmds := cmds, stamps := s.stamps + 1 }.updCtx x.ctx (fun c => { c with cmds := c.cmds + 1 })

/-- The result of a command that its engine has found (R93). -/
def State.cmdResult (s : State) (slot result : Nat) : State :=
  { s with cmds := s.cmds.map (fun (c : Cmd) => if c.slot = slot then { c with result := some result } else c) }

/-! What a region that has ended leaves to be performed (R328, R354). -/

/-- The instructions whose writes and engine operations run on once they have issued; a FENCE holds back the words behind it (R295, R300), and
an OWN has its flush to finish (R311, R313). -/
def runsOn (i : Instr) : Bool :=
  match i with
  | .sts _ _ _ | .agsct _ _ _ | .stv _ _ _ | .reclaim _ _ | .atom _ _ _ _ _ | .stl _ _ _ _ | .fence _ _ | .own _ _ => true
  | .copy _ _ _ | .copyr _ _ _ _ _ | .copyc _ _ _ _ | .mma _ _ _ _ _ | .mmasp _ _ _ _ _ | .mmarow _ _ _ _ _ | .prune _ _ _ _ => true
  | .coll _ _ _ _ _ => true
  | _ => false

/-- The number that a cell which has left its region has while something it issued is still to be performed. -/
def ghostNum (rid n : Nat) : Nat := n % 4096 + 4096 * (rid + 1)

/-- An engine agent of a region whose cells have left it. -/
def Eng.ghost (rid new : Nat) (nums : List Nat) (e : Eng) : Eng :=
  if e.rid = rid ∧ nums.contains e.cell = true then
    { e with rid := new, cell := ghostNum new e.cell, site := { e.site with cell := ghostNum new e.site.cell } }
  else e

/-- A port of a cell that has left its region: the accesses that run on. -/
def Port.ghost (new : Nat) (q : Port) : Port :=
  { q with nest := none, accs := (q.accs.filter (fun a => runsOn a.instr && !a.stage.isDone)).map (fun (a : Access) =>
      { a with site := { a.site with cell := ghostNum new a.site.cell } }) }

/-- A cell that has left its region, with what of it is still to be performed. -/
def Cell.ghost (rid new : Nat) (nums : List Nat) (c : Cell) : Cell :=
  { c with num := ghostNum new c.num, rid := new, blocks := [], cur := none, last := none, routes := [], held0 := [], counters := [], latch := [],
           ports := c.ports.map (Port.ghost new), pes := c.pes.map (fun (p : Pe) => { p with division := none }),
           copies := (c.copies.filter (fun x => !x.free)).map (fun (x : CopySlot) => { x with job := x.job.map (fun (j : Copy) => { j with eng := j.eng.ghost rid new nums }) }) }

/-- Whether a ghost cell has still something to perform. -/
def Cell.unfinished (c : Cell) : Bool := c.ports.any (fun p => !p.accs.isEmpty) || !c.copies.isEmpty

/-- Cells leave a region for the region number `new`, under which what they issued runs on: their tokens and waiting instructions are
discarded, but for engine operations. -/
def State.leave (s : State) (rid new : Nat) (nums : List Nat) : State :=
  let go (e : Eng) : Eng := e.ghost rid new nums
  { s with
    cells := s.cells.map (fun c => if c.rid = rid ∧ nums.contains c.num = true then c.ghost rid new nums else c)
    flight := s.flight.filter (fun f => !nums.contains f.site.cell)
    chanMsgs := s.chanMsgs.filter (fun m => !nums.contains m.cell)
    spalls := s.spalls.filter (fun x => !nums.contains x.dest.site.cell)
    pend := (s.pend.filter (fun p => !nums.contains p.site.cell || runsOn p.instr)).map (fun p =>
      if nums.contains p.site.cell then { p with site := { p.site with cell := ghostNum new p.site.cell }, eng := p.eng.map go } else p)
    cmds := s.cmds.map (fun (c : Cmd) => { c with eng := go c.eng, copy := c.copy.map (fun (j : Copy) => { j with eng := go j.eng }) })
    colls := s.colls.map (fun (x : Coll) => { x with joins := x.joins.map (fun (j : Join) => { j with eng := go j.eng }) }) }

/-- Whether a region that has ended has still something to perform; its matrix commands that are in flight run in its systolic regions (R354). -/
def State.unfinished (s : State) (rid : Nat) : Bool :=
  s.cmds.any (fun c => decide (c.kind = 0) && !c.retired && decide (c.eng.rid = rid)) || (s.cellsOf rid).any Cell.unfinished || s.pend.any (fun p => (s.cellsOf rid).any (fun c => c.num == p.site.cell)) ||
    (s.region? rid).any (fun r => r.sys.any (fun y => !y.queue.isEmpty))

/-- A region that has ended is gone once it has nothing more to perform. -/
def State.sweepGone (s : State) : State :=
  let done := (s.regions.filter (fun r => r.gone && !s.unfinished r.rid)).map (fun r => r.rid)
  if done.isEmpty then s
  else { s with regions := s.regions.filter (fun r => !(r.gone && !s.unfinished r.rid)), cells := s.cells.filter (fun c => !done.contains c.rid) }

/-- What the end of a region lets run on: everything it has issued; all but the operations of its own instructions on systolic regions, which a
machine check halts with it, while its commands run on (R248, R335, R354); nothing (R343). -/
inductive Kept where
  | all | noMatrix | nothing
  deriving DecidableEq, Repr

def isMatrixOp (i : Instr) : Bool :=
  match i with
  | .mma _ _ _ _ _ | .mmasp _ _ _ _ _ | .mmarow _ _ _ _ _ => true
  | _ => false

/-- FIRINGS of cells that leave their region enter CFIRINGS (R352, R358). -/
def State.countFirings (s : State) (ctx : Nat) (cells : List Cell) : State :=
  s.updCtx ctx (fun x => { x with cfirings := x.cfirings + BitVec.ofNat 64 ((cells.map (fun c => (c.counter 0).toNat)).foldl (· + ·) 0) })

/-- The end of a region (R328, R335, R343, R352 to R354): its launch is told where its seeds were not all in, its lift commands that no
wedge can serve any more end FAULTED, its cells, clusters, groups and CAM claims are freed, and waiting launches are judged again. -/
def State.closeRegion (s : State) (rid : Nat) (keep : Kept) : State :=
  match s.region? rid with
  | none => s
  | some r =>
    let nums := (s.cellsOf rid).map (fun c => c.num)
    let s := s.countFirings r.ctx (s.cellsOf rid)
    let s := if r.reported then s else s.tellLaunch r.ctx r.result r.cmd .ended
    let s := r.liftCmds.foldl (fun s k => s.cmdResult (k % 4096) 3) s
    let s := { s with cams := s.cams.filter (fun c => c.rid != rid), launches := s.launches.map (fun (l : Launch) => { l with judged := false }) }
    let s := match keep with
      | .all => s
      | .noMatrix => { s with pend := s.pend.filter (fun p => !(nums.contains p.site.cell && isMatrixOp p.instr)) }
      | .nothing => { s with pend := s.pend.filter (fun p => !nums.contains p.site.cell) }
    let s := s.leave rid rid nums
    let runs (o : SysOp) : Bool := match keep with
      | .all => true
      | .noMatrix => o.cmd.isSome
      | .nothing => false
    let sys := r.sys.map (fun (y : Systolic) =>
      { y with cell := ghostNum rid y.cell, queue := (y.queue.filter runs).map (fun (o : SysOp) => { o with eng := o.eng.ghost rid rid nums }) })
    let flushing := (r.owners.filter (fun o => o.closing && o.ready)).map (fun (o : Owner) => { o with eng := o.eng.ghost rid rid nums })
    let s := s.updRegion rid (fun r => { r with gone := true, reported := true, sys := sys, owners := flushing, updates := [], groups := [], seeds := [],
                                                liftReq := none, liftCmds := [], switch := none, leaving := none, clusters := r.clusters })
    let s := match keep with
      | .all | .noMatrix => s
      | .nothing => { s with cells := s.cells.filter (fun c => c.rid != rid), regions := s.regions.filter (fun r => r.rid != rid) }
    s.sweepGone.setDividers

/-- Regions that a fault stopped before this cycle end, with their occupancy maps; HANG has written its own (R328, R336, R337). -/
def State.endStopped (s : State) : State :=
  s.regions.foldl (fun s r => match r.stopAt with
    | some k =>
      if !r.gone && decide (k < s.cycle) then
        let s := if r.stopCause.toNat % 256 = codeHang then s else (s.writeOcc r r.stopCause k).1
        s.closeRegion r.rid .all
      else s
    | none => s) s

/-! The end of a context (R343, R355). -/

/-- A context retires (R85, R95, R285, R320, R355): seams, dictionary slots, queues, configurations; its accounts stop; waiting launches are judged
again (R86). A collective of it that all have joined runs on (R354). -/
def State.retireContext (s : State) (ctx : Nat) : State :=
  let kept := s.images.filter (fun i => i.ctx != ctx || s.launches.any (fun l => l.img == some i.id))
  { s with
    seams := s.seams.filter (fun m => m.ctx != ctx)
    queues := s.queues.map (fun (q : WorkQueue) => if q.ctx = some ctx then { q with ctx := none, closed := false, entries := [], added := 0 } else q)
    loaded := s.loaded.filter (fun x => !(s.images.any (fun i => i.id == x.img && i.ctx == ctx)))
    images := kept
    colls := s.colls.filter (fun x => x.joins.any (fun j => j.eng.ctx != ctx) || decide (x.npart ≤ x.joins.length))
    launches := s.launches.map (fun (l : Launch) => { l with judged := false })
    mem := { s.mem with metered := s.mem.metered.filter (fun t => t != ctx) } }.updCtx ctx (fun c => { c with dicts := CtxRegs.reset.dicts })

/-- CONTEXT_RETIRE (R355): a context that has state no longer. -/
def execContextRetire (ctx : Nat) (s : State) : Result :=
  if s.hasState ctx then .next s else .next (s.retireContext ctx)

/-- A collective after the eviction of a context (R343): its participants are gone from it; one of several contexts that was complete ends
FAULTED. -/
def Coll.without (x : Coll) (ctx : Nat) : Option Coll :=
  if x.joins.all (fun j => decide (j.eng.ctx = ctx)) then none
  else if x.npart ≤ x.joins.length then some { x with joins := x.joins.map (fun (j : Join) => if j.eng.ctx = ctx then { j with status := 2 } else j) }
  else
    let l := (x.joins.zip x.written).filter (fun y => decide (y.1.eng.ctx ≠ ctx))
    some { x with joins := l.map (fun y => y.1), written := l.map (fun y => y.2) }

/-- A record EVICTED of a region, or of a context without one (R329, R343). -/
def evictedRec (origin : Nat) (aux : DWord) : FaultRegs := ⟨causeWord codeEvicted 0 false true false, BitVec.ofNat 32 origin, 0, aux, 0⟩

/-- The eviction of a context (R343): a record for each of its regions; they end at once with nothing of theirs left to perform; its
commands retire CANCELLED, and the context retires. -/
def State.evictContext (s : State) (ctx : Nat) (aux : DWord) : State :=
  let live := s.regions.filter (fun r => r.ctx == ctx && !r.gone)
  let parked := (s.parked.filter (fun p => p.region.ctx == ctx)).map (fun p => p.region)
  let recs := (live ++ parked).map (fun r => evictedRec (cellNum r.die r.x0 r.y0) aux)
  let s : State := if recs.isEmpty then s.logAlone ctx (evictedRec 0 aux)
    else recs.foldl (fun s x => s.log ⟨x.origin.toNat % 4096, s.stamps, ctx, x⟩) s
  let s : State := { s with colls := s.colls.filterMap (fun x => x.without ctx) }
  let s := { s with msix := s.msix ++ [s.dev.member] }
  let s := (s.regions.filter (fun r => r.ctx == ctx)).foldl (fun s r => s.closeRegion r.rid .nothing) s
  let s := parked.foldl (fun s r => if r.reported then s else s.tellLaunch r.ctx r.result r.cmd .ended) s
  let s := (s.parked.filter (fun p => p.region.ctx == ctx)).foldl (fun s p => s.countFirings ctx p.cells) s
  let s := { s with parked := s.parked.filter (fun p => p.region.ctx != ctx), cams := s.cams.filter (fun c => !parked.any (fun r => r.rid == c.rid)) }
  let s := (s.cmds.filter (fun c => c.ctx == ctx && !c.retired)).foldl (fun s c => s.retireCmd c.slot 2) s
  s.retireContext ctx

/-! The drained report (R130, R131, R313, R354). -/

/-- The conditions under which a drained region ends (R354). -/
def State.endsDrained (s : State) (r : Region) : Bool :=
  let blocks := (s.cellsOf r.rid).flatMap (fun c => c.blocks)
  (r.liftReq.isNone || r.haltAt.isSome) && r.seeds.isEmpty &&
    (r.haltAt.isSome || blocks.all Block.atLimit || !blocks.any (fun b => b.kind == 3 || b.kind == 4))

/-- The owners of a region begin to flush, each as a waiting instruction of its block (R313). -/
def State.flushOwners (s : State) (r : Region) : State :=
  let s := s.updRegion r.rid (fun r => { r with owners := r.owners.map (fun o => { o with closing := true }) })
  r.owners.foldl (fun s o => { s with
    pend := s.pend ++ [⟨o.eng.site, o.eng.fire, .own (BitVec.ofNat 6 (o.eng.port.getD 0)) o.op, ⟨none, none, none, none⟩, [], [], [], none, s.stamps⟩],
    stamps := s.stamps + 1 }) s

/-- DRAINED_REPORT (R130, R131, R354): owners are flushed before a wedge or an end; then the lift may be switched, or the region ends;
otherwise it stays idle. -/
def execDrainedReport (rid : Nat) (s : State) : Result :=
  match s.region? rid with
  | none => .next s
  | some r =>
    if !s.regionSettled r || !s.regionGoes rid || s.thermal then .next s
    else if !s.endsDrained r && r.liftReq.isNone then .next (s.updRegion rid (fun r => { r with drainedAt := some s.cycle }))
    else if !r.owners.isEmpty then .next (s.flushOwners r)
    else if s.endsDrained r then .next (s.closeRegion rid .all)
    else match r.drainedAt, r.liftReq with
      | some _, some _ => .next s
      | _, _ => .next (s.updRegion rid (fun r => { r with drainedAt := some s.cycle }))

/-! Lift switches (R131, R132, R316). -/

/-- The variants of a lift that a request admits and that fit the region's rectangle (R316). -/
def State.liftFits (s : State) (r : Region) (l : Word) : List (Nat × ImgVar) :=
  match s.image? r.img with
  | none => []
  | some i =>
    let n := l.toNat % 64
    let vars := if l.getLsbD 8 then List.range (imgNvar i.words n) else [l.toNat / 64 % 4]
    (vars.map (fun k => (k, imageVar i.words n k))).filter (fun x => decide (x.2.w ≤ r.w) && decide (x.2.h ≤ r.h))

/-- The requests that LIFT refuses (R316). -/
def State.liftBad (s : State) (r : Region) (l : Word) : Bool :=
  match s.image? r.img with
  | none => true
  | some i => decide (2 ^ 9 ≤ l.toNat) || decide (imgNlift i.words ≤ l.toNat % 64) ||
      (!l.getLsbD 8 && decide (imgNvar i.words (l.toNat % 64) ≤ l.toNat / 64 % 4)) || (s.liftFits r l).isEmpty

/-- A request to switch lifts (R316): the first fixes the switch; a later one with other bits is refused; after HALT it has no effect
(R348). A lift command waits for the wedge. -/
def State.requestLift (s : State) (rid : Nat) (l : Word) (cmd : Option Nat) : Option State :=
  match s.region? rid with
  | none => some s
  | some r =>
    let wait (r : Region) : Region := { r with liftCmds := r.liftCmds ++ cmd.toList }
    if r.haltAt.isSome then some (s.updRegion rid wait)
    else if s.liftBad r l then none
    else match r.liftReq with
      | none => some (s.updRegion rid (fun r => { wait r with liftReq := some l, drainedAt := none }))
      | some x => if x = l then some (s.updRegion rid wait) else none

/-- LIFT (R316). -/
def execLift (s : State) : Result :=
  issueCtl .lift s (fun s' o => match s'.requestLift (s.ridOf s.site.cell) (tokVal o.l) none with
    | some s'' => s''
    | none => s'.opcodeFault s.site codeProt .lift)

/-- Whether a variant's power fits the budget beside the other live regions (R106, R316). -/
def State.powerFits (s : State) (r : Region) (v : ImgVar) : Bool := decide (v.power = 0) || decide (s.committed - r.power + v.power ≤ s.boot.budget)

/-- Whether a lift's variant stands in context slots of every cell of its rectangle (R104). -/
def State.preloaded (s : State) (r : Region) (lift var : Nat) (v : ImgVar) : Bool :=
  (rectCells r.die r.x0 r.y0 v.w v.h).all (fun c => decide ((s.slotsOf c.1 r.img lift var).length = v.fold))

/-- A cell as the wedge leaves it (R132, R133, R161, R218): the blocks of the new variant, or none; its registers persist. -/
def State.wedgeCell (s : State) (p : Placed) (v : ImgVar) (start : Nat) (c : Cell) : Cell :=
  let inside := decide (c.rx < v.w) && decide (c.ry < v.h)
  let bs := if inside then v.cellBlocks c.rx c.ry else []
  { c with parity := !c.parity, adoptAt := start + c.rx + c.ry, arrivedAt := start + c.rx + c.ry, blocks := bs.map (buildBlock p v),
           cur := bs.head?.map (fun b => b.ctx), last := none, switchUntil := 0, held0 := [],
           routes := if inside then buildRoutes p v c.rx c.ry else [], ports := if inside then s.buildPorts c.context v c.rx c.ry else [] }

/-- The configuration of a variant placed in the context slots of its cells, the slots that run left alone where there is room (R104). -/
def State.placeVariant (s : State) (r : Region) (lift var : Nat) (v : ImgVar) : State :=
  (rectCells r.die r.x0 r.y0 v.w v.h).foldl (fun s c =>
    let cur := s.slotsOf c.1 r.img r.lift r.var
    s.placeSlots c.1 r.img lift var v.fold (if cur.length + v.fold ≤ 4 then cur else [])) s

/-- The wedge sweeps a region into a variant of a lift, entering in this cycle (R132, R248, R374). -/
def State.wedge (s : State) (r : Region) (lift var : Nat) (v : ImgVar) : State :=
  let p : Placed := ⟨r.die, r.x0, r.y0⟩
  let nums := (s.cellsOf r.rid).map (fun c => c.num)
  let end_ := s.cycle + r.w + r.h - 2
  let s := (s.placeVariant r lift var v).lookWindows r.ctx v
  let cells := s.cells.map (fun c => if c.rid = r.rid then s.wedgeCell p v s.cycle c else c)
  let s := { s with cells := cells, flight := s.flight.filter (fun f => !nums.contains f.site.cell), chanMsgs := s.chanMsgs.filter (fun m => !nums.contains m.cell),
                    spalls := s.spalls.filter (fun x => !nums.contains x.dest.site.cell) }
  (s.updRegion r.rid (fun r => { r with
    lift := lift, var := var, power := v.power, leaving := some (r.lift, r.var), ages := r.ages.map (fun _ => 0), seeds := buildSeeds p v v.seeds.length, seedFrom := end_ + 1,
    liftReq := none, liftCmds := r.liftCmds.map (fun k => k % 4096 + 4096), sweeping := true, sweepEnd := end_, drainedAt := none,
    sys := List.replicate 4 .none, owners := [], updates := [], groups := buildGroups p v })).setDividers

/-- The variant that a requested switch takes: of those that it admits and that fit the rectangle, the first in the order of R106. The wedge waits
until its power is available (R316). -/
def State.liftTarget (s : State) (r : Region) : Option (Nat × Nat × ImgVar) :=
  match r.liftReq with
  | none => none
  | some l => (bestVar (s.liftFits r l)).map (fun x => (l.toNat % 64, x.1, x.2))

/-- Whether the wedge may enter a region: in the cycle after its drained report, or once the load of its variant completes (R90, R104,
R132). -/
def State.wedgeReady (s : State) (r : Region) (lift var : Nat) (v : ImgVar) : Bool :=
  match r.drainedAt, s.image? r.img with
  | some k, some i =>
    decide (k + 1 + (if s.preloaded r lift var v then 0 else (4 * i.words.length + 127) / 128) ≤ s.cycle) && s.regionSettled r && r.owners.isEmpty &&
      r.haltAt.isNone && s.regionGoes r.rid && !s.thermal
  | _, _ => false

/-- LIFT_WEDGE (R132). -/
def execLiftWedge (rid : Nat) (s : State) : Result :=
  match s.region? rid with
  | none => .next s
  | some r => match s.liftTarget r with
    | none => .next s
    | some (lift, var, v) => if r.switch.isNone && s.powerFits r v && s.wedgeReady r lift var v then .next (s.wedge r lift var v) else .next s

/-- Sweeps whose last cell has been reached: the lift commands that asked for the wedge are done (R92, R132). -/
def State.endSweeps (s : State) : State :=
  s.regions.foldl (fun s r =>
    if r.sweeping && decide (r.sweepEnd < s.cycle) then
      let s := (r.liftCmds.filter (fun k => decide (4096 ≤ k))).foldl (fun s k => s.cmdResult (k % 4096) 0) s
      s.updRegion r.rid (fun r => { r with sweeping := false, leaving := none, liftCmds := r.liftCmds.filter (fun k => decide (k < 4096)) })
    else s) s

/-! The hang monitor (R336). -/

/-- Whether an access or an engine agent of a region holds a fault (R336, R340, R342). -/
def State.regionHolds (s : State) (rid : Nat) : Bool :=
  (s.cellsOf rid).any (fun c => c.ports.any (fun p => p.accs.any (fun a => a.stage.isHeld))) || s.heldEngs.any (fun e => e.rid == rid)

/-- The limit of a context: values below 1,024 act as 1,024. -/
def State.hangLimit (s : State) (ctx : Nat) : Nat := max 1024 (s.ctxRegs ctx).hangLimit.toNat

/-- The idle count of a region after a cycle. -/
def State.idleAfter (s : State) (r : Region) : Nat :=
  if s.regionHolds r.rid then r.idle else if r.moved || s.regionSettled r then 0 else r.idle + 1

/-- HANG_LIMIT_EXPIRY (R336, R337): the region's occupancy map, then HANG, recorded in the region's first cell. -/
def execHangLimitExpiry (rid : Nat) (s : State) : Result :=
  match s.region? rid with
  | none => .next s
  | some r =>
    if r.gone || r.stopAt.isSome || decide (r.idle < s.hangLimit r.ctx) then .next s
    else
      let (s, ok) := s.writeOcc r (causeWord codeHang 0 false true false) s.cycle
      let n := cellNum r.die r.x0 r.y0
      .next (s.raise { cell := some n, ctx := r.ctx, rid := some rid, code := codeHang, sub := 0, held := false, parked := false, origin := BitVec.ofNat 32 n,
                       addr := 0, aux := BitVec.ofNat 64 ok.toNat, fire := 0 })

end Sys2Proof.Machine
end

