-- ==== Sys2Proof/Machine/Command.lean ====
section
/-! DEFINITION. Commands (R91 to R94, R97): CMD, CMDWAIT, and the issue and retirement of a command. -/

namespace Sys2Proof.Machine

/-! Acceptance (R91, R93). -/

/-- KIND of a CMD word, whether it is a release, and its consumer. -/
def cmdOf (i : Instr) : Option (Nat × Bool × Consumer) :=
  match i with
  | .cmdMatrix rel c0 => some (0, rel, c0)
  | .cmdBulk rel c0 => some (1, rel, c0)
  | .cmdCollective rel c0 => some (2, rel, c0)
  | .cmdLift rel c0 => some (3, rel, c0)
  | .cmdChild rel c0 => some (4, rel, c0)
  | _ => none

/-- The slot that has been free longest: those never used stand first (R91). -/
def State.freeCmd (s : State) : Option Nat :=
  if s.cmds.length < 4096 then some s.cmds.length
  else ((s.cmds.filter (fun c => c.retired)).foldl (fun (b : Option Cmd) c => match b with
    | none => some c
    | some x => if c.order < x.order then some c else some x) none).map (fun c => c.slot)

/-- A predecessor (R93): none to wait on, a malformed one, or a command to wait on. -/
inductive Pred where
  | none | malformed
  | waitOn (slot gen : Nat)
  deriving DecidableEq, Repr

def State.predOf (s : State) (ctx id : Nat) : Pred :=
  if id = 0xFFFF then .none
  else if id / 4096 = 15 then .malformed
  else if s.cmds.any (fun c => c.slot == id % 4096 && c.gen == id / 4096 && c.ctx == ctx && !c.retired) then .waitOn (id % 4096) (id / 4096)
  else .none

/-- A command accepted in a slot (R91, R93): the state, and its id. -/
def State.acceptCmd (s : State) (slot kind : Nat) (e : Eng) (desc : List Byte) (spoilt : Bool) (preds : List Pred) : State × Word :=
  let gen := match s.cmds.find? (fun c => c.slot == slot) with
    | some c => (c.gen + 1) % 15
    | none => 1
  let c : Cmd := { slot := slot, gen := gen, ctx := e.ctx, kind := kind, eng := { e with held := none, deadLogged := false, poisoned := false }, desc := desc, spoilt := spoilt,
                   waits := preds.filterMap (fun p => match p with
                     | .waitOn k g => some (k, g)
                     | .none | .malformed => Option.none), cancelled := false, issued := false,
                   result := none, retired := false, status := 0, order := 0, copy := none }
  ({ s with cmds := s.cmds.filter (fun c => c.slot != slot) ++ [c] }, BitVec.ofNat 32 (gen * 4096 + slot))

/-- A turn of CMD (R93, R97): once a slot is free for the context the descriptor is copied and the command accepted; a malformed predecessor
retires it BADPRED. A descriptor whose address is misaligned, or that is poisoned (R384), fails the checks at issue. A fault that ends the
read consumes no token. -/
def State.cmdAttempt (s : State) (p : Pend) : Option State :=
  match p.eng, cmdOf p.instr with
  | some e, some (kind, rel, c0) =>
    if e.held.isSome || (rel && !s.performedBefore p.site.cell p.stamp) then none
    else
      let mine := (s.cmds.filter (fun c => c.ctx == e.ctx && !c.retired)).length
      match s.freeCmd with
      | none => none
      | some slot =>
        if 2048 ≤ mine then none
        else
          let addr := (joinWords (tokVal p.ops.l) (tokAt p.more 0)).toNat
          let pr := match p.ops.r with
            | some t => t.v.toNat
            | none => 0xFFFFFFFF
          let accept (s : State) (e : Eng) (desc : List Byte) (bad : Bool) : State :=
            let preds := [s.predOf e.ctx (pr % 65536), s.predOf e.ctx (pr / 65536)]
            let (s, id) := s.acceptCmd slot kind e desc bad preds
            let s := if preds.any (fun q => q == .malformed) then s.retireCmd slot 5 else s
            s.reply p.site c0 [⟨id, none⟩]
          if addr % 64 ≠ 0 then some (accept s e [] true)
          else match s.readEng e id [(addr, 64)] with
            | (s, e, .bytes l) => some (accept s e (l.map (fun b => b.b)) (rbBad l))
            | (s, e, .held) | (s, e, .wait) => some (s.keep p e)
            | (s, _, .refused) => some ((s.giveUp p).putBack p.site p.ops p.more)
  | _, _ => some s

/-- Issue of CMD: it reads its descriptor through its context's page table. -/
def issueCmd (i : Instr) (s : State) : Result :=
  issueCtl i s (fun s' o =>
    let more := (s.toks s.site .l 2).drop 1
    let s' := (s'.reserveAll s.site (emitsOf i .empty)).waitEng s.site i o more []
    s'.tryPend (s'.pend.length - 1) State.cmdAttempt)

/-- CMD.MATRIX (R97). -/
def execCmdMatrix (rel : Bool) (c0 : Consumer) (s : State) : Result := issueCmd (.cmdMatrix rel c0) s

/-- CMD.BULK (R97). -/
def execCmdBulk (rel : Bool) (c0 : Consumer) (s : State) : Result := issueCmd (.cmdBulk rel c0) s

/-- CMD.COLLECTIVE (R97). -/
def execCmdCollective (rel : Bool) (c0 : Consumer) (s : State) : Result := issueCmd (.cmdCollective rel c0) s

/-- CMD.LIFT (R97). -/
def execCmdLift (rel : Bool) (c0 : Consumer) (s : State) : Result := issueCmd (.cmdLift rel c0) s

/-- CMD.CHILD (R97). -/
def execCmdChild (rel : Bool) (c0 : Consumer) (s : State) : Result := issueCmd (.cmdChild rel c0) s

/-! CMDWAIT (R94, R97). -/

/-- The status token of a command, once it has retired; STALE for an id that names no command of the context. -/
def State.cmdStatus (s : State) (ctx : Nat) (id : Nat) : Option Word :=
  let answer (status : Nat) : Word := BitVec.ofNat 32 (id + status * 65536)
  match s.cmds.find? (fun c => c.slot == id % 4096) with
  | none => some (answer 0xFF)
  | some c =>
    if c.ctx ≠ ctx ∨ c.gen ≠ id / 4096 then some (answer 0xFF)
    else if c.retired then some (answer c.status)
    else none

def State.cmdwaitAttempt (s : State) (c0 : Consumer) (p : Pend) : Option State :=
  (s.cmdStatus (s.tagOf p.site.cell) ((tokVal p.ops.l).toNat % 65536)).map (fun w => s.reply p.site c0 [⟨w, none⟩])

/-- CMDWAIT (R97). -/
def execCmdwait (sc : Scope) (acq : Bool) (c0 : Consumer) (s : State) : Result :=
  issueWait (.cmdwait sc acq c0) c0 s (fun s p => s.cmdwaitAttempt c0 p)

/-! Issue of a command (R92, R93). -/

def State.updCmd (s : State) (slot : Nat) (f : Cmd → Cmd) : State := { s with cmds := s.cmds.map (fun c => if c.slot = slot then f c else c) }

/-- The engine that runs a command: its kind, and for a matrix command the systolic region. -/
def Cmd.engine (c : Cmd) : Nat × Nat × Nat := if c.kind = 0 then (0, c.eng.rid, (matOf c.desc none).sr) else (c.kind, 0, 0)

/-- The first checks of a descriptor: whether it could be read, KIND, and the reserved bits beside it (R92, R97, R384). -/
def Cmd.kindBad (c : Cmd) : Bool := c.spoilt || fieldAt c.desc 0 4 != c.kind || fieldAt c.desc 4 4 != 0

/-- The kind of copy that FLAGS of a bulk-copy command names, with its hint; none where it holds a reserved value (R229, R231). -/
def bulkKind (flags : Nat) : Option (CopyKind × Hint) :=
  match Hint.ofCode (flags % 4) with
  | none => none
  | some h =>
    if 512 ≤ flags then none
    else if bitOf flags 2 then
      match Fmt.ofCode (flags / 8 % 16), RedOp.ofCode (flags / 128 % 4) with
      | some f, some op => if f.reduce then some (.reduce f op, h) else none
      | _, _ => none
    else some (.plain, h)

/-- Whether the region of a command is parked: its engines wait. -/
def State.cmdParked (s : State) (c : Cmd) : Bool := s.parked.any (fun p => p.region.rid == c.eng.rid)

/-- A matrix command issues to its systolic region, once there is room (R257); that of a region which has ended meanwhile still stands for it
(R354). -/
def State.issueMatrixCmd (s : State) (c : Cmd) : State :=
  let o := matOf c.desc none
  let y := s.sysAt c.eng.rid o.sr
  if o.bad c.desc true y then s.retireCmd c.slot 1
  else if !y.room then s
  else
    let e := { c.eng with cell := y.cell, port := some y.port, puts := some o.puts }
    (s.updCmd c.slot (fun c => { c with issued := true })).updSys c.eng.rid o.sr (fun y => { y with queue := y.queue ++ [SysOp.fresh e none (some c.slot) c.desc []] })

/-- A bulk copy begins (R229). -/
def State.issueBulk (s : State) (c : Cmd) : State :=
  match bulkKind (fieldAt c.desc 0x28 4) with
  | none => s.retireCmd c.slot 1
  | some (kind, h) =>
    let red := match kind with
      | .reduce f _ => some f
      | .plain | .convert _ => none
    if copyBad c.desc (fun _ => true) red then s.retireCmd c.slot 1
    else s.updCmd c.slot (fun c => { c with issued := true, copy := some (Copy.fresh c.eng kind h c.desc) })

/-- A collective command joins its instance (R321, R322, R325). -/
def State.issueColl (s : State) (c : Cmd) : State :=
  if c.eng.held.isSome then s
  else match collFlags (fieldAt c.desc 0x3C 4) with
    | none => s.retireCmd c.slot 1
    | some x => match s.joinTurn x c.eng (some c.slot) none c.desc true with
      | .joined s => s.updCmd c.slot (fun c => { c with issued := true })
      | .ended s status => s.retireCmd c.slot (if status = 2 then 3 else 1)
      | .fault s => (s.raiseEng c.eng codeProt 0 false 0 0xC0).retireCmd c.slot 3
      | .wait s e => s.updCmd c.slot (fun c => { c with eng := e })

/-- A lift command asks its region to switch (R92, R316). -/
def State.issueLiftCmd (s : State) (c : Cmd) : State :=
  if (c.desc.drop 12).any (fun b => b != 0) || decide (512 ≤ fieldAt c.desc 8 4) then s.retireCmd c.slot 1
  else if !s.regionLives c.eng.rid then s.retireCmd c.slot 3
  else match s.requestLift c.eng.rid (BitVec.ofNat 32 (fieldAt c.desc 8 4)) (some c.slot) with
    | some s => s.updCmd c.slot (fun c => { c with issued := true })
    | none => s.retireCmd c.slot 1

/-- A child-launch command raises its launch token (R81, R92, R94). One that retires DENIED raises none, so no launch status is written for it: R84
and R92 do not say whether DENIED is written to its RESULT too (DESIGN CHOICE, log 23). -/
def State.issueChild (s : State) (c : Cmd) : State :=
  let words := wordsIn ((c.desc.drop 8).take 48)
  let l : Launch := { words := words, cmd := some c.slot, by0 := decide (c.ctx = 0), order := s.stamps, img := none, vars := [], judged := false }
  if (c.desc.drop 56).any (fun b => b != 0) then s.retireCmd c.slot 1
  else if c.ctx ≠ 0 ∧ l.ctx ≠ c.ctx then s.retireCmd c.slot 4
  else (s.updCmd c.slot (fun c => { c with issued := true })).raiseLaunch l

/-- COMMAND_ISSUE (R93): a command whose predecessors have all retired, the oldest of its engine. -/
def execCommandIssue (slot : Nat) (s : State) : Result :=
  match s.cmds.find? (fun c => c.slot == slot && !c.retired && !c.issued) with
  | none => .next s
  | some c =>
    let older := (s.cmds.takeWhile (fun d => d.slot != slot)).any (fun d =>
      !d.retired && !d.issued && d.waits.isEmpty && !d.cancelled && !d.kindBad && decide (d.engine = c.engine))
    if !c.waits.isEmpty || s.thermal then .next s
    else if c.cancelled then .next (s.retireCmd slot 2)
    else if c.kindBad then .next (s.retireCmd slot 1)
    else if older || s.cmdParked c then .next s
    else match c.kind with
      | 0 => .next (s.issueMatrixCmd c)
      | 1 => .next (s.issueBulk c)
      | 2 => .next (s.issueColl c)
      | 3 => .next (s.issueLiftCmd c)
      | _ => .next (s.issueChild c)

/-! Retirement (R93, R94). -/

/-- The status of a command by the result of its engine: a copy or a matrix operation answers 1 for BADDESC and 2 for FAULTED. -/
def engineResult (n : Nat) : Nat := if n = 1 then 1 else if n = 2 then 3 else 0

/-- A turn of the copy of a bulk-copy command; it retires at VIS (R229). -/
def State.stepBulk (s : State) (slot : Nat) (j : Copy) : State :=
  let (s, j) := s.copySrc j
  let (s, j) := s.copyLine j
  let (s, j) := s.copyVis j
  if j.ended then s.retireCmd slot (engineResult j.status) else s.updCmd slot (fun c => { c with copy := some j })

/-- COMMAND_RETIRE (R93): a command whose kind has run, and whose last write, the status of a child launch, is performed (R92, R301, R359). -/
def execCommandRetire (slot : Nat) (s : State) : Result :=
  match s.cmds.find? (fun c => c.slot == slot && !c.retired && c.issued) with
  | none => .next s
  | some c =>
    if s.thermal || s.mem.posted.any (fun x => x.cmd == some slot) then .next s
    else match c.result with
      | some r => .next (s.retireCmd slot (if c.kind = 0 then engineResult r else r))
      | none => match c.copy with
        | some j => .next (s.stepBulk slot j)
        | none => .next s

end Sys2Proof.Machine
end

