-- ==== Sys2Proof/Machine/Switch.lean ====
section
/-! DEFINITION. The grant of a region, and switches of a running region: shrink, narrow, timed; the switch point and the migration
(R83, R106, R107, R338 to R341, R343, R377). -/

namespace Sys2Proof.Machine

/-! Targets (R106, R338). -/

/-- The variants of a lift of a region's image in the order of R106. -/
def State.ordered (s : State) (r : Region) (lift : Nat) : List (Nat × ImgVar) :=
  match s.image? r.img with
  | none => []
  | some i => sortBy (fun (a b : Nat × ImgVar) => preferred a b || a.1 == b.1) ((List.range (imgNvar i.words lift)).map (fun k => (k, imageVar i.words lift k)))

/-- The candidate variants of a waiting launch. -/
def State.candidates (s : State) (l : Launch) : List ImgVar :=
  match l.img.bind s.image? with
  | none => []
  | some i => l.vars.map (fun k => imageVar i.words l.lift0 k)

/-- Whether a launch finds a place on a region's die in the cells that the region vacates when it holds only w × h cells (R338). -/
def State.placeBeside (s : State) (l : Launch) (r : Region) (w h : Nat) : Bool :=
  (s.candidates l).any (fun x => (l.places x.w x.h).any (fun p =>
    decide (p.1 = r.die) && decide (r.x0 ≤ p.2.1) && decide (r.y0 ≤ p.2.2) && decide (p.2.1 + x.w ≤ r.x0 + r.w) &&
      decide (p.2.2 + x.h ≤ r.y0 + r.h) && !rectsMeet p.2.1 p.2.2 x.w x.h r.x0 r.y0 w h))

/-- Whether a variant is a target of a switch of a region (R338); the migration has conditions of its own. -/
def State.isTarget (s : State) (r : Region) (kind : SwitchKind) (x : Nat × ImgVar) : Bool :=
  decide (x.2.w ≤ r.w) && decide (x.2.h ≤ r.h) && (match kind with
    | .shrink n => match s.launches.find? (fun l => l.order == n) with
      | some l => s.placeBeside l r x.2.w x.2.h
      | none => false
    | .narrow limit => decide (x.2.power ≤ limit)
    | .timed var => decide (x.1 = var)
    | .hold => false)

/-- A switch of a region starts in this cycle (R338, R340). -/
def State.startSwitch (s : State) (rid : Nat) (kind : SwitchKind) : State :=
  s.updRegion rid (fun r => { r with switch := some ⟨kind, s.cycle, false, none⟩ })

/-- Whether a switch may start on a region: it holds cells, and is neither switching nor stopping. -/
def Region.switchable (r : Region) : Bool := !r.gone && r.switch.isNone && r.stopAt.isNone

/-! Shrink (R107, R338, R339). -/

/-- The regions that a launch may shrink, in the order in which they are chosen. -/
def State.victims (s : State) (l : Launch) : List Region :=
  [0, 1, 2, 3].flatMap (fun d => sortBy (fun (a b : Region) =>
    decide (a.prio < b.prio) || (decide (a.prio = b.prio) && decide (b.order ≤ a.order)))
      (s.regions.filter (fun r => r.switchable && r.die == d && decide (r.prio < l.prio))))

/-- A waiting launch that finds no origin looks for a region to shrink, once each time it is judged (R106, R107). -/
def State.requestShrink (s : State) (l : Launch) : State :=
  let s := { s with launches := s.launches.map (fun (m : Launch) => if m.order = l.order then { m with judged := true } else m) }
  let free := (s.candidates l).any (fun x => (l.places x.w x.h).any (fun p => s.rectFree p.1 p.2.1 p.2.2 x.w x.h none))
  if l.judged || !l.pauto || free || !s.admits l.ctx then s
  else match (s.victims l).find? (fun r => (s.ordered r r.lift).any (s.isTarget r (.shrink l.order))) with
    | some r => s.startSwitch r.rid (.shrink l.order)
    | none => s

/-- REGION_GRANT (R83 steps 5 to 8, R106, R107): the k-th waiting launch, once no earlier one can be granted; a launch that must wait
may shrink a region of lower priority. A context without state has retired before it is given a region again (R355); a device in package
sleep goes to idle (R371). -/
def execRegionGrant (k : Nat) (s : State) : Result :=
  match s.launches[k]? with
  | none => .next s
  | some l =>
    if s.thermal || (s.launches.take k).any (fun m => (s.grantFor m).isSome) then .next s
    else match s.grantFor l with
      | none => .next (s.requestShrink l)
      | some (i, vn, v, p, clusters) =>
        let s := (if s.hasState l.ctx then s else s.retireContext l.ctx).wakeUp
        let s := { s with launches := s.launches.eraseIdx k }
        if s.groupClash l.ctx v none then .next (s.endLaunch l .groupclash) else .next (s.startRegion l i vn v p clusters)

/-! Narrow (R338, R362). -/

/-- The switches that a budget below the committed power starts: regions keep the budget by descending priority, the earlier launch
first; one whose power exceeds what is left narrows to a variant within it, where it has one. -/
def State.narrowFrom (s : State) (left : Nat) : List Region → State
  | [] => s
  | r :: rest =>
    if r.power ≤ left ∨ r.switchable = false then s.narrowFrom (left - r.power) rest
    else match (s.ordered r r.lift).find? (s.isTarget r (.narrow left)) with
      | some x => (s.startSwitch r.rid (.narrow left)).narrowFrom (left - x.2.power) rest
      | none => s.narrowFrom (left - r.power) rest

/-- A budget set by the power controller (R338, R362): waiting launches are judged again, and regions narrow where it is below the
committed power. -/
def State.setBudget (s : State) (watts : Nat) : State :=
  let s := { s with boot := { s.boot with budget := watts }, launches := s.launches.map (fun (l : Launch) => { l with judged := false }) }
  if s.committed ≤ watts then s
  else s.narrowFrom watts (sortBy (fun (a b : Region) => decide (b.prio < a.prio) || (decide (a.prio = b.prio) && decide (a.order ≤ b.order))) s.live)

/-! Timed (R338). -/

def tswPend (v : Word) : Bool := v.getLsbD 31
def tswCtx (v : Word) : Nat := v.toNat % 4096
def tswAction (v : Word) : Nat := v.toNat / 4096 % 4
def tswVar (v : Word) : Nat := v.toNat / 16384 % 4

/-- The request of TSW_CTL honoured: every region of its context that the variant fits switches, or the context is evicted. -/
def State.honourTsw (s : State) : State :=
  let v := s.dev.tswCtl
  let s := { s with dev := { s.dev with tswCtl := v &&& 0x0000FFFF } }
  if tswAction v = 2 then s.evictContext (tswCtx v) 0
  else
    (s.regions.filter (fun r => r.ctx == tswCtx v && r.switchable && (s.ordered r r.lift).any (s.isTarget r (.timed (tswVar v))))).foldl (fun s r =>
      s.startSwitch r.rid (.timed (tswVar v))) s

/-- A write of TSW_CTL (R338): none where it is refused, since a request is pending; ACTION 0b11 is ignored. -/
def State.writeTswCtl (s : State) (v : Word) : Option State :=
  if tswAction v ≠ 0 ∧ tswPend s.dev.tswCtl = true then none
  else if tswAction v = 3 then some s
  else if tswAction v = 0 then some { s with dev := { s.dev with tswCtl := v &&& 0x0000FFFF } }
  else
    let s := { s with dev := { s.dev with tswCtl := (v &&& 0x0000FFFF) ||| 0x80000000 } }
    some (if s.dev.tswAt.toNat ≤ s.cycle then s.honourTsw else s)

/-- TSW_CTL_WRITE (R338): what an accepted write of TSW_CTL does. -/
def execTswCtlWrite (v : Word) (s : State) : Result := .next ((s.writeTswCtl v).getD s)

/-- TSW_AT_REACHED (R338). -/
def execTswAtReached (s : State) : Result :=
  if tswPend s.dev.tswCtl && decide (s.dev.tswAt.toNat ≤ s.cycle) && !s.thermal then .next s.honourTsw else .next s

/-! The switch point (R340, R341). -/

/-- Whether a region has reached its switch point: no firing in progress, nothing in flight, every systolic operation complete (R248, R340). -/
def State.atSwitchPoint (s : State) (r : Region) : Bool :=
  !r.sweeping && r.updates.isEmpty && r.sys.all (fun y => y.queue.isEmpty) && (s.cellsOf r.rid).all (fun c =>
    c.blocks.all (fun b => !b.firing) && !s.cellInFlight c && c.ports.all (fun p => p.accs.isEmpty && p.nest.isNone) && !s.pend.any (fun p => p.site.cell == c.num))

/-- A block of a variant in a region. -/
def State.varBlock (s : State) (rid : Nat) (b : ImgBlock) : Option Block := (s.cellAt rid b.x b.y).bind (fun c => c.block? b.ctx)

/-- The tokens of an input channel, oldest first. -/
def InChan.tokens (c : InChan) : List Tok := (List.range c.occupancy).map c.tokenAt

/-- The tokens of channel k of a variant. -/
def State.chanTokens (s : State) (rid : Nat) (v : ImgVar) (k : Nat) : List Tok :=
  match v.chans[k]? with
  | none => []
  | some c => match (s.cellAt rid c.dx c.dy).bind (fun x => x.block? c.dctx) with
    | some b => (b.inChan c.dch).tokens
    | none => []

/-- The channel entry that feeds an input channel, by its number. -/
def ImgVar.feeds (v : ImgVar) (b : ImgBlock) (ch : Nat) : Option Nat :=
  v.chans.findIdx? (fun c => c.dx == b.x && c.dy == b.y && c.dctx == b.ctx && c.dch == ch)

/-- The tokens that seed channel `ch` of block k holds. -/
def State.seedTokens (s : State) (rid : Nat) (v : ImgVar) (k ch : Nat) : List Tok :=
  match v.blocks[k]? with
  | none => []
  | some b =>
    if (v.feeds b ch).isSome then []
    else match s.varBlock rid b with
      | some x => (x.inChan ch).tokens
      | none => []

/-- Whether a variant can take over from another (R341). -/
def State.migratable (s : State) (rid : Nat) (old new : ImgVar) : Bool :=
  decide (old.blocks.length = new.blocks.length) && decide (old.chans.length = new.chans.length) &&
    (List.range old.chans.length).all (fun k => match new.chans[k]? with
      | some c => decide ((s.chanTokens rid old k).length ≤ c.cap)
      | none => false) &&
    (List.range old.blocks.length).all (fun k => (List.range 8).all (fun ch =>
      let n := (s.seedTokens rid old k ch).length
      n == 0 || (match new.blocks[k]? with
        | some b => decide (ch < b.nin) && (new.feeds b ch).isNone && decide (n ≤ new.seedCap b ch)
        | none => false)))

/-- An input channel that holds tokens from its start. -/
def InChan.filled (c : InChan) (l : List Tok) : InChan :=
  { c with cp := 0, pp := BitVec.ofNat 32 l.length, buf := l ++ List.replicate (c.cap - l.length) ⟨0, none⟩ }

/-- A slot with the tokens and numbers that wait at another's fields (log 36). -/
def Slot.waitingAs (sl o : Slot) : Slot := { sl with l := o.l, r := o.r, p := o.p, a := o.a }

/-- Block k of the new variant, with what block k of the old one held, the numbers at its fields among it. -/
def State.movedBlock (s : State) (p : Placed) (rid : Nat) (old new : ImgVar) (k : Nat) (b : ImgBlock) : Block :=
  let x : Block := buildBlock p new b
  let was := (old.blocks[k]?).bind (s.varBlock rid)
  let x : Block := match was with
    | some o => { x with fireNo := o.fireNo, fired := o.fired, slots := x.slots.mapIdx (fun j (sl : Slot) => sl.waitingAs (o.slot j)) }
    | none => x
  { x with
    ins := x.ins.mapIdx (fun ch c => c.filled (match new.feeds b ch with
      | some j => s.chanTokens rid old j
      | none => s.seedTokens rid old k ch)),
    outs := x.outs.mapIdx (fun ch c => match new.chans.findIdx? (fun e => e.sx == b.x && e.sy == b.y && e.sctx == b.ctx && e.sch == ch) with
      | some j => { c with pp := BitVec.ofNat 32 (s.chanTokens rid old j).length }
      | none => c) }

/-- A cell that stays, under the new variant: registers, accumulators and weights persist. -/
def State.movedCell (s : State) (p : Placed) (r : Region) (old new : ImgVar) (c : Cell) : Cell :=
  let mine := (new.blocks.mapIdx (fun k b => (k, b))).filter (fun x => x.2.x == c.rx && x.2.y == c.ry)
  let bs := ([0, 1, 2, 3].filterMap (fun n => mine.find? (fun x => x.2.ctx == n))).map (fun x => s.movedBlock p r.rid old new x.1 x.2)
  { c with blocks := bs, cur := bs.head?.map (fun b => b.ctx), last := none, switchUntil := 0, held0 := [], routes := buildRoutes p new c.rx c.ry,
           ports := s.buildPorts c.context new c.rx c.ry }

/-- The place of block k of the new variant for a place of the old one. -/
def movedPlace (p : Placed) (old new : ImgVar) (cell ctx : Nat) : Option (Nat × Nat) :=
  match old.blocks.findIdx? (fun b => p.num b.x b.y == cell && b.ctx == ctx) with
  | none => none
  | some k => (new.blocks[k]?).map (fun b => (p.num b.x b.y, b.ctx))

/-- The group table of the new variant; a group id of both keeps its phase and its arrivals, by rank (R341). -/
def movedGroups (old : List Group) (new : List Group) : List Group :=
  new.map (fun g => match old.find? (fun o => o.gid == g.gid) with
    | none => g
    | some o =>
      let arrived := (List.range g.members.length).filterMap (fun k => match o.members[k]?, g.members[k]? with
        | some a, some b => if o.arrived.contains a then some b else none
        | _, _ => none)
      { g with phase := o.phase, arrived := arrived, learned := g.members.map (fun m => (m, o.phase)) })

/-- Cells outside w × h leave a region: its rectangle, clusters and power become those of its variant, and waiting launches are judged
again. What the cells have issued runs on under a number of its own. -/
def State.vacate (s : State) (rid w h : Nat) : State :=
  match s.region? rid with
  | none => s
  | some r =>
    let out := (s.cellsOf rid).filter (fun c => decide (w ≤ c.rx) || decide (h ≤ c.ry))
    let new := max s.stamps (rid + 1)
    let rest : Region := { r with rid := new, gone := true, reported := true, seeds := [], sys := [], owners := [], updates := [], groups := [], liftReq := none,
                                  liftCmds := [], switch := none, leaving := none, cmd := none, sweeping := false, stopAt := none }
    let s : State := s.countFirings r.ctx out
    let nums := out.map (fun (c : Cell) => c.num)
    let s : State := { s with regions := s.regions ++ [rest], stamps := new + 1 }
    let s := s.leave rid new nums
    let n := (w * h + 31) / 32
    let s := s.updRegion rid (fun r => { r with w := w, h := h, clusters := r.clusters.take n, ages := List.replicate (8 * n) 0 })
    { s with launches := s.launches.map (fun (l : Launch) => { l with judged := false }) }.sweepGone.setDividers

/-- The migration of a region into a variant of its lift (R341, R377). -/
def State.migrate (s : State) (r : Region) (old : ImgVar) (var : Nat) (new : ImgVar) : State :=
  let p : Placed := ⟨r.die, r.x0, r.y0⟩
  let place (t : Site) : Site := match movedPlace p old new t.cell t.ctx with
    | some (n, k) => { t with cell := n, ctx := k }
    | none => t
  let s := (s.placeVariant r r.lift var new).lookWindows r.ctx new
  let cells := s.cells.map (fun c => if c.rid = r.rid ∧ c.rx < new.w ∧ c.ry < new.h then s.movedCell p r old new c else c)
  let nums := cells.filterMap (fun c => if c.rid = r.rid then some c.num else none)
  let s := { s with cells := cells, chanMsgs := s.chanMsgs.filter (fun m => !nums.contains m.cell) }.updRegion r.rid (fun r => { r with
    var := var, power := new.power, switch := none, sys := List.replicate 4 .none, groups := movedGroups r.groups (buildGroups p new),
    seeds := r.seeds.map (fun (x : Seed) => match movedPlace p old new x.cell x.ctx with
      | some (n, k) => { x with cell := n, ctx := k }
      | none => x),
    owners := r.owners.map (fun (o : Owner) => { o with eng := { o.eng with site := place o.eng.site, cell := (place o.eng.site).cell } }) })
  s.vacate r.rid new.w new.h

/-- A switch that finds no target: a shrink or narrow request is withdrawn, a timed one evicts (R341). -/
def State.noTarget (s : State) (r : Region) (kind : SwitchKind) : State :=
  match kind with
  | .timed _ => s.evictContext r.ctx 0
  | .shrink _ | .narrow _ | .hold => s.updRegion r.rid (fun r => { r with switch := none })

/-- A switch point that is the drained report of a lift switch (R340): the target is taken from the new lift, and the wedge loads it; meanwhile
the switch point counts as come, and the systolic regions are released (R377). -/
def State.switchLift (s : State) (r : Region) (kind : SwitchKind) (l : Word) : State :=
  let lift := l.toNat % 64
  match (s.ordered r lift).find? (s.isTarget r kind) with
  | none => s.noTarget r kind
  | some (var, v) =>
    if s.wedgeReady r lift var v then
      ((s.wedge r lift var v).updRegion r.rid (fun r => { r with switch := none })).vacate r.rid v.w v.h
    else s.updRegion r.rid (fun r => { r with sys := List.replicate 4 .none, switch := r.switch.map (fun (w : Switch) => { w with reached := true }) })

/-- The region migrates into the first target that meets the conditions of R341. -/
def State.migrateTo (s : State) (r : Region) (kind : SwitchKind) : State :=
  match s.varOf r with
  | none => s.noTarget r kind
  | some old => match (s.ordered r r.lift).find? (fun x => s.isTarget r kind x && s.migratable r.rid old x.2) with
    | some (var, v) => s.migrate r old var v
    | none => s.noTarget r kind

/-- SWITCH_POINT (R340, R341): the region migrates into the first target that meets the conditions. -/
def execSwitchPoint (rid : Nat) (s : State) : Result :=
  match s.region? rid with
  | none => .next s
  | some r => match r.switch with
    | none => .next s
    | some sw =>
      if decide (sw.kind = .hold) || s.thermal || !s.regionGoes rid || s.regionHolds rid || !s.atSwitchPoint r then .next s
      else match r.haltAt, r.liftReq with
        | none, some l =>
          if s.regionSettled r then .next (s.switchLift r sw.kind l) else .next (s.migrateTo r sw.kind)
        | _, _ => .next (s.migrateTo r sw.kind)

/-- SWITCH_GRACE_EXPIRY (R340, R343): no switch point in time, and no held fault: the context is evicted. -/
def execSwitchGraceExpiry (rid : Nat) (s : State) : Result :=
  match s.region? rid with
  | none => .next s
  | some r => match r.switch with
    | none => .next s
    | some sw =>
      if decide (sw.kind = .hold) || sw.reached || r.gone || s.regionHolds rid || decide (s.cycle < sw.start + s.dev.switchGrace.toNat) then .next s
      else .next (s.evictContext r.ctx 1)

end Sys2Proof.Machine
end

