-- ==== Sys2Proof/Machine/Park.lean ====
section
/-! DEFINITION. Held faults that outlive FAULT_HOLD, parks and their save slots, resumption, machine checks (R173, R174, R244, R255, R334,
R335, R342 to R344). -/

namespace Sys2Proof.Machine

/-! The register part of a save slot (R172 to R174). -/

/-- BANK_MAP (R172). -/
def Cell.bankMap (c : Cell) : Word :=
  BitVec.ofNat 32 ((List.range 4).foldl (fun n b => n + (c.regs.gBank b).st.code * 4 ^ b) 0 +
    (List.range 8).foldl (fun n b => n + (c.regs.vBank b).st.code * 4 ^ (b + 4)) 0)

/-- Whether a bank holds what it held: FULL or KEEP. -/
def Bank.retains (b : Bank) : Bool := b.st == .full || b.st == .keep

/-- The numbers of the bits that a test sets, as a word of n bits. -/
def bitWord (n : Nat) (f : Nat → Bool) : Nat := (List.range n).foldl (fun m k => if f k then m + 2 ^ k else m) 0

/-- The origin of a mark, 0 where there is none. -/
def originWord (m : Mark) : Nat := (m.getD 0).toNat

/-- A save part filled up with zeros. -/
def padTo (n : Nat) (l : List Byte) : List Byte := l ++ List.replicate (n - l.length) 0

/-- The register part (R173). -/
def Cell.regBytes (c : Cell) : List Byte :=
  let g (n : Nat) : GReg := (c.regs.gReg n).now
  let v (n : Nat) : VReg := (c.regs.vReg n).now
  let k (n : Nat) : KReg := (c.regs.kReg n).now
  let gv (n : Nat) : Bool := (g n).valid && (c.regs.gBank (n / 16)).retains
  let vv (n : Nat) : Bool := (v n).valid && (c.regs.vBank (n / 4)).retains
  leBytes 4 c.bankMap.toNat ++ leBytes 4 (bitWord 8 (fun n => (k n).mark.isSome)) ++ leBytes 8 (bitWord 64 gv) ++
    leBytes 8 (bitWord 64 (fun n => gv n && (g n).far)) ++ leBytes 8 (bitWord 64 (fun n => gv n && (g n).mark.isSome)) ++ leBytes 4 (bitWord 32 vv) ++
    leBytes 4 (bitWord 32 (fun n => vv n && (v n).far)) ++ leBytes 8 0 ++
    (List.range 8).flatMap (fun n => leBytes 4 (k n).val.toNat ++ leBytes 4 (originWord (k n).mark)) ++
    ((List.range 64).filter gv).flatMap (fun n => leBytes 4 (g n).val.toNat ++ leBytes 4 (originWord (g n).mark)) ++
    ((List.range 32).filter vv).flatMap (fun n => (lanes128 (fun i => leBytes 4 ((v n).lanes.getD i 0).toNat)).flatten ++ leBytes 16 (v n).mask.toNat ++
      leBytes 4 (v n).origin.toNat ++ leBytes 12 0)

/-- The bank state of a code; 0b11 is restored as OFF (R174). -/
def bankOfCode (n now : Nat) : Bank := ⟨if n = 1 then .keep else if n = 2 then .full else .off, now⟩

/-- The registers restored from a register part (R174). -/
def restoreRegs (d : List Byte) (now : Nat) : RegFiles :=
  let map := fieldAt d 0 4
  let gb (b : Nat) : Bank := bankOfCode (map / 4 ^ b % 4) now
  let vb (b : Nat) : Bank := bankOfCode (map / 4 ^ (b + 4) % 4) now
  let kp := fieldAt d 4 4
  let gvalid := fieldAt d 8 8
  let vvalid := fieldAt d 0x20 4
  let before (m n : Nat) : Nat := ((List.range n).filter (bitOf m)).length
  let vbase := 0x70 + 8 * before gvalid 64
  let g (n : Nat) : GReg :=
    let at_ := 0x70 + 8 * before gvalid n
    if bitOf gvalid n && (gb (n / 16)).retains then
      ⟨BitVec.ofNat 32 (fieldAt d at_ 4), true, bitOf (fieldAt d 0x10 8) n, if bitOf (fieldAt d 0x18 8) n then some (BitVec.ofNat 32 (fieldAt d (at_ + 4) 4)) else none⟩
    else ⟨0, false, false, none⟩
  let v (n : Nat) : VReg :=
    let at_ := vbase + 544 * before vvalid n
    if bitOf vvalid n && (vb (n / 4)).retains then
      ⟨lanes128 (fun i => BitVec.ofNat 32 (fieldAt d (at_ + 4 * i) 4)), true, bitOf (fieldAt d 0x24 4) n, BitVec.ofNat 128 (fieldAt d (at_ + 512) 16),
        BitVec.ofNat 32 (fieldAt d (at_ + 528) 4)⟩
    else ⟨[], false, false, 0, 0⟩
  let k (n : Nat) : KReg := ⟨BitVec.ofNat 32 (fieldAt d (0x30 + 8 * n) 4), if bitOf kp n then some (BitVec.ofNat 32 (fieldAt d (0x34 + 8 * n) 4)) else none⟩
  { g := (List.range 64).map (fun n => Timed.of (g n)), v := (List.range 32).map (fun n => Timed.of (v n)), k := (List.range 8).map (fun n => Timed.of (k n)),
    gBanks := (List.range 4).map gb, vBanks := (List.range 8).map vb }

/-! Accumulators and weight registers (R251, R344). -/

/-- The poison mask of 128 lanes and an origin: that of the lowest poisoned lane. -/
def poisonBytes (lanes : List Lane) : List Byte :=
  leBytes 16 (bitWord 128 (fun i => (laneAt lanes i).mark.isSome)) ++ leBytes 4 (originWord ((lanes.filterMap (fun l => l.mark)).head?)) ++ leBytes 12 0

def Acc.entries (a : Acc) : List Byte := (lanes128 (fun i => leBytes 8 (entryOf a.int (laneAt a.lanes i).val))).flatten

/-- A weight held under R54: its word, sign-extended for INT8 and INT4. -/
def Weights.words (w : Weights) : List Byte :=
  (lanes128 (fun i =>
    let x := (valWord w.fmt (laneAt w.lanes i).val).toNat % 2 ^ w.fmt.width
    leBytes 4 (match w.fmt with
      | .int8 | .int4 => (BitVec.ofInt 32 (signedOf w.fmt.width x)).toNat
      | .fp32 | .bf16 | .fp16 | .e4m3 | .e5m2 | .e2m3 | .e3m2 | .e2m1 | .x | .int32 | .uint8 | .code4 => x))).flatten

/-- The lanes that a part restores: poisoned lanes carry the origin of the mask. -/
def restoreLanes (value : Nat → Val) (d : List Byte) (off : Nat) : List Lane :=
  lanes128 (fun i => ⟨value i, if bitOf (fieldAt d off 16) i then some (BitVec.ofNat 32 (fieldAt d (off + 16) 4)) else none⟩)

/-! Save slots (R344). -/

def saveSize : Nat := 0x20000

/-- The words of a block's channels in their part: CP and PP of each input channel, PP and w of each output channel (R119, R129, R344). -/
def Block.chanWords (b : Block) : List Word := b.ins.flatMap (fun c => [c.cp, c.pp]) ++ b.outs.flatMap (fun c => [c.pp, BitVec.ofNat 32 c.w])

/-- The bytes of the part of the channels; the order within it is the model's (log 5). -/
def Cell.chanBytes (c : Cell) : List Byte := padTo 256 ((c.blocks.flatMap (fun b => b.chanWords.flatMap (fun w => leBytes 4 w.toNat))).take 256)

/-- The channel store image: the buffers of the input channels one after another, 4 bytes a token (R117, R344; log 5). -/
def Cell.storeBytes (c : Cell) : List Byte :=
  padTo 16384 ((c.blocks.flatMap (fun b => b.ins.flatMap (fun x => x.buf.flatMap (fun t => leBytes 4 t.v.toNat)))).take 16384)

/-- Word k of the channel part of a save slot, where it lies there. -/
def savedWord (d : List Byte) (k : Nat) (w : Word) : Word := if k < 64 then BitVec.ofNat 32 (fieldAt d (0x19400 + 4 * k) 4) else w

/-- Token k of the channel store image. -/
def savedTok (d : List Byte) (k : Nat) (t : Tok) : Tok := if k < 4096 then { t with v := BitVec.ofNat 32 (fieldAt d (0x19500 + 4 * k) 4) } else t

/-- Input channels restored, from a word and a token of their parts on. -/
def restoreIns (d : List Byte) : Nat → Nat → List InChan → List InChan
  | _, _, [] => []
  | k, n, c :: rest => { c with cp := savedWord d k c.cp, pp := savedWord d (k + 1) c.pp, buf := c.buf.mapIdx (fun i t => savedTok d (n + i) t) } ::
      restoreIns d (k + 2) (n + c.buf.length) rest

/-- Output channels restored, from a word of their part on. -/
def restoreOuts (d : List Byte) : Nat → List OutChan → List OutChan
  | _, [] => []
  | k, c :: rest => { c with pp := savedWord d k c.pp, w := (savedWord d (k + 1) (BitVec.ofNat 32 c.w)).toNat } :: restoreOuts d (k + 2) rest

/-- The blocks of a cell with the channels of a save slot. -/
def restoreBlocks (d : List Byte) : Nat → Nat → List Block → List Block
  | _, _, [] => []
  | k, n, b :: rest => { b with ins := restoreIns d k n b.ins, outs := restoreOuts d (k + 2 * b.ins.length) b.outs } ::
      restoreBlocks d (k + 2 * (b.ins.length + b.outs.length)) (n + (b.ins.map (fun c => c.buf.length)).foldl (· + ·) 0) rest

/-- The parts of a save slot whose contents the spec gives, as offsets and bytes. -/
def Cell.saveParts (c : Cell) : List (Nat × List Byte) :=
  let pes := (List.range 16).map c.pe
  [(0, padTo 18432 c.regBytes),
   (0x4800, pes.flatMap (fun p => (List.range 4).flatMap (fun a => (p.accReg a).entries))),
   (0x14800, pes.flatMap (fun p => (List.range 4).flatMap (fun a => poisonBytes (p.accReg a).lanes))),
   (0x15000, pes.flatMap (fun p => p.cur.words ++ p.shadow.words)),
   (0x19000, pes.flatMap (fun p => poisonBytes p.cur.lanes ++ poisonBytes p.shadow.lanes)),
   (0x19400, c.chanBytes), (0x19500, c.storeBytes)]

/-- The part whose form the spec does not give: firing and port state. Its bytes are free. -/
def privateFrom : Nat := 0x1D500

def privateBytes (salt cell : Nat) : List Byte := (List.range (saveSize - privateFrom)).map (fun i => Config.saveByte salt (cell * saveSize + i))

/-- The address of a cell's save slot. -/
def State.saveVa (s : State) (ctx cell : Nat) : Nat := ((s.ctxRegs ctx).saveBase.toNat / saveSize * saveSize + cell * saveSize) % 2 ^ 64

/-- Every cell of a list saved; false where a write faults. -/
def State.saveCells (s : State) (ctx salt : Nat) : List Cell → State × Bool
  | [] => (s, true)
  | c :: rest =>
    let base := s.saveVa ctx c.num
    let parts := c.saveParts ++ [(privateFrom, privateBytes salt c.num)]
    match s.quietWrites ctx (parts.flatMap (fun x => linesOf (base + x.1) x.2)) with
    | (s, true) => s.saveCells ctx salt rest
    | (s, false) => (s, false)

/-- The PEs of a cell with the accumulators and weight registers of a save slot. -/
def restorePes (pes : List Pe) (d : List Byte) : List Pe :=
  pes.mapIdx (fun p pe =>
    let acc (a : Nat) : Acc :=
      let entry (i : Nat) : Nat := fieldAt d (0x4800 + 8 * (128 * (4 * p + a) + i)) 8
      let int := bitOf (entry 0) 63
      ⟨int, restoreLanes (fun i => (entryVal int (entry i)).1) d (0x14800 + 32 * (4 * p + a))⟩
    let weights (w : Weights) (k : Nat) : Weights :=
      { w with lanes := restoreLanes (fun i => (wordVal w.fmt (BitVec.ofNat 32 (fieldAt d (0x15000 + 4 * (128 * (2 * p + k) + i)) 4))).1) d
                 (0x19000 + 32 * (2 * p + k)) }
    { pe with acc := (List.range 4).map acc, cur := weights pe.cur 0, shadow := weights pe.shadow 1,
              division := pe.division })

/-- Every cell of a list restored from its save slot; none where a read faults or the private part is not what was saved. -/
def State.restoreCells (s : State) (ctx salt : Nat) : List Cell → State × Option (List Cell)
  | [] => (s, some [])
  | c :: rest =>
    match s.seqRead ctx (s.saveVa ctx c.num) saveSize with
    | (s, .error _) => (s, none)
    | (s, .ok d) =>
      if d.drop privateFrom ≠ privateBytes salt c.num then (s, none)
      else match s.restoreCells ctx salt rest with
        | (s, none) => (s, none)
        | (s, some l) => (s, some ({ c with regs := restoreRegs d s.cycle, pes := restorePes c.pes d, blocks := restoreBlocks d 0 0 c.blocks } :: l))

/-! Expiry of FAULT_HOLD (R244, R325, R331, R342). -/

def State.expired (s : State) (since : Nat) : Bool := decide (since + s.dev.faultHold.toNat ≤ s.cycle)

def State.engExpired (s : State) (e : Eng) : Bool :=
  match e.held with
  | some h => s.expired h.since
  | none => false

def State.accessExpired (s : State) (a : Access) : Bool :=
  match a.stage with
  | .held _ _ _ since => s.expired since
  | .walk | .ready | .done _ | .stream _ _ _ => false

/-- Whether a region, or an engine agent of it, holds a fault that has outlived FAULT_HOLD and does not park for it already. -/
def State.holdDue (s : State) (rid : Nat) : Bool :=
  !((s.region? rid).any (fun r => decide (r.switch.map (fun w => w.kind) = some .hold))) &&
    ((s.cellsOf rid).any (fun c => c.ports.any (fun p => p.accs.any s.accessExpired)) || s.heldEngs.any (fun e => e.rid == rid && s.engExpired e))

/-- Copies held too long complete FAULTED, and so do the collectives of such participants (R244, R325). -/
def State.failHeld (s : State) (rid : Nat) : State :=
  let late (e : Eng) : Bool := e.rid == rid && s.engExpired e
  let copies (x : CopySlot) : CopySlot := { x with job := x.job.map (fun (j : Copy) => if late j.eng && !j.ended then j.end_ 2 else j) }
  let dead := s.pend.filter (fun p => (match p.instr with
    | .coll _ _ _ _ _ => true
    | _ => false) && p.eng.any late)
  let lost := (s.cmds.filter (fun c => !c.retired && c.kind == 2 && !c.issued && late c.eng)).map (fun c => c.slot)
  let s := { s with
    cells := s.cells.map (fun (c : Cell) => { c with copies := c.copies.map copies })
    cmds := s.cmds.map (fun (c : Cmd) => { c with copy := c.copy.map (fun (j : Copy) => if late j.eng && !j.ended then j.end_ 2 else j) })
    colls := s.colls.map (fun (x : Coll) => { x with joins := x.joins.map (fun (j : Join) => if late j.eng then { j with status := 2 } else j) })
    pend := s.pend.filter (fun p => !dead.any (fun q => q.stamp == p.stamp)) }
  let s := dead.foldl (fun s p => s.reply p.site (match p.instr with
    | .coll _ _ _ _ c0 => c0
    | _ => Option.none) [⟨2, Option.none⟩]) s
  lost.foldl (fun s k => s.retireCmd k 3) s

/-- Whether an access is a release that an access given up precedes in its cell, or a word's write with a FENCE between them, through which the
FENCE would release: it is never performed (R295, R300). -/
def State.strands (s : State) (c : Cell) (gone : Access → Bool) (a : Access) : Bool :=
  c.ports.any (fun p => p.accs.any (fun x => gone x && decide (x.stamp < a.stamp) && (isRelease a.instr || (isWordWrite a.instr &&
    s.pend.any (fun q => isFence q.instr && decide (q.site.cell = c.num) && decide (x.stamp < q.stamp) && decide (q.stamp < a.stamp))))))

/-- What else a region that has ended gives up: its held accesses with the releases behind them, waiting instructions and operations. -/
def State.dropHeld (s : State) (rid : Nat) : State :=
  let late (e : Eng) : Bool := e.rid == rid && s.engExpired e
  let s := { s with
    cells := s.cells.map (fun (c : Cell) => if c.rid = rid then { c with ports := c.ports.map (fun (p : Port) => { p with accs := p.accs.filter (fun a => !s.accessExpired a && !s.strands c s.accessExpired a) }) } else c)
    pend := s.pend.filter (fun p => !p.eng.any late) }
  s.updRegion rid (fun r => { r with sys := r.sys.map (fun (y : Systolic) => { y with queue := y.queue.map (fun (o : SysOp) => if late o.eng then { o with status := 2 } else o) }) })

/-- The record of a park under R244 for a held access: PARKED (R329, R342). -/
def parkedAccess (r : Region) (port : Nat) (a : Access) : Option FaultRec :=
  match a.stage with
  | .held code va second _ =>
    some { cell := some a.site.cell, ctx := r.ctx, rid := some r.rid, code := code, sub := 0, held := true, parked := true,
           origin := originOf a.site a.fire, addr := BitVec.ofNat 64 va, aux := accessAux port (needOf a.instr).w second, fire := a.fire }
  | .walk | .ready | .done _ | .stream _ _ _ => none

/-- The record of a park under R244 for an engine agent. -/
def State.parkedEng (s : State) (r : Region) (e : Eng) : Option FaultRec :=
  e.held.map (fun h =>
    { cell := s.engCell e, ctx := r.ctx, rid := some r.rid, code := h.code, sub := 0, held := true, parked := true, origin := e.origin,
      addr := BitVec.ofNat 64 h.va, aux := accessAux (e.port.getD 0) h.write false, fire := e.fire })

/-- The fault for which a region parks (R244, R342): that of the oldest access which has outlived FAULT_HOLD, else of the oldest such agent. -/
def State.parkFault (s : State) (r : Region) : Option FaultRec :=
  let accs := (s.cellsOf r.rid).flatMap (fun c => c.ports.flatMap (fun p => (p.accs.filter s.accessExpired).map (fun a => (p.num, a))))
  let oldest := accs.foldl (fun (b : Option (Nat × Access)) x => match b with
    | some y => if x.2.stamp < y.2.stamp then some x else some y
    | none => some x) none
  match oldest with
  | some (port, a) => parkedAccess r port a
  | none => (s.heldEngs.find? (fun e => e.rid == r.rid && s.engExpired e)).bind (s.parkedEng r)

/-- FAULT_HOLD_EXPIRY (R244, R325, R342): held copies and collectives complete FAULTED, and the region parks for the fault, which stands in its
record even where it is resolved before the park; a region that has ended gives up what it holds. The endpoint raises its vector. -/
def execFaultHoldExpiry (rid : Nat) (s : State) : Result :=
  if !s.holdDue rid then .next s
  else
    let fault := (s.region? rid).bind s.parkFault
    let s := { s.failHeld rid with msix := s.msix ++ [s.dev.member] }
    match s.region? rid with
      | none => .next { s with pend := s.pend.filter (fun p => !p.eng.any (fun e => e.rid == rid && s.engExpired e)) }
      | some r =>
        if r.gone then .next (s.dropHeld rid)
        else .next (s.updRegion rid (fun r => { r with switch := some ⟨.hold, s.cycle, false, fault⟩ }))

/-! PARK (R342). -/

/-- Whether an instruction can issue only behind a held access: it adds to a port that holds one. -/
def behindHeld (c : Cell) (i : Instr) : Bool :=
  match accessPort i with
  | some p => (c.port p).accs.any (fun a => a.stage.isHeld)
  | none => false

/-- Whether an access waits on the wake of a scratchpad bank (R177, R342). -/
def State.accessWakes (s : State) (a : Access) : Bool :=
  a.stage == .ready && a.parts.any (fun p => p.got.isNone && (match p.pa with
    | some pa => decide (target pa = some .spad) && (match (s.mem.bank (spadBank pa)).st with
      | .waking _ _ => true
      | .off | .keep | .full => false)
    | none => false))

/-- Whether a cell may be saved: no division, nothing in flight, no wake, and no firing in progress or none of its instructions able to issue
but behind a held access (R143, R173, R342). -/
def State.parkable (s : State) (c : Cell) : Bool :=
  !s.cellInFlight c && (c.regs.gBanks ++ c.regs.vBanks).all (fun b => match b.st with
      | .waking _ _ => false
      | .off | .keep | .full => true) &&
    c.ports.all (fun p => p.accs.all (fun a => !s.accessWakes a)) && c.pes.all (fun p => p.division.isNone) &&
    c.ports.all (fun p => match p.nest with
      | some n => (match (s.block? n.site).bind (fun b => b.instr? n.site.index) with
        | some (.aggo _ c0) => !s.nestReady n.site c0 n
        | _ => true)
      | none => true) &&
    c.blocks.all (fun b => !b.firing || (b.slots.all (fun sl => !sl.waking && sl.made.isEmpty) &&
      (List.range b.words.length).all (fun j => match b.instr? j with
        | none => true
        | some i => behindHeld c i || !(if j % 4 = 0 then s.holds0 c b ⟨c.num, b.ctx, j⟩ i else s.holds c b j i))))

/-- Whether an operation of a systolic region lets its region be saved: it is held, or nothing is queued (R248). -/
def Systolic.parkable (y : Systolic) : Bool :=
  match y.queue.head? with
  | some o => o.eng.held.isSome
  | Option.none => true

/-- The pointer updates on their way to the outputs of cells that leave for their save slots take effect at once: a park waits for none
(R129, R342). -/
def State.settlePointers (s : State) (nums : List Nat) : State :=
  (s.chanMsgs.filter (fun m => nums.contains m.cell)).foldl State.deliver { s with chanMsgs := s.chanMsgs.filter (fun m => !nums.contains m.cell) }

/-- A region leaves its cells for its save slots. -/
def State.parkRegion (s : State) (r : Region) (byHold : Bool) : State :=
  let nums := (s.cellsOf r.rid).map (fun c => c.num)
  let cells := s.cellsOf r.rid
  let mine (p : Pend) : Bool := nums.contains p.site.cell
  let x : Parked := ⟨{ r with switch := none }, cells, s.pend.filter mine, s.cycle, byHold, false, s.fresh⟩
  let s : State := { s with
    cells := s.cells.filter (fun c => c.rid != r.rid)
    regions := s.regions.filter (fun y => y.rid != r.rid)
    pend := s.pend.filter (fun p => !mine p)
    parked := s.parked ++ [x]
    fresh := s.fresh + 1
    launches := s.launches.map (fun (l : Launch) => { l with judged := false }) }
  s.setDividers

/-- PARK (R342, R343): once every cell may be saved, the region's save slots are written and its cells freed; a save that fails evicts
the context. -/
def execPark (rid : Nat) (s : State) : Result :=
  match s.region? rid with
  | none => .next s
  | some r => match r.switch with
    | none => .next s
    | some sw =>
      let byHold := decide (sw.kind = .hold)
      if r.gone || !s.regionGoes rid || s.thermal || !(byHold || s.regionHolds rid) || r.sweeping || !r.updates.isEmpty || !r.sys.all Systolic.parkable ||
          !(s.cellsOf rid).all s.parkable then .next s
      else if !(s.ctxRegs r.ctx).saveBase.getLsbD 0 then .next (s.evictContext r.ctx 2)
      else
        let s := s.settlePointers ((s.cellsOf rid).map (fun c => c.num))
        match s.saveCells r.ctx s.fresh (s.cellsOf rid) with
        | (s, true) => .next ((match sw.fault with
            | some f => s.raise f
            | none => s).parkRegion r byHold)
        | (s, false) => .next (s.evictContext r.ctx 2)

/-! Resumption (R243, R255, R342). -/

/-- RESUME (R342): the parked regions of a context that FAULT_HOLD parked may resume. -/
def State.writeResume (s : State) (v : Word) : State :=
  { s with parked := s.parked.map (fun (p : Parked) => if p.byHold ∧ p.region.ctx = v.toNat % 4096 then { p with resumed := true } else p) }

/-- RESUME_WRITE (R342). -/
def execResumeWrite (v : Word) (s : State) : Result := .next (s.writeResume v)

/-- Whether a parked region may resume: its rectangle, its power and its clusters are available, and RESUME has named it where
FAULT_HOLD parked it. -/
def State.resumable (s : State) (p : Parked) : Bool :=
  let r := p.region
  (!p.byHold || p.resumed) && s.rectFree r.die r.x0 r.y0 r.w r.h none && (decide (r.power = 0) || decide (s.committed + r.power ≤ s.boot.budget)) &&
    (s.clustersFor r.die r.w r.h).isSome

/-- An operation that goes on after a restore: its weights are loaded again (R255). -/
def SysOp.restored (o : SysOp) : SysOp :=
  if (matOf o.desc o.instr).keepw && o.bands.isEmpty then o else { o with started := o.started && !o.bands.isEmpty, loaded := 0, wts := [] }

/-- Every held fault of a region translated again, as RETRY does, which does not restart its count (R243, R244, R342). -/
def State.retryRegion (s : State) (rid : Nat) : State :=
  let ports := (s.cellsOf rid).flatMap (fun c => c.ports.map (fun p => (c.num, p.num)))
  let s := ports.foldl (fun s (x : Nat × Nat) => s.retryAccesses x.1 x.2 (fun _ => true)) s
  s.mapEngs (fun e => e.rid == rid && e.held.isSome) (fun s e =>
    let (s, e, _) := s.retryEng e
    (s, e))

/-- REGION_RESUME (R342, R343): a parked region is restored to its rectangle; a saved part that is rejected evicts the context. -/
def execRegionResume (k : Nat) (s : State) : Result :=
  match s.parked[k]? with
  | none => .next s
  | some p =>
    if s.thermal || !s.resumable p then .next s
    else
      let r := p.region
      match s.restoreCells r.ctx p.salt p.cells with
      | (s, none) => .next (s.evictContext r.ctx 4)
      | (s, some cells) =>
        let clusters := (s.clustersFor r.die r.w r.h).getD []
        let r := { r with switch := none, clusters := clusters, ages := List.replicate (8 * clusters.length) 0,
                          sys := r.sys.map (fun (y : Systolic) => { y with queue := y.queue.map SysOp.restored }) }
        let s := { s with parked := s.parked.eraseIdx k, regions := s.regions ++ [r], pend := p.pends ++ s.pend,
                          cells := putCells s.cells cells }.wakeUp
        let s := match s.varOf r with
          | some v => s.placeVariant r r.lift r.var v
          | none => s
        .next ((s.setDividers.holdSlots r.rid).retryRegion r.rid)

/-! Machine checks (R334, R335). -/

/-- FLT_CAUSE_CLEAR (R329): what a write of FLT_CAUSE does. -/
def execFltCauseClear (cell : Nat) (s : State) : Result := .next (s.updCell cell (fun c => { c with flt := c.flt.clear s.cycle }))

/-- A machine check (R335): the record, then the region ends in this cycle, its systolic operations with it (R248). -/
def State.machineCheck (s : State) (e : SoftError) (c : Cell) : State :=
  let s := s.raise { cell := some c.num, ctx := c.context, rid := some c.rid, code := codeMcheck, sub := 0, held := false, parked := false,
                     origin := BitVec.ofNat 32 (c.num % 4096 + e.pe % 16 * 4096), addr := BitVec.ofNat 64 e.offset,
                     aux := BitVec.ofNat 64 (e.storage % 16 + e.bank % 256 * 256 + e.syndrome.toNat * 65536), fire := 0 }
  s.closeRegion c.rid .noMatrix

/-- A preload of a cell discarded from a context slot, if one lies there (R334). -/
def State.dropPreload (s : State) (cell slot : Nat) : State := { s with loaded := s.loaded.filter (fun x => !(x.cell == cell && x.slot == slot)) }

/-- PRELOAD_DROP of a cell outside every region counts (R334, R350). -/
def State.countDrop (s : State) (cell : Nat) : State :=
  { s with drops := putKey s.drops cell (((s.drops.find? (fun x => x.1 == cell)).map (fun x => x.2)).getD 0 + 1) }

/-- SOFT_ERROR (R334, R335). CORRECTED counts from the cycle in which the wave reaches the cell (R352). -/
def execSoftError (e : SoftError) (s : State) : Result :=
  match (s.cell? e.cell).filter (fun c => s.regionLives c.rid) with
  | none =>
    if e.correctable then .next s
    else .next ((if e.storage = 0 then s.dropPreload e.cell e.slot else s).countDrop e.cell)
  | some c =>
    if e.correctable then .next (if c.adoptAt ≤ s.cycle then s.count c.num 6 1 else s)
    else if e.storage = 0 ∧ (s.currentSlots c.num).contains e.slot = false then
      (if s.loaded.any (fun x => x.cell == c.num && x.slot == e.slot) then
        .next ((s.dropPreload c.num e.slot).count c.num 7 1)
      else .next s)
    else .next (s.machineCheck e c)

end Sys2Proof.Machine
end

