-- ==== Sys2Proof/Machine/System.lean ====
section
/-! DEFINITION. The system instructions: TRAP, HALT, FEND, system registers, poison tests, counters (R345 to R350, R358). -/

namespace Sys2Proof.Machine

/-! TRAP, HALT, FEND (R348). -/

/-- TRAP (R348). -/
def execTrap (code : BitVec 8) (s : State) : Result :=
  issueCtl (.trap code) s (fun s' o => s'.faultAt s.site codeTrap code.toNat false 0 ((tokVal o.l).zeroExtend 64))

/-- HALT (R348): from the next cycle no cell of the region begins a firing. A later HALT has no effect. -/
def execHalt (s : State) : Result :=
  issueCtl .halt s (fun s' _ => s'.updRegion (s.ridOf s.site.cell) (fun r => match r.haltAt with
    | some _ => r
    | none => { r with haltAt := some s.cycle }))

/-- FEND (R348): from the next cycle no instruction of the block issues, but those executing. -/
def execFend (s : State) : Result :=
  issueCtl .fend s (fun s' _ => s'.updBlock s.site (fun b => match b.fend with
    | some _ => b
    | none => { b with fend := some s.cycle }))

/-! System registers (R345 to R347). -/

/-- The context whose registers an access reaches: that of the cell, or in context 0 the one that CTXSEL names (R345). -/
def State.regCtx (s : State) (ctx : Nat) : Nat := if ctx = 0 then s.dev.ctxSel.toNat % 4096 else ctx

/-- A region's number in LIFT_NO (R346). -/
def State.liftNo (s : State) (rid : Nat) : Word :=
  match s.region? rid with
  | some r => BitVec.ofNat 32 (r.lift % 64 + r.var % 4 * 64)
  | none => 0

/-- The value of a system register read by a block of a cell; a 32-bit register stands in the low half (R346). -/
def State.sysReg (s : State) (c : Cell) (fireNo : Word) (n : Nat) : DWord :=
  let x := s.ctxRegs (s.regCtx c.context)
  let f := c.flt.read s.cycle
  match n with
  | 0x000 => BitVec.ofNat 64 c.context
  | 0x001 => (s.liftNo c.rid).zeroExtend 64
  | 0x002 => fireNo.zeroExtend 64
  | 0x003 => (c.flt.exc.read s.cycle).zeroExtend 64
  | 0x004 => c.bankMap.zeroExtend 64
  | 0x005 => BitVec.ofNat 64 s.cycle
  | 0x010 => f.cause.zeroExtend 64
  | 0x011 => f.origin.zeroExtend 64
  | 0x012 => f.addr
  | 0x013 => f.aux
  | 0x014 => f.fire.zeroExtend 64
  | 0x018 => (s.sysAt c.rid 0).rowprog.zeroExtend 64
  | 0x019 => (s.sysAt c.rid 1).rowprog.zeroExtend 64
  | 0x01A => (s.sysAt c.rid 2).rowprog.zeroExtend 64
  | 0x01B => (s.sysAt c.rid 3).rowprog.zeroExtend 64
  | 0x020 => x.fltCtl.zeroExtend 64
  | 0x021 => x.fltLog
  | 0x022 => x.fltCnt.zeroExtend 64
  | 0x023 => x.occMap
  | 0x024 => x.hangLimit.zeroExtend 64
  | 0x025 => x.seamBase
  | 0x030 => x.ptRoot
  | 0x031 => x.saveBase
  | 0x038 => s.dev.ctxSel.zeroExtend 64
  | 0x039 => s.dev.faultHold.zeroExtend 64
  | 0x03A => s.dev.switchGrace.zeroExtend 64
  | 0x03B => s.dev.tswAt
  | 0x03C => s.dev.tswCtl.zeroExtend 64
  | _ => 0

/-- The tokens of a register: one, or the low half and then the high half (R347). -/
def regToks (n : Nat) (v : DWord) (m : Mark) : List Tok := if sysReg64 n then [⟨lowWord v, m⟩, ⟨highWord v, m⟩] else [⟨lowWord v, m⟩]

/-- SRD (R347): a register read in its issue cycle. -/
def execSrd (n : BitVec 12) (c0 : Consumer) (s : State) : Result :=
  issueCtl (.srd n c0) s (fun s' o => match s.cell? s.site.cell with
    | none => s'
    | some c => (regToks n.toNat (s.sysReg c (s.fireNo s.site) n.toNat) o.mark).foldl (fun s' tok => s'.emit s.site c0 tok) s')

/-- The registers that no context may write (R346). -/
def sysRegRO (n : Nat) : Bool :=
  n == 0 || n == 1 || n == 2 || n == 4 || n == 5 || n == 0x11 || n == 0x12 || n == 0x13 || n == 0x14 || n == 0x18 || n == 0x19 || n == 0x1A || n == 0x1B ||
    n == 0x22

/-- The registers that only context 0 may write (R346). -/
def sysRegPriv (n : Nat) : Bool :=
  n == 0x30 || n == 0x31 || n == 0x38 || n == 0x39 || n == 0x3A || n == 0x3B || n == 0x3C || n == 0x3D

/-- FLT_CTL as a write leaves it: the bits that R327 holds writable, with those that read 1 (R327, R331). -/
def fltCtlOf (v : Word) : Word := (v &&& 0x000397EE) ||| 0x00006800

/-- The effect of a write of a register; none where it raises PROT (R317, R338, R346). Writes ignore reserved bits. -/
def State.writeReg (s : State) (cell : Nat) (ctx n : Nat) (v : DWord) : Option State :=
  let w := lowWord v
  match n with
  | 0x003 => some (s.updCell cell (fun c => { c with flt := { c.flt with exc := c.flt.exc.write s.cycle w } }))
  | 0x010 => some (s.updCell cell (fun c => { c with flt := c.flt.clear s.cycle }))
  | 0x020 => some (s.updCtx ctx (fun x => { x with fltCtl := fltCtlOf w }))
  | 0x021 => some (s.updCtx ctx (fun x => { x with fltLog := v &&& ~~~0xFC0 }))
  | 0x023 => some (s.updCtx ctx (fun x => { x with occMap := v &&& ~~~0xFFE }))
  | 0x024 => some (s.updCtx ctx (fun x => { x with hangLimit := w }))
  | 0x025 => if s.seams.any (fun m => m.ctx == ctx) then none else some (s.updCtx ctx (fun x => { x with seamBase := v &&& ~~~0xFFE }))
  | 0x030 => some (s.updCtx ctx (fun x => { x with ptRoot := v &&& 0x000FFFFFFFE00001 }))
  | 0x031 => some (s.updCtx ctx (fun x => { x with saveBase := v &&& ~~~0x1FFFE }))
  | 0x038 => some { s with dev := { s.dev with ctxSel := w &&& 0xFFF } }
  | 0x039 => some { s with dev := { s.dev with faultHold := w } }
  | 0x03A => some { s with dev := { s.dev with switchGrace := w } }
  | 0x03B => some { s with dev := { s.dev with tswAt := v } }
  | 0x03C => s.writeTswCtl w
  | 0x03D => some (s.writeResume w)
  | _ => none

/-- SWR (R345, R347): the write, then a token of 0; a refused write emits nothing and writes nothing. -/
def execSwr (n : BitVec 12) (c0 : Consumer) (s : State) : Result :=
  let i : Instr := .swr n c0
  let hi := s.nthTok s.site .l 1
  issueCtl i s (fun s' o =>
    let ctx := s.tagOf s.site.cell
    if sysRegRO n.toNat then s'.opcodeFault s.site codeProt i
    else if ctx ≠ 0 ∧ sysRegPriv n.toNat = true then s'.opcodeFault s.site codePriv i
    else
      let v := if sysReg64 n.toNat then joinWords (tokVal o.l) (tokVal hi) else (tokVal o.l).zeroExtend 64
      let mark := if sysReg64 n.toNat then (tokMark o.l).or (tokMark hi) else tokMark o.l
      match s'.writeReg s.site.cell (s.regCtx ctx) n.toNat v with
      | some s'' => s''.emit s.site c0 ⟨0, mark⟩
      | none => s'.opcodeFault s.site codeProt i)

/-! Poison and flags (R349). -/

/-- PTST (R349). -/
def execPtst (c1 c0 : Consumer) (s : State) : Result :=
  issueCtl (.ptst c1 c0) s (fun s' o =>
    (s'.emit s.site c0 ⟨boolWord (tokMark o.l).isSome, none⟩).emit s.site c1 ⟨(tokMark o.l).getD 0, none⟩)

/-- PCLR (R349). -/
def execPclr (c1 c0 : Consumer) (s : State) : Result :=
  issueCtl (.pclr c1 c0) s (fun s' o => s'.emitAll s.site [c0, c1] ⟨tokVal o.l, none⟩)

/-- EXCRD (R349): EXC before the clear. -/
def execExcrd (c1 c0 : Consumer) (s : State) : Result :=
  issueCtl (.excrd c1 c0) s (fun s' o => match s.cell? s.site.cell with
    | none => s'
    | some c =>
      (s'.updCell s.site.cell (fun c => { c with flt := { c.flt with exc := c.flt.exc.clear s.cycle (tokVal o.l) } })).emitAll s.site [c0, c1]
        ⟨c.flt.exc.read s.cycle &&& 31, o.mark⟩)

/-! Counters (R350, R358). -/

/-- The 64-bit accounting counter of a pair: energy in nJ, then CFIRINGS, CMDS, EGRESSED; 0 past the last (R358). -/
def State.accountPair (s : State) (tag k : Nat) : DWord :=
  let x := s.ctxRegs tag
  if k < 5 then BitVec.ofNat 64 (s.mem.charged tag k / 1000000)
  else if k = 5 then x.cfirings
  else if k = 6 then x.cmds
  else if k = 7 then x.egressed
  else 0

/-- The accounting counter that PERF reads, none for a number below 0x40 or of no pair (R358): the system account only in context 0. -/
def State.account (s : State) (ctx n : Nat) : Option DWord :=
  if 0x40 ≤ n ∧ n < 0x50 then some (s.accountPair (s.regCtx ctx) ((n - 0x40) / 2))
  else if 0x60 ≤ n ∧ n < 0x6A ∧ ctx = 0 then some (s.accountPair 4096 ((n - 0x60) / 2))
  else none

/-- The numbers of the counters that a cell holds (R350); a number with no counter reads 0. -/
def cellCounter (n : Nat) : Bool := decide (n < 8) || (decide (0x20 ≤ n) && decide (n < 0x24))

/-- PERF (R350, R358): an even accounting number latches the high half; the next number emits the latch. -/
def execPerf (n : BitVec 8) (c0 : Consumer) (s : State) : Result :=
  issueCtl (.perf n c0) s (fun s' o => match s'.cell? s.site.cell with
    | none => s'
    | some c => match s'.account c.context n.toNat with
      | none => s'.emit s.site c0 ⟨if cellCounter n.toNat then c.counter n.toNat else 0, o.mark⟩
      | some v =>
        if n.toNat % 2 = 0 then
          (s'.updCell s.site.cell (fun c => { c with latch := [highWord v] })).emit s.site c0 ⟨lowWord v, o.mark⟩
        else s'.emit s.site c0 ⟨c.latch.headD 0, o.mark⟩)

/-- CYC (R350). -/
def execCyc (c1 c0 : Consumer) (s : State) : Result :=
  issueCtl (.cyc c1 c0) s (fun s' o =>
    (s'.emit s.site c0 ⟨lowWord (BitVec.ofNat 64 s.cycle), o.mark⟩).emit s.site c1 ⟨highWord (BitVec.ofNat 64 s.cycle), o.mark⟩)

end Sys2Proof.Machine
end

