-- ==== Sys2Proof/Machine/Power.lean ====
section
/-! DEFINITION. Power, start-up, the sideband and debug reads (R154, R360 to R373). -/

namespace Sys2Proof.Machine

/-! Benches (R154, R360). -/

def State.updBench (s : State) (n : Nat) (f : Bench → Bench) : State :=
  { s with benches := s.benches.map (fun b => if b.num = n then f b else b) }

/-- The cells of a bench that live regions hold. -/
def State.benchCells (s : State) (n : Nat) : List Cell := s.cells.filter (fun c => decide (c.num < 4096) && benchOf c.num == n)

/-- BENCH_CLOCK_STOP (R154): a bench that live regions occupy and that has been quiet for 32 bench cycles. -/
def execBenchClockStop (n : Nat) (s : State) : Result :=
  if (s.benchCells n).isEmpty then .next s
  else .next (s.updBench n (fun b => if 32 ≤ b.quiet then { b with stopped := true } else b))

/-- A sticky bit of LIMITS, in [7:4] (R369). -/
def State.stick (s : State) (bit : Nat) : State := { s with boot := { s.boot with limits := s.boot.limits ||| (1 <<< (bit + 4)) } }

/-- A step up, but not past divider 8: the bench counts no step that its divider cannot take (R360). -/
def stepUp (d steps : Nat) : Nat := if dividerUp d steps < 8 then steps + 1 else steps

/-- The divider that R105 gives a bench; 1 for one that no region occupies, whose steps count as those of every bench (R360). -/
def State.askedDivider (s : State) (n : Nat) : Nat :=
  match (s.live.filter (fun r => r.die == n / 16)).filterMap (fun r => s.declared r (n % 16)) with
  | [] => 1
  | l => l.foldl min 8

/-- DROOP_TRIP (R360). -/
def execDroopTrip (n : Nat) (s : State) : Result :=
  .next (((s.updBench n (fun b => { b with droop := stepUp (s.askedDivider n) b.droop, tripAt := s.cycle })).stick 0).setDividers)

/-- DROOP_RELEASE (R360): one step back after 65,536 cycles without a trip, and after each further 65,536. -/
def execDroopRelease (n : Nat) (s : State) : Result :=
  .next ((s.updBench n (fun b => if 0 < b.droop && decide (b.tripAt + 65536 ≤ s.cycle) then { b with droop := b.droop - 1, tripAt := s.cycle } else b)).setDividers)

/-- CURRENT_CEILING_TRIP (R360): every bench moves one step up. -/
def execCurrentCeilingTrip (s : State) : Result :=
  .next ((({ s with benches := s.benches.map (fun b => { b with current := stepUp (s.askedDivider b.num) b.current }) } : State).stick 1).setDividers)

/-- CURRENT_CEILING_RELEASE (R360): one step back. -/
def execCurrentCeilingRelease (s : State) : Result :=
  .next (({ s with benches := s.benches.map (fun b => { b with current := b.current - 1 }) } : State).setDividers)

/-- THERMAL_TRIP (R360, R361). -/
def execThermalTrip (s : State) : Result := .next (({ s with thermal := true } : State).stick 2)

/-- THERMAL_RELEASE (R360, R361): the step is the report of the junction sensors that all of them read 95 °C or less. -/
def execThermalRelease (s : State) : Result := .next { s with thermal := false }

/-- LIMITS (R369): the limits that act now in [3:0], the sticky bits in [7:4]. -/
def State.limitsWord (s : State) : Word :=
  let now := (s.benches.any (fun b => decide (0 < b.droop))).toNat + 2 * (s.benches.any (fun b => decide (0 < b.current))).toNat +
    4 * s.thermal.toNat + 8 * s.boot.safeTable.toNat
  s.boot.limits ||| BitVec.ofNat 32 now

/-! Power states and BOOT_STATUS (R368, R371). -/

/-- The benches that live regions occupy. -/
def State.occupied (s : State) : List Bench := s.benches.filter (fun b => !(s.benchCells b.num).isEmpty)

/-- PSTATE (R368, R371). -/
def State.pstate (s : State) : Nat :=
  if s.boot.phase = .off then 4
  else if s.boot.sleep then 3
  else if s.live.isEmpty then 2
  else if s.occupied.any (fun b => !b.stopped) then 0
  else 1

/-- BOOT_STATUS (R368). -/
def State.bootStatus (s : State) : Word :=
  let b := s.boot
  BitVec.ofNat 32 (b.reason % 256 + b.attempts % 4 * 2 ^ 8 + b.minimal.toNat * 2 ^ 10 + (b.phase == .recovery).toNat * 2 ^ 11 + b.secState % 4 * 2 ^ 12 +
    b.debug % 4 * 2 ^ 14 + s.pstate * 2 ^ 16 + b.svn % 256 * 2 ^ 24)

/-- What a sideband register holds (R369). -/
def State.sidebandRegister (s : State) (reg index : Nat) : Word :=
  if reg = 0 then s.bootStatus
  else if reg = 1 then BitVec.ofNat 32 (s.boot.tempMax % 65536)
  else if reg = 2 then BitVec.ofNat 32 (s.boot.pwrNow % 65536)
  else if reg = 3 then BitVec.ofNat 32 s.boot.modCap
  else if reg = 4 then BitVec.ofNat 32 (s.boot.budget % 65536)
  else if reg = 5 then s.limitsWord
  else if reg = 6 then s.boot.dbgReq
  else if 0x10 ≤ reg ∧ reg < 0x30 ∧ index < 8 then s.boot.mailbox.getD ((reg - 0x10) * 8 + index) 0
  else 0

/-- What a sideband read answers: the target serves in every power state but off (R369). -/
def State.sidebandRead (s : State) (reg index : Nat) : Option Word :=
  if s.boot.phase = .off then none else some (s.sidebandRegister reg index)

/-! The firmware image (R363, R364). -/

def imageMagic : Nat := 0x46573950

/-- The SVN of an image (R363). -/
def imageSvn (img : List Byte) : Nat := leNat ((img.drop 4).take 4)

/-- What the ROM finds of an image (R364, R368): none where it is accepted, else REASON: no image, signature or key, rollback. A
counter at 64 admits SVN 64 alone. -/
def imageReason (rollback : Nat) (img : List Byte) : Option Nat :=
  let len := leNat ((img.drop 8).take 4)
  let body := (img.drop 0x1500).take len
  let key := (img.drop 0x50).take 1952
  if leNat (img.take 4) ≠ imageMagic ∨ len % 64 ≠ 0 ∨ 2 ^ 24 < len ∨ img.length < 0x1500 + len then some 3
  else if leNat ((img.drop 0xC).take 4) ≠ 0 ∨ leNat ((img.drop 0x14DD).take 35) ≠ 0 ∨ imageSvn img = 0 ∨ 64 < imageSvn img then some 3
  else if Config.shake256 key ≠ Config.keyHash ∨ !Config.mlDsaVerify key (img.take 0x50) ((img.drop 0x7F0).take 3309) ∨
      Config.shake256 body ≠ (img.drop 0x10).take 64 then some 1
  else if imageSvn img < rollback then some 2
  else none

/-- A measurement register extended: MEAS := SHAKE256(MEAS ‖ data) (R370). -/
def Boot.extend (b : Boot) (n : Nat) (data : List Byte) : Boot := { b with meas := b.meas.set n (Config.shake256 (b.meas.getD n [] ++ data)) }

/-- The header and DIGEST of an image, which MEAS1 covers (R370). -/
def measured (img : List Byte) : List Byte := img.take 0x50

/-! Reset and starts (R366, R367). -/

/-- The parts of memory that a reset leaves: scratchpad contents are dead (R175; log 2). -/
def MemSys.afterReset (m : MemSys) (dram : Bool) : MemSys :=
  let keep (a : Nat) : Bool := match target a with
    | some .host => true
    | some .dram => dram
    | some .spad | none => false
  { MemSys.reset with
    bytes := m.bytes.filter (fun c => keep c.1), marks := m.marks.filter (fun l => keep (l * 64)), bad := m.bad.filter (fun l => keep (l * 64)),
    epochs := m.epochs }

/-- The device after a reset, its persistent parts kept: the resident image, the rollback counter, the identity key, the security state,
ATTEMPTS and minimal mode, DRAM unless the supply was lost, and what it has sent (R366 to R368, R371). The limits of R360 hold across a reset,
and end with the supply: a reset releases no trip. -/
def State.deviceReset (s : State) (dram : Bool) : State :=
  let b := s.boot
  { State.reset with
    thermal := s.thermal && dram
    benches := s.benches.map (fun (x : Bench) => { num := x.num, droop := if dram then x.droop else 0, tripAt := 0, current := if dram then x.current else 0,
                                                   stopped := true, quiet := 0 })
    fresh := s.fresh, mem := s.mem.afterReset dram, msix := s.msix, outbox := s.outbox, dev := { DevRegs.reset with member := s.dev.member },
    boot := { Boot.reset with attempts := b.attempts, minimal := b.minimal, secState := b.secState, image := b.image, rollback := b.rollback, idKey := b.idKey } }

/-- A failed start: ATTEMPTS advances, at most to 3 (R366, R367). -/
def Boot.startFails (b : Boot) (reason : Nat) : Boot := { b with phase := .failed, reason := reason, attempts := min 3 (b.attempts + 1), svn := 0 }

/-- The boot of the ROM after a reset (R366 to R368, R370): fuses, image, then training. A rejected image enters recovery; after three
failed starts in a row the next one enters minimal mode in place of a normal start. -/
def Boot.start (b : Boot) (d2d dram fuse : Bool) : Boot :=
  let enter := decide (b.attempts = 3) && !b.minimal
  let b := { b with minimal := b.minimal || enter }
  let b := (b.extend 0 Config.romBytes).extend 2 (Config.fuseBytes b.rollback ++ [BitVec.ofNat 8 b.secState])
  if !fuse then b.startFails 9
  else match imageReason b.rollback b.image with
    | some r => { b with phase := .recovery, reason := r }
    | none =>
      let b := { b with svn := imageSvn b.image }.extend 1 (measured b.image)
      if enter then { b with phase := .minimal }
      else if !d2d then b.startFails 4
      else if !dram then b.startFails 5
      else { b with phase := .starting }

/-- ATTEMPTS after a reset: a recovery that is cut short counts as a failed start (R366). -/
def Boot.attemptsAfter (b : Boot) : Nat := if b.phase = .recovery then min 3 (b.attempts + 1) else b.attempts

/-- DEVICE_START (R175, R366, R367): a recovery that the reset cuts short counts as a failed start. -/
def execDeviceStart (d2d dram fuse : Bool) (s : State) : Result :=
  let s' := s.deviceReset (s.boot.phase != .off)
  .next { s' with boot := ({ s'.boot with attempts := s.boot.attemptsAfter }.start d2d dram fuse) }

/-- FIRMWARE_READY (R362, R366, R367): the end of a start, after which the firmware makes its launches (R81), or of a restart of the controller,
which leaves the safe table. -/
def execFirmwareReady (s : State) : Result :=
  match s.boot.phase with
  | .starting => .next (({ s with boot := { s.boot with phase := .ready, attempts := 0, minimal := false } } : State).raiseFirmware Config.firmwareLaunches)
  | .ready => if s.boot.updating then .next s else .next { s with boot := { s.boot with safeTable := false } }
  | .off | .held | .recovery | .minimal | .failed => .next s

/-- The failure of a start in progress. -/
def State.failStart (s : State) (reason : Nat) : Result :=
  if s.boot.phase = .starting then .next { s with boot := s.boot.startFails reason } else .next s

/-- READY_TIMEOUT (R366). -/
def execReadyTimeout (s : State) : Result := s.failStart 8

/-- FIRMWARE_FAILURE_REPORT (R366). -/
def execFirmwareFailureReport (s : State) : Result := s.failStart 6

/-- RECOVERY_TIMEOUT (R366): the start counts as failed; REASON stays. -/
def execRecoveryTimeout (s : State) : Result :=
  if s.boot.phase = .recovery then
    .next { s with boot := { (s.boot.startFails s.boot.reason) with phase := if s.boot.minimal then .minimal else .failed } }
  else .next s

/-- The bytes of host memory at a host address (R214). -/
def MemSys.hostBytes (m : MemSys) (a n : Nat) : List Byte := (List.range n).map (fun i => Memory.get m.bytes (0xC000000000000 + (a + i) % 2 ^ 48))

/-- RCV_GO (R366): the image that RCV_ADDR and RCV_LEN name is fetched and verified; one that passes is written as resident and the
device resets. -/
def execRcvGo (s : State) : Result :=
  if s.recovering then
    let n := s.boot.rcvLen.toNat
    let img := s.mem.hostBytes s.boot.rcvAddr.toNat n
    let s : State := { s with mem := s.mem.charge 4096 4 (5000 * n) }
    match imageReason s.boot.rollback img with
    | none => .next ({ s with boot := { s.boot with image := img } }.deviceReset true)
    | some r => .next { s with boot := { s.boot with reason := r } }
  else .next s

/-! The power controller (R362, R365, R369). -/

/-- The watts of the safe table (R362). -/
def safeWatts : Nat := 350

/-- The controller runs from the safe table (R362). -/
def State.toSafeTable (s : State) : State := (({ s with boot := { s.boot with safeTable := true } } : State).stick 3).setBudget safeWatts

/-- WATCHDOG_EXPIRY (R362, R365, R366): a start fails; else the controller restarts, on the safe table until it is back, and an update is
abandoned. -/
def execWatchdogExpiry (s : State) : Result :=
  match s.boot.phase with
  | .starting => .next { s with boot := s.boot.startFails 7 }
  | .ready => .next (({ s with boot := { s.boot with updating := false, staged := [] } } : State).toSafeTable)
  | .off | .held | .recovery | .minimal | .failed => .next s

/-- BUDGET_CHANGE (R362): the controller sets a budget within MOD_CAP; not while it runs from the safe table. -/
def execBudgetChange (watts : Nat) (s : State) : Result :=
  if s.boot.phase = .ready ∧ s.boot.safeTable = false then .next (s.setBudget (min watts s.boot.modCap)) else .next s

/-- The controller brings a budget above MOD_CAP down to it (R362). -/
def State.capBudget (s : State) : State :=
  if s.boot.phase = .ready ∧ s.boot.safeTable = false ∧ s.boot.modCap < s.boot.budget then s.setBudget s.boot.modCap else s

/-- The module cap written (R369): 400 to 2,800 W; other values are ignored. The controller acts on it as the next cycle begins (R362). -/
def State.setModCap (s : State) (v : BitVec 16) : State :=
  if s.boot.phase ≠ .off ∧ 400 ≤ v.toNat ∧ v.toNat ≤ 2800 then { s with boot := { s.boot with modCap := v.toNat } } else s

/-- MOD_CAP (R369). -/
def execModCap (v : BitVec 16) (s : State) : Result := .next (s.setModCap v)

/-- FIRMWARE_UPDATE (R365): the staging of an image and the switch to the safe table; then, as the next such step, the verdict on the
staged image, its commit where it passes, and the restart. -/
def execFirmwareUpdate (img : List Byte) (s : State) : Result :=
  if s.boot.phase ≠ .ready then .next s
  else if s.boot.updating then
    let b := { s.boot with updating := false, staged := [], safeTable := false }
    match imageReason s.boot.rollback s.boot.staged with
    | none =>
      let svn := imageSvn s.boot.staged
      .next { s with boot := { b with image := s.boot.staged, rollback := svn, svn := svn }.extend 1 (measured s.boot.staged) }
    | some _ => .next { s with boot := b }
  else .next ({ s with boot := { s.boot with updating := true, staged := img } } : State).toSafeTable

/-! The sideband (R369 to R371). -/

/-- The debug level of a request in a security state (R371). -/
def debugLevel (secState req : Nat) : Nat := if secState = 0 then min 1 req else min 2 req

/-- The level set, MEAS3 extended by a change (R370, R371). -/
def Boot.setDebug (b : Boot) (level : Nat) : Boot := if level = b.debug then b else { b with debug := level }.extend 3 [BitVec.ofNat 8 level]

/-- The debug level requested (R369, R371): 0b11 is ignored. -/
def State.setDbgReq (s : State) (v : Word) : State :=
  if s.boot.phase = .off ∨ v.toNat % 4 = 3 then s
  else { s with boot := ({ s.boot with dbgReq := v &&& 3 } : Boot).setDebug (debugLevel s.boot.secState (v.toNat % 4)) }

/-- DBG_REQ (R369, R371). -/
def execDbgReq (v : Word) (s : State) : Result := .next (s.setDbgReq v)

/-- SIDEBAND_REGISTER_WRITE (R369): LIMITS, whose sticky bits a 1 clears, MAILBOX, and the two writable registers that have a form of
their own, with the same effect; every other register is read-only. -/
def execSidebandRegisterWrite (reg index : Nat) (v : Word) (s : State) : Result :=
  if s.boot.phase = .off then .next s
  else if reg = 3 then .next (s.setModCap (v.setWidth 16))
  else if reg = 6 then .next (s.setDbgReq v)
  else if reg = 5 then .next { s with boot := { s.boot with limits := s.boot.limits &&& ~~~(v &&& 0xF0) } }
  else if 0x10 ≤ reg ∧ reg < 0x30 ∧ index < 8 then .next { s with boot := { s.boot with mailbox := s.boot.mailbox.set ((reg - 0x10) * 8 + index) v } }
  else .next s

/-- The answers' statuses: served, DEAD_REG, refused, SLEEPING, NOKEY (R370, R372, R373; log 41). -/
def stServed : Nat := 0
def stDeadReg : Nat := 1
def stRefused : Nat := 2
def stSleeping : Nat := 3
def stNoKey : Nat := 4

/-- Whether eight words of the mailbox that follow one another are a nonce; where in it a quote finds its nonce is open (R370; log 40). -/
def Boot.mailboxHolds (b : Boot) (nonce : List Byte) : Bool :=
  (List.range b.mailbox.length).any (fun k => decide (((b.mailbox.drop k).take 8).flatMap (fun w => leBytes 4 w.toNat) = nonce))

/-- ATTESTATION_QUOTE (R370): MEAS0 to MEAS3, BOOT_STATUS, and a signature over their digest with the nonce, which the quote takes from the
mailbox. -/
def execAttestationQuote (nonce : List Byte) (s : State) : Result :=
  if s.boot.phase = .off ∨ nonce.length ≠ 32 ∨ s.boot.mailboxHolds nonce = false then .next s
  else if !s.boot.idKey then .next { s with outbox := s.outbox ++ [⟨6, [], stNoKey⟩] }
  else
    let q := s.boot.meas.flatten ++ leBytes 4 s.bootStatus.toNat
    .next { s with outbox := s.outbox ++ [⟨6, q ++ Config.mlDsaSign (Config.shake256 (q ++ nonce)), stServed⟩] }

/-- RETURN_COMMAND (R371): its last 3,309 bytes sign what stands before them. -/
def execReturnCommand (cmd : List Byte) (s : State) : Result :=
  let n := cmd.length - 3309
  if s.boot.phase = .off ∨ s.boot.secState = 2 ∨ !Config.mlDsaVerify Config.returnKey (cmd.take n) (cmd.drop n) then .next s
  else .next { s with boot := ({ s.boot with secState := 2, idKey := false } : Boot).setDebug (debugLevel 2 (s.boot.dbgReq.toNat % 4)) }

/-- SIDEBAND_WAKE (R371): package sleep ends. -/
def execSidebandWake (s : State) : Result := if s.boot.phase = .off then .next s else .next s.wakeUp

/-- I3C_ADDRESS_TIMEOUT (R369). -/
def execI3cAddressTimeout (s : State) : Result := if s.boot.phase = .off then .next s else .next { s with boot := { s.boot with smbus := true } }

/-- Dirty lines whose contents package sleep loses: what DRAM then holds is free (R371; log 5). -/
def MemSys.loseDirty (m : MemSys) (salt : Nat) : MemSys :=
  let lost (l : Nat) : List Byte := (List.range 64).map (fun i => Config.lostByte salt (l * 64 + i))
  { m with bytes := (m.llc.filter (fun x => x.dirty)).foldl (fun bs x => Memory.setAll bs (x.line * 64) (lost x.line)) m.bytes, llc := [] }

/-- PACKAGE_SLEEP_ENTRY (R371): from idle; scratchpad and cache contents are lost. -/
def execPackageSleepEntry (s : State) : Result :=
  if s.boot.phase = .off ∨ s.boot.sleep = true ∨ !s.regions.isEmpty then .next s
  else
    let m := s.mem.loseDirty s.fresh
    .next { s with fresh := s.fresh + 1, boot := { s.boot with sleep := true },
                   mem := { m with banks := [], segs := [], vers := [], verPages := [], tlb := [] } }

/-- SUPPLY_LOSS (R366, R371): the device is off; what is not fused or resident is lost. A recovery that it cuts short counts as a failed start. -/
def execSupplyLoss (s : State) : Result :=
  let attempts := s.boot.attemptsAfter
  let s := s.deviceReset false
  .next { s with boot := { s.boot with phase := .off, attempts := attempts } }

/-! Debug reads (R371 to R373). -/

/-- The level that a debug command needs. -/
def DebugReq.level (q : DebugReq) : Nat :=
  match q with
  | .sysReg _ _ | .counter _ _ | .faultLog _ _ => 1
  | .scalar _ _ | .vector _ _ _ | .predicate _ _ | .accumulator _ _ _ _ | .channelStore _ _ _ _ | .physical _ => 2

/-- Whether a command touches an M-die, DRAM or the fabric (R372): registers held per context or by the device, and accounting
counters, stand on the C-die. -/
def DebugReq.beyondC (q : DebugReq) : Bool :=
  match q with
  | .sysReg _ n => decide (n.toNat < 0x20) && n.toNat != 5
  | .counter _ n => decide (n.toNat < 0x40)
  | .faultLog _ _ | .scalar _ _ | .vector _ _ _ | .predicate _ _ | .accumulator _ _ _ _ | .channelStore _ _ _ _ | .physical _ => true

/-- Whether minimal mode fences what a command touches: the fabric, and every die and stack but the C-die, M2 and stack 4 (R367). -/
def State.fenced (s : State) (q : DebugReq) : Bool :=
  decide (s.boot.phase = .minimal) && (match q with
    | .physical pa => !(decide (target pa = some .spad) && decide (pa / 2 ^ 27 % 4 = 2)) && !(decide (target pa = some .dram) && decide (lineStack (pa / 64) = 4))
    | _ => DebugReq.beyondC q)

/-- A cell that no region holds, for reads of what the device holds. -/
def Cell.absent (n : Nat) : Cell :=
  { num := n, rid := 0, context := 0, rx := 0, ry := 0, parity := false, adoptAt := 0, blocks := [], cur := none, last := none, switchUntil := 0,
    arrivedAt := 0, divider := 1, held0 := [], routes := [], regs := .fresh, pes := [], flt := .fresh, counters := [], latch := [], ports := [], copies := [] }

/-- A byte of memory as it stands; true where its segment is dead (R177, R373). -/
def MemSys.peek (m : MemSys) (pa : Nat) : Byte × Bool :=
  match target pa with
  | some .spad => (m.spadByte pa, !(m.seg (pa / 4096)).live || !(m.bank (spadBank pa)).retains)
  | some .dram | some .host | none => (Memory.get m.bytes pa, false)

/-- What a debug read answers: bytes and status. It changes nothing (R373). -/
def State.debugAnswer (s : State) (q : DebugReq) : List Byte × Nat :=
  let dead : List Byte × Nat := ([], stDeadReg)
  match q with
  | .sysReg n r => (leBytes 8 (s.sysReg ((s.cell? n).getD (.absent n)) 0 r.toNat).toNat, stServed)
  | .counter n k =>
    let c := (s.cell? n).getD (.absent n)
    (match s.account c.context k.toNat with
    | some v => (leBytes 8 v.toNat, stServed)
    | none => (leBytes 4 (if cellCounter k.toNat then (c.counter k.toNat).toNat else 0), stServed))
  | .faultLog ctx k =>
    let x := s.ctxRegs ctx
    (match s.mem.translateSeq s.cycle ctx x.ptRoot (x.fltLog.toNat / 4096 * 4096 + 32 * (k % logLines x.fltLog)) .load with
    | (_, .ok pa _) => ((List.range 32).map (fun i => (s.mem.peek (pa + i)).1), stServed)
    | (_, .fault _) | (_, .walk) => ([], stRefused))
  | .scalar n g => (match s.cell? n with
    | none => dead
    | some c =>
      let x := (c.regs.gReg g.toNat).view s.cycle
      if deadRead (c.regs.gBank (g.toNat / 16)) x.valid then dead else (leBytes 4 x.val.toNat, stServed))
  | .vector n v lane => (match s.cell? n with
    | none => dead
    | some c =>
      let x := (c.regs.vReg v.toNat).view s.cycle
      if deadRead (c.regs.vBank (v.toNat / 4)) x.valid then dead else (leBytes 4 (x.lanes.getD lane.toNat 0).toNat, stServed))
  | .predicate n k => (match s.cell? n with
    | none => dead
    | some c => (leBytes 4 ((c.regs.kReg k.toNat).view s.cycle).val.toNat, stServed))
  | .accumulator n pe a lane => (match s.cell? n with
    | none => dead
    | some c =>
      let x := (c.pe pe.toNat).accReg a.toNat
      (leBytes 8 (entryOf x.int (laneAt x.lanes lane.toNat).val), stServed))
  | .channelStore n ctx ch k => (match (s.block? ⟨n, ctx, 0⟩).bind (fun b => b.ins[ch]?) with
    | none => dead
    | some c => (leBytes 4 ((c.buf.getD k ⟨0, none⟩).v).toNat, stServed))
  | .physical pa =>
    let x := s.mem.peek pa
    ([x.1], if x.2 then stDeadReg else stServed)

/-- The cell whose bench takes its clock for a command (R373). -/
def DebugReq.cell (q : DebugReq) : Option Nat :=
  match q with
  | .sysReg n _ | .counter n _ | .scalar n _ | .vector n _ _ | .predicate n _ | .accumulator n _ _ _ | .channelStore n _ _ _ => some n
  | .faultLog _ _ | .physical _ => none

/-- The debug reads that have come in answered from the state with which a cycle starts, before anything acts in it; a gated bench takes its
clock for them and gates again after it (R154, R373). In a thermal stop no clock runs, and the held state answers. -/
def State.answerDebug (s : State) : State :=
  let t : State := { s with outbox := s.outbox ++ s.debugQ.map (fun q => ⟨7, (s.debugAnswer q).1, (s.debugAnswer q).2⟩), debugQ := [] }
  if s.thermal then t else (s.debugQ.filterMap Machine.DebugReq.cell).foldl (fun t n => if (t.cell? n).isSome then t.restartBench n else t) t

/-- DEBUG_READ (R371 to R373): a command that is served is answered as the next cycle starts. -/
def execDebugRead (q : DebugReq) (s : State) : Result :=
  if s.boot.phase = .off then .next s
  else if decide (s.boot.debug < DebugReq.level q) || s.fenced q then .next { s with outbox := s.outbox ++ [⟨7, [], stRefused⟩] }
  else if s.boot.sleep && s.boot.secState == 0 && DebugReq.beyondC q then .next { s with outbox := s.outbox ++ [⟨7, [], stSleeping⟩] }
  else
    let s : State := if s.boot.sleep && s.boot.secState != 0 && DebugReq.beyondC q then s.wakeUp else s
    .next { s with debugQ := s.debugQ ++ [q] }

end Sys2Proof.Machine
end

