-- ==== Sys2Proof/Machine/Reply.lean ====
section
/-! DEFINITION. How accesses are performed and answered (R222 to R227, R286, R306 to R309), and the further attempts of instructions
that wait (log 1). -/

namespace Sys2Proof.Machine

/-! Performing. -/

/-- One turn of an access that reads ranges for its instruction: the next part, and after the last what the instruction does with
them. -/
def State.performRead (s : State) (a : Access) (k : State → Access → Performed) : Performed :=
  match s.readNext a with
  | (s, a, true) => k s a
  | (s, a, false) => .later s a

/-- One turn of an access at memory. An ATOM acts at the atomic unit of its word alone (R308). AGGAT, LDA and the reads of descriptors and
fibres, which the table of R176 does not list, act on segment marks as loads without a hint do (DESIGN CHOICE, log 48). -/
def State.performAccess (s : State) (a : Access) : Performed :=
  match a.instr with
  | .lds _ h f _ => s.performLoad a f h
  | .aggat _ f _ => s.performLoad a f .none
  | .lda _ _ _ _ => s.performLoad a .int32 .none
  | .sts _ f _ | .agsct _ f _ => s.performStore a f (tokVal a.ops.r)
  | .stl _ _ _ _ => s.performStore a .int32 (tokVal a.ops.r)
  | .ldv _ h f _ => s.performLdv a f h
  | .stv _ f _ => s.performStv a f
  | .reclaim _ _ => s.performReclaim a
  | .win _ w _ => s.performRead a (fun s a => s.winRead a w.toNat)
  | .copy _ _ _ | .copyr _ _ _ _ _ | .copyc _ _ _ _ => s.performRead a (fun s a => s.copyRead a)
  | .nmhdr _ _ => s.performRead a (fun s a => s.nmhdrRead a)
  | .nmchk _ _ => s.performRead a (fun s a => s.nmchkRead a)
  | .prune _ f t _ => s.performRead a (fun s a => s.pruneRead a f t)
  | .mma _ _ _ _ _ | .mmarow _ _ _ _ _ => s.performRead a (fun s a => s.mmaRead a)
  | .mmasp _ _ _ _ _ => s.performRead a (fun s a => s.mmaspRead a)
  | .fibh _ _ => s.performRead a (fun s a => s.fibhRead a)
  | .scana _ tree _ => s.performRead a (fun s a => s.scanRead a true tree)
  | .scano _ tree _ => s.performRead a (fun s a => s.scanRead a false tree)
  | .isld _ cam _ => s.performRead a (fun s a => s.isldRead a cam.toNat)
  | .isprb _ cam _ => s.performRead a (fun s a => s.isprbRead a cam.toNat)
  | .union _ _ => s.performRead a (fun s a => s.unionRead a)
  | _ => .later s a

/-! Replies (R223, R286). -/

/-- The consumer to which an access replies. -/
def Access.target (a : Access) : Consumer := a.instr.consumers.headD none

/-- The entries reserved at an issue given back. -/
def State.unreserve (s : State) (t : Site) (i : Instr) : State :=
  (emitsOf i .empty).foldl (fun s x => (List.range x.2).foldl (fun s _ => s.release t x.1) s) s

/-- Whether an access is an ISLD of a site: an instruction that reads fibres emits one token in a cycle (R286). -/
def Access.loadsCam (a : Access) (t : Option Site) : Bool := decide (some a.site = t) && (match a.instr with
  | .isld _ _ _ => true
  | _ => false)

/-- The reply of an access that is done, with which a WIN installs its window (R245). -/
def State.answer (s : State) (a : Access) (toks : List Tok) : State :=
  match a.instr, toks with
  | _, [] => s.unreserve a.site a.instr
  | .win _ w _, _ => (s.installWin a w.toNat).reply a.site a.target toks
  | _, _ => s.reply a.site a.target toks

/-- The accesses at the head of a port that are done answer, in issue order (R223); `last` is the instruction that has answered before. -/
def State.answerDone (s : State) (cell port : Nat) (last : Option Site) : Nat → State
  | 0 => s
  | n + 1 => match (s.port cell port).accs with
    | [] => s
    | a :: rest => match a.stage with
      | .done toks =>
        if a.loadsCam last then s
        else ((s.updPort cell port (fun q => { q with accs := rest })).answer a toks).answerDone cell port (some a.site) n
      | .walk | .ready | .held _ _ _ _ | .stream _ _ _ => s

/-- Whether the instruction of a stream may emit its next token (R124, R286). -/
def State.streamMay (s : State) (a : Access) (reserved : Bool) : Bool :=
  s.goesOn a.site && (reserved || (match s.block? a.site with
    | some b => b.room a.site.index [] [(a.target, 1)]
    | none => false))

/-- The access at the head of a port that streams tokens emits one; after the last its fault is raised and it leaves (R286). -/
def State.answerStream (s : State) (cell port : Nat) : State :=
  match (s.port cell port).accs with
  | [] => s
  | a :: rest => match a.stage with
    | .stream [] _ _ => s.updPort cell port (fun q => { q with accs := rest })
    | .stream (tok :: toks) fault reserved =>
      if s.streamMay a reserved then
        let s := if reserved then s.reply a.site a.target [tok] else s.emit a.site a.target tok
        if toks.isEmpty then
          let s := s.updPort cell port (fun q => { q with accs := rest })
          match fault with
          | some (_, sub, va) => s.fibreFault a sub va
          | none => s
        else s.updPort cell port (fun q => { q with accs := { a with stage := .stream toks fault false } :: rest })
      else s
    | .walk | .ready | .held _ _ _ _ | .done _ => s

/-- Whether a turn has brought an access on: what it does next is a new request (R177, R218). -/
def Access.moved (a b : Access) : Bool := decide (a.nextPart ≠ b.nextPart) || decide (a.parts.length ≠ b.parts.length) || decide (a.stage ≠ b.stage)

/-- Whether an access has its turn: translated, behind no access of its port, and behind nothing that it must follow as a release (R223, R300). -/
def State.mayTurn (s : State) (cell port k : Nat) (a : Access) : Bool :=
  (a.stage == .ready) && !(s.port cell port).blocked k a && s.mayLeave cell a

/-- One turn of the k-th access of a port, by a function that performs it. One that must wait keeps the cycle in which its request arrived
(R177, R227, R308); one that is performed stays in the port's order until it has answered. -/
def State.turnAccess (s : State) (cell port k : Nat) (perform : State → Access → Performed) : State :=
  match (s.port cell port).accs[k]? with
  | none => s
  | some a =>
    let put (s : State) (a : Access) : State := s.updPort cell port (fun q => { q with accs := q.accs.set k a })
    if s.mayTurn cell port k a then
      match perform s { a with arr := some (a.arr.getD s.cycle) } with
      | .done s toks => (put s { a with stage := .done toks, arr := none }).endRun a.site port
      | .later s b => (put s (if a.moved b then { b with arr := none } else b)).endRun a.site port
      | .drop s => put s { a with stage := .done [], arr := none }
      | .gone s => put s { a with stage := .stream [] none false, arr := none }
    else s

/-- The number that stands for the replies of a port, past those of its 64 accesses. -/
def answerTurn : Nat := 64

/-- MEMORY_REPLY (R222 to R224, R286): the k-th access of a port is performed, part by part; its turn past the accesses lets the replies of
those that are done leave in issue order, and one token of a stream. -/
def execMemoryReply (cell port k : Nat) (s : State) : Result :=
  if s.thermal then .next s
  else if k = answerTurn then .next ((s.answerDone cell port none (s.port cell port).accs.length).answerStream cell port)
  else .next (s.turnAccess cell port k State.performAccess)

/-- ATOMIC_UNIT_APPLY (R307, R308). -/
def execAtomicUnitApply (cell port k : Nat) (s : State) : Result :=
  if s.thermal then .next s
  else .next (s.turnAccess cell port k (fun s a => match a.instr with
    | .atom _ _ _ op _ => s.performAtom a op
    | _ => .later s a))

/-! Further attempts of waiting instructions (log 1). -/

/-- The next attempt of an instruction that waits: the state after it, or none where it waits unchanged. -/
def State.attempt (s : State) (p : Pend) : Option State :=
  match p.instr with
  | .bankk g file c0 => s.bankAttempt .keep g file c0 p
  | .banko g file c0 => s.bankAttempt .off g file c0 p
  | .bankw g file c0 => s.bankAttempt .wake g file c0 p
  | .mergek _ f c0 => s.mergeStep f c0 p
  | .drain path c0 => s.drainAttempt path c0 p
  | .cplw vis c0 => s.cplwAttempt vis c0 p
  | .fence _ c0 | .quiet _ c0 => s.fenceAttempt c0 p
  | .own _ _ => s.ownStep p
  | .arrive _ rel c0 => s.arriveAttempt rel c0 p
  | .waitg _ _ c0 => s.waitgAttempt c0 p
  | .bar _ ar c0 => s.barAttempt ar c0 p
  | .tlbinv sys c0 => s.tlbinvAttempt sys c0 p
  | .seamoPush _ _ _ | .seamoPop _ _ _ | .seamoStatus _ _ => s.seamAttempt p
  | .coll _ _ _ _ c0 => s.collAttempt c0 p
  | .cmdMatrix _ _ | .cmdBulk _ _ | .cmdCollective _ _ | .cmdLift _ _ | .cmdChild _ _ => s.cmdAttempt p
  | .cmdwait _ _ c0 => s.cmdwaitAttempt c0 p
  | .egress n _ c0 => s.egressAttempt n.toNat c0 p
  | .ingress n _ c0 => s.ingressAttempt n.toNat c0 p
  | .syscfg n f c0 => s.syscfgAttempt n f c0 p
  | .wedge c0 => s.wedgeAttempt c0 p
  | .mma _ _ _ _ c0 | .mmarow _ _ _ _ c0 => s.mmaAttempt c0 p
  | .mmasp _ _ _ _ c0 => s.mmaspStep c0 p
  | .prune _ f t c0 => s.pruneStep f t c0 p
  | _ => none

/-- The waiting instruction of a stamp tries again, while its cell is there and its clocks run. -/
def State.resolve (s : State) (stamp : Nat) : State :=
  match s.pend.findIdx? (fun p => p.stamp == stamp) with
  | none => s
  | some k => match s.pend[k]? with
    | none => s
    | some p => if s.thermal || (s.cell? p.site.cell).isNone then s else s.tryPend k State.attempt

end Sys2Proof.Machine
end

