-- ==== Sys2Proof/Machine/Dispatch.lean ====
section
/-! DEFINITION. The meaning of every constructor of Instr, one direct call each. -/

namespace Sys2Proof.Machine

def exec (i : Instr) (s : State) : Host.Outcome State Fault Refusal :=
  match i with
  | .nop => Sys2Proof.Machine.execNop s
  | .mov c1 c0 => Sys2Proof.Machine.execMov c1 c0 s
  | .const imm c0 => Sys2Proof.Machine.execConst imm c0 s
  | .shlor imm c0 => Sys2Proof.Machine.execShlor imm c0 s
  | .add c1 c0 => Sys2Proof.Machine.execAdd c1 c0 s
  | .addi imm c0 => Sys2Proof.Machine.execAddi imm c0 s
  | .sub c1 c0 => Sys2Proof.Machine.execSub c1 c0 s
  | .neg c1 c0 => Sys2Proof.Machine.execNeg c1 c0 s
  | .mul c1 c0 => Sys2Proof.Machine.execMul c1 c0 s
  | .mulh c1 c0 => Sys2Proof.Machine.execMulh c1 c0 s
  | .mulhu c1 c0 => Sys2Proof.Machine.execMulhu c1 c0 s
  | .div c1 c0 => Sys2Proof.Machine.execDiv c1 c0 s
  | .divu c1 c0 => Sys2Proof.Machine.execDivu c1 c0 s
  | .rem c1 c0 => Sys2Proof.Machine.execRem c1 c0 s
  | .remu c1 c0 => Sys2Proof.Machine.execRemu c1 c0 s
  | .muli imm c0 => Sys2Proof.Machine.execMuli imm c0 s
  | .and c1 c0 => Sys2Proof.Machine.execAnd c1 c0 s
  | .andi imm c0 => Sys2Proof.Machine.execAndi imm c0 s
  | .or c1 c0 => Sys2Proof.Machine.execOr c1 c0 s
  | .ori imm c0 => Sys2Proof.Machine.execOri imm c0 s
  | .xor c1 c0 => Sys2Proof.Machine.execXor c1 c0 s
  | .xori imm c0 => Sys2Proof.Machine.execXori imm c0 s
  | .shl c1 c0 => Sys2Proof.Machine.execShl c1 c0 s
  | .shli sh c0 => Sys2Proof.Machine.execShli sh c0 s
  | .shr c1 c0 => Sys2Proof.Machine.execShr c1 c0 s
  | .shri sh c0 => Sys2Proof.Machine.execShri sh c0 s
  | .sar c1 c0 => Sys2Proof.Machine.execSar c1 c0 s
  | .sari sh c0 => Sys2Proof.Machine.execSari sh c0 s
  | .clz c1 c0 => Sys2Proof.Machine.execClz c1 c0 s
  | .popc c1 c0 => Sys2Proof.Machine.execPopc c1 c0 s
  | .brev c1 c0 => Sys2Proof.Machine.execBrev c1 c0 s
  | .bfx sx wm1 low c0 => Sys2Proof.Machine.execBfx sx wm1 low c0 s
  | .min c1 c0 => Sys2Proof.Machine.execMin c1 c0 s
  | .max c1 c0 => Sys2Proof.Machine.execMax c1 c0 s
  | .minu c1 c0 => Sys2Proof.Machine.execMinu c1 c0 s
  | .maxu c1 c0 => Sys2Proof.Machine.execMaxu c1 c0 s
  | .cmp k c1 c0 => Sys2Proof.Machine.execCmp k c1 c0 s
  | .cmpi k imm c0 => Sys2Proof.Machine.execCmpi k imm c0 s
  | .sel c1 c0 => Sys2Proof.Machine.execSel c1 c0 s
  | .test c1 c0 => Sys2Proof.Machine.execTest c1 c0 s
  | .steer c1 c0 => Sys2Proof.Machine.execSteer c1 c0 s
  | .merge c1 c0 => Sys2Proof.Machine.execMerge c1 c0 s
  | .gate t c1 c0 => Sys2Proof.Machine.execGate t c1 c0 s
  | .pand c1 c0 => Sys2Proof.Machine.execPand c1 c0 s
  | .por c1 c0 => Sys2Proof.Machine.execPor c1 c0 s
  | .pnot c1 c0 => Sys2Proof.Machine.execPnot c1 c0 s
  | .pxor c1 c0 => Sys2Proof.Machine.execPxor c1 c0 s
  | .drop => Sys2Proof.Machine.execDrop s
  | .cnt n c0 => Sys2Proof.Machine.execCnt n c0 s
  | .cntx c1 c0 => Sys2Proof.Machine.execCntx c1 c0 s
  | .accum c1 c0 => Sys2Proof.Machine.execAccum c1 c0 s
  | .fireno c1 c0 => Sys2Proof.Machine.execFireno c1 c0 s
  | .cellid c1 c0 => Sys2Proof.Machine.execCellid c1 c0 s
  | .laneid c1 c0 => Sys2Proof.Machine.execLaneid c1 c0 s
  | .rd g h c0 => Sys2Proof.Machine.execRd g h c0 s
  | .wr g c0 => Sys2Proof.Machine.execWr g c0 s
  | .rdp k h c0 => Sys2Proof.Machine.execRdp k h c0 s
  | .wrp k c0 => Sys2Proof.Machine.execWrp k c0 s
  | .dadd f rm c1 c0 => Sys2Proof.Machine.execDadd f rm c1 c0 s
  | .dsub f rm c1 c0 => Sys2Proof.Machine.execDsub f rm c1 c0 s
  | .dmul f rm c1 c0 => Sys2Proof.Machine.execDmul f rm c1 c0 s
  | .dfma f rm c1 c0 => Sys2Proof.Machine.execDfma f rm c1 c0 s
  | .dfms f rm c1 c0 => Sys2Proof.Machine.execDfms f rm c1 c0 s
  | .dmac f acc => Sys2Proof.Machine.execDmac f acc s
  | .ddiv f rm c1 c0 => Sys2Proof.Machine.execDdiv f rm c1 c0 s
  | .dsqrt f rm c1 c0 => Sys2Proof.Machine.execDsqrt f rm c1 c0 s
  | .drsqrt f rm c1 c0 => Sys2Proof.Machine.execDrsqrt f rm c1 c0 s
  | .drcp f rm c1 c0 => Sys2Proof.Machine.execDrcp f rm c1 c0 s
  | .dexp2 f rm c1 c0 => Sys2Proof.Machine.execDexp2 f rm c1 c0 s
  | .dlog2 f rm c1 c0 => Sys2Proof.Machine.execDlog2 f rm c1 c0 s
  | .dscale f rm c1 c0 => Sys2Proof.Machine.execDscale f rm c1 c0 s
  | .dneg f rm c1 c0 => Sys2Proof.Machine.execDneg f rm c1 c0 s
  | .dabs f rm c1 c0 => Sys2Proof.Machine.execDabs f rm c1 c0 s
  | .dcvt f rm c1 c0 => Sys2Proof.Machine.execDcvt f rm c1 c0 s
  | .dmin f rm c1 c0 => Sys2Proof.Machine.execDmin f rm c1 c0 s
  | .dmax f rm c1 c0 => Sys2Proof.Machine.execDmax f rm c1 c0 s
  | .drelu f rm c1 c0 => Sys2Proof.Machine.execDrelu f rm c1 c0 s
  | .dclamp f rm c1 c0 => Sys2Proof.Machine.execDclamp f rm c1 c0 s
  | .dthr f rm c1 c0 => Sys2Proof.Machine.execDthr f rm c1 c0 s
  | .dcmp k c1 c0 => Sys2Proof.Machine.execDcmp k c1 c0 s
  | .dsel f rm c1 c0 => Sys2Proof.Machine.execDsel f rm c1 c0 s
  | .dkill f rm c1 c0 => Sys2Proof.Machine.execDkill f rm c1 c0 s
  | .dtrunc f rm c1 c0 => Sys2Proof.Machine.execDtrunc f rm c1 c0 s
  | .dnorm f rm c1 c0 => Sys2Proof.Machine.execDnorm f rm c1 c0 s
  | .drep f c1 c0 => Sys2Proof.Machine.execDrep f c1 c0 s
  | .dxtr f rm c1 c0 => Sys2Proof.Machine.execDxtr f rm c1 c0 s
  | .dlane f rm c1 c0 => Sys2Proof.Machine.execDlane f rm c1 c0 s
  | .dshuf f rm c1 c0 => Sys2Proof.Machine.execDshuf f rm c1 c0 s
  | .drot f rm c1 c0 => Sys2Proof.Machine.execDrot f rm c1 c0 s
  | .dred f rm c1 c0 => Sys2Proof.Machine.execDred f rm c1 c0 s
  | .dbcast f rm c1 c0 => Sys2Proof.Machine.execDbcast f rm c1 c0 s
  | .dacc acc => Sys2Proof.Machine.execDacc acc s
  | .daccrd f rm acc c0 => Sys2Proof.Machine.execDaccrd f rm acc c0 s
  | .daccz acc => Sys2Proof.Machine.execDaccz acc s
  | .dwst f => Sys2Proof.Machine.execDwst f s
  | .drdv v h f c0 => Sys2Proof.Machine.execDrdv v h f c0 s
  | .dwrv v f rm c0 => Sys2Proof.Machine.execDwrv v f rm c0 s
  | .recv ch n off c0 => Sys2Proof.Machine.execRecv ch n off c0 s
  | .peek ch n off c0 => Sys2Proof.Machine.execPeek ch n off c0 s
  | .send ch n => Sys2Proof.Machine.execSend ch n s
  | .advc ch n => Sys2Proof.Machine.execAdvc ch n s
  | .advp ch n => Sys2Proof.Machine.execAdvp ch n s
  | .chst ch out c0 => Sys2Proof.Machine.execChst ch out c0 s
  | .agb p => Sys2Proof.Machine.execAgb p s
  | .agl p lv => Sys2Proof.Machine.execAgl p lv s
  | .agfmt p f => Sys2Proof.Machine.execAgfmt p f s
  | .aggo p c0 => Sys2Proof.Machine.execAggo p c0 s
  | .aggat p f c0 => Sys2Proof.Machine.execAggat p f c0 s
  | .agsct p f c0 => Sys2Proof.Machine.execAgsct p f c0 s
  | .agctr p lv c0 => Sys2Proof.Machine.execAgctr p lv c0 s
  | .retry p c0 => Sys2Proof.Machine.execRetry p c0 s
  | .lds p h f c0 => Sys2Proof.Machine.execLds p h f c0 s
  | .sts p f c0 => Sys2Proof.Machine.execSts p f c0 s
  | .ldv p h f c0 => Sys2Proof.Machine.execLdv p h f c0 s
  | .stv p f c0 => Sys2Proof.Machine.execStv p f c0 s
  | .reclaim p c0 => Sys2Proof.Machine.execReclaim p c0 s
  | .pref p h depth => Sys2Proof.Machine.execPref p h depth s
  | .drain path c0 => Sys2Proof.Machine.execDrain path c0 s
  | .win p w c0 => Sys2Proof.Machine.execWin p w c0 s
  | .copy p h c0 => Sys2Proof.Machine.execCopy p h c0 s
  | .copyr p h f op c0 => Sys2Proof.Machine.execCopyr p h f op c0 s
  | .copyc p h sel c0 => Sys2Proof.Machine.execCopyc p h sel c0 s
  | .cplw vis c0 => Sys2Proof.Machine.execCplw vis c0 s
  | .atom p sc o op c0 => Sys2Proof.Machine.execAtom p sc o op c0 s
  | .lda p sc acq c0 => Sys2Proof.Machine.execLda p sc acq c0 s
  | .stl p sc rel c0 => Sys2Proof.Machine.execStl p sc rel c0 s
  | .fence sc c0 => Sys2Proof.Machine.execFence sc c0 s
  | .own p op => Sys2Proof.Machine.execOwn p op s
  | .upd p => Sys2Proof.Machine.execUpd p s
  | .arrive sc rel c0 => Sys2Proof.Machine.execArrive sc rel c0 s
  | .waitg sc acq c0 => Sys2Proof.Machine.execWaitg sc acq c0 s
  | .bar sc ar c0 => Sys2Proof.Machine.execBar sc ar c0 s
  | .quiet sc c0 => Sys2Proof.Machine.execQuiet sc c0 s
  | .lift => Sys2Proof.Machine.execLift s
  | .seamoPush p rel c0 => Sys2Proof.Machine.execSeamoPush p rel c0 s
  | .seamoPop p acq c0 => Sys2Proof.Machine.execSeamoPop p acq c0 s
  | .seamoStatus p c0 => Sys2Proof.Machine.execSeamoStatus p c0 s
  | .coll f op sc kind c0 => Sys2Proof.Machine.execColl f op sc kind c0 s
  | .wqadd p sc rel c0 => Sys2Proof.Machine.execWqadd p sc rel c0 s
  | .wqtake p sc acq c0 => Sys2Proof.Machine.execWqtake p sc acq c0 s
  | .wqclose p sc rel c0 => Sys2Proof.Machine.execWqclose p sc rel c0 s
  | .cmdMatrix rel c0 => Sys2Proof.Machine.execCmdMatrix rel c0 s
  | .cmdBulk rel c0 => Sys2Proof.Machine.execCmdBulk rel c0 s
  | .cmdCollective rel c0 => Sys2Proof.Machine.execCmdCollective rel c0 s
  | .cmdLift rel c0 => Sys2Proof.Machine.execCmdLift rel c0 s
  | .cmdChild rel c0 => Sys2Proof.Machine.execCmdChild rel c0 s
  | .cmdwait sc acq c0 => Sys2Proof.Machine.execCmdwait sc acq c0 s
  | .egress p rel c0 => Sys2Proof.Machine.execEgress p rel c0 s
  | .ingress p acq c0 => Sys2Proof.Machine.execIngress p acq c0 s
  | .syscfg p f c0 => Sys2Proof.Machine.execSyscfg p f c0 s
  | .mma p acc f rm c0 => Sys2Proof.Machine.execMma p acc f rm c0 s
  | .mmasp p acc f rm c0 => Sys2Proof.Machine.execMmasp p acc f rm c0 s
  | .mmarow p acc f rm c0 => Sys2Proof.Machine.execMmarow p acc f rm c0 s
  | .wedge c0 => Sys2Proof.Machine.execWedge c0 s
  | .prune p f t c0 => Sys2Proof.Machine.execPrune p f t c0 s
  | .nmhdr p c0 => Sys2Proof.Machine.execNmhdr p c0 s
  | .nmchk p c0 => Sys2Proof.Machine.execNmchk p c0 s
  | .nmest p c0 => Sys2Proof.Machine.execNmest p c0 s
  | .scana p tree c0 => Sys2Proof.Machine.execScana p tree c0 s
  | .scano p tree c0 => Sys2Proof.Machine.execScano p tree c0 s
  | .isld p cam c0 => Sys2Proof.Machine.execIsld p cam c0 s
  | .isprb p cam c0 => Sys2Proof.Machine.execIsprb p cam c0 s
  | .union p c0 => Sys2Proof.Machine.execUnion p c0 s
  | .mergek p f c0 => Sys2Proof.Machine.execMergek p f c0 s
  | .fibh p c0 => Sys2Proof.Machine.execFibh p c0 s
  | .trap code => Sys2Proof.Machine.execTrap code s
  | .halt => Sys2Proof.Machine.execHalt s
  | .srd n c0 => Sys2Proof.Machine.execSrd n c0 s
  | .swr n c0 => Sys2Proof.Machine.execSwr n c0 s
  | .ptst c1 c0 => Sys2Proof.Machine.execPtst c1 c0 s
  | .pclr c1 c0 => Sys2Proof.Machine.execPclr c1 c0 s
  | .excrd c1 c0 => Sys2Proof.Machine.execExcrd c1 c0 s
  | .bankk g file c0 => Sys2Proof.Machine.execBankk g file c0 s
  | .banko g file c0 => Sys2Proof.Machine.execBanko g file c0 s
  | .bankw g file c0 => Sys2Proof.Machine.execBankw g file c0 s
  | .tlbinv sys c0 => Sys2Proof.Machine.execTlbinv sys c0 s
  | .perf n c0 => Sys2Proof.Machine.execPerf n c0 s
  | .cyc c1 c0 => Sys2Proof.Machine.execCyc c1 c0 s
  | .fend => Sys2Proof.Machine.execFend s
  | .launchToken v => Sys2Proof.Machine.execLaunchToken v s
  | .hostRegisterWrite page off v => Sys2Proof.Machine.execHostRegisterWrite page off v s
  | .ingToken port v => Sys2Proof.Machine.execIngToken port v s
  | .egDataRead port => Sys2Proof.Machine.execEgDataRead port s
  | .ownerWrite port v => Sys2Proof.Machine.execOwnerWrite port v s
  | .rcvGo => Sys2Proof.Machine.execRcvGo s
  | .hostMemoryRead off n => Sys2Proof.Machine.execHostMemoryRead off n s
  | .hostMemoryWrite off bytes => Sys2Proof.Machine.execHostMemoryWrite off bytes s
  | .launchDispatch => Sys2Proof.Machine.execLaunchDispatch s
  | .regionGrant k => Sys2Proof.Machine.execRegionGrant k s
  | .seedInject rid => Sys2Proof.Machine.execSeedInject rid s
  | .preload rid lift var => Sys2Proof.Machine.execPreload rid lift var s
  | .firingStart cell ctx => Sys2Proof.Machine.execFiringStart cell ctx s
  | .firingEnd cell ctx => Sys2Proof.Machine.execFiringEnd cell ctx s
  | .tokenArrive k => Sys2Proof.Machine.execTokenArrive k s
  | .divideComplete cell pe => Sys2Proof.Machine.execDivideComplete cell pe s
  | .ageCounterExpiry cell pe slot => Sys2Proof.Machine.execAgeCounterExpiry cell pe slot s
  | .benchClockStop bench => Sys2Proof.Machine.execBenchClockStop bench s
  | .bankIdleTimeout cell bank => Sys2Proof.Machine.execBankIdleTimeout cell bank s
  | .bankWakeDone cell bank => Sys2Proof.Machine.execBankWakeDone cell bank s
  | .spadBankIdleTimeout bank => Sys2Proof.Machine.execSpadBankIdleTimeout bank s
  | .spadBankWakeDone bank => Sys2Proof.Machine.execSpadBankWakeDone bank s
  | .spallArrive k => Sys2Proof.Machine.execSpallArrive k s
  | .memoryReply cell port k => Sys2Proof.Machine.execMemoryReply cell port k s
  | .pageWalk cell port k => Sys2Proof.Machine.execPageWalk cell port k s
  | .atomicUnitApply cell port k => Sys2Proof.Machine.execAtomicUnitApply cell port k s
  | .copyrLineUpdate cell slot => Sys2Proof.Machine.execCopyrLineUpdate cell slot s
  | .copySrcComplete cell slot => Sys2Proof.Machine.execCopySrcComplete cell slot s
  | .copyVisComplete cell slot => Sys2Proof.Machine.execCopyVisComplete cell slot s
  | .commandIssue slot => Sys2Proof.Machine.execCommandIssue slot s
  | .commandRetire slot => Sys2Proof.Machine.execCommandRetire slot s
  | .matrixOpStart rid sr => Sys2Proof.Machine.execMatrixOpStart rid sr s
  | .matrixOpComplete rid sr => Sys2Proof.Machine.execMatrixOpComplete rid sr s
  | .collComplete k => Sys2Proof.Machine.execCollComplete k s
  | .seamRemoteEntry ctx seam entry marks => Sys2Proof.Machine.execSeamRemoteEntry ctx seam entry marks s
  | .phaseNotify rid gid cell => Sys2Proof.Machine.execPhaseNotify rid gid cell s
  | .updApply rid => Sys2Proof.Machine.execUpdApply rid s
  | .workQueueApply q => Sys2Proof.Machine.execWorkQueueApply q s
  | .drainedReport rid => Sys2Proof.Machine.execDrainedReport rid s
  | .liftWedge rid => Sys2Proof.Machine.execLiftWedge rid s
  | .contextRetire ctx => Sys2Proof.Machine.execContextRetire ctx s
  | .hangLimitExpiry rid => Sys2Proof.Machine.execHangLimitExpiry rid s
  | .faultHoldExpiry rid => Sys2Proof.Machine.execFaultHoldExpiry rid s
  | .switchGraceExpiry rid => Sys2Proof.Machine.execSwitchGraceExpiry rid s
  | .tswAtReached => Sys2Proof.Machine.execTswAtReached s
  | .tswCtlWrite v => Sys2Proof.Machine.execTswCtlWrite v s
  | .resumeWrite v => Sys2Proof.Machine.execResumeWrite v s
  | .fltCauseClear cell => Sys2Proof.Machine.execFltCauseClear cell s
  | .switchPoint rid => Sys2Proof.Machine.execSwitchPoint rid s
  | .park rid => Sys2Proof.Machine.execPark rid s
  | .regionResume k => Sys2Proof.Machine.execRegionResume k s
  | .softError e => Sys2Proof.Machine.execSoftError e s
  | .deviceStart d2d dram fuse => Sys2Proof.Machine.execDeviceStart d2d dram fuse s
  | .firmwareReady => Sys2Proof.Machine.execFirmwareReady s
  | .readyTimeout => Sys2Proof.Machine.execReadyTimeout s
  | .recoveryTimeout => Sys2Proof.Machine.execRecoveryTimeout s
  | .droopTrip bench => Sys2Proof.Machine.execDroopTrip bench s
  | .droopRelease bench => Sys2Proof.Machine.execDroopRelease bench s
  | .currentCeilingTrip => Sys2Proof.Machine.execCurrentCeilingTrip s
  | .currentCeilingRelease => Sys2Proof.Machine.execCurrentCeilingRelease s
  | .thermalTrip => Sys2Proof.Machine.execThermalTrip s
  | .thermalRelease => Sys2Proof.Machine.execThermalRelease s
  | .watchdogExpiry => Sys2Proof.Machine.execWatchdogExpiry s
  | .budgetChange watts => Sys2Proof.Machine.execBudgetChange watts s
  | .modCap v => Sys2Proof.Machine.execModCap v s
  | .dbgReq v => Sys2Proof.Machine.execDbgReq v s
  | .sidebandRegisterWrite reg index v => Sys2Proof.Machine.execSidebandRegisterWrite reg index v s
  | .firmwareUpdate image => Sys2Proof.Machine.execFirmwareUpdate image s
  | .attestationQuote nonce => Sys2Proof.Machine.execAttestationQuote nonce s
  | .returnCommand cmd => Sys2Proof.Machine.execReturnCommand cmd s
  | .debugRead q => Sys2Proof.Machine.execDebugRead q s
  | .sidebandWake => Sys2Proof.Machine.execSidebandWake s
  | .i3cAddressTimeout => Sys2Proof.Machine.execI3cAddressTimeout s
  | .firmwareFailureReport => Sys2Proof.Machine.execFirmwareFailureReport s
  | .packageSleepEntry => Sys2Proof.Machine.execPackageSleepEntry s
  | .supplyLoss => Sys2Proof.Machine.execSupplyLoss s
  | .tlbinvRemoteBroadcast ctl va => Sys2Proof.Machine.execTlbinvRemoteBroadcast ctl va s

end Sys2Proof.Machine
end

