-- ==== Sys2Proof/Machine/Plan.lean ====
section
/-! DEFINITION. The passage from one cycle to the next, and the actions that the model tries in a cycle (log 1). -/

namespace Sys2Proof.Machine

/-! What a cycle has done (R125, R154, R336). -/

/-- Whether a digit of a number moves on a lane of a cell in a cycle: it leaves, or it arrives. -/
def Cell.digitMoves (c : Cell) (now : Nat) : Bool :=
  c.blocks.any (fun b => b.slots.any (fun sl => decide (sl.sentAt = some now) ||
    [sl.l, sl.r, sl.p, sl.a].any (fun q => q.nums.any (fun n => n.came.any (fun k => decide (k = now))))))

/-- Whether an instruction of a cell has issued in a cycle, on a control ALU or in slot 0. -/
def Cell.hasIssued (c : Cell) (now : Nat) : Bool := c.blocks.any (fun b => b.slots.any (fun sl => decide (sl.issuedAt = some now)))

/-- Whether a cell keeps the clock of its bench on (R154). -/
def Cell.clocked (c : Cell) (now : Nat) : Bool :=
  decide (c.arrivedAt = now) || c.hasIssued now || c.pes.any (fun p => p.division.isSome || decide (p.issuedAt = some now)) || c.digitMoves now

/-- A bench after a cycle: its quiet bench cycles counted (R154). -/
def State.benchAfter (s : State) (b : Bench) : Bench :=
  match s.benchCells b.num with
  | [] => { b with stopped := true, quiet := 0 }
  | c :: rest =>
    if (c :: rest).any (fun c => c.clocked s.cycle) then { b with stopped := false, quiet := 0 }
    else if s.cycle % c.divider = 0 then { b with quiet := min 32 (b.quiet + 1) }
    else b

/-- A region after a cycle: its idle count (R336); an engine operation that moved data has said so. -/
def State.regionAfter (s : State) (r : Region) : Region :=
  let moved := r.moved || (s.cellsOf r.rid).any (fun c => c.hasIssued s.cycle || c.digitMoves s.cycle)
  { r with idle := s.idleAfter { r with moved := moved }, moved := false }

/-! Memory requests (R218). -/

/-- Whether the k-th access of a port has a request to send: to be translated by a walk, or to be performed next. -/
def State.asks (s : State) (c : Cell) (q : Port) (k : Nat) (a : Access) : Bool :=
  a.arr.isNone && (match a.stage with
    | .walk => true
    | .ready => !q.blocked k a && s.mayLeave c.num a
    | .held _ _ _ _ | .done _ | .stream _ _ _ => false)

/-- The step that makes the request of an access. -/
def requestOf (cell port k : Nat) (a : Access) : Action :=
  match a.stage, a.instr with
  | .ready, .atom _ _ _ _ _ => .event (.atomicUnitApply cell port k)
  | .ready, _ => .event (.memoryReply cell port k)
  | _, _ => .event (.pageWalk cell port k)

/-- The request that a port sends, where it has one: that of its oldest access that asks. -/
def State.portRequest (s : State) (c : Cell) (q : Port) : Option Action :=
  (List.range q.accs.length).findSome? (fun k => match q.accs[k]? with
    | some a => if s.asks c q k a then some (requestOf c.num q.num k a) else none
    | none => none)

/-- The ports of an AGE with a request ready, by their place in its list (R218). -/
def State.ageReady (s : State) (r : Region) (n k : Nat) : List (Nat × Action) :=
  (List.range ((r.w * r.h + n - 1 - k) / n)).flatMap (fun j =>
    match s.cellAt r.rid ((k + n * j) % r.w) ((k + n * j) / r.w) with
    | none => []
    | some c => c.ports.filterMap (fun q => (s.portRequest c q).map (fun e => (64 * j + q.num, e))))

/-- The entry of the lowest place. -/
def lowestPlace : List (Nat × Action) → Option (Nat × Action)
  | [] => none
  | x :: rest => match lowestPlace rest with
    | some y => if y.1 < x.1 then some y else some x
    | none => some x

/-- The grant of an AGE with a pointer: the first ready port at or after it, wrapping round (R218). -/
def ageGrant (ptr : Nat) (l : List (Nat × Action)) : Option (Nat × Action) :=
  match lowestPlace (l.filter (fun x => decide (ptr ≤ x.1))) with
  | some x => some x
  | none => lowestPlace l

/-- The grants of a region's AGEs in a cycle, and the region with their pointers moved on (R218). -/
def State.grants (s : State) (r : Region) : Region × List Action :=
  let n := r.ages.length
  if r.gone || n = 0 then (r, [])
  else
    let g := r.ages.mapIdx (fun k ptr => (ptr, ageGrant ptr (s.ageReady r n k)))
    ({ r with ages := g.map (fun x => match x.2 with
        | some y => y.1 + 1
        | none => x.1) }, g.filterMap (fun x => x.2.map (fun y => y.2)))

/-- What cells that have left their regions have still to perform. -/
def State.ghostRequests (s : State) : List Action :=
  (s.cells.filter (fun c => decide (4096 ≤ c.num))).flatMap (fun c => c.ports.filterMap (s.portRequest c))

/-- The ports whose oldest access has an answer to emit. -/
def State.answers (s : State) : List Action :=
  s.cells.flatMap (fun c => c.ports.filterMap (fun q => match q.accs.head? with
    | some a => if a.stage.isDone then some (.event (.memoryReply c.num q.num answerTurn)) else none
    | none => none))

/-! The order at memory (R177, R227, R308). -/

/-- An action with its place at memory: the cycle in which its request arrived, the cell that issued it, and its port, 64 where it has none. -/
structure Turn where
  arr : Nat
  cell : Nat
  port : Nat
  act : Action
  deriving DecidableEq, Repr

/-- The order in which banks, lines and units apply requests (R177): arrival, then the issuing cell, then the port. -/
def Turn.upTo (x y : Turn) : Bool :=
  decide (x.arr < y.arr) || (decide (x.arr = y.arr) && (decide (x.cell < y.cell) || (decide (x.cell = y.cell) && decide (x.port ≤ y.port))))

/-- The place of a request that an AGE has granted in this cycle. -/
def State.granted (s : State) (x : Action) : Turn :=
  match x with
  | .event (.atomicUnitApply cell port _) | .event (.memoryReply cell port _) | .event (.pageWalk cell port _) => ⟨s.cycle, cell % 4096, port, x⟩
  | _ => ⟨s.cycle, 4096, 64, x⟩

/-- The accesses whose requests wait at memory. -/
def State.waiting (s : State) : List Turn :=
  s.cells.flatMap (fun c => c.ports.flatMap (fun q => (List.range q.accs.length).filterMap (fun k => match q.accs[k]? with
    | some a => a.arr.map (fun n => ⟨n, c.num % 4096, q.num, requestOf c.num q.num k a⟩)
    | none => none)))

/-- The place of a step of an engine agent: it counts as a request of the cell that issued the operation (R177). -/
def State.engTurn (s : State) (e : Eng) (x : Action) : Turn := ⟨e.arr.getD s.cycle, e.site.cell % 4096, e.port.getD 64, x⟩

/-- The place of a step that no cell issues. -/
def State.loneTurn (s : State) (x : Action) : Turn := ⟨s.cycle, 4096, 64, x⟩

/-! The actions of a cycle. -/

/-- Whether a token on its way can leave the path in this cycle: it is not held until the wedge reaches its cell (R133). -/
def State.flightDue (s : State) (f : Flight) : Bool :=
  s.lands f.site.cell f.due && (match s.cell? f.site.cell with
    | some c => decide (c.adoptAt ≤ s.cycle) || c.parityAt s.cycle == f.parity
    | none => true)

/-- The tokens and spalls that arrive in this cycle moved to the front, in their order of arrival (R19). -/
def State.lineUp (s : State) : State :=
  { s with
    flight := sortBy (fun (f g : Flight) => !Flight.before g f) (s.flight.filter s.flightDue) ++ s.flight.filter (fun f => !s.flightDue f)
    spalls := s.spalls.filter (fun x => s.lands x.dest.site.cell x.due) ++ s.spalls.filter (fun x => !s.lands x.dest.site.cell x.due) }

/-- The arrivals of a cycle. -/
def State.arrivals (s : State) : List Action :=
  (s.flight.filter s.flightDue).map (fun _ => .event (.tokenArrive 0)) ++
    (s.spalls.filter (fun x => s.lands x.dest.site.cell x.due)).map (fun _ => .event (.spallArrive 0))

/-- The divisions and bank steps that may be due. -/
def State.timers (s : State) : List Action :=
  s.cells.flatMap (fun c =>
    (List.range 16).filterMap (fun p => if (c.pe p).division.isSome then some (.event (.divideComplete c.num p)) else none) ++
    (List.range 12).flatMap (fun b => match (if b < 4 then c.regs.gBank b else c.regs.vBank (b - 4)).st with
      | .waking _ _ => [.event (.bankWakeDone c.num b)]
      | .full => [.event (.bankIdleTimeout c.num b)]
      | .off | .keep => [])) ++
  s.mem.banks.flatMap (fun (x : Nat × Bank) => match x.2.st with
    | .waking _ _ => [.event (.spadBankWakeDone x.1)]
    | .full => [.event (.spadBankIdleTimeout x.1)]
    | .off | .keep => [])

/-- The steps of engines, commands, queues, systolic regions, collectives, owners, barriers and local seams, with their places. -/
def State.engineSteps (s : State) : List Turn :=
  s.cells.flatMap (fun c => c.copies.flatMap (fun x => match x.job with
    | some j => if j.ended then [] else [.copySrcComplete c.num x.slot, .copyrLineUpdate c.num x.slot, .copyVisComplete c.num x.slot].map (fun i => s.engTurn j.eng (.event i))
    | none => [])) ++
  (s.cmds.filter (fun c => !c.retired)).map (fun c =>
    s.engTurn ((c.copy.map (fun (j : Copy) => j.eng)).getD c.eng) (.event (if c.issued then .commandRetire c.slot else .commandIssue c.slot))) ++
  s.regions.flatMap (fun r =>
    (List.range 4).flatMap (fun k => match (r.sys[k]?).bind (fun y => y.queue.head?) with
      | some o => [s.engTurn o.eng (.event (.matrixOpStart r.rid k)), s.engTurn o.eng (.event (.matrixOpComplete r.rid k))]
      | none => []) ++
    (if r.updates.isEmpty then [] else [s.loneTurn (.event (.updApply r.rid))]) ++
    r.groups.flatMap (fun g => (g.members.filter (fun m => g.known m != g.phase)).map (fun m => s.loneTurn (.event (.phaseNotify r.rid g.gid m))))) ++
  ((List.range s.colls.length).zip s.colls).map (fun x => match x.2.joins with
    | j :: _ => s.engTurn j.eng (.event (.collComplete x.1))
    | [] => s.loneTurn (.event (.collComplete x.1))) ++
  s.hostOps.map (fun x => ⟨x.arr, 4096, 64, .host⟩) ++
  (s.queues.filter (fun q => q.ctx.isSome)).map (fun q => s.loneTurn (.event (.workQueueApply q.num))) ++
  s.seams.flatMap (fun m => if m.remote && !m.popEnd && m.member == s.dev.member then
    (match m.out with
    | [] => []
    | x :: _ => [s.loneTurn (.event (.seamRemoteEntry m.ctx m.peer x.2.v (x.2.lo, x.2.hi)))]) else [])

/-- The attempts of instructions that wait, with their places. -/
def State.retries (s : State) : List Turn :=
  s.pend.map (fun p => match p.eng with
    | some e => s.engTurn e (.resolve p.stamp)
    | none => ⟨s.cycle, p.site.cell % 4096, 64, .resolve p.stamp⟩)

/-- Everything that acts at memory in a cycle, in its order. -/
def State.atMemory (s : State) (requests : List Action) : List Action :=
  (sortBy Turn.upTo (requests.map s.granted ++ s.waiting ++ s.engineSteps ++ s.retries)).map (fun x => x.act)

/-- The blocks of the new variant of a cell, where the wedge may enter its region in this cycle: one can fire in the same cycle (R132). -/
def State.blocksSoon (s : State) (c : Cell) : List Block :=
  match (s.region? c.rid).filter (fun r => r.drainedAt.isSome && r.switch.isNone) with
  | some r => (match s.liftTarget r with
    | some (_, _, v) => (v.cellBlocks c.rx c.ry).map (buildBlock ⟨r.die, r.x0, r.y0⟩ v)
    | none => [])
  | none => []

/-- The slots of a cell whose age has reached 1,024 (R125). -/
def State.ageings (s : State) : List Action :=
  s.cells.flatMap (fun c => match c.cur.bind (fun k => c.block? k) with
    | none => []
    | some b => ((List.range 64).filter (fun j => decide (j % 4 ≠ 0) && decide (1024 ≤ (b.slot j).age) && (b.slot j).aged.isNone)).map (fun j =>
        .event (.ageCounterExpiry c.num (j / 4) (j % 4))))

/-- Firings and ages; then every guard is looked at as it stands before the issues of the cycle (R120, R121, R125). -/
def State.firings (s : State) : List Action :=
  s.cells.flatMap (fun c =>
      (match c.cur with
      | some k => [.event (.firingEnd c.num k)]
      | none => []) ++
      ([0, 1, 2, 3].filter (fun k => (c.blocks ++ s.blocksSoon c).any (fun b => b.ctx == k))).map (fun k => .event (.firingStart c.num k))) ++
  s.ageings ++ [.guards]

/-- The instructions of the current blocks, slot 0 of each PE first (R124, R125). -/
def State.issues (s : State) : List Action :=
  s.cells.flatMap (fun c =>
    let now := if c.blocks.any (fun b => b.firing || s.canFire b) then (c.cur.bind (fun k => c.block? k)).toList else []
    ((now ++ (s.blocksSoon c).head?.toList).flatMap (fun b =>
      (List.range 64).filterMap (fun j => if (b.instr? j).isSome then some (Action.issue ⟨c.num, b.ctx, j⟩) else none))).eraseDups)

/-- The steps of one region (R89, R130 to R132, R336 to R343). -/
def State.regionSteps (s : State) (r : Region) : List Action :=
  if r.gone then []
  else
    (if r.seeds.isEmpty && r.reported then [] else [.event (.seedInject r.rid)]) ++
    (if s.regionSettled r then [.event (.drainedReport r.rid)] else []) ++
    (match s.liftTarget r with
    | some (lift, var, v) => if s.preloaded r lift var v then [] else [.event (.preload r.rid lift var)]
    | none => []) ++
    (if r.switch.isSome then [.event (.switchPoint r.rid), .event (.switchGraceExpiry r.rid), .event (.park r.rid)] else []) ++
    (if s.hangLimit r.ctx ≤ r.idle then [.event (.hangLimitExpiry r.rid)] else [])

/-- The launches that may be granted, or looked at again (R83, R106). -/
def State.launchSteps (s : State) : List Action :=
  (if s.launchQ.isEmpty then [] else [.event .launchDispatch]) ++
    (match s.launches.findIdx? (fun l => (s.grantFor l).isSome) with
    | some k => [.event (.regionGrant k)]
    | none => ((List.range s.launches.length).zip s.launches).filterMap (fun x => if x.2.judged then none else some (.event (.regionGrant x.1))))

/-- What is held too long, and by which regions (R244). -/
def State.holdSteps (s : State) : List Action :=
  (((s.regions.map (fun r => r.rid)) ++ s.heldEngs.map (fun e => e.rid)).eraseDups.filter s.holdDue).map (fun rid => .event (.faultHoldExpiry rid))

/-- The contexts whose accounts run and that have no state any longer (R355). -/
def State.retirements (s : State) : List Action :=
  (s.mem.metered.filter (fun ctx => !s.hasState ctx)).map (fun ctx => .event (.contextRetire ctx))

/-- The wedges that may enter their regions: they come first in a cycle (R132, R133). -/
def State.wedges (s : State) : List Action :=
  (s.regions.filter (fun r => !r.gone && r.liftReq.isSome && r.drainedAt.isSome)).map (fun r => .event (.liftWedge r.rid))

/-- The benches whose droop steps may go back (R360). -/
def State.droops (s : State) : List Action :=
  (s.benches.filter (fun b => decide (0 < b.droop) && decide (b.tripAt + 65536 ≤ s.cycle))).map (fun b => .event (.droopRelease b.num))

/-- The steps of the sequencer that end contexts, grant regions and start switches. They come before the firings of a cycle: in a cycle in which
a switch starts, no cell of its region begins one (R340), and a context that has no state has retired before it is granted a region (R355). -/
def State.sequencer (s : State) : List Action :=
  s.retirements ++ s.holdSteps ++ (if tswPend s.dev.tswCtl then [.event .tswAtReached] else []) ++ s.launchSteps

/-- The actions that the model tries in a cycle; steps from outside the device are not among them (log 1). -/
def State.plan (s : State) (requests : List Action) : List Action :=
  s.wedges ++ s.arrivals ++ s.timers ++ s.atMemory requests ++ s.answers ++ s.sequencer ++ s.firings ++ s.issues ++
    s.regions.flatMap s.regionSteps ++ (List.range s.parked.length).map (fun k => .event (.regionResume k)) ++
    (s.benches.filter (fun b => decide (b.quiet = 32) && !b.stopped)).map (fun b => .event (.benchClockStop b.num)) ++ s.droops

/-! The next cycle. -/

/-- What the end of a cycle leaves: the data plane has moved; ages, the quiet cycles of benches, the idle counts of regions; the fault records of
the cycle reach their logs, and behind every request of a cell the writes of the sequencer and of the host that wait are performed (R177,
R305, R331); then the lines that have left the last-level cache in the cycle are written back, behind every write of it (R357). -/
def State.closeCycle (s : State) : State :=
  let s := s.advanceDigits
  let s : State := { s with cells := s.cells.map s.ageCell, benches := s.benches.map s.benchAfter, regions := s.regions.map s.regionAfter }
  let s := s.flushLog
  let s : State := { s with mem := s.mem.flushPosted s.cycle }
  let s := s.hostDrain s.hostOps
  { s with mem := s.mem.writeBacks }

/-- Tokens on their way to cells that have left their regions are lost with them. -/
def State.dropLost (s : State) : State := { s with flight := s.flight.filter (fun f => decide (f.site.cell < 4096)) }

/-- What happens by itself as a cycle begins: pointers arrive, stopped regions and finished sweeps end, entries of seams leave. -/
def State.openCycle (s : State) : State := (((s.deliverPointers.endStopped).endSweeps.sweepGone).dropLost.forwardSeams).lineUp

/-- The sensors behind TEMP_MAX and PWR_NOW sampled: what they read is free (R369; log 40). -/
def State.sample (s : State) : State :=
  { s with fresh := s.fresh + 1,
           boot := { s.boot with tempMax := (Config.sensor 1 s.fresh).toNat, pwrNow := (Config.sensor 2 s.fresh).toNat } }

/-- The next cycle with its actions. CYCLE stands still in a thermal stop and without supply; what the host asks of memory meanwhile waits for
the clocks (R346, R361, R371). -/
def State.tick (s : State) : State :=
  if decide (s.boot.phase = .off) then s
  else if s.thermal then s.sample.answerDebug
  else
    let s := s.sample.closeCycle
    let s := ({ s with cycle := s.cycle + 1, mem := { s.mem with units := [] } } : State).answerDebug.capBudget.openCycle
    let g : List (Region × List Action) := s.regions.map s.grants
    let s := { s with regions := g.map (fun (x : Region × List Action) => x.1) }
    { s with agenda := s.plan (g.flatMap (fun (x : Region × List Action) => x.2) ++ s.ghostRequests) }

/-! Fetching. -/

/-- The word of the block at a site (R17, R27). -/
def State.fetch (s : State) (t : Site) : Option Word := (s.block? t).bind (fun b => b.words[t.index]?)

/-! A block placed so that a given word issues next (log 3). -/

/-- The KIND of block in which an instruction may act (R311, R320, R251). -/
def kindFor (i : Instr) : Nat :=
  match i with
  | .own _ _ => 1
  | .syscfg _ _ _ | .mma _ _ _ _ _ | .mmasp _ _ _ _ _ | .mmarow _ _ _ _ _ | .wedge _ => 2
  | .seamoPush _ _ _ | .seamoPop _ _ _ | .seamoStatus _ _ => 3
  | _ => 0

/-- A field that holds three tokens of 0 and a number of zeros whose head and digit arrived in a cycle. -/
def FieldQ.fed (cell now : Nat) : FieldQ :=
  { toks := List.replicate 3 ⟨0, none⟩, resv := 0,
    nums := [⟨[], 1, [now, now], 0, false, false, ⟨⟨cell, 1, 0⟩, 0, .c0, 0⟩, .free⟩] }

/-- A block of one PE in a firing, with a word at its first slot for the data plane, else at the slot after it; its channels hold a
token, and have room for one. -/
def placedBlock (w : Word) (i : Instr) (cell now : Nat) : Block :=
  let fed : Slot := { Slot.empty with l := .fed cell now, r := .fed cell now, p := .fed cell now, a := .fed cell now }
  { ctx := 0, kind := kindFor i, nin := 8, nout := 8, lgFire := 0, words := if i.dataPlane then [w] else [0, w], rates := List.replicate 8 0,
    prods := List.replicate 8 1, slots := if i.dataPlane then [fed, .empty, .empty, .empty] else [.empty, fed, .empty, .empty],
    ins := List.replicate 8 { cap := 64, cp := 0, pp := 64, buf := List.replicate 64 ⟨0, none⟩, advanced := false, fed := false, srcCell := 0, srcCtx := 0,
                              srcChan := 0, hops := 0 },
    outs := List.replicate 8 { cell := 0, ctx := 0, chan := 0, cap := 64, hops := 0, pp := 0, w := 0, cpv := 0, advanced := false, present := false },
    fireNo := 0, fired := 0, firing := true, fend := none }

/-- Register files whose banks are FULL and whose registers hold 0. -/
def RegFiles.open : RegFiles :=
  { g := List.replicate 64 (Timed.of ⟨0, true, false, none⟩), v := List.replicate 32 (Timed.of ⟨List.replicate 128 0, true, false, 0, 0⟩),
    k := List.replicate 8 (Timed.of ⟨0, none⟩), gBanks := List.replicate 4 ⟨.full, 0⟩, vBanks := List.replicate 8 ⟨.full, 0⟩ }

/-- A live region of one cell, in context 0, that runs a placed block; its agenda is the issue of the placed word. A word of the data plane
issues in the next cycle, by which the digits of its operands have arrived, as a sink needs them (R181). -/
def State.place (s : State) (w : Word) (i : Instr) : State :=
  let c : Cell := { Cell.absent 0 with rid := 0, blocks := [placedBlock w i 0 s.cycle], cur := some 0, regs := .open, pes := List.replicate 16 .fresh }
  let r : Region :=
    { rid := 0, ctx := 0, prio := 0, order := 0, die := 0, x0 := 0, y0 := 0, w := 1, h := 1, lift := 0, var := 0, img := 0, power := 0, leaving := none, clusters := [(0, 0)],
      ages := List.replicate 8 0, result := 0, reported := true, cmd := none, seeds := [], seedFrom := 0, liftReq := none, liftCmds := [], stopAt := none,
      stopCause := 0, stopRank := 0, haltAt := none, sweeping := false, sweepEnd := 0, drainedAt := none, switch := none, idle := 0, moved := false,
      sys := List.replicate 4 .none, owners := [], updates := [], groups := [], gone := false }
  { s with cycle := s.cycle + i.dataPlane.toNat, cells := [c], regions := [r], pend := [], thermal := false, agenda := [.issue ⟨0, 0, if i.dataPlane then 0 else 1⟩] }

/-- A state whose next step runs the instruction of a word; a word that no instruction has is placed as it is. -/
def State.placeWord (s : State) (w : Word) : State := s.place w (match decodeWord w with
  | .ok i => i
  | .error _ => .nop)

end Sys2Proof.Machine
end

