-- ==== Sys2Proof/Machine/Step.lean ====
section
/-! DEFINITION. One step of the machine: the next action of the agenda, or the next cycle where the agenda is empty (log 1). -/

namespace Sys2Proof.Machine

/-- The state in which the first action of the agenda runs: the rest of the agenda is left. -/
def State.rest (s : State) : State := { s with agenda := s.agenda.tail }

/-- The state in which an instruction at a site runs. -/
def State.at_ (s : State) (t : Site) : State := { s.rest with site := t }

/-- One step: it never stops but on a word that no loader accepts. -/
def step (s : State) : Host.Outcome State Fault Refusal :=
  match s.agenda with
  | [] => .next s.tick
  | .issue t :: _ => match s.fetch t with
    | none => .next (s.at_ t)
    | some w => match decodeWord w with
      | .ok i => exec i (s.at_ t)
      | .error _ => .fault .undecodable
  | .event i :: _ => exec i s.rest
  | .evict line :: _ => .next { s.rest with mem := s.mem.evict line }
  | .spoil line :: _ => .next { s.rest with mem := s.mem.spoil line }
  | .guards :: _ => .next s.rest.lookAtGuards
  | .host :: _ => .next s.rest.hostTurn
  | .resolve stamp :: _ => .next (s.rest.resolve stamp)

/-- The state with an instruction's word placed where the next step issues it (log 3). -/
def State.withFetchWord (s : State) (nbits w : Nat) : State := if nbits = 0 then s else s.placeWord (BitVec.ofNat 32 (w % 2 ^ nbits))

end Sys2Proof.Machine
end

