-- ==== Sys2Proof/Safety.lean ====
section
/-! DEFINITION. What a safe state is, and the terms in which claims speak: one byte of memory as it stands, what every issue does, what an
instruction emits, and what an instruction leaves as it was. -/

namespace Sys2Proof.Machine

/-! One byte of memory. -/

/-- The byte at a physical address as it stands, without an access: none where the memory map has nothing (R214), and in a dead segment of a
scratchpad (R175). -/
def MemSys.look (m : MemSys) (pa : Nat) : Option Byte :=
  match target pa with
  | some .dram | some .host => some (Memory.get m.bytes pa)
  | some .spad => if (m.seg (pa / 4096)).live then some (m.spadByte pa) else none
  | none => none

/-! Safe states. -/

/-- The memory of a state stands in its canonical form. -/
def State.MemoryWf (s : State) : Prop := Memory.wf s.mem.bytes = true

/-! Issue. -/

/-- Whether the site of the next instruction is there: its cell and PE, its block, and its place in the block. -/
def State.placed (s : State) : Bool :=
  match s.cell? s.site.cell with
  | none => false
  | some c => match c.block? s.site.ctx with
    | none => false
    | some b => decide (s.site.index < b.slots.length) && decide (s.site.index / 4 < c.pes.length)

/-- The instruction issues: its site is there, its guard holds, and its PE's control ALU grants it (R124, R125). -/
abbrev State.goes (s : State) (i : Instr) : Prop := s.placed = true ∧ s.ready s.site i = true

/-- The value of an operand of the execution about to issue, and the mark of what it emits (R134, R138). -/
def State.lval (s : State) (i : Instr) : Word := tokVal (s.opnds s.site i).l

def State.rval (s : State) (i : Instr) : Word := tokVal (s.opnds s.site i).r

def State.pval (s : State) (i : Instr) : Word := tokVal (s.opnds s.site i).p

def State.omark (s : State) (i : Instr) : Mark := (s.opnds s.site i).mark

/-- What every issue of a control instruction does (R124, R125, R134): each field loses the tokens that the execution takes, the PE's control
ALU is used for this cycle, and the slot has executed once more. -/
def Issued (i : Instr) (s t : State) : Prop :=
  (∀ b, s.block? s.site = some b → ∀ f,
    ((t.slot s.site).field f).toks = (((s.slot s.site).field f).toks).drop (Takes.of (consumesOf i b s.site.index (s.slot s.site)) f)) ∧
  (∀ c, t.cell? s.site.cell = some c → (c.pe s.site.pe).issuedAt = some s.cycle) ∧
  (t.slot s.site).done = (s.slot s.site).done + 1 ∧ (t.slot s.site).issuedAt = some s.cycle

/-- The tokens that a list of emissions puts on their way: one for each valid consumer slot, due after 1 bench cycle on the same PE and after
2 on another (R34, R123). -/
def State.flights (s : State) (t : Site) (l : List (Consumer × Tok)) : List Flight :=
  match s.cell? t.cell with
  | none => []
  | some c => l.filterMap (fun x => x.1.map (fun (g : Target) =>
      { site := ⟨t.cell, t.ctx, g.index.toNat⟩, field := g.field, tok := x.2, parity := c.parity,
        due := s.cycle + (if g.index.toNat / 4 = t.index / 4 then 1 else 2) * c.divider, from_ := t.index }))

/-- out(v): the same token to every consumer slot (R134). -/
def outs (i : Instr) (t : Tok) : List (Consumer × Tok) := i.consumers.map (fun c => (c, t))

/-- A control instruction runs: it answers a next state in which it has issued and has emitted these tokens and no others, and of which `P`
holds. -/
def Runs (i : Instr) (s : State) (l : List (Consumer × Tok)) (P : State → Prop) : Prop :=
  ∃ t, exec i s = .next t ∧ Issued i s t ∧ t.flight = s.flight ++ s.flights s.site l ∧ P t

/-- A control instruction is refused without consuming a token (R97, R328): it answers a next state in which every field of its slot holds
what it held, in which it has emitted nothing, and of which `P` holds. -/
def Refused (i : Instr) (s : State) (P : State → Prop) : Prop :=
  ∃ t, exec i s = .next t ∧ (∀ f, ((t.slot s.site).field f).toks = ((s.slot s.site).field f).toks) ∧ t.flight = s.flight ∧ P t

/-! The values that R140 to R150 state, over the integers. -/

/-- R140. -/
def buildSpec (i : Instr) : Option (Word → Word) :=
  match i with
  | .mov _ _ => some (fun l => l)
  | .const imm _ => some (fun _ => BitVec.ofInt 32 imm.toInt)
  | .shlor imm _ => some (fun l => BitVec.ofNat 32 (l.toNat * 2 ^ 15 + imm.toNat))
  | _ => none

/-- R141. -/
def arithSpec (i : Instr) : Option (Word → Word → Word) :=
  match i with
  | .add _ _ => some (fun l r => BitVec.ofNat 32 (l.toNat + r.toNat))
  | .addi imm _ => some (fun l _ => BitVec.ofInt 32 (l.toInt + imm.toInt))
  | .sub _ _ => some (fun l r => BitVec.ofInt 32 (l.toInt - r.toInt))
  | .neg _ _ => some (fun l _ => BitVec.ofInt 32 (-l.toInt))
  | .mul _ _ => some (fun l r => BitVec.ofNat 32 (l.toNat * r.toNat))
  | .mulh _ _ => some (fun l r => BitVec.ofInt 32 (l.toInt * r.toInt / 2 ^ 32))
  | .mulhu _ _ => some (fun l r => BitVec.ofNat 32 (l.toNat * r.toNat / 2 ^ 32))
  | .muli imm _ => some (fun l _ => BitVec.ofInt 32 (l.toInt * imm.toInt))
  | _ => none

/-- R144: a shift by r AND 31, or by an immediate. -/
def logicSpec (i : Instr) : Option (Word → Word → Word) :=
  match i with
  | .and _ _ => some (fun l r => l &&& r)
  | .andi imm _ => some (fun l _ => l &&& BitVec.ofInt 32 imm.toInt)
  | .or _ _ => some (fun l r => l ||| r)
  | .ori imm _ => some (fun l _ => l ||| BitVec.ofInt 32 imm.toInt)
  | .xor _ _ => some (fun l r => l ^^^ r)
  | .xori imm _ => some (fun l _ => l ^^^ BitVec.ofInt 32 imm.toInt)
  | .shl _ _ => some (fun l r => BitVec.ofNat 32 (l.toNat * 2 ^ (r.toNat % 32)))
  | .shli sh _ => some (fun l _ => BitVec.ofNat 32 (l.toNat * 2 ^ sh.toNat))
  | .shr _ _ => some (fun l r => BitVec.ofNat 32 (l.toNat / 2 ^ (r.toNat % 32)))
  | .shri sh _ => some (fun l _ => BitVec.ofNat 32 (l.toNat / 2 ^ sh.toNat))
  | .sar _ _ => some (fun l r => BitVec.ofInt 32 (l.toInt / 2 ^ (r.toNat % 32)))
  | .sari sh _ => some (fun l _ => BitVec.ofInt 32 (l.toInt / 2 ^ sh.toNat))
  | _ => none

/-- R145: leading zeros, set bits, bit i at 31 - i. -/
def bitsSpec (i : Instr) : Option (Word → Word) :=
  match i with
  | .clz _ _ => some (fun l => if l = 0 then 32 else BitVec.ofNat 32 (31 - Nat.log2 l.toNat))
  | .popc _ _ => some (fun l => BitVec.ofNat 32 ((List.range 32).filter (fun k => l.getLsbD k)).length)
  | .brev _ _ => some (fun l => l.reverse)
  | _ => none

/-- R146: the field's bits as a number; under .SX a field narrower than 32 bits with its top bit set counts down from 2^width. -/
def fieldSpec (sx : Bool) (width low : Nat) (l : Word) : Word :=
  let f := l.toNat / 2 ^ low % 2 ^ width
  if sx ∧ width < 32 ∧ 2 ^ (width - 1) ≤ f then BitVec.ofInt 32 ((f : Int) - 2 ^ width) else BitVec.ofNat 32 f

/-- The conditions of R30 over the integers. -/
def condSpec (k : Cond) (l y : Word) : Bool :=
  match k with
  | .eq => decide (l = y)
  | .ne => decide (l ≠ y)
  | .lt => decide (l.toInt < y.toInt)
  | .ge => decide (y.toInt ≤ l.toInt)
  | .ltu => decide (l.toNat < y.toNat)
  | .geu => decide (y.toNat ≤ l.toNat)
  | .le => decide (l.toInt ≤ y.toInt)
  | .gt => decide (y.toInt < l.toInt)

/-- The right side of CMPI (R148). -/
def immSpec (k : Cond) (imm : BitVec 12) : Word :=
  match k with
  | .ltu | .geu => BitVec.ofNat 32 imm.toNat
  | .eq | .ne | .lt | .ge | .le | .gt => BitVec.ofInt 32 imm.toInt

/-- The token 1 where a condition holds, else 0 (R135). -/
def flag (b : Bool) : Word := if b then 1 else 0

/-- R147 to R150. -/
def chooseSpec (i : Instr) : Option (Word → Word → Word → Word) :=
  match i with
  | .min _ _ => some (fun l r _ => BitVec.ofInt 32 (min l.toInt r.toInt))
  | .max _ _ => some (fun l r _ => BitVec.ofInt 32 (max l.toInt r.toInt))
  | .minu _ _ => some (fun l r _ => BitVec.ofNat 32 (min l.toNat r.toNat))
  | .maxu _ _ => some (fun l r _ => BitVec.ofNat 32 (max l.toNat r.toNat))
  | .cmp k _ _ => some (fun l r _ => flag (condSpec k l r))
  | .cmpi k imm _ => some (fun l _ _ => flag (condSpec k l (immSpec k imm)))
  | .sel _ _ => some (fun l r p => if p = 0 then r else l)
  | .test _ _ => some (fun l r _ => flag (decide (l &&& r ≠ 0)))
  | .pand _ _ => some (fun l r _ => flag (decide (l ≠ 0 ∧ r ≠ 0)))
  | .por _ _ => some (fun l r _ => flag (decide (l ≠ 0 ∨ r ≠ 0)))
  | .pxor _ _ => some (fun l r _ => flag (decide (l = 0) != decide (r = 0)))
  | .pnot _ _ => some (fun l _ _ => flag (decide (l = 0)))
  | _ => none

/-- R142: the quotient truncated towards zero, the remainder with the sign of the dividend. -/
def divideSpec (i : Instr) : Option (Word → Word → Word) :=
  match i with
  | .div _ _ => some (fun l r => if r = 0 then 0xFFFFFFFF else BitVec.ofInt 32 (l.toInt.tdiv r.toInt))
  | .divu _ _ => some (fun l r => if r = 0 then 0xFFFFFFFF else BitVec.ofNat 32 (l.toNat / r.toNat))
  | .rem _ _ => some (fun l r => if r = 0 then l else BitVec.ofInt 32 (l.toInt.tmod r.toInt))
  | .remu _ _ => some (fun l r => if r = 0 then l else BitVec.ofNat 32 (l.toNat % r.toNat))
  | _ => none

/-- R158: the identity words, their fields from bit 31 downwards. -/
def cellIdSpec (c : Cell) (t : Site) : Word :=
  (0 : BitVec 4) ++ BitVec.ofNat 4 (t.index / 4) ++ BitVec.ofNat 2 t.ctx ++ BitVec.ofNat 5 c.ry ++ BitVec.ofNat 5 c.rx ++ BitVec.ofNat 12 c.num

def laneIdSpec (t : Site) (l : Word) : Word :=
  (0 : BitVec 9) ++ BitVec.ofNat 12 t.cell ++ BitVec.ofNat 4 (t.index / 4) ++ l.extractLsb' 0 7

/-! Registers and faults. -/

/-- The marks that a read leaves on a register (R163): none clears FAR, FAR sets it, LAST makes the register invalid. -/
def readMarks (h : Hint) (r : GReg) : GReg :=
  { r with valid := decide (h ≠ .last) && r.valid, far := decide (h = .far) }

/-- LAST over FAR over none (R164). -/
def strongerHint (h k : Hint) : Hint :=
  match h, k with
  | .last, _ | _, .last => .last
  | .far, _ | _, .far => .far
  | .none, .none => .none

/-- FLT_ORIGIN (R329): FIRE_NO [13:0], slot, PE, cell from bit 31 downwards. -/
def originSpec (t : Site) (fire : Word) : Word :=
  fire.setWidth 14 ++ BitVec.ofNat 2 (t.index % 4) ++ BitVec.ofNat 4 (t.index / 4) ++ BitVec.ofNat 12 t.cell

/-- A fault of this rank comes after those that its cell has recorded in this cycle (R294, R328). -/
def CellFaults.inOrder (f : CellFaults) (now rank : Nat) : Prop := f.at? = some now → ∀ x ∈ f.raised, x.1 ≤ rank

/-- A fault has been taken in a cell's registers (R329), of a rank that comes after those of the cycle before it: with VALID clear before, all
five hold it, OVF clear; else only OVF is set. -/
def FaultTaken (s t : State) (rank cell code sub : Nat) (held : Bool) (origin : Word) (addr aux : DWord) (fire : Word) : Prop :=
  ∀ c, s.cell? cell = some c → c.flt.inOrder s.cycle rank → ∀ c', t.cell? cell = some c' →
    if c.flt.regs.cause.getLsbD 31 then c'.flt.regs = { c.flt.regs with cause := c.flt.regs.cause ||| 0x40000 }
    else c'.flt.regs.cause.extractLsb' 0 8 = BitVec.ofNat 8 code ∧ c'.flt.regs.cause.extractLsb' 8 8 = BitVec.ofNat 8 sub ∧
      c'.flt.regs.cause.getLsbD 16 = held ∧ c'.flt.regs.cause.getLsbD 18 = false ∧ c'.flt.regs.cause.getLsbD 31 = true ∧
      c'.flt.regs.origin = origin ∧ c'.flt.regs.addr = addr ∧ c'.flt.regs.aux = aux ∧ c'.flt.regs.fire = fire

/-- A fault raised by the instruction at the site of a state, as its own. -/
def OwnFault (s t : State) (code sub : Nat) (addr aux : DWord) : Prop :=
  FaultTaken s t s.stamps s.site.cell code sub false (originSpec s.site (s.fireNo s.site)) addr aux (s.fireNo s.site)

/-! Frames. -/

/-- What a cell holds besides its blocks: registers and banks, EXC and fault registers, accumulators and weights, ports, copies, the latch. -/
structure CellHeld where
  num : Nat
  regs : RegFiles
  flt : CellFaults
  accs : List (List Acc)
  weights : List (Weights × Weights × Bool)
  ports : List Port
  copies : List CopySlot
  latch : List Word
  deriving DecidableEq, Repr

def Cell.held (c : Cell) : CellHeld :=
  { num := c.num, regs := c.regs, flt := c.flt, accs := c.pes.map (fun (p : Pe) => p.acc),
    weights := c.pes.map (fun (p : Pe) => (p.cur, p.shadow, p.stored)), ports := c.ports, copies := c.copies, latch := c.latch }

/-- The channels of a cell's blocks. -/
def Cell.channels (c : Cell) : List (List InChan × List OutChan) := c.blocks.map (fun (b : Block) => (b.ins, b.outs))

/-- Every register, flag, fault register, accumulator, port and copy slot of every cell stands as it was. -/
def SameCells (s t : State) : Prop := t.cells.map Cell.held = s.cells.map Cell.held

/-- A bank without the times that its bench counts: the end of a wake, and the last cycle that was not idle (R105, R165). -/
def Bank.timeless (b : Bank) : Bank :=
  { st := match b.st with
      | .waking off _ => .waking off 0
      | .off | .keep | .full => b.st
    busyAt := 0 }

def RegFiles.timeless (f : RegFiles) : RegFiles := { f with gBanks := f.gBanks.map Bank.timeless, vBanks := f.vBanks.map Bank.timeless }

/-- Every cell stands as it was, but for the times of its banks, which a new divider of its bench moves (R105, R165). -/
def SameCellsButTimes (s t : State) : Prop :=
  t.cells.map (fun (c : Cell) => { c.held with regs := c.regs.timeless }) = s.cells.map (fun (c : Cell) => { c.held with regs := c.regs.timeless })

/-- Every channel stands as it was. -/
def SameChannels (s t : State) : Prop := t.cells.map Cell.channels = s.cells.map Cell.channels

/-- Every byte of memory stands as it was, and every poison marker, version and page. -/
def SameMemory (s t : State) : Prop :=
  (∀ a, t.mem.look a = s.mem.look a) ∧ t.mem.marks = s.mem.marks ∧ t.mem.vers = s.mem.vers ∧ t.mem.segs = s.mem.segs ∧ t.mem.banks = s.mem.banks

/-- Every system register stands as it was: those of every context and those of the device. -/
def SameSysRegs (s t : State) : Prop := (∀ ctx, t.ctxRegs ctx = s.ctxRegs ctx) ∧ t.dev = s.dev

/-- PRELOAD_DROP of a cell outside every region (R334, R350). -/
def State.preloadDrops (s : State) (n : Nat) : Word := ((s.drops.find? (fun x => x.1 == n)).map (fun x => x.2)).getD 0

/-- The smallest divider that a live region of a die declares for a bench, 8 where none does (R105). -/
def State.smallestDeclared (s : State) (die bench : Nat) : Nat :=
  ((s.live.filter (fun r => r.die == die)).filterMap (fun r => s.declared r bench)).foldl min 8

/-- Every cell on an F-die has the divider that R105 gives its bench, moved up by the steps of its droop trips and of the current ceiling, the
larger of the two (R360). -/
def DividersSet (s t : State) : Prop :=
  ∀ c ∈ t.cells, c.num < 4096 → ∀ b, t.benches.find? (fun b => b.num == c.num / 1024 % 4 * 16 + c.num / 32 % 32 / 2) = some b →
    c.divider = max (dividerUp (s.smallestDeclared (c.num / 1024 % 4) (c.num / 32 % 32 / 2)) b.droop)
      (dividerUp (s.smallestDeclared (c.num / 1024 % 4) (c.num / 32 % 32 / 2)) b.current)

/-- Everything outside the cells and memory stands as it was. -/
def SameDevice (s t : State) : Prop :=
  SameSysRegs s t ∧ t.cycle = s.cycle ∧ t.regions = s.regions ∧ t.hostPorts = s.hostPorts ∧ t.cmds = s.cmds ∧ t.queues = s.queues ∧
    t.seams = s.seams ∧ t.colls = s.colls ∧ t.parked = s.parked ∧ t.launchQ = s.launchQ ∧ t.launches = s.launches ∧ t.boot = s.boot ∧
    t.benches = s.benches ∧ t.outbox = s.outbox ∧ t.msix = s.msix ∧ t.chanMsgs = s.chanMsgs ∧ t.pend = s.pend ∧ t.logQ = s.logQ ∧
    t.hostOps = s.hostOps ∧ t.drops = s.drops

/-- What the register instructions leave: memory, channels, the device, and of their cell the ports, accumulators, weights and copies. -/
def BesideRegs (s t : State) : Prop :=
  SameMemory s t ∧ SameChannels s t ∧ SameDevice s t ∧
    t.cells.map (fun (c : Cell) => { c.held with regs := RegFiles.fresh }) = s.cells.map (fun (c : Cell) => { c.held with regs := RegFiles.fresh })

/-- Nothing but tokens, counters and energy has changed. -/
def Quiet (s t : State) : Prop := SameCells s t ∧ SameChannels s t ∧ SameMemory s t ∧ SameDevice s t

/-! The data plane. -/

/-- A slot-0 instruction executes: its site is there, and its guard, its bank and the time of a sink allow it (R124, R170, R181). -/
abbrev State.goes0 (s : State) (i : Instr) : Prop := s.placed = true ∧ s.ready0 s.site i = true

/-- Lane k of the number at the head of a field of the site. -/
def State.lane (s : State) (f : FieldSel) (k : Nat) : Lane :=
  match (s.slot s.site).num f with
  | some n => laneAt n.lanes k
  | none => .zero

/-- What an execution of a slot-0 instruction takes (R179): of each stream field the first number that no execution has consumed, whose
entries leave the FIFO as they do (R180), and its tokens. -/
def Took0 (i : Instr) (s t : State) : Prop :=
  (∀ f ∈ streamFields i, ∃ pre n post, ((s.slot s.site).field f).nums = pre ++ n :: post ∧ (∀ x ∈ pre, x.used = true) ∧ n.used = false ∧
    ((t.slot s.site).field f).nums = pre ++ { n with used := true } :: post) ∧
  (∀ f, f ∉ streamFields i → ((t.slot s.site).field f).nums = ((s.slot s.site).field f).nums) ∧
  (∀ b, s.block? s.site = some b → ∀ f,
    ((t.slot s.site).field f).toks = (((s.slot s.site).field f).toks).drop (Takes.of (consumesOf i b s.site.index (s.slot s.site)) f)) ∧
  (t.slot s.site).done = (s.slot s.site).done + 1 ∧ (t.slot s.site).issuedAt = some s.cycle

/-- The consumers of the numbers of an instruction: its valid consumer slots, and every link of its PE (R179, R205). -/
def consumersOfNumber (i : Instr) (s : State) (e : Edge) (u : Site) (f : FieldSel) : Prop :=
  (∃ g : Target, i.consumers = [some g] ∧ e = .c0 ∧ u = ⟨s.site.cell, s.site.ctx, g.index.toNat⟩ ∧ f = g.field) ∨
  (∃ (g : Target) (x : Consumer), i.consumers = [some g, x] ∧ e = .c0 ∧ u = ⟨s.site.cell, s.site.ctx, g.index.toNat⟩ ∧ f = g.field) ∨
  (∃ (g : Target) (x : Consumer), i.consumers = [x, some g] ∧ e = .c1 ∧ u = ⟨s.site.cell, s.site.ctx, g.index.toNat⟩ ∧ f = g.field) ∨
  (∃ c n y, s.cell? s.site.cell = some c ∧ c.routes[n]? = some y ∧ y.ctx = s.site.ctx ∧ y.pe = s.site.pe ∧ e = .link n ∧
    u = ⟨y.cell, y.dctx, 4 * y.dpe⟩ ∧ f = y.field)

/-- The number of an execution stands behind those that its instruction is still to emit: these lanes, its consumers, nothing of it sent, no
lane of it stopped; `P` holds of it (R179, R205). -/
def NumberMade (i : Instr) (s t : State) (lane : Nat → Lane) (P : Made → Prop) : Prop :=
  ∃ m, (t.slot s.site).made = (s.slot s.site).made ++ [m] ∧ m.id = (s.slot s.site).nextId ∧ (t.slot s.site).nextId = (s.slot s.site).nextId + 1 ∧
    m.pos = 0 ∧ m.got = [] ∧ m.stopped = 0 ∧ m.lanes.length = 128 ∧ (∀ k < 128, laneAt m.lanes k = lane k) ∧
    (∀ e, e ∈ m.edges ↔ ∃ u f, consumersOfNumber i s e u f) ∧ P m

/-- Nothing has changed but numbers, tokens, counters, energy, and EXC of the cell of the site, which has gained these flags. -/
def OnlyFlags (s t : State) (flags : Word) : Prop :=
  SameMemory s t ∧ SameChannels s t ∧ SameDevice s t ∧ (∀ n, n ≠ s.site.cell → (t.cell? n).map Cell.held = (s.cell? n).map Cell.held) ∧
  ∀ c, s.cell? s.site.cell = some c → ∃ c', t.cell? s.site.cell = some c' ∧ { c'.held with flt := c.flt } = c.held ∧
    c'.flt.regs = c.flt.regs ∧ c'.flt.exc.now = c.flt.exc.now ||| flags

/-- A slot-0 instruction that makes a number runs: each lane is rounded once, and the flags of all lanes go to EXC. -/
def MakesNumber (i : Instr) (s : State) (lane : Nat → Lane × Word) (P : Made → Prop) : Prop :=
  ∃ t, exec i s = .next t ∧ Took0 i s t ∧ NumberMade i s t (fun k => (lane k).1) P ∧ OnlyFlags s t (allFlags (lanes128 lane)) ∧
    t.flight = s.flight ∧ t.spalls = s.spalls

/-- The poisoned terms of one execution at an accumulator, by their origins in lane order: the first raises POISON_SINK of kind 2, each further
one advances counter 5; none leaves the fault registers (R329, R330, R333). -/
def AccSinks (s t : State) (origins : List Word) : Prop :=
  match origins with
  | [] => ∀ c c', s.cell? s.site.cell = some c → t.cell? s.site.cell = some c' → c'.flt.regs = c.flt.regs ∧ c'.counter 5 = c.counter 5
  | o :: rest => FaultTaken s t s.stamps s.site.cell 12 0 false o 0
        (BitVec.ofNat 64 (s.site.cell % 4096 + s.site.index / 4 % 16 * 4096 + s.site.index % 4 * 65536 + 2 * 262144)) (BitVec.ofNat 32 (o.toNat / 262144)) ∧
      ∀ c c', s.cell? s.site.cell = some c → t.cell? s.site.cell = some c' → c'.counter 5 = c.counter 5 + BitVec.ofNat 32 rest.length

/-- The mark of lane k: the first marked operand in the order l, r, p, a, tokens and numbers alike (R183); `src` is the lane of l that it
reads. -/
def State.laneMark (s : State) (i : Instr) (src k : Nat) : Mark := (s.dataOps s.site i).mark src k

/-- The exact result of each lane of an elementwise instruction by the rows of R67 and R187, with its format, rounding and online delay
(R186); l, r, a are values and n is the token of r as a signed integer. -/
def elemSpec (i : Instr) : Option (Fmt × Rnd × Nat × (Val → Val → Val → Int → Exact × Word)) :=
  match i with
  | .dadd f rm _ _ => some (f, rm, 2, fun l r _ _ => exactPair (addVal rm l r))
  | .dsub f rm _ _ => some (f, rm, 2, fun l r _ _ => exactPair (addVal rm l r.negate))
  | .dmul f rm _ _ => some (f, rm, 3, fun l r _ _ => exactPair (mulVal l r))
  | .dfma f rm _ _ => some (f, rm, 4, fun l r a _ => exactPair (fmaVal rm l r a))
  | .dfms f rm _ _ => some (f, rm, 4, fun l r a _ => exactPair (fmaVal rm l r a.negate))
  | .ddiv f rm _ _ => some (f, rm, 4, fun l r _ _ => divVal l r)
  | .dsqrt f rm _ _ => some (f, rm, 4, fun l _ _ _ => sqrtVal l)
  | .drsqrt f rm _ _ => some (f, rm, 4, fun l _ _ _ => rsqrtVal l)
  | .drcp f rm _ _ => some (f, rm, 4, fun l _ _ _ => rcpVal l)
  | .dexp2 f rm _ _ => some (f, rm, 6, fun l _ _ _ => (exp2Val l, 0))
  | .dlog2 f rm _ _ => some (f, rm, 6, fun l _ _ _ => log2Val l)
  | .dscale f rm _ _ => some (f, rm, 2, fun l _ _ n => (Exact.of (l.scale n), 0))
  | .dneg f rm _ _ => some (f, rm, 1, fun l _ _ _ => (Exact.of l.negate, 0))
  | .dcvt f rm _ _ => some (f, rm, 2, fun l _ _ _ => (Exact.of l, 0))
  | .dtrunc f rm _ _ => some (f, rm, 2, fun l _ _ _ => (Exact.of (truncVal l), 0))
  | _ => none

/-- The value of each lane of an instruction that decides early or waits for the signs (R181, R187, R190, R192), before its rounding; its
format, rounding and digits. -/
def decideSpec (i : Instr) : Option (Fmt × Rnd × Nat × (Val → Val → Val → Val → Val)) :=
  match i with
  | .dabs f rm _ _ => some (f, rm, f.digits, fun l _ _ _ => l.abs)
  | .dnorm f rm _ _ => some (f, rm, f.digits, fun l _ _ _ => l)
  | .dmin f rm _ _ => some (f, rm, f.digits, fun l r _ _ => minMax true l r)
  | .dmax f rm _ _ => some (f, rm, f.digits, fun l r _ _ => minMax false l r)
  | .drelu f rm _ _ => some (f, rm, f.digits, fun l _ _ _ => if l.isNan then .nan else if l.isZero || l.neg then .zero false else l)
  | .dclamp f rm _ _ => some (f, rm, f.digits, fun l r _ a => minMax true (minMax false l r) a)
  | .dthr f rm _ _ => some (f, rm, f.digits, fun l r _ _ =>
      if l.isNan then .nan else if !r.isNan && (ordZ l r != .lt) then l else .zero false)
  | .dcmp k _ _ => some (.x, .rne, 1, fun l r _ _ => if cmpVal k l r then .fin false 1 0 else .zero false)
  | .dsel f rm _ _ => some (f, rm, f.digits, fun l r p _ => if p.truth then l else r)
  | .dkill f rm _ _ => some (f, rm, f.digits, fun l _ p _ => if p.truth then l else .zero false)
  | _ => none

/-- The lane of l that lane k of a lane-moving instruction carries, by the token of r (R195); its format and rounding. -/
def moveSpec (i : Instr) : Option (Fmt × Rnd × (Word → Nat → Nat)) :=
  match i with
  | .dlane f rm _ _ => some (f, rm, fun r k => k - k % 2 ^ (r.toNat % 8) + r.toNat / 256 % 128 % 2 ^ (r.toNat % 8))
  | .dshuf f rm _ _ => some (f, rm, fun r k => k ^^^ (r.toNat % 128))
  | .drot f rm _ _ => some (f, rm, fun r k => (k + (128 - r.toNat % 128)) % 128)
  | .dbcast f rm _ _ => some (f, rm, fun _ _ => 0)
  | _ => none

/-- The value of a number as a rational; 0 for the classes that have none. -/
def ratOf (v : Val) : ℚ :=
  match v with
  | .fin n m e => (if n then -1 else 1) * (m : ℚ) * (2 : ℚ) ^ e
  | .nan | .inf _ | .zero _ => 0

/-! Regions. -/

/-- Blocks as the wave or the wedge leaves them in a cell: those of the image, each with its words and channels, outside a firing, with FIRE_NO 0,
nothing in a field and nothing in a channel (R88, R118, R122, R132). -/
def FreshBlocks (l : List ImgBlock) (bs : List Block) : Prop :=
  bs.map (fun b => (b.ctx, b.kind, b.lgFire, b.words)) = l.map (fun b => (b.ctx, b.kind, b.lgFire, b.words)) ∧
  bs.map (fun b => (b.ins.length, b.outs.length)) = l.map (fun b => (b.nin, b.nout)) ∧
  ∀ b ∈ bs, b.fireNo = 0 ∧ b.fired = 0 ∧ b.firing = false ∧ b.fend = none ∧ b.slots = List.replicate b.words.length .empty ∧
    (∀ c ∈ b.ins, c.cp = 0 ∧ c.pp = 0) ∧ ∀ c ∈ b.outs, c.pp = 0 ∧ c.w = 0

/-- These writes through a context's page table, one after another, lead from a state to another (R344). -/
def Written (ctx : Nat) : List (Nat × List Byte) → State → State → Prop
  | [], s, t => t = s
  | x :: rest, s, t => ∃ u, s.quietWrite ctx x.1 x.2 = some u ∧ Written ctx rest u t

/-- The place of block k of a variant, that of no other, inside its rectangle (R101, R115). -/
def ImgVar.placesBlock (v : ImgVar) (k : Nat) (b : ImgBlock) : Prop :=
  v.blocks[k]? = some b ∧ b.x < v.w ∧ b.y < v.h ∧ b.ctx < 4 ∧
    ∀ (j : Nat) (d : ImgBlock), v.blocks[j]? = some d → (d.x, d.y, d.ctx) = (b.x, b.y, b.ctx) → j = k

/-- Channel k of a variant, which alone ends in its input channel, one of the block at its end (R116, R117). -/
def ImgVar.placesChan (v : ImgVar) (k : Nat) (e : ImgChan) (b : ImgBlock) : Prop :=
  v.chans[k]? = some e ∧ (e.dx, e.dy, e.dctx) = (b.x, b.y, b.ctx) ∧ e.dch < b.nin ∧
    ∀ (j : Nat) (d : ImgChan), v.chans[j]? = some d → (d.dx, d.dy, d.dctx, d.dch) = (e.dx, e.dy, e.dctx, e.dch) → j = k

/-- What the register part of a save slot holds (R172, R173): BANK_MAP, the predicates with their marks, which scalar registers it holds, and those
one after another. -/
def RegPart (c : Cell) (d : List Byte) : Prop :=
  (∀ b < 4, fieldAt d 0 4 / 4 ^ b % 4 = (c.regs.gBank b).st.code) ∧ (∀ b < 8, fieldAt d 0 4 / 4 ^ (b + 4) % 4 = (c.regs.vBank b).st.code) ∧
  (∀ n < 8, bitOf (fieldAt d 4 4) n = (c.regs.kReg n).now.mark.isSome ∧ fieldAt d (0x30 + 8 * n) 4 = (c.regs.kReg n).now.val.toNat) ∧
  (∀ n < 64, bitOf (fieldAt d 8 8) n =
    ((c.regs.gReg n).now.valid && (decide ((c.regs.gBank (n / 16)).st = .full) || decide ((c.regs.gBank (n / 16)).st = .keep)))) ∧
  (∀ n < 32, bitOf (fieldAt d 0x20 4) n =
    ((c.regs.vReg n).now.valid && (decide ((c.regs.vBank (n / 4)).st = .full) || decide ((c.regs.vBank (n / 4)).st = .keep)))) ∧
  ∀ n < 64, bitOf (fieldAt d 8 8) n = true →
    fieldAt d (0x70 + 8 * ((List.range n).filter (fun k => bitOf (fieldAt d 8 8) k)).length) 4 = (c.regs.gReg n).now.val.toNat ∧
    bitOf (fieldAt d 0x10 8) n = (c.regs.gReg n).now.far ∧ bitOf (fieldAt d 0x18 8) n = (c.regs.gReg n).now.mark.isSome

/-- The requests of an engine agent reach the physical addresses `pa`: each translates without a walk and unversioned, the memory map admits it, its
scratchpad bank is FULL and no error stands in its DRAM line (R177, R214, R226, R235, R380). -/
def Lands (s : State) (e : Eng) (n : Need) (pa : Nat → Nat) (chunks : List (Nat × Nat)) : Prop :=
  ∀ x ∈ chunks, s.mem.lookup (s.winsOf e) (e.cell / 1024 % 4) e.ctx x.1 n = .ok (pa x.1) false ∧ s.mem.refuses (pa x.1) = false ∧
    (target (pa x.1) = some .spad → (s.mem.bank (spadBank (pa x.1))).st = .full) ∧ s.mem.bad.contains (pa x.1 / 64) = false

/-- Memory after the bytes `l` are laid over the requests in their order. -/
def putLines (pa : Nat → Nat) : List (Nat × Nat) → List Byte → List Host.Cell → List Host.Cell
  | [], _, m => m
  | x :: rest, l, m => putLines pa rest (l.drop x.2) (Memory.setAll m (pa x.1) (l.take x.2))

/-- Memory after the bits of the masks are laid over the requests in their order (R222, R261). -/
def mixLines (pa : Nat → Nat) : List (Nat × Nat) → List Byte → List Byte → List Host.Cell → List Host.Cell
  | [], _, _, m => m
  | x :: rest, l, masks, m => mixLines pa rest (l.drop x.2) (masks.drop x.2)
      (Memory.setAll m (pa x.1) ((List.range x.2).map (fun i => mixByte (Memory.get m (pa x.1 + i)) (masks.getD i 0) (l.getD i 0))))

/-- The products of output column n of a dense row (R74, R252): activation k of the row, with its scale, by the weight of PE (k, n / 128); `l` holds
what the row has read and `e` the agent that has read it. -/
def matTerms (s : State) (rid : Nat) (y : Systolic) (o : MatOp) (l : List RByte) (e : Eng) (n : Nat) : List Term :=
  (List.range o.k).map (fun k =>
    let a := elemLane (o.af.getD .fp32) l e k
    let w := s.sysWeights rid y k (n / 128)
    let sa := scaleAt o.mxa (l.drop (packedBytes (o.af.getD .fp32) o.k)) (k / 32) e
    ⟨a.val, (laneAt w.lanes (n % 128)).val, sa.1, if o.mxb then w.mx.getD (n % 128) 127 else 127,
      a.mark.or (sa.2.or (laneAt w.lanes (n % 128)).mark)⟩)

/-- Output column n of a dense row: its products accumulated from +0, or under INIT from the entry of C or the south-edge lane (R249, R252). -/
def matLane (s : State) (rid : Nat) (y : Systolic) (o : MatOp) (l : List RByte) (e : Eng) (n : Nat) : Lane :=
  (accumulateTerms (o.path y.wf) (o.mxa || o.mxb)
    (s.initLane rid y o (o.path y.wf == .int) (l.drop (packedBytes (o.af.getD .fp32) o.k + if o.mxa then blocks32 o.k else 0)) e n).1
    (matTerms s rid y o l e n)).1

/-- What a row of C holds for an accumulator: its entry under OUT, else its word, rounded once (R76, R251, R252). -/
def matOut1 (o : MatOp) (int : Bool) (a : Lane) : Nat × Bool :=
  (if o.out then entryOf int a.val else (toWord (o.fmt.getD .fp32) o.rm (Exact.of a.val)).1.toNat, a.mark.isSome)

/-- The largest finite magnitude of a floating-point format (R52, R53). -/
def largestSpec (f : Fmt) : ℚ :=
  match f with
  | .fp32 => (2 ^ 24 - 1) * 2 ^ 104
  | .bf16 => 255 * 2 ^ 120
  | .fp16 => 65504
  | .e4m3 => 448
  | .e5m2 => 57344
  | .e2m3 => 15 / 2
  | .e3m2 => 28
  | .e2m1 => 6
  | .x => (2 ^ 32 - 1) * 2 ^ 992
  | .int8 | .int32 | .uint8 | .int4 | .code4 => 0

/-- Significand bits, smallest normal exponent, infinities and NaN of a floating-point format (R51 to R53). -/
def floatSpec (f : Fmt) : Option (Nat × Int × Bool × Bool) :=
  match f with
  | .fp32 => some (24, -126, true, true)
  | .bf16 => some (8, -126, true, true)
  | .fp16 => some (11, -14, true, true)
  | .e4m3 => some (4, -6, false, true)
  | .e5m2 => some (3, -14, true, true)
  | .e2m3 => some (4, 0, false, false)
  | .e3m2 => some (3, -2, false, false)
  | .e2m1 => some (2, 0, false, false)
  | .x => some (32, -1022, true, true)
  | .int8 | .int32 | .uint8 | .int4 | .code4 => none

/-- Exponent bits, fraction bits and bias of a floating-point word, its sign above them (R51). -/
def layoutSpec (f : Fmt) : Option (Nat × Nat × Int) :=
  match f with
  | .fp32 => some (8, 23, 127)
  | .bf16 => some (8, 7, 127)
  | .fp16 => some (5, 10, 15)
  | .e4m3 => some (4, 3, 7)
  | .e5m2 => some (5, 2, 15)
  | .e2m3 => some (2, 3, 1)
  | .e3m2 => some (3, 2, 3)
  | .e2m1 => some (2, 1, 1)
  | .x | .int8 | .int32 | .uint8 | .int4 | .code4 => none

/-- The bits and the signedness of an integer word (R51). -/
def intSpec (f : Fmt) : Option (Nat × Bool) :=
  match f with
  | .int8 => some (8, true)
  | .int32 => some (32, true)
  | .uint8 => some (8, false)
  | .int4 => some (4, true)
  | .fp32 | .bf16 | .fp16 | .e4m3 | .e5m2 | .e2m3 | .e3m2 | .e2m1 | .x | .code4 => none

/-- The low bits of a word as an integer (R51, R54). -/
def intOfWord (bits : Nat) (signed : Bool) (w : Word) : Int :=
  if signed ∧ 2 ^ (bits - 1) ≤ w.toNat % 2 ^ bits then ((w.toNat % 2 ^ bits : Nat) : Int) - 2 ^ bits else ((w.toNat % 2 ^ bits : Nat) : Int)

/-- A result of this sign whose magnitude lies, as f measures it, at r: it is its value, or of at least 80 bits and strictly between its value
and the next. -/
def Encloses (x : Exact) (neg : Bool) (f : ℚ → ℚ) (r : ℚ) : Prop :=
  ∃ (m : Nat) (e : Int), x.val = .fin neg m e ∧ m ≠ 0 ∧ (x.more = false → f (m * 2 ^ e) = r) ∧
    (x.more = true → 2 ^ 80 ≤ m ∧ f (m * 2 ^ e) < r ∧ r < f ((m + 1) * 2 ^ e))

/-! Memory ports and waiting instructions. -/

/-- Nothing has changed but tokens, counters, energy, and one port of the cell of the site. -/
def BesidePort (s t : State) (p : Nat) : Prop :=
  SameMemory s t ∧ SameChannels s t ∧ SameDevice s t ∧
    t.cells.map (fun (c : Cell) => { c.held with ports := [] }) = s.cells.map (fun (c : Cell) => { c.held with ports := [] }) ∧
    ∀ n q, n ≠ s.site.cell ∨ q ≠ p → t.port n q = s.port n q

/-- Every byte of memory stands as it was, and every poison marker. -/
def SameBytes (s t : State) : Prop := (∀ a, t.mem.look a = s.mem.look a) ∧ t.mem.marks = s.mem.marks

/-- An instruction has issued and has put an access at the end of a port, with its operands and firing, to these ranges; it has emitted
nothing yet (R223, R224). -/
def Accesses (i : Instr) (s : State) (p va bit : Nat) (parts : List (Nat × Nat)) (P : State → Prop) : Prop :=
  ∃ t a, exec i s = .next t ∧ Issued i s t ∧ t.flight = s.flight ∧ (t.port s.site.cell p).accs = (s.port s.site.cell p).accs ++ [a] ∧
    a.site = s.site ∧ a.instr = i ∧ a.ops = s.opnds s.site i ∧ a.fire = s.fireNo s.site ∧ a.va = va ∧ a.bit = bit ∧
    a.parts.map (fun (x : Part) => (x.va, x.size)) = parts ∧ SameChannels s t ∧ P t

/-- An instruction has issued and waits: it has emitted nothing yet, and its operands stand in the list of waiting instructions. -/
def Waits (i : Instr) (s : State) (P : State → Prop) : Prop :=
  ∃ t q, exec i s = .next t ∧ Issued i s t ∧ t.flight = s.flight ∧ t.pend = s.pend ++ [q] ∧ q.site = s.site ∧ q.instr = i ∧
    q.ops = s.opnds s.site i ∧ q.fire = s.fireNo s.site ∧ P t

/-- The only access of a port, ready and translated to one part of a scratchpad line in a FULL bank, has its turn; its stream has no run (R176, R177). -/
def SpadTurn (s : State) (cell port : Nat) (a : Access) (n pa : Nat) (ver : Bool) : Prop :=
  s.thermal = false ∧ (s.cell? cell).isSome = true ∧ (s.port cell port).accs = [a] ∧ a.site.cell = cell ∧ a.stage = .ready ∧
    s.mayLeave cell a = true ∧ (∃ va page, a.parts = [⟨va, n, some pa, ver, page, none, false⟩]) ∧ a.dead = none ∧ target pa = some .spad ∧
    (s.mem.bank (spadBank pa)).st = .full ∧ pa % 64 + n ≤ 64 ∧ (s.slot a.site).run = none

/-- The only access of a port is performed in its turn and answered with one token in the port's. -/
def Replies (s : State) (cell port : Nat) (a : Access) (P : State → Tok → Prop) : Prop :=
  ∃ u t tok, exec (.memoryReply cell port 0) s = .next u ∧ exec (.memoryReply cell port 64) u = .next t ∧ u.flight = s.flight ∧
    (t.port cell port).accs = [] ∧ SameChannels s t ∧ t.flight = s.flight ++ s.flights a.site [(a.target, tok)] ∧ P t tok

/-- The only access of a port takes a fault in its turn and is dropped: it emits nothing and changes no byte. -/
def Drops (s : State) (cell port : Nat) (a : Access) (code : Nat) (aux : DWord) : Prop :=
  ∃ u t, exec (.memoryReply cell port 0) s = .next u ∧ exec (.memoryReply cell port 64) u = .next t ∧ t.flight = s.flight ∧
    (t.port cell port).accs = [] ∧ SameMemory s t ∧
    FaultTaken s t a.stamp cell code 0 false (originSpec a.site a.fire) (BitVec.ofNat 64 a.va) aux a.fire

/-- The only access of a port waits at its line. -/
def WaitsThere (s : State) (cell port : Nat) (a : Access) : Prop :=
  ∃ u, exec (.memoryReply cell port 0) s = .next u ∧ u.flight = s.flight ∧ SameMemory s u ∧
    (u.port cell port).accs.map (fun x => (x.stage, x.parts)) = [(a.stage, a.parts)]

/-- The bytes of a line that an access of an element reads or writes: one part of n bytes, or two. -/
def elementRanges (e : Place) : List (Nat × Nat) :=
  if e.bytes ≤ 64 - e.va % 64 then [(e.va, e.bytes)]
  else [(e.va, 64 - e.va % 64), ((e.va + (64 - e.va % 64)) % 2 ^ 64, e.bytes - (64 - e.va % 64))]

/-- The element instructions: port, format (none for RECLAIM, which takes that of the port) and whether their l token is a coordinate
(R219, R222, R227). -/
def elementSpec (i : Instr) : Option (Nat × Option Fmt × Bool) :=
  match i with
  | .lds p _ f _ | .ldv p _ f _ => some (p.toNat, some f, false)
  | .sts p f _ | .stv p f _ => some (p.toNat, some f, false)
  | .aggat p f _ | .agsct p f _ => some (p.toNat, some f, true)
  | .reclaim p _ => some (p.toNat, none, false)
  | _ => none

/-- The loads whose replies are the element alone, and the stores that write it alone, with their formats (R222, R309). -/
def loadFmt (i : Instr) : Option Fmt :=
  match i with
  | .lds _ _ f _ | .aggat _ f _ => some f
  | .lda _ _ _ _ => some .int32
  | _ => none

def storeFmt (i : Instr) : Option Fmt :=
  match i with
  | .sts _ f _ | .agsct _ f _ => some f
  | .stl _ _ rel _ => if rel then none else some .int32
  | _ => none

end Sys2Proof.Machine
end

