-- ==== Sys2Proof/Certificates/Slice0/Obligations.lean ====
section
/-! DEFINITION. The statements for the provers. -/

open Sys2Proof Sys2Proof.Machine

/-! The control plane. -/

/-- R140: MOV, CONST and SHLOR run, emit out(value), and touch nothing else. -/
def Obligations.BuildResults : Prop :=
  ∀ i s f, buildSpec i = some f → s.goes i → Runs i s (outs i ⟨f (s.lval i), s.omark i⟩) (Quiet s)

/-- R141 over the integers: ADD to MULI run and emit out(value). -/
def Obligations.ArithmeticResults : Prop :=
  ∀ i s f, arithSpec i = some f → s.goes i → Runs i s (outs i ⟨f (s.lval i) (s.rval i), s.omark i⟩) (Quiet s)

/-- R144: the logic and shift instructions run and emit out(value). R145 and R146: CLZ, POPC, BREV and BFX run and emit out(value). -/
def Obligations.LogicBitResults : Prop :=
  (∀ i s f, logicSpec i = some f → s.goes i → Runs i s (outs i ⟨f (s.lval i) (s.rval i), s.omark i⟩) (Quiet s)) ∧
  ((∀ i s f, bitsSpec i = some f → s.goes i → Runs i s (outs i ⟨f (s.lval i), s.omark i⟩) (Quiet s)) ∧
    ∀ sx wm1 low c0 s, s.goes (.bfx sx wm1 low c0) →
      Runs (.bfx sx wm1 low c0) s [(c0, ⟨fieldSpec sx (wm1.toNat + 1) low.toNat (s.lval (.bfx sx wm1 low c0)), s.omark (.bfx sx wm1 low c0)⟩)] (Quiet s))

/-- R135, R147 to R150: the comparing, selecting and predicate instructions run and emit out(value). -/
def Obligations.ChooseResults : Prop :=
  ∀ i s f, chooseSpec i = some f → s.goes i → Runs i s (outs i ⟨f (s.lval i) (s.rval i) (s.pval i), s.omark i⟩) (Quiet s)

/-- R151 to R153: STEER sends l to C0 where p is true, else to C1; MERGE sends the token that p selects and leaves the other field; GATE sends l
where the truth of p is its own, else discards it; DROP discards l. A marked token that is discarded advances counter 3. -/
def Obligations.PathResults : Prop :=
  (∀ c1 c0 s, s.goes (.steer c1 c0) →
    Runs (.steer c1 c0) s
      [(if s.pval (.steer c1 c0) = 0 then c1 else c0, ⟨s.lval (.steer c1 c0), s.omark (.steer c1 c0)⟩)] (Quiet s)) ∧
  (∀ c1 c0 s p x, s.goes (.merge c1 c0) → (s.slot s.site).head .p = some p →
    (s.slot s.site).head (if p.v = 0 then .r else .l) = some x →
    Runs (.merge c1 c0) s [(c0, ⟨x.v, x.mark.or p.mark⟩), (c1, ⟨x.v, x.mark.or p.mark⟩)] (fun t => Quiet s t ∧
      ((t.slot s.site).field (if p.v = 0 then .l else .r)).toks = ((s.slot s.site).field (if p.v = 0 then .l else .r)).toks ∧
      ((t.slot s.site).field (if p.v = 0 then .r else .l)).toks = (((s.slot s.site).field (if p.v = 0 then .r else .l)).toks).tail)) ∧
  (∀ want c1 c0 s, s.goes (.gate want c1 c0) → decide (s.pval (.gate want c1 c0) ≠ 0) = want →
    Runs (.gate want c1 c0) s (outs (.gate want c1 c0) ⟨s.lval (.gate want c1 c0), s.omark (.gate want c1 c0)⟩) (Quiet s)) ∧
  (∀ want c1 c0 s, s.goes (.gate want c1 c0) → decide (s.pval (.gate want c1 c0) ≠ 0) ≠ want →
    Runs (.gate want c1 c0) s [] (fun t => Quiet s t ∧ ∀ c, s.cell? s.site.cell = some c → ∀ c', t.cell? s.site.cell = some c' →
      c'.counter 3 = c.counter 3 + (if (tokMark (s.opnds s.site (.gate want c1 c0)).l).isSome then 1 else 0))) ∧
  (∀ s, s.goes .drop → Runs .drop s [] (fun t => Quiet s t ∧ ∀ c, s.cell? s.site.cell = some c → ∀ c', t.cell? s.site.cell = some c' →
      c'.counter 3 = c.counter 3 + (if (tokMark (s.opnds s.site .drop).l).isSome then 1 else 0)))

/-- R155 to R157: an execution of CNT emits b + e, and the last of the n removes b; CNTX emits the index on C0 and its last-flag on C1, and with
a count of 0 consumes and emits nothing; ACCUM adds l to its sum, and emits and clears it where p is true. R122, R158: FIRENO emits FIRE_NO, CELLID and LANEID their identity words.
The mark of ACCUM's sum, that of the sum before or else of the operand and the predicate, is the reading of log 25. -/
def Obligations.SequenceResults : Prop :=
  ((∀ n c0 s, s.goes (.cnt n c0) → 1 ≤ n.toNat →
      Runs (.cnt n c0) s [(c0, ⟨s.lval (.cnt n c0) + BitVec.ofNat 32 (s.slot s.site).seq, s.omark (.cnt n c0)⟩)] (fun t => Quiet s t ∧
        (t.slot s.site).seq = (if (s.slot s.site).seq + 1 < n.toNat then (s.slot s.site).seq + 1 else 0) ∧
        ((t.slot s.site).field .l).toks = if (s.slot s.site).seq + 1 < n.toNat then ((s.slot s.site).field .l).toks
          else (((s.slot s.site).field .l).toks).tail)) ∧
    (∀ c1 c0 s, s.goes (.cntx c1 c0) → s.rval (.cntx c1 c0) ≠ 0 →
      Runs (.cntx c1 c0) s
        [(c0, ⟨s.lval (.cntx c1 c0) + BitVec.ofNat 32 (s.slot s.site).seq, s.omark (.cntx c1 c0)⟩),
         (c1, ⟨flag (decide ((s.slot s.site).seq + 1 = (s.rval (.cntx c1 c0)).toNat)), s.omark (.cntx c1 c0)⟩)] (fun t => Quiet s t ∧
        (t.slot s.site).seq = if (s.slot s.site).seq + 1 < (s.rval (.cntx c1 c0)).toNat then (s.slot s.site).seq + 1 else 0)) ∧
    (∀ c1 c0 s, s.goes (.cntx c1 c0) → s.rval (.cntx c1 c0) = 0 → Runs (.cntx c1 c0) s [] (Quiet s)) ∧
    (∀ c1 c0 s, s.goes (.accum c1 c0) → s.pval (.accum c1 c0) = 0 →
      Runs (.accum c1 c0) s [] (fun t => Quiet s t ∧ (t.slot s.site).sum = (s.slot s.site).sum + s.lval (.accum c1 c0) ∧
        (t.slot s.site).sumMark = ((s.slot s.site).sumMark).or (tokMark (s.opnds s.site (.accum c1 c0)).l))) ∧
    (∀ c1 c0 s, s.goes (.accum c1 c0) → s.pval (.accum c1 c0) ≠ 0 →
      Runs (.accum c1 c0) s (outs (.accum c1 c0) ⟨(s.slot s.site).sum + s.lval (.accum c1 c0),
          (((s.slot s.site).sumMark).or (tokMark (s.opnds s.site (.accum c1 c0)).l)).or (tokMark (s.opnds s.site (.accum c1 c0)).p)⟩)
        (fun t => Quiet s t ∧ (t.slot s.site).sum = 0 ∧ (t.slot s.site).sumMark = none))) ∧
  ((∀ c1 c0 s b, s.goes (.fireno c1 c0) → s.block? s.site = some b →
      Runs (.fireno c1 c0) s (outs (.fireno c1 c0) ⟨b.fireNo, s.omark (.fireno c1 c0)⟩) (Quiet s)) ∧
    (∀ c1 c0 s c, s.goes (.cellid c1 c0) → s.cell? s.site.cell = some c →
      Runs (.cellid c1 c0) s (outs (.cellid c1 c0) ⟨cellIdSpec c s.site, s.omark (.cellid c1 c0)⟩) (Quiet s)) ∧
    (∀ c1 c0 s, s.goes (.laneid c1 c0) →
      Runs (.laneid c1 c0) s (outs (.laneid c1 c0) ⟨laneIdSpec s.site (s.lval (.laneid c1 c0)), s.omark (.laneid c1 c0)⟩) (Quiet s)))

/-- R137, R142, R143: DIV, DIVU, REM and REMU take their operands, emit nothing at their issue and occupy the PE's ALU, with 33 bench cycles
to come; DIVIDE_COMPLETE counts a bench cycle down, and in the last emits the quotient or the remainder and frees the ALU. -/
def Obligations.DivisionResults : Prop :=
  (∀ i s f, divideSpec i = some f → s.goes i →
    Runs i s [] (fun t => Quiet s t ∧ ∀ c, t.cell? s.site.cell = some c →
      (c.pe s.site.pe).division = some ⟨s.site, ⟨f (s.lval i) (s.rval i), s.omark i⟩, 33⟩)) ∧
  (∀ s cell pe c d, s.cell? cell = some c → (c.pe pe).division = some d → pe < c.pes.length → s.benchActs c = true → 1 < d.left →
    ∃ t c', exec (.divideComplete cell pe) s = .next t ∧ t.flight = s.flight ∧ Quiet s t ∧ t.cell? cell = some c' ∧
      (c'.pe pe).division = some { d with left := d.left - 1 }) ∧
  (∀ s cell pe c d b i, s.cell? cell = some c → (c.pe pe).division = some d → pe < c.pes.length → d.site.cell = cell →
    c.block? d.site.ctx = some b → b.instr? d.site.index = some i → s.benchActs c = true → d.left ≤ 1 →
    ∃ t, exec (.divideComplete cell pe) s = .next t ∧ t.flight = s.flight ++ s.flights d.site (outs i d.tok) ∧ Quiet s t ∧
      ∀ c', t.cell? cell = some c' → (c'.pe pe).division = none)

/-- R139: no instruction of the control-plane chapter touches a register, a channel, memory, EXC or a fault register. -/
def Obligations.ControlPlaneTouchesNothing : Prop :=
  ∀ i s t, 1 ≤ i.opcode → i.opcode ≤ 0x35 → exec i s = .next t → Quiet s t

/-- R124: where the guard of a control-plane instruction fails, or its PE does not grant it, nothing happens. R125: once a control-plane instruction has issued at a PE, no control instruction of that PE issues in the same cycle. -/
def Obligations.IssueGuards : Prop :=
  (∀ i s, 1 ≤ i.opcode → i.opcode ≤ 0x35 → s.ready s.site i = false → exec i s = .next s) ∧
  (∀ i s t, 1 ≤ i.opcode → i.opcode ≤ 0x35 → s.goes i → exec i s = .next t →
      ∀ (u : Site) (j : Instr), u.cell = s.site.cell → u.pe = s.site.pe → t.ready u j = false)

/-! Registers. -/

/-- R163, R164, R168: RD of a valid register of a FULL bank emits its value, its mark after the trigger's, and leaves the marks of its hint; no
other register changes. RDP emits the predicate and changes nothing. -/
def Obligations.RegisterReads : Prop :=
  (∀ g h c0 s c, s.goes (.rd g h c0) → s.cell? s.site.cell = some c → ((c.regs.gReg g.toNat).view s.cycle).valid = true →
    (c.regs.gBank (g.toNat / 16)).st = .full →
    Runs (.rd g h c0) s
      [(c0, ⟨((c.regs.gReg g.toNat).view s.cycle).val, (tokMark (s.opnds s.site (.rd g h c0)).l).or ((c.regs.gReg g.toNat).view s.cycle).mark⟩)]
      (fun t => BesideRegs s t ∧ ∀ c', t.cell? s.site.cell = some c' →
        (∀ n, n ≠ g.toNat → c'.regs.gReg n = c.regs.gReg n) ∧ c'.regs.v = c.regs.v ∧ c'.regs.k = c.regs.k ∧ c'.regs.vBanks = c.regs.vBanks ∧
        (g.toNat < c.regs.g.length → (c.regs.gReg g.toNat).at? ≠ some s.cycle →
          (c'.regs.gReg g.toNat).now = readMarks h (c.regs.gReg g.toNat).now))) ∧
  (∀ k h c0 s c, s.goes (.rdp k h c0) → s.cell? s.site.cell = some c →
    Runs (.rdp k h c0) s
      [(c0, ⟨((c.regs.kReg k.toNat).view s.cycle).val, (tokMark (s.opnds s.site (.rdp k h c0)).l).or ((c.regs.kReg k.toNat).view s.cycle).mark⟩)]
      (Quiet s))

/-- R163, R164, R168: WR and WRP write their l token with its mark, WR leaving the register valid and not FAR, and emit it; no other register
changes. The register has had no earlier access in the cycle. -/
def Obligations.RegisterWrites : Prop :=
  (∀ g c0 s c, s.goes (.wr g c0) → s.cell? s.site.cell = some c →
    Runs (.wr g c0) s [(c0, ⟨s.lval (.wr g c0), tokMark (s.opnds s.site (.wr g c0)).l⟩)]
      (fun t => BesideRegs s t ∧ ∀ c', t.cell? s.site.cell = some c' →
        (∀ n, n ≠ g.toNat → c'.regs.gReg n = c.regs.gReg n) ∧ c'.regs.v = c.regs.v ∧ c'.regs.k = c.regs.k ∧ c'.regs.vBanks = c.regs.vBanks ∧
        (g.toNat < c.regs.g.length → (c.regs.gReg g.toNat).at? ≠ some s.cycle →
          (c'.regs.gReg g.toNat).now = ⟨s.lval (.wr g c0), true, false, tokMark (s.opnds s.site (.wr g c0)).l⟩))) ∧
  (∀ k c0 s c, s.goes (.wrp k c0) → s.cell? s.site.cell = some c →
    Runs (.wrp k c0) s [(c0, ⟨s.lval (.wrp k c0), tokMark (s.opnds s.site (.wrp k c0)).l⟩)]
      (fun t => BesideRegs s t ∧ ∀ c', t.cell? s.site.cell = some c' →
        (∀ n, n ≠ k.toNat → c'.regs.kReg n = c.regs.kReg n) ∧ c'.regs.v = c.regs.v ∧ c'.regs.g = c.regs.g ∧
        c'.regs.gBanks = c.regs.gBanks ∧ c'.regs.vBanks = c.regs.vBanks ∧
        (k.toNat < c.regs.k.length → (c.regs.kReg k.toNat).at? ≠ some s.cycle →
          (c'.regs.kReg k.toNat).now = ⟨s.lval (.wrp k c0), tokMark (s.opnds s.site (.wrp k c0)).l⟩)))

/-- R163, R164: in one cycle every read returns the value held before it, whatever has been read or written; the marks of the read with the
strongest hint stand on the register; of two writes the value of the higher rank remains, whichever is performed first; a written value
prevails over read marks. The second part says so of every register file, the last two what the marks of a scalar and of a vector register
are. -/
def Obligations.SameCycleAccesses : Prop :=
  (∀ (r : Timed GReg) (now a b : Nat) (x y : GReg) (h k : Hint),
    ((r.write now a x).view now = r.view now ∧ (r.readMark now h GReg.marked).view now = r.view now) ∧
    (a < b → ((r.write now a x).write now b y).now = ((r.write now b y).write now a x).now) ∧
    (((r.write now a x).readMark now h GReg.marked).now = (r.write now a x).now ∧
      ((r.readMark now h GReg.marked).write now a x).now = (r.write now a x).now) ∧
    ((r.readMark now h GReg.marked).readMark now k GReg.marked).now = ((r.readMark now k GReg.marked).readMark now h GReg.marked).now) ∧
  (∀ (α : Type) (r : Timed α) (now a b : Nat) (x y : α) (h k : Hint) (mark : Hint → α → α), r.at? ≠ some now →
    (r.write now a x).now = x ∧ (a < b → ((r.write now a x).write now b y).now = y ∧ ((r.write now b y).write now a x).now = y) ∧
    (r.readMark now h mark).now = mark h r.now ∧ ((r.readMark now h mark).readMark now k mark).now = mark (strongerHint h k) r.now ∧
    ((r.readMark now h mark).write now a x).now = x ∧ ((r.write now a x).readMark now h mark).now = x ∧
    ((r.readMark now h mark).view now = r.now ∧ (r.write now a x).view now = r.now)) ∧
  (∀ (h : Hint) (r : GReg), GReg.marked h r = readMarks h r) ∧
  ∀ (h : Hint) (r : VReg), VReg.marked h r = { r with valid := decide (h ≠ .last) && r.valid, far := decide (h = .far) }

/-- R167, R329, R332: RD of an invalid register, or of one in a bank that is OFF or waking from OFF, raises DEAD_REG with the register in FLT_ADDR,
delivers a token poisoned by the reading instruction, and leaves every register and every other bank; the bank's idle run ends, and a bank in
KEEP begins its wake (R165). The token's value is free (log 5). -/
def Obligations.DeadReadRaises : Prop :=
  ∀ g h c0 s c, s.goes (.rd g h c0) → s.cell? s.site.cell = some c → deadRead (c.regs.gBank (g.toNat / 16)) ((c.regs.gReg g.toNat).view s.cycle).valid = true →
    ∃ v, Runs (.rd g h c0) s [(c0, ⟨v, some (originSpec s.site (s.fireNo s.site))⟩)] (fun t => OwnFault s t 1 0 (BitVec.ofNat 64 g.toNat) 0 ∧
      ∀ c', t.cell? s.site.cell = some c' → c'.regs.g = c.regs.g ∧ c'.regs.v = c.regs.v ∧ c'.regs.k = c.regs.k ∧ c'.regs.vBanks = c.regs.vBanks ∧
        (∀ b, b ≠ g.toNat / 16 → c'.regs.gBank b = c.regs.gBank b) ∧
        ((c.regs.gBank (g.toNat / 16)).st = .full → c'.regs.gBank (g.toNat / 16) = ⟨.full, s.cycle⟩) ∧
        ((c.regs.gBank (g.toNat / 16)).st = .keep → ∃ due, (c'.regs.gBank (g.toNat / 16)).st = .waking false due) ∧
        ((c.regs.gBank (g.toNat / 16)).st = .off → (c'.regs.gBank (g.toNat / 16)).st = .off))

/-- R165, R171: with a register bank, scalar or vector, that is not WAKING and that no access awaits, BANKK puts a FULL bank into KEEP and BANKO a
FULL or KEEP bank OFF with every register of it invalid, and each emits the code of the state before; BANKW emits the code of a FULL bank
at once, and of another starts the wake, in 4 bench cycles from KEEP and 24 from OFF, and waits. -/
def Obligations.ForcedRegisterBanks : Prop :=
  (∀ g file c0 s c, file ≠ .spad → s.goes (.bankk g file c0) → s.cell? s.site.cell = some c →
    (s.bankOf s.site.cell (bankName g file 0)).isWaking = false → c.bankAwaited (bankName g file 0) = false →
    Runs (.bankk g file c0) s [(c0, ⟨BitVec.ofNat 32 (s.bankOf s.site.cell (bankName g file 0)).st.code, s.omark (.bankk g file c0)⟩)]
      (fun t => BesideRegs s t ∧ (∀ b, b ≠ bankName g file 0 → t.bankOf s.site.cell b = s.bankOf s.site.cell b) ∧
        (t.bankOf s.site.cell (bankName g file 0)).st = (if (s.bankOf s.site.cell (bankName g file 0)).st = .full then .keep
          else (s.bankOf s.site.cell (bankName g file 0)).st) ∧
        ∀ c', t.cell? s.site.cell = some c' → c'.regs.g = c.regs.g ∧ c'.regs.v = c.regs.v ∧ c'.regs.k = c.regs.k)) ∧
  (∀ g file c0 s c, file ≠ .spad → s.goes (.banko g file c0) → s.cell? s.site.cell = some c →
    (s.bankOf s.site.cell (bankName g file 0)).isWaking = false → c.bankAwaited (bankName g file 0) = false →
    Runs (.banko g file c0) s [(c0, ⟨BitVec.ofNat 32 (s.bankOf s.site.cell (bankName g file 0)).st.code, s.omark (.banko g file c0)⟩)]
      (fun t => BesideRegs s t ∧ (∀ b, b ≠ bankName g file 0 → t.bankOf s.site.cell b = s.bankOf s.site.cell b) ∧
        (t.bankOf s.site.cell (bankName g file 0)).st = .off ∧
        ∀ c', t.cell? s.site.cell = some c' → c'.regs.k = c.regs.k ∧
          (file = .scalar → c'.regs.v = c.regs.v ∧ (∀ n, n / 16 ≠ g.toNat / 16 → c'.regs.gReg n = c.regs.gReg n) ∧
            ((c.regs.gBank (g.toNat / 16)).st ≠ .off → ∀ n, n / 16 = g.toNat / 16 → (c'.regs.gReg n).now.valid = false)) ∧
          (file = .vector → c'.regs.g = c.regs.g ∧ (∀ n, n / 4 ≠ g.toNat / 4 → c'.regs.vReg n = c.regs.vReg n) ∧
            ((c.regs.vBank (g.toNat / 4)).st ≠ .off → ∀ n, n / 4 = g.toNat / 4 → (c'.regs.vReg n).now.valid = false)))) ∧
  (∀ g file c0 s c, file ≠ .spad → s.goes (.bankw g file c0) → s.cell? s.site.cell = some c → c.bankAwaited (bankName g file 0) = false →
    ((s.bankOf s.site.cell (bankName g file 0)).st = .full → Runs (.bankw g file c0) s [(c0, ⟨2, s.omark (.bankw g file c0)⟩)] (Quiet s)) ∧
    (∀ fromOff, (s.bankOf s.site.cell (bankName g file 0)).st = (if fromOff then .off else .keep) →
      (file = .scalar → g.toNat / 16 < c.regs.gBanks.length) → (file = .vector → g.toNat / 4 < c.regs.vBanks.length) →
      Waits (.bankw g file c0) s (fun t => BesideRegs s { t with pend := s.pend } ∧
        (t.bankOf s.site.cell (bankName g file 0)).st = .waking fromOff (s.cycle + (if fromOff then 24 else 4) * c.divider) ∧
        ∀ c', t.cell? s.site.cell = some c' → c'.regs.g = c.regs.g ∧ c'.regs.v = c.regs.v ∧ c'.regs.k = c.regs.k)))

/-- R165, R177, R178: under .SPAD each of BANKK, BANKO and BANKW raises PROT for a bank number past the 2,048 banks and changes no bank. BANKK of a
bank whose live segments are the context's own puts it from FULL into KEEP, BANKO kills them and puts it OFF, and each raises PROT for a
bank with another context's segments. BANKW of a FULL bank emits its code at once. -/
def Obligations.ForcedScratchpadBanks : Prop :=
  (∀ i g c0 s, i = .bankk g .spad c0 ∨ i = .banko g .spad c0 ∨ i = .bankw g .spad c0 → s.goes i → 2048 ≤ (s.lval i).toNat →
    Runs i s [] (fun t => OwnFault s t 5 0 0 (BitVec.ofNat 64 i.opcode) ∧ SameMemory s t)) ∧
  (∀ g c0 s c, s.goes (.bankk g .spad c0) → s.cell? s.site.cell = some c → (s.lval (.bankk g .spad c0)).toNat < 2048 →
    (s.mem.bank (s.lval (.bankk g .spad c0)).toNat).isWaking = false → s.mem.bankOwned (s.lval (.bankk g .spad c0)).toNat c.context = true →
    Runs (.bankk g .spad c0) s
      [(c0, ⟨BitVec.ofNat 32 (s.mem.bank (s.lval (.bankk g .spad c0)).toNat).st.code, s.omark (.bankk g .spad c0)⟩)]
      (fun t => SameCells s t ∧ t.mem.bytes = s.mem.bytes ∧ t.mem.segs = s.mem.segs ∧
        (∀ b, b ≠ (s.lval (.bankk g .spad c0)).toNat → t.mem.bank b = s.mem.bank b) ∧
        (t.mem.bank (s.lval (.bankk g .spad c0)).toNat).st = if (s.mem.bank (s.lval (.bankk g .spad c0)).toNat).st = .full then .keep
          else (s.mem.bank (s.lval (.bankk g .spad c0)).toNat).st)) ∧
  (∀ g c0 s c, s.goes (.banko g .spad c0) → s.cell? s.site.cell = some c → (s.lval (.banko g .spad c0)).toNat < 2048 →
    (s.mem.bank (s.lval (.banko g .spad c0)).toNat).isWaking = false → s.mem.bankOwned (s.lval (.banko g .spad c0)).toNat c.context = true →
    Runs (.banko g .spad c0) s
      [(c0, ⟨BitVec.ofNat 32 (s.mem.bank (s.lval (.banko g .spad c0)).toNat).st.code, s.omark (.banko g .spad c0)⟩)]
      (fun t => SameCells s t ∧ (t.mem.bank (s.lval (.banko g .spad c0)).toNat).st = .off ∧ t.mem.bytes = s.mem.bytes ∧
        ((s.mem.bank (s.lval (.banko g .spad c0)).toNat).st ≠ .off →
          ∀ x ∈ t.mem.segs, spadBank (x.page * 4096) = (s.lval (.banko g .spad c0)).toNat → x.live = false) ∧
        ∀ x ∈ s.mem.segs, spadBank (x.page * 4096) ≠ (s.lval (.banko g .spad c0)).toNat → x ∈ t.mem.segs)) ∧
  (∀ i g c0 s c, i = .bankk g .spad c0 ∨ i = .banko g .spad c0 → s.goes i → s.cell? s.site.cell = some c → (s.lval i).toNat < 2048 →
    (s.mem.bank (s.lval i).toNat).isWaking = false → s.mem.bankOwned (s.lval i).toNat c.context = false →
    Runs i s [] (fun t => OwnFault s t 5 0 0 (BitVec.ofNat 64 i.opcode) ∧ SameMemory s t)) ∧
  (∀ g c0 s, s.goes (.bankw g .spad c0) → (s.lval (.bankw g .spad c0)).toNat < 2048 →
    (s.mem.bank (s.lval (.bankw g .spad c0)).toNat).st = .full → Runs (.bankw g .spad c0) s [(c0, ⟨2, s.omark (.bankw g .spad c0)⟩)] (Quiet s))

/-- R165, R177: an idle FULL register bank, scalar (0 to 3) or vector (4 to 11), goes OFF with nothing valid and into KEEP with every valid register
FAR; a wake whose time has come makes the bank FULL; so too the banks of the scratchpad, by their live segments. -/
def Obligations.BankSteps : Prop :=
  (∀ s cell c b, s.cell? cell = some c → b < 4 → (c.regs.gBank b).st = .full → (c.regs.gBank b).busyAt + 9 * c.divider ≤ s.cycle →
    c.bankAwaited (.scalar b) = false →
    ((∀ n < 16, (c.regs.gReg (b * 16 + n)).now.valid = false) →
      ∃ t c', exec (.bankIdleTimeout cell b) s = .next t ∧ BesideRegs s t ∧ t.cell? cell = some c' ∧ (c'.regs.gBank b).st = .off) ∧
    ((∀ n < 16, (c.regs.gReg (b * 16 + n)).now.valid = true → (c.regs.gReg (b * 16 + n)).now.far = true) →
      (∃ n < 16, (c.regs.gReg (b * 16 + n)).now.valid = true) →
      ∃ t c', exec (.bankIdleTimeout cell b) s = .next t ∧ BesideRegs s t ∧ t.cell? cell = some c' ∧ (c'.regs.gBank b).st = .keep ∧ c'.regs.g = c.regs.g)) ∧
  (∀ s cell c b, s.cell? cell = some c → b < 8 → (c.regs.vBank b).st = .full → (c.regs.vBank b).busyAt + 9 * c.divider ≤ s.cycle →
    c.bankAwaited (.vector b) = false →
    ((∀ n < 4, (c.regs.vReg (b * 4 + n)).now.valid = false) →
      ∃ t c', exec (.bankIdleTimeout cell (4 + b)) s = .next t ∧ BesideRegs s t ∧ t.cell? cell = some c' ∧ (c'.regs.vBank b).st = .off) ∧
    ((∀ n < 4, (c.regs.vReg (b * 4 + n)).now.valid = true → (c.regs.vReg (b * 4 + n)).now.far = true) →
      (∃ n < 4, (c.regs.vReg (b * 4 + n)).now.valid = true) →
      ∃ t c', exec (.bankIdleTimeout cell (4 + b)) s = .next t ∧ BesideRegs s t ∧ t.cell? cell = some c' ∧ (c'.regs.vBank b).st = .keep ∧ c'.regs.v = c.regs.v)) ∧
  (∀ s cell c b fo due, s.cell? cell = some c → due ≤ s.cycle →
    (b < 4 → (c.regs.gBank b).st = .waking fo due → ∃ t c', exec (.bankWakeDone cell b) s = .next t ∧ BesideRegs s t ∧ t.cell? cell = some c' ∧
      (c'.regs.gBank b).st = .full ∧ c'.regs.g = c.regs.g ∧ c'.regs.v = c.regs.v) ∧
    ((c.regs.vBank b).st = .waking fo due → ∃ t c', exec (.bankWakeDone cell (4 + b)) s = .next t ∧ BesideRegs s t ∧ t.cell? cell = some c' ∧
      (c'.regs.vBank b).st = .full ∧ c'.regs.g = c.regs.g ∧ c'.regs.v = c.regs.v)) ∧
  (∀ s b, (s.mem.bank b).st = .full → (s.mem.bank b).busyAt + 9 ≤ s.cycle →
    ((∀ x ∈ s.mem.segs, spadBank (x.page * 4096) = b → x.live = false) →
      ∃ t, exec (.spadBankIdleTimeout b) s = .next t ∧ (t.mem.bank b).st = .off ∧ t.mem.bytes = s.mem.bytes) ∧
    ((∀ x ∈ s.mem.segs, spadBank (x.page * 4096) = b → x.live = true → x.far = true) →
      (∃ x ∈ s.mem.segs, spadBank (x.page * 4096) = b ∧ x.live = true) →
      ∃ t, exec (.spadBankIdleTimeout b) s = .next t ∧ (t.mem.bank b).st = .keep ∧ t.mem.bytes = s.mem.bytes ∧ t.mem.segs = s.mem.segs)) ∧
  (∀ s b fo due, (s.mem.bank b).st = .waking fo due → due ≤ s.cycle →
    ∃ t, exec (.spadBankWakeDone b) s = .next t ∧ (t.mem.bank b).st = .full ∧ t.mem.bytes = s.mem.bytes ∧ t.mem.segs = s.mem.segs)

/-! Faults and the system registers. -/

/-- R294, R327, R328, R329, R331: taking a fault. The cell's registers record the first fault since their clear, a later one sets OVF alone; the
region stops where the context's FLT_CTL bit of the code is 1 and the fault is not held, and not otherwise; a record of the faulting cell
and its place in cell order is put among those of the cycle, which are appended in that order. A record reaches an enabled log of a context
without translation trouble: FLT_CNT advances by one, and the record's 32 bytes stand at the entry that FLT_CNT named; with the log
disabled nothing is written. -/
def Obligations.TakingAFault : Prop :=
  (∀ (s : State) (f : FaultRec) (n rid : Nat) (c : Cell) (r : Region), f.cell = some n → f.rid = some rid → s.cell? n = some c → s.region? rid = some r →
      r.gone = false →
      FaultTaken s (s.raise f) (f.stamp.getD s.stamps) n f.code f.sub f.held f.origin f.addr f.aux f.fire ∧
      ((s.ctxRegs f.ctx).fltCtl.getLsbD f.code = true → f.held = false →
        ((s.raise f).region? rid).map (fun x => x.stopAt) = some (some (r.stopAt.getD s.cycle))) ∧
      ((s.ctxRegs f.ctx).fltCtl.getLsbD f.code = false ∨ f.held = true → (s.raise f).regions = s.regions) ∧
      (s.raise f).mem = s.mem ∧ (∀ k, (s.raise f).ctxRegs k = s.ctxRegs k) ∧
      ∃ x : LogItem, (s.raise f).logQ.Perm (x :: s.logQ) ∧ x.cell = n % 4096 ∧ x.rank = f.stamp.getD s.stamps ∧ x.ctx = f.ctx ∧
        (x.regs.origin, x.regs.addr, x.regs.aux, x.regs.fire) = (f.origin, f.addr, f.aux, f.fire) ∧
        (s.logQ.Pairwise (fun a b => b.before a = false) → (s.raise f).logQ.Pairwise (fun a b => b.before a = false))) ∧
  (∀ (s : State) (ctx : Nat) (r : FaultRegs) (m : MemSys) (pa : Nat) (ver : Bool), s.MemoryWf → (s.ctxRegs ctx).fltLog.getLsbD 0 = true →
      s.mem.translateSeq s.cycle ctx (s.ctxRegs ctx).ptRoot
        ((s.ctxRegs ctx).fltLog.toNat / 4096 * 4096 + 32 * ((s.ctxRegs ctx).fltCnt.toNat % logLines (s.ctxRegs ctx).fltLog)) .store = (m, .ok pa ver) →
      target pa = some .dram →
      ((s.writeLog ctx r).ctxRegs ctx).fltCnt = (s.ctxRegs ctx).fltCnt + 1 ∧
      (s.writeLog ctx r).mem.plain pa 32 = recordBytes { r with cause := r.cause &&& ~~~0x00040000 } (s.ctxRegs ctx).fltCnt) ∧
  (∀ (s : State) (ctx : Nat) (r : FaultRegs), (s.ctxRegs ctx).fltLog.getLsbD 0 = false → s.writeLog ctx r = s) ∧
  (∀ (s : State) (x : LogItem) (l : List LogItem), s.logQ = x :: l →
      s.flushLog = (({ s with logQ := l } : State).writeLog x.ctx x.regs).flushLog) ∧
  (∀ s : State, s.flushLog.logQ = [])

/-- R120, R329, R348: TRAP raises TRAP with SUB its code and FLT_AUX its token; HALT and FEND are recorded with their cycle, and a second one
changes nothing; none emits anything. In every cycle after a HALT no cell of its region begins a firing. In every cycle after a FEND no
instruction of its block issues, but one that waits on a wake, or an execution of a sequence that has begun (log 46). -/
def Obligations.TrapHaltFend : Prop :=
  (∀ code s, s.goes (.trap code) →
    Runs (.trap code) s [] (fun t => OwnFault s t 16 code.toNat 0 ((s.lval (.trap code)).setWidth 64) ∧ SameChannels s t)) ∧
  (∀ s c r, s.goes .halt → s.cell? s.site.cell = some c → s.region? c.rid = some r →
    Runs .halt s [] (fun t => SameCells s t ∧ SameMemory s t ∧ (t.region? c.rid).map (fun x => x.haltAt) = some (some (r.haltAt.getD s.cycle)))) ∧
  (∀ s b, s.goes .fend → s.block? s.site = some b →
    Runs .fend s [] (fun t => Quiet s t ∧ (t.block? s.site).map (fun x => x.fend) = some (some (b.fend.getD s.cycle)))) ∧
  (∀ s cell ctx c r k, s.cell? cell = some c → s.region? c.rid = some r → r.haltAt = some k → k < s.cycle → exec (.firingStart cell ctx) s = .next s) ∧
  (∀ s b k i, s.block? s.site = some b → b.fend = some k → k < s.cycle → (s.slot s.site).waking = false → (s.slot s.site).begun = false →
    s.ready s.site i = false ∧ s.ready0 s.site i = false ∧ (1 ≤ i.opcode → i.opcode ≤ 0x35 → exec i s = .next s) ∧
    (i = .halt ∨ i = .fend ∨ (∃ code, i = .trap code) → exec i s = .next s))

/-- R172, R345 to R347: SRD emits a 32-bit register as one token and a 64-bit register as two, low half first, and changes nothing. What each
register of the table reads: those of the cell, of its region and of the device, and those of a context, which in context 0 are those of the
context that CTXSEL names; RESUME reads 0. -/
def Obligations.SystemRegisterReads : Prop :=
  (∀ n c0 s c, s.goes (.srd n c0) → s.cell? s.site.cell = some c → sysReg64 n.toNat = false →
    Runs (.srd n c0) s [(c0, ⟨(s.sysReg c (s.fireNo s.site) n.toNat).extractLsb' 0 32, s.omark (.srd n c0)⟩)] (Quiet s)) ∧
  (∀ n c0 s c, s.goes (.srd n c0) → s.cell? s.site.cell = some c → sysReg64 n.toNat = true →
    Runs (.srd n c0) s [(c0, ⟨(s.sysReg c (s.fireNo s.site) n.toNat).extractLsb' 0 32, s.omark (.srd n c0)⟩),
      (c0, ⟨(s.sysReg c (s.fireNo s.site) n.toNat).extractLsb' 32 32, s.omark (.srd n c0)⟩)] (Quiet s)) ∧
  (∀ (s : State) (c : Cell) (fireNo : Word),
    s.sysReg c fireNo 0x000 = BitVec.ofNat 64 c.context ∧ s.sysReg c fireNo 0x002 = fireNo.setWidth 64 ∧
    s.sysReg c fireNo 0x003 = (c.flt.exc.read s.cycle).setWidth 64 ∧ s.sysReg c fireNo 0x005 = BitVec.ofNat 64 s.cycle ∧
    s.sysReg c fireNo 0x010 = (c.flt.read s.cycle).cause.setWidth 64 ∧ s.sysReg c fireNo 0x012 = (c.flt.read s.cycle).addr ∧
    s.sysReg c fireNo 0x013 = (c.flt.read s.cycle).aux ∧
    (c.context ≠ 0 → s.sysReg c fireNo 0x020 = (s.ctxRegs c.context).fltCtl.setWidth 64 ∧ s.sysReg c fireNo 0x030 = (s.ctxRegs c.context).ptRoot) ∧
    (c.context = 0 → s.sysReg c fireNo 0x020 = (s.ctxRegs (s.dev.ctxSel.toNat % 4096)).fltCtl.setWidth 64) ∧
    (∀ r, s.region? c.rid = some r → s.sysReg c fireNo 0x001 = BitVec.ofNat 64 (r.lift % 64 + r.var % 4 * 64)) ∧
    ((∀ b < 4, (s.sysReg c fireNo 0x004).extractLsb' (2 * b) 2 = BitVec.ofNat 2 (c.regs.gBank b).st.code) ∧
      (∀ b < 8, (s.sysReg c fireNo 0x004).extractLsb' (2 * b + 8) 2 = BitVec.ofNat 2 (c.regs.vBank b).st.code) ∧
      (s.sysReg c fireNo 0x004).extractLsb' 24 40 = 0) ∧
    s.sysReg c fireNo 0x011 = (c.flt.read s.cycle).origin.setWidth 64 ∧ s.sysReg c fireNo 0x014 = (c.flt.read s.cycle).fire.setWidth 64 ∧
    (∀ k < 4, s.sysReg c fireNo (0x018 + k) = ((s.sysAt c.rid k).rowprog).setWidth 64) ∧
    (∀ x, x = s.ctxRegs (if c.context = 0 then s.dev.ctxSel.toNat % 4096 else c.context) →
      s.sysReg c fireNo 0x020 = x.fltCtl.setWidth 64 ∧ s.sysReg c fireNo 0x021 = x.fltLog ∧ s.sysReg c fireNo 0x022 = x.fltCnt.setWidth 64 ∧
      s.sysReg c fireNo 0x023 = x.occMap ∧ s.sysReg c fireNo 0x024 = x.hangLimit.setWidth 64 ∧ s.sysReg c fireNo 0x025 = x.seamBase ∧
      s.sysReg c fireNo 0x030 = x.ptRoot ∧ s.sysReg c fireNo 0x031 = x.saveBase) ∧
    s.sysReg c fireNo 0x038 = s.dev.ctxSel.setWidth 64 ∧ s.sysReg c fireNo 0x039 = s.dev.faultHold.setWidth 64 ∧
    s.sysReg c fireNo 0x03A = s.dev.switchGrace.setWidth 64 ∧ s.sysReg c fireNo 0x03B = s.dev.tswAt ∧
    s.sysReg c fireNo 0x03C = s.dev.tswCtl.setWidth 64 ∧ s.sysReg c fireNo 0x03D = 0)

/-- R345 to R347: what an SWR writes, with its reserved bits: EXC [4:0]; FLT_CAUSE clears all five fault registers; HANG_LIMIT, FAULT_HOLD and
SWITCH_GRACE whole; CTXSEL [11:0]; TSW_AT from two tokens, low half first. R317, R327, R331, R337, R338, R342, R344: FLT_CTL in its writable
bits; FLTLOG, OCCMAP, SEAMBASE, PTROOT and SAVEBASE but for their reserved bits, from two tokens; TSW_CTL by its ACTION; RESUME marks the parked
regions of its context (log 38). It then emits 0. A write of the device's registers, of PTROOT and of SAVEBASE needs context 0. R345, R347: an SWR that
is refused writes nothing and emits nothing: PROT where no context may write the register, in every context, of SEAMBASE while a seam is open
and of TSW_CTL while a request is pending; PRIV where only context 0 may and the context is another. -/
def Obligations.SystemRegisterWrites : Prop :=
  ((∀ n c0 s c, s.goes (.swr n c0) → s.cell? s.site.cell = some c → n.toNat = 0x003 → c.flt.exc.at? ≠ some s.cycle →
      Runs (.swr n c0) s [(c0, ⟨0, s.omark (.swr n c0)⟩)] (fun t => SameMemory s t ∧ SameChannels s t ∧ SameDevice s t ∧
        ∀ c', t.cell? s.site.cell = some c' → c'.flt.exc.now = s.lval (.swr n c0) &&& 31 ∧ c'.flt.regs = c.flt.regs ∧ c'.regs = c.regs)) ∧
    (∀ n c0 s c, s.goes (.swr n c0) → s.cell? s.site.cell = some c → n.toNat = 0x010 → c.flt.at? ≠ some s.cycle →
      Runs (.swr n c0) s [(c0, ⟨0, s.omark (.swr n c0)⟩)] (fun t => SameMemory s t ∧ SameChannels s t ∧ SameDevice s t ∧
        ∀ c', t.cell? s.site.cell = some c' → c'.flt.regs = ⟨0, 0, 0, 0, 0⟩ ∧ c'.flt.exc = c.flt.exc ∧ c'.regs = c.regs)) ∧
    (∀ n c0 s c, s.goes (.swr n c0) → s.cell? s.site.cell = some c → n.toNat = 0x024 →
      Runs (.swr n c0) s [(c0, ⟨0, s.omark (.swr n c0)⟩)] (fun t => SameCells s t ∧ SameMemory s t ∧
        (t.ctxRegs (s.regCtx c.context)).hangLimit = s.lval (.swr n c0) ∧ ∀ k, k ≠ s.regCtx c.context → t.ctxRegs k = s.ctxRegs k)) ∧
    (∀ n c0 s c, s.goes (.swr n c0) → s.cell? s.site.cell = some c → c.context = 0 →
      (n.toNat = 0x038 → Runs (.swr n c0) s [(c0, ⟨0, s.omark (.swr n c0)⟩)] (fun t => SameCells s t ∧ SameMemory s t ∧
        t.dev = { s.dev with ctxSel := s.lval (.swr n c0) &&& 0xFFF })) ∧
      (n.toNat = 0x039 → Runs (.swr n c0) s [(c0, ⟨0, s.omark (.swr n c0)⟩)] (fun t => SameCells s t ∧ SameMemory s t ∧
        t.dev = { s.dev with faultHold := s.lval (.swr n c0) })) ∧
      (n.toNat = 0x03A → Runs (.swr n c0) s [(c0, ⟨0, s.omark (.swr n c0)⟩)] (fun t => SameCells s t ∧ SameMemory s t ∧
        t.dev = { s.dev with switchGrace := s.lval (.swr n c0) })) ∧
      (n.toNat = 0x03B → ∀ a b, s.nthTok s.site .l 0 = some a → s.nthTok s.site .l 1 = some b →
        Runs (.swr n c0) s [(c0, ⟨0, a.mark.or b.mark⟩)] (fun t => SameCells s t ∧ SameMemory s t ∧
          t.dev = { s.dev with tswAt := b.v ++ a.v })))) ∧
  ((∀ n c0 s c tag, s.goes (.swr n c0) → s.cell? s.site.cell = some c → tag = (if c.context = 0 then s.dev.ctxSel.toNat % 4096 else c.context) →
      (n.toNat = 0x020 → Runs (.swr n c0) s [(c0, ⟨0, s.omark (.swr n c0)⟩)] (fun t => SameCells s t ∧ SameMemory s t ∧ t.dev = s.dev ∧
        (∀ k, k ≠ tag → t.ctxRegs k = s.ctxRegs k) ∧ { t.ctxRegs tag with fltCtl := 0 } = { s.ctxRegs tag with fltCtl := 0 } ∧
        ∀ k < 32, (t.ctxRegs tag).fltCtl.getLsbD k =
          if k ∈ [1, 2, 3, 5, 6, 7, 8, 9, 10, 12, 15, 16, 17] then (s.lval (.swr n c0)).getLsbD k else decide (k ∈ [11, 13, 14]))) ∧
      (∀ a b, s.nthTok s.site .l 0 = some a → s.nthTok s.site .l 1 = some b →
        (n.toNat = 0x021 → Runs (.swr n c0) s [(c0, ⟨0, a.mark.or b.mark⟩)] (fun t => SameCells s t ∧ SameMemory s t ∧ t.dev = s.dev ∧
          t.ctxRegs tag = { s.ctxRegs tag with fltLog := (b.v ++ a.v) &&& ~~~0xFC0 } ∧ ∀ k, k ≠ tag → t.ctxRegs k = s.ctxRegs k)) ∧
        (n.toNat = 0x023 → Runs (.swr n c0) s [(c0, ⟨0, a.mark.or b.mark⟩)] (fun t => SameCells s t ∧ SameMemory s t ∧ t.dev = s.dev ∧
          t.ctxRegs tag = { s.ctxRegs tag with occMap := (b.v ++ a.v) &&& ~~~0xFFE } ∧ ∀ k, k ≠ tag → t.ctxRegs k = s.ctxRegs k)) ∧
        (n.toNat = 0x025 → (∀ m ∈ s.seams, m.ctx ≠ tag) →
          Runs (.swr n c0) s [(c0, ⟨0, a.mark.or b.mark⟩)] (fun t => SameCells s t ∧ SameMemory s t ∧ t.dev = s.dev ∧
            t.ctxRegs tag = { s.ctxRegs tag with seamBase := (b.v ++ a.v) &&& ~~~0xFFE } ∧ ∀ k, k ≠ tag → t.ctxRegs k = s.ctxRegs k)) ∧
        (n.toNat = 0x025 → (∃ m ∈ s.seams, m.ctx = tag) →
          Runs (.swr n c0) s [] (fun t => OwnFault s t 5 0 0 0xE3 ∧ t.dev = s.dev ∧ (t.ctxRegs tag).seamBase = (s.ctxRegs tag).seamBase)) ∧
        (n.toNat = 0x030 → c.context = 0 → Runs (.swr n c0) s [(c0, ⟨0, a.mark.or b.mark⟩)] (fun t => SameCells s t ∧ SameMemory s t ∧ t.dev = s.dev ∧
          t.ctxRegs tag = { s.ctxRegs tag with ptRoot := (b.v ++ a.v) &&& 0x000FFFFFFFE00001 } ∧ ∀ k, k ≠ tag → t.ctxRegs k = s.ctxRegs k)) ∧
        (n.toNat = 0x031 → c.context = 0 → Runs (.swr n c0) s [(c0, ⟨0, a.mark.or b.mark⟩)] (fun t => SameCells s t ∧ SameMemory s t ∧ t.dev = s.dev ∧
          t.ctxRegs tag = { s.ctxRegs tag with saveBase := (b.v ++ a.v) &&& ~~~0x1FFFE } ∧ ∀ k, k ≠ tag → t.ctxRegs k = s.ctxRegs k)))) ∧
    (∀ n c0 s c v, s.goes (.swr n c0) → s.cell? s.site.cell = some c → c.context = 0 → v = s.lval (.swr n c0) →
      (n.toNat = 0x03C →
        (v.toNat / 4096 % 4 = 0 → Runs (.swr n c0) s [(c0, ⟨0, s.omark (.swr n c0)⟩)] (fun t => SameCells s t ∧ SameMemory s t ∧
          t.regions = s.regions ∧ t.dev = { s.dev with tswCtl := v &&& 0xFFFF })) ∧
        (v.toNat / 4096 % 4 = 1 ∨ v.toNat / 4096 % 4 = 2 → s.dev.tswCtl.getLsbD 31 = false → s.cycle < s.dev.tswAt.toNat →
          Runs (.swr n c0) s [(c0, ⟨0, s.omark (.swr n c0)⟩)] (fun t => SameCells s t ∧ SameMemory s t ∧ t.regions = s.regions ∧
            t.dev = { s.dev with tswCtl := (v &&& 0xFFFF) ||| 0x80000000 })) ∧
        (v.toNat / 4096 % 4 = 3 → s.dev.tswCtl.getLsbD 31 = false → Runs (.swr n c0) s [(c0, ⟨0, s.omark (.swr n c0)⟩)] (Quiet s)) ∧
        (v.toNat / 4096 % 4 ≠ 0 → s.dev.tswCtl.getLsbD 31 = true → Runs (.swr n c0) s [] (fun t => OwnFault s t 5 0 0 0xE3 ∧ t.dev = s.dev))) ∧
      (n.toNat = 0x03D → Runs (.swr n c0) s [(c0, ⟨0, s.omark (.swr n c0)⟩)] (fun t => SameCells s t ∧ SameMemory s t ∧ t.dev = s.dev ∧
        t.parked = s.parked.map (fun (p : Parked) => if p.byHold = true ∧ p.region.ctx = v.toNat % 4096 then { p with resumed := true } else p))))) ∧
  ((∀ n c0 s, s.goes (.swr n c0) → n.toNat ∈ [0, 1, 2, 4, 5, 0x11, 0x12, 0x13, 0x14, 0x18, 0x19, 0x1A, 0x1B, 0x22] →
      Runs (.swr n c0) s [] (fun t => OwnFault s t 5 0 0 0xE3 ∧ t.dev = s.dev)) ∧
    (∀ n c0 s c, s.goes (.swr n c0) → s.cell? s.site.cell = some c → c.context ≠ 0 →
      n.toNat ∈ [0x30, 0x31, 0x38, 0x39, 0x3A, 0x3B, 0x3C, 0x3D] →
      Runs (.swr n c0) s [] (fun t => OwnFault s t 7 0 0 0xE3 ∧ t.dev = s.dev ∧ (t.ctxRegs c.context).ptRoot = (s.ctxRegs c.context).ptRoot ∧
        (t.ctxRegs c.context).saveBase = (s.ctxRegs c.context).saveBase)))

/-- R70, R349, R350, R358: PTST emits the mark and the origin, unmarked; PCLR removes the mark; EXCRD emits EXC [4:0] and clears the flags that its
token names; PERF emits a counter of the cell, 0 for a number that has none; of an accounting pair it emits the low half at the even number, as
it stands once PERF itself is charged, and latches the high half, which it emits at the odd number; context 0 reads the context that CTXSEL
names, and the system account from 0x60 on; CYC emits the two halves of CYCLE. -/
def Obligations.PoisonFlagsCounters : Prop :=
  (∀ c1 c0 s, s.goes (.ptst c1 c0) →
    Runs (.ptst c1 c0) s [(c0, ⟨flag (tokMark (s.opnds s.site (.ptst c1 c0)).l).isSome, none⟩),
      (c1, ⟨(tokMark (s.opnds s.site (.ptst c1 c0)).l).getD 0, none⟩)] (Quiet s)) ∧
  (∀ c1 c0 s, s.goes (.pclr c1 c0) → Runs (.pclr c1 c0) s (outs (.pclr c1 c0) ⟨s.lval (.pclr c1 c0), none⟩) (Quiet s)) ∧
  (∀ c1 c0 s c, s.goes (.excrd c1 c0) → s.cell? s.site.cell = some c → c.flt.exc.at? ≠ some s.cycle →
    Runs (.excrd c1 c0) s (outs (.excrd c1 c0) ⟨c.flt.exc.now &&& 31, s.omark (.excrd c1 c0)⟩) (fun t => SameMemory s t ∧ SameChannels s t ∧ SameDevice s t ∧
      ∀ c', t.cell? s.site.cell = some c' → c'.flt.exc.now = c.flt.exc.now &&& ~~~(s.lval (.excrd c1 c0) &&& 31) ∧ c'.flt.regs = c.flt.regs ∧
        c'.regs = c.regs)) ∧
  (∀ n c0 s c, s.goes (.perf n c0) → s.cell? s.site.cell = some c →
    (n.toNat < 8 ∨ (0x20 ≤ n.toNat ∧ n.toNat < 0x24) → n.toNat ≠ 1 → Runs (.perf n c0) s [(c0, ⟨c.counter n.toNat, s.omark (.perf n c0)⟩)] (Quiet s)) ∧
    ((8 ≤ n.toNat ∧ n.toNat < 0x20) ∨ (0x24 ≤ n.toNat ∧ n.toNat < 0x40) ∨ (0x50 ≤ n.toNat ∧ n.toNat < 0x60) ∨ 0x6A ≤ n.toNat ∨
      (0x60 ≤ n.toNat ∧ c.context ≠ 0) → Runs (.perf n c0) s [(c0, ⟨0, s.omark (.perf n c0)⟩)] (Quiet s)) ∧
    ((0x40 ≤ n.toNat ∧ n.toNat < 0x50) ∨ (0x60 ≤ n.toNat ∧ n.toNat < 0x6A ∧ c.context = 0) → n.toNat % 2 = 1 →
      Runs (.perf n c0) s [(c0, ⟨c.latch.headD 0, s.omark (.perf n c0)⟩)] (Quiet s)) ∧
    (∀ (tag k : Nat) (x : CtxRegs) (v : DWord), n.toNat % 2 = 0 → x = s.ctxRegs tag →
      (0x40 ≤ n.toNat ∧ n.toNat < 0x50 ∧ k = (n.toNat - 0x40) / 2 ∧ tag = (if c.context = 0 then s.dev.ctxSel.toNat % 4096 else c.context)) ∨
        (0x60 ≤ n.toNat ∧ n.toNat < 0x6A ∧ c.context = 0 ∧ k = (n.toNat - 0x60) / 2 ∧ tag = 4096) →
      v = (if k < 5 then BitVec.ofNat 64 ((s.took s.site (.perf n c0)).mem.charged tag k / 1000000) else if k = 5 then x.cfirings
        else if k = 6 then x.cmds else x.egressed) →
      Runs (.perf n c0) s [(c0, ⟨v.extractLsb' 0 32, s.omark (.perf n c0)⟩)] (fun t => SameMemory s t ∧ SameChannels s t ∧ SameDevice s t ∧
        t.cells.map (fun (d : Cell) => { d.held with latch := [] }) = s.cells.map (fun (d : Cell) => { d.held with latch := [] }) ∧
        ∀ c', t.cell? s.site.cell = some c' → c'.latch = [v.extractLsb' 32 32]))) ∧
  (∀ c1 c0 s, s.goes (.cyc c1 c0) →
    Runs (.cyc c1 c0) s [(c0, ⟨BitVec.ofNat 32 s.cycle, s.omark (.cyc c1 c0)⟩), (c1, ⟨BitVec.ofNat 32 (s.cycle / 2 ^ 32), s.omark (.cyc c1 c0)⟩)] (Quiet s))

/-! The data plane. -/

/-- R179, R181, R183, R186, R187: an elementwise instruction (DADD, DSUB, DMUL, DFMA, DFMS, DDIV, DSQRT, DRSQRT, DRCP, DEXP2, DLOG2, DSCALE, DNEG,
DCVT, DTRUNC) consumes one number of each stream field, and makes one number whose lanes are its exact results rounded once, with their
marks and flags. With online delay δ its head may leave once input position δ has arrived on every stream field, and digit j in the cycle
after input position δ + j - 1 has. -/
def Obligations.ElementwiseResults : Prop :=
  ∀ i s f rm delta op, elemSpec i = some (f, rm, delta, op) → s.goes0 i →
    MakesNumber i s (fun k => roundLane f rm (op (s.lane .l k).val (s.lane .r k).val (s.lane .a k).val (s.rval i).toInt) (s.laneMark i k k))
      (fun m => m.digits = f.digits ∧ m.form = .free ∧ m.dep = .same ∧ m.undone = 0 ∧ m.doneAt = none ∧ m.start = s.cycle ∧ m.course = delayed i delta) ∧
    ∀ (m : Made) (sl : Slot) (now : Nat), m.course = delayed i delta → m.undone = 0 → m.doneAt = none → m.start ≤ now →
      (m.pos = 0 → (m.may sl now = true ↔ ∀ g ∈ streamFields i, sl.inputBefore m g delta (now + 1) = true)) ∧
      (m.pos ≠ 0 → m.stopped ≠ BitVec.allOnes 128 → (m.may sl now = true ↔ ∀ g ∈ streamFields i, sl.inputBefore m g (delta - 1 + m.pos) now = true))

/-- R187 to R192: an instruction that decides on its lanes, or waits for their signs (DABS, DNORM, DMIN, DMAX, DRELU, DCLAMP, DTHR, DCMP, DSEL,
DKILL), makes one number whose lanes are the values it picks, rounded once; its head leaves after every lane has decided, no earlier. A
decision never raises a flag of its own. R181: an entry that leaves is on its way to the receiver, and arrives in the first cycle after its
hops in which the receiver's bench acts. -/
def Obligations.DecidingResults : Prop :=
  (∀ i s f rm d pick, decideSpec i = some (f, rm, d, pick) → s.goes0 i →
    MakesNumber i s (fun k => roundLane f rm (Exact.of (pick (s.lane .l k).val (s.lane .r k).val (s.lane .p k).val (s.lane .a k).val), 0) (s.laneMark i k k))
      (fun m => m.digits = d ∧ m.dep = .same ∧ m.undone = BitVec.allOnes 128 ∧ m.doneAt = none)) ∧
  (∀ (m : Made) (sl : Slot) (now : Nat), m.pos = 0 → (m.undone ≠ 0 ∨ m.doneAt = some now) → m.may sl now = false) ∧
  (∀ (s : State) (c : Cell) (t : Site) (i : Instr) (m : Made) (x : Receiver) (b : Block), receivers c t i = [x] → s.block? x.site = some b →
    x.site.index < b.slots.length →
    (m.pos = 0 → (((s.emitEntry c t i m).slot x.site).field x.field).nums = ((s.slot x.site).field x.field).nums ++
      [{ lanes := m.lanes, digits := m.digits, came := [s.actsFrom x.site.cell (s.cycle + x.hops * c.divider)], taken := 0, used := false, cut := false,
         src := ⟨t, m.id, x.edge, x.hops⟩, form := m.form }]) ∧
    (m.pos ≠ 0 → (((s.emitEntry c t i m).slot x.site).field x.field).nums = ((s.slot x.site).field x.field).nums.map (fun n =>
      if n.src = ⟨t, m.id, x.edge, x.hops⟩ then { n with came := n.came ++ [s.actsFrom x.site.cell (s.cycle + x.hops * c.divider)] } else n)))

/-- R195, R183: lane k of DLANE, DSHUF, DROT and DBCAST carries lane s(k) of l, rounded, with the mark of that lane. R193, R194, R196: DREP
puts the value of a word on every lane; DRED puts the exact sum of the 128 lanes, rounded once, on every lane; DXTR emits the lane that r
names as a word. -/
def Obligations.LaneMoveResults : Prop :=
  (∀ i s f rm src, moveSpec i = some (f, rm, src) → s.goes0 i →
      MakesNumber i s (fun k => roundLane f rm (Exact.of (s.lane .l (src (s.rval i) k)).val, 0) (s.laneMark i (src (s.rval i) k) k))
        (fun m => m.digits = f.digits ∧ m.form = .free ∧ m.course = delayed i 2 ∧ m.start = s.cycle)) ∧
  ((∀ f c1 c0 s, s.goes0 (.drep f c1 c0) →
      MakesNumber (.drep f c1 c0) s (fun _ => (⟨(wordVal f (s.lval (.drep f c1 c0))).1, tokMark (s.opnds s.site (.drep f c1 c0)).l⟩,
        (wordVal f (s.lval (.drep f c1 c0))).2))
        (fun m => m.digits = f.digits ∧ m.form = .canon f ∧ m.course = .atOnce ∧ m.start = s.cycle + 1)) ∧
    (∀ f rm c1 c0 s, s.goes0 (.dred f rm c1 c0) →
      MakesNumber (.dred f rm c1 c0) s (fun _ => roundLane f rm (exactPair (sumAll rm ((List.range 128).map (fun k => (s.lane .l k).val))))
        ((List.range 128).findSome? (fun k => (s.lane .l k).mark)))
        (fun m => m.digits = f.digits ∧ m.form = .free ∧ m.dep = .all ∧ m.course = delayed (.dred f rm c1 c0) 14)) ∧
    (∀ f rm c1 c0 s, s.goes0 (.dxtr f rm c1 c0) →
      ∃ t, exec (.dxtr f rm c1 c0) s = .next t ∧ Took0 (.dxtr f rm c1 c0) s t ∧
        OnlyFlags s t (toWord f rm (Exact.of (s.lane .l ((s.rval (.dxtr f rm c1 c0)).toNat % 128)).val)).2 ∧
        t.flight = s.flight ++ s.flights s.site (outs (.dxtr f rm c1 c0)
          ⟨(toWord f rm (Exact.of (s.lane .l ((s.rval (.dxtr f rm c1 c0)).toNat % 128)).val)).1,
            ((s.lane .l ((s.rval (.dxtr f rm c1 c0)).toNat % 128)).mark).or (tokMark (s.opnds s.site (.dxtr f rm c1 c0)).r)⟩)))

/-- R197 to R199, R333: DMAC adds to each lane of an accumulator the product of the number, rounded to the operand format, and the current
weight; DACC adds the number. A FLOAT lane takes the sum rounded to ACC40 under RNE, by the add row; an INT lane adds the term rounded to an
integer, held to 48 bits, and takes the bound that an infinity names; NaN leaves it. The flags of all lanes go to EXC; the first poisoned term
of the execution raises POISON_SINK of kind 2 with its origin, and each further one advances counter 5. No other accumulator and no weight
changes; nothing is emitted. -/
def Obligations.AccumulateResults : Prop :=
  (∀ f acc s, s.goes0 (.dmac f acc) → acc.toNat < (s.peOf s.site).acc.length →
    ∃ t, exec (.dmac f acc) s = .next t ∧ Took0 (.dmac f acc) s t ∧ t.flight = s.flight ∧ SameMemory s t ∧ SameChannels s t ∧
      (∀ a, a ≠ acc.toNat → (t.peOf s.site).accReg a = (s.peOf s.site).accReg a) ∧ (t.peOf s.site).cur = (s.peOf s.site).cur ∧
      ((t.peOf s.site).accReg acc.toNat).int = ((s.peOf s.site).accReg acc.toNat).int ∧
      (∀ c c', s.cell? s.site.cell = some c → t.cell? s.site.cell = some c' →
        c'.flt.exc.now = c.flt.exc.now ||| allFlags (lanes128 (fun k => (Lane.zero, (roundTo f .rne (Exact.of (s.lane .l k).val)).2 |||
          (mulVal (roundTo f .rne (Exact.of (s.lane .l k).val)).1 (laneAt (s.peOf s.site).cur.lanes k).val).2 |||
          (addTerm ((s.peOf s.site).accReg acc.toNat).int (laneAt ((s.peOf s.site).accReg acc.toNat).lanes k).val
            (mulVal (roundTo f .rne (Exact.of (s.lane .l k).val)).1 (laneAt (s.peOf s.site).cur.lanes k).val).1).2)))) ∧
      AccSinks s t ((List.range 128).filterMap (fun k => ((s.lane .l k).mark).or (laneAt (s.peOf s.site).cur.lanes k).mark)) ∧
      ∀ k < 128, laneAt ((t.peOf s.site).accReg acc.toNat).lanes k =
        ⟨(addTerm ((s.peOf s.site).accReg acc.toNat).int (laneAt ((s.peOf s.site).accReg acc.toNat).lanes k).val
            (mulVal (roundTo f .rne (Exact.of (s.lane .l k).val)).1 (laneAt (s.peOf s.site).cur.lanes k).val).1).1,
          (((s.lane .l k).mark).or (laneAt (s.peOf s.site).cur.lanes k).mark).or (laneAt ((s.peOf s.site).accReg acc.toNat).lanes k).mark⟩) ∧
  (∀ acc s, s.goes0 (.dacc acc) → acc.toNat < (s.peOf s.site).acc.length →
    ∃ t, exec (.dacc acc) s = .next t ∧ Took0 (.dacc acc) s t ∧ t.flight = s.flight ∧ SameMemory s t ∧ SameChannels s t ∧
      (∀ a, a ≠ acc.toNat → (t.peOf s.site).accReg a = (s.peOf s.site).accReg a) ∧ (t.peOf s.site).cur = (s.peOf s.site).cur ∧
      ((t.peOf s.site).accReg acc.toNat).int = ((s.peOf s.site).accReg acc.toNat).int ∧
      (∀ c c', s.cell? s.site.cell = some c → t.cell? s.site.cell = some c' →
        c'.flt.exc.now = c.flt.exc.now ||| allFlags (lanes128 (fun k => (Lane.zero, (addTerm ((s.peOf s.site).accReg acc.toNat).int (laneAt ((s.peOf s.site).accReg acc.toNat).lanes k).val (s.lane .l k).val).2)))) ∧
      AccSinks s t ((List.range 128).filterMap (fun k => (s.lane .l k).mark)) ∧
      ∀ k < 128, laneAt ((t.peOf s.site).accReg acc.toNat).lanes k =
        ⟨(addTerm ((s.peOf s.site).accReg acc.toNat).int (laneAt ((s.peOf s.site).accReg acc.toNat).lanes k).val (s.lane .l k).val).1,
          ((s.lane .l k).mark).or (laneAt ((s.peOf s.site).accReg acc.toNat).lanes k).mark⟩) ∧
  (∀ acc t : Val, addTerm false acc t = ((acc40.round .rne (Exact.of (addVal .rne acc t).1)).1,
    (addVal .rne acc t).2 ||| (acc40.round .rne (Exact.of (addVal .rne acc t).1)).2)) ∧
  (∀ (acc : Val) (a : Int) (neg : Bool) (m : Nat) (e : Int) (k : Nat) (i : Bool),
    addTerm true acc .nan = (acc, flagNV) ∧ addTerm true acc (.inf neg) = (Val.ofInt (if neg then -(2 ^ 47) else 2 ^ 47 - 1), flagNV) ∧
    (-(2 ^ 47) ≤ a → a < 2 ^ 47 → addTerm true (Val.ofInt a) (.zero neg) = (Val.ofInt a, 0)) ∧
    (m ≠ 0 → quantise .rne neg m e 0 false = (k, i) → ∀ sum : Int, sum = a + (if neg then -(k : Int) else k) →
      addTerm true (Val.ofInt a) (.fin neg m e) = (Val.ofInt (max (-(2 ^ 47)) (min (2 ^ 47 - 1) sum)),
        (if i then flagNX else 0) ||| (if -(2 ^ 47) ≤ sum ∧ sum < 2 ^ 47 then 0 else flagNV))))

/-- R200 to R202: DACCRD sends an accumulator, each lane rounded once, and leaves it; DACCZ makes every lane +0, unmarked, with KIND INT when
bit 0 of its token is 1; DWST stores the number, rounded, as the PE's shadow weights. -/
def Obligations.AccumulatorReadClearWeights : Prop :=
  (∀ f rm acc c0 s, s.goes0 (.daccrd f rm acc c0) →
    MakesNumber (.daccrd f rm acc c0) s (fun k => roundLane f rm (Exact.of (laneAt ((s.peOf s.site).accReg acc.toNat).lanes k).val, 0)
      ((tokMark (s.opnds s.site (.daccrd f rm acc c0)).l).or (laneAt ((s.peOf s.site).accReg acc.toNat).lanes k).mark))
      (fun m => m.digits = f.digits ∧ m.form = .free ∧ m.start = s.cycle + 1)) ∧
  (∀ acc s, s.goes0 (.daccz acc) → acc.toNat < (s.peOf s.site).acc.length →
    ∃ t, exec (.daccz acc) s = .next t ∧ Took0 (.daccz acc) s t ∧ t.flight = s.flight ∧ SameMemory s t ∧ SameChannels s t ∧ SameDevice s t ∧
      (∀ a, a ≠ acc.toNat → (t.peOf s.site).accReg a = (s.peOf s.site).accReg a) ∧ (t.peOf s.site).cur = (s.peOf s.site).cur ∧
      ((t.peOf s.site).accReg acc.toNat).int = (s.lval (.daccz acc)).getLsbD 0 ∧
      ∀ k < 128, laneAt ((t.peOf s.site).accReg acc.toNat).lanes k = ⟨.zero false, none⟩) ∧
  (∀ f s, s.goes0 (.dwst f) →
    ∃ t, exec (.dwst f) s = .next t ∧ Took0 (.dwst f) s t ∧ t.flight = s.flight ∧ SameMemory s t ∧ SameChannels s t ∧ SameDevice s t ∧
      (t.peOf s.site).acc = (s.peOf s.site).acc ∧ (t.peOf s.site).cur = (s.peOf s.site).cur ∧ (t.peOf s.site).stored = true ∧
      ∀ k < 128, laneAt (t.peOf s.site).shadow.lanes k = ⟨(roundTo f .rne (Exact.of (s.lane .l k).val)).1, (s.lane .l k).mark⟩)

/-- R167, R169, R170: DRDV sends the words of a valid vector register of a FULL bank as a number, each lane marked where its lane of the poison
mask is; of a dead one it sends 128 lanes poisoned by itself, of free values (log 5), raises DEAD_REG with file 0b01 in FLT_ADDR [7:6], and leaves every register. DWRV writes the number, each
lane rounded to a word, with the mask of its poisoned lanes, and emits 0, whose mark is none whatever the number (the reading of log 16). The head of a number of DRDV leaves from the
cycle after issue on. -/
def Obligations.VectorRegisters : Prop :=
  (∀ v h f c0 s c, s.goes0 (.drdv v h f c0) → s.cell? s.site.cell = some c → deadRead (c.regs.vBank (v.toNat / 4)) ((c.regs.vReg v.toNat).view s.cycle).valid = false →
    ∃ t, exec (.drdv v h f c0) s = .next t ∧ Took0 (.drdv v h f c0) s t ∧ SameMemory s t ∧ SameChannels s t ∧ SameDevice s t ∧ t.flight = s.flight ∧
      NumberMade (.drdv v h f c0) s t (fun k => ⟨(wordVal f (((c.regs.vReg v.toNat).view s.cycle).lanes.getD k 0)).1,
        (tokMark (s.opnds s.site (.drdv v h f c0)).l).or
          (if ((c.regs.vReg v.toNat).view s.cycle).mask.getLsbD k then some ((c.regs.vReg v.toNat).view s.cycle).origin else none)⟩)
        (fun m => m.digits = f.digits ∧ m.form = .canon f ∧ m.start = s.cycle + 1) ∧
      ∀ c', t.cell? s.site.cell = some c' → c'.regs.g = c.regs.g ∧ c'.regs.k = c.regs.k ∧ ∀ n, n ≠ v.toNat → c'.regs.vReg n = c.regs.vReg n) ∧
  (∀ v h f c0 s c, s.goes0 (.drdv v h f c0) → s.cell? s.site.cell = some c → deadRead (c.regs.vBank (v.toNat / 4)) ((c.regs.vReg v.toNat).view s.cycle).valid = true →
    ∃ (t : State) (x : Nat → Val), exec (.drdv v h f c0) s = .next t ∧ Took0 (.drdv v h f c0) s t ∧
      OwnFault s t 1 0 (BitVec.ofNat 64 (64 + v.toNat)) 0 ∧ SameMemory s t ∧ SameChannels s t ∧
      NumberMade (.drdv v h f c0) s t (fun k => ⟨x k, some (originSpec s.site (s.fireNo s.site))⟩) (fun m => m.digits = f.digits ∧ m.start = s.cycle + 1) ∧
      ∀ c', t.cell? s.site.cell = some c' → c'.regs.g = c.regs.g ∧ c'.regs.k = c.regs.k ∧ c'.regs.v = c.regs.v) ∧
  (∀ v f rm c0 s c, s.goes0 (.dwrv v f rm c0) → s.cell? s.site.cell = some c → v.toNat < c.regs.v.length → (c.regs.vReg v.toNat).at? ≠ some s.cycle →
    ∃ t, exec (.dwrv v f rm c0) s = .next t ∧ Took0 (.dwrv v f rm c0) s t ∧ SameMemory s t ∧ SameChannels s t ∧ SameDevice s t ∧
      t.flight = s.flight ++ s.flights s.site [(c0, ⟨0, none⟩)] ∧
      ∀ c', t.cell? s.site.cell = some c' → c'.regs.g = c.regs.g ∧ c'.regs.k = c.regs.k ∧ (∀ n, n ≠ v.toNat → c'.regs.vReg n = c.regs.vReg n) ∧
        (c'.regs.vReg v.toNat).now.valid = true ∧ (c'.regs.vReg v.toNat).now.far = false ∧
        (∀ k < 128, (c'.regs.vReg v.toNat).now.lanes.getD k 0 = (toWord f rm (Exact.of (s.lane .l k).val)).1 ∧
          (c'.regs.vReg v.toNat).now.mask.getLsbD k = (s.lane .l k).mark.isSome))

/-! Numbers. -/

/-- R63: rounding a magnitude x, given as m * 2^e or as strictly between m * 2^e and (m + 1) * 2^e, to a multiple n of 2^q. RNE takes the nearest,
and of two equally near the even one; RTZ never exceeds the magnitude; RDN and RUP go towards their infinity. The result is inexact exactly
where it differs from the value. R51 to R53, R64, R65, R69: rounding to a floating-point format, and to ACC40, takes the unit of its exponent,
no smaller than that of its subnormals; beyond the largest finite value it gives the row of R64 with OF and NX; NX is raised where it is
inexact, UF where it is also tiny. Rounding to an integer format clamps with NV alone, else raises NX where inexact (that it rounds before it clamps is the
reading of log 18). What NaNs, infinities and zeros become. -/
def Obligations.RoundingModes : Prop :=
  (∀ (rm : Rnd) (neg : Bool) (m : Nat) (e q : Int) (more : Bool) (n : Nat) (inexact : Bool) (x : ℚ), m ≠ 0 → (more = false → x = m * 2 ^ e) →
    (more = true → e < q ∧ (m : ℚ) * 2 ^ e < x ∧ x < (m + 1) * 2 ^ e) → quantise rm neg m e q more = (n, inexact) →
    (inexact = true ↔ (n : ℚ) * 2 ^ q ≠ x) ∧
    (rm = .rne → |(n : ℚ) * 2 ^ q - x| ≤ 2 ^ q / 2 ∧ (|(n : ℚ) * 2 ^ q - x| = 2 ^ q / 2 → n % 2 = 0)) ∧
    (rm = .rtz ∨ (rm = .rdn ∧ neg = false) ∨ (rm = .rup ∧ neg = true) → (n : ℚ) * 2 ^ q ≤ x ∧ x < (n + 1) * 2 ^ q) ∧
    ((rm = .rdn ∧ neg = true) ∨ (rm = .rup ∧ neg = false) → ((n : ℚ) - 1) * 2 ^ q < x ∧ x ≤ n * 2 ^ q)) ∧
  (∀ f s, f.spec = .float s → floatSpec f = some (s.p, s.emin, s.hasInf, s.hasNan) ∧ (s.top : ℚ) * 2 ^ s.topExp = largestSpec f) ∧
  (acc40.p = 40 ∧ acc40.emin = -1022 ∧ acc40.hasInf = true ∧ acc40.hasNan = true ∧ (acc40.top : ℚ) * 2 ^ acc40.topExp = (2 ^ 40 - 1) * 2 ^ (984 : Int)) ∧
  (∀ (s : FloatSpec) (rm : Rnd) (neg more : Bool) (m : Nat) (e q : Int) (n n' : Nat) (i i' : Bool), (∃ f : Fmt, f.spec = .float s) ∨ s = acc40 →
    m ≠ 0 → (more = true → 2 ^ s.p ≤ m) → q = max (e + Nat.log2 m) s.emin - (s.p - 1) → quantise rm neg m e q more = (n, i) →
    quantise rm neg m e (e + Nat.log2 m - (s.p - 1)) more = (n', i') →
    ((n : ℚ) * 2 ^ q ≤ s.top * 2 ^ s.topExp →
      ratOf (s.round rm ⟨.fin neg m e, more⟩).1 = (if neg then -1 else 1) * (n : ℚ) * 2 ^ q ∧ (s.round rm ⟨.fin neg m e, more⟩).1.neg = neg ∧
      ((i = true → (n' : ℚ) * 2 ^ (e + Nat.log2 m - (s.p - 1)) < 2 ^ s.emin → (s.round rm ⟨.fin neg m e, more⟩).2 = flagUF ||| flagNX) ∧
        (i = true → (2 : ℚ) ^ s.emin ≤ (n' : ℚ) * 2 ^ (e + Nat.log2 m - (s.p - 1)) → (s.round rm ⟨.fin neg m e, more⟩).2 = flagNX) ∧
        (i = false → (s.round rm ⟨.fin neg m e, more⟩).2 = 0))) ∧
    ((s.top : ℚ) * 2 ^ s.topExp < (n : ℚ) * 2 ^ q → (s.round rm ⟨.fin neg m e, more⟩).2 = flagOF ||| flagNX ∧
      (s.hasInf = false ∨ rm = .rtz ∨ (rm = .rdn ∧ neg = false) ∨ (rm = .rup ∧ neg = true) →
        ratOf (s.round rm ⟨.fin neg m e, more⟩).1 = (if neg then -1 else 1) * (s.top : ℚ) * 2 ^ s.topExp) ∧
      (s.hasInf = true → rm = .rne ∨ (rm = .rdn ∧ neg = true) ∨ (rm = .rup ∧ neg = false) → (s.round rm ⟨.fin neg m e, more⟩).1 = .inf neg))) ∧
  (∀ (s : FloatSpec) (rm : Rnd) (neg more : Bool), (∃ f : Fmt, f.spec = .float s) ∨ s = acc40 →
    s.round rm ⟨.nan, more⟩ = (if s.hasNan then (.nan, 0) else (.zero false, flagNV)) ∧ s.round rm ⟨.zero neg, more⟩ = (.zero neg, 0) ∧
    (s.hasInf = true → s.round rm ⟨.inf neg, more⟩ = (.inf neg, 0)) ∧
    (s.hasInf = false → ratOf (s.round rm ⟨.inf neg, more⟩).1 = (if neg then -1 else 1) * (s.top : ℚ) * 2 ^ s.topExp ∧
      (s.round rm ⟨.inf neg, more⟩).2 = flagNV)) ∧
  (∀ f s rm x, f.spec = .float s → roundTo f rm x = s.round rm x) ∧
  (∀ f bits signed lo hi, intSpec f = some (bits, signed) → lo = (if signed then -(2 ^ (bits - 1) : Int) else 0) →
    hi = (if signed then 2 ^ (bits - 1) - 1 else (2 ^ bits - 1 : Int)) → ∀ (rm : Rnd) (neg more : Bool),
    (roundTo f rm ⟨.nan, more⟩ = (.zero false, flagNV) ∧ roundTo f rm ⟨.zero neg, more⟩ = (.zero false, 0) ∧
      roundTo f rm ⟨.inf neg, more⟩ = (Val.ofInt (if neg then lo else hi), flagNV)) ∧
    ∀ (m n : Nat) (e k : Int) (i : Bool), m ≠ 0 → (more = true → e < 0) → quantise rm neg m e 0 more = (n, i) → k = (if neg then -(n : Int) else n) →
      roundTo f rm ⟨.fin neg m e, more⟩ = (if k < lo then (Val.ofInt lo, flagNV) else if hi < k then (Val.ofInt hi, flagNV)
        else (Val.ofInt k, if i then flagNX else 0))) ∧
  ∀ k : Int, ratOf (Val.ofInt k) = k

/-- R62, R67, R68, R187, R196: on finite values and zeros the operations are exact: sums, products, fused products, powers of two, comparisons, and
the sum of any list; a quotient, a reciprocal, a square root and its reciprocal are the exact ones or enclosed between neighbours of more than
80 bits; DTRUNC takes the integer part. R67: what NaNs, infinities and zeros give, with the flags NV and DZ. R51, R52, R54, R66: the value of
a word of each format, and the word that a value is held in, but for the pattern of a NaN, which is the one of R52. -/
def Obligations.ExactArithmetic : Prop :=
  (∀ (rm : Rnd) (a b c : Val), a.isFin ∨ a.isZero → b.isFin ∨ b.isZero → c.isFin ∨ c.isZero →
      ((addVal rm a b).2 = 0 ∧ ratOf (addVal rm a b).1 = ratOf a + ratOf b) ∧
      ((mulVal a b).2 = 0 ∧ ratOf (mulVal a b).1 = ratOf a * ratOf b) ∧
      ((fmaVal rm a b c).2 = 0 ∧ ratOf (fmaVal rm a b c).1 = ratOf a * ratOf b + ratOf c) ∧
      (∀ k, ratOf (a.scale k) = ratOf a * 2 ^ k) ∧ ratOf a.negate = -ratOf a ∧ ratOf a.abs = |ratOf a| ∧
      (cmpVal .lt a b = true ↔ ratOf a < ratOf b) ∧ (cmpVal .eq a b = true ↔ ratOf a = ratOf b) ∧
      (∀ l : List Val, (∀ v ∈ l, v.isFin ∨ v.isZero) → (sumAll rm l).2 = 0 ∧ ratOf (sumAll rm l).1 = (l.map ratOf).sum)) ∧
  (∀ (rm : Rnd) (x : Val) (n k : Bool) (m : Nat) (e : Int),
      addVal rm .nan x = (.nan, 0) ∧ addVal rm x .nan = (.nan, 0) ∧ addVal rm (.inf n) (.inf !n) = (.nan, flagNV) ∧
      mulVal (.zero n) (.inf k) = (.nan, flagNV) ∧ mulVal (.inf n) (.zero k) = (.nan, flagNV) ∧ mulVal (.inf n) (.inf k) = (.inf (n != k), 0) ∧
      divVal (.fin n m e) (.zero k) = (Exact.of (.inf (n != k)), flagDZ) ∧ divVal (.zero n) (.zero k) = (Exact.of .nan, flagNV) ∧
      sqrtVal (.fin true m e) = (Exact.of .nan, flagNV) ∧ sqrtVal (.zero n) = (Exact.of (.zero n), 0) ∧
      rsqrtVal (.zero n) = (Exact.of (.inf n), flagDZ) ∧ rcpVal (.zero n) = (Exact.of (.inf n), flagDZ) ∧
      log2Val (.zero n) = (Exact.of (.inf true), flagDZ) ∧ log2Val (.fin true m e) = (Exact.of .nan, flagNV) ∧
      exp2Val (.inf true) = Exact.of (.zero false) ∧ exp2Val (.zero n) = Exact.of (.fin false 1 0) ∧
      fmaVal rm (.zero n) (.inf k) .nan = (.nan, flagNV)) ∧
  (∀ (x y : Bool) (m m' : Nat) (e e' : Int), m ≠ 0 → m' ≠ 0 →
    (Encloses (divVal (.fin x m e) (.fin y m' e')).1 (x != y) (fun v => v) ((m : ℚ) * 2 ^ e / (m' * 2 ^ e')) ∧ (divVal (.fin x m e) (.fin y m' e')).2 = 0) ∧
    (Encloses (rcpVal (.fin y m' e')).1 y (fun v => v) (1 / ((m' : ℚ) * 2 ^ e')) ∧ (rcpVal (.fin y m' e')).2 = 0) ∧
    (Encloses (sqrtVal (.fin false m e)).1 false (fun v => v * v) ((m : ℚ) * 2 ^ e) ∧ (sqrtVal (.fin false m e)).2 = 0) ∧
    (Encloses (rsqrtVal (.fin false m e)).1 false (fun v => v * v) (1 / ((m : ℚ) * 2 ^ e)) ∧ (rsqrtVal (.fin false m e)).2 = 0) ∧
    ratOf (truncVal (.fin x m e)) = (if x then -1 else 1) * (⌊(m : ℚ) * 2 ^ e⌋ : ℚ) ∧ (truncVal (.fin x m e)).neg = x) ∧
  (∀ f eb fb bias (w : Word) (sgn : Bool) (frac ex : Nat), layoutSpec f = some (eb, fb, bias) → frac = w.toNat % 2 ^ fb → ex = w.toNat / 2 ^ fb % 2 ^ eb →
    sgn = w.getLsbD (fb + eb) →
    (f ∈ [.fp32, .bf16, .fp16, .e5m2] → ex = 2 ^ eb - 1 → wordVal f w = (if frac = 0 then (.inf sgn, 0) else (.nan, if frac < 2 ^ (fb - 1) then flagNV else 0))) ∧
    (f = .e4m3 → ex = 15 → frac = 7 → wordVal f w = (.nan, 0)) ∧
    ((f ∉ [.fp32, .bf16, .fp16, .e5m2] ∨ ex < 2 ^ eb - 1) → ¬(f = .e4m3 ∧ ex = 15 ∧ frac = 7) → (wordVal f w).2 = 0 ∧ (wordVal f w).1.neg = sgn ∧
      ratOf (wordVal f w).1 = (if sgn then -1 else 1) * (if ex = 0 then (frac : ℚ) / 2 ^ fb * 2 ^ (1 - bias) else (1 + (frac : ℚ) / 2 ^ fb) * 2 ^ ((ex : Int) - bias)) ∧
      valWord f (wordVal f w).1 = BitVec.ofNat 32 (w.toNat % 2 ^ (1 + eb + fb)))) ∧
  (∀ f bits signed w, intSpec f = some (bits, signed) → (wordVal f w).2 = 0 ∧ ratOf (wordVal f w).1 = intOfWord bits signed w ∧
    valWord f (wordVal f w).1 = BitVec.ofInt 32 (intOfWord bits signed w)) ∧
  valWord .fp32 .nan = 0x7FC00000 ∧ valWord .bf16 .nan = 0x7FC0 ∧ valWord .fp16 .nan = 0x7E00 ∧ valWord .e4m3 .nan = 0x7F ∧ valWord .e5m2 .nan = 0x7E

/-! Channels. -/

/-- R117 to R119, R128, R129, R327: RECV and PEEK emit the token at their offset of the input window, with its mark; SEND writes its
token, with its mark, in the next slot of the output window; ADVC and ADVP advance their counter and send it to the other end, or
raise ADV_RANGE (code 9) past the window and change no channel; CHST emits the filled or the free count. -/
def Obligations.ChannelResults : Prop :=
  (∀ ch n off c0 s b, s.goes (.recv ch n off c0) → s.block? s.site = some b →
    Runs (.recv ch n off c0) s [(c0, (b.inChan ch.toNat).buf.getD
      (((b.inChan ch.toNat).cp + BitVec.ofNat 32 (off.toNat + (s.slot s.site).done)).toNat % (b.inChan ch.toNat).cap) ⟨0, none⟩)] (Quiet s)) ∧
  (∀ ch n off c0 s b, s.goes (.peek ch n off c0) → s.block? s.site = some b →
    Runs (.peek ch n off c0) s [(c0, (b.inChan ch.toNat).buf.getD
      (((b.inChan ch.toNat).cp + BitVec.ofNat 32 (off.toNat + (s.slot s.site).done)).toNat % (b.inChan ch.toNat).cap) ⟨0, none⟩)] (Quiet s)) ∧
  (∀ ch n s b, s.goes (.send ch n) → s.block? s.site = some b →
    Runs (.send ch n) s [] (fun t => SameCells s t ∧ SameMemory s t ∧ SameDevice s t ∧
      (∀ b', t.block? s.site = some b' → ch.toNat < b.outs.length → (b'.outChan ch.toNat).w = (b.outChan ch.toNat).w + 1 ∧
        (b'.outChan ch.toNat).pp = (b.outChan ch.toNat).pp ∧ ∀ k, k ≠ ch.toNat → b'.outChan k = b.outChan k) ∧
      (∀ d d', s.block? ⟨(b.outChan ch.toNat).cell, (b.outChan ch.toNat).ctx, 0⟩ = some d →
        t.block? ⟨(b.outChan ch.toNat).cell, (b.outChan ch.toNat).ctx, 0⟩ = some d' → (b.outChan ch.toNat).chan < d.ins.length →
        ((b.outChan ch.toNat).pp + BitVec.ofNat 32 (b.outChan ch.toNat).w).toNat % (b.outChan ch.toNat).cap < (d.inChan (b.outChan ch.toNat).chan).buf.length →
        (d'.inChan (b.outChan ch.toNat).chan).buf[((b.outChan ch.toNat).pp + BitVec.ofNat 32 (b.outChan ch.toNat).w).toNat % (b.outChan ch.toNat).cap]? =
            some ⟨s.lval (.send ch n), tokMark (s.opnds s.site (.send ch n)).l⟩ ∧
          (d'.inChan (b.outChan ch.toNat).chan).pp = (d.inChan (b.outChan ch.toNat).chan).pp ∧
          (d'.inChan (b.outChan ch.toNat).chan).cp = (d.inChan (b.outChan ch.toNat).chan).cp))) ∧
  (∀ ch n s b, s.goes (.advc ch n) → s.block? s.site = some b → ch.toNat < b.ins.length →
    n.toNat ≤ ((b.inChan ch.toNat).pp - (b.inChan ch.toNat).cp).toNat →
    Runs (.advc ch n) s [] (fun t => SameCells s t ∧ SameMemory s t ∧
      (∀ b', t.block? s.site = some b' → (b'.inChan ch.toNat).cp = (b.inChan ch.toNat).cp + BitVec.ofNat 32 n.toNat ∧
        (b'.inChan ch.toNat).pp = (b.inChan ch.toNat).pp ∧ (b'.inChan ch.toNat).buf = (b.inChan ch.toNat).buf ∧
        (b'.inChan ch.toNat).advanced = true ∧ b'.outs = b.outs ∧ ∀ k, k ≠ ch.toNat → b'.inChan k = b.inChan k) ∧
      t.chanMsgs = s.chanMsgs ++ (if (b.inChan ch.toNat).fed then
        [⟨(b.inChan ch.toNat).srcCell, (b.inChan ch.toNat).srcCtx, (b.inChan ch.toNat).srcChan, false,
          (b.inChan ch.toNat).cp + BitVec.ofNat 32 n.toNat, s.cycle + max 1 (b.inChan ch.toNat).hops * s.pace⟩] else []))) ∧
  (∀ ch n s b, s.goes (.advc ch n) → s.block? s.site = some b → ((b.inChan ch.toNat).pp - (b.inChan ch.toNat).cp).toNat < n.toNat →
    Runs (.advc ch n) s [] (fun t => OwnFault s t 9 0 0 (BitVec.ofNat 64 (0x83 + ch.toNat * 256)) ∧ SameChannels s t)) ∧
  (∀ ch n s b, s.goes (.advp ch n) → s.block? s.site = some b → ch.toNat < b.outs.length → n.toNat ≤ (b.outChan ch.toNat).w →
    Runs (.advp ch n) s [] (fun t => SameCells s t ∧ SameMemory s t ∧
      (∀ b', t.block? s.site = some b' → (b'.outChan ch.toNat).pp = (b.outChan ch.toNat).pp + BitVec.ofNat 32 n.toNat ∧
        (b'.outChan ch.toNat).w = (b.outChan ch.toNat).w - n.toNat ∧ (b'.outChan ch.toNat).advanced = true ∧ b'.ins = b.ins ∧
        ∀ k, k ≠ ch.toNat → b'.outChan k = b.outChan k) ∧
      t.chanMsgs = s.chanMsgs ++ (if (b.outChan ch.toNat).present then
        [⟨(b.outChan ch.toNat).cell, (b.outChan ch.toNat).ctx, (b.outChan ch.toNat).chan, true,
          (b.outChan ch.toNat).pp + BitVec.ofNat 32 n.toNat, s.cycle + max 1 (b.outChan ch.toNat).hops * s.pace⟩] else []))) ∧
  (∀ ch n s b, s.goes (.advp ch n) → s.block? s.site = some b → (b.outChan ch.toNat).w < n.toNat →
    Runs (.advp ch n) s [] (fun t => OwnFault s t 9 0 0 (BitVec.ofNat 64 (0x84 + ch.toNat * 256)) ∧ SameChannels s t)) ∧
  (∀ ch c0 s b, s.goes (.chst ch false c0) → s.block? s.site = some b →
    Runs (.chst ch false c0) s [(c0, ⟨(b.inChan ch.toNat).pp - (b.inChan ch.toNat).cp, s.omark (.chst ch false c0)⟩)] (Quiet s)) ∧
  (∀ ch c0 s b, s.goes (.chst ch true c0) → s.block? s.site = some b →
    Runs (.chst ch true c0) s [(c0, ⟨BitVec.ofNat 32 ((b.outChan ch.toNat).cap - ((b.outChan ch.toNat).pp - (b.outChan ch.toNat).cpv).toNat -
      (b.outChan ch.toNat).w), s.omark (.chst ch true c0)⟩)] (Quiet s))

/-! Memory ports. -/

/-- R220, R221: AGB, AGL and AGFMT set fields of their port; AGGO's trigger starts its nest at index 0 of every level, and its later turns emit the
offsets of R221 one by one, until the last level has run out; AGCTR emits an index of the nest, 0 where none runs. -/
def Obligations.PortSetup : Prop :=
  (∀ p s, s.goes (.agb p) → Runs (.agb p) s [] (fun t => BesidePort s t p.toNat ∧
    t.port s.site.cell p.toNat = { s.port s.site.cell p.toNat with base := s.rval (.agb p) ++ s.lval (.agb p) })) ∧
  (∀ p lv s, s.goes (.agl p lv) → Runs (.agl p lv) s [] (fun t => BesidePort s t p.toNat ∧
    t.port s.site.cell p.toNat = { s.port s.site.cell p.toNat with
      cnt := (s.port s.site.cell p.toNat).cnt.set lv.toNat (s.lval (.agl p lv)), str := (s.port s.site.cell p.toNat).str.set lv.toNat (s.rval (.agl p lv)) })) ∧
  (∀ p f s, s.goes (.agfmt p f) → Runs (.agfmt p f) s [] (fun t => BesidePort s t p.toNat ∧
    t.port s.site.cell p.toNat = { s.port s.site.cell p.toNat with fmt := f, limit := s.lval (.agfmt p f) })) ∧
  (∀ p c0 s, s.goes (.aggo p c0) → s.myNest s.site p.toNat = none → Runs (.aggo p c0) s [] (fun t => BesidePort s t p.toNat ∧
    (t.port s.site.cell p.toNat).nest =
      some ⟨s.site, ⟨s.lval (.aggo p c0), tokMark (s.opnds s.site (.aggo p c0)).l⟩, [0, 0, 0, 0, 0, 0], none⟩)) ∧
  (∀ p c0 s n, s.placed = true → s.myNest s.site p.toNat = some n → s.nestReady s.site c0 n = true →
    ∃ t, exec (.aggo p c0) s = .next t ∧ BesidePort s t p.toNat ∧
      t.flight = s.flight ++ s.flights s.site [(c0, ⟨((n.idx.zip (s.port s.site.cell p.toNat).str).map (fun x => BitVec.ofNat 32 x.1 * x.2)).sum, n.trig.mark⟩)] ∧
      (t.port s.site.cell p.toNat).nest.map (fun x => x.idx) = nextIndices n.idx (s.port s.site.cell p.toNat).cnt) ∧
  (∀ p lv c0 s, s.goes (.agctr p lv c0) → Runs (.agctr p lv c0) s
    [(c0, ⟨BitVec.ofNat 32 (((s.port s.site.cell p.toNat).nest.map (fun n => n.idx.getD lv.toNat 0)).getD 0), s.omark (.agctr p lv c0)⟩)] (Quiet s))

/-- R219, R222, R224, R227: an element instruction whose format is of the class of its port's FMT and whose offset lies below LIMIT puts an access to the
element at its port; one of another class, or whose offset does not, raises PROT and accesses nothing. -/
def Obligations.ElementAccesses : Prop :=
  ∀ i s p f? coord q off, elementSpec i = some (p, f?, coord) → s.goes i → q = s.port s.site.cell p →
    off = (if coord then s.lval i * BitVec.ofNat 32 (sizeUnits (f?.getD q.fmt)) else s.lval i) →
    (unitClass (f?.getD q.fmt) = unitClass q.fmt → q.limit = 0 ∨ off.toNat + sizeUnits (f?.getD q.fmt) ≤ q.limit.toNat →
      Accesses i s p (elementAt q.base (f?.getD q.fmt) off.toInt).va (elementAt q.base (f?.getD q.fmt) off.toInt).bit
        (elementRanges (elementAt q.base (f?.getD q.fmt) off.toInt))
        (fun t => (s.slot s.site).run = none → SameBytes s t)) ∧
    (unitClass (f?.getD q.fmt) ≠ unitClass q.fmt → Runs i s [] (fun t => OwnFault s t 5 0 0 (BitVec.ofNat 64 i.opcode) ∧ (t.port s.site.cell p).accs = q.accs)) ∧
    (unitClass (f?.getD q.fmt) = unitClass q.fmt → ¬(q.limit = 0 ∨ off.toNat + sizeUnits (f?.getD q.fmt) ≤ q.limit.toNat) →
      Runs i s [] (fun t => OwnFault s t 5 0 (BitVec.ofNat 64 (elementAt q.base (f?.getD q.fmt) off.toInt).va)
        (BitVec.ofNat 64 (p % 64 + (needOf i).w.toNat * 64)) ∧ (t.port s.site.cell p).accs = q.accs))

/-- R222, R223, R225, R309: the only access of a port, translated to one part in DRAM whose line holds no error, and following no release, is
performed in its turn, and answered in the port's: a load replies the bits of its element, poisoned by itself where the line is marked, and
changes no byte; a store writes the bits of its element, replies 0 and changes no other byte. R175 to R177: the same in a scratchpad bank that
is FULL; a load of a dead segment replies a poisoned value and raises DEAD_SPAD (code 2); a store makes its segment live, with the tag of its
context. R226, R227: LDV replies the current element, the previous one, waits or raises VERSION_RANGE (code 10) by how far the version that it asks for lies ahead;
STV waits while a previous copy is held, else keeps the old line with its marker as the previous copy, writes its element and replies the next
version; RECLAIM drops the previous copy and replies the version; on a page that is not versioned each raises PROT. The marks of the replies of
STV and RECLAIM are the reading of log 16. -/
def Obligations.MemoryReplies : Prop :=
  (∀ s cell port c (a : Access) va n pa ver page f, s.thermal = false → s.cell? cell = some c → (s.port cell port).accs = [a] → a.site.cell = cell →
    a.stage = .ready → s.mayLeave cell a = true → a.parts = [⟨va, n, some pa, ver, page, none, false⟩] → a.dead = none → target pa = some .dram →
    s.mem.bad.contains (pa / 64) = false → pa % 64 + n ≤ 64 →
    (loadFmt a.instr = some f →
      ∃ u t, exec (.memoryReply cell port 0) s = .next u ∧ exec (.memoryReply cell port 64) u = .next t ∧ u.flight = s.flight ∧
        (t.port cell port).accs = [] ∧ SameMemory s t ∧ SameChannels s t ∧ SameDevice s t ∧
        t.flight = s.flight ++ s.flights a.site [(a.target, ⟨elementBits f a.bit ((List.range n).map (fun k => (s.mem.look (pa + k)).getD 0)),
          a.ops.mark.or (if s.mem.marks.contains (pa / 64) then some (originSpec a.site a.fire) else none)⟩)]) ∧
    (storeFmt a.instr = some f → s.MemoryWf → n < 64 → storeMark a.ops = none →
      ∃ u t, exec (.memoryReply cell port 0) s = .next u ∧ exec (.memoryReply cell port 64) u = .next t ∧ u.flight = s.flight ∧
        (t.port cell port).accs = [] ∧ SameChannels s t ∧ SameDevice s t ∧
        t.flight = s.flight ++ s.flights a.site [(a.target, ⟨0, none⟩)] ∧ t.mem.marks = s.mem.marks ∧
        (∀ k < n, t.mem.look (pa + k) = some (mixByte ((s.mem.look (pa + k)).getD 0)
          ((placedBytes f a.bit n (tokVal a.ops.r)).2.getD k 0) ((placedBytes f a.bit n (tokVal a.ops.r)).1.getD k 0))) ∧
        ∀ k, ¬(pa ≤ k ∧ k < pa + n) → t.mem.look k = s.mem.look k)) ∧
  (∀ s cell port (a : Access) n pa ver f, SpadTurn s cell port a n pa ver → loadFmt a.instr = some f →
    ((s.mem.seg (pa / 4096)).live = true → Replies s cell port a (fun t tok => SameBytes s t ∧ t.mem.segs = s.mem.segs ∧
      tok = ⟨elementBits f a.bit ((List.range n).map (fun k => (s.mem.look (pa + k)).getD 0)),
        a.ops.mark.or (if s.mem.marks.contains (pa / 64) then some (originSpec a.site a.fire) else none)⟩)) ∧
    ((s.mem.seg (pa / 4096)).live = false → Replies s cell port a (fun t tok => SameBytes s t ∧ t.mem.segs = s.mem.segs ∧
      tok.mark = a.ops.mark.or (some (originSpec a.site a.fire)) ∧
      FaultTaken s t a.stamp cell 2 0 false (originSpec a.site a.fire) (BitVec.ofNat 64 a.va) (BitVec.ofNat 64 (a.portNo % 64)) a.fire))) ∧
  (∀ s cell port (a : Access) n pa ver f, SpadTurn s cell port a n pa ver → storeFmt a.instr = some f → s.MemoryWf → n < 64 → storeMark a.ops = none →
    Replies s cell port a (fun t tok => tok = ⟨0, none⟩ ∧ (t.mem.seg (pa / 4096)).live = true ∧ (t.mem.seg (pa / 4096)).far = false ∧
      (t.mem.seg (pa / 4096)).tag = s.tagOf cell ∧ (∀ k, k / 4096 ≠ pa / 4096 → t.mem.look k = s.mem.look k) ∧
      ((s.mem.seg (pa / 4096)).live = true → t.mem.marks = s.mem.marks ∧ (∀ k, ¬(pa ≤ k ∧ k < pa + n) → t.mem.look k = s.mem.look k) ∧
        ∀ k < n, t.mem.look (pa + k) = some (mixByte ((s.mem.look (pa + k)).getD 0)
          ((placedBytes f a.bit n (tokVal a.ops.r)).2.getD k 0) ((placedBytes f a.bit n (tokVal a.ops.r)).1.getD k 0))) ∧
      ((s.mem.seg (pa / 4096)).live = false → (∀ x ∈ t.mem.marks, x / 64 ≠ pa / 4096) ∧
        ∀ k < n, (placedBytes f a.bit n (tokVal a.ops.r)).2.getD k 0 = 0xFF →
          t.mem.look (pa + k) = some ((placedBytes f a.bit n (tokVal a.ops.r)).1.getD k 0)))) ∧
  (∀ s cell port (a : Access) n pa p h f c0 d, SpadTurn s cell port a n pa true → a.instr = .ldv p h f c0 → (s.mem.seg (pa / 4096)).live = true →
    d = ((tokVal a.ops.r).toNat % 256 + 256 - (s.mem.version (pa / 64)).ver.toNat) % 256 →
    (d = 0 → Replies s cell port a (fun t tok => SameBytes s t ∧ t.mem.vers = s.mem.vers ∧
      tok = ⟨elementBits f a.bit ((List.range n).map (fun k => (s.mem.look (pa + k)).getD 0)),
        a.ops.mark.or (if s.mem.marks.contains (pa / 64) then some (originSpec a.site a.fire) else none)⟩)) ∧
    (d = 255 → (s.mem.version (pa / 64)).pv = true → (s.mem.seg (pairAddr pa / 4096)).live = true →
      Replies s cell port a (fun t tok => SameBytes s t ∧ t.mem.vers = s.mem.vers ∧
        tok = ⟨elementBits f a.bit ((List.range n).map (fun k => (s.mem.look (pairAddr pa + k)).getD 0)),
          a.ops.mark.or (if s.mem.marks.contains (pairAddr pa / 64) then some (originSpec a.site a.fire) else none)⟩)) ∧
    (1 ≤ d → d ≤ 127 → WaitsThere s cell port a) ∧
    (128 ≤ d → ¬(d = 255 ∧ (s.mem.version (pa / 64)).pv = true) → Drops s cell port a 10 0)) ∧
  (∀ s cell port (a : Access) n pa p f c0 v, SpadTurn s cell port a n pa true → a.instr = .stv p f c0 → v = s.mem.version (pa / 64) →
    (v.pv = true → WaitsThere s cell port a) ∧
    (v.pv = false → (s.mem.seg (pa / 4096)).live = true → s.MemoryWf → n < 64 → storeMark a.ops = none → Replies s cell port a (fun t tok =>
      tok = ⟨(v.ver + 1).zeroExtend 32, none⟩ ∧ t.mem.version (pa / 64) = ⟨pa / 64, v.ver + 1, true⟩ ∧
      (∀ x, x ≠ pa / 64 → t.mem.version x = s.mem.version x) ∧
      (∀ k < n, t.mem.look (pa + k) = some (mixByte ((s.mem.look (pa + k)).getD 0)
        ((placedBytes f a.bit n (tokVal a.ops.r)).2.getD k 0) ((placedBytes f a.bit n (tokVal a.ops.r)).1.getD k 0))) ∧
      (∀ k < 64, t.mem.look (pairAddr pa / 64 * 64 + k) = s.mem.look (pa / 64 * 64 + k)) ∧
      (t.mem.marks.contains (pairAddr pa / 64) = s.mem.marks.contains (pa / 64)) ∧
      ∀ k, ¬(pa ≤ k ∧ k < pa + n) → k / 64 ≠ pairAddr pa / 64 → k / 4096 ≠ pairAddr pa / 4096 ∨ (s.mem.seg (pairAddr pa / 4096)).live = true →
        t.mem.look k = s.mem.look k))) ∧
  (∀ s cell port (a : Access) n pa p c0 v, SpadTurn s cell port a n pa true → a.instr = .reclaim p c0 → v = s.mem.version (pa / 64) →
    Replies s cell port a (fun t tok => tok = ⟨v.ver.zeroExtend 32, a.ops.mark⟩ ∧ SameBytes s t ∧
      t.mem.version (pa / 64) = ⟨pa / 64, v.ver, false⟩ ∧ ∀ x, x ≠ pa / 64 → t.mem.version x = s.mem.version x)) ∧
  ∀ s cell port (a : Access) n pa, SpadTurn s cell port a n pa false → waitsVersion a.instr = true →
    Drops s cell port a 5 (BitVec.ofNat 64 (a.portNo % 64 + (needOf a.instr).w.toNat * 64))

/-- R228, R233, R310: with every earlier access of its cell performed, FENCE and QUIET reply 0, and DRAIN with the earlier writes into its path;
else they wait. PREF changes no register and emits nothing, and where its translations are held and no error stands in DRAM it changes no byte, marker
or segment. That the 0 carries no mark whatever the trigger is the reading of log 16; that a write whose address is not translated yet counts into
every path of DRAIN is that of log 22. -/
def Obligations.WaitsForAccesses : Prop :=
  (∀ sc c0 s, s.goes (.fence sc c0) →
    (s.performedBefore s.site.cell s.stamps = true → Runs (.fence sc c0) s [(c0, ⟨0, none⟩)] (Quiet s)) ∧
    (s.performedBefore s.site.cell s.stamps = false → Waits (.fence sc c0) s (SameMemory s))) ∧
  (∀ sc c0 s, s.goes (.quiet sc c0) →
    (s.performedBefore s.site.cell s.stamps = true → Runs (.quiet sc c0) s [(c0, ⟨0, none⟩)] (Quiet s)) ∧
    (s.performedBefore s.site.cell s.stamps = false → Waits (.quiet sc c0) s (SameMemory s))) ∧
  (∀ path c0 s, s.goes (.drain path c0) →
    (s.drained s.site.cell s.stamps path = true → Runs (.drain path c0) s [(c0, ⟨0, none⟩)] (Quiet s)) ∧
    (s.drained s.site.cell s.stamps path = false → Waits (.drain path c0) s (SameMemory s))) ∧
  (∀ p h depth s, s.goes (.pref p h depth) → Runs (.pref p h depth) s [] (fun t => SameCells s t ∧ SameChannels s t ∧ SameDevice s t)) ∧
  (∀ p h (depth : BitVec 6) s c, s.goes (.pref p h depth) → s.cell? s.site.cell = some c → s.mem.bad = [] → (∀ k < depth.toNat, s.mem.lookup (c.port p.toNat).wins c.die c.context
      ((((c.port p.toNat).base + BitVec.ofInt 64 (s.lval (.pref p h depth)).toInt).toNat / 64 * 64 + 64 * k) % 2 ^ 64) .load ≠ .walk) →
    Runs (.pref p h depth) s [] (fun t => SameBytes s t ∧ t.mem.segs = s.mem.segs))

/-- R241, R243, R245: RETRY of a port that holds nothing replies 2; with one held access whose translation now succeeds it replies 0 and leaves
it ready, and where the translation faults again it replies 1, the access held from the cycle in which the hold began. WIN in context 0 reads
its record of 32 bytes, and at the head of its port installs the record, or nothing where its LENGTH is 0, with its reply, and no other window; R236: what a record that
passes holds. TLBINV in context 0, with its cell's writes performed and no access under way anywhere, drops every covered
translation of a tile, disables every window that holds a covered page, under .SYS tells the other members, and replies 0, with .SYS once each has acknowledged.
WIN and TLBINV raise PRIV in other contexts. That the replies of RETRY and TLBINV carry no mark is the reading of log 16; whether a member has acknowledged is
free (log 14). -/
def Obligations.TranslationControl : Prop :=
  (∀ p c0 s, s.goes (.retry p c0) → s.portHolds s.site.cell p.toNat = false → Runs (.retry p c0) s [(c0, ⟨2, none⟩)] (Quiet s)) ∧
  (∀ (p : BitVec 6) (c0 : Consumer) (s : State) (c : Cell) (a : Access) (va n : Nat) (ver : Bool) (code v2 : Nat) (second : Bool) (since : Nat) (m : MemSys),
    s.goes (.retry p c0) → s.cell? s.site.cell = some c → (s.port s.site.cell p.toNat).accs = [a] → a.site.cell = s.site.cell → a.wins = none →
    a.stage = .held code v2 second since → a.parts = [⟨va, n, none, ver, 0, none, false⟩] → (s.slot a.site).run = none → s.heldEngs = [] →
    (∀ x ∈ s.cmds, x.eng.held = none ∧ ∀ j, x.copy = some j → j.eng.held = none) →
    (∀ pa ver', s.mem.translate s.cycle (c.port p.toNat).wins c.die c.context (s.rootOf c) va (needOf a.instr) = (m, .ok pa ver') → m.refuses pa = false →
      Runs (.retry p c0) s [(c0, ⟨0, none⟩)] (fun t => t.mem.bytes = m.bytes ∧ SameChannels s t ∧
        (t.port s.site.cell p.toNat).accs = [{ a with
          parts := [⟨va, n, some pa, ver', m.pageOf (c.port p.toNat).wins c.die c.context va, none, false⟩], stage := .ready }])) ∧
    (∀ k, s.mem.translate s.cycle (c.port p.toNat).wins c.die c.context (s.rootOf c) va (needOf a.instr) = (m, .fault k) → k < 256 →
      isWordAccess a.instr = false → Runs (.retry p c0) s [(c0, ⟨1, none⟩)] (fun t => t.mem.bytes = m.bytes ∧
        (t.port s.site.cell p.toNat).accs = [{ a with stage := .held k va false since }] ∧
        FaultTaken s t a.stamp s.site.cell k 0 true (originSpec a.site a.fire) (BitVec.ofNat 64 va)
          (BitVec.ofNat 64 (p.toNat % 64 + (needOf a.instr).w.toNat * 64)) a.fire))) ∧
  (∀ p w c0 s c, s.goes (.win p w c0) → s.cell? s.site.cell = some c → c.context = 0 →
    Accesses (.win p w c0) s p.toNat (s.rval (.win p w c0) ++ s.lval (.win p w c0)).toNat 0
      (lineChunks (s.rval (.win p w c0) ++ s.lval (.win p w c0)).toNat 32) (fun _ => True)) ∧
  (∀ p w c0 s c, s.goes (.win p w c0) → s.cell? s.site.cell = some c → c.context ≠ 0 →
    Runs (.win p w c0) s [] (fun t => OwnFault s t 7 0 0 0x9F ∧ t.port s.site.cell p.toNat = s.port s.site.cell p.toNat)) ∧
  (∀ sys c0 s c v va, s.goes (.tlbinv sys c0) → s.cell? s.site.cell = some c → c.context = 0 → va = pairAt ((s.toks s.site .l 3).drop 1) 0 →
    v = coverOf (s.lval (.tlbinv sys c0)).toNat va → coverBad (s.lval (.tlbinv sys c0)).toNat va = false →
    (∀ x, s.drained s.site.cell s.stamps x = true) → (∀ x ∈ s.cells, ∀ q ∈ x.ports, q.accs = []) → s.heldEngs = [] →
    (∀ x ∈ s.cmds, x.eng.held = none ∧ ∀ j, x.copy = some j → j.eng.held = none) →
    (sys = false ∨ s.membersAcked s.stamps = true → Runs (.tlbinv sys c0) s [(c0, ⟨0, none⟩)] (fun t => SameMemory s t ∧ SameChannels s t ∧
      t.mem.tlb = s.mem.tlb.filter (fun e => !v.hits e.ctx e.vbase e.size) ∧
      t.outbox = s.outbox ++ (if sys then [⟨1, leBytes 4 (s.lval (.tlbinv sys c0)).toNat ++ leBytes 8 va, 0⟩] else []))) ∧
    (sys = true → s.membersAcked s.stamps = false → Runs (.tlbinv sys c0) s [] (fun t => SameMemory s t ∧ SameChannels s t ∧
      t.mem.tlb = s.mem.tlb.filter (fun e => !v.hits e.ctx e.vbase e.size) ∧
      t.outbox = s.outbox ++ [⟨1, leBytes 4 (s.lval (.tlbinv sys c0)).toNat ++ leBytes 8 va, 0⟩] ∧
      ∃ q ∈ t.pend, q.site = s.site ∧ q.instr = .tlbinv sys c0)) ∧
    ∃ t, exec (.tlbinv sys c0) s = .next t ∧ ∀ n q d w, s.cell? n = some d → w ∈ (s.port n q).wins → ∃ w' ∈ (t.port n q).wins, w'.slot = w.slot ∧
      (v.kind = 2 ∨ (v.ctx = d.context ∧ (v.kind = 1 ∨ (w.vbase ≤ va ∧ va < w.vbase + w.len))) → w'.enabled = false) ∧
      (v.kind ≠ 2 → v.ctx ≠ d.context → w' = w)) ∧
  (∀ s cell port (a : Access) p w c0 tok d, s.thermal = false → (s.port cell port).accs = [a] → a.stage = .done [tok] → a.instr = .win p w c0 →
    a.site.cell = cell → p.toNat = port → d = a.rbytes.map (fun b => b.b) → ∃ t, exec (.memoryReply cell port 64) s = .next t ∧ SameMemory s t ∧ SameChannels s t ∧
      (t.port cell port).accs = [] ∧ t.flight = s.flight ++ s.flights a.site [(c0, tok)] ∧
      (t.port cell port).wins.filter (fun x => x.slot == w.toNat) = (if fieldAt d 0x08 8 = 0 then [] else (winRecord w.toNat d).toList) ∧
      ∀ k, k ≠ w.toNat → (t.port cell port).wins.filter (fun x => x.slot == k) = (s.port cell port).wins.filter (fun x => x.slot == k)) ∧
  (∀ w d x, winRecord w d = some x → x =
      ⟨w, fieldAt d 0 8, fieldAt d 8 8, fieldAt d 16 8, bitOf (fieldAt d 28 4) 0, bitOf (fieldAt d 28 4) 1, bitOf (fieldAt d 28 4) 2, true⟩ ∧ x.vbase % 4096 = 0 ∧ x.len % 4096 = 0 ∧ x.pbase % 4096 = 0 ∧ x.pbase < 2 ^ 52 ∧
    fieldAt d 24 4 = 0 ∧ fieldAt d 28 4 < 8 ∧ target x.pbase = target (x.pbase + x.len - 1) ∧ (x.ver = true → target x.pbase = some .spad)) ∧
  (∀ sys c0 s c, s.goes (.tlbinv sys c0) → s.cell? s.site.cell = some c → c.context ≠ 0 →
    Runs (.tlbinv sys c0) s [] (fun t => OwnFault s t 7 0 0 0xEA ∧ t.mem.tlb = s.mem.tlb))

/-- R230, R232, R282, R382: COPY, COPYR and COPYC read their descriptor of 64 bytes through their port; at a misaligned address they take the lowest free
copy slot, whose sequence advances, as a copy that has ended in BADDESC, and emit its tag. CPLW replies the tag and the status of a copy at
a level that it has reached, 0xFF where the tag names none, and waits otherwise. The marks, none on CPLW's reply and the operands' on a copy's tag,
are the reading of log 16. -/
def Obligations.CopyInstructions : Prop :=
  (∀ i s p c0, (∃ h, i = .copy p h c0) ∨ (∃ h f op, i = .copyr p h f op c0) ∨ (∃ h x, i = .copyc p h x c0) → s.goes i →
    ((s.rval i ++ s.lval i).toNat % 64 = 0 →
      Accesses i s p.toNat (s.rval i ++ s.lval i).toNat 0 (lineChunks (s.rval i ++ s.lval i).toNat 64) (fun _ => True)) ∧
    (∀ c, s.cell? s.site.cell = some c → (s.rval i ++ s.lval i).toNat % 64 ≠ 0 →
      Runs i s [(c0, ⟨BitVec.ofNat 32 (c.freeSlot + 256 * (((c.copySlot c.freeSlot).seq + 1) % 256)), s.omark i⟩)] (fun t => SameMemory s t ∧ SameDevice s t ∧
        ∀ c', t.cell? s.site.cell = some c' → c'.regs = c.regs ∧ (∀ k, k ≠ c.freeSlot → c'.copySlot k = c.copySlot k) ∧
          (c'.copySlot c.freeSlot).seq = ((c.copySlot c.freeSlot).seq + 1) % 256 ∧
          (c'.copySlot c.freeSlot).job.map (fun j => (j.ended, j.status)) = some (true, 1)))) ∧
  (∀ vis c0 s c, s.goes (.cplw vis c0) → s.cell? s.site.cell = some c →
    (∀ w, c.cplw vis (s.lval (.cplw vis c0)) = some w → Runs (.cplw vis c0) s [(c0, ⟨w, none⟩)] (Quiet s)) ∧
    (c.cplw vis (s.lval (.cplw vis c0)) = none → Waits (.cplw vis c0) s (SameMemory s)) ∧
    (∀ j, (c.copySlot ((s.lval (.cplw vis c0)).toNat % 256)).job = some j → (s.lval (.cplw vis c0)).toNat < 65536 →
      (c.copySlot ((s.lval (.cplw vis c0)).toNat % 256)).seq = (s.lval (.cplw vis c0)).toNat / 256 →
      (j.ended = true → c.cplw vis (s.lval (.cplw vis c0)) =
        some (BitVec.ofNat 32 ((s.lval (.cplw vis c0)).toNat + (if vis then j.status else j.srcStatus) * 65536))) ∧
      (j.ended = false → c.cplw vis (s.lval (.cplw vis c0)) = if j.src = true ∧ vis = false then
        some (BitVec.ofNat 32 ((s.lval (.cplw vis c0)).toNat + j.srcStatus * 65536)) else none)) ∧
    ((c.copySlot ((s.lval (.cplw vis c0)).toNat % 256)).job = none ∨ 65536 ≤ (s.lval (.cplw vis c0)).toNat →
      c.cplw vis (s.lval (.cplw vis c0)) = some (BitVec.ofNat 32 ((s.lval (.cplw vis c0)).toNat % 65536 + 0xFF0000))))

/-! Words in memory, owners, barriers. -/

/-- R306 to R309: ATOM, LDA and STL put an access to one aligned word below LIMIT at their port of whole-byte format; a word that is not a multiple of 4
raises ATOM_ALIGN and accesses nothing. An atomic whose word is in DRAM, at whose unit no operation has been applied in the cycle, writes the
word that the operation gives, no other byte, and replies the word that was there. R307: the new word of each integer operation. -/
def Obligations.WordAccesses : Prop :=
  ((∀ i s p q va, (∃ sc o op c0, i = .atom p sc o op c0) ∨ (∃ sc acq c0, i = .lda p sc acq c0) ∨ (∃ sc rel c0, i = .stl p sc rel c0) → s.goes i →
      q = s.port s.site.cell p.toNat → va = (q.base + BitVec.ofInt 64 (s.lval i).toInt).toNat → unitClass q.fmt = .byte →
      q.limit = 0 ∨ (s.lval i).toNat + 4 ≤ q.limit.toNat →
      (va % 4 = 0 → Accesses i s p.toNat va 0 [(va, 4)]
        (fun t => (s.slot s.site).run = none → SameBytes s t)) ∧
      (va % 4 ≠ 0 → Runs i s [] (fun t => OwnFault s t 6 0 (BitVec.ofNat 64 va) 0 ∧ (t.port s.site.cell p.toNat).accs = q.accs))) ∧
    (∀ s cell port c (a : Access) va pa ver page p sc o op c0, s.thermal = false → s.cell? cell = some c → (s.port cell port).accs = [a] → a.site.cell = cell →
      a.stage = .ready → a.parts = [⟨va, 4, some pa, ver, page, none, false⟩] → s.mem.unitBusy pa 4 = false → target pa = some .dram → s.mem.bad.contains (pa / 64) = false →
      s.mem.marks.contains (pa / 64) = false → pa % 4 = 0 → a.instr = .atom p sc o op c0 → s.mayLeave cell a = true → storeMark a.ops = none → a.ops.mark = none → s.MemoryWf →
      ∀ old : Word, (∀ k < 4, s.mem.look (pa + k) = some (old.extractLsb' (8 * k) 8)) →
      ∃ u t, exec (.atomicUnitApply cell port 0) s = .next u ∧ exec (.memoryReply cell port 64) u = .next t ∧ (t.port cell port).accs = [] ∧ SameChannels s t ∧ SameDevice s t ∧ t.mem.marks = s.mem.marks ∧
        t.flight = s.flight ++ s.flights a.site [(c0, ⟨old, none⟩)] ∧
        (∀ k < 4, t.mem.look (pa + k) = some ((((atomNew op old (tokVal a.ops.r) (tokVal a.ops.a)).1).getD old).extractLsb' (8 * k) 8)) ∧
        ∀ k, ¬(pa ≤ k ∧ k < pa + 4) → t.mem.look k = s.mem.look k)) ∧
  (∀ old r a : Word,
      (atomNew .add old r a).1 = some (BitVec.ofNat 32 (old.toNat + r.toNat)) ∧ (atomNew .and old r a).1 = some (old &&& r) ∧
      (atomNew .or old r a).1 = some (old ||| r) ∧ (atomNew .xor old r a).1 = some (old ^^^ r) ∧ (atomNew .xchg old r a).1 = some r ∧
      ((atomNew .min old r a).1.map BitVec.toInt = some (min old.toInt r.toInt)) ∧ ((atomNew .max old r a).1.map BitVec.toInt = some (max old.toInt r.toInt)) ∧
      ((atomNew .minu old r a).1.map BitVec.toNat = some (min old.toNat r.toNat)) ∧ ((atomNew .maxu old r a).1.map BitVec.toNat = some (max old.toNat r.toNat)) ∧
      (old = r → (atomNew .cas old r a).1 = some a) ∧ (old ≠ r → (atomNew .cas old r a).1 = none) ∧
      (old.toNat < r.toNat → (atomNew .incw old r a).1 = some (old + 1)) ∧ (r.toNat ≤ old.toNat → (atomNew .incw old r a).1 = some 0))

/-- R311, R312: OWN in a block of KIND 1 starts the flush of the range its block holds and enters its range in the region's owner table; elsewhere it
raises PROT. UPD sends its value to the owner of its word, and raises PROT where there is none. That OWN waits until its range has been read, that its entry stands
in the table from its issue on, and that an update is due in the cycle after it is sent are the readings of log 30. -/
def Obligations.OwnerNodes : Prop :=
  (∀ p op s c b r q va n, s.goes (.own p op) → s.cell? s.site.cell = some c → s.block? s.site = some b → s.region? c.rid = some r → b.kind = 1 →
    q = s.port s.site.cell p.toNat → va = (q.base + BitVec.ofInt 64 (s.lval (.own p op)).toInt).toNat → n = (s.rval (.own p op)).toNat →
    unitClass q.fmt = .byte → q.limit = 0 ∨ (s.lval (.own p op)).toNat + 4 ≤ q.limit.toNat → va % 4 = 0 → ownBad c r.owners s.site va n = false →
    Waits (.own p op) s (fun t => SameMemory s t ∧ SameCells s t ∧
      (n = 0 → (t.region? c.rid).map (fun x => x.owners) = some (r.owners.map (fun w => if w.of s.site then { w with closing := true } else w))) ∧
      (n ≠ 0 → ∃ o, (t.region? c.rid).map (fun x => x.owners) = some (r.owners.map (fun w => if w.of s.site then { w with closing := true } else w) ++ [o]) ∧
        o.va = va ∧ o.size = n ∧ o.op = op ∧ o.ready = false ∧ o.closing = false ∧ o.eng.site = s.site))) ∧
  (∀ p op s c b r, s.goes (.own p op) → s.cell? s.site.cell = some c → s.block? s.site = some b → s.region? c.rid = some r → b.kind ≠ 1 →
    Runs (.own p op) s [] (fun t => OwnFault s t 5 0 0 0xB4 ∧ (t.region? c.rid).map (fun x => x.owners) = some r.owners)) ∧
  (∀ p s c r q va, s.goes (.upd p) → s.cell? s.site.cell = some c → s.region? c.rid = some r → q = s.port s.site.cell p.toNat →
    va = (q.base + BitVec.ofInt 64 (s.lval (.upd p)).toInt).toNat → unitClass q.fmt = .byte →
    q.limit = 0 ∨ (s.lval (.upd p)).toNat + 4 ≤ q.limit.toNat → va % 4 = 0 →
    (∀ w, r.owners.find? (fun w => !w.closing && decide (w.va ≤ va) && decide (va < w.va + 4 * w.size)) = some w →
      Runs (.upd p) s [] (fun t => SameMemory s t ∧ SameCells s t ∧ (t.region? c.rid).map (fun x => x.updates) =
        some (r.updates ++ [⟨s.site, w.eng.stamp, va, ⟨s.rval (.upd p), s.omark (.upd p)⟩, s.cycle + 1⟩]))) ∧
    (r.owners.find? (fun w => !w.closing && decide (w.va ≤ va) && decide (va < w.va + 4 * w.size)) = none →
      Runs (.upd p) s [] (fun t => OwnFault s t 5 0 0 0xB5)))

/-- R314 to R316: ARRIVE of a member that has not arrived records it, completes the phase with the last member's, and emits the phase it arrived at; BAR
does so and emits once that phase has reached its cell; WAITG emits its token once its phase has; a bad operand raises PROT. LIFT asks its
region for another lift. That the tokens of ARRIVE and BAR carry no mark, and that of WAITG its operand's, is the reading of log 16. -/
def Obligations.BarriersAndLift : Prop :=
  (∀ sc rel c0 s c g, s.goes (.arrive sc rel c0) → s.cell? s.site.cell = some c → s.group? c.rid ((s.lval (.arrive sc rel c0)).toNat % 256) = some g →
    s.barrierBad s.site (s.lval (.arrive sc rel c0)) false = false → (rel = true → s.performedBefore s.site.cell s.stamps = true) →
    (g.arrived.contains s.site.cell = false →
      Runs (.arrive sc rel c0) s [(c0, ⟨BitVec.ofNat 32 ((s.lval (.arrive sc rel c0)).toNat % 256 + g.phase * 256), none⟩)] (fun t => SameCells s t ∧ SameMemory s t ∧
        t.group? c.rid ((s.lval (.arrive sc rel c0)).toNat % 256) = some (if g.members.all (fun m => decide (m = s.site.cell) || g.arrived.contains m)
          then { g with phase := (g.phase + 1) % 2 ^ 24, arrived := [] } else { g with arrived := s.site.cell :: g.arrived }))) ∧
    (g.arrived.contains s.site.cell = true → Waits (.arrive sc rel c0) s (fun t => SameCells s t ∧ SameMemory s t ∧ t.regions = s.regions))) ∧
  (∀ sc acq c0 s c g, s.goes (.waitg sc acq c0) → s.cell? s.site.cell = some c → s.group? c.rid ((s.lval (.waitg sc acq c0)).toNat % 256) = some g →
    g.members.contains s.site.cell = true →
    (phaseDone (g.known s.site.cell) ((s.lval (.waitg sc acq c0)).toNat / 256) = true →
      Runs (.waitg sc acq c0) s [(c0, ⟨s.lval (.waitg sc acq c0), tokMark (s.opnds s.site (.waitg sc acq c0)).l⟩)] (Quiet s)) ∧
    (phaseDone (g.known s.site.cell) ((s.lval (.waitg sc acq c0)).toNat / 256) = false → Waits (.waitg sc acq c0) s (SameMemory s))) ∧
  (∀ sc ar c0 s c g, s.goes (.bar sc ar c0) → s.cell? s.site.cell = some c → s.group? c.rid ((s.lval (.bar sc ar c0)).toNat % 256) = some g →
    s.barrierBad s.site (s.lval (.bar sc ar c0)) false = false → (ar = true → s.performedBefore s.site.cell s.stamps = true) → g.arrived.contains s.site.cell = false →
    Waits (.bar sc ar c0) s (fun t => SameCells s t ∧ SameMemory s t ∧
      t.group? c.rid ((s.lval (.bar sc ar c0)).toNat % 256) = some (if g.members.all (fun m => decide (m = s.site.cell) || g.arrived.contains m)
        then { g with phase := (g.phase + 1) % 2 ^ 24, arrived := [] } else { g with arrived := s.site.cell :: g.arrived }))) ∧
  (∀ (s : State) k (q : Pend) sc ar c0 n rest, s.pend.findIdx? (fun x => x.stamp == q.stamp) = some k → s.pend[k]? = some q → q.instr = .bar sc ar c0 → q.notes = n :: rest →
    s.thermal = false → (s.cell? q.site.cell).isSome = true → s.phaseKnown q ((tokVal q.ops.l).toNat % 256) n = true →
    (s.resolve q.stamp).flight = s.flight ++ s.flights q.site [(c0, ⟨BitVec.ofNat 32 ((tokVal q.ops.l).toNat % 256 + n * 256), none⟩)] ∧
    (s.resolve q.stamp).pend = s.pend.eraseIdx k) ∧
  (∀ i s phase, ((∃ sc rel c0, i = .arrive sc rel c0) ∧ phase = false) ∨ ((∃ sc acq c0, i = .waitg sc acq c0) ∧ phase = true) ∨
    ((∃ sc ar c0, i = .bar sc ar c0) ∧ phase = false) → s.goes i → s.barrierBad s.site (s.lval i) phase = true →
    Runs i s [] (fun t => OwnFault s t 5 0 0 (BitVec.ofNat 64 i.opcode))) ∧
  (∀ s c r, s.goes .lift → s.cell? s.site.cell = some c → s.region? c.rid = some r → r.haltAt = none →
    (s.liftBad r (s.lval .lift) = false → r.liftReq = none → Runs .lift s [] (fun t => SameCells s t ∧ SameMemory s t ∧
      (t.region? c.rid).map (fun x => x.liftReq) = some (some (s.lval .lift)))) ∧
    (s.liftBad r (s.lval .lift) = true → Runs .lift s [] (fun t => OwnFault s t 5 0 0 (BitVec.ofNat 64 Instr.lift.opcode))))

/-! Seams, queues, commands, host ports. -/

/-- R318 to R320: at an open seam of this device, where no SEAMO waits, PUSH appends an entry of both its words, each with its mark, to the part in
the fabric while that has room and the ring is empty; at a push end whose peer is elsewhere its entry waits to leave, and PUSH with it. POP
takes the oldest entry and emits its words with their marks, low first; STATUS counts the entries. Outside a block of KIND 3 each raises
PROT, and so do PUSH at the pop end of a seam and POP at its push end. That PUSH's 0 and STATUS's count carry no mark, and POP's words those of the entry
alone, is the reading of log 16; where an entry stands between fabric and ring is log 31. -/
def Obligations.SeamInstructions : Prop :=
  (∀ p rel c0 s c b m, s.goes (.seamoPush p rel c0) → s.cell? s.site.cell = some c → s.block? s.site = some b → b.kind = 3 →
    s.seam? c.context p.toNat = some m → (∀ q ∈ s.pend, q.instr.opcode ≠ (Instr.seamoPush p rel c0).opcode) → (∀ x ∈ m.out, x.1 ≠ s.stamps) →
    (rel = true → s.performedBefore s.site.cell s.stamps = true) →
    (m.remote = false → m.back = [] → m.fab.length < 256 →
      Runs (.seamoPush p rel c0) s [(c0, ⟨0, none⟩)] (fun t => SameCells s t ∧ SameMemory s t ∧ SameSysRegs s t ∧ t.seam? c.context p.toNat = some { m with
        fab := m.fab ++ [⟨s.rval (.seamoPush p rel c0) ++ s.lval (.seamoPush p rel c0), tokMark (s.opnds s.site (.seamoPush p rel c0)).l,
          tokMark (s.opnds s.site (.seamoPush p rel c0)).r⟩] })) ∧
    (m.remote = true → m.popEnd = false → Waits (.seamoPush p rel c0) s (fun t => SameCells s t ∧ SameMemory s t ∧ SameSysRegs s t ∧
      t.seam? c.context p.toNat = some { m with
        out := m.out ++ [(s.stamps, ⟨s.rval (.seamoPush p rel c0) ++ s.lval (.seamoPush p rel c0), tokMark (s.opnds s.site (.seamoPush p rel c0)).l,
          tokMark (s.opnds s.site (.seamoPush p rel c0)).r⟩)] })) ∧
    (m.remote = true → m.popEnd = true → Runs (.seamoPush p rel c0) s [] (fun t => OwnFault s t 5 0 0 (BitVec.ofNat 64 (Instr.seamoPush p rel c0).opcode) ∧
      t.seams = s.seams))) ∧
  (∀ p acq c0 s c b m, s.goes (.seamoPop p acq c0) → s.cell? s.site.cell = some c → s.block? s.site = some b → b.kind = 3 →
    s.seam? c.context p.toNat = some m → (∀ q ∈ s.pend, q.instr.opcode ≠ (Instr.seamoPop p acq c0).opcode) → (∀ x ∈ m.out, x.1 ≠ s.stamps) →
    (∀ x rest, m.remote = false ∨ m.popEnd = true → m.fab = x :: rest →
      Runs (.seamoPop p acq c0) s [(c0, ⟨x.v.extractLsb' 0 32, x.lo⟩), (c0, ⟨x.v.extractLsb' 32 32, x.hi⟩)] (fun t => SameCells s t ∧ SameMemory s t ∧
        SameSysRegs s t ∧ t.seam? c.context p.toNat = some { m with fab := rest })) ∧
    (m.remote = true → m.popEnd = false → Runs (.seamoPop p acq c0) s [] (fun t => OwnFault s t 5 0 0 (BitVec.ofNat 64 (Instr.seamoPop p acq c0).opcode) ∧
      t.seams = s.seams))) ∧
  (∀ p c0 s c b m, s.goes (.seamoStatus p c0) → s.cell? s.site.cell = some c → s.block? s.site = some b → b.kind = 3 →
    s.seam? c.context p.toNat = some m → (∀ q ∈ s.pend, q.instr.opcode ≠ (Instr.seamoStatus p c0).opcode) → (∀ x ∈ m.out, x.1 ≠ s.stamps) →
    Runs (.seamoStatus p c0) s [(c0, ⟨BitVec.ofNat 32 (m.fab.length + m.back.length + m.out.length), none⟩)] (Quiet s)) ∧
  (∀ i s b, i.opcode = (Instr.seamoStatus 0 none).opcode → s.goes i → s.block? s.site = some b → b.kind ≠ 3 →
    Runs i s [] (fun t => OwnFault s t 5 0 0 (BitVec.ofNat 64 i.opcode) ∧ t.seams = s.seams))

/-- R95 to R97: the queue instructions go to their queue; at one of another context they raise PROT and consume no token. A queue applies one
operation in a cycle: an add to an open queue appends both words and replies the count of adds, to a closed one it raises WQ_CLOSED; a take
removes the oldest entry and replies its words, of a closed queue without an entry all ones; a close closes it. R332 does not list queue entries: that an
entry keeps the first mark of its operands, and that the counts, the closing marker and the 0 carry none, is the reading of log 16; that a refused one has
its tokens again is that of log 51. -/
def Obligations.WorkQueues : Prop :=
  (∀ i s c n, queueOf i = some n → s.goes i → s.cell? s.site.cell = some c →
    (s.queueForeign n c.context = false → Waits i s (fun t => SameCells s t ∧ SameMemory s t ∧ t.queues = s.queues)) ∧
    (s.queueForeign n c.context = true → Refused i s (fun t => OwnFault s t 5 0 0 (BitVec.ofNat 64 i.opcode) ∧ t.queues = s.queues))) ∧
  (∀ s n q p, s.queue? n = some q → q.at? ≠ some s.cycle → (s.arriveAtQueue n).nextAtQueue q = some p →
    (∀ w sc rel c0, p.instr = .wqadd w sc rel c0 → q.closed = false → ∃ t, exec (.workQueueApply n) s = .next t ∧ SameMemory s t ∧ SameCells s t ∧
      t.flight = s.flight ++ s.flights p.site [(c0, ⟨q.added + 1, none⟩)] ∧ (t.queue? n).map (fun x => x.entries) =
        some (q.entries ++ [(tokVal p.ops.r ++ tokVal p.ops.l, p.ops.mark)])) ∧
    (∀ w sc rel c0, p.instr = .wqadd w sc rel c0 → q.closed = true → ∃ t, exec (.workQueueApply n) s = .next t ∧ SameMemory s t ∧ t.flight = s.flight ∧
      (t.queue? n).map (fun x => x.entries) = some q.entries ∧
      FaultTaken s t p.stamp p.site.cell 17 0 false (originSpec p.site (s.fireNo p.site)) 0 (BitVec.ofNat 64 p.instr.opcode) (s.fireNo p.site)) ∧
    (∀ w sc acq c0, p.instr = .wqtake w sc acq c0 →
      (∀ x rest, q.entries = x :: rest → ∃ t, exec (.workQueueApply n) s = .next t ∧ SameMemory s t ∧ SameCells s t ∧
        t.flight = s.flight ++ s.flights p.site [(c0, ⟨x.1.extractLsb' 0 32, x.2⟩), (c0, ⟨x.1.extractLsb' 32 32, x.2⟩)] ∧
        (t.queue? n).map (fun x => x.entries) = some rest) ∧
      (q.entries = [] → ∃ t, exec (.workQueueApply n) s = .next t ∧ SameMemory s t ∧ SameCells s t ∧
        t.flight = s.flight ++ s.flights p.site [(c0, ⟨0xFFFFFFFF, none⟩), (c0, ⟨0xFFFFFFFF, none⟩)])) ∧
    (∀ w sc rel c0, p.instr = .wqclose w sc rel c0 → ∃ t, exec (.workQueueApply n) s = .next t ∧ SameMemory s t ∧ SameCells s t ∧
      t.flight = s.flight ++ s.flights p.site [(c0, ⟨0, none⟩)] ∧ (t.queue? n).map (fun x => (x.closed, x.entries)) = some (true, q.entries)))

/-- R91 to R94, R97, R321, R322, R384: a CMD of each kind (CMD.MATRIX, CMD.BULK, CMD.COLLECTIVE, CMD.LIFT, CMD.CHILD) is accepted in the
slot that has been free longest, with a new generation, and replies its id; a misaligned address or a poisoned descriptor is noted for the
checks at its issue; it waits on each predecessor of its context that has not retired, and retires BADPRED where one is malformed; with no slot it waits. CMDWAIT
replies the status of a retired command. COLL with a good descriptor, an all-to-all with its counts, joins its instance and waits for it; at GRP in a cell that is no member
it raises PROT; at a misaligned address it replies BADDESC. That the id, CMDWAIT's token and COLL's status carry no mark is the reading of log 16; the first generation
and the order of the checks are log 23. -/
def Obligations.CommandInstructions : Prop :=
  (∀ i s c kind rel c0 addr slot gen, cmdOf i = some (kind, rel, c0) → s.goes i → s.cell? s.site.cell = some c → (s.opnds s.site i).r = none →
    (rel = true → s.performedBefore s.site.cell s.stamps = true) → addr = (tokVal (s.nthTok s.site .l 1) ++ s.lval i).toNat →
    s.freeCmd = some slot → (s.cmds.filter (fun x => x.ctx == c.context && !x.retired)).length < 2048 →
    gen = (match s.cmds.find? (fun x => x.slot == slot) with
      | some x => (x.gen + 1) % 15
      | none => 1) →
    (∀ pa ver, addr % 64 = 0 → s.mem.lookup [] (s.site.cell / 1024 % 4) c.context addr .load = .ok pa ver → target pa = some .dram →
      s.mem.bad.contains (pa / 64) = false →
      Runs i s [(c0, ⟨BitVec.ofNat 32 (gen * 4096 + slot), none⟩)] (fun t => SameCells s t ∧ SameMemory s t ∧ ∃ x ∈ t.cmds, x.slot = slot ∧ x.gen = gen ∧
        x.ctx = c.context ∧ x.kind = kind ∧ x.retired = false ∧ x.waits = [] ∧ x.spoilt = s.mem.marks.contains (pa / 64) ∧
        x.desc = (List.range 64).map (fun k => Memory.get s.mem.bytes (pa + k)))) ∧
    (addr % 64 ≠ 0 → Runs i s [(c0, ⟨BitVec.ofNat 32 (gen * 4096 + slot), none⟩)] (fun t => SameCells s t ∧ SameMemory s t ∧ ∃ x ∈ t.cmds, x.slot = slot ∧
      x.gen = gen ∧ x.ctx = c.context ∧ x.kind = kind ∧ x.retired = false ∧ x.waits = [] ∧ x.spoilt = true))) ∧
  (∀ i s c kind rel c0 addr slot gen (r : Tok), cmdOf i = some (kind, rel, c0) → s.goes i → s.cell? s.site.cell = some c → (s.opnds s.site i).r = some r →
    (rel = true → s.performedBefore s.site.cell s.stamps = true) → addr = (tokVal (s.nthTok s.site .l 1) ++ s.lval i).toNat →
    s.freeCmd = some slot → (s.cmds.filter (fun x => x.ctx == c.context && !x.retired)).length < 2048 →
    gen = (match s.cmds.find? (fun x => x.slot == slot) with
      | some x => (x.gen + 1) % 15
      | none => 1) →
    (addr % 64 = 0 → ∃ pa ver, s.mem.lookup [] (s.site.cell / 1024 % 4) c.context addr .load = .ok pa ver ∧ target pa = some .dram ∧ s.mem.bad.contains (pa / 64) = false) →
    Runs i s [(c0, ⟨BitVec.ofNat 32 (gen * 4096 + slot), none⟩)] (fun t => SameMemory s t ∧ ∃ x ∈ t.cmds, x.slot = slot ∧ x.gen = gen ∧ x.ctx = c.context ∧ x.kind = kind ∧
      ((∀ id ∈ [r.v.toNat % 65536, r.v.toNat / 65536], id = 0xFFFF ∨ id / 4096 ≠ 15) → x.retired = false ∧ ∀ k g, (k, g) ∈ x.waits ↔
        ∃ id ∈ [r.v.toNat % 65536, r.v.toNat / 65536], id ≠ 0xFFFF ∧ k = id % 4096 ∧ g = id / 4096 ∧
          ∃ y ∈ s.cmds, y.slot = k ∧ y.gen = g ∧ y.ctx = c.context ∧ y.retired = false) ∧
      ((∃ id ∈ [r.v.toNat % 65536, r.v.toNat / 65536], id ≠ 0xFFFF ∧ id / 4096 = 15) → x.retired = true ∧ x.status = 5))) ∧
  (∀ i s kind rel c0, cmdOf i = some (kind, rel, c0) → s.goes i → s.freeCmd = none → Waits i s (fun t => SameMemory s t ∧ t.cmds = s.cmds)) ∧
  (∀ sc acq c0 s c, s.goes (.cmdwait sc acq c0) → s.cell? s.site.cell = some c →
    (∀ x, s.cmds.find? (fun y => y.slot == (s.lval (.cmdwait sc acq c0)).toNat % 4096) = some x → x.ctx = c.context →
      x.gen = (s.lval (.cmdwait sc acq c0)).toNat % 65536 / 4096 →
      (x.retired = true → Runs (.cmdwait sc acq c0) s
        [(c0, ⟨BitVec.ofNat 32 ((s.lval (.cmdwait sc acq c0)).toNat % 65536 + x.status * 65536), none⟩)] (Quiet s)) ∧
      (x.retired = false → Waits (.cmdwait sc acq c0) s (SameMemory s))) ∧
    (s.cmds.find? (fun y => y.slot == (s.lval (.cmdwait sc acq c0)).toNat % 4096) = none → Runs (.cmdwait sc acq c0) s
      [(c0, ⟨BitVec.ofNat 32 ((s.lval (.cmdwait sc acq c0)).toNat % 65536 + 0xFF0000), none⟩)] (Quiet s))) ∧
  (∀ f op sc kind c0 s, s.goes (.coll f op sc kind c0) →
    ((s.lval (.coll f op sc kind c0)).toNat % 64 ≠ 0 → Runs (.coll f op sc kind c0) s [(c0, ⟨1, none⟩)] (Quiet s)) ∧
    ((s.lval (.coll f op sc kind c0)).toNat % 64 = 0 → s.performedBefore s.site.cell s.stamps = false → Waits (.coll f op sc kind c0) s (SameMemory s))) ∧
  (∀ f op sc kind c0 s c addr pa ver d, s.goes (.coll f op sc kind c0) → s.cell? s.site.cell = some c → s.performedBefore s.site.cell s.stamps = true →
    addr = (s.rval (.coll f op sc kind c0) ++ s.lval (.coll f op sc kind c0)).toNat → addr % 64 = 0 →
    s.mem.lookup [] (s.site.cell / 1024 % 4) c.context addr .load = .ok pa ver → target pa = some .dram → s.mem.bad.contains (pa / 64) = false →
    s.mem.marks.contains (pa / 64) = false → d = (List.range 64).map (fun k => Memory.get s.mem.bytes (pa + k)) →
    collBad ⟨kind, f, op, sc⟩ d false = false →
    (sc = .grp → (s.group? c.rid (collGrp d)).any (fun g => g.members.contains s.site.cell) = false →
      Runs (.coll f op sc kind c0) s [] (fun t => OwnFault s t 5 0 0 (BitVec.ofNat 64 (Instr.coll f op sc kind c0).opcode) ∧ t.colls = s.colls)) ∧
    (∀ counts (pa2 : Nat → Nat), (sc = .grp → (s.group? c.rid (collGrp d)).any (fun g => g.members.contains s.site.cell) = true) →
      (if isA2a kind then (∀ y ∈ lineChunks (collScnt d) (4 * collNpart d), s.mem.lookup [] (s.site.cell / 1024 % 4) c.context y.1 .load = .ok (pa2 y.1) false ∧
          target (pa2 y.1) = some .dram ∧ s.mem.bad.contains (pa2 y.1 / 64) = false ∧ s.mem.marks.contains (pa2 y.1 / 64) = false) ∧
        counts = (List.range (collNpart d)).map (fun k => fieldAt ((lineChunks (collScnt d) (4 * collNpart d)).flatMap (fun y => s.mem.plain (pa2 y.1) y.2)) (4 * k) 4)
      else counts = []) → anyMeet (collRanges ⟨kind, f, op, sc⟩ d counts) = false → (∀ x ∈ s.colls, x.joins.length < x.npart) →
      Waits (.coll f op sc kind c0) s (fun t => SameCells s t ∧ SameMemory s t ∧ ∃ x ∈ t.colls, ∃ j ∈ x.joins, j.desc = d ∧ j.eng.site = s.site ∧ j.counts = counts ∧
        x.scope = sc ∧ x.cid = collCid d ∧ (x.ctx = c.context ∨ sc = .sys))))

/-- R79, R97, R98: at an enabled host port of its context, where none of its kind waits, INGRESS emits the oldest token with the mark of its operand, and
waits while there is none; an unmarked EGRESS appends an entry of both its words and replies 0. At any other port they raise PROT and consume no
token. INGRESS.ACQ waits while a write of the host is still to be performed (R80). -/
def Obligations.HostPortInstructions : Prop :=
  (∀ p acq c0 s c, s.goes (.ingress p acq c0) → s.cell? s.site.cell = some c → (s.hostPort p.toNat).foreign c.context = false →
    (∀ q ∈ s.pend, hostPortOf q.instr ≠ some (true, p.toNat)) →
    (∀ v rest, (acq = true → s.hostOps.any (fun x => x.put.isSome) = false) → (s.hostPort p.toNat).ingress = v :: rest → Runs (.ingress p acq c0) s [(c0, ⟨v, s.omark (.ingress p acq c0)⟩)] (fun t =>
      SameCells s t ∧ SameMemory s t ∧ SameSysRegs s t ∧ t.hostPort p.toNat = { s.hostPort p.toNat with ingress := rest })) ∧
    ((s.hostPort p.toNat).ingress = [] ∨ (acq = true ∧ s.hostOps.any (fun x => x.put.isSome) = true) → Waits (.ingress p acq c0) s (fun t => SameMemory s t ∧ t.hostPorts = s.hostPorts))) ∧
  (∀ p rel c0 s c, s.goes (.egress p rel c0) → s.cell? s.site.cell = some c → (s.hostPort p.toNat).foreign c.context = false →
    (∀ q ∈ s.pend, hostPortOf q.instr ≠ some (false, p.toNat)) → (rel = true → s.performedBefore s.site.cell s.stamps = true) →
    (s.hostPort p.toNat).egress.length < 256 → s.omark (.egress p rel c0) = none →
    Runs (.egress p rel c0) s [(c0, ⟨0, none⟩)] (fun t => SameCells s t ∧ SameMemory s t ∧ SameSysRegs s t ∧
      t.hostPort p.toNat = { s.hostPort p.toNat with egress := (s.hostPort p.toNat).egress ++ [s.rval (.egress p rel c0) ++ s.lval (.egress p rel c0)] })) ∧
  (∀ i s c b n, hostPortOf i = some (b, n) → s.goes i → s.cell? s.site.cell = some c → (s.hostPort n).foreign c.context = true →
    Refused i s (fun t => OwnFault s t 5 0 0 (BitVec.ofNat 64 i.opcode) ∧ t.hostPorts = s.hostPorts))

/-! Matrices, tiles and fibres. -/

/-- R256: in a block of KIND 2, with no operation queued in it and no sweep under way, SYSCFG with bit 0 of r establishes its systolic region with
its rectangle, format, cell and port, and raises PROT where the rectangle leaves the region or meets another; with bit 0 clear it releases it. R257, R278:
MMA, MMASP and MMAROW read their descriptor of 64 bytes. R258: WEDGE swaps the weights of every PE of its systolic region. Elsewhere
each raises PROT. That SYSCFG's 0 and a status BADDESC carry no mark is the reading of log 16; that WEDGE swaps every PE as its sweep begins, and not each in the cycle in
which the sweep of R258 reaches it, is log 11. -/
def Obligations.MatrixInstructions : Prop :=
  (∀ p f c0 s c b k x y w h l, s.goes (.syscfg p f c0) → s.cell? s.site.cell = some c → s.block? s.site = some b → b.kind = 2 → l = (s.lval (.syscfg p f c0)).toNat →
    x = l % 32 → y = l / 32 % 32 → w = l / 1024 % 32 + 1 → h = l / 32768 % 32 + 1 → k = l / 1048576 % 4 →
    s.sysIdle c.rid k = true → (s.sysAt c.rid k).busy ≤ s.cycle → ∀ r, s.region? c.rid = some r → k < r.sys.length →
    (s.rval (.syscfg p f c0) = 1 → l < 4194304 → x + w ≤ r.w → y + h ≤ r.h → sysMeets r.sys k x y w h = false →
      Runs (.syscfg p f c0) s [(c0, ⟨0, none⟩)] (fun t => SameCells s t ∧ SameMemory s t ∧ t.sysAt c.rid k =
        { on := true, x0 := x, y0 := y, w := w, h := h, wf := f, cell := s.site.cell, port := p.toNat, queue := [], busy := 0, row := 0 } ∧
        ∀ j, j ≠ k → t.sysAt c.rid j = s.sysAt c.rid j)) ∧
    (s.rval (.syscfg p f c0) = 0 → Runs (.syscfg p f c0) s [(c0, ⟨0, none⟩)] (fun t => SameCells s t ∧ SameMemory s t ∧ (t.sysAt c.rid k).on = false ∧
      ∀ j, j ≠ k → t.sysAt c.rid j = s.sysAt c.rid j)) ∧
    (s.rval (.syscfg p f c0) = 1 → r.w < x + w ∨ r.h < y + h →
      Runs (.syscfg p f c0) s [] (fun t => OwnFault s t 5 0 0 0xC8 ∧ t.sysAt c.rid k = s.sysAt c.rid k)) ∧
    (s.rval (.syscfg p f c0) = 1 → l < 4194304 → x + w ≤ r.w → y + h ≤ r.h → sysMeets r.sys k x y w h = true →
      Runs (.syscfg p f c0) s [] (fun t => OwnFault s t 5 0 0 0xC8 ∧ ∀ j, t.sysAt c.rid j = s.sysAt c.rid j))) ∧
  (∀ sys k x y w h, sysMeets sys k x y w h = true ↔ ∃ j z, j ≠ k ∧ sys[j]? = some z ∧ z.on = true ∧ x < z.x0 + z.w ∧ z.x0 < x + w ∧ y < z.y0 + z.h ∧ z.y0 < y + h) ∧
  (∀ i s p c0 b, (∃ acc f rm, i = .mma p acc f rm c0) ∨ (∃ acc f rm, i = .mmasp p acc f rm c0) ∨ (∃ acc f rm, i = .mmarow p acc f rm c0) → s.goes i →
    s.block? s.site = some b → b.kind = 2 →
    ((s.rval i ++ s.lval i).toNat % 64 = 0 → Accesses i s p.toNat (s.rval i ++ s.lval i).toNat 0 [((s.rval i ++ s.lval i).toNat, 64)] (fun _ => True)) ∧
    ((s.rval i ++ s.lval i).toNat % 64 ≠ 0 → Runs i s [(c0, ⟨1, none⟩)] (Quiet s))) ∧
  (∀ c0 s c b k, s.goes (.wedge c0) → s.cell? s.site.cell = some c → s.block? s.site = some b → b.kind = 2 → k = (s.lval (.wedge c0)).toNat → k < 4 →
    (s.sysAt c.rid k).on = true → (s.sysAt c.rid k).active = false → (s.sysAt c.rid k).busy ≤ s.cycle →
    Waits (.wedge c0) s (fun t => SameMemory s t ∧ (t.sysAt c.rid k).busy = s.cycle + (s.sysAt c.rid k).w + (s.sysAt c.rid k).h - 1 ∧
      ∀ n d d', s.cell? n = some d → t.cell? n = some d' → d.rid = c.rid → (s.sysAt c.rid k).covers d.rx d.ry = true →
        d'.pes.map (fun p => (p.cur, p.shadow)) = d.pes.map (fun p => (p.shadow, p.cur)) ∧ d'.pes.map (fun p => p.acc) = d.pes.map (fun p => p.acc))) ∧
  (∀ i s b, i.opcode ∈ [0xC8, 0xC9, 0xCA, 0xCB, 0xCC] → s.goes i → s.block? s.site = some b → b.kind ≠ 2 →
    Runs i s [] (fun t => OwnFault s t 5 0 0 (BitVec.ofNat 64 i.opcode)))

/-- R270, R277: PRUNE reads its descriptor of 64 bytes, and replies BADDESC at a misaligned address; NMHDR and NMCHK read the 8 bytes of a header, and
raise PROT at a misaligned address; NMEST emits the cycles that the fields of a header predict, all ones for a header that fails a check. That PRUNE's BADDESC carries no mark
is the reading of log 16. -/
def Obligations.TileInstructions : Prop :=
  (∀ p f tr c0 s, s.goes (.prune p f tr c0) →
    ((s.rval (.prune p f tr c0) ++ s.lval (.prune p f tr c0)).toNat % 64 = 0 →
      Accesses (.prune p f tr c0) s p.toNat (s.rval (.prune p f tr c0) ++ s.lval (.prune p f tr c0)).toNat 0
        [((s.rval (.prune p f tr c0) ++ s.lval (.prune p f tr c0)).toNat, 64)] (fun _ => True)) ∧
    ((s.rval (.prune p f tr c0) ++ s.lval (.prune p f tr c0)).toNat % 64 ≠ 0 → Runs (.prune p f tr c0) s [(c0, ⟨1, none⟩)] (Quiet s))) ∧
  (∀ p c0 s, s.goes (.nmhdr p c0) →
    ((s.rval (.nmhdr p c0) ++ s.lval (.nmhdr p c0)).toNat % 8 = 0 → Accesses (.nmhdr p c0) s p.toNat (s.rval (.nmhdr p c0) ++ s.lval (.nmhdr p c0)).toNat 0
      [((s.rval (.nmhdr p c0) ++ s.lval (.nmhdr p c0)).toNat, 8)] (fun _ => True)) ∧
    ((s.rval (.nmhdr p c0) ++ s.lval (.nmhdr p c0)).toNat % 8 ≠ 0 → Runs (.nmhdr p c0) s [] (fun t => OwnFault s t 5 0 0 0xD1))) ∧
  (∀ p c0 s va, s.goes (.nmchk p c0) → va = (tokVal (s.nthTok s.site .l 1) ++ tokVal (s.nthTok s.site .l 0)).toNat →
    (va % 8 = 0 → ∃ t a, exec (.nmchk p c0) s = .next t ∧ Issued (.nmchk p c0) s t ∧ t.flight = s.flight ∧
      (t.port s.site.cell p.toNat).accs = (s.port s.site.cell p.toNat).accs ++ [a] ∧ a.site = s.site ∧ a.instr = .nmchk p c0 ∧
      a.parts.map (fun (x : Part) => (x.va, x.size)) = [(va, 8)]) ∧
    (va % 8 ≠ 0 → Runs (.nmchk p c0) s [] (fun t => OwnFault s t 5 0 0 0xD2))) ∧
  (∀ p c0 s x y z yy af, s.goes (.nmest p c0) → s.nthTok s.site .l 0 = some x → s.nthTok s.site .l 1 = some y → s.nthTok s.site .l 2 = some z →
    z.v.toNat < 4194304 → s.systolic s.site.cell (z.v.toNat % 4) = some yy → matrixFmt (z.v.toNat / 262144 % 16) = some af →
    Runs (.nmest p c0) s [(c0, ⟨if (headSub (y.v ++ x.v).toNat).isSome then 0xFFFFFFFF else
      BitVec.ofNat 32 (min 0xFFFFFFFE (predict (tileHead (y.v ++ x.v).toNat) (tileHead (y.v ++ x.v).toNat).kg (tileHead (y.v ++ x.v).toNat).rows yy.w yy.h
        (z.v.toNat / 4 % 65536 + 1) af.digits)), x.mark.or (y.mark.or z.mark)⟩)] (Quiet s))

/-- R286 to R290: SCANA, SCANO, ISLD, ISPRB, UNION and FIBH at addresses that are multiples of 8 put the reads of their first ranges at their port, ISLD
having claimed its CAM; at others they raise PROT. MERGEK emits the sum of the lengths of its two runs, and waits with the runs. -/
def Obligations.FibreInstructions : Prop :=
  (∀ i s p ls rs first ranges, (∃ tree c0, i = .scana p tree c0 ∧ ls = s.toks s.site .l 3 ∧ rs = s.toks s.site .r 2 ∧ first = [pairAt ls 0, pairAt rs 0] ∧
        ranges = scanRanges tree (pairAt ls 0) (pairAt rs 0) (tokAt ls 2).toNat) ∨
      (∃ tree c0, i = .scano p tree c0 ∧ ls = s.toks s.site .l 3 ∧ rs = s.toks s.site .r 2 ∧ first = [pairAt ls 0, pairAt rs 0] ∧
        ranges = scanRanges tree (pairAt ls 0) (pairAt rs 0) (tokAt ls 2).toNat) ∨
      (∃ cam c0, i = .isld p cam c0 ∧ ls = s.toks s.site .l 3 ∧ rs = [] ∧ first = [pairAt ls 0] ∧ ranges = [(pairAt ls 0, 16)]) ∨
      (∃ cam c0, i = .isprb p cam c0 ∧ ls = s.toks s.site .l 2 ∧ rs = [] ∧ first = [pairAt ls 0] ∧ ranges = [(pairAt ls 0, 16)]) ∨
      (∃ c0, i = .union p c0 ∧ ls = s.toks s.site .l 2 ∧ rs = s.toks s.site .r 2 ∧ first = [pairAt ls 0, pairAt rs 0] ∧
        ranges = [(pairAt ls 0, 16), (pairAt rs 0, 16)]) ∨
      (∃ c0, i = .fibh p c0 ∧ ls = s.toks s.site .l 2 ∧ rs = [] ∧ first = [pairAt ls 0] ∧ ranges = [(pairAt ls 0, 16)]) →
    s.goes i → (∀ k, camOf i = some k → s.camFree s.site.cell k = true) →
    ((∀ a ∈ first, a % 8 = 0) → ∃ t a, exec i s = .next t ∧ Issued i s t ∧ t.flight = s.flight ∧
      (t.port s.site.cell p.toNat).accs = (s.port s.site.cell p.toNat).accs ++ [a] ∧ a.site = s.site ∧ a.instr = i ∧ a.more = ls ++ rs ∧
      a.parts.map (fun (x : Part) => (x.va, x.size)) = ranges.flatMap (fun r => lineChunks r.1 r.2) ∧
      (∀ cam c0, i = .isld p cam c0 → (t.cam? (s.camDie s.site.cell) cam.toNat).isSome = true)) ∧
    ((∃ a ∈ first, a % 8 ≠ 0) → Runs i s [] (fun t => OwnFault s t 5 0 0 (BitVec.ofNat 64 i.opcode)))) ∧
  (∀ p f c0 s nl nr, s.goes (.mergek p f c0) → nl = (s.lval (.mergek p f c0)).toNat % 2147483648 → nr = (s.rval (.mergek p f c0)).toNat % 2147483648 →
    ∃ t, exec (.mergek p f c0) s = .next t ∧ Issued (.mergek p f c0) s t ∧ SameMemory s t ∧ SameCells s t ∧
      t.flight = s.flight ++ s.flights s.site [(c0, ⟨BitVec.ofNat 32 (nl + nr), s.omark (.mergek p f c0)⟩)] ∧
      (nl + nr = 0 → t.pend = s.pend) ∧ (nl + nr ≠ 0 → ∃ q, t.pend = s.pend ++ [q] ∧ q.site = s.site ∧ q.notes = [nl, nr, 0])) ∧
  (∀ f nl nr, mergeSide f nl nr none none = none ∧ (∀ x y, 0 < nl → 0 < nr →
    mergeSide f nl nr (some x) (some y) = some (if keyLess f y.v x.v then .r else .l)) ∧ (∀ x y, 0 < nr → mergeSide f 0 nr x (some y) = some .r) ∧
    ∀ x y, 0 < nl → mergeSide f nl 0 (some x) y = some .l)

/-! Steps of the host, of firings, launches and regions. -/

/-- R77 to R79, R82, R114, R366, R383: with the device ready a write of LREC11 is stored, raises a launch token and ends package sleep, other LREC words are stored, in recovery
LREC11 is ignored; ING_TOKEN appends to an enabled FIFO with room and sets OVF at a full one; EG_DATA gives the oldest entry or all ones;
OWNER takes [31] and [11:0] and empties both FIFOs; RCV_GO of an image that passes makes it resident and resets the device; an access of
the memory BAR stands behind the cells' requests, then reads or writes DRAM; in recovery and minimal mode the BAR reads 0 and ignores
writes; the bridging device passes the ranges of a present member on. -/
def Obligations.HostSteps : Prop :=
  (∀ v s, s.boot.phase = .ready → s.queued.length < 64 → ∃ t l, exec (.launchToken v) s = .next t ∧ t.lrec = s.lrec.set 11 v ∧
    t.launchQ = s.launchQ ++ [l] ∧ l.words = t.lrec ∧ l.cmd = none ∧ t.boot = { s.boot with sleep := false } ∧ SameCells s t ∧ SameMemory s t) ∧
  (∀ v s, s.boot.phase = .recovery → exec (.launchToken v) s = .next s) ∧
  (∀ off v s, s.boot.phase = .ready → s.boot.minimal = false → off < 0x2C → off % 4 = 0 →
    exec (.hostRegisterWrite 0 off v) s = .next { s with lrec := s.lrec.set (off / 4) (v.setWidth 32) }) ∧
  (∀ (p : BitVec 6) (v : DWord) s, v.getLsbD 31 = true → (s.hostPorts.find? (fun h => h.num == p.toNat)).isSome = true →
    ∃ t, exec (.hostRegisterWrite (p.toNat + 1) 8 v) s = .next t ∧ t.hostPort p.toNat = { s.hostPort p.toNat with ovf := false } ∧ SameCells s t) ∧
  (∀ p v s, (s.hostPort p.toNat).owner.getLsbD 31 = true → ∃ t, exec (.ingToken p v) s = .next t ∧ SameCells s t ∧ SameMemory s t ∧
    t.hostPort p.toNat = if (s.hostPort p.toNat).ingress.length < 64 then { s.hostPort p.toNat with ingress := (s.hostPort p.toNat).ingress ++ [v] }
      else { s.hostPort p.toNat with ovf := true }) ∧
  (∀ p s x rest, (s.hostPort p.toNat).egress = x :: rest → ∃ t, exec (.egDataRead p) s = .next t ∧ SameCells s t ∧ SameMemory s t ∧
    t.hostPort p.toNat = { s.hostPort p.toNat with egress := rest } ∧ t.outbox = s.outbox ++ [⟨4, leBytes 8 x.toNat, 0⟩]) ∧
  (∀ p s, (s.hostPort p.toNat).egress = [] → ∃ t, exec (.egDataRead p) s = .next t ∧ SameCells s t ∧ SameMemory s t ∧ t.hostPorts = s.hostPorts ∧
    t.outbox = s.outbox ++ [⟨4, List.replicate 8 0xFF, 0⟩]) ∧
  (∀ p v s, (s.hostPorts.find? (fun h => h.num == p.toNat)).isSome = true → ∃ t, exec (.ownerWrite p v) s = .next t ∧ SameCells s t ∧ SameMemory s t ∧
    t.hostPort p.toNat = { s.hostPort p.toNat with owner := v &&& 0x80000FFF, ingress := [], egress := [] }) ∧
  (∀ s img, s.boot.phase = .recovery ∨ (s.boot.minimal = true ∧ s.boot.phase ≠ .off) → img = s.mem.hostBytes s.boot.rcvAddr.toNat s.boot.rcvLen.toNat →
    (imageReason s.boot.rollback img = none → ∃ t, exec .rcvGo s = .next t ∧ t.boot.image = img ∧ t.boot.phase = .held ∧ t.cells = []) ∧
    (∀ r, imageReason s.boot.rollback img = some r → ∃ t, exec .rcvGo s = .next t ∧ t.boot = { s.boot with reason := r } ∧ SameCells s t)) ∧
  (∀ off n bytes s, s.boot.phase = .ready → off < 2 ^ 40 →
    exec (.hostMemoryRead off n) s = .next { s with boot := { s.boot with sleep := false }, hostOps := s.hostOps ++ [⟨off, none, n, s.cycle⟩] } ∧
    exec (.hostMemoryWrite off bytes) s = .next { s with boot := { s.boot with sleep := false }, hostOps := s.hostOps ++ [⟨off, some bytes, bytes.length, s.cycle⟩] }) ∧
  (∀ off n arr s, 0 < n → n ≤ 64 - off % 64 → target off = some .dram → s.mem.bad.contains (off / 64) = false →
    SameCells s (s.hostDrain [⟨off, none, n, arr⟩]) ∧ (s.hostDrain [⟨off, none, n, arr⟩]).hostOps = [] ∧ (∀ a, (s.hostDrain [⟨off, none, n, arr⟩]).mem.look a = s.mem.look a) ∧
      (s.hostDrain [⟨off, none, n, arr⟩]).outbox =
        s.outbox ++ [⟨5, (List.range n).map (fun k => Memory.get s.mem.bytes (off + k)), (s.mem.marks.contains (off / 64)).toNat⟩]) ∧
  (∀ off bytes arr s, s.MemoryWf → bytes ≠ [] → bytes.length ≤ 64 - off % 64 → target off = some .dram → s.mem.bad.contains (off / 64) = false →
    SameCells s (s.hostDrain [⟨off, some bytes, bytes.length, arr⟩]) ∧ (s.hostDrain [⟨off, some bytes, bytes.length, arr⟩]).hostOps = [] ∧
      (∀ k b, bytes[k]? = some b → (s.hostDrain [⟨off, some bytes, bytes.length, arr⟩]).mem.look (off + k) = some b) ∧
      ∀ a, ¬(off ≤ a ∧ a < off + bytes.length) → (s.hostDrain [⟨off, some bytes, bytes.length, arr⟩]).mem.look a = s.mem.look a) ∧
  (∀ off n bytes s, s.boot.phase = .recovery ∨ s.boot.phase = .minimal →
    (∃ t, exec (.hostMemoryRead off n) s = .next t ∧ t.mem = s.mem ∧ SameCells s t ∧ t.outbox = s.outbox ++ [⟨5, List.replicate n 0, 0⟩]) ∧
    ∃ t, exec (.hostMemoryWrite off bytes) s = .next t ∧ t.mem = s.mem ∧ SameCells s t ∧ t.hostOps = s.hostOps) ∧
  (∀ off n bytes s, s.boot.phase = .ready → s.dev.member = 0 → 2 ^ 40 ≤ off → off < 2 ^ 44 → Config.memberPresent (off / 2 ^ 40) = true →
    (∃ t, exec (.hostMemoryRead off n) s = .next t ∧ SameCells s t ∧ SameMemory s t ∧ t.boot = { s.boot with sleep := false } ∧ t.hostOps = s.hostOps ∧
      t.outbox = s.outbox ++ [⟨13, leBytes 5 (off % 2 ^ 40) ++ leBytes 4 n, off / 2 ^ 40⟩]) ∧
    ∃ t, exec (.hostMemoryWrite off bytes) s = .next t ∧ SameCells s t ∧ SameMemory s t ∧ t.boot = { s.boot with sleep := false } ∧ t.hostOps = s.hostOps ∧
      t.outbox = s.outbox ++ [⟨12, leBytes 5 (off % 2 ^ 40) ++ bytes, off / 2 ^ 40⟩]) ∧
  (∀ page off v s, s.dev.member = 0 → 65 ≤ page → page / 65 < 16 → Config.memberPresent (page / 65) = true →
    ∃ t, exec (.hostRegisterWrite page off v) s = .next t ∧ SameCells s t ∧ SameMemory s t ∧ t.boot = s.boot ∧ t.lrec = s.lrec ∧ t.hostPorts = s.hostPorts ∧
      t.outbox = s.outbox ++ [⟨10, leBytes 1 (page % 65) ++ leBytes 2 off ++ leBytes 8 v.toNat, page / 65⟩])

/-- R105, R120, R121, R123, R125, R132, R133, R154, R205, R209: FIRING_START makes the chosen block current and begins its firing, 2 cycles later
where the context slot changes; FIRING_END advances FIRE_NO, the channels without ADVC and ADVP, and counter 0, and empties the FIFOs.
TOKEN_ARRIVE: once its time has come and its bench acts, a token of the right parity enters its FIFO, or is discarded in a firing that FEND has
closed; a stale one raises STALE_TOKEN; one of the new lift waits for the wedge. SPALL_ARRIVE: spalls are noted at the number they name, and
have no effect where it is gone; a lane is spalled once every consumer has spalled it. AGE_COUNTER_EXPIRY marks a slot of age 1,024, with the
cycle; BENCH_CLOCK_STOP stops a bench that has been quiet for 32 bench cycles. -/
def Obligations.FiringSteps : Prop :=
  (∀ s cell ctx c b, s.cell? cell = some c → c.block? ctx = some b → s.regionBegins c.rid = true → s.benchActs c = true → c.adoptAt ≤ s.cycle →
    c.switchUntil ≤ s.cycle → s.nextToFire c = some ctx → ∃ t c' b', exec (.firingStart cell ctx) s = .next t ∧ SameMemory s t ∧ SameDevice s t ∧
      t.flight = s.flight ∧ t.cell? cell = some c' ∧ c'.held = c.held ∧ c'.cur = some ctx ∧ c'.last = some ctx ∧
      c'.switchUntil = (if c.cur = some ctx then c.switchUntil else s.cycle + 2) ∧
      c'.block? ctx = some b' ∧ b'.firing = true ∧ b'.fireNo = b.fireNo ∧ b'.ins.map (fun (x : InChan) => (x.pp, x.cp)) = b.ins.map (fun (x : InChan) => (x.pp, x.cp))) ∧
  (∀ (s : State) cell ctx (c : Cell) (b : Block), s.cell? cell = some c → c.block? ctx = some b → s.regionGoes c.rid = true → s.benchActs c = true → c.cur = some ctx → s.ends c b = true →
    ∃ (t : State) (c' : Cell) (b' : Block), exec (.firingEnd cell ctx) s = .next t ∧ t.flight = s.flight ∧ t.cell? cell = some c' ∧ c'.regs = c.regs ∧
      c'.counter 0 = c.counter 0 + 1 ∧ c'.block? ctx = some b' ∧ b'.firing = false ∧ b'.fireNo = b.fireNo + 1 ∧ b'.fired = b.fired + 1 ∧
      (∀ (k : Nat) (x : InChan), b.ins[k]? = some x → (b'.ins[k]?).map (fun (y : InChan) => y.cp) = some (if x.advanced then x.cp else x.cp + BitVec.ofNat 32 (b.rates.getD k 0))) ∧
      (∀ (k : Nat) (x : OutChan), b.outs[k]? = some x → (b'.outs[k]?).map (fun (y : OutChan) => y.pp) = some (if x.advanced then x.pp else x.pp + BitVec.ofNat 32 x.w)) ∧
      ∀ sl ∈ b'.slots, sl.l.toks = [] ∧ sl.r.toks = [] ∧ sl.p.toks = [] ∧ sl.a.toks = []) ∧
  (∀ s k f c b, s.flight[k]? = some f → s.lands f.site.cell f.due = true → s.overtaken k f = false → s.cell? f.site.cell = some c →
    (c.adoptAt ≤ s.cycle → f.parity = c.parity → s.block? f.site = some b → f.site.index < b.slots.length →
      ∃ t, exec (.tokenArrive k) s = .next t ∧ t.flight = s.flight.eraseIdx k ∧ SameCells s t ∧ SameChannels s t ∧ SameMemory s t ∧
        (∀ x ∈ t.benches, x.num = benchOf f.site.cell → x.stopped = false) ∧
        ((t.slot f.site).field f.field).toks = ((s.slot f.site).field f.field).toks ++ (if b.fend.isSome then [] else [f.tok])) ∧
    (c.adoptAt ≤ s.cycle → f.parity ≠ c.parity → ∃ t, exec (.tokenArrive k) s = .next t ∧ t.flight = s.flight.eraseIdx k ∧ SameChannels s t ∧ SameMemory s t ∧
      FaultTaken s t s.stamps f.site.cell 8 0 false (originSpec f.site (s.fireNo f.site)) 0
        (BitVec.ofNat 64 (f.site.index % 64 + f.field.code * 64 + f.parity.toNat * 256)) (s.fireNo f.site)) ∧
    (s.cycle < c.adoptAt → f.parity = c.parity → exec (.tokenArrive k) s = .next s)) ∧
  ((∀ s k sp, s.spalls[k]? = some sp → s.lands sp.dest.site.cell sp.due = true →
      ∃ t, exec (.spallArrive k) s = .next t ∧ t.spalls = s.spalls.eraseIdx k ∧ t.flight = s.flight ∧ Quiet s t ∧
        (t.slot sp.dest.site).made.length = (s.slot sp.dest.site).made.length ∧
        ∀ (n : Nat) (m : Made), (s.slot sp.dest.site).made[n]? = some m → ∃ m' : Made, (t.slot sp.dest.site).made[n]? = some m' ∧ { m' with got := m.got } = m ∧
          (m.id ≠ sp.dest.id → m' = m) ∧
          (m.id = sp.dest.id → ∀ e, maskAt m'.got e = if e = sp.dest.edge then maskAt m.got e ||| sp.mask else maskAt m.got e)) ∧
    (∀ (m : Made) (k : Nat), k < 128 → (inMask m.spalled k = true ↔ ∀ e ∈ m.edges, inMask (maskAt m.got e) k = true))) ∧
  (∀ s cell pe slot c ctx b, s.cell? cell = some c → c.cur = some ctx → c.block? ctx = some b → 4 * pe + slot < b.slots.length →
    1024 ≤ (s.slot ⟨cell, ctx, 4 * pe + slot⟩).age → (s.slot ⟨cell, ctx, 4 * pe + slot⟩).aged = none →
    ∃ t, exec (.ageCounterExpiry cell pe slot) s = .next t ∧ Quiet s t ∧ t.flight = s.flight ∧
      t.slot ⟨cell, ctx, 4 * pe + slot⟩ = { s.slot ⟨cell, ctx, 4 * pe + slot⟩ with aged := some s.cycle }) ∧
  (∀ s n, (s.benchCells n).isEmpty = false → exec (.benchClockStop n) s =
    .next { s with benches := s.benches.map (fun (b : Bench) => if b.num = n then (if 32 ≤ b.quiet then { b with stopped := true } else b) else b) })

/-- R83, R86, R88, R89, R104, R130, R132, R354, R355: LAUNCH_DISPATCH of a good record whose image passes leaves the launch waiting; REGION_GRANT makes its
region, each cell reached by the wave in its cycle, with the blocks of the image's variant, FIRE_NO 0, and its context slots loaded; SEED_INJECT writes the next seed; PRELOAD loads every cell of a region, or those in which the
model places a waiting launch (log 11); DRAINED_REPORT records the drained cycle or ends the region; LIFT_WEDGE puts the blocks of the new lift in every cell that its variant covers, with FIRE_NO 0, in their
context slots, none in another, keeps the registers and accumulators and toggles the parity, each cell at the wedge's cycle; CONTEXT_RETIRE drops the context's
seams. That the wave and a wedge start in the cycle after their step, and that a load takes no time of its own, is log 11. -/
def Obligations.LaunchSteps : Prop :=
  (∀ (s s2 : State) l rest i fits seeded, s.thermal = false → s.boot.phase = .ready → s.launchQ = l :: rest → l.bad = false → (l.ctx ≠ 0 ∨ l.by0 = true) →
    s.launchQ.find? (fun x => x.judged) = none → ({ s with launchQ := rest } : State).wakeUp.loadFor l = (s2, .ok i) → l.lift0 < imgNlift i.words →
    fits = (l.wanted i.words).filter (fun v => !(l.places (imageVar i.words l.lift0 v).w (imageVar i.words l.lift0 v).h).isEmpty) →
    seeded = fits.filter (fun v => decide (l.seedn ≤ (imageVar i.words l.lift0 v).seeds.length)) → seeded ≠ [] → s2.queuesFree l = true →
    ∃ t, exec .launchDispatch s = .next t ∧ t.launchQ = rest ∧ t.launches = s.launches ++ [{ l with img := some i.id, vars := seeded }] ∧ SameCells s t) ∧
  (∀ s k l i vn v p clusters, s.launches[k]? = some l → s.thermal = false → (∀ m ∈ s.launches.take k, s.grantFor m = none) →
    s.grantFor l = some (i, vn, v, p, clusters) → s.groupClash l.ctx v none = false → ∃ t r, exec (.regionGrant k) s = .next t ∧
      t.launches.map (fun (m : Launch) => { m with judged := false }) = (s.launches.eraseIdx k).map (fun (m : Launch) => { m with judged := false }) ∧
      l.img.bind s.image? = some i ∧ vn ∈ l.vars ∧ v = imageVar i.words l.lift0 vn ∧ t.regions = s.regions ++ [r] ∧ (r.ctx, r.prio, r.die, r.x0, r.y0, r.w, r.h) = (l.ctx, l.prio, p.die, p.x0, p.y0, v.w, v.h) ∧
      (r.lift, r.var, r.clusters) = (l.lift0, vn, clusters) ∧ r.gone = false ∧ (s.mem.bad = [] → t.mem.bytes = s.mem.bytes) ∧
      ∀ x < v.w, ∀ y < v.h, ∃ c ∈ t.cells, c.num = p.num x y ∧ c.rid = r.rid ∧ c.context = l.ctx ∧ (c.rx, c.ry) = (x, y) ∧
        c.adoptAt = s.cycle + 1 + x + y ∧ c.regs.timeless = RegFiles.fresh.timeless ∧ FreshBlocks (v.cellBlocks x y) c.blocks ∧
        (v.fold ≤ 4 → (t.slotsOf c.num i.id l.lift0 vn).length = v.fold)) ∧
  (∀ s rid r x rest b, s.region? rid = some r → r.seedFrom ≤ s.cycle → s.regionGoes rid = true → s.thermal = false → r.seeds = x :: rest →
    s.block? ⟨x.cell, x.ctx, 0⟩ = some b → (b.inChan x.chan).fed = false → (b.inChan x.chan).occupancy < (b.inChan x.chan).cap →
    x.chan < b.ins.length → ∃ t b', exec (.seedInject rid) s = .next t ∧ (t.region? rid).map (fun y => y.seeds) = some rest ∧
      t.block? ⟨x.cell, x.ctx, 0⟩ = some b' ∧ b'.inChan x.chan = { b.inChan x.chan with
        buf := (b.inChan x.chan).buf.set ((b.inChan x.chan).pp.toNat % (b.inChan x.chan).cap) ⟨x.value, none⟩, pp := (b.inChan x.chan).pp + 1 }) ∧
  (∀ s rid lift var r i v, s.region? rid = some r → s.image? r.img = some i → r.gone = false → lift < imgNlift i.words → var < imgNvar i.words lift →
    v = imageVar i.words lift var → (∀ c ∈ rectCells r.die r.x0 r.y0 (min v.w r.w) (min v.h r.h), (s.currentSlots c.1).length + v.fold ≤ 4) →
    ∃ t, exec (.preload rid lift var) s = .next t ∧ SameCells s t ∧ SameMemory s t ∧ t.regions = s.regions ∧
      ∀ c ∈ rectCells r.die r.x0 r.y0 (min v.w r.w) (min v.h r.h), (t.slotsOf c.1 r.img lift var).length = v.fold) ∧
  (∀ s order lift var l i v, s.region? order = none → s.launches.find? (fun x => x.order == order) = some l → l.img.bind s.image? = some i → lift = l.lift0 →
    var ∈ l.vars → v = imageVar i.words lift var → ∃ t, exec (.preload order lift var) s = .next t ∧ SameCells s t ∧ SameMemory s t ∧ t.launches = s.launches ∧
      ∀ x ∈ s.preloadPlace l v, (t.slotsOf x.1 i.id lift var).length = v.fold) ∧
  (∀ s rid r, s.region? rid = some r → s.regionSettled r = true → s.regionGoes rid = true → s.thermal = false →
    (s.endsDrained r = false → r.owners = [] → r.drainedAt = none → ∃ t, exec (.drainedReport rid) s = .next t ∧ SameCells s t ∧ SameMemory s t ∧
      (t.region? rid).map (fun x => x.drainedAt) = some (some s.cycle)) ∧
    (s.endsDrained r = true → r.owners = [] → ∃ t, exec (.drainedReport rid) s = .next t ∧ ∀ c ∈ t.cells, c.rid = rid → 4096 ≤ c.num)) ∧
  (∀ s rid r lift var v, s.region? rid = some r → s.liftTarget r = some (lift, var, v) → r.switch = none → s.powerFits r v = true → s.wedgeReady r lift var v = true →
    ∃ t, exec (.liftWedge rid) s = .next t ∧ (t.region? rid).map (fun x => (x.lift, x.var, x.liftReq, x.sweepEnd)) =
        some (lift, var, none, s.cycle + r.w + r.h - 2) ∧ (s.mem.bad = [] → SameMemory s t) ∧
      t.cells.map (fun (c : Cell) => (c.num, c.rid, c.parity, c.regs.timeless, c.pes)) =
        s.cells.map (fun (c : Cell) => (c.num, c.rid, if c.rid = rid then !c.parity else c.parity, c.regs.timeless, c.pes)) ∧
      (∀ d ∈ t.cells, d.rid = rid → d.adoptAt = s.cycle + d.rx + d.ry ∧
        FreshBlocks (if d.rx < v.w ∧ d.ry < v.h then v.cellBlocks d.rx d.ry else []) d.blocks) ∧
      (v.fold ≤ 4 → ∀ c ∈ rectCells r.die r.x0 r.y0 v.w v.h, (t.slotsOf c.1 r.img lift var).length = v.fold)) ∧
  (∀ s ctx, s.hasState ctx = false → ∃ t, exec (.contextRetire ctx) s = .next t ∧ SameCells s t ∧ t.seams = s.seams.filter (fun m => m.ctx != ctx) ∧
    t.mem.metered = s.mem.metered.filter (fun x => x != ctx) ∧ t.mem.bytes = s.mem.bytes)

/-- R231, R232, R235, R238, R241, R242: PAGE_WALK translates the access or leaves it holding the fault, with which a word access that PROT refuses ends (R306; the reading
of log 28); COPY_SRC_COMPLETE keeps the bytes of the whole source and its status (a copy reads all of its source first: the reading of log 19); COPYR_LINE_UPDATE, once the line's
atomic unit is free, writes over its line what it held combined with the source, element by element, and counts the line; COPY_VIS_COMPLETE writes every row that is left at its
destination and ends the copy, with status 3 where a byte was poisoned; a TLBINV of another member drops the covered translations and is acknowledged. -/
def Obligations.AccessSteps : Prop :=
  (∀ (s : State) (m : MemSys) cell port k (a : Access) c va n ver, (s.port cell port).accs[k]? = some a → a.stage = .walk → a.site.cell = cell →
    s.cell? cell = some c → a.parts = [⟨va, n, none, ver, 0, none, false⟩] → (c.ports.any (fun q => q.num == port)) = true →
    (∀ pa ver', s.mem.translate s.cycle (a.wins.getD (c.port port).wins) c.die c.context (s.rootOf c) va (needOf a.instr) = (m, .ok pa ver') →
      m.forbidden ⟨va, n, some pa, ver', 0, none, false⟩ = false → ∃ t, exec (.pageWalk cell port k) s = .next t ∧
        (t.port cell port).accs[k]? = some { a with
          parts := [⟨va, n, some pa, ver', m.pageOf (a.wins.getD (c.port port).wins) c.die c.context va, none, false⟩], stage := .ready, arr := none } ∧
        t.mem.bytes = m.bytes) ∧
    (∀ code, s.mem.translate s.cycle (a.wins.getD (c.port port).wins) c.die c.context (s.rootOf c) va (needOf a.instr) = (m, .fault code) →
      ∃ t, exec (.pageWalk cell port k) s = .next t ∧ ((t.port cell port).accs[k]?).map (fun x => x.stage) =
          some (if isWordAccess a.instr = true ∧ code = 5 ∧ canonical va = true then .done [] else .held code va false s.cycle) ∧
        (code < 256 → FaultTaken s t a.stamp cell code 0 (!(isWordAccess a.instr && code == 5 && canonical va)) (originSpec a.site a.fire) (BitVec.ofNat 64 va)
          (BitVec.ofNat 64 (port % 64 + (needOf a.instr).w.toNat * 64)) a.fire))) ∧
  (∀ (s : State) cell slot c j, s.cell? cell = some c → (c.copySlot slot).job = some j → j.ended = false → j.eng.held = none →
    (∀ s2 e spans l, j.src = false → j.kind = .plain → s.readSpans j.eng j.elem ((copyRows j.desc).map (fun r => (r.1, r.2.2))) = (s2, e, spans, .bytes l) →
      ∃ t c', exec (.copySrcComplete cell slot) s = .next t ∧ t.cell? cell = some c' ∧ t.mem.bytes = s2.mem.bytes ∧
        (c'.copySlot slot).job = some { j with eng := e, got := l, segs := spadPages spans, src := true, srcStatus := if e.poisoned then 3 else 0 }) ∧
    (∀ f op va n off s2 spans, j.src = true → j.kind = .reduce f op → (copyLines j.desc)[j.at_]? = some (va, n, off) →
      s.reach j.eng .both [(va, n)] = (s2, .ok spans) → (∀ x ∈ spans, s2.mem.unitBusy x.pa x.n = false) → ∃ t c', exec (.copyrLineUpdate cell slot) s = .next t ∧ t.cell? cell = some c' ∧
        (c'.copySlot slot).job.map (fun x => (x.at_, x.ended, x.desc)) = some (j.at_ + 1, false, j.desc)) ∧
    (j.src = true → j.kind = .plain → j.writes.length ≤ j.at_ → ∃ t c', exec (.copyVisComplete cell slot) s = .next t ∧ t.cell? cell = some c' ∧
      SameMemory s t ∧ (c'.copySlot slot).job = some { j with ended := true, status := if j.status ≠ 0 then j.status else if j.eng.poisoned then 3 else 0 }) ∧
    (∀ pa, j.src = true → j.kind = .plain → (∀ w ∈ j.writes.drop j.at_, Lands s j.eng .store pa (lineChunks w.1 w.2.length)) →
      ∃ t c', exec (.copyVisComplete cell slot) s = .next t ∧ t.cell? cell = some c' ∧
        t.mem.bytes = (j.writes.drop j.at_).foldl (fun m w => putLines pa (lineChunks w.1 w.2.length) (w.2.map (fun b => b.b)) m) s.mem.bytes ∧
        (c'.copySlot slot).job.map (fun x => (x.ended, x.status)) = some (true, if j.status ≠ 0 then j.status
          else if j.eng.poisoned || (j.writes.drop j.at_).any (fun w => w.2.any (fun b => b.bad)) then 3 else 0)) ∧
    (∀ f op va n off pa, j.src = true → j.kind = .reduce f op → (copyLines j.desc)[j.at_]? = some (va, n, off) → Lands s j.eng .both pa (lineChunks va n) →
      (∀ x ∈ lineChunks va n, target (pa x.1) = some .dram ∧ s.mem.unitBusy (pa x.1) x.2 = false) → ∃ t, exec (.copyrLineUpdate cell slot) s = .next t ∧
        t.mem.bytes = putLines pa (lineChunks va n) ((combine f op ((lineChunks va n).flatMap (fun x =>
          (s.mem.plain (pa x.1) x.2).map (fun b => (⟨b, s.mem.marks.contains (pa x.1 / 64)⟩ : RByte)))) ((j.got.drop off).take n)).1.map (fun b => b.b)) s.mem.bytes)) ∧
  (∀ f op (old src : List RByte) i, i < src.length / reduceSize f → (((combine f op old src).1.drop (reduceSize f * i)).take (reduceSize f)).map (fun b => (b.b, b.bad)) =
    (leBytes (reduceSize f) (reduceWord f op (BitVec.ofNat 32 (rbNat ((old.drop (reduceSize f * i)).take (reduceSize f))))
      (BitVec.ofNat 32 (rbNat ((src.drop (reduceSize f * i)).take (reduceSize f))))).1.toNat).map (fun b =>
        (b, rbBad ((old.drop (reduceSize f * i)).take (reduceSize f)) || rbBad ((src.drop (reduceSize f * i)).take (reduceSize f))))) ∧
  (∀ d x : Word, reduceWord .int32 .add d x = (d + x, 0) ∧ (reduceWord .int32 .min d x).1.toInt = min d.toInt x.toInt ∧
    (reduceWord .int32 .max d x).1.toInt = max d.toInt x.toInt) ∧
  (∀ (f : Fmt) d x, f ≠ .int32 → (wordVal f d).2 = 0 → (wordVal f x).2 = 0 →
    (reduceWord f .add d x).1 = (toWord f .rne (Exact.of (addVal .rne (wordVal f d).1 (wordVal f x).1).1)).1 ∧
    (reduceWord f .min d x).1 = valWord f (minMax true (wordVal f d).1 (wordVal f x).1) ∧
    (reduceWord f .max d x).1 = valWord f (minMax false (wordVal f d).1 (wordVal f x).1)) ∧
  (∀ s (ctl : Word) (va : DWord), (∀ x ∈ s.cells, ∀ q ∈ x.ports, q.accs = []) → s.heldEngs = [] →
    (∀ x ∈ s.cmds, x.eng.held = none ∧ ∀ j, x.copy = some j → j.eng.held = none) → ∃ t, exec (.tlbinvRemoteBroadcast ctl va) s = .next t ∧
    t.mem.tlb = s.mem.tlb.filter (fun e => !(coverOf ctl.toNat va.toNat).hits e.ctx e.vbase e.size) ∧ SameMemory s t ∧ SameChannels s t ∧
    t.outbox = s.outbox ++ [⟨2, leBytes 4 ctl.toNat ++ leBytes 8 va.toNat, 0⟩])

/-- R92, R93, R94, R252, R254, R312, R314, R319, R325: a bulk copy whose descriptor passes is issued, one whose KIND differs is retired BADDESC, a cancelled one
CANCELLED; a command with a result retires; an operation with its weights starts at the head of its queue and ends after its last row; a
collective whose participants have all written completes; an entry arrives at its seam; a member cell learns the phase; an owner applies its
first update. R74 to R76, R251, R252: a row of a dense operation leaves in each lane of the south edge below N the products of its column accumulated in chunks of 32, or one by one, and in
no other lane anything, and in C the words, rounded once, or the entries; a chunk is the exact sum of its products, scaled, with R75's results for NaN and infinity. That COLL's status
token carries no mark is the reading of log 16; the turns of the systolic regions and of collectives are those of logs 29 and 32, and a row a turn that of log 11. -/
def Obligations.EngineSteps : Prop :=
  (∀ s slot (x : Cmd), s.cmds.find? (fun c => c.slot == slot && !c.retired && !c.issued) = some x → x.waits = [] → s.thermal = false →
    (x.cancelled = true → ∃ t, exec (.commandIssue slot) s = .next t ∧ SameCells s t ∧ SameMemory s t ∧ ∃ y ∈ t.cmds, y.slot = slot ∧ y.gen = x.gen ∧ y.retired = true ∧ y.status = 2) ∧
    (x.cancelled = false → x.kindBad = true → ∃ t, exec (.commandIssue slot) s = .next t ∧ SameCells s t ∧ SameMemory s t ∧
      ∃ y ∈ t.cmds, y.slot = slot ∧ y.gen = x.gen ∧ y.retired = true ∧ y.status = 1) ∧
    (∀ kind h, x.cancelled = false → x.kindBad = false → x.kind = 1 → (∀ p ∈ s.parked, p.region.rid ≠ x.eng.rid) →
      (∀ d ∈ s.cmds.takeWhile (fun d => d.slot != slot), d.engine = x.engine → d.retired = true ∨ d.issued = true ∨ d.waits ≠ []) →
      bulkKind (fieldAt x.desc 0x28 4) = some (kind, h) →
      copyBad x.desc (fun _ => true) (match kind with | .reduce f _ => some f | .plain | .convert _ => none) = false →
      ∃ t, exec (.commandIssue slot) s = .next t ∧ SameCells s t ∧ SameMemory s t ∧
        ∃ y ∈ t.cmds, y.slot = slot ∧ y.gen = x.gen ∧ y.issued = true ∧ y.copy = some (Copy.fresh x.eng kind h x.desc))) ∧
  (∀ s slot (x : Cmd) r, s.cmds.find? (fun c => c.slot == slot && !c.retired && c.issued) = some x → s.thermal = false → x.result = some r →
    s.cmds.find? (fun c => c.slot == slot && !c.retired) = some x → (∀ y ∈ s.mem.posted, y.cmd ≠ some slot) → ∃ t, exec (.commandRetire slot) s = .next t ∧ SameCells s t ∧ SameMemory s t ∧
      (∃ y ∈ t.cmds, y.slot = slot ∧ y.gen = x.gen ∧ y.retired = true ∧ y.status = (if x.kind = 0 then (if r = 1 then 1 else if r = 2 then 3 else 0) else r)) ∧ (t.ctxRegs x.ctx).cmds = (s.ctxRegs x.ctx).cmds + 1) ∧
  (∀ s rid k (x : SysOp) rest, (s.sysAt rid k).queue = x :: rest → x.started = false → x.eng.held = none → (s.sysAt rid k).busy ≤ s.cycle → x.status = 0 → x.bands = [] →
    (x.loaded = 0 → s.opRefused rid (s.sysAt rid k) (matOf x.desc x.instr) = false) →
    ((matOf x.desc x.instr).keepw = true → ∃ t, exec (.matrixOpStart rid k) s = .next t ∧ SameMemory s t ∧ SameChannels s t ∧
      (t.sysAt rid k).queue = { x with started := true, swept := s.cycle } :: rest) ∧
    ((matOf x.desc x.instr).keepw = false → 4 * (s.sysAt rid k).h ≤ x.loaded → ∃ t, exec (.matrixOpStart rid k) s = .next t ∧ SameMemory s t ∧ SameChannels s t ∧
      (t.sysAt rid k).queue = { x with started := true, swept := s.cycle + (s.sysAt rid k).w + (s.sysAt rid k).h - 1 } :: rest)) ∧
  (∀ s rid k (x : SysOp) rest slot, (s.sysAt rid k).queue = x :: rest → x.started = true → x.eng.held = none → x.swept ≤ s.cycle → x.status = 0 → x.bands = [] →
    x.out = none → (matOf x.desc x.instr).m ≤ x.row → x.instr = none → x.cmd = some slot → ∃ t, exec (.matrixOpComplete rid k) s = .next t ∧ SameMemory s t ∧
      SameChannels s t ∧ (t.sysAt rid k).queue = rest ∧ ∀ y ∈ t.cmds, y.slot = slot → y.result = some 0) ∧
  (∀ s rid k y (x : SysOp) rest o s2 e l, y = s.sysAt rid k → y.queue = x :: rest → x.started = true → x.eng.held = none → x.swept ≤ s.cycle → x.status = 0 →
    x.bands = [] → x.out = none → o = matOf x.desc x.instr → x.row < o.m → o.n ≤ 512 * y.w →
    s.readEng (s.shareFlags x.eng) (elemStart (o.af.getD .fp32).width [o.aRow (o.af.getD .fp32) x.row])
      (o.rowRanges (o.af.getD .fp32) x.row ++ (if o.init && !o.isRow then [o.entryRange x.row 0 o.n] else [])) = (s2, e, .bytes l) →
    (s.cells.map (fun c => c.num)).Nodup → (∀ c ∈ s.cells, c.pes.length = 16 ∧ ∀ p ∈ c.pes, p.acc.length = 4) →
    (∀ c < 4 * y.w, (s.sysPe rid y (4 * y.h - 1) c).isSome = true) → ∃ t, exec (.matrixOpComplete rid k) s = .next t ∧
      (∀ n < 512 * y.w, t.southLane rid y o.acc n = if n < o.n then matLane s rid y o l e n else s.southLane rid y o.acc n) ∧
      (o.c = 0 → t.mem.bytes = s2.mem.bytes) ∧
      ∀ bytes masks pa, o.c ≠ 0 → placeElems 0 o.outBits ((List.range o.n).map (fun n => matOut1 o (o.path y.wf == .int) (matLane s rid y o l e n))) = (bytes, masks) →
        Lands s2 e .store pa (lineChunks (vaPlus o.c (x.row * o.ldc)) bytes.length) →
        (∀ c ∈ lineChunks (vaPlus o.c (x.row * o.ldc)) bytes.length, target (pa c.1) ≠ some .spad ∨ ∀ b ∈ masks, b = 0xFF) →
        t.mem.bytes = mixLines pa (lineChunks (vaPlus o.c (x.row * o.ldc)) bytes.length) (bytes.map (fun b => b.b)) masks s2.mem.bytes) ∧
  (∀ w (l : List (Nat × Bool)) i x, 0 < w → l[i]? = some x → ((placeElems 0 w l).1.length = (w * l.length + 7) / 8 ∧
    leNat ((placeElems 0 w l).1.map (fun b => b.b)) / 2 ^ (w * i) % 2 ^ w = x.1 % 2 ^ w ∧
    leNat (placeElems 0 w l).2 = 2 ^ (w * l.length) - 1)) ∧
  (∀ path mx start (l l' : List Term), path ≠ .product →
    (l ≠ [] → l.length ≤ 32 → (accumulateTerms path mx start l).1.val = (addTerm (path == .int) start.val (chunkVal mx l).1).1 ∧
      (accumulateTerms path mx start l).2 = (addTerm (path == .int) start.val (chunkVal mx l).1).2 ||| (chunkVal mx l).2) ∧
    (l.length = 32 → (accumulateTerms path mx start (l ++ l')).1.val = (accumulateTerms path mx (accumulateTerms path mx start l).1 l').1.val ∧
      (accumulateTerms path mx start (l ++ l')).2 = (accumulateTerms path mx start l).2 ||| (accumulateTerms path mx (accumulateTerms path mx start l).1 l').2)) ∧
  (∀ mx start (t : Term) (l : List Term), (accumulateTerms .product mx start (t :: l)).1.val =
    (accumulateTerms .product mx ⟨(addTerm false start.val (scaled mx t.sa t.sb (mulVal t.a t.b).1)).1, start.mark⟩ l).1.val) ∧
  (∀ path mx start (l : List Term), (accumulateTerms path mx start l).1.mark.isSome = (start.mark.isSome || l.any (fun t => t.mark.isSome)) ∧
    accumulateTerms path mx start [] = (start, 0)) ∧
  (∀ (mx : Bool) (l : List Term) (sa sb : Byte), l ≠ [] → (∀ t ∈ l, t.sa = sa ∧ t.sb = sb) → (mx = true → sa ≠ 0xFF ∧ sb ≠ 0xFF) →
    ((∀ t ∈ l, (t.a.isFin ∨ t.a.isZero) ∧ (t.b.isFin ∨ t.b.isZero)) → (chunkVal mx l).2 = 0 ∧
      ratOf (chunkVal mx l).1 = (l.map (fun t => ratOf t.a * ratOf t.b)).sum * (if mx then (2 : ℚ) ^ ((sa.toNat : Int) + sb.toNat - 254) else 1) ∧
      ((l.map (fun t => ratOf t.a * ratOf t.b)).sum = 0 → (chunkVal mx l).1 = .zero (l.all (fun t => (mulVal t.a t.b).1 == .zero true)))) ∧
    (∀ n, (∀ t ∈ l, (mulVal t.a t.b).1 ≠ .nan) → (∃ t ∈ l, (mulVal t.a t.b).1 = .inf n) →
      chunkVal mx l = if l.any (fun t => (mulVal t.a t.b).1 == .inf !n) then (.nan, flagNV) else (.inf n, 0))) ∧
  (∀ (mx : Bool) (l : List Term), ((∃ t ∈ l, t.a = .nan ∨ t.b = .nan ∨ (mulVal t.a t.b).2 = flagNV) ∨
      (mx = true ∧ ∃ t, l.head? = some t ∧ (t.sa = 0xFF ∨ t.sb = 0xFF))) → (chunkVal mx l).1 = .nan ∧
    ((∃ t ∈ l, (mulVal t.a t.b).2 = flagNV) → (chunkVal mx l).2 = flagNV)) ∧
  (∀ (rm : Rnd) (x : Exact) (k : Int), (∀ n e, x.val ≠ .fin n 0 e) → ((entryVal false (entryOf false (acc40.round rm x).1)).2 = 0 ∧
      ratOf (entryVal false (entryOf false (acc40.round rm x).1)).1 = ratOf (acc40.round rm x).1) ∧
    (-(2 ^ 47) ≤ k → k < 2 ^ 47 → entryVal true (entryOf true (Val.ofInt k)) = (Val.ofInt k, 0))) ∧
  (∀ s k (x : Coll), s.colls[k]? = some x → x.npart ≤ x.joins.length → (∀ j ∈ x.joins, j.at_ ≠ s.cycle ∧ ∀ p ∈ s.parked, ∀ q ∈ p.pends, q.stamp ≠ j.eng.stamp) → x.written.length = x.joins.length → x.mismatch = false →
    (∀ j ∈ x.joins, j.readDone = true ∧ j.status = 0) → (∀ z ∈ x.joins.zip x.written, x.goal z.1 ≤ z.2) →
    (∃ t, exec (.collComplete k) s = .next t ∧ SameMemory s t ∧ SameCells s t ∧ t.colls = s.colls.eraseIdx k) ∧
    ∀ j p f op sc kind c0, x.joins = [j] → j.cmd = none → s.pend.find? (fun p => p.stamp == j.eng.stamp) = some p → p.instr = .coll f op sc kind c0 →
      ∃ t, exec (.collComplete k) s = .next t ∧ t.flight = s.flight ++ s.flights p.site [(c0, ⟨BitVec.ofNat 32 (x.statusOf false j), none⟩)]) ∧
  (∀ s ctx n m v lo hi, s.seam? ctx n = some m → m.remote = true → m.popEnd = true → m.back = [] → m.fab.length < 256 → ∃ t,
    exec (.seamRemoteEntry ctx n v (lo, hi)) s = .next t ∧ SameMemory s t ∧ SameCells s t ∧ t.seam? ctx n = some { m with fab := m.fab ++ [⟨v, lo, hi⟩] }) ∧
  (∀ s rid gid cell g, s.group? rid gid = some g → ∃ t, exec (.phaseNotify rid gid cell) s = .next t ∧ SameMemory s t ∧ SameCells s t ∧
    (t.group? rid gid).map (fun h => (h.known cell, h.phase, h.arrived)) = some (g.phase, g.phase, g.arrived)) ∧
  (∀ s rid r o u, s.region? rid = some r → r.owners = [o] → o.ready = true → o.at? ≠ some s.cycle →
    firstUpdate (r.updates.filter (fun u => u.owner == o.eng.stamp && decide (u.due ≤ s.cycle))) = some u →
    ∃ t, exec (.updApply rid) s = .next t ∧ SameMemory s t ∧ (t.region? rid).map (fun y => (y.updates, y.owners.map (fun w => w.buf))) =
      some (r.updates.erase u, [o.buf.set ((u.va - o.va) / 4)
        ⟨(atomNew o.op (o.buf.getD ((u.va - o.va) / 4) ⟨0, none⟩).v u.tok.v 0).1.getD (o.buf.getD ((u.va - o.va) / 4) ⟨0, none⟩).v,
          (o.buf.getD ((u.va - o.va) / 4) ⟨0, none⟩).mark.or u.tok.mark⟩]))

/-- R329, R334 to R343: HANG is recorded in the region's first cell and stops it where FLT_CTL says so; FAULT_HOLD starts a park, for a fault whose record bears PARKED, and raises a vector; the
grace and a timed eviction end every region of the context; a write of TSW_CTL stands until TSW_AT and is refused while one stands; a
switch point migrates the region, or withdraws a shrink; a migration carries registers, accumulators, FIRE_NO and firing counts by block, and
the tokens of a channel in their order; PARK writes the save slots of R344, each part at its place, and takes the region from its cells, and a
resume brings it back; a write of
FLT_CAUSE clears the five registers; a corrected error is counted, any other ends the region; outside a live region an
uncorrectable one is counted as a dropped preload (log 38). What the private bytes of a slot hold is log 37; which block takes over which in a migration
and in which form is log 36. -/
def Obligations.SwitchSteps : Prop :=
  (∀ s rid r, s.region? rid = some r → r.gone = false → r.stopAt = none → s.hangLimit r.ctx ≤ r.idle → (s.ctxRegs r.ctx).occMap.getLsbD 0 = false →
    ∃ t, exec (.hangLimitExpiry rid) s = .next t ∧ FaultTaken s t s.stamps (cellNum r.die r.x0 r.y0) 11 0 false (BitVec.ofNat 32 (cellNum r.die r.x0 r.y0)) 0 0 0 ∧
      ((s.ctxRegs r.ctx).fltCtl.getLsbD 11 = true → (t.region? rid).map (fun x => x.stopAt) = some (some s.cycle))) ∧
  (∀ s rid r, s.region? rid = some r → r.gone = false → s.holdDue rid = true →
    ∃ t, exec (.faultHoldExpiry rid) s = .next t ∧ t.msix = s.msix ++ [s.dev.member] ∧
      (t.region? rid).map (fun x => (x.switch, x.gone)) = some (some ⟨.hold, s.cycle, false, s.parkFault r⟩, false) ∧
      ∀ f, s.parkFault r = some f → f.parked = true ∧ f.held = true ∧ f.ctx = r.ctx) ∧
  (∀ s rid r sw, s.region? rid = some r → r.switch = some sw → sw.kind ≠ .hold → sw.reached = false → r.gone = false → s.regionHolds rid = false →
    sw.start + s.dev.switchGrace.toNat ≤ s.cycle → ∃ t, exec (.switchGraceExpiry rid) s = .next t ∧ (∀ x ∈ t.regions, x.ctx ≠ r.ctx) ∧ ∀ p ∈ t.parked, p.region.ctx ≠ r.ctx) ∧
  (∀ s, s.dev.tswCtl.getLsbD 31 = true → s.dev.tswAt.toNat ≤ s.cycle → s.thermal = false → s.dev.tswCtl.toNat / 4096 % 4 = 2 →
    ∃ t, exec .tswAtReached s = .next t ∧ t.dev.tswCtl.getLsbD 31 = false ∧ ∀ x ∈ t.regions, x.ctx ≠ s.dev.tswCtl.toNat % 4096) ∧
  (∀ s (v : Word), v.toNat / 4096 % 4 ≠ 0 → v.toNat / 4096 % 4 ≠ 3 →
    (s.dev.tswCtl.getLsbD 31 = false → s.cycle < s.dev.tswAt.toNat →
      exec (.tswCtlWrite v) s = .next { s with dev := { s.dev with tswCtl := (v &&& 0xFFFF) ||| 0x80000000 } }) ∧
    (s.dev.tswCtl.getLsbD 31 = true → exec (.tswCtlWrite v) s = .next s)) ∧
  (∀ s (v : Word), exec (.resumeWrite v) s = .next { s with parked := s.parked.map (fun (p : Parked) =>
    if p.byHold = true ∧ p.region.ctx = v.toNat % 4096 then { p with resumed := true } else p) }) ∧
  (∀ s cell c, s.cell? cell = some c → c.flt.at? ≠ some s.cycle → ∃ t c', exec (.fltCauseClear cell) s = .next t ∧ SameMemory s t ∧ SameDevice s t ∧
    t.cell? cell = some c' ∧ c'.flt.regs = ⟨0, 0, 0, 0, 0⟩ ∧ c'.flt.exc = c.flt.exc ∧ c'.regs = c.regs) ∧
  (∀ s rid r sw, s.region? rid = some r → r.switch = some sw → sw.kind ≠ .hold → s.thermal = false → s.regionGoes rid = true → r.gone = false →
    s.regionHolds rid = false → s.atSwitchPoint r = true → r.liftReq = none →
    (∀ old var v, s.varOf r = some old → (s.ordered r r.lift).find? (fun x => s.isTarget r sw.kind x && s.migratable r.rid old x.2) = some (var, v) →
      ∃ t, exec (.switchPoint rid) s = .next t ∧ (t.region? rid).map (fun x => (x.var, x.w, x.h, x.power, x.switch)) = some (var, v.w, v.h, v.power, none) ∧
        (∀ c ∈ t.cells, c.rid = rid → c.rx < v.w ∧ c.ry < v.h) ∧
        ((s.regions.map (fun x => x.rid)).Nodup → ((s.cellsOf rid).map (fun c => c.num)).Nodup →
          (∀ c ∈ s.cellsOf rid, c.rx < v.w → c.ry < v.h → ∃ c' ∈ t.cells, c'.num = c.num ∧ c'.rid = rid ∧ c'.regs.timeless = c.regs.timeless ∧
            c'.pes = c.pes) ∧
          (∀ k bo bn o, old.blocks[k]? = some bo → v.placesBlock k bn → s.varBlock rid bo = some o → (s.cellAt rid bn.x bn.y).isSome = true →
            ∃ x, t.varBlock rid bn = some x ∧ (x.fireNo, x.fired, x.words) = (o.fireNo, o.fired, bn.words)) ∧
          ∀ k e kb bn, v.placesChan k e bn → v.placesBlock kb bn → (s.cellAt rid bn.x bn.y).isSome = true →
            t.chanTokens rid v k = s.chanTokens rid old k ∧ ∃ x, t.varBlock rid bn = some x ∧
              ((x.inChan e.dch).cp, (x.inChan e.dch).pp) = (0, BitVec.ofNat 32 (s.chanTokens rid old k).length))) ∧
    (∀ old n, s.varOf r = some old → sw.kind = .shrink n → (s.ordered r r.lift).find? (fun x => s.isTarget r sw.kind x && s.migratable r.rid old x.2) = none →
      ∃ t, exec (.switchPoint rid) s = .next t ∧ SameCells s t ∧ SameMemory s t ∧ (t.region? rid).map (fun x => x.switch) = some none)) ∧
  (∀ s rid r sw s1 s2, s.region? rid = some r → r.switch = some sw → sw.kind = .hold ∨ s.regionHolds rid = true → r.gone = false → s.regionGoes rid = true →
    s.thermal = false → r.sweeping = false → r.updates = [] → r.sys.all Systolic.parkable = true → (s.cellsOf rid).all s.parkable = true →
    (s.ctxRegs r.ctx).saveBase.getLsbD 0 = true → s1 = s.settlePointers ((s.cellsOf rid).map (fun c => c.num)) →
    s1.saveCells r.ctx s1.fresh (s1.cellsOf rid) = (s2, true) →
    ∃ t p, exec (.park rid) s = .next t ∧ t.parked = s.parked ++ [p] ∧ p.region = { r with switch := none } ∧ p.byHold = decide (sw.kind = .hold) ∧
      p.resumed = false ∧ (sw.fault = none → p.cells = s1.cellsOf rid ∧ t.logQ = s.logQ) ∧
      (∀ f, sw.fault = some f → p.cells = (s2.raise f).cellsOf rid ∧ t.logQ = (s2.raise f).logQ) ∧
      (∀ c ∈ t.cells, c.rid ≠ rid) ∧ (∀ x ∈ t.regions, x.rid ≠ rid) ∧ t.mem.bytes = s2.mem.bytes) ∧
  (∀ (s t : State) (ctx salt : Nat) (c : Cell) (rest : List Cell), s.saveCells ctx salt (c :: rest) = (t, true) ↔ ∃ u,
    Written ctx ((c.saveParts ++ [(0x1D500, privateBytes salt c.num)]).flatMap (fun (x : Nat × List Byte) =>
      linesOf (((s.ctxRegs ctx).saveBase.toNat / 0x20000 * 0x20000 + c.num * 0x20000) % 2 ^ 64 + x.1) x.2)) s u ∧ u.saveCells ctx salt rest = (t, true)) ∧
  (∀ c : Cell, c.saveParts.map (fun x => (x.1, x.2.length)) =
      [(0, 18432), (0x4800, 65536), (0x14800, 2048), (0x15000, 16384), (0x19000, 1024), (0x19400, 256), (0x19500, 16384)] ∧
    (∀ d, c.saveParts[0]? = some (0, d) → RegPart c d) ∧
    (∀ d, c.saveParts[1]? = some (0x4800, d) → ∀ p < 16, ∀ a < 4, ∀ k < 128, fieldAt d (8 * (128 * (4 * p + a) + k)) 8 =
      entryOf ((c.pe p).accReg a).int (laneAt ((c.pe p).accReg a).lanes k).val % 2 ^ 64) ∧
    (∀ d, c.saveParts[2]? = some (0x14800, d) → ∀ p < 16, ∀ a < 4, ∀ k < 128, bitOf (fieldAt d (32 * (4 * p + a)) 16) k =
      (laneAt ((c.pe p).accReg a).lanes k).mark.isSome) ∧
    (∀ d, c.saveParts[5]? = some (0x19400, d) → ∀ (k : Nat) (w : Word), k < 64 → (c.blocks.flatMap (fun b =>
      b.ins.flatMap (fun x => [x.cp, x.pp]) ++ b.outs.flatMap (fun x => [x.pp, BitVec.ofNat 32 x.w])))[k]? = some w → fieldAt d (4 * k) 4 = w.toNat)) ∧
  (∀ s k p s2 cells, s.parked[k]? = some p → s.thermal = false → s.resumable p = true → s.restoreCells p.region.ctx p.salt p.cells = (s2, some cells) →
    ∃ t, exec (.regionResume k) s = .next t ∧ t.parked = s.parked.eraseIdx k ∧
      ∃ x ∈ t.regions, x.rid = p.region.rid ∧ x.switch = none ∧ (x.x0, x.y0, x.w, x.h, x.lift, x.var) = (p.region.x0, p.region.y0, p.region.w, p.region.h, p.region.lift, p.region.var)) ∧
  (∀ s (e : SoftError) c, s.cell? e.cell = some c → s.regionLives c.rid = true →
    (e.correctable = true → c.adoptAt ≤ s.cycle → ∃ t c', exec (.softError e) s = .next t ∧ Quiet s t ∧ t.cell? e.cell = some c' ∧ c'.counter 6 = c.counter 6 + 1) ∧
    (e.correctable = false → e.storage ≠ 0 → ∃ t, exec (.softError e) s = .next t ∧ ∀ d ∈ t.cells, d.rid = c.rid → 4096 ≤ d.num)) ∧
  (∀ s (e : SoftError), (∀ c, s.cell? e.cell = some c → s.regionLives c.rid = false) → (e.correctable = true → exec (.softError e) s = .next s) ∧
    (e.correctable = false → ∃ t, exec (.softError e) s = .next t ∧ SameCells s t ∧ SameMemory s t ∧
      t.preloadDrops e.cell = s.preloadDrops e.cell + 1 ∧ ∀ n, n ≠ e.cell → t.preloadDrops n = s.preloadDrops n))

/-- R360 to R362, R369, R371: DROOP_TRIP moves its bench one step up and sets the sticky bit of droop, and DROOP_RELEASE moves it one step back after
65,536 cycles; CURRENT_CEILING_TRIP moves every bench one step up and sets its sticky bit, and CURRENT_CEILING_RELEASE moves each one step back;
after each of the four every cell has the divider of its bench. THERMAL_TRIP stops the clocks and THERMAL_RELEASE restarts them; BUDGET_CHANGE
sets the budget, and narrows no region where the committed power fits; MOD_CAP and DBG_REQ take the values that R369 admits;
SIDEBAND_REGISTER_WRITE writes MOD_CAP, DBG_REQ, MAILBOX and the sticky bits of LIMITS, and no read-only register. -/
def Obligations.PowerLimits : Prop :=
  (∀ s n, ∃ t, exec (.droopTrip n) s = .next t ∧ SameMemory s t ∧ SameCellsButTimes s t ∧ t.boot = { s.boot with limits := s.boot.limits ||| 0x10 } ∧ DividersSet s t ∧
    t.benches = s.benches.map (fun (b : Bench) => if b.num = n then
      { b with droop := if dividerUp (s.askedDivider n) b.droop < 8 then b.droop + 1 else b.droop, tripAt := s.cycle } else b)) ∧
  (∀ s n, ∃ t, exec (.droopRelease n) s = .next t ∧ SameMemory s t ∧ SameCellsButTimes s t ∧ t.boot = s.boot ∧ DividersSet s t ∧
    t.benches = s.benches.map (fun (b : Bench) => if b.num = n then
      (if 0 < b.droop ∧ b.tripAt + 65536 ≤ s.cycle then { b with droop := b.droop - 1, tripAt := s.cycle } else b) else b)) ∧
  (∀ s, ∃ t, exec .currentCeilingTrip s = .next t ∧ SameMemory s t ∧ SameCellsButTimes s t ∧ t.boot = { s.boot with limits := s.boot.limits ||| 0x20 } ∧ DividersSet s t ∧
    t.benches = s.benches.map (fun (b : Bench) => { b with current := if dividerUp (s.askedDivider b.num) b.current < 8 then b.current + 1 else b.current })) ∧
  (∀ s, ∃ t, exec .currentCeilingRelease s = .next t ∧ SameMemory s t ∧ SameCellsButTimes s t ∧ t.boot = s.boot ∧ DividersSet s t ∧
    t.benches = s.benches.map (fun (b : Bench) => { b with current := b.current - 1 })) ∧
  (∀ s, exec .thermalTrip s = .next { s with thermal := true, boot := { s.boot with limits := s.boot.limits ||| 0x40 } } ∧
    ∀ c, ({ s with thermal := true } : State).benchActs c = false) ∧
  (∀ s, exec .thermalRelease s = .next { s with thermal := false }) ∧
  (∀ s watts, s.boot.phase = .ready → s.boot.safeTable = false → ∃ t, exec (.budgetChange watts) s = .next t ∧ SameCells s t ∧ SameMemory s t ∧
    t.boot = { s.boot with budget := min watts s.boot.modCap } ∧ (s.committed ≤ min watts s.boot.modCap → t.regions = s.regions)) ∧
  (∀ s (v : BitVec 16), s.boot.phase ≠ .off → (400 ≤ v.toNat ∧ v.toNat ≤ 2800 → exec (.modCap v) s = .next { s with boot := { s.boot with modCap := v.toNat } }) ∧
    (v.toNat < 400 ∨ 2800 < v.toNat → exec (.modCap v) s = .next s)) ∧
  (∀ s (v : Word), s.boot.phase ≠ .off → (v.toNat % 4 ≠ 3 → ∃ t, exec (.dbgReq v) s = .next t ∧ SameCells s t ∧ t.mem = s.mem ∧ t.boot.dbgReq = v &&& 3 ∧
      t.boot.debug = if s.boot.secState = 0 then min 1 (v.toNat % 4) else min 2 (v.toNat % 4)) ∧ (v.toNat % 4 = 3 → exec (.dbgReq v) s = .next s)) ∧
  (∀ s reg index v, s.boot.phase ≠ .off →
    (reg = 5 → exec (.sidebandRegisterWrite reg index v) s = .next { s with boot := { s.boot with limits := s.boot.limits &&& ~~~(v &&& 0xF0) } }) ∧
    (0x10 ≤ reg → reg < 0x30 → index < 8 → exec (.sidebandRegisterWrite reg index v) s =
      .next { s with boot := { s.boot with mailbox := s.boot.mailbox.set ((reg - 0x10) * 8 + index) v } }) ∧
    (reg = 3 → exec (.sidebandRegisterWrite reg index v) s = exec (.modCap (v.setWidth 16)) s) ∧
    (reg = 6 → exec (.sidebandRegisterWrite reg index v) s = exec (.dbgReq v) s) ∧
    (reg < 3 ∨ reg = 4 → exec (.sidebandRegisterWrite reg index v) s = .next s))

/-- R175, R362 to R373: a start verifies the image, trains the links and DRAM and waits for the firmware, with its REASON where it fails; the firmware
makes its launches once it is ready (log 52); the watchdog returns a running controller to the safe table, which the end of its restart
leaves; an update commits what passes; a quote, a return command, a debug read, a wake, the entry of package sleep and a supply loss have the
effects of their rules. The statuses 0, 2 and 4 are the model's (log 41). Where a recovery timeout returns to, the two phases of an update and where a nonce stands in the mailbox
are log 40; that DRAM reads 0 after a supply loss is logs 2 and 4; images that pass, quotes and keys rest on log 13. -/
def Obligations.BootSteps : Prop :=
  (∀ s d2d dram, s.boot.phase = .held → s.boot.attempts < 3 → imageReason s.boot.rollback s.boot.image = none →
    ∃ t, exec (.deviceStart d2d dram true) s = .next t ∧ t.cells = [] ∧ t.regions = [] ∧ t.mem.segs = [] ∧ t.mem.banks = [] ∧ t.cycle = 0 ∧
      t.boot.image = s.boot.image ∧ (d2d = true → dram = true → t.boot.phase = .starting ∧ t.boot.svn = imageSvn s.boot.image) ∧
      (d2d = false → (t.boot.phase, t.boot.reason, t.boot.attempts) = (.failed, 4, s.boot.attempts + 1)) ∧
      (d2d = true → dram = false → (t.boot.phase, t.boot.reason, t.boot.attempts) = (.failed, 5, s.boot.attempts + 1))) ∧
  (∀ s d2d dram r, s.boot.phase = .held → imageReason s.boot.rollback s.boot.image = some r →
    ∃ t, exec (.deviceStart d2d dram true) s = .next t ∧ t.cells = [] ∧ (t.boot.phase, t.boot.reason) = (.recovery, r)) ∧
  (∀ s, s.boot.phase = .starting → ∃ t l, exec .firmwareReady s = .next t ∧ t.boot = { s.boot with phase := .ready, attempts := 0, minimal := false } ∧ SameCells s t ∧
    t.launchQ = s.launchQ ++ l ∧ (∀ x ∈ l, x.by0 = true) ∧
    (s.launchQ.length + Config.firmwareLaunches.length ≤ 64 → l.map (fun x => x.words) = Config.firmwareLaunches)) ∧
  (∀ s, s.boot.phase = .ready → (s.boot.updating = false → exec .firmwareReady s = .next { s with boot := { s.boot with safeTable := false } }) ∧
    (s.boot.updating = true → exec .firmwareReady s = .next s)) ∧
  (∀ s, s.boot.phase = .starting →
    exec .readyTimeout s = .next { s with boot := { s.boot with phase := .failed, reason := 8, attempts := min 3 (s.boot.attempts + 1), svn := 0 } } ∧
    exec .firmwareFailureReport s = .next { s with boot := { s.boot with phase := .failed, reason := 6, attempts := min 3 (s.boot.attempts + 1), svn := 0 } } ∧
    exec .watchdogExpiry s = .next { s with boot := { s.boot with phase := .failed, reason := 7, attempts := min 3 (s.boot.attempts + 1), svn := 0 } }) ∧
  (∀ s, s.boot.phase = .recovery →
    exec .recoveryTimeout s = .next { s with boot := { s.boot with phase := if s.boot.minimal then .minimal else .failed, attempts := min 3 (s.boot.attempts + 1), svn := 0 } }) ∧
  (∀ s, s.boot.phase = .ready → ∃ t, exec .watchdogExpiry s = .next t ∧ SameCells s t ∧ SameMemory s t ∧
    (t.boot.safeTable, t.boot.budget, t.boot.updating, t.boot.staged) = (true, 350, false, []) ∧ t.boot.limits = s.boot.limits ||| 0x80) ∧
  (∀ s img, s.boot.phase = .ready →
    (s.boot.updating = false → ∃ t, exec (.firmwareUpdate img) s = .next t ∧ SameCells s t ∧ SameMemory s t ∧
      (t.boot.updating, t.boot.staged, t.boot.safeTable, t.boot.budget, t.boot.image) = (true, img, true, 350, s.boot.image)) ∧
    (s.boot.updating = true → imageReason s.boot.rollback s.boot.staged = none → ∃ t, exec (.firmwareUpdate img) s = .next t ∧ SameCells s t ∧ SameMemory s t ∧
      (t.boot.updating, t.boot.image, t.boot.rollback, t.boot.svn) = (false, s.boot.staged, imageSvn s.boot.staged, imageSvn s.boot.staged)) ∧
    (∀ r, s.boot.updating = true → imageReason s.boot.rollback s.boot.staged = some r → ∃ t, exec (.firmwareUpdate img) s = .next t ∧ SameCells s t ∧ SameMemory s t ∧
      (t.boot.updating, t.boot.image, t.boot.rollback, t.boot.svn) = (false, s.boot.image, s.boot.rollback, s.boot.svn))) ∧
  (∀ s nonce, s.boot.mailboxHolds nonce = false → exec (.attestationQuote nonce) s = .next s) ∧
  (∀ s nonce q, s.boot.phase ≠ .off → nonce.length = 32 → s.boot.mailboxHolds nonce = true → q = s.boot.meas.flatten ++ leBytes 4 s.bootStatus.toNat →
    exec (.attestationQuote nonce) s = .next { s with outbox := s.outbox ++
      [if s.boot.idKey then ⟨6, q ++ Config.mlDsaSign (Config.shake256 (q ++ nonce)), 0⟩ else ⟨6, [], 4⟩] }) ∧
  (∀ s cmd, s.boot.phase ≠ .off → s.boot.secState ≠ 2 → Config.mlDsaVerify Config.returnKey (cmd.take (cmd.length - 3309)) (cmd.drop (cmd.length - 3309)) = true →
    ∃ t, exec (.returnCommand cmd) s = .next t ∧ SameCells s t ∧ t.mem = s.mem ∧ t.boot.secState = 2 ∧ t.boot.idKey = false) ∧
  (∀ s (q : DebugReq), s.boot.phase ≠ .off → s.boot.sleep = false →
    exec (.debugRead q) s = .next (if s.boot.debug < DebugReq.level q ∨ s.fenced q = true then { s with outbox := s.outbox ++ [⟨7, [], 2⟩] }
      else { s with debugQ := s.debugQ ++ [q] })) ∧
  (∀ s : State, s.answerDebug.outbox = s.outbox ++ s.debugQ.map (fun q => ⟨7, (s.debugAnswer q).1, (s.debugAnswer q).2⟩) ∧ s.answerDebug.debugQ = [] ∧
    SameCells s s.answerDebug ∧ SameMemory s s.answerDebug) ∧
  (∀ s, s.boot.phase ≠ .off → exec .sidebandWake s = .next { s with boot := { s.boot with sleep := false } } ∧
    exec .i3cAddressTimeout s = .next { s with boot := { s.boot with smbus := true } }) ∧
  (∀ s, s.boot.phase ≠ .off → s.boot.sleep = false → s.regions = [] → ∃ t, exec .packageSleepEntry s = .next t ∧ t.boot = { s.boot with sleep := true } ∧
    t.mem.banks = [] ∧ t.mem.segs = [] ∧ t.mem.tlb = [] ∧ t.mem.llc = [] ∧ SameCells s t) ∧
  (∀ s, ∃ t, exec .supplyLoss s = .next t ∧ t.boot.phase = .off ∧ t.cells = [] ∧ t.boot.image = s.boot.image ∧ t.boot.rollback = s.boot.rollback ∧
    ∀ a, target a = some .dram → s.MemoryWf → t.mem.look a = some 0)

/-! The machine as a whole. -/

/-- A step runs the decoded instruction: where the next action is the issue of a site whose word decodes, or a step without a word, the machine's
step is the instruction's, with the agenda moved on; with no action left the next cycle begins. R42: a slot of NOP changes nothing. -/
def Obligations.StepRunsDecodedInstruction : Prop :=
  (∀ s t l w i, s.agenda = .issue t :: l → s.fetch t = some w → decodeWord w = .ok i → step s = exec i { s with agenda := l, site := t }) ∧
  (∀ s i l, s.agenda = .event i :: l → step s = exec i { s with agenda := l }) ∧
  (∀ s, s.agenda = [] → s.thermal = false → s.boot.phase ≠ .off → ∃ t, step s = .next t ∧ t.cycle = s.cycle + 1) ∧
  (∀ s, exec .nop s = .next s)

/-- R27 to R50: words written out from the encoding tables decode to the instructions they stand for; a word of opcode 0 with another bit set, and one
of an opcode without a row, are refused. -/
def Obligations.DecodedWords : Prop :=
  decodeWord 0 = .ok .nop ∧ decodeWord 0x02000502 = .ok (.const 2 (some ⟨.l, 2⟩)) ∧ decodeWord 0x03246905 = .ok (.shlor 0x1234 (some ⟨.l, 5⟩)) ∧
    decodeWord 0x24400187 = .ok (.cmp .lt none (some ⟨.p, 7⟩)) ∧ decodeWord 0x257FFF03 = .ok (.cmpi .ge 0xFFF (some ⟨.l, 3⟩)) ∧
    decodeWord 0x1F09C906 = .ok (.bfx true 7 4 (some ⟨.l, 6⟩)) ∧ decodeWord 0x2A040109 = .ok (.gate true none (some ⟨.l, 9⟩)) ∧
    decodeWord 0x01028B03 = .ok (.mov (some ⟨.r, 5⟩) (some ⟨.l, 3⟩)) ∧ decodeWord 0x31030F06 = .ok (.cntx (some ⟨.p, 7⟩) (some ⟨.l, 6⟩)) ∧
    decodeWord 0x82008000 = .ok (.send 0 1) ∧ decodeWord 0x80008102 = .ok (.recv 0 1 0 (some ⟨.l, 2⟩)) ∧
    (∃ e, decodeWord 1 = .error e) ∧ ∃ e, decodeWord 0xFF000000 = .error e

/-- R42 to R50: the word of every well-formed instruction decodes to that instruction, every field at every value. -/
def Obligations.DecodeEncodeRoundTrip : Prop :=
  ∀ i w, i.wellFormed = true → encode i = some w → decodeWord w = .ok i

/-- R175, R346: at reset every segment is dead, every bank is OFF, memory lists nothing, FAULT_HOLD is 270,000, SWITCH_GRACE 2^18, and every context has
the reset values of its registers. -/
def Obligations.ResetState : Prop :=
  State.reset.mem.bytes = [] ∧ State.reset.MemoryWf ∧ (∀ n, (State.reset.mem.seg n).live = false) ∧ (∀ n, (State.reset.mem.bank n).st = .off) ∧
    State.reset.dev.faultHold = 270000 ∧ State.reset.dev.switchGrace = 0x40000 ∧ State.reset.dev.ctxSel = 0 ∧ State.reset.dev.tswCtl = 0 ∧
    (∀ ctx, ((State.reset.ctxRegs ctx).fltCtl, (State.reset.ctxRegs ctx).fltLog, (State.reset.ctxRegs ctx).fltCnt, (State.reset.ctxRegs ctx).hangLimit) =
      (0x00036FE0, 0, 0, 0x100000)) ∧ State.reset.regions = [] ∧ State.reset.cells = [] ∧ State.reset.launchQ = [] ∧ State.reset.cycle = 0

/-- Memory stands in its canonical form after every step from a state in which it does. -/
def Obligations.StepKeepsMemoryCanonical : Prop :=
  ∀ s t, s.MemoryWf → step s = .next t → t.MemoryWf

/-- Every instruction answers a next state in every state: none ends in a fault or a refusal. -/
def Obligations.EveryInstructionAnswersNext : Prop :=
  ∀ i s, ∃ t, exec i s = .next t
end

