-- ==== Sys2Proof/Laws/Arms.lean ====
section
/-! SUPPORT. Each arm of `exec` as an equation. -/

namespace Sys2Proof.Machine

theorem exec_nop (s : State) : exec (.nop) s = execNop s := rfl
theorem exec_mov (c1 : Consumer) (c0 : Consumer) (s : State) : exec (.mov c1 c0) s = execMov c1 c0 s := rfl
theorem exec_const (imm : BitVec 15) (c0 : Consumer) (s : State) : exec (.const imm c0) s = execConst imm c0 s := rfl
theorem exec_shlor (imm : BitVec 15) (c0 : Consumer) (s : State) : exec (.shlor imm c0) s = execShlor imm c0 s := rfl
theorem exec_add (c1 : Consumer) (c0 : Consumer) (s : State) : exec (.add c1 c0) s = execAdd c1 c0 s := rfl
theorem exec_addi (imm : BitVec 15) (c0 : Consumer) (s : State) : exec (.addi imm c0) s = execAddi imm c0 s := rfl
theorem exec_sub (c1 : Consumer) (c0 : Consumer) (s : State) : exec (.sub c1 c0) s = execSub c1 c0 s := rfl
theorem exec_neg (c1 : Consumer) (c0 : Consumer) (s : State) : exec (.neg c1 c0) s = execNeg c1 c0 s := rfl
theorem exec_mul (c1 : Consumer) (c0 : Consumer) (s : State) : exec (.mul c1 c0) s = execMul c1 c0 s := rfl
theorem exec_mulh (c1 : Consumer) (c0 : Consumer) (s : State) : exec (.mulh c1 c0) s = execMulh c1 c0 s := rfl
theorem exec_mulhu (c1 : Consumer) (c0 : Consumer) (s : State) : exec (.mulhu c1 c0) s = execMulhu c1 c0 s := rfl
theorem exec_div (c1 : Consumer) (c0 : Consumer) (s : State) : exec (.div c1 c0) s = execDiv c1 c0 s := rfl
theorem exec_divu (c1 : Consumer) (c0 : Consumer) (s : State) : exec (.divu c1 c0) s = execDivu c1 c0 s := rfl
theorem exec_rem (c1 : Consumer) (c0 : Consumer) (s : State) : exec (.rem c1 c0) s = execRem c1 c0 s := rfl
theorem exec_remu (c1 : Consumer) (c0 : Consumer) (s : State) : exec (.remu c1 c0) s = execRemu c1 c0 s := rfl
theorem exec_muli (imm : BitVec 15) (c0 : Consumer) (s : State) : exec (.muli imm c0) s = execMuli imm c0 s := rfl
theorem exec_and (c1 : Consumer) (c0 : Consumer) (s : State) : exec (.and c1 c0) s = execAnd c1 c0 s := rfl
theorem exec_andi (imm : BitVec 15) (c0 : Consumer) (s : State) : exec (.andi imm c0) s = execAndi imm c0 s := rfl
theorem exec_or (c1 : Consumer) (c0 : Consumer) (s : State) : exec (.or c1 c0) s = execOr c1 c0 s := rfl
theorem exec_ori (imm : BitVec 15) (c0 : Consumer) (s : State) : exec (.ori imm c0) s = execOri imm c0 s := rfl
theorem exec_xor (c1 : Consumer) (c0 : Consumer) (s : State) : exec (.xor c1 c0) s = execXor c1 c0 s := rfl
theorem exec_xori (imm : BitVec 15) (c0 : Consumer) (s : State) : exec (.xori imm c0) s = execXori imm c0 s := rfl
theorem exec_shl (c1 : Consumer) (c0 : Consumer) (s : State) : exec (.shl c1 c0) s = execShl c1 c0 s := rfl
theorem exec_shli (sh : BitVec 5) (c0 : Consumer) (s : State) : exec (.shli sh c0) s = execShli sh c0 s := rfl
theorem exec_shr (c1 : Consumer) (c0 : Consumer) (s : State) : exec (.shr c1 c0) s = execShr c1 c0 s := rfl
theorem exec_shri (sh : BitVec 5) (c0 : Consumer) (s : State) : exec (.shri sh c0) s = execShri sh c0 s := rfl
theorem exec_sar (c1 : Consumer) (c0 : Consumer) (s : State) : exec (.sar c1 c0) s = execSar c1 c0 s := rfl
theorem exec_sari (sh : BitVec 5) (c0 : Consumer) (s : State) : exec (.sari sh c0) s = execSari sh c0 s := rfl
theorem exec_clz (c1 : Consumer) (c0 : Consumer) (s : State) : exec (.clz c1 c0) s = execClz c1 c0 s := rfl
theorem exec_popc (c1 : Consumer) (c0 : Consumer) (s : State) : exec (.popc c1 c0) s = execPopc c1 c0 s := rfl
theorem exec_brev (c1 : Consumer) (c0 : Consumer) (s : State) : exec (.brev c1 c0) s = execBrev c1 c0 s := rfl
theorem exec_bfx (sx : Bool) (wm1 : BitVec 5) (low : BitVec 5) (c0 : Consumer) (s : State) : exec (.bfx sx wm1 low c0) s = execBfx sx wm1 low c0 s := rfl
theorem exec_min (c1 : Consumer) (c0 : Consumer) (s : State) : exec (.min c1 c0) s = execMin c1 c0 s := rfl
theorem exec_max (c1 : Consumer) (c0 : Consumer) (s : State) : exec (.max c1 c0) s = execMax c1 c0 s := rfl
theorem exec_minu (c1 : Consumer) (c0 : Consumer) (s : State) : exec (.minu c1 c0) s = execMinu c1 c0 s := rfl
theorem exec_maxu (c1 : Consumer) (c0 : Consumer) (s : State) : exec (.maxu c1 c0) s = execMaxu c1 c0 s := rfl
theorem exec_cmp (k : Cond) (c1 : Consumer) (c0 : Consumer) (s : State) : exec (.cmp k c1 c0) s = execCmp k c1 c0 s := rfl
theorem exec_cmpi (k : Cond) (imm : BitVec 12) (c0 : Consumer) (s : State) : exec (.cmpi k imm c0) s = execCmpi k imm c0 s := rfl
theorem exec_sel (c1 : Consumer) (c0 : Consumer) (s : State) : exec (.sel c1 c0) s = execSel c1 c0 s := rfl
theorem exec_test (c1 : Consumer) (c0 : Consumer) (s : State) : exec (.test c1 c0) s = execTest c1 c0 s := rfl
theorem exec_steer (c1 : Consumer) (c0 : Consumer) (s : State) : exec (.steer c1 c0) s = execSteer c1 c0 s := rfl
theorem exec_merge (c1 : Consumer) (c0 : Consumer) (s : State) : exec (.merge c1 c0) s = execMerge c1 c0 s := rfl
theorem exec_gate (t : Bool) (c1 : Consumer) (c0 : Consumer) (s : State) : exec (.gate t c1 c0) s = execGate t c1 c0 s := rfl
theorem exec_pand (c1 : Consumer) (c0 : Consumer) (s : State) : exec (.pand c1 c0) s = execPand c1 c0 s := rfl
theorem exec_por (c1 : Consumer) (c0 : Consumer) (s : State) : exec (.por c1 c0) s = execPor c1 c0 s := rfl
theorem exec_pnot (c1 : Consumer) (c0 : Consumer) (s : State) : exec (.pnot c1 c0) s = execPnot c1 c0 s := rfl
theorem exec_pxor (c1 : Consumer) (c0 : Consumer) (s : State) : exec (.pxor c1 c0) s = execPxor c1 c0 s := rfl
theorem exec_drop (s : State) : exec (.drop) s = execDrop s := rfl
theorem exec_cnt (n : BitVec 15) (c0 : Consumer) (s : State) : exec (.cnt n c0) s = execCnt n c0 s := rfl
theorem exec_cntx (c1 : Consumer) (c0 : Consumer) (s : State) : exec (.cntx c1 c0) s = execCntx c1 c0 s := rfl
theorem exec_accum (c1 : Consumer) (c0 : Consumer) (s : State) : exec (.accum c1 c0) s = execAccum c1 c0 s := rfl
theorem exec_fireno (c1 : Consumer) (c0 : Consumer) (s : State) : exec (.fireno c1 c0) s = execFireno c1 c0 s := rfl
theorem exec_cellid (c1 : Consumer) (c0 : Consumer) (s : State) : exec (.cellid c1 c0) s = execCellid c1 c0 s := rfl
theorem exec_laneid (c1 : Consumer) (c0 : Consumer) (s : State) : exec (.laneid c1 c0) s = execLaneid c1 c0 s := rfl
theorem exec_rd (g : BitVec 6) (h : Hint) (c0 : Consumer) (s : State) : exec (.rd g h c0) s = execRd g h c0 s := rfl
theorem exec_wr (g : BitVec 6) (c0 : Consumer) (s : State) : exec (.wr g c0) s = execWr g c0 s := rfl
theorem exec_rdp (k : BitVec 3) (h : Hint) (c0 : Consumer) (s : State) : exec (.rdp k h c0) s = execRdp k h c0 s := rfl
theorem exec_wrp (k : BitVec 3) (c0 : Consumer) (s : State) : exec (.wrp k c0) s = execWrp k c0 s := rfl
theorem exec_dadd (f : Fmt) (rm : Rnd) (c1 : Consumer) (c0 : Consumer) (s : State) : exec (.dadd f rm c1 c0) s = execDadd f rm c1 c0 s := rfl
theorem exec_dsub (f : Fmt) (rm : Rnd) (c1 : Consumer) (c0 : Consumer) (s : State) : exec (.dsub f rm c1 c0) s = execDsub f rm c1 c0 s := rfl
theorem exec_dmul (f : Fmt) (rm : Rnd) (c1 : Consumer) (c0 : Consumer) (s : State) : exec (.dmul f rm c1 c0) s = execDmul f rm c1 c0 s := rfl
theorem exec_dfma (f : Fmt) (rm : Rnd) (c1 : Consumer) (c0 : Consumer) (s : State) : exec (.dfma f rm c1 c0) s = execDfma f rm c1 c0 s := rfl
theorem exec_dfms (f : Fmt) (rm : Rnd) (c1 : Consumer) (c0 : Consumer) (s : State) : exec (.dfms f rm c1 c0) s = execDfms f rm c1 c0 s := rfl
theorem exec_dmac (f : Fmt) (acc : BitVec 2) (s : State) : exec (.dmac f acc) s = execDmac f acc s := rfl
theorem exec_ddiv (f : Fmt) (rm : Rnd) (c1 : Consumer) (c0 : Consumer) (s : State) : exec (.ddiv f rm c1 c0) s = execDdiv f rm c1 c0 s := rfl
theorem exec_dsqrt (f : Fmt) (rm : Rnd) (c1 : Consumer) (c0 : Consumer) (s : State) : exec (.dsqrt f rm c1 c0) s = execDsqrt f rm c1 c0 s := rfl
theorem exec_drsqrt (f : Fmt) (rm : Rnd) (c1 : Consumer) (c0 : Consumer) (s : State) : exec (.drsqrt f rm c1 c0) s = execDrsqrt f rm c1 c0 s := rfl
theorem exec_drcp (f : Fmt) (rm : Rnd) (c1 : Consumer) (c0 : Consumer) (s : State) : exec (.drcp f rm c1 c0) s = execDrcp f rm c1 c0 s := rfl
theorem exec_dexp2 (f : Fmt) (rm : Rnd) (c1 : Consumer) (c0 : Consumer) (s : State) : exec (.dexp2 f rm c1 c0) s = execDexp2 f rm c1 c0 s := rfl
theorem exec_dlog2 (f : Fmt) (rm : Rnd) (c1 : Consumer) (c0 : Consumer) (s : State) : exec (.dlog2 f rm c1 c0) s = execDlog2 f rm c1 c0 s := rfl
theorem exec_dscale (f : Fmt) (rm : Rnd) (c1 : Consumer) (c0 : Consumer) (s : State) : exec (.dscale f rm c1 c0) s = execDscale f rm c1 c0 s := rfl
theorem exec_dneg (f : Fmt) (rm : Rnd) (c1 : Consumer) (c0 : Consumer) (s : State) : exec (.dneg f rm c1 c0) s = execDneg f rm c1 c0 s := rfl
theorem exec_dabs (f : Fmt) (rm : Rnd) (c1 : Consumer) (c0 : Consumer) (s : State) : exec (.dabs f rm c1 c0) s = execDabs f rm c1 c0 s := rfl
theorem exec_dcvt (f : Fmt) (rm : Rnd) (c1 : Consumer) (c0 : Consumer) (s : State) : exec (.dcvt f rm c1 c0) s = execDcvt f rm c1 c0 s := rfl
theorem exec_dmin (f : Fmt) (rm : Rnd) (c1 : Consumer) (c0 : Consumer) (s : State) : exec (.dmin f rm c1 c0) s = execDmin f rm c1 c0 s := rfl
theorem exec_dmax (f : Fmt) (rm : Rnd) (c1 : Consumer) (c0 : Consumer) (s : State) : exec (.dmax f rm c1 c0) s = execDmax f rm c1 c0 s := rfl
theorem exec_drelu (f : Fmt) (rm : Rnd) (c1 : Consumer) (c0 : Consumer) (s : State) : exec (.drelu f rm c1 c0) s = execDrelu f rm c1 c0 s := rfl
theorem exec_dclamp (f : Fmt) (rm : Rnd) (c1 : Consumer) (c0 : Consumer) (s : State) : exec (.dclamp f rm c1 c0) s = execDclamp f rm c1 c0 s := rfl
theorem exec_dthr (f : Fmt) (rm : Rnd) (c1 : Consumer) (c0 : Consumer) (s : State) : exec (.dthr f rm c1 c0) s = execDthr f rm c1 c0 s := rfl
theorem exec_dcmp (k : Cond) (c1 : Consumer) (c0 : Consumer) (s : State) : exec (.dcmp k c1 c0) s = execDcmp k c1 c0 s := rfl
theorem exec_dsel (f : Fmt) (rm : Rnd) (c1 : Consumer) (c0 : Consumer) (s : State) : exec (.dsel f rm c1 c0) s = execDsel f rm c1 c0 s := rfl
theorem exec_dkill (f : Fmt) (rm : Rnd) (c1 : Consumer) (c0 : Consumer) (s : State) : exec (.dkill f rm c1 c0) s = execDkill f rm c1 c0 s := rfl
theorem exec_dtrunc (f : Fmt) (rm : Rnd) (c1 : Consumer) (c0 : Consumer) (s : State) : exec (.dtrunc f rm c1 c0) s = execDtrunc f rm c1 c0 s := rfl
theorem exec_dnorm (f : Fmt) (rm : Rnd) (c1 : Consumer) (c0 : Consumer) (s : State) : exec (.dnorm f rm c1 c0) s = execDnorm f rm c1 c0 s := rfl
theorem exec_drep (f : Fmt) (c1 : Consumer) (c0 : Consumer) (s : State) : exec (.drep f c1 c0) s = execDrep f c1 c0 s := rfl
theorem exec_dxtr (f : Fmt) (rm : Rnd) (c1 : Consumer) (c0 : Consumer) (s : State) : exec (.dxtr f rm c1 c0) s = execDxtr f rm c1 c0 s := rfl
theorem exec_dlane (f : Fmt) (rm : Rnd) (c1 : Consumer) (c0 : Consumer) (s : State) : exec (.dlane f rm c1 c0) s = execDlane f rm c1 c0 s := rfl
theorem exec_dshuf (f : Fmt) (rm : Rnd) (c1 : Consumer) (c0 : Consumer) (s : State) : exec (.dshuf f rm c1 c0) s = execDshuf f rm c1 c0 s := rfl
theorem exec_drot (f : Fmt) (rm : Rnd) (c1 : Consumer) (c0 : Consumer) (s : State) : exec (.drot f rm c1 c0) s = execDrot f rm c1 c0 s := rfl
theorem exec_dred (f : Fmt) (rm : Rnd) (c1 : Consumer) (c0 : Consumer) (s : State) : exec (.dred f rm c1 c0) s = execDred f rm c1 c0 s := rfl
theorem exec_dbcast (f : Fmt) (rm : Rnd) (c1 : Consumer) (c0 : Consumer) (s : State) : exec (.dbcast f rm c1 c0) s = execDbcast f rm c1 c0 s := rfl
theorem exec_dacc (acc : BitVec 2) (s : State) : exec (.dacc acc) s = execDacc acc s := rfl
theorem exec_daccrd (f : Fmt) (rm : Rnd) (acc : BitVec 2) (c0 : Consumer) (s : State) : exec (.daccrd f rm acc c0) s = execDaccrd f rm acc c0 s := rfl
theorem exec_daccz (acc : BitVec 2) (s : State) : exec (.daccz acc) s = execDaccz acc s := rfl
theorem exec_dwst (f : Fmt) (s : State) : exec (.dwst f) s = execDwst f s := rfl
theorem exec_drdv (v : BitVec 5) (h : Hint) (f : Fmt) (c0 : Consumer) (s : State) : exec (.drdv v h f c0) s = execDrdv v h f c0 s := rfl
theorem exec_dwrv (v : BitVec 5) (f : Fmt) (rm : Rnd) (c0 : Consumer) (s : State) : exec (.dwrv v f rm c0) s = execDwrv v f rm c0 s := rfl
theorem exec_recv (ch : BitVec 3) (n : BitVec 6) (off : BitVec 6) (c0 : Consumer) (s : State) : exec (.recv ch n off c0) s = execRecv ch n off c0 s := rfl
theorem exec_peek (ch : BitVec 3) (n : BitVec 6) (off : BitVec 6) (c0 : Consumer) (s : State) : exec (.peek ch n off c0) s = execPeek ch n off c0 s := rfl
theorem exec_send (ch : BitVec 3) (n : BitVec 6) (s : State) : exec (.send ch n) s = execSend ch n s := rfl
theorem exec_advc (ch : BitVec 3) (n : BitVec 6) (s : State) : exec (.advc ch n) s = execAdvc ch n s := rfl
theorem exec_advp (ch : BitVec 3) (n : BitVec 6) (s : State) : exec (.advp ch n) s = execAdvp ch n s := rfl
theorem exec_chst (ch : BitVec 3) (out : Bool) (c0 : Consumer) (s : State) : exec (.chst ch out c0) s = execChst ch out c0 s := rfl
theorem exec_agb (p : BitVec 6) (s : State) : exec (.agb p) s = execAgb p s := rfl
theorem exec_agl (p : BitVec 6) (lv : BitVec 3) (s : State) : exec (.agl p lv) s = execAgl p lv s := rfl
theorem exec_agfmt (p : BitVec 6) (f : Fmt) (s : State) : exec (.agfmt p f) s = execAgfmt p f s := rfl
theorem exec_aggo (p : BitVec 6) (c0 : Consumer) (s : State) : exec (.aggo p c0) s = execAggo p c0 s := rfl
theorem exec_aggat (p : BitVec 6) (f : Fmt) (c0 : Consumer) (s : State) : exec (.aggat p f c0) s = execAggat p f c0 s := rfl
theorem exec_agsct (p : BitVec 6) (f : Fmt) (c0 : Consumer) (s : State) : exec (.agsct p f c0) s = execAgsct p f c0 s := rfl
theorem exec_agctr (p : BitVec 6) (lv : BitVec 3) (c0 : Consumer) (s : State) : exec (.agctr p lv c0) s = execAgctr p lv c0 s := rfl
theorem exec_retry (p : BitVec 6) (c0 : Consumer) (s : State) : exec (.retry p c0) s = execRetry p c0 s := rfl
theorem exec_lds (p : BitVec 6) (h : Hint) (f : Fmt) (c0 : Consumer) (s : State) : exec (.lds p h f c0) s = execLds p h f c0 s := rfl
theorem exec_sts (p : BitVec 6) (f : Fmt) (c0 : Consumer) (s : State) : exec (.sts p f c0) s = execSts p f c0 s := rfl
theorem exec_ldv (p : BitVec 6) (h : Hint) (f : Fmt) (c0 : Consumer) (s : State) : exec (.ldv p h f c0) s = execLdv p h f c0 s := rfl
theorem exec_stv (p : BitVec 6) (f : Fmt) (c0 : Consumer) (s : State) : exec (.stv p f c0) s = execStv p f c0 s := rfl
theorem exec_reclaim (p : BitVec 6) (c0 : Consumer) (s : State) : exec (.reclaim p c0) s = execReclaim p c0 s := rfl
theorem exec_pref (p : BitVec 6) (h : Hint) (depth : BitVec 6) (s : State) : exec (.pref p h depth) s = execPref p h depth s := rfl
theorem exec_drain (path : DrainPath) (c0 : Consumer) (s : State) : exec (.drain path c0) s = execDrain path c0 s := rfl
theorem exec_win (p : BitVec 6) (w : BitVec 3) (c0 : Consumer) (s : State) : exec (.win p w c0) s = execWin p w c0 s := rfl
theorem exec_copy (p : BitVec 6) (h : Hint) (c0 : Consumer) (s : State) : exec (.copy p h c0) s = execCopy p h c0 s := rfl
theorem exec_copyr (p : BitVec 6) (h : Hint) (f : Fmt) (op : RedOp) (c0 : Consumer) (s : State) : exec (.copyr p h f op c0) s = execCopyr p h f op c0 s := rfl
theorem exec_copyc (p : BitVec 6) (h : Hint) (s : BitVec 6) (c0 : Consumer) (s : State) : exec (.copyc p h sel c0) s = execCopyc p h sel c0 s := rfl
theorem exec_cplw (vis : Bool) (c0 : Consumer) (s : State) : exec (.cplw vis c0) s = execCplw vis c0 s := rfl
theorem exec_atom (p : BitVec 6) (sc : Scope) (o : Order) (op : AtomOp) (c0 : Consumer) (s : State) : exec (.atom p sc o op c0) s = execAtom p sc o op c0 s := rfl
theorem exec_lda (p : BitVec 6) (sc : Scope) (acq : Bool) (c0 : Consumer) (s : State) : exec (.lda p sc acq c0) s = execLda p sc acq c0 s := rfl
theorem exec_stl (p : BitVec 6) (sc : Scope) (rel : Bool) (c0 : Consumer) (s : State) : exec (.stl p sc rel c0) s = execStl p sc rel c0 s := rfl
theorem exec_fence (sc : Scope) (c0 : Consumer) (s : State) : exec (.fence sc c0) s = execFence sc c0 s := rfl
theorem exec_own (p : BitVec 6) (op : AtomOp) (s : State) : exec (.own p op) s = execOwn p op s := rfl
theorem exec_upd (p : BitVec 6) (s : State) : exec (.upd p) s = execUpd p s := rfl
theorem exec_arrive (sc : Scope) (rel : Bool) (c0 : Consumer) (s : State) : exec (.arrive sc rel c0) s = execArrive sc rel c0 s := rfl
theorem exec_waitg (sc : Scope) (acq : Bool) (c0 : Consumer) (s : State) : exec (.waitg sc acq c0) s = execWaitg sc acq c0 s := rfl
theorem exec_bar (sc : Scope) (ar : Bool) (c0 : Consumer) (s : State) : exec (.bar sc ar c0) s = execBar sc ar c0 s := rfl
theorem exec_quiet (sc : Scope) (c0 : Consumer) (s : State) : exec (.quiet sc c0) s = execQuiet sc c0 s := rfl
theorem exec_lift (s : State) : exec (.lift) s = execLift s := rfl
theorem exec_seamoPush (p : BitVec 6) (rel : Bool) (c0 : Consumer) (s : State) : exec (.seamoPush p rel c0) s = execSeamoPush p rel c0 s := rfl
theorem exec_seamoPop (p : BitVec 6) (acq : Bool) (c0 : Consumer) (s : State) : exec (.seamoPop p acq c0) s = execSeamoPop p acq c0 s := rfl
theorem exec_seamoStatus (p : BitVec 6) (c0 : Consumer) (s : State) : exec (.seamoStatus p c0) s = execSeamoStatus p c0 s := rfl
theorem exec_coll (f : Fmt) (op : RedOp) (sc : Scope) (kind : CollKind) (c0 : Consumer) (s : State) : exec (.coll f op sc kind c0) s = execColl f op sc kind c0 s := rfl
theorem exec_wqadd (p : BitVec 6) (sc : Scope) (rel : Bool) (c0 : Consumer) (s : State) : exec (.wqadd p sc rel c0) s = execWqadd p sc rel c0 s := rfl
theorem exec_wqtake (p : BitVec 6) (sc : Scope) (acq : Bool) (c0 : Consumer) (s : State) : exec (.wqtake p sc acq c0) s = execWqtake p sc acq c0 s := rfl
theorem exec_wqclose (p : BitVec 6) (sc : Scope) (rel : Bool) (c0 : Consumer) (s : State) : exec (.wqclose p sc rel c0) s = execWqclose p sc rel c0 s := rfl
theorem exec_cmdMatrix (rel : Bool) (c0 : Consumer) (s : State) : exec (.cmdMatrix rel c0) s = execCmdMatrix rel c0 s := rfl
theorem exec_cmdBulk (rel : Bool) (c0 : Consumer) (s : State) : exec (.cmdBulk rel c0) s = execCmdBulk rel c0 s := rfl
theorem exec_cmdCollective (rel : Bool) (c0 : Consumer) (s : State) : exec (.cmdCollective rel c0) s = execCmdCollective rel c0 s := rfl
theorem exec_cmdLift (rel : Bool) (c0 : Consumer) (s : State) : exec (.cmdLift rel c0) s = execCmdLift rel c0 s := rfl
theorem exec_cmdChild (rel : Bool) (c0 : Consumer) (s : State) : exec (.cmdChild rel c0) s = execCmdChild rel c0 s := rfl
theorem exec_cmdwait (sc : Scope) (acq : Bool) (c0 : Consumer) (s : State) : exec (.cmdwait sc acq c0) s = execCmdwait sc acq c0 s := rfl
theorem exec_egress (p : BitVec 6) (rel : Bool) (c0 : Consumer) (s : State) : exec (.egress p rel c0) s = execEgress p rel c0 s := rfl
theorem exec_ingress (p : BitVec 6) (acq : Bool) (c0 : Consumer) (s : State) : exec (.ingress p acq c0) s = execIngress p acq c0 s := rfl
theorem exec_syscfg (p : BitVec 6) (f : Fmt) (c0 : Consumer) (s : State) : exec (.syscfg p f c0) s = execSyscfg p f c0 s := rfl
theorem exec_mma (p : BitVec 6) (acc : BitVec 2) (f : Fmt) (rm : Rnd) (c0 : Consumer) (s : State) : exec (.mma p acc f rm c0) s = execMma p acc f rm c0 s := rfl
theorem exec_mmasp (p : BitVec 6) (acc : BitVec 2) (f : Fmt) (rm : Rnd) (c0 : Consumer) (s : State) : exec (.mmasp p acc f rm c0) s = execMmasp p acc f rm c0 s := rfl
theorem exec_mmarow (p : BitVec 6) (acc : BitVec 2) (f : Fmt) (rm : Rnd) (c0 : Consumer) (s : State) : exec (.mmarow p acc f rm c0) s = execMmarow p acc f rm c0 s := rfl
theorem exec_wedge (c0 : Consumer) (s : State) : exec (.wedge c0) s = execWedge c0 s := rfl
theorem exec_prune (p : BitVec 6) (f : Fmt) (t : Bool) (c0 : Consumer) (s : State) : exec (.prune p f t c0) s = execPrune p f t c0 s := rfl
theorem exec_nmhdr (p : BitVec 6) (c0 : Consumer) (s : State) : exec (.nmhdr p c0) s = execNmhdr p c0 s := rfl
theorem exec_nmchk (p : BitVec 6) (c0 : Consumer) (s : State) : exec (.nmchk p c0) s = execNmchk p c0 s := rfl
theorem exec_nmest (p : BitVec 6) (c0 : Consumer) (s : State) : exec (.nmest p c0) s = execNmest p c0 s := rfl
theorem exec_scana (p : BitVec 6) (tree : Bool) (c0 : Consumer) (s : State) : exec (.scana p tree c0) s = execScana p tree c0 s := rfl
theorem exec_scano (p : BitVec 6) (tree : Bool) (c0 : Consumer) (s : State) : exec (.scano p tree c0) s = execScano p tree c0 s := rfl
theorem exec_isld (p : BitVec 6) (cam : BitVec 6) (c0 : Consumer) (s : State) : exec (.isld p cam c0) s = execIsld p cam c0 s := rfl
theorem exec_isprb (p : BitVec 6) (cam : BitVec 6) (c0 : Consumer) (s : State) : exec (.isprb p cam c0) s = execIsprb p cam c0 s := rfl
theorem exec_union (p : BitVec 6) (c0 : Consumer) (s : State) : exec (.union p c0) s = execUnion p c0 s := rfl
theorem exec_mergek (p : BitVec 6) (f : Fmt) (c0 : Consumer) (s : State) : exec (.mergek p f c0) s = execMergek p f c0 s := rfl
theorem exec_fibh (p : BitVec 6) (c0 : Consumer) (s : State) : exec (.fibh p c0) s = execFibh p c0 s := rfl
theorem exec_trap (code : BitVec 8) (s : State) : exec (.trap code) s = execTrap code s := rfl
theorem exec_halt (s : State) : exec (.halt) s = execHalt s := rfl
theorem exec_srd (n : BitVec 12) (c0 : Consumer) (s : State) : exec (.srd n c0) s = execSrd n c0 s := rfl
theorem exec_swr (n : BitVec 12) (c0 : Consumer) (s : State) : exec (.swr n c0) s = execSwr n c0 s := rfl
theorem exec_ptst (c1 : Consumer) (c0 : Consumer) (s : State) : exec (.ptst c1 c0) s = execPtst c1 c0 s := rfl
theorem exec_pclr (c1 : Consumer) (c0 : Consumer) (s : State) : exec (.pclr c1 c0) s = execPclr c1 c0 s := rfl
theorem exec_excrd (c1 : Consumer) (c0 : Consumer) (s : State) : exec (.excrd c1 c0) s = execExcrd c1 c0 s := rfl
theorem exec_bankk (g : BitVec 6) (file : BankFile) (c0 : Consumer) (s : State) : exec (.bankk g file c0) s = execBankk g file c0 s := rfl
theorem exec_banko (g : BitVec 6) (file : BankFile) (c0 : Consumer) (s : State) : exec (.banko g file c0) s = execBanko g file c0 s := rfl
theorem exec_bankw (g : BitVec 6) (file : BankFile) (c0 : Consumer) (s : State) : exec (.bankw g file c0) s = execBankw g file c0 s := rfl
theorem exec_tlbinv (sys : Bool) (c0 : Consumer) (s : State) : exec (.tlbinv sys c0) s = execTlbinv sys c0 s := rfl
theorem exec_perf (n : BitVec 8) (c0 : Consumer) (s : State) : exec (.perf n c0) s = execPerf n c0 s := rfl
theorem exec_cyc (c1 : Consumer) (c0 : Consumer) (s : State) : exec (.cyc c1 c0) s = execCyc c1 c0 s := rfl
theorem exec_fend (s : State) : exec (.fend) s = execFend s := rfl
theorem exec_launchToken (v : Word) (s : State) : exec (.launchToken v) s = execLaunchToken v s := rfl
theorem exec_hostRegisterWrite (page off : Nat) (v : DWord) (s : State) : exec (.hostRegisterWrite page off v) s = execHostRegisterWrite page off v s := rfl
theorem exec_ingToken (port : BitVec 6) (v : Word) (s : State) : exec (.ingToken port v) s = execIngToken port v s := rfl
theorem exec_egDataRead (port : BitVec 6) (s : State) : exec (.egDataRead port) s = execEgDataRead port s := rfl
theorem exec_ownerWrite (port : BitVec 6) (v : Word) (s : State) : exec (.ownerWrite port v) s = execOwnerWrite port v s := rfl
theorem exec_rcvGo (s : State) : exec (.rcvGo) s = execRcvGo s := rfl
theorem exec_hostMemoryRead (off n : Nat) (s : State) : exec (.hostMemoryRead off n) s = execHostMemoryRead off n s := rfl
theorem exec_hostMemoryWrite (off : Nat) (bytes : List Byte) (s : State) : exec (.hostMemoryWrite off bytes) s = execHostMemoryWrite off bytes s := rfl
theorem exec_launchDispatch (s : State) : exec (.launchDispatch) s = execLaunchDispatch s := rfl
theorem exec_regionGrant (k : Nat) (s : State) : exec (.regionGrant k) s = execRegionGrant k s := rfl
theorem exec_seedInject (rid : Nat) (s : State) : exec (.seedInject rid) s = execSeedInject rid s := rfl
theorem exec_preload (rid lift var : Nat) (s : State) : exec (.preload rid lift var) s = execPreload rid lift var s := rfl
theorem exec_firingStart (cell ctx : Nat) (s : State) : exec (.firingStart cell ctx) s = execFiringStart cell ctx s := rfl
theorem exec_firingEnd (cell ctx : Nat) (s : State) : exec (.firingEnd cell ctx) s = execFiringEnd cell ctx s := rfl
theorem exec_tokenArrive (k : Nat) (s : State) : exec (.tokenArrive k) s = execTokenArrive k s := rfl
theorem exec_divideComplete (cell pe : Nat) (s : State) : exec (.divideComplete cell pe) s = execDivideComplete cell pe s := rfl
theorem exec_ageCounterExpiry (cell pe slot : Nat) (s : State) : exec (.ageCounterExpiry cell pe slot) s = execAgeCounterExpiry cell pe slot s := rfl
theorem exec_benchClockStop (bench : Nat) (s : State) : exec (.benchClockStop bench) s = execBenchClockStop bench s := rfl
theorem exec_bankIdleTimeout (cell bank : Nat) (s : State) : exec (.bankIdleTimeout cell bank) s = execBankIdleTimeout cell bank s := rfl
theorem exec_bankWakeDone (cell bank : Nat) (s : State) : exec (.bankWakeDone cell bank) s = execBankWakeDone cell bank s := rfl
theorem exec_spadBankIdleTimeout (bank : Nat) (s : State) : exec (.spadBankIdleTimeout bank) s = execSpadBankIdleTimeout bank s := rfl
theorem exec_spadBankWakeDone (bank : Nat) (s : State) : exec (.spadBankWakeDone bank) s = execSpadBankWakeDone bank s := rfl
theorem exec_spallArrive (k : Nat) (s : State) : exec (.spallArrive k) s = execSpallArrive k s := rfl
theorem exec_memoryReply (cell port k : Nat) (s : State) : exec (.memoryReply cell port k) s = execMemoryReply cell port k s := rfl
theorem exec_pageWalk (cell port k : Nat) (s : State) : exec (.pageWalk cell port k) s = execPageWalk cell port k s := rfl
theorem exec_atomicUnitApply (cell port k : Nat) (s : State) : exec (.atomicUnitApply cell port k) s = execAtomicUnitApply cell port k s := rfl
theorem exec_copyrLineUpdate (cell slot : Nat) (s : State) : exec (.copyrLineUpdate cell slot) s = execCopyrLineUpdate cell slot s := rfl
theorem exec_copySrcComplete (cell slot : Nat) (s : State) : exec (.copySrcComplete cell slot) s = execCopySrcComplete cell slot s := rfl
theorem exec_copyVisComplete (cell slot : Nat) (s : State) : exec (.copyVisComplete cell slot) s = execCopyVisComplete cell slot s := rfl
theorem exec_commandIssue (slot : Nat) (s : State) : exec (.commandIssue slot) s = execCommandIssue slot s := rfl
theorem exec_commandRetire (slot : Nat) (s : State) : exec (.commandRetire slot) s = execCommandRetire slot s := rfl
theorem exec_matrixOpStart (rid sr : Nat) (s : State) : exec (.matrixOpStart rid sr) s = execMatrixOpStart rid sr s := rfl
theorem exec_matrixOpComplete (rid sr : Nat) (s : State) : exec (.matrixOpComplete rid sr) s = execMatrixOpComplete rid sr s := rfl
theorem exec_collComplete (k : Nat) (s : State) : exec (.collComplete k) s = execCollComplete k s := rfl
theorem exec_seamRemoteEntry (ctx seam : Nat) (entry : DWord) (marks : Option Word × Option Word) (s : State) : exec (.seamRemoteEntry ctx seam entry marks) s = execSeamRemoteEntry ctx seam entry marks s := rfl
theorem exec_phaseNotify (rid gid cell : Nat) (s : State) : exec (.phaseNotify rid gid cell) s = execPhaseNotify rid gid cell s := rfl
theorem exec_updApply (rid : Nat) (s : State) : exec (.updApply rid) s = execUpdApply rid s := rfl
theorem exec_workQueueApply (q : Nat) (s : State) : exec (.workQueueApply q) s = execWorkQueueApply q s := rfl
theorem exec_drainedReport (rid : Nat) (s : State) : exec (.drainedReport rid) s = execDrainedReport rid s := rfl
theorem exec_liftWedge (rid : Nat) (s : State) : exec (.liftWedge rid) s = execLiftWedge rid s := rfl
theorem exec_contextRetire (ctx : Nat) (s : State) : exec (.contextRetire ctx) s = execContextRetire ctx s := rfl
theorem exec_hangLimitExpiry (rid : Nat) (s : State) : exec (.hangLimitExpiry rid) s = execHangLimitExpiry rid s := rfl
theorem exec_faultHoldExpiry (rid : Nat) (s : State) : exec (.faultHoldExpiry rid) s = execFaultHoldExpiry rid s := rfl
theorem exec_switchGraceExpiry (rid : Nat) (s : State) : exec (.switchGraceExpiry rid) s = execSwitchGraceExpiry rid s := rfl
theorem exec_tswAtReached (s : State) : exec (.tswAtReached) s = execTswAtReached s := rfl
theorem exec_tswCtlWrite (v : Word) (s : State) : exec (.tswCtlWrite v) s = execTswCtlWrite v s := rfl
theorem exec_resumeWrite (v : Word) (s : State) : exec (.resumeWrite v) s = execResumeWrite v s := rfl
theorem exec_fltCauseClear (cell : Nat) (s : State) : exec (.fltCauseClear cell) s = execFltCauseClear cell s := rfl
theorem exec_switchPoint (rid : Nat) (s : State) : exec (.switchPoint rid) s = execSwitchPoint rid s := rfl
theorem exec_park (rid : Nat) (s : State) : exec (.park rid) s = execPark rid s := rfl
theorem exec_regionResume (k : Nat) (s : State) : exec (.regionResume k) s = execRegionResume k s := rfl
theorem exec_softError (e : SoftError) (s : State) : exec (.softError e) s = execSoftError e s := rfl
theorem exec_deviceStart (d2d dram fuse : Bool) (s : State) : exec (.deviceStart d2d dram fuse) s = execDeviceStart d2d dram fuse s := rfl
theorem exec_firmwareReady (s : State) : exec (.firmwareReady) s = execFirmwareReady s := rfl
theorem exec_readyTimeout (s : State) : exec (.readyTimeout) s = execReadyTimeout s := rfl
theorem exec_recoveryTimeout (s : State) : exec (.recoveryTimeout) s = execRecoveryTimeout s := rfl
theorem exec_droopTrip (bench : Nat) (s : State) : exec (.droopTrip bench) s = execDroopTrip bench s := rfl
theorem exec_droopRelease (bench : Nat) (s : State) : exec (.droopRelease bench) s = execDroopRelease bench s := rfl
theorem exec_currentCeilingTrip (s : State) : exec (.currentCeilingTrip) s = execCurrentCeilingTrip s := rfl
theorem exec_currentCeilingRelease (s : State) : exec (.currentCeilingRelease) s = execCurrentCeilingRelease s := rfl
theorem exec_thermalTrip (s : State) : exec (.thermalTrip) s = execThermalTrip s := rfl
theorem exec_thermalRelease (s : State) : exec (.thermalRelease) s = execThermalRelease s := rfl
theorem exec_watchdogExpiry (s : State) : exec (.watchdogExpiry) s = execWatchdogExpiry s := rfl
theorem exec_budgetChange (watts : Nat) (s : State) : exec (.budgetChange watts) s = execBudgetChange watts s := rfl
theorem exec_modCap (v : BitVec 16) (s : State) : exec (.modCap v) s = execModCap v s := rfl
theorem exec_dbgReq (v : Word) (s : State) : exec (.dbgReq v) s = execDbgReq v s := rfl
theorem exec_sidebandRegisterWrite (reg index : Nat) (v : Word) (s : State) : exec (.sidebandRegisterWrite reg index v) s = execSidebandRegisterWrite reg index v s := rfl
theorem exec_firmwareUpdate (image : List Byte) (s : State) : exec (.firmwareUpdate image) s = execFirmwareUpdate image s := rfl
theorem exec_attestationQuote (nonce : List Byte) (s : State) : exec (.attestationQuote nonce) s = execAttestationQuote nonce s := rfl
theorem exec_returnCommand (cmd : List Byte) (s : State) : exec (.returnCommand cmd) s = execReturnCommand cmd s := rfl
theorem exec_debugRead (q : DebugReq) (s : State) : exec (.debugRead q) s = execDebugRead q s := rfl
theorem exec_sidebandWake (s : State) : exec (.sidebandWake) s = execSidebandWake s := rfl
theorem exec_i3cAddressTimeout (s : State) : exec (.i3cAddressTimeout) s = execI3cAddressTimeout s := rfl
theorem exec_firmwareFailureReport (s : State) : exec (.firmwareFailureReport) s = execFirmwareFailureReport s := rfl
theorem exec_packageSleepEntry (s : State) : exec (.packageSleepEntry) s = execPackageSleepEntry s := rfl
theorem exec_supplyLoss (s : State) : exec (.supplyLoss) s = execSupplyLoss s := rfl
theorem exec_tlbinvRemoteBroadcast (ctl : Word) (va : DWord) (s : State) : exec (.tlbinvRemoteBroadcast ctl va) s = execTlbinvRemoteBroadcast ctl va s := rfl

end Sys2Proof.Machine
end

