-- ==== Sys2Proof/Laws/State.lean ====
section
/-! SUPPORT. What each named update of the state leaves: one lemma per field and update. -/

namespace Sys2Proof.Machine

@[simp] theorem updCell_cycle (s : State) (n : Nat) (f : Cell → Cell) : (s.updCell n f).cycle = s.cycle := rfl
@[simp] theorem updCell_agenda (s : State) (n : Nat) (f : Cell → Cell) : (s.updCell n f).agenda = s.agenda := rfl
@[simp] theorem updCell_site (s : State) (n : Nat) (f : Cell → Cell) : (s.updCell n f).site = s.site := rfl
@[simp] theorem updCell_fresh (s : State) (n : Nat) (f : Cell → Cell) : (s.updCell n f).fresh = s.fresh := rfl
@[simp] theorem updCell_flight (s : State) (n : Nat) (f : Cell → Cell) : (s.updCell n f).flight = s.flight := rfl
@[simp] theorem updCell_chanMsgs (s : State) (n : Nat) (f : Cell → Cell) : (s.updCell n f).chanMsgs = s.chanMsgs := rfl
@[simp] theorem updCell_spalls (s : State) (n : Nat) (f : Cell → Cell) : (s.updCell n f).spalls = s.spalls := rfl
@[simp] theorem updCell_mem (s : State) (n : Nat) (f : Cell → Cell) : (s.updCell n f).mem = s.mem := rfl
@[simp] theorem updCell_regions (s : State) (n : Nat) (f : Cell → Cell) : (s.updCell n f).regions = s.regions := rfl
@[simp] theorem updCell_ctxs (s : State) (n : Nat) (f : Cell → Cell) : (s.updCell n f).ctxs = s.ctxs := rfl
@[simp] theorem updCell_dev (s : State) (n : Nat) (f : Cell → Cell) : (s.updCell n f).dev = s.dev := rfl
@[simp] theorem updCell_thermal (s : State) (n : Nat) (f : Cell → Cell) : (s.updCell n f).thermal = s.thermal := rfl
@[simp] theorem updCell_msix (s : State) (n : Nat) (f : Cell → Cell) : (s.updCell n f).msix = s.msix := rfl
@[simp] theorem updCell_pend (s : State) (n : Nat) (f : Cell → Cell) : (s.updCell n f).pend = s.pend := rfl
@[simp] theorem updCell_stamps (s : State) (n : Nat) (f : Cell → Cell) : (s.updCell n f).stamps = s.stamps := rfl
@[simp] theorem updCell_hostPorts (s : State) (n : Nat) (f : Cell → Cell) : (s.updCell n f).hostPorts = s.hostPorts := rfl
@[simp] theorem updCell_lrec (s : State) (n : Nat) (f : Cell → Cell) : (s.updCell n f).lrec = s.lrec := rfl
@[simp] theorem updCell_launchQ (s : State) (n : Nat) (f : Cell → Cell) : (s.updCell n f).launchQ = s.launchQ := rfl
@[simp] theorem updCell_launches (s : State) (n : Nat) (f : Cell → Cell) : (s.updCell n f).launches = s.launches := rfl
@[simp] theorem updCell_images (s : State) (n : Nat) (f : Cell → Cell) : (s.updCell n f).images = s.images := rfl
@[simp] theorem updCell_loaded (s : State) (n : Nat) (f : Cell → Cell) : (s.updCell n f).loaded = s.loaded := rfl
@[simp] theorem updCell_cmds (s : State) (n : Nat) (f : Cell → Cell) : (s.updCell n f).cmds = s.cmds := rfl
@[simp] theorem updCell_queues (s : State) (n : Nat) (f : Cell → Cell) : (s.updCell n f).queues = s.queues := rfl
@[simp] theorem updCell_seams (s : State) (n : Nat) (f : Cell → Cell) : (s.updCell n f).seams = s.seams := rfl
@[simp] theorem updCell_colls (s : State) (n : Nat) (f : Cell → Cell) : (s.updCell n f).colls = s.colls := rfl
@[simp] theorem updCell_cams (s : State) (n : Nat) (f : Cell → Cell) : (s.updCell n f).cams = s.cams := rfl
@[simp] theorem updCell_parked (s : State) (n : Nat) (f : Cell → Cell) : (s.updCell n f).parked = s.parked := rfl
@[simp] theorem updCell_benches (s : State) (n : Nat) (f : Cell → Cell) : (s.updCell n f).benches = s.benches := rfl
@[simp] theorem updCell_boot (s : State) (n : Nat) (f : Cell → Cell) : (s.updCell n f).boot = s.boot := rfl
@[simp] theorem updCell_outbox (s : State) (n : Nat) (f : Cell → Cell) : (s.updCell n f).outbox = s.outbox := rfl
@[simp] theorem updCell_drops (s : State) (n : Nat) (f : Cell → Cell) : (s.updCell n f).drops = s.drops := rfl
@[simp] theorem updCell_logQ (s : State) (n : Nat) (f : Cell → Cell) : (s.updCell n f).logQ = s.logQ := rfl
@[simp] theorem updCell_hostOps (s : State) (n : Nat) (f : Cell → Cell) : (s.updCell n f).hostOps = s.hostOps := rfl
@[simp] theorem updCell_debugQ (s : State) (n : Nat) (f : Cell → Cell) : (s.updCell n f).debugQ = s.debugQ := rfl

@[simp] theorem updBlock_cycle (s : State) (t : Site) (f : Block → Block) : (s.updBlock t f).cycle = s.cycle := rfl
@[simp] theorem updBlock_agenda (s : State) (t : Site) (f : Block → Block) : (s.updBlock t f).agenda = s.agenda := rfl
@[simp] theorem updBlock_site (s : State) (t : Site) (f : Block → Block) : (s.updBlock t f).site = s.site := rfl
@[simp] theorem updBlock_fresh (s : State) (t : Site) (f : Block → Block) : (s.updBlock t f).fresh = s.fresh := rfl
@[simp] theorem updBlock_flight (s : State) (t : Site) (f : Block → Block) : (s.updBlock t f).flight = s.flight := rfl
@[simp] theorem updBlock_chanMsgs (s : State) (t : Site) (f : Block → Block) : (s.updBlock t f).chanMsgs = s.chanMsgs := rfl
@[simp] theorem updBlock_spalls (s : State) (t : Site) (f : Block → Block) : (s.updBlock t f).spalls = s.spalls := rfl
@[simp] theorem updBlock_mem (s : State) (t : Site) (f : Block → Block) : (s.updBlock t f).mem = s.mem := rfl
@[simp] theorem updBlock_regions (s : State) (t : Site) (f : Block → Block) : (s.updBlock t f).regions = s.regions := rfl
@[simp] theorem updBlock_ctxs (s : State) (t : Site) (f : Block → Block) : (s.updBlock t f).ctxs = s.ctxs := rfl
@[simp] theorem updBlock_dev (s : State) (t : Site) (f : Block → Block) : (s.updBlock t f).dev = s.dev := rfl
@[simp] theorem updBlock_thermal (s : State) (t : Site) (f : Block → Block) : (s.updBlock t f).thermal = s.thermal := rfl
@[simp] theorem updBlock_msix (s : State) (t : Site) (f : Block → Block) : (s.updBlock t f).msix = s.msix := rfl
@[simp] theorem updBlock_pend (s : State) (t : Site) (f : Block → Block) : (s.updBlock t f).pend = s.pend := rfl
@[simp] theorem updBlock_stamps (s : State) (t : Site) (f : Block → Block) : (s.updBlock t f).stamps = s.stamps := rfl
@[simp] theorem updBlock_hostPorts (s : State) (t : Site) (f : Block → Block) : (s.updBlock t f).hostPorts = s.hostPorts := rfl
@[simp] theorem updBlock_lrec (s : State) (t : Site) (f : Block → Block) : (s.updBlock t f).lrec = s.lrec := rfl
@[simp] theorem updBlock_launchQ (s : State) (t : Site) (f : Block → Block) : (s.updBlock t f).launchQ = s.launchQ := rfl
@[simp] theorem updBlock_launches (s : State) (t : Site) (f : Block → Block) : (s.updBlock t f).launches = s.launches := rfl
@[simp] theorem updBlock_images (s : State) (t : Site) (f : Block → Block) : (s.updBlock t f).images = s.images := rfl
@[simp] theorem updBlock_loaded (s : State) (t : Site) (f : Block → Block) : (s.updBlock t f).loaded = s.loaded := rfl
@[simp] theorem updBlock_cmds (s : State) (t : Site) (f : Block → Block) : (s.updBlock t f).cmds = s.cmds := rfl
@[simp] theorem updBlock_queues (s : State) (t : Site) (f : Block → Block) : (s.updBlock t f).queues = s.queues := rfl
@[simp] theorem updBlock_seams (s : State) (t : Site) (f : Block → Block) : (s.updBlock t f).seams = s.seams := rfl
@[simp] theorem updBlock_colls (s : State) (t : Site) (f : Block → Block) : (s.updBlock t f).colls = s.colls := rfl
@[simp] theorem updBlock_cams (s : State) (t : Site) (f : Block → Block) : (s.updBlock t f).cams = s.cams := rfl
@[simp] theorem updBlock_parked (s : State) (t : Site) (f : Block → Block) : (s.updBlock t f).parked = s.parked := rfl
@[simp] theorem updBlock_benches (s : State) (t : Site) (f : Block → Block) : (s.updBlock t f).benches = s.benches := rfl
@[simp] theorem updBlock_boot (s : State) (t : Site) (f : Block → Block) : (s.updBlock t f).boot = s.boot := rfl
@[simp] theorem updBlock_outbox (s : State) (t : Site) (f : Block → Block) : (s.updBlock t f).outbox = s.outbox := rfl
@[simp] theorem updBlock_drops (s : State) (t : Site) (f : Block → Block) : (s.updBlock t f).drops = s.drops := rfl
@[simp] theorem updBlock_logQ (s : State) (t : Site) (f : Block → Block) : (s.updBlock t f).logQ = s.logQ := rfl
@[simp] theorem updBlock_hostOps (s : State) (t : Site) (f : Block → Block) : (s.updBlock t f).hostOps = s.hostOps := rfl
@[simp] theorem updBlock_debugQ (s : State) (t : Site) (f : Block → Block) : (s.updBlock t f).debugQ = s.debugQ := rfl

@[simp] theorem updSlot_cycle (s : State) (t : Site) (f : Slot → Slot) : (s.updSlot t f).cycle = s.cycle := rfl
@[simp] theorem updSlot_agenda (s : State) (t : Site) (f : Slot → Slot) : (s.updSlot t f).agenda = s.agenda := rfl
@[simp] theorem updSlot_site (s : State) (t : Site) (f : Slot → Slot) : (s.updSlot t f).site = s.site := rfl
@[simp] theorem updSlot_fresh (s : State) (t : Site) (f : Slot → Slot) : (s.updSlot t f).fresh = s.fresh := rfl
@[simp] theorem updSlot_flight (s : State) (t : Site) (f : Slot → Slot) : (s.updSlot t f).flight = s.flight := rfl
@[simp] theorem updSlot_chanMsgs (s : State) (t : Site) (f : Slot → Slot) : (s.updSlot t f).chanMsgs = s.chanMsgs := rfl
@[simp] theorem updSlot_spalls (s : State) (t : Site) (f : Slot → Slot) : (s.updSlot t f).spalls = s.spalls := rfl
@[simp] theorem updSlot_mem (s : State) (t : Site) (f : Slot → Slot) : (s.updSlot t f).mem = s.mem := rfl
@[simp] theorem updSlot_regions (s : State) (t : Site) (f : Slot → Slot) : (s.updSlot t f).regions = s.regions := rfl
@[simp] theorem updSlot_ctxs (s : State) (t : Site) (f : Slot → Slot) : (s.updSlot t f).ctxs = s.ctxs := rfl
@[simp] theorem updSlot_dev (s : State) (t : Site) (f : Slot → Slot) : (s.updSlot t f).dev = s.dev := rfl
@[simp] theorem updSlot_thermal (s : State) (t : Site) (f : Slot → Slot) : (s.updSlot t f).thermal = s.thermal := rfl
@[simp] theorem updSlot_msix (s : State) (t : Site) (f : Slot → Slot) : (s.updSlot t f).msix = s.msix := rfl
@[simp] theorem updSlot_pend (s : State) (t : Site) (f : Slot → Slot) : (s.updSlot t f).pend = s.pend := rfl
@[simp] theorem updSlot_stamps (s : State) (t : Site) (f : Slot → Slot) : (s.updSlot t f).stamps = s.stamps := rfl
@[simp] theorem updSlot_hostPorts (s : State) (t : Site) (f : Slot → Slot) : (s.updSlot t f).hostPorts = s.hostPorts := rfl
@[simp] theorem updSlot_lrec (s : State) (t : Site) (f : Slot → Slot) : (s.updSlot t f).lrec = s.lrec := rfl
@[simp] theorem updSlot_launchQ (s : State) (t : Site) (f : Slot → Slot) : (s.updSlot t f).launchQ = s.launchQ := rfl
@[simp] theorem updSlot_launches (s : State) (t : Site) (f : Slot → Slot) : (s.updSlot t f).launches = s.launches := rfl
@[simp] theorem updSlot_images (s : State) (t : Site) (f : Slot → Slot) : (s.updSlot t f).images = s.images := rfl
@[simp] theorem updSlot_loaded (s : State) (t : Site) (f : Slot → Slot) : (s.updSlot t f).loaded = s.loaded := rfl
@[simp] theorem updSlot_cmds (s : State) (t : Site) (f : Slot → Slot) : (s.updSlot t f).cmds = s.cmds := rfl
@[simp] theorem updSlot_queues (s : State) (t : Site) (f : Slot → Slot) : (s.updSlot t f).queues = s.queues := rfl
@[simp] theorem updSlot_seams (s : State) (t : Site) (f : Slot → Slot) : (s.updSlot t f).seams = s.seams := rfl
@[simp] theorem updSlot_colls (s : State) (t : Site) (f : Slot → Slot) : (s.updSlot t f).colls = s.colls := rfl
@[simp] theorem updSlot_cams (s : State) (t : Site) (f : Slot → Slot) : (s.updSlot t f).cams = s.cams := rfl
@[simp] theorem updSlot_parked (s : State) (t : Site) (f : Slot → Slot) : (s.updSlot t f).parked = s.parked := rfl
@[simp] theorem updSlot_benches (s : State) (t : Site) (f : Slot → Slot) : (s.updSlot t f).benches = s.benches := rfl
@[simp] theorem updSlot_boot (s : State) (t : Site) (f : Slot → Slot) : (s.updSlot t f).boot = s.boot := rfl
@[simp] theorem updSlot_outbox (s : State) (t : Site) (f : Slot → Slot) : (s.updSlot t f).outbox = s.outbox := rfl
@[simp] theorem updSlot_drops (s : State) (t : Site) (f : Slot → Slot) : (s.updSlot t f).drops = s.drops := rfl
@[simp] theorem updSlot_logQ (s : State) (t : Site) (f : Slot → Slot) : (s.updSlot t f).logQ = s.logQ := rfl
@[simp] theorem updSlot_hostOps (s : State) (t : Site) (f : Slot → Slot) : (s.updSlot t f).hostOps = s.hostOps := rfl
@[simp] theorem updSlot_debugQ (s : State) (t : Site) (f : Slot → Slot) : (s.updSlot t f).debugQ = s.debugQ := rfl

@[simp] theorem updPe_cycle (s : State) (t : Site) (f : Pe → Pe) : (s.updPe t f).cycle = s.cycle := rfl
@[simp] theorem updPe_agenda (s : State) (t : Site) (f : Pe → Pe) : (s.updPe t f).agenda = s.agenda := rfl
@[simp] theorem updPe_site (s : State) (t : Site) (f : Pe → Pe) : (s.updPe t f).site = s.site := rfl
@[simp] theorem updPe_fresh (s : State) (t : Site) (f : Pe → Pe) : (s.updPe t f).fresh = s.fresh := rfl
@[simp] theorem updPe_flight (s : State) (t : Site) (f : Pe → Pe) : (s.updPe t f).flight = s.flight := rfl
@[simp] theorem updPe_chanMsgs (s : State) (t : Site) (f : Pe → Pe) : (s.updPe t f).chanMsgs = s.chanMsgs := rfl
@[simp] theorem updPe_spalls (s : State) (t : Site) (f : Pe → Pe) : (s.updPe t f).spalls = s.spalls := rfl
@[simp] theorem updPe_mem (s : State) (t : Site) (f : Pe → Pe) : (s.updPe t f).mem = s.mem := rfl
@[simp] theorem updPe_regions (s : State) (t : Site) (f : Pe → Pe) : (s.updPe t f).regions = s.regions := rfl
@[simp] theorem updPe_ctxs (s : State) (t : Site) (f : Pe → Pe) : (s.updPe t f).ctxs = s.ctxs := rfl
@[simp] theorem updPe_dev (s : State) (t : Site) (f : Pe → Pe) : (s.updPe t f).dev = s.dev := rfl
@[simp] theorem updPe_thermal (s : State) (t : Site) (f : Pe → Pe) : (s.updPe t f).thermal = s.thermal := rfl
@[simp] theorem updPe_msix (s : State) (t : Site) (f : Pe → Pe) : (s.updPe t f).msix = s.msix := rfl
@[simp] theorem updPe_pend (s : State) (t : Site) (f : Pe → Pe) : (s.updPe t f).pend = s.pend := rfl
@[simp] theorem updPe_stamps (s : State) (t : Site) (f : Pe → Pe) : (s.updPe t f).stamps = s.stamps := rfl
@[simp] theorem updPe_hostPorts (s : State) (t : Site) (f : Pe → Pe) : (s.updPe t f).hostPorts = s.hostPorts := rfl
@[simp] theorem updPe_lrec (s : State) (t : Site) (f : Pe → Pe) : (s.updPe t f).lrec = s.lrec := rfl
@[simp] theorem updPe_launchQ (s : State) (t : Site) (f : Pe → Pe) : (s.updPe t f).launchQ = s.launchQ := rfl
@[simp] theorem updPe_launches (s : State) (t : Site) (f : Pe → Pe) : (s.updPe t f).launches = s.launches := rfl
@[simp] theorem updPe_images (s : State) (t : Site) (f : Pe → Pe) : (s.updPe t f).images = s.images := rfl
@[simp] theorem updPe_loaded (s : State) (t : Site) (f : Pe → Pe) : (s.updPe t f).loaded = s.loaded := rfl
@[simp] theorem updPe_cmds (s : State) (t : Site) (f : Pe → Pe) : (s.updPe t f).cmds = s.cmds := rfl
@[simp] theorem updPe_queues (s : State) (t : Site) (f : Pe → Pe) : (s.updPe t f).queues = s.queues := rfl
@[simp] theorem updPe_seams (s : State) (t : Site) (f : Pe → Pe) : (s.updPe t f).seams = s.seams := rfl
@[simp] theorem updPe_colls (s : State) (t : Site) (f : Pe → Pe) : (s.updPe t f).colls = s.colls := rfl
@[simp] theorem updPe_cams (s : State) (t : Site) (f : Pe → Pe) : (s.updPe t f).cams = s.cams := rfl
@[simp] theorem updPe_parked (s : State) (t : Site) (f : Pe → Pe) : (s.updPe t f).parked = s.parked := rfl
@[simp] theorem updPe_benches (s : State) (t : Site) (f : Pe → Pe) : (s.updPe t f).benches = s.benches := rfl
@[simp] theorem updPe_boot (s : State) (t : Site) (f : Pe → Pe) : (s.updPe t f).boot = s.boot := rfl
@[simp] theorem updPe_outbox (s : State) (t : Site) (f : Pe → Pe) : (s.updPe t f).outbox = s.outbox := rfl
@[simp] theorem updPe_drops (s : State) (t : Site) (f : Pe → Pe) : (s.updPe t f).drops = s.drops := rfl
@[simp] theorem updPe_logQ (s : State) (t : Site) (f : Pe → Pe) : (s.updPe t f).logQ = s.logQ := rfl
@[simp] theorem updPe_hostOps (s : State) (t : Site) (f : Pe → Pe) : (s.updPe t f).hostOps = s.hostOps := rfl
@[simp] theorem updPe_debugQ (s : State) (t : Site) (f : Pe → Pe) : (s.updPe t f).debugQ = s.debugQ := rfl

@[simp] theorem updPort_cycle (s : State) (c n : Nat) (f : Port → Port) : (s.updPort c n f).cycle = s.cycle := rfl
@[simp] theorem updPort_agenda (s : State) (c n : Nat) (f : Port → Port) : (s.updPort c n f).agenda = s.agenda := rfl
@[simp] theorem updPort_site (s : State) (c n : Nat) (f : Port → Port) : (s.updPort c n f).site = s.site := rfl
@[simp] theorem updPort_fresh (s : State) (c n : Nat) (f : Port → Port) : (s.updPort c n f).fresh = s.fresh := rfl
@[simp] theorem updPort_flight (s : State) (c n : Nat) (f : Port → Port) : (s.updPort c n f).flight = s.flight := rfl
@[simp] theorem updPort_chanMsgs (s : State) (c n : Nat) (f : Port → Port) : (s.updPort c n f).chanMsgs = s.chanMsgs := rfl
@[simp] theorem updPort_spalls (s : State) (c n : Nat) (f : Port → Port) : (s.updPort c n f).spalls = s.spalls := rfl
@[simp] theorem updPort_mem (s : State) (c n : Nat) (f : Port → Port) : (s.updPort c n f).mem = s.mem := rfl
@[simp] theorem updPort_regions (s : State) (c n : Nat) (f : Port → Port) : (s.updPort c n f).regions = s.regions := rfl
@[simp] theorem updPort_ctxs (s : State) (c n : Nat) (f : Port → Port) : (s.updPort c n f).ctxs = s.ctxs := rfl
@[simp] theorem updPort_dev (s : State) (c n : Nat) (f : Port → Port) : (s.updPort c n f).dev = s.dev := rfl
@[simp] theorem updPort_thermal (s : State) (c n : Nat) (f : Port → Port) : (s.updPort c n f).thermal = s.thermal := rfl
@[simp] theorem updPort_msix (s : State) (c n : Nat) (f : Port → Port) : (s.updPort c n f).msix = s.msix := rfl
@[simp] theorem updPort_pend (s : State) (c n : Nat) (f : Port → Port) : (s.updPort c n f).pend = s.pend := rfl
@[simp] theorem updPort_stamps (s : State) (c n : Nat) (f : Port → Port) : (s.updPort c n f).stamps = s.stamps := rfl
@[simp] theorem updPort_hostPorts (s : State) (c n : Nat) (f : Port → Port) : (s.updPort c n f).hostPorts = s.hostPorts := rfl
@[simp] theorem updPort_lrec (s : State) (c n : Nat) (f : Port → Port) : (s.updPort c n f).lrec = s.lrec := rfl
@[simp] theorem updPort_launchQ (s : State) (c n : Nat) (f : Port → Port) : (s.updPort c n f).launchQ = s.launchQ := rfl
@[simp] theorem updPort_launches (s : State) (c n : Nat) (f : Port → Port) : (s.updPort c n f).launches = s.launches := rfl
@[simp] theorem updPort_images (s : State) (c n : Nat) (f : Port → Port) : (s.updPort c n f).images = s.images := rfl
@[simp] theorem updPort_loaded (s : State) (c n : Nat) (f : Port → Port) : (s.updPort c n f).loaded = s.loaded := rfl
@[simp] theorem updPort_cmds (s : State) (c n : Nat) (f : Port → Port) : (s.updPort c n f).cmds = s.cmds := rfl
@[simp] theorem updPort_queues (s : State) (c n : Nat) (f : Port → Port) : (s.updPort c n f).queues = s.queues := rfl
@[simp] theorem updPort_seams (s : State) (c n : Nat) (f : Port → Port) : (s.updPort c n f).seams = s.seams := rfl
@[simp] theorem updPort_colls (s : State) (c n : Nat) (f : Port → Port) : (s.updPort c n f).colls = s.colls := rfl
@[simp] theorem updPort_cams (s : State) (c n : Nat) (f : Port → Port) : (s.updPort c n f).cams = s.cams := rfl
@[simp] theorem updPort_parked (s : State) (c n : Nat) (f : Port → Port) : (s.updPort c n f).parked = s.parked := rfl
@[simp] theorem updPort_benches (s : State) (c n : Nat) (f : Port → Port) : (s.updPort c n f).benches = s.benches := rfl
@[simp] theorem updPort_boot (s : State) (c n : Nat) (f : Port → Port) : (s.updPort c n f).boot = s.boot := rfl
@[simp] theorem updPort_outbox (s : State) (c n : Nat) (f : Port → Port) : (s.updPort c n f).outbox = s.outbox := rfl
@[simp] theorem updPort_drops (s : State) (c n : Nat) (f : Port → Port) : (s.updPort c n f).drops = s.drops := rfl
@[simp] theorem updPort_logQ (s : State) (c n : Nat) (f : Port → Port) : (s.updPort c n f).logQ = s.logQ := rfl
@[simp] theorem updPort_hostOps (s : State) (c n : Nat) (f : Port → Port) : (s.updPort c n f).hostOps = s.hostOps := rfl
@[simp] theorem updPort_debugQ (s : State) (c n : Nat) (f : Port → Port) : (s.updPort c n f).debugQ = s.debugQ := rfl

@[simp] theorem count_cycle (s : State) (c n : Nat) (k : Word) : (s.count c n k).cycle = s.cycle := rfl
@[simp] theorem count_agenda (s : State) (c n : Nat) (k : Word) : (s.count c n k).agenda = s.agenda := rfl
@[simp] theorem count_site (s : State) (c n : Nat) (k : Word) : (s.count c n k).site = s.site := rfl
@[simp] theorem count_fresh (s : State) (c n : Nat) (k : Word) : (s.count c n k).fresh = s.fresh := rfl
@[simp] theorem count_flight (s : State) (c n : Nat) (k : Word) : (s.count c n k).flight = s.flight := rfl
@[simp] theorem count_chanMsgs (s : State) (c n : Nat) (k : Word) : (s.count c n k).chanMsgs = s.chanMsgs := rfl
@[simp] theorem count_spalls (s : State) (c n : Nat) (k : Word) : (s.count c n k).spalls = s.spalls := rfl
@[simp] theorem count_mem (s : State) (c n : Nat) (k : Word) : (s.count c n k).mem = s.mem := rfl
@[simp] theorem count_regions (s : State) (c n : Nat) (k : Word) : (s.count c n k).regions = s.regions := rfl
@[simp] theorem count_ctxs (s : State) (c n : Nat) (k : Word) : (s.count c n k).ctxs = s.ctxs := rfl
@[simp] theorem count_dev (s : State) (c n : Nat) (k : Word) : (s.count c n k).dev = s.dev := rfl
@[simp] theorem count_thermal (s : State) (c n : Nat) (k : Word) : (s.count c n k).thermal = s.thermal := rfl
@[simp] theorem count_msix (s : State) (c n : Nat) (k : Word) : (s.count c n k).msix = s.msix := rfl
@[simp] theorem count_pend (s : State) (c n : Nat) (k : Word) : (s.count c n k).pend = s.pend := rfl
@[simp] theorem count_stamps (s : State) (c n : Nat) (k : Word) : (s.count c n k).stamps = s.stamps := rfl
@[simp] theorem count_hostPorts (s : State) (c n : Nat) (k : Word) : (s.count c n k).hostPorts = s.hostPorts := rfl
@[simp] theorem count_lrec (s : State) (c n : Nat) (k : Word) : (s.count c n k).lrec = s.lrec := rfl
@[simp] theorem count_launchQ (s : State) (c n : Nat) (k : Word) : (s.count c n k).launchQ = s.launchQ := rfl
@[simp] theorem count_launches (s : State) (c n : Nat) (k : Word) : (s.count c n k).launches = s.launches := rfl
@[simp] theorem count_images (s : State) (c n : Nat) (k : Word) : (s.count c n k).images = s.images := rfl
@[simp] theorem count_loaded (s : State) (c n : Nat) (k : Word) : (s.count c n k).loaded = s.loaded := rfl
@[simp] theorem count_cmds (s : State) (c n : Nat) (k : Word) : (s.count c n k).cmds = s.cmds := rfl
@[simp] theorem count_queues (s : State) (c n : Nat) (k : Word) : (s.count c n k).queues = s.queues := rfl
@[simp] theorem count_seams (s : State) (c n : Nat) (k : Word) : (s.count c n k).seams = s.seams := rfl
@[simp] theorem count_colls (s : State) (c n : Nat) (k : Word) : (s.count c n k).colls = s.colls := rfl
@[simp] theorem count_cams (s : State) (c n : Nat) (k : Word) : (s.count c n k).cams = s.cams := rfl
@[simp] theorem count_parked (s : State) (c n : Nat) (k : Word) : (s.count c n k).parked = s.parked := rfl
@[simp] theorem count_benches (s : State) (c n : Nat) (k : Word) : (s.count c n k).benches = s.benches := rfl
@[simp] theorem count_boot (s : State) (c n : Nat) (k : Word) : (s.count c n k).boot = s.boot := rfl
@[simp] theorem count_outbox (s : State) (c n : Nat) (k : Word) : (s.count c n k).outbox = s.outbox := rfl
@[simp] theorem count_drops (s : State) (c n : Nat) (k : Word) : (s.count c n k).drops = s.drops := rfl
@[simp] theorem count_logQ (s : State) (c n : Nat) (k : Word) : (s.count c n k).logQ = s.logQ := rfl
@[simp] theorem count_hostOps (s : State) (c n : Nat) (k : Word) : (s.count c n k).hostOps = s.hostOps := rfl
@[simp] theorem count_debugQ (s : State) (c n : Nat) (k : Word) : (s.count c n k).debugQ = s.debugQ := rfl

@[simp] theorem raiseFlags_cycle (s : State) (c : Nat) (k : Word) : (s.raiseFlags c k).cycle = s.cycle := rfl
@[simp] theorem raiseFlags_agenda (s : State) (c : Nat) (k : Word) : (s.raiseFlags c k).agenda = s.agenda := rfl
@[simp] theorem raiseFlags_site (s : State) (c : Nat) (k : Word) : (s.raiseFlags c k).site = s.site := rfl
@[simp] theorem raiseFlags_fresh (s : State) (c : Nat) (k : Word) : (s.raiseFlags c k).fresh = s.fresh := rfl
@[simp] theorem raiseFlags_flight (s : State) (c : Nat) (k : Word) : (s.raiseFlags c k).flight = s.flight := rfl
@[simp] theorem raiseFlags_chanMsgs (s : State) (c : Nat) (k : Word) : (s.raiseFlags c k).chanMsgs = s.chanMsgs := rfl
@[simp] theorem raiseFlags_spalls (s : State) (c : Nat) (k : Word) : (s.raiseFlags c k).spalls = s.spalls := rfl
@[simp] theorem raiseFlags_mem (s : State) (c : Nat) (k : Word) : (s.raiseFlags c k).mem = s.mem := rfl
@[simp] theorem raiseFlags_regions (s : State) (c : Nat) (k : Word) : (s.raiseFlags c k).regions = s.regions := rfl
@[simp] theorem raiseFlags_ctxs (s : State) (c : Nat) (k : Word) : (s.raiseFlags c k).ctxs = s.ctxs := rfl
@[simp] theorem raiseFlags_dev (s : State) (c : Nat) (k : Word) : (s.raiseFlags c k).dev = s.dev := rfl
@[simp] theorem raiseFlags_thermal (s : State) (c : Nat) (k : Word) : (s.raiseFlags c k).thermal = s.thermal := rfl
@[simp] theorem raiseFlags_msix (s : State) (c : Nat) (k : Word) : (s.raiseFlags c k).msix = s.msix := rfl
@[simp] theorem raiseFlags_pend (s : State) (c : Nat) (k : Word) : (s.raiseFlags c k).pend = s.pend := rfl
@[simp] theorem raiseFlags_stamps (s : State) (c : Nat) (k : Word) : (s.raiseFlags c k).stamps = s.stamps := rfl
@[simp] theorem raiseFlags_hostPorts (s : State) (c : Nat) (k : Word) : (s.raiseFlags c k).hostPorts = s.hostPorts := rfl
@[simp] theorem raiseFlags_lrec (s : State) (c : Nat) (k : Word) : (s.raiseFlags c k).lrec = s.lrec := rfl
@[simp] theorem raiseFlags_launchQ (s : State) (c : Nat) (k : Word) : (s.raiseFlags c k).launchQ = s.launchQ := rfl
@[simp] theorem raiseFlags_launches (s : State) (c : Nat) (k : Word) : (s.raiseFlags c k).launches = s.launches := rfl
@[simp] theorem raiseFlags_images (s : State) (c : Nat) (k : Word) : (s.raiseFlags c k).images = s.images := rfl
@[simp] theorem raiseFlags_loaded (s : State) (c : Nat) (k : Word) : (s.raiseFlags c k).loaded = s.loaded := rfl
@[simp] theorem raiseFlags_cmds (s : State) (c : Nat) (k : Word) : (s.raiseFlags c k).cmds = s.cmds := rfl
@[simp] theorem raiseFlags_queues (s : State) (c : Nat) (k : Word) : (s.raiseFlags c k).queues = s.queues := rfl
@[simp] theorem raiseFlags_seams (s : State) (c : Nat) (k : Word) : (s.raiseFlags c k).seams = s.seams := rfl
@[simp] theorem raiseFlags_colls (s : State) (c : Nat) (k : Word) : (s.raiseFlags c k).colls = s.colls := rfl
@[simp] theorem raiseFlags_cams (s : State) (c : Nat) (k : Word) : (s.raiseFlags c k).cams = s.cams := rfl
@[simp] theorem raiseFlags_parked (s : State) (c : Nat) (k : Word) : (s.raiseFlags c k).parked = s.parked := rfl
@[simp] theorem raiseFlags_benches (s : State) (c : Nat) (k : Word) : (s.raiseFlags c k).benches = s.benches := rfl
@[simp] theorem raiseFlags_boot (s : State) (c : Nat) (k : Word) : (s.raiseFlags c k).boot = s.boot := rfl
@[simp] theorem raiseFlags_outbox (s : State) (c : Nat) (k : Word) : (s.raiseFlags c k).outbox = s.outbox := rfl
@[simp] theorem raiseFlags_drops (s : State) (c : Nat) (k : Word) : (s.raiseFlags c k).drops = s.drops := rfl
@[simp] theorem raiseFlags_logQ (s : State) (c : Nat) (k : Word) : (s.raiseFlags c k).logQ = s.logQ := rfl
@[simp] theorem raiseFlags_hostOps (s : State) (c : Nat) (k : Word) : (s.raiseFlags c k).hostOps = s.hostOps := rfl
@[simp] theorem raiseFlags_debugQ (s : State) (c : Nat) (k : Word) : (s.raiseFlags c k).debugQ = s.debugQ := rfl

@[simp] theorem updRegion_cycle (s : State) (n : Nat) (f : Region → Region) : (s.updRegion n f).cycle = s.cycle := rfl
@[simp] theorem updRegion_agenda (s : State) (n : Nat) (f : Region → Region) : (s.updRegion n f).agenda = s.agenda := rfl
@[simp] theorem updRegion_site (s : State) (n : Nat) (f : Region → Region) : (s.updRegion n f).site = s.site := rfl
@[simp] theorem updRegion_fresh (s : State) (n : Nat) (f : Region → Region) : (s.updRegion n f).fresh = s.fresh := rfl
@[simp] theorem updRegion_cells (s : State) (n : Nat) (f : Region → Region) : (s.updRegion n f).cells = s.cells := rfl
@[simp] theorem updRegion_flight (s : State) (n : Nat) (f : Region → Region) : (s.updRegion n f).flight = s.flight := rfl
@[simp] theorem updRegion_chanMsgs (s : State) (n : Nat) (f : Region → Region) : (s.updRegion n f).chanMsgs = s.chanMsgs := rfl
@[simp] theorem updRegion_spalls (s : State) (n : Nat) (f : Region → Region) : (s.updRegion n f).spalls = s.spalls := rfl
@[simp] theorem updRegion_mem (s : State) (n : Nat) (f : Region → Region) : (s.updRegion n f).mem = s.mem := rfl
@[simp] theorem updRegion_ctxs (s : State) (n : Nat) (f : Region → Region) : (s.updRegion n f).ctxs = s.ctxs := rfl
@[simp] theorem updRegion_dev (s : State) (n : Nat) (f : Region → Region) : (s.updRegion n f).dev = s.dev := rfl
@[simp] theorem updRegion_thermal (s : State) (n : Nat) (f : Region → Region) : (s.updRegion n f).thermal = s.thermal := rfl
@[simp] theorem updRegion_msix (s : State) (n : Nat) (f : Region → Region) : (s.updRegion n f).msix = s.msix := rfl
@[simp] theorem updRegion_pend (s : State) (n : Nat) (f : Region → Region) : (s.updRegion n f).pend = s.pend := rfl
@[simp] theorem updRegion_stamps (s : State) (n : Nat) (f : Region → Region) : (s.updRegion n f).stamps = s.stamps := rfl
@[simp] theorem updRegion_hostPorts (s : State) (n : Nat) (f : Region → Region) : (s.updRegion n f).hostPorts = s.hostPorts := rfl
@[simp] theorem updRegion_lrec (s : State) (n : Nat) (f : Region → Region) : (s.updRegion n f).lrec = s.lrec := rfl
@[simp] theorem updRegion_launchQ (s : State) (n : Nat) (f : Region → Region) : (s.updRegion n f).launchQ = s.launchQ := rfl
@[simp] theorem updRegion_launches (s : State) (n : Nat) (f : Region → Region) : (s.updRegion n f).launches = s.launches := rfl
@[simp] theorem updRegion_images (s : State) (n : Nat) (f : Region → Region) : (s.updRegion n f).images = s.images := rfl
@[simp] theorem updRegion_loaded (s : State) (n : Nat) (f : Region → Region) : (s.updRegion n f).loaded = s.loaded := rfl
@[simp] theorem updRegion_cmds (s : State) (n : Nat) (f : Region → Region) : (s.updRegion n f).cmds = s.cmds := rfl
@[simp] theorem updRegion_queues (s : State) (n : Nat) (f : Region → Region) : (s.updRegion n f).queues = s.queues := rfl
@[simp] theorem updRegion_seams (s : State) (n : Nat) (f : Region → Region) : (s.updRegion n f).seams = s.seams := rfl
@[simp] theorem updRegion_colls (s : State) (n : Nat) (f : Region → Region) : (s.updRegion n f).colls = s.colls := rfl
@[simp] theorem updRegion_cams (s : State) (n : Nat) (f : Region → Region) : (s.updRegion n f).cams = s.cams := rfl
@[simp] theorem updRegion_parked (s : State) (n : Nat) (f : Region → Region) : (s.updRegion n f).parked = s.parked := rfl
@[simp] theorem updRegion_benches (s : State) (n : Nat) (f : Region → Region) : (s.updRegion n f).benches = s.benches := rfl
@[simp] theorem updRegion_boot (s : State) (n : Nat) (f : Region → Region) : (s.updRegion n f).boot = s.boot := rfl
@[simp] theorem updRegion_outbox (s : State) (n : Nat) (f : Region → Region) : (s.updRegion n f).outbox = s.outbox := rfl
@[simp] theorem updRegion_drops (s : State) (n : Nat) (f : Region → Region) : (s.updRegion n f).drops = s.drops := rfl
@[simp] theorem updRegion_logQ (s : State) (n : Nat) (f : Region → Region) : (s.updRegion n f).logQ = s.logQ := rfl
@[simp] theorem updRegion_hostOps (s : State) (n : Nat) (f : Region → Region) : (s.updRegion n f).hostOps = s.hostOps := rfl
@[simp] theorem updRegion_debugQ (s : State) (n : Nat) (f : Region → Region) : (s.updRegion n f).debugQ = s.debugQ := rfl

@[simp] theorem updCtx_cycle (s : State) (n : Nat) (f : CtxRegs → CtxRegs) : (s.updCtx n f).cycle = s.cycle := rfl
@[simp] theorem updCtx_agenda (s : State) (n : Nat) (f : CtxRegs → CtxRegs) : (s.updCtx n f).agenda = s.agenda := rfl
@[simp] theorem updCtx_site (s : State) (n : Nat) (f : CtxRegs → CtxRegs) : (s.updCtx n f).site = s.site := rfl
@[simp] theorem updCtx_fresh (s : State) (n : Nat) (f : CtxRegs → CtxRegs) : (s.updCtx n f).fresh = s.fresh := rfl
@[simp] theorem updCtx_cells (s : State) (n : Nat) (f : CtxRegs → CtxRegs) : (s.updCtx n f).cells = s.cells := rfl
@[simp] theorem updCtx_flight (s : State) (n : Nat) (f : CtxRegs → CtxRegs) : (s.updCtx n f).flight = s.flight := rfl
@[simp] theorem updCtx_chanMsgs (s : State) (n : Nat) (f : CtxRegs → CtxRegs) : (s.updCtx n f).chanMsgs = s.chanMsgs := rfl
@[simp] theorem updCtx_spalls (s : State) (n : Nat) (f : CtxRegs → CtxRegs) : (s.updCtx n f).spalls = s.spalls := rfl
@[simp] theorem updCtx_mem (s : State) (n : Nat) (f : CtxRegs → CtxRegs) : (s.updCtx n f).mem = s.mem := rfl
@[simp] theorem updCtx_regions (s : State) (n : Nat) (f : CtxRegs → CtxRegs) : (s.updCtx n f).regions = s.regions := rfl
@[simp] theorem updCtx_dev (s : State) (n : Nat) (f : CtxRegs → CtxRegs) : (s.updCtx n f).dev = s.dev := rfl
@[simp] theorem updCtx_thermal (s : State) (n : Nat) (f : CtxRegs → CtxRegs) : (s.updCtx n f).thermal = s.thermal := rfl
@[simp] theorem updCtx_msix (s : State) (n : Nat) (f : CtxRegs → CtxRegs) : (s.updCtx n f).msix = s.msix := rfl
@[simp] theorem updCtx_pend (s : State) (n : Nat) (f : CtxRegs → CtxRegs) : (s.updCtx n f).pend = s.pend := rfl
@[simp] theorem updCtx_stamps (s : State) (n : Nat) (f : CtxRegs → CtxRegs) : (s.updCtx n f).stamps = s.stamps := rfl
@[simp] theorem updCtx_hostPorts (s : State) (n : Nat) (f : CtxRegs → CtxRegs) : (s.updCtx n f).hostPorts = s.hostPorts := rfl
@[simp] theorem updCtx_lrec (s : State) (n : Nat) (f : CtxRegs → CtxRegs) : (s.updCtx n f).lrec = s.lrec := rfl
@[simp] theorem updCtx_launchQ (s : State) (n : Nat) (f : CtxRegs → CtxRegs) : (s.updCtx n f).launchQ = s.launchQ := rfl
@[simp] theorem updCtx_launches (s : State) (n : Nat) (f : CtxRegs → CtxRegs) : (s.updCtx n f).launches = s.launches := rfl
@[simp] theorem updCtx_images (s : State) (n : Nat) (f : CtxRegs → CtxRegs) : (s.updCtx n f).images = s.images := rfl
@[simp] theorem updCtx_loaded (s : State) (n : Nat) (f : CtxRegs → CtxRegs) : (s.updCtx n f).loaded = s.loaded := rfl
@[simp] theorem updCtx_cmds (s : State) (n : Nat) (f : CtxRegs → CtxRegs) : (s.updCtx n f).cmds = s.cmds := rfl
@[simp] theorem updCtx_queues (s : State) (n : Nat) (f : CtxRegs → CtxRegs) : (s.updCtx n f).queues = s.queues := rfl
@[simp] theorem updCtx_seams (s : State) (n : Nat) (f : CtxRegs → CtxRegs) : (s.updCtx n f).seams = s.seams := rfl
@[simp] theorem updCtx_colls (s : State) (n : Nat) (f : CtxRegs → CtxRegs) : (s.updCtx n f).colls = s.colls := rfl
@[simp] theorem updCtx_cams (s : State) (n : Nat) (f : CtxRegs → CtxRegs) : (s.updCtx n f).cams = s.cams := rfl
@[simp] theorem updCtx_parked (s : State) (n : Nat) (f : CtxRegs → CtxRegs) : (s.updCtx n f).parked = s.parked := rfl
@[simp] theorem updCtx_benches (s : State) (n : Nat) (f : CtxRegs → CtxRegs) : (s.updCtx n f).benches = s.benches := rfl
@[simp] theorem updCtx_boot (s : State) (n : Nat) (f : CtxRegs → CtxRegs) : (s.updCtx n f).boot = s.boot := rfl
@[simp] theorem updCtx_outbox (s : State) (n : Nat) (f : CtxRegs → CtxRegs) : (s.updCtx n f).outbox = s.outbox := rfl
@[simp] theorem updCtx_drops (s : State) (n : Nat) (f : CtxRegs → CtxRegs) : (s.updCtx n f).drops = s.drops := rfl
@[simp] theorem updCtx_logQ (s : State) (n : Nat) (f : CtxRegs → CtxRegs) : (s.updCtx n f).logQ = s.logQ := rfl
@[simp] theorem updCtx_hostOps (s : State) (n : Nat) (f : CtxRegs → CtxRegs) : (s.updCtx n f).hostOps = s.hostOps := rfl
@[simp] theorem updCtx_debugQ (s : State) (n : Nat) (f : CtxRegs → CtxRegs) : (s.updCtx n f).debugQ = s.debugQ := rfl

@[simp] theorem updQueue_cycle (s : State) (n : Nat) (f : WorkQueue → WorkQueue) : (s.updQueue n f).cycle = s.cycle := rfl
@[simp] theorem updQueue_agenda (s : State) (n : Nat) (f : WorkQueue → WorkQueue) : (s.updQueue n f).agenda = s.agenda := rfl
@[simp] theorem updQueue_site (s : State) (n : Nat) (f : WorkQueue → WorkQueue) : (s.updQueue n f).site = s.site := rfl
@[simp] theorem updQueue_fresh (s : State) (n : Nat) (f : WorkQueue → WorkQueue) : (s.updQueue n f).fresh = s.fresh := rfl
@[simp] theorem updQueue_cells (s : State) (n : Nat) (f : WorkQueue → WorkQueue) : (s.updQueue n f).cells = s.cells := rfl
@[simp] theorem updQueue_flight (s : State) (n : Nat) (f : WorkQueue → WorkQueue) : (s.updQueue n f).flight = s.flight := rfl
@[simp] theorem updQueue_chanMsgs (s : State) (n : Nat) (f : WorkQueue → WorkQueue) : (s.updQueue n f).chanMsgs = s.chanMsgs := rfl
@[simp] theorem updQueue_spalls (s : State) (n : Nat) (f : WorkQueue → WorkQueue) : (s.updQueue n f).spalls = s.spalls := rfl
@[simp] theorem updQueue_mem (s : State) (n : Nat) (f : WorkQueue → WorkQueue) : (s.updQueue n f).mem = s.mem := rfl
@[simp] theorem updQueue_regions (s : State) (n : Nat) (f : WorkQueue → WorkQueue) : (s.updQueue n f).regions = s.regions := rfl
@[simp] theorem updQueue_ctxs (s : State) (n : Nat) (f : WorkQueue → WorkQueue) : (s.updQueue n f).ctxs = s.ctxs := rfl
@[simp] theorem updQueue_dev (s : State) (n : Nat) (f : WorkQueue → WorkQueue) : (s.updQueue n f).dev = s.dev := rfl
@[simp] theorem updQueue_thermal (s : State) (n : Nat) (f : WorkQueue → WorkQueue) : (s.updQueue n f).thermal = s.thermal := rfl
@[simp] theorem updQueue_msix (s : State) (n : Nat) (f : WorkQueue → WorkQueue) : (s.updQueue n f).msix = s.msix := rfl
@[simp] theorem updQueue_pend (s : State) (n : Nat) (f : WorkQueue → WorkQueue) : (s.updQueue n f).pend = s.pend := rfl
@[simp] theorem updQueue_stamps (s : State) (n : Nat) (f : WorkQueue → WorkQueue) : (s.updQueue n f).stamps = s.stamps := rfl
@[simp] theorem updQueue_hostPorts (s : State) (n : Nat) (f : WorkQueue → WorkQueue) : (s.updQueue n f).hostPorts = s.hostPorts := rfl
@[simp] theorem updQueue_lrec (s : State) (n : Nat) (f : WorkQueue → WorkQueue) : (s.updQueue n f).lrec = s.lrec := rfl
@[simp] theorem updQueue_launchQ (s : State) (n : Nat) (f : WorkQueue → WorkQueue) : (s.updQueue n f).launchQ = s.launchQ := rfl
@[simp] theorem updQueue_launches (s : State) (n : Nat) (f : WorkQueue → WorkQueue) : (s.updQueue n f).launches = s.launches := rfl
@[simp] theorem updQueue_images (s : State) (n : Nat) (f : WorkQueue → WorkQueue) : (s.updQueue n f).images = s.images := rfl
@[simp] theorem updQueue_loaded (s : State) (n : Nat) (f : WorkQueue → WorkQueue) : (s.updQueue n f).loaded = s.loaded := rfl
@[simp] theorem updQueue_cmds (s : State) (n : Nat) (f : WorkQueue → WorkQueue) : (s.updQueue n f).cmds = s.cmds := rfl
@[simp] theorem updQueue_seams (s : State) (n : Nat) (f : WorkQueue → WorkQueue) : (s.updQueue n f).seams = s.seams := rfl
@[simp] theorem updQueue_colls (s : State) (n : Nat) (f : WorkQueue → WorkQueue) : (s.updQueue n f).colls = s.colls := rfl
@[simp] theorem updQueue_cams (s : State) (n : Nat) (f : WorkQueue → WorkQueue) : (s.updQueue n f).cams = s.cams := rfl
@[simp] theorem updQueue_parked (s : State) (n : Nat) (f : WorkQueue → WorkQueue) : (s.updQueue n f).parked = s.parked := rfl
@[simp] theorem updQueue_benches (s : State) (n : Nat) (f : WorkQueue → WorkQueue) : (s.updQueue n f).benches = s.benches := rfl
@[simp] theorem updQueue_boot (s : State) (n : Nat) (f : WorkQueue → WorkQueue) : (s.updQueue n f).boot = s.boot := rfl
@[simp] theorem updQueue_outbox (s : State) (n : Nat) (f : WorkQueue → WorkQueue) : (s.updQueue n f).outbox = s.outbox := rfl
@[simp] theorem updQueue_drops (s : State) (n : Nat) (f : WorkQueue → WorkQueue) : (s.updQueue n f).drops = s.drops := rfl
@[simp] theorem updQueue_logQ (s : State) (n : Nat) (f : WorkQueue → WorkQueue) : (s.updQueue n f).logQ = s.logQ := rfl
@[simp] theorem updQueue_hostOps (s : State) (n : Nat) (f : WorkQueue → WorkQueue) : (s.updQueue n f).hostOps = s.hostOps := rfl
@[simp] theorem updQueue_debugQ (s : State) (n : Nat) (f : WorkQueue → WorkQueue) : (s.updQueue n f).debugQ = s.debugQ := rfl

@[simp] theorem updHostPort_cycle (s : State) (n : Nat) (f : HostPort → HostPort) : (s.updHostPort n f).cycle = s.cycle := rfl
@[simp] theorem updHostPort_agenda (s : State) (n : Nat) (f : HostPort → HostPort) : (s.updHostPort n f).agenda = s.agenda := rfl
@[simp] theorem updHostPort_site (s : State) (n : Nat) (f : HostPort → HostPort) : (s.updHostPort n f).site = s.site := rfl
@[simp] theorem updHostPort_fresh (s : State) (n : Nat) (f : HostPort → HostPort) : (s.updHostPort n f).fresh = s.fresh := rfl
@[simp] theorem updHostPort_cells (s : State) (n : Nat) (f : HostPort → HostPort) : (s.updHostPort n f).cells = s.cells := rfl
@[simp] theorem updHostPort_flight (s : State) (n : Nat) (f : HostPort → HostPort) : (s.updHostPort n f).flight = s.flight := rfl
@[simp] theorem updHostPort_chanMsgs (s : State) (n : Nat) (f : HostPort → HostPort) : (s.updHostPort n f).chanMsgs = s.chanMsgs := rfl
@[simp] theorem updHostPort_spalls (s : State) (n : Nat) (f : HostPort → HostPort) : (s.updHostPort n f).spalls = s.spalls := rfl
@[simp] theorem updHostPort_mem (s : State) (n : Nat) (f : HostPort → HostPort) : (s.updHostPort n f).mem = s.mem := rfl
@[simp] theorem updHostPort_regions (s : State) (n : Nat) (f : HostPort → HostPort) : (s.updHostPort n f).regions = s.regions := rfl
@[simp] theorem updHostPort_ctxs (s : State) (n : Nat) (f : HostPort → HostPort) : (s.updHostPort n f).ctxs = s.ctxs := rfl
@[simp] theorem updHostPort_dev (s : State) (n : Nat) (f : HostPort → HostPort) : (s.updHostPort n f).dev = s.dev := rfl
@[simp] theorem updHostPort_thermal (s : State) (n : Nat) (f : HostPort → HostPort) : (s.updHostPort n f).thermal = s.thermal := rfl
@[simp] theorem updHostPort_msix (s : State) (n : Nat) (f : HostPort → HostPort) : (s.updHostPort n f).msix = s.msix := rfl
@[simp] theorem updHostPort_pend (s : State) (n : Nat) (f : HostPort → HostPort) : (s.updHostPort n f).pend = s.pend := rfl
@[simp] theorem updHostPort_stamps (s : State) (n : Nat) (f : HostPort → HostPort) : (s.updHostPort n f).stamps = s.stamps := rfl
@[simp] theorem updHostPort_lrec (s : State) (n : Nat) (f : HostPort → HostPort) : (s.updHostPort n f).lrec = s.lrec := rfl
@[simp] theorem updHostPort_launchQ (s : State) (n : Nat) (f : HostPort → HostPort) : (s.updHostPort n f).launchQ = s.launchQ := rfl
@[simp] theorem updHostPort_launches (s : State) (n : Nat) (f : HostPort → HostPort) : (s.updHostPort n f).launches = s.launches := rfl
@[simp] theorem updHostPort_images (s : State) (n : Nat) (f : HostPort → HostPort) : (s.updHostPort n f).images = s.images := rfl
@[simp] theorem updHostPort_loaded (s : State) (n : Nat) (f : HostPort → HostPort) : (s.updHostPort n f).loaded = s.loaded := rfl
@[simp] theorem updHostPort_cmds (s : State) (n : Nat) (f : HostPort → HostPort) : (s.updHostPort n f).cmds = s.cmds := rfl
@[simp] theorem updHostPort_queues (s : State) (n : Nat) (f : HostPort → HostPort) : (s.updHostPort n f).queues = s.queues := rfl
@[simp] theorem updHostPort_seams (s : State) (n : Nat) (f : HostPort → HostPort) : (s.updHostPort n f).seams = s.seams := rfl
@[simp] theorem updHostPort_colls (s : State) (n : Nat) (f : HostPort → HostPort) : (s.updHostPort n f).colls = s.colls := rfl
@[simp] theorem updHostPort_cams (s : State) (n : Nat) (f : HostPort → HostPort) : (s.updHostPort n f).cams = s.cams := rfl
@[simp] theorem updHostPort_parked (s : State) (n : Nat) (f : HostPort → HostPort) : (s.updHostPort n f).parked = s.parked := rfl
@[simp] theorem updHostPort_benches (s : State) (n : Nat) (f : HostPort → HostPort) : (s.updHostPort n f).benches = s.benches := rfl
@[simp] theorem updHostPort_boot (s : State) (n : Nat) (f : HostPort → HostPort) : (s.updHostPort n f).boot = s.boot := rfl
@[simp] theorem updHostPort_outbox (s : State) (n : Nat) (f : HostPort → HostPort) : (s.updHostPort n f).outbox = s.outbox := rfl
@[simp] theorem updHostPort_drops (s : State) (n : Nat) (f : HostPort → HostPort) : (s.updHostPort n f).drops = s.drops := rfl
@[simp] theorem updHostPort_logQ (s : State) (n : Nat) (f : HostPort → HostPort) : (s.updHostPort n f).logQ = s.logQ := rfl
@[simp] theorem updHostPort_hostOps (s : State) (n : Nat) (f : HostPort → HostPort) : (s.updHostPort n f).hostOps = s.hostOps := rfl
@[simp] theorem updHostPort_debugQ (s : State) (n : Nat) (f : HostPort → HostPort) : (s.updHostPort n f).debugQ = s.debugQ := rfl

@[simp] theorem updBench_cycle (s : State) (n : Nat) (f : Bench → Bench) : (s.updBench n f).cycle = s.cycle := rfl
@[simp] theorem updBench_agenda (s : State) (n : Nat) (f : Bench → Bench) : (s.updBench n f).agenda = s.agenda := rfl
@[simp] theorem updBench_site (s : State) (n : Nat) (f : Bench → Bench) : (s.updBench n f).site = s.site := rfl
@[simp] theorem updBench_fresh (s : State) (n : Nat) (f : Bench → Bench) : (s.updBench n f).fresh = s.fresh := rfl
@[simp] theorem updBench_cells (s : State) (n : Nat) (f : Bench → Bench) : (s.updBench n f).cells = s.cells := rfl
@[simp] theorem updBench_flight (s : State) (n : Nat) (f : Bench → Bench) : (s.updBench n f).flight = s.flight := rfl
@[simp] theorem updBench_chanMsgs (s : State) (n : Nat) (f : Bench → Bench) : (s.updBench n f).chanMsgs = s.chanMsgs := rfl
@[simp] theorem updBench_spalls (s : State) (n : Nat) (f : Bench → Bench) : (s.updBench n f).spalls = s.spalls := rfl
@[simp] theorem updBench_mem (s : State) (n : Nat) (f : Bench → Bench) : (s.updBench n f).mem = s.mem := rfl
@[simp] theorem updBench_regions (s : State) (n : Nat) (f : Bench → Bench) : (s.updBench n f).regions = s.regions := rfl
@[simp] theorem updBench_ctxs (s : State) (n : Nat) (f : Bench → Bench) : (s.updBench n f).ctxs = s.ctxs := rfl
@[simp] theorem updBench_dev (s : State) (n : Nat) (f : Bench → Bench) : (s.updBench n f).dev = s.dev := rfl
@[simp] theorem updBench_thermal (s : State) (n : Nat) (f : Bench → Bench) : (s.updBench n f).thermal = s.thermal := rfl
@[simp] theorem updBench_msix (s : State) (n : Nat) (f : Bench → Bench) : (s.updBench n f).msix = s.msix := rfl
@[simp] theorem updBench_pend (s : State) (n : Nat) (f : Bench → Bench) : (s.updBench n f).pend = s.pend := rfl
@[simp] theorem updBench_stamps (s : State) (n : Nat) (f : Bench → Bench) : (s.updBench n f).stamps = s.stamps := rfl
@[simp] theorem updBench_hostPorts (s : State) (n : Nat) (f : Bench → Bench) : (s.updBench n f).hostPorts = s.hostPorts := rfl
@[simp] theorem updBench_lrec (s : State) (n : Nat) (f : Bench → Bench) : (s.updBench n f).lrec = s.lrec := rfl
@[simp] theorem updBench_launchQ (s : State) (n : Nat) (f : Bench → Bench) : (s.updBench n f).launchQ = s.launchQ := rfl
@[simp] theorem updBench_launches (s : State) (n : Nat) (f : Bench → Bench) : (s.updBench n f).launches = s.launches := rfl
@[simp] theorem updBench_images (s : State) (n : Nat) (f : Bench → Bench) : (s.updBench n f).images = s.images := rfl
@[simp] theorem updBench_loaded (s : State) (n : Nat) (f : Bench → Bench) : (s.updBench n f).loaded = s.loaded := rfl
@[simp] theorem updBench_cmds (s : State) (n : Nat) (f : Bench → Bench) : (s.updBench n f).cmds = s.cmds := rfl
@[simp] theorem updBench_queues (s : State) (n : Nat) (f : Bench → Bench) : (s.updBench n f).queues = s.queues := rfl
@[simp] theorem updBench_seams (s : State) (n : Nat) (f : Bench → Bench) : (s.updBench n f).seams = s.seams := rfl
@[simp] theorem updBench_colls (s : State) (n : Nat) (f : Bench → Bench) : (s.updBench n f).colls = s.colls := rfl
@[simp] theorem updBench_cams (s : State) (n : Nat) (f : Bench → Bench) : (s.updBench n f).cams = s.cams := rfl
@[simp] theorem updBench_parked (s : State) (n : Nat) (f : Bench → Bench) : (s.updBench n f).parked = s.parked := rfl
@[simp] theorem updBench_boot (s : State) (n : Nat) (f : Bench → Bench) : (s.updBench n f).boot = s.boot := rfl
@[simp] theorem updBench_outbox (s : State) (n : Nat) (f : Bench → Bench) : (s.updBench n f).outbox = s.outbox := rfl
@[simp] theorem updBench_drops (s : State) (n : Nat) (f : Bench → Bench) : (s.updBench n f).drops = s.drops := rfl
@[simp] theorem updBench_logQ (s : State) (n : Nat) (f : Bench → Bench) : (s.updBench n f).logQ = s.logQ := rfl
@[simp] theorem updBench_hostOps (s : State) (n : Nat) (f : Bench → Bench) : (s.updBench n f).hostOps = s.hostOps := rfl
@[simp] theorem updBench_debugQ (s : State) (n : Nat) (f : Bench → Bench) : (s.updBench n f).debugQ = s.debugQ := rfl

@[simp] theorem updCmd_cycle (s : State) (n : Nat) (f : Cmd → Cmd) : (s.updCmd n f).cycle = s.cycle := rfl
@[simp] theorem updCmd_agenda (s : State) (n : Nat) (f : Cmd → Cmd) : (s.updCmd n f).agenda = s.agenda := rfl
@[simp] theorem updCmd_site (s : State) (n : Nat) (f : Cmd → Cmd) : (s.updCmd n f).site = s.site := rfl
@[simp] theorem updCmd_fresh (s : State) (n : Nat) (f : Cmd → Cmd) : (s.updCmd n f).fresh = s.fresh := rfl
@[simp] theorem updCmd_cells (s : State) (n : Nat) (f : Cmd → Cmd) : (s.updCmd n f).cells = s.cells := rfl
@[simp] theorem updCmd_flight (s : State) (n : Nat) (f : Cmd → Cmd) : (s.updCmd n f).flight = s.flight := rfl
@[simp] theorem updCmd_chanMsgs (s : State) (n : Nat) (f : Cmd → Cmd) : (s.updCmd n f).chanMsgs = s.chanMsgs := rfl
@[simp] theorem updCmd_spalls (s : State) (n : Nat) (f : Cmd → Cmd) : (s.updCmd n f).spalls = s.spalls := rfl
@[simp] theorem updCmd_mem (s : State) (n : Nat) (f : Cmd → Cmd) : (s.updCmd n f).mem = s.mem := rfl
@[simp] theorem updCmd_regions (s : State) (n : Nat) (f : Cmd → Cmd) : (s.updCmd n f).regions = s.regions := rfl
@[simp] theorem updCmd_ctxs (s : State) (n : Nat) (f : Cmd → Cmd) : (s.updCmd n f).ctxs = s.ctxs := rfl
@[simp] theorem updCmd_dev (s : State) (n : Nat) (f : Cmd → Cmd) : (s.updCmd n f).dev = s.dev := rfl
@[simp] theorem updCmd_thermal (s : State) (n : Nat) (f : Cmd → Cmd) : (s.updCmd n f).thermal = s.thermal := rfl
@[simp] theorem updCmd_msix (s : State) (n : Nat) (f : Cmd → Cmd) : (s.updCmd n f).msix = s.msix := rfl
@[simp] theorem updCmd_pend (s : State) (n : Nat) (f : Cmd → Cmd) : (s.updCmd n f).pend = s.pend := rfl
@[simp] theorem updCmd_stamps (s : State) (n : Nat) (f : Cmd → Cmd) : (s.updCmd n f).stamps = s.stamps := rfl
@[simp] theorem updCmd_hostPorts (s : State) (n : Nat) (f : Cmd → Cmd) : (s.updCmd n f).hostPorts = s.hostPorts := rfl
@[simp] theorem updCmd_lrec (s : State) (n : Nat) (f : Cmd → Cmd) : (s.updCmd n f).lrec = s.lrec := rfl
@[simp] theorem updCmd_launchQ (s : State) (n : Nat) (f : Cmd → Cmd) : (s.updCmd n f).launchQ = s.launchQ := rfl
@[simp] theorem updCmd_launches (s : State) (n : Nat) (f : Cmd → Cmd) : (s.updCmd n f).launches = s.launches := rfl
@[simp] theorem updCmd_images (s : State) (n : Nat) (f : Cmd → Cmd) : (s.updCmd n f).images = s.images := rfl
@[simp] theorem updCmd_loaded (s : State) (n : Nat) (f : Cmd → Cmd) : (s.updCmd n f).loaded = s.loaded := rfl
@[simp] theorem updCmd_queues (s : State) (n : Nat) (f : Cmd → Cmd) : (s.updCmd n f).queues = s.queues := rfl
@[simp] theorem updCmd_seams (s : State) (n : Nat) (f : Cmd → Cmd) : (s.updCmd n f).seams = s.seams := rfl
@[simp] theorem updCmd_colls (s : State) (n : Nat) (f : Cmd → Cmd) : (s.updCmd n f).colls = s.colls := rfl
@[simp] theorem updCmd_cams (s : State) (n : Nat) (f : Cmd → Cmd) : (s.updCmd n f).cams = s.cams := rfl
@[simp] theorem updCmd_parked (s : State) (n : Nat) (f : Cmd → Cmd) : (s.updCmd n f).parked = s.parked := rfl
@[simp] theorem updCmd_benches (s : State) (n : Nat) (f : Cmd → Cmd) : (s.updCmd n f).benches = s.benches := rfl
@[simp] theorem updCmd_boot (s : State) (n : Nat) (f : Cmd → Cmd) : (s.updCmd n f).boot = s.boot := rfl
@[simp] theorem updCmd_outbox (s : State) (n : Nat) (f : Cmd → Cmd) : (s.updCmd n f).outbox = s.outbox := rfl
@[simp] theorem updCmd_drops (s : State) (n : Nat) (f : Cmd → Cmd) : (s.updCmd n f).drops = s.drops := rfl
@[simp] theorem updCmd_logQ (s : State) (n : Nat) (f : Cmd → Cmd) : (s.updCmd n f).logQ = s.logQ := rfl
@[simp] theorem updCmd_hostOps (s : State) (n : Nat) (f : Cmd → Cmd) : (s.updCmd n f).hostOps = s.hostOps := rfl
@[simp] theorem updCmd_debugQ (s : State) (n : Nat) (f : Cmd → Cmd) : (s.updCmd n f).debugQ = s.debugQ := rfl

end Sys2Proof.Machine
end

