-- ==== Sys2Proof/Laws/Lookup.lean ====
section
/-! SUPPORT. Finding cells, blocks, slots and PEs after an update. -/

namespace Sys2Proof.Machine

/-! What updates of a cell leave. -/

@[simp] theorem Cell.updBlock_num (c : Cell) (k : Nat) (f : Block → Block) : (c.updBlock k f).num = c.num := rfl
@[simp] theorem Cell.updPe_num (c : Cell) (k : Nat) (f : Pe → Pe) : (c.updPe k f).num = c.num := rfl
@[simp] theorem Cell.updRegs_num (c : Cell) (f : RegFiles → RegFiles) : (c.updRegs f).num = c.num := rfl
@[simp] theorem Cell.raiseFlags_num (c : Cell) (now : Nat) (k : Word) : (c.raiseFlags now k).num = c.num := rfl
@[simp] theorem Cell.count_num (c : Cell) (n : Nat) (k : Word) : (c.count n k).num = c.num := by unfold Cell.count; split <;> rfl
@[simp] theorem Cell.updPort_num (c : Cell) (n : Nat) (f : Port → Port) : (c.updPort n f).num = c.num := by unfold Cell.updPort; split <;> rfl
@[simp] theorem Cell.tookAt_num (c : Cell) (now : Nat) (t : Site) (i : Instr) : (c.tookAt now t i).num = c.num := by simp [Cell.tookAt]

@[simp] theorem Cell.updBlock_pes (c : Cell) (k : Nat) (f : Block → Block) : (c.updBlock k f).pes = c.pes := rfl
@[simp] theorem Cell.updPe_blocks (c : Cell) (k : Nat) (f : Pe → Pe) : (c.updPe k f).blocks = c.blocks := rfl
@[simp] theorem Cell.count_blocks (c : Cell) (n : Nat) (k : Word) : (c.count n k).blocks = c.blocks := by unfold Cell.count; split <;> rfl
@[simp] theorem Cell.count_pes (c : Cell) (n : Nat) (k : Word) : (c.count n k).pes = c.pes := by unfold Cell.count; split <;> rfl
@[simp] theorem Cell.count_divider (c : Cell) (n : Nat) (k : Word) : (c.count n k).divider = c.divider := by unfold Cell.count; split <;> rfl
@[simp] theorem Cell.count_parity (c : Cell) (n : Nat) (k : Word) : (c.count n k).parity = c.parity := by unfold Cell.count; split <;> rfl
@[simp] theorem Cell.updBlock_divider (c : Cell) (k : Nat) (f : Block → Block) : (c.updBlock k f).divider = c.divider := rfl
@[simp] theorem Cell.updBlock_parity (c : Cell) (k : Nat) (f : Block → Block) : (c.updBlock k f).parity = c.parity := rfl
@[simp] theorem Cell.updPe_divider (c : Cell) (k : Nat) (f : Pe → Pe) : (c.updPe k f).divider = c.divider := rfl
@[simp] theorem Cell.updPe_parity (c : Cell) (k : Nat) (f : Pe → Pe) : (c.updPe k f).parity = c.parity := rfl
@[simp] theorem Cell.tookAt_divider (c : Cell) (now : Nat) (t : Site) (i : Instr) : (c.tookAt now t i).divider = c.divider := by simp [Cell.tookAt]
@[simp] theorem Cell.tookAt_parity (c : Cell) (now : Nat) (t : Site) (i : Instr) : (c.tookAt now t i).parity = c.parity := by simp [Cell.tookAt]

@[simp] theorem Cell.count_held (c : Cell) (n : Nat) (k : Word) : (c.count n k).held = c.held := by unfold Cell.count; split <;> rfl
@[simp] theorem Cell.updBlock_held (c : Cell) (k : Nat) (f : Block → Block) : (c.updBlock k f).held = c.held := rfl
@[simp] theorem Cell.count_channels (c : Cell) (n : Nat) (k : Word) : (c.count n k).channels = c.channels := by unfold Cell.count; split <;> rfl
@[simp] theorem Cell.updPe_channels (c : Cell) (k : Nat) (f : Pe → Pe) : (c.updPe k f).channels = c.channels := rfl

/-- A list with one entry replaced by one that looks the same looks the same. -/
theorem map_set_same {α β : Type} (l : List α) (k : Nat) (d : α) (f : α → α) (g : α → β) (h : ∀ a, g (f a) = g a) :
    (l.set k (f (l.getD k d))).map g = l.map g := by
  apply List.ext_getElem <;> simp only [List.length_map, List.length_set, List.getElem_map, List.getElem_set]
  intro n h1 h2
  split
  · rename_i e; subst e; simp_all
  · rfl

/-- A PE changed but for its accumulators and weights leaves what the cell holds. -/
theorem Cell.updPe_held (c : Cell) (k : Nat) (f : Pe → Pe) (h1 : ∀ p, (f p).acc = p.acc)
    (h2 : ∀ p, ((f p).cur, (f p).shadow, (f p).stored) = (p.cur, p.shadow, p.stored)) : (c.updPe k f).held = c.held := by
  unfold Cell.held Cell.updPe Cell.pe
  simp only [map_set_same _ _ _ f (fun (p : Pe) => p.acc) h1,
    map_set_same _ _ _ f (fun (p : Pe) => (p.cur, p.shadow, p.stored)) h2]

/-- A block changed but for its channels leaves the cell's channels. -/
theorem Cell.updBlock_channels (c : Cell) (k : Nat) (f : Block → Block) (h : ∀ b, ((f b).ins, (f b).outs) = (b.ins, b.outs)) :
    (c.updBlock k f).channels = c.channels := by
  simp only [Cell.channels, Cell.updBlock, List.map_map]
  apply List.map_congr_left
  intro b _
  simp only [Function.comp]
  split
  · exact h b
  · rfl

/-! Cells. -/

theorem State.cell?_num (s : State) (n : Nat) (c : Cell) (h : s.cell? n = some c) : c.num = n := by
  have := List.find?_some h
  simpa using this

theorem State.cell?_updCell (s : State) (n m : Nat) (f : Cell → Cell) (hf : ∀ c, (f c).num = c.num) :
    (s.updCell n f).cell? m = if m = n then (s.cell? m).map f else s.cell? m := by
  have hp : ((fun c => c.num == m) ∘ fun c => if (c.num == n) = true then f c else c) = fun (c : Cell) => c.num == m := by
    funext c; simp only [Function.comp]; split <;> simp [hf]
  unfold State.updCell State.cell?
  simp only [List.find?_map, hp]
  cases h : List.find? (fun c => c.num == m) s.cells with
  | none => simp
  | some c =>
    have hc : c.num = m := by simpa using List.find?_some h
    simp only [Option.map_some, hc, beq_iff_eq]
    split <;> rfl

theorem State.cell?_updCell_self (s : State) (n : Nat) (f : Cell → Cell) (hf : ∀ c, (f c).num = c.num) :
    (s.updCell n f).cell? n = (s.cell? n).map f := by simp [State.cell?_updCell s n n f hf]

theorem State.cells_map_updCell {β : Type} (s : State) (n : Nat) (f : Cell → Cell) (g : Cell → β) (h : ∀ c, g (f c) = g c) :
    (s.updCell n f).cells.map g = s.cells.map g := by
  simp only [State.updCell, List.map_map]
  apply List.map_congr_left
  intro c _
  simp only [Function.comp]
  split <;> simp [h]

/-! Blocks. -/

theorem Cell.block?_ctx (c : Cell) (k : Nat) (b : Block) (h : c.block? k = some b) : b.ctx = k := by
  have := List.find?_some h
  simpa using this

theorem Cell.block?_updBlock (c : Cell) (k m : Nat) (f : Block → Block) (hf : ∀ b, (f b).ctx = b.ctx) :
    (c.updBlock k f).block? m = if m = k then (c.block? m).map f else c.block? m := by
  have hp : ((fun b => b.ctx == m) ∘ fun b => if (b.ctx == k) = true then f b else b) = fun (b : Block) => b.ctx == m := by
    funext b; simp only [Function.comp]; split <;> simp [hf]
  unfold Cell.updBlock Cell.block?
  simp only [List.find?_map, hp]
  cases h : List.find? (fun b => b.ctx == m) c.blocks with
  | none => simp
  | some b =>
    have hb : b.ctx = m := by simpa using List.find?_some h
    simp only [Option.map_some, hb, beq_iff_eq]
    split <;> rfl

@[simp] theorem Cell.block?_updPe (c : Cell) (p k : Nat) (f : Pe → Pe) : (c.updPe p f).block? k = c.block? k := rfl
@[simp] theorem Cell.block?_updRegs (c : Cell) (f : RegFiles → RegFiles) (k : Nat) : (c.updRegs f).block? k = c.block? k := rfl
@[simp] theorem Cell.block?_count (c : Cell) (n : Nat) (v : Word) (k : Nat) : (c.count n v).block? k = c.block? k := by
  unfold Cell.block?; simp

theorem State.block?_updBlock_self (s : State) (t : Site) (f : Block → Block) (hf : ∀ b, (f b).ctx = b.ctx) :
    (s.updBlock t f).block? t = (s.block? t).map f := by
  simp only [State.block?, State.updBlock, State.cell?_updCell_self s t.cell _ (fun c => Cell.updBlock_num c t.ctx f)]
  cases s.cell? t.cell with
  | none => rfl
  | some c => simp [Cell.block?_updBlock c t.ctx t.ctx f hf]

/-! Slots. -/

@[simp] theorem Block.updSlot_ctx (b : Block) (i : Nat) (f : Slot → Slot) : (b.updSlot i f).ctx = b.ctx := rfl
@[simp] theorem Block.updSlot_words (b : Block) (i : Nat) (f : Slot → Slot) : (b.updSlot i f).words = b.words := rfl
@[simp] theorem Block.updSlot_instr? (b : Block) (i j : Nat) (f : Slot → Slot) : (b.updSlot i f).instr? j = b.instr? j := rfl
@[simp] theorem Block.updSlot_length (b : Block) (i : Nat) (f : Slot → Slot) : (b.updSlot i f).slots.length = b.slots.length := by
  simp [Block.updSlot]

theorem Block.slot_updSlot (b : Block) (i j : Nat) (f : Slot → Slot) (h : i < b.slots.length) :
    (b.updSlot i f).slot j = if j = i then f (b.slot j) else b.slot j := by
  unfold Block.updSlot Block.slot
  by_cases e : j = i
  · subst e; simp [h]
  · simp [e, List.getD_eq_getElem?_getD, List.getElem?_set_ne (Ne.symm e)]

theorem Slot.field_updField (sl : Slot) (f g : FieldSel) (h : FieldQ → FieldQ) :
    (sl.updField f h).field g = if g = f then h (sl.field g) else sl.field g := by
  cases f <;> cases g <;> rfl

@[simp] theorem Slot.updField_done (sl : Slot) (f : FieldSel) (h : FieldQ → FieldQ) : (sl.updField f h).done = sl.done := by cases f <;> rfl
@[simp] theorem Slot.updField_issuedAt (sl : Slot) (f : FieldSel) (h : FieldQ → FieldQ) : (sl.updField f h).issuedAt = sl.issuedAt := by
  cases f <;> rfl
@[simp] theorem Slot.updField_seq (sl : Slot) (f : FieldSel) (h : FieldQ → FieldQ) : (sl.updField f h).seq = sl.seq := by cases f <;> rfl
@[simp] theorem Slot.updField_sum (sl : Slot) (f : FieldSel) (h : FieldQ → FieldQ) : (sl.updField f h).sum = sl.sum := by cases f <;> rfl
@[simp] theorem Slot.updField_sumMark (sl : Slot) (f : FieldSel) (h : FieldQ → FieldQ) : (sl.updField f h).sumMark = sl.sumMark := by
  cases f <;> rfl

/-- Consuming tokens drops them from the heads of the fields. -/
theorem Slot.consume_field (sl : Slot) (l : Takes) (f : FieldSel) :
    ((sl.consume l).field f).toks = ((sl.field f).toks).drop (Takes.of l f) := by
  unfold Slot.consume Takes.of
  suffices h : ∀ n : Nat, ∀ sl sl' : Slot, (sl.field f).toks = ((sl'.field f).toks).drop n →
      ((l.foldl (fun sl x => sl.updField x.1 (·.dropToks x.2)) sl).field f).toks =
        ((sl'.field f).toks).drop (l.foldl (fun n x => if x.1 == f then n + x.2 else n) n) from h 0 sl sl (by simp)
  induction l with
  | nil => intro n sl sl' h; simpa using h
  | cons x rest ih =>
    intro n sl sl' h
    simp only [List.foldl_cons]
    apply ih
    rw [Slot.field_updField]
    by_cases e : f = x.1
    · subst e; simp [FieldQ.dropToks, h, List.drop_drop]
    · have : ¬ (x.1 == f) = true := by simpa using Ne.symm e
      simp [e, this, h]

@[simp] theorem Slot.consume_seq (sl : Slot) (l : Takes) : (sl.consume l).seq = sl.seq := by
  unfold Slot.consume
  induction l generalizing sl with
  | nil => rfl
  | cons x rest ih => simp [List.foldl_cons, ih]

@[simp] theorem Slot.consume_sum (sl : Slot) (l : Takes) : (sl.consume l).sum = sl.sum := by
  unfold Slot.consume
  induction l generalizing sl with
  | nil => rfl
  | cons x rest ih => simp [List.foldl_cons, ih]

@[simp] theorem Slot.consume_sumMark (sl : Slot) (l : Takes) : (sl.consume l).sumMark = sl.sumMark := by
  unfold Slot.consume
  induction l generalizing sl with
  | nil => rfl
  | cons x rest ih => simp [List.foldl_cons, ih]

/-! PEs. -/

theorem Cell.pe_updPe (c : Cell) (p q : Nat) (f : Pe → Pe) (h : p < c.pes.length) :
    (c.updPe p f).pe q = if q = p then f (c.pe q) else c.pe q := by
  unfold Cell.updPe Cell.pe
  by_cases e : q = p
  · subst e; simp [h]
  · simp [e, List.getD_eq_getElem?_getD, List.getElem?_set_ne (Ne.symm e)]

end Sys2Proof.Machine
end

