-- ==== Sys2Proof/Laws/Emit.lean ====
section
/-! SUPPORT. What sending, reserving and emitting tokens do: the tokens on their way, and the fields of the state that stay. -/

namespace Sys2Proof.Machine

/-! Fields of the state. -/

@[simp] theorem send_cycle (s : State) (t : Site) (c : Consumer) (k : Tok) (n : Nat) : (s.send t c k n).cycle = s.cycle := by
  unfold State.send; split <;> [rfl; (split <;> rfl)]
@[simp] theorem send_agenda (s : State) (t : Site) (c : Consumer) (k : Tok) (n : Nat) : (s.send t c k n).agenda = s.agenda := by
  unfold State.send; split <;> [rfl; (split <;> rfl)]
@[simp] theorem send_site (s : State) (t : Site) (c : Consumer) (k : Tok) (n : Nat) : (s.send t c k n).site = s.site := by
  unfold State.send; split <;> [rfl; (split <;> rfl)]
@[simp] theorem send_fresh (s : State) (t : Site) (c : Consumer) (k : Tok) (n : Nat) : (s.send t c k n).fresh = s.fresh := by
  unfold State.send; split <;> [rfl; (split <;> rfl)]
@[simp] theorem send_cells (s : State) (t : Site) (c : Consumer) (k : Tok) (n : Nat) : (s.send t c k n).cells = s.cells := by
  unfold State.send; split <;> [rfl; (split <;> rfl)]
@[simp] theorem send_chanMsgs (s : State) (t : Site) (c : Consumer) (k : Tok) (n : Nat) : (s.send t c k n).chanMsgs = s.chanMsgs := by
  unfold State.send; split <;> [rfl; (split <;> rfl)]
@[simp] theorem send_spalls (s : State) (t : Site) (c : Consumer) (k : Tok) (n : Nat) : (s.send t c k n).spalls = s.spalls := by
  unfold State.send; split <;> [rfl; (split <;> rfl)]
@[simp] theorem send_mem (s : State) (t : Site) (c : Consumer) (k : Tok) (n : Nat) : (s.send t c k n).mem = s.mem := by
  unfold State.send; split <;> [rfl; (split <;> rfl)]
@[simp] theorem send_regions (s : State) (t : Site) (c : Consumer) (k : Tok) (n : Nat) : (s.send t c k n).regions = s.regions := by
  unfold State.send; split <;> [rfl; (split <;> rfl)]
@[simp] theorem send_ctxs (s : State) (t : Site) (c : Consumer) (k : Tok) (n : Nat) : (s.send t c k n).ctxs = s.ctxs := by
  unfold State.send; split <;> [rfl; (split <;> rfl)]
@[simp] theorem send_dev (s : State) (t : Site) (c : Consumer) (k : Tok) (n : Nat) : (s.send t c k n).dev = s.dev := by
  unfold State.send; split <;> [rfl; (split <;> rfl)]
@[simp] theorem send_thermal (s : State) (t : Site) (c : Consumer) (k : Tok) (n : Nat) : (s.send t c k n).thermal = s.thermal := by
  unfold State.send; split <;> [rfl; (split <;> rfl)]
@[simp] theorem send_msix (s : State) (t : Site) (c : Consumer) (k : Tok) (n : Nat) : (s.send t c k n).msix = s.msix := by
  unfold State.send; split <;> [rfl; (split <;> rfl)]
@[simp] theorem send_pend (s : State) (t : Site) (c : Consumer) (k : Tok) (n : Nat) : (s.send t c k n).pend = s.pend := by
  unfold State.send; split <;> [rfl; (split <;> rfl)]
@[simp] theorem send_stamps (s : State) (t : Site) (c : Consumer) (k : Tok) (n : Nat) : (s.send t c k n).stamps = s.stamps := by
  unfold State.send; split <;> [rfl; (split <;> rfl)]
@[simp] theorem send_hostPorts (s : State) (t : Site) (c : Consumer) (k : Tok) (n : Nat) : (s.send t c k n).hostPorts = s.hostPorts := by
  unfold State.send; split <;> [rfl; (split <;> rfl)]
@[simp] theorem send_lrec (s : State) (t : Site) (c : Consumer) (k : Tok) (n : Nat) : (s.send t c k n).lrec = s.lrec := by
  unfold State.send; split <;> [rfl; (split <;> rfl)]
@[simp] theorem send_launchQ (s : State) (t : Site) (c : Consumer) (k : Tok) (n : Nat) : (s.send t c k n).launchQ = s.launchQ := by
  unfold State.send; split <;> [rfl; (split <;> rfl)]
@[simp] theorem send_launches (s : State) (t : Site) (c : Consumer) (k : Tok) (n : Nat) : (s.send t c k n).launches = s.launches := by
  unfold State.send; split <;> [rfl; (split <;> rfl)]
@[simp] theorem send_images (s : State) (t : Site) (c : Consumer) (k : Tok) (n : Nat) : (s.send t c k n).images = s.images := by
  unfold State.send; split <;> [rfl; (split <;> rfl)]
@[simp] theorem send_loaded (s : State) (t : Site) (c : Consumer) (k : Tok) (n : Nat) : (s.send t c k n).loaded = s.loaded := by
  unfold State.send; split <;> [rfl; (split <;> rfl)]
@[simp] theorem send_cmds (s : State) (t : Site) (c : Consumer) (k : Tok) (n : Nat) : (s.send t c k n).cmds = s.cmds := by
  unfold State.send; split <;> [rfl; (split <;> rfl)]
@[simp] theorem send_queues (s : State) (t : Site) (c : Consumer) (k : Tok) (n : Nat) : (s.send t c k n).queues = s.queues := by
  unfold State.send; split <;> [rfl; (split <;> rfl)]
@[simp] theorem send_seams (s : State) (t : Site) (c : Consumer) (k : Tok) (n : Nat) : (s.send t c k n).seams = s.seams := by
  unfold State.send; split <;> [rfl; (split <;> rfl)]
@[simp] theorem send_colls (s : State) (t : Site) (c : Consumer) (k : Tok) (n : Nat) : (s.send t c k n).colls = s.colls := by
  unfold State.send; split <;> [rfl; (split <;> rfl)]
@[simp] theorem send_cams (s : State) (t : Site) (c : Consumer) (k : Tok) (n : Nat) : (s.send t c k n).cams = s.cams := by
  unfold State.send; split <;> [rfl; (split <;> rfl)]
@[simp] theorem send_parked (s : State) (t : Site) (c : Consumer) (k : Tok) (n : Nat) : (s.send t c k n).parked = s.parked := by
  unfold State.send; split <;> [rfl; (split <;> rfl)]
@[simp] theorem send_benches (s : State) (t : Site) (c : Consumer) (k : Tok) (n : Nat) : (s.send t c k n).benches = s.benches := by
  unfold State.send; split <;> [rfl; (split <;> rfl)]
@[simp] theorem send_boot (s : State) (t : Site) (c : Consumer) (k : Tok) (n : Nat) : (s.send t c k n).boot = s.boot := by
  unfold State.send; split <;> [rfl; (split <;> rfl)]
@[simp] theorem send_outbox (s : State) (t : Site) (c : Consumer) (k : Tok) (n : Nat) : (s.send t c k n).outbox = s.outbox := by
  unfold State.send; split <;> [rfl; (split <;> rfl)]
@[simp] theorem send_drops (s : State) (t : Site) (c : Consumer) (k : Tok) (n : Nat) : (s.send t c k n).drops = s.drops := by
  unfold State.send; split <;> [rfl; (split <;> rfl)]
@[simp] theorem send_logQ (s : State) (t : Site) (c : Consumer) (k : Tok) (n : Nat) : (s.send t c k n).logQ = s.logQ := by
  unfold State.send; split <;> [rfl; (split <;> rfl)]
@[simp] theorem send_hostOps (s : State) (t : Site) (c : Consumer) (k : Tok) (n : Nat) : (s.send t c k n).hostOps = s.hostOps := by
  unfold State.send; split <;> [rfl; (split <;> rfl)]
@[simp] theorem send_debugQ (s : State) (t : Site) (c : Consumer) (k : Tok) (n : Nat) : (s.send t c k n).debugQ = s.debugQ := by
  unfold State.send; split <;> [rfl; (split <;> rfl)]
@[simp] theorem reserveAll_cycle (s : State) (t : Site) (e : Emits) : (s.reserveAll t e).cycle = s.cycle := rfl
@[simp] theorem reserveAll_agenda (s : State) (t : Site) (e : Emits) : (s.reserveAll t e).agenda = s.agenda := rfl
@[simp] theorem reserveAll_site (s : State) (t : Site) (e : Emits) : (s.reserveAll t e).site = s.site := rfl
@[simp] theorem reserveAll_fresh (s : State) (t : Site) (e : Emits) : (s.reserveAll t e).fresh = s.fresh := rfl
@[simp] theorem reserveAll_flight (s : State) (t : Site) (e : Emits) : (s.reserveAll t e).flight = s.flight := rfl
@[simp] theorem reserveAll_chanMsgs (s : State) (t : Site) (e : Emits) : (s.reserveAll t e).chanMsgs = s.chanMsgs := rfl
@[simp] theorem reserveAll_spalls (s : State) (t : Site) (e : Emits) : (s.reserveAll t e).spalls = s.spalls := rfl
@[simp] theorem reserveAll_mem (s : State) (t : Site) (e : Emits) : (s.reserveAll t e).mem = s.mem := rfl
@[simp] theorem reserveAll_regions (s : State) (t : Site) (e : Emits) : (s.reserveAll t e).regions = s.regions := rfl
@[simp] theorem reserveAll_ctxs (s : State) (t : Site) (e : Emits) : (s.reserveAll t e).ctxs = s.ctxs := rfl
@[simp] theorem reserveAll_dev (s : State) (t : Site) (e : Emits) : (s.reserveAll t e).dev = s.dev := rfl
@[simp] theorem reserveAll_thermal (s : State) (t : Site) (e : Emits) : (s.reserveAll t e).thermal = s.thermal := rfl
@[simp] theorem reserveAll_msix (s : State) (t : Site) (e : Emits) : (s.reserveAll t e).msix = s.msix := rfl
@[simp] theorem reserveAll_pend (s : State) (t : Site) (e : Emits) : (s.reserveAll t e).pend = s.pend := rfl
@[simp] theorem reserveAll_stamps (s : State) (t : Site) (e : Emits) : (s.reserveAll t e).stamps = s.stamps := rfl
@[simp] theorem reserveAll_hostPorts (s : State) (t : Site) (e : Emits) : (s.reserveAll t e).hostPorts = s.hostPorts := rfl
@[simp] theorem reserveAll_lrec (s : State) (t : Site) (e : Emits) : (s.reserveAll t e).lrec = s.lrec := rfl
@[simp] theorem reserveAll_launchQ (s : State) (t : Site) (e : Emits) : (s.reserveAll t e).launchQ = s.launchQ := rfl
@[simp] theorem reserveAll_launches (s : State) (t : Site) (e : Emits) : (s.reserveAll t e).launches = s.launches := rfl
@[simp] theorem reserveAll_images (s : State) (t : Site) (e : Emits) : (s.reserveAll t e).images = s.images := rfl
@[simp] theorem reserveAll_loaded (s : State) (t : Site) (e : Emits) : (s.reserveAll t e).loaded = s.loaded := rfl
@[simp] theorem reserveAll_cmds (s : State) (t : Site) (e : Emits) : (s.reserveAll t e).cmds = s.cmds := rfl
@[simp] theorem reserveAll_queues (s : State) (t : Site) (e : Emits) : (s.reserveAll t e).queues = s.queues := rfl
@[simp] theorem reserveAll_seams (s : State) (t : Site) (e : Emits) : (s.reserveAll t e).seams = s.seams := rfl
@[simp] theorem reserveAll_colls (s : State) (t : Site) (e : Emits) : (s.reserveAll t e).colls = s.colls := rfl
@[simp] theorem reserveAll_cams (s : State) (t : Site) (e : Emits) : (s.reserveAll t e).cams = s.cams := rfl
@[simp] theorem reserveAll_parked (s : State) (t : Site) (e : Emits) : (s.reserveAll t e).parked = s.parked := rfl
@[simp] theorem reserveAll_benches (s : State) (t : Site) (e : Emits) : (s.reserveAll t e).benches = s.benches := rfl
@[simp] theorem reserveAll_boot (s : State) (t : Site) (e : Emits) : (s.reserveAll t e).boot = s.boot := rfl
@[simp] theorem reserveAll_outbox (s : State) (t : Site) (e : Emits) : (s.reserveAll t e).outbox = s.outbox := rfl
@[simp] theorem reserveAll_drops (s : State) (t : Site) (e : Emits) : (s.reserveAll t e).drops = s.drops := rfl
@[simp] theorem reserveAll_logQ (s : State) (t : Site) (e : Emits) : (s.reserveAll t e).logQ = s.logQ := rfl
@[simp] theorem reserveAll_hostOps (s : State) (t : Site) (e : Emits) : (s.reserveAll t e).hostOps = s.hostOps := rfl
@[simp] theorem reserveAll_debugQ (s : State) (t : Site) (e : Emits) : (s.reserveAll t e).debugQ = s.debugQ := rfl
@[simp] theorem emit_cycle (s : State) (t : Site) (c : Consumer) (k : Tok) : (s.emit t c k).cycle = s.cycle := by simp [State.emit]
@[simp] theorem emit_agenda (s : State) (t : Site) (c : Consumer) (k : Tok) : (s.emit t c k).agenda = s.agenda := by simp [State.emit]
@[simp] theorem emit_site (s : State) (t : Site) (c : Consumer) (k : Tok) : (s.emit t c k).site = s.site := by simp [State.emit]
@[simp] theorem emit_fresh (s : State) (t : Site) (c : Consumer) (k : Tok) : (s.emit t c k).fresh = s.fresh := by simp [State.emit]
@[simp] theorem emit_chanMsgs (s : State) (t : Site) (c : Consumer) (k : Tok) : (s.emit t c k).chanMsgs = s.chanMsgs := by simp [State.emit]
@[simp] theorem emit_spalls (s : State) (t : Site) (c : Consumer) (k : Tok) : (s.emit t c k).spalls = s.spalls := by simp [State.emit]
@[simp] theorem emit_mem (s : State) (t : Site) (c : Consumer) (k : Tok) : (s.emit t c k).mem = s.mem := by simp [State.emit]
@[simp] theorem emit_regions (s : State) (t : Site) (c : Consumer) (k : Tok) : (s.emit t c k).regions = s.regions := by simp [State.emit]
@[simp] theorem emit_ctxs (s : State) (t : Site) (c : Consumer) (k : Tok) : (s.emit t c k).ctxs = s.ctxs := by simp [State.emit]
@[simp] theorem emit_dev (s : State) (t : Site) (c : Consumer) (k : Tok) : (s.emit t c k).dev = s.dev := by simp [State.emit]
@[simp] theorem emit_thermal (s : State) (t : Site) (c : Consumer) (k : Tok) : (s.emit t c k).thermal = s.thermal := by simp [State.emit]
@[simp] theorem emit_msix (s : State) (t : Site) (c : Consumer) (k : Tok) : (s.emit t c k).msix = s.msix := by simp [State.emit]
@[simp] theorem emit_pend (s : State) (t : Site) (c : Consumer) (k : Tok) : (s.emit t c k).pend = s.pend := by simp [State.emit]
@[simp] theorem emit_stamps (s : State) (t : Site) (c : Consumer) (k : Tok) : (s.emit t c k).stamps = s.stamps := by simp [State.emit]
@[simp] theorem emit_hostPorts (s : State) (t : Site) (c : Consumer) (k : Tok) : (s.emit t c k).hostPorts = s.hostPorts := by simp [State.emit]
@[simp] theorem emit_lrec (s : State) (t : Site) (c : Consumer) (k : Tok) : (s.emit t c k).lrec = s.lrec := by simp [State.emit]
@[simp] theorem emit_launchQ (s : State) (t : Site) (c : Consumer) (k : Tok) : (s.emit t c k).launchQ = s.launchQ := by simp [State.emit]
@[simp] theorem emit_launches (s : State) (t : Site) (c : Consumer) (k : Tok) : (s.emit t c k).launches = s.launches := by simp [State.emit]
@[simp] theorem emit_images (s : State) (t : Site) (c : Consumer) (k : Tok) : (s.emit t c k).images = s.images := by simp [State.emit]
@[simp] theorem emit_loaded (s : State) (t : Site) (c : Consumer) (k : Tok) : (s.emit t c k).loaded = s.loaded := by simp [State.emit]
@[simp] theorem emit_cmds (s : State) (t : Site) (c : Consumer) (k : Tok) : (s.emit t c k).cmds = s.cmds := by simp [State.emit]
@[simp] theorem emit_queues (s : State) (t : Site) (c : Consumer) (k : Tok) : (s.emit t c k).queues = s.queues := by simp [State.emit]
@[simp] theorem emit_seams (s : State) (t : Site) (c : Consumer) (k : Tok) : (s.emit t c k).seams = s.seams := by simp [State.emit]
@[simp] theorem emit_colls (s : State) (t : Site) (c : Consumer) (k : Tok) : (s.emit t c k).colls = s.colls := by simp [State.emit]
@[simp] theorem emit_cams (s : State) (t : Site) (c : Consumer) (k : Tok) : (s.emit t c k).cams = s.cams := by simp [State.emit]
@[simp] theorem emit_parked (s : State) (t : Site) (c : Consumer) (k : Tok) : (s.emit t c k).parked = s.parked := by simp [State.emit]
@[simp] theorem emit_benches (s : State) (t : Site) (c : Consumer) (k : Tok) : (s.emit t c k).benches = s.benches := by simp [State.emit]
@[simp] theorem emit_boot (s : State) (t : Site) (c : Consumer) (k : Tok) : (s.emit t c k).boot = s.boot := by simp [State.emit]
@[simp] theorem emit_outbox (s : State) (t : Site) (c : Consumer) (k : Tok) : (s.emit t c k).outbox = s.outbox := by simp [State.emit]
@[simp] theorem emit_drops (s : State) (t : Site) (c : Consumer) (k : Tok) : (s.emit t c k).drops = s.drops := by simp [State.emit]
@[simp] theorem emit_logQ (s : State) (t : Site) (c : Consumer) (k : Tok) : (s.emit t c k).logQ = s.logQ := by simp [State.emit]
@[simp] theorem emit_hostOps (s : State) (t : Site) (c : Consumer) (k : Tok) : (s.emit t c k).hostOps = s.hostOps := by simp [State.emit]
@[simp] theorem emit_debugQ (s : State) (t : Site) (c : Consumer) (k : Tok) : (s.emit t c k).debugQ = s.debugQ := by simp [State.emit]
@[simp] theorem emitAll_cycle (s : State) (t : Site) (l : List Consumer) (k : Tok) : (s.emitAll t l k).cycle = s.cycle := by
  unfold State.emitAll; induction l generalizing s with
  | nil => rfl
  | cons c l ih => simp [List.foldl_cons, ih]
@[simp] theorem emitAll_agenda (s : State) (t : Site) (l : List Consumer) (k : Tok) : (s.emitAll t l k).agenda = s.agenda := by
  unfold State.emitAll; induction l generalizing s with
  | nil => rfl
  | cons c l ih => simp [List.foldl_cons, ih]
@[simp] theorem emitAll_site (s : State) (t : Site) (l : List Consumer) (k : Tok) : (s.emitAll t l k).site = s.site := by
  unfold State.emitAll; induction l generalizing s with
  | nil => rfl
  | cons c l ih => simp [List.foldl_cons, ih]
@[simp] theorem emitAll_fresh (s : State) (t : Site) (l : List Consumer) (k : Tok) : (s.emitAll t l k).fresh = s.fresh := by
  unfold State.emitAll; induction l generalizing s with
  | nil => rfl
  | cons c l ih => simp [List.foldl_cons, ih]
@[simp] theorem emitAll_chanMsgs (s : State) (t : Site) (l : List Consumer) (k : Tok) : (s.emitAll t l k).chanMsgs = s.chanMsgs := by
  unfold State.emitAll; induction l generalizing s with
  | nil => rfl
  | cons c l ih => simp [List.foldl_cons, ih]
@[simp] theorem emitAll_spalls (s : State) (t : Site) (l : List Consumer) (k : Tok) : (s.emitAll t l k).spalls = s.spalls := by
  unfold State.emitAll; induction l generalizing s with
  | nil => rfl
  | cons c l ih => simp [List.foldl_cons, ih]
@[simp] theorem emitAll_mem (s : State) (t : Site) (l : List Consumer) (k : Tok) : (s.emitAll t l k).mem = s.mem := by
  unfold State.emitAll; induction l generalizing s with
  | nil => rfl
  | cons c l ih => simp [List.foldl_cons, ih]
@[simp] theorem emitAll_regions (s : State) (t : Site) (l : List Consumer) (k : Tok) : (s.emitAll t l k).regions = s.regions := by
  unfold State.emitAll; induction l generalizing s with
  | nil => rfl
  | cons c l ih => simp [List.foldl_cons, ih]
@[simp] theorem emitAll_ctxs (s : State) (t : Site) (l : List Consumer) (k : Tok) : (s.emitAll t l k).ctxs = s.ctxs := by
  unfold State.emitAll; induction l generalizing s with
  | nil => rfl
  | cons c l ih => simp [List.foldl_cons, ih]
@[simp] theorem emitAll_dev (s : State) (t : Site) (l : List Consumer) (k : Tok) : (s.emitAll t l k).dev = s.dev := by
  unfold State.emitAll; induction l generalizing s with
  | nil => rfl
  | cons c l ih => simp [List.foldl_cons, ih]
@[simp] theorem emitAll_thermal (s : State) (t : Site) (l : List Consumer) (k : Tok) : (s.emitAll t l k).thermal = s.thermal := by
  unfold State.emitAll; induction l generalizing s with
  | nil => rfl
  | cons c l ih => simp [List.foldl_cons, ih]
@[simp] theorem emitAll_msix (s : State) (t : Site) (l : List Consumer) (k : Tok) : (s.emitAll t l k).msix = s.msix := by
  unfold State.emitAll; induction l generalizing s with
  | nil => rfl
  | cons c l ih => simp [List.foldl_cons, ih]
@[simp] theorem emitAll_pend (s : State) (t : Site) (l : List Consumer) (k : Tok) : (s.emitAll t l k).pend = s.pend := by
  unfold State.emitAll; induction l generalizing s with
  | nil => rfl
  | cons c l ih => simp [List.foldl_cons, ih]
@[simp] theorem emitAll_stamps (s : State) (t : Site) (l : List Consumer) (k : Tok) : (s.emitAll t l k).stamps = s.stamps := by
  unfold State.emitAll; induction l generalizing s with
  | nil => rfl
  | cons c l ih => simp [List.foldl_cons, ih]
@[simp] theorem emitAll_hostPorts (s : State) (t : Site) (l : List Consumer) (k : Tok) : (s.emitAll t l k).hostPorts = s.hostPorts := by
  unfold State.emitAll; induction l generalizing s with
  | nil => rfl
  | cons c l ih => simp [List.foldl_cons, ih]
@[simp] theorem emitAll_lrec (s : State) (t : Site) (l : List Consumer) (k : Tok) : (s.emitAll t l k).lrec = s.lrec := by
  unfold State.emitAll; induction l generalizing s with
  | nil => rfl
  | cons c l ih => simp [List.foldl_cons, ih]
@[simp] theorem emitAll_launchQ (s : State) (t : Site) (l : List Consumer) (k : Tok) : (s.emitAll t l k).launchQ = s.launchQ := by
  unfold State.emitAll; induction l generalizing s with
  | nil => rfl
  | cons c l ih => simp [List.foldl_cons, ih]
@[simp] theorem emitAll_launches (s : State) (t : Site) (l : List Consumer) (k : Tok) : (s.emitAll t l k).launches = s.launches := by
  unfold State.emitAll; induction l generalizing s with
  | nil => rfl
  | cons c l ih => simp [List.foldl_cons, ih]
@[simp] theorem emitAll_images (s : State) (t : Site) (l : List Consumer) (k : Tok) : (s.emitAll t l k).images = s.images := by
  unfold State.emitAll; induction l generalizing s with
  | nil => rfl
  | cons c l ih => simp [List.foldl_cons, ih]
@[simp] theorem emitAll_loaded (s : State) (t : Site) (l : List Consumer) (k : Tok) : (s.emitAll t l k).loaded = s.loaded := by
  unfold State.emitAll; induction l generalizing s with
  | nil => rfl
  | cons c l ih => simp [List.foldl_cons, ih]
@[simp] theorem emitAll_cmds (s : State) (t : Site) (l : List Consumer) (k : Tok) : (s.emitAll t l k).cmds = s.cmds := by
  unfold State.emitAll; induction l generalizing s with
  | nil => rfl
  | cons c l ih => simp [List.foldl_cons, ih]
@[simp] theorem emitAll_queues (s : State) (t : Site) (l : List Consumer) (k : Tok) : (s.emitAll t l k).queues = s.queues := by
  unfold State.emitAll; induction l generalizing s with
  | nil => rfl
  | cons c l ih => simp [List.foldl_cons, ih]
@[simp] theorem emitAll_seams (s : State) (t : Site) (l : List Consumer) (k : Tok) : (s.emitAll t l k).seams = s.seams := by
  unfold State.emitAll; induction l generalizing s with
  | nil => rfl
  | cons c l ih => simp [List.foldl_cons, ih]
@[simp] theorem emitAll_colls (s : State) (t : Site) (l : List Consumer) (k : Tok) : (s.emitAll t l k).colls = s.colls := by
  unfold State.emitAll; induction l generalizing s with
  | nil => rfl
  | cons c l ih => simp [List.foldl_cons, ih]
@[simp] theorem emitAll_cams (s : State) (t : Site) (l : List Consumer) (k : Tok) : (s.emitAll t l k).cams = s.cams := by
  unfold State.emitAll; induction l generalizing s with
  | nil => rfl
  | cons c l ih => simp [List.foldl_cons, ih]
@[simp] theorem emitAll_parked (s : State) (t : Site) (l : List Consumer) (k : Tok) : (s.emitAll t l k).parked = s.parked := by
  unfold State.emitAll; induction l generalizing s with
  | nil => rfl
  | cons c l ih => simp [List.foldl_cons, ih]
@[simp] theorem emitAll_benches (s : State) (t : Site) (l : List Consumer) (k : Tok) : (s.emitAll t l k).benches = s.benches := by
  unfold State.emitAll; induction l generalizing s with
  | nil => rfl
  | cons c l ih => simp [List.foldl_cons, ih]
@[simp] theorem emitAll_boot (s : State) (t : Site) (l : List Consumer) (k : Tok) : (s.emitAll t l k).boot = s.boot := by
  unfold State.emitAll; induction l generalizing s with
  | nil => rfl
  | cons c l ih => simp [List.foldl_cons, ih]
@[simp] theorem emitAll_outbox (s : State) (t : Site) (l : List Consumer) (k : Tok) : (s.emitAll t l k).outbox = s.outbox := by
  unfold State.emitAll; induction l generalizing s with
  | nil => rfl
  | cons c l ih => simp [List.foldl_cons, ih]
@[simp] theorem emitAll_drops (s : State) (t : Site) (l : List Consumer) (k : Tok) : (s.emitAll t l k).drops = s.drops := by
  unfold State.emitAll; induction l generalizing s with
  | nil => rfl
  | cons c l ih => simp [List.foldl_cons, ih]
@[simp] theorem emitAll_logQ (s : State) (t : Site) (l : List Consumer) (k : Tok) : (s.emitAll t l k).logQ = s.logQ := by
  unfold State.emitAll; induction l generalizing s with
  | nil => rfl
  | cons c l ih => simp [List.foldl_cons, ih]
@[simp] theorem emitAll_hostOps (s : State) (t : Site) (l : List Consumer) (k : Tok) : (s.emitAll t l k).hostOps = s.hostOps := by
  unfold State.emitAll; induction l generalizing s with
  | nil => rfl
  | cons c l ih => simp [List.foldl_cons, ih]
@[simp] theorem emitAll_debugQ (s : State) (t : Site) (l : List Consumer) (k : Tok) : (s.emitAll t l k).debugQ = s.debugQ := by
  unfold State.emitAll; induction l generalizing s with
  | nil => rfl
  | cons c l ih => simp [List.foldl_cons, ih]
@[simp] theorem reply_cycle (s : State) (t : Site) (c : Consumer) (l : List Tok) : (s.reply t c l).cycle = s.cycle := by
  unfold State.reply; induction l generalizing s with
  | nil => rfl
  | cons k l ih => simp [List.foldl_cons, ih]
@[simp] theorem reply_agenda (s : State) (t : Site) (c : Consumer) (l : List Tok) : (s.reply t c l).agenda = s.agenda := by
  unfold State.reply; induction l generalizing s with
  | nil => rfl
  | cons k l ih => simp [List.foldl_cons, ih]
@[simp] theorem reply_site (s : State) (t : Site) (c : Consumer) (l : List Tok) : (s.reply t c l).site = s.site := by
  unfold State.reply; induction l generalizing s with
  | nil => rfl
  | cons k l ih => simp [List.foldl_cons, ih]
@[simp] theorem reply_fresh (s : State) (t : Site) (c : Consumer) (l : List Tok) : (s.reply t c l).fresh = s.fresh := by
  unfold State.reply; induction l generalizing s with
  | nil => rfl
  | cons k l ih => simp [List.foldl_cons, ih]
@[simp] theorem reply_cells (s : State) (t : Site) (c : Consumer) (l : List Tok) : (s.reply t c l).cells = s.cells := by
  unfold State.reply; induction l generalizing s with
  | nil => rfl
  | cons k l ih => simp [List.foldl_cons, ih]
@[simp] theorem reply_chanMsgs (s : State) (t : Site) (c : Consumer) (l : List Tok) : (s.reply t c l).chanMsgs = s.chanMsgs := by
  unfold State.reply; induction l generalizing s with
  | nil => rfl
  | cons k l ih => simp [List.foldl_cons, ih]
@[simp] theorem reply_spalls (s : State) (t : Site) (c : Consumer) (l : List Tok) : (s.reply t c l).spalls = s.spalls := by
  unfold State.reply; induction l generalizing s with
  | nil => rfl
  | cons k l ih => simp [List.foldl_cons, ih]
@[simp] theorem reply_mem (s : State) (t : Site) (c : Consumer) (l : List Tok) : (s.reply t c l).mem = s.mem := by
  unfold State.reply; induction l generalizing s with
  | nil => rfl
  | cons k l ih => simp [List.foldl_cons, ih]
@[simp] theorem reply_regions (s : State) (t : Site) (c : Consumer) (l : List Tok) : (s.reply t c l).regions = s.regions := by
  unfold State.reply; induction l generalizing s with
  | nil => rfl
  | cons k l ih => simp [List.foldl_cons, ih]
@[simp] theorem reply_ctxs (s : State) (t : Site) (c : Consumer) (l : List Tok) : (s.reply t c l).ctxs = s.ctxs := by
  unfold State.reply; induction l generalizing s with
  | nil => rfl
  | cons k l ih => simp [List.foldl_cons, ih]
@[simp] theorem reply_dev (s : State) (t : Site) (c : Consumer) (l : List Tok) : (s.reply t c l).dev = s.dev := by
  unfold State.reply; induction l generalizing s with
  | nil => rfl
  | cons k l ih => simp [List.foldl_cons, ih]
@[simp] theorem reply_thermal (s : State) (t : Site) (c : Consumer) (l : List Tok) : (s.reply t c l).thermal = s.thermal := by
  unfold State.reply; induction l generalizing s with
  | nil => rfl
  | cons k l ih => simp [List.foldl_cons, ih]
@[simp] theorem reply_msix (s : State) (t : Site) (c : Consumer) (l : List Tok) : (s.reply t c l).msix = s.msix := by
  unfold State.reply; induction l generalizing s with
  | nil => rfl
  | cons k l ih => simp [List.foldl_cons, ih]
@[simp] theorem reply_pend (s : State) (t : Site) (c : Consumer) (l : List Tok) : (s.reply t c l).pend = s.pend := by
  unfold State.reply; induction l generalizing s with
  | nil => rfl
  | cons k l ih => simp [List.foldl_cons, ih]
@[simp] theorem reply_stamps (s : State) (t : Site) (c : Consumer) (l : List Tok) : (s.reply t c l).stamps = s.stamps := by
  unfold State.reply; induction l generalizing s with
  | nil => rfl
  | cons k l ih => simp [List.foldl_cons, ih]
@[simp] theorem reply_hostPorts (s : State) (t : Site) (c : Consumer) (l : List Tok) : (s.reply t c l).hostPorts = s.hostPorts := by
  unfold State.reply; induction l generalizing s with
  | nil => rfl
  | cons k l ih => simp [List.foldl_cons, ih]
@[simp] theorem reply_lrec (s : State) (t : Site) (c : Consumer) (l : List Tok) : (s.reply t c l).lrec = s.lrec := by
  unfold State.reply; induction l generalizing s with
  | nil => rfl
  | cons k l ih => simp [List.foldl_cons, ih]
@[simp] theorem reply_launchQ (s : State) (t : Site) (c : Consumer) (l : List Tok) : (s.reply t c l).launchQ = s.launchQ := by
  unfold State.reply; induction l generalizing s with
  | nil => rfl
  | cons k l ih => simp [List.foldl_cons, ih]
@[simp] theorem reply_launches (s : State) (t : Site) (c : Consumer) (l : List Tok) : (s.reply t c l).launches = s.launches := by
  unfold State.reply; induction l generalizing s with
  | nil => rfl
  | cons k l ih => simp [List.foldl_cons, ih]
@[simp] theorem reply_images (s : State) (t : Site) (c : Consumer) (l : List Tok) : (s.reply t c l).images = s.images := by
  unfold State.reply; induction l generalizing s with
  | nil => rfl
  | cons k l ih => simp [List.foldl_cons, ih]
@[simp] theorem reply_loaded (s : State) (t : Site) (c : Consumer) (l : List Tok) : (s.reply t c l).loaded = s.loaded := by
  unfold State.reply; induction l generalizing s with
  | nil => rfl
  | cons k l ih => simp [List.foldl_cons, ih]
@[simp] theorem reply_cmds (s : State) (t : Site) (c : Consumer) (l : List Tok) : (s.reply t c l).cmds = s.cmds := by
  unfold State.reply; induction l generalizing s with
  | nil => rfl
  | cons k l ih => simp [List.foldl_cons, ih]
@[simp] theorem reply_queues (s : State) (t : Site) (c : Consumer) (l : List Tok) : (s.reply t c l).queues = s.queues := by
  unfold State.reply; induction l generalizing s with
  | nil => rfl
  | cons k l ih => simp [List.foldl_cons, ih]
@[simp] theorem reply_seams (s : State) (t : Site) (c : Consumer) (l : List Tok) : (s.reply t c l).seams = s.seams := by
  unfold State.reply; induction l generalizing s with
  | nil => rfl
  | cons k l ih => simp [List.foldl_cons, ih]
@[simp] theorem reply_colls (s : State) (t : Site) (c : Consumer) (l : List Tok) : (s.reply t c l).colls = s.colls := by
  unfold State.reply; induction l generalizing s with
  | nil => rfl
  | cons k l ih => simp [List.foldl_cons, ih]
@[simp] theorem reply_cams (s : State) (t : Site) (c : Consumer) (l : List Tok) : (s.reply t c l).cams = s.cams := by
  unfold State.reply; induction l generalizing s with
  | nil => rfl
  | cons k l ih => simp [List.foldl_cons, ih]
@[simp] theorem reply_parked (s : State) (t : Site) (c : Consumer) (l : List Tok) : (s.reply t c l).parked = s.parked := by
  unfold State.reply; induction l generalizing s with
  | nil => rfl
  | cons k l ih => simp [List.foldl_cons, ih]
@[simp] theorem reply_benches (s : State) (t : Site) (c : Consumer) (l : List Tok) : (s.reply t c l).benches = s.benches := by
  unfold State.reply; induction l generalizing s with
  | nil => rfl
  | cons k l ih => simp [List.foldl_cons, ih]
@[simp] theorem reply_boot (s : State) (t : Site) (c : Consumer) (l : List Tok) : (s.reply t c l).boot = s.boot := by
  unfold State.reply; induction l generalizing s with
  | nil => rfl
  | cons k l ih => simp [List.foldl_cons, ih]
@[simp] theorem reply_outbox (s : State) (t : Site) (c : Consumer) (l : List Tok) : (s.reply t c l).outbox = s.outbox := by
  unfold State.reply; induction l generalizing s with
  | nil => rfl
  | cons k l ih => simp [List.foldl_cons, ih]
@[simp] theorem reply_drops (s : State) (t : Site) (c : Consumer) (l : List Tok) : (s.reply t c l).drops = s.drops := by
  unfold State.reply; induction l generalizing s with
  | nil => rfl
  | cons k l ih => simp [List.foldl_cons, ih]
@[simp] theorem reply_logQ (s : State) (t : Site) (c : Consumer) (l : List Tok) : (s.reply t c l).logQ = s.logQ := by
  unfold State.reply; induction l generalizing s with
  | nil => rfl
  | cons k l ih => simp [List.foldl_cons, ih]
@[simp] theorem reply_hostOps (s : State) (t : Site) (c : Consumer) (l : List Tok) : (s.reply t c l).hostOps = s.hostOps := by
  unfold State.reply; induction l generalizing s with
  | nil => rfl
  | cons k l ih => simp [List.foldl_cons, ih]
@[simp] theorem reply_debugQ (s : State) (t : Site) (c : Consumer) (l : List Tok) : (s.reply t c l).debugQ = s.debugQ := by
  unfold State.reply; induction l generalizing s with
  | nil => rfl
  | cons k l ih => simp [List.foldl_cons, ih]

/-! Reservations. -/

@[simp] theorem Block.reserve_ctx (b : Block) (c : Consumer) (n : Nat) : (b.reserve c n).ctx = b.ctx := by cases c <;> rfl
@[simp] theorem Block.reserve_words (b : Block) (c : Consumer) (n : Nat) : (b.reserve c n).words = b.words := by cases c <;> rfl
@[simp] theorem Block.reserve_kind (b : Block) (c : Consumer) (n : Nat) : (b.reserve c n).kind = b.kind := by cases c <;> rfl
@[simp] theorem Block.reserve_ins (b : Block) (c : Consumer) (n : Nat) : (b.reserve c n).ins = b.ins := by cases c <;> rfl
@[simp] theorem Block.reserve_outs (b : Block) (c : Consumer) (n : Nat) : (b.reserve c n).outs = b.outs := by cases c <;> rfl

/-- What a reservation leaves of a slot: all but the count of reserved entries. -/
theorem Block.reserve_slot {β : Type} (b : Block) (c : Consumer) (n : Nat) (j : Nat) (P : Slot → β)
    (h : ∀ sl f k, P (sl.updField f (fun q => { q with resv := q.resv + k })) = P sl) : P ((b.reserve c n).slot j) = P (b.slot j) := by
  cases c with
  | none => rfl
  | some g =>
    unfold Block.reserve
    by_cases e : g.index.toNat < b.slots.length
    · simp only [Block.slot_updSlot b _ j _ e]
      split
      · exact h _ _ _
      · rfl
    · simp only [Block.updSlot, Block.slot, List.set_eq_of_length_le (Nat.le_of_not_lt e)]

/-- A property of slots that reservations leave. -/
def ResvFree {β : Type} (P : Slot → β) : Prop := ∀ sl f k, P (sl.updField f (fun q => { q with resv := q.resv + k })) = P sl

theorem resvFree_toks (f : FieldSel) : ResvFree (fun sl => (sl.field f).toks) := by
  intro sl g k; simp only [Slot.field_updField]; split <;> rfl

theorem resvFree_done : ResvFree (fun sl => sl.done) := fun sl f k => by cases f <;> rfl
theorem resvFree_issuedAt : ResvFree (fun sl => sl.issuedAt) := fun sl f k => by cases f <;> rfl
theorem resvFree_seq : ResvFree (fun sl => sl.seq) := fun sl f k => by cases f <;> rfl
theorem resvFree_sum : ResvFree (fun sl => sl.sum) := fun sl f k => by cases f <;> rfl
theorem resvFree_sumMark : ResvFree (fun sl => sl.sumMark) := fun sl f k => by cases f <;> rfl

/-- A change of a block that keeps what is looked at in its slots keeps it in the state. -/
theorem State.slot_updBlock {β : Type} (s : State) (t u : Site) (f : Block → Block) (P : Slot → β) (hf : ∀ b, (f b).ctx = b.ctx)
    (h : ∀ b j, P ((f b).slot j) = P (b.slot j)) : P ((s.updBlock t f).slot u) = P (s.slot u) := by
  have key : ((s.updBlock t f).block? u) = if u.cell = t.cell ∧ u.ctx = t.ctx then (s.block? u).map f else s.block? u := by
    unfold State.block? State.updBlock
    rw [State.cell?_updCell s t.cell u.cell (fun c => c.updBlock t.ctx f) (fun c => rfl)]
    by_cases e : u.cell = t.cell
    · simp only [e, if_true, true_and]
      cases s.cell? t.cell with
      | none => simp
      | some c => simp [Cell.block?_updBlock c t.ctx u.ctx f hf]
    · simp [e]
  unfold State.slot
  by_cases e : u.cell = t.cell ∧ u.ctx = t.ctx
  · rw [key, if_pos e]
    cases s.block? u with
    | none => rfl
    | some b => exact h b _
  · rw [key, if_neg e]

theorem State.slot_updBlock_reserve {β : Type} (s : State) (t u : Site) (c : Consumer) (n : Nat) (P : Slot → β) (h : ResvFree P) :
    P ((s.updBlock t (fun b => b.reserve c n)).slot u) = P (s.slot u) :=
  State.slot_updBlock s t u _ P (fun b => Block.reserve_ctx b c n) (fun b j => Block.reserve_slot b c n j P h)

@[simp] theorem State.cell?_send (s : State) (t : Site) (c : Consumer) (k : Tok) (n m : Nat) : (s.send t c k n).cell? m = s.cell? m := by
  simp [State.cell?]

@[simp] theorem State.block?_send (s : State) (t u : Site) (c : Consumer) (k : Tok) (n : Nat) : (s.send t c k n).block? u = s.block? u := by
  simp [State.block?]

@[simp] theorem State.slot_send (s : State) (t u : Site) (c : Consumer) (k : Tok) (n : Nat) : (s.send t c k n).slot u = s.slot u := by
  simp [State.slot]

theorem State.emit_slot {β : Type} (s : State) (t u : Site) (c : Consumer) (k : Tok) (P : Slot → β) (h : ResvFree P) :
    P ((s.emit t c k).slot u) = P (s.slot u) := by
  unfold State.emit
  rw [State.slot_send, State.slot_updBlock_reserve s t u c 1 P h]

theorem State.emitAll_slot {β : Type} (s : State) (t u : Site) (l : List Consumer) (k : Tok) (P : Slot → β) (h : ResvFree P) :
    P ((s.emitAll t l k).slot u) = P (s.slot u) := by
  unfold State.emitAll
  induction l generalizing s with
  | nil => rfl
  | cons c l ih => rw [List.foldl_cons, ih, State.emit_slot s t u c k P h]

/-! What cells hold. -/

/-- A property of cells that reservations leave. -/
def BlockFree {β : Type} (P : Cell → β) : Prop := ∀ c k f, (∀ b, ((f b : Block).ins, (f b).outs) = (b.ins, b.outs)) → P (c.updBlock k f) = P c

theorem blockFree_held : BlockFree Cell.held := fun _ _ _ _ => rfl
theorem blockFree_channels : BlockFree Cell.channels := fun c k f h => Cell.updBlock_channels c k f h
theorem blockFree_divider : BlockFree (fun c => (c.divider, c.parity)) := fun _ _ _ _ => rfl
theorem blockFree_pes : BlockFree (fun c => c.pes) := fun _ _ _ _ => rfl
theorem blockFree_regs : BlockFree (fun c => c.regs) := fun _ _ _ _ => rfl
theorem blockFree_flt : BlockFree (fun c => c.flt) := fun _ _ _ _ => rfl
theorem blockFree_ports : BlockFree (fun c => c.ports) := fun _ _ _ _ => rfl

theorem State.emit_cells {β : Type} (s : State) (t : Site) (c : Consumer) (k : Tok) (P : Cell → β) (h : BlockFree P) :
    (s.emit t c k).cells.map P = s.cells.map P := by
  unfold State.emit
  rw [send_cells]
  exact State.cells_map_updCell s t.cell _ P (fun x => h x _ _ (fun b => by simp))

theorem State.emitAll_cells {β : Type} (s : State) (t : Site) (l : List Consumer) (k : Tok) (P : Cell → β) (h : BlockFree P) :
    (s.emitAll t l k).cells.map P = s.cells.map P := by
  unfold State.emitAll
  induction l generalizing s with
  | nil => rfl
  | cons c l ih => rw [List.foldl_cons, ih, State.emit_cells s t c k P h]

theorem State.updBlock_cell? {β : Type} (s : State) (t : Site) (f : Block → Block) (n : Nat) (P : Cell → β)
    (h : ∀ c, P (c.updBlock t.ctx f) = P c) : ((s.updBlock t f).cell? n).map P = (s.cell? n).map P := by
  unfold State.updBlock
  rw [State.cell?_updCell s t.cell n (fun c => c.updBlock t.ctx f) (fun c => rfl)]
  split
  · cases s.cell? n with
    | none => rfl
    | some c => simp [h]
  · rfl

theorem State.emit_cell? {β : Type} (s : State) (t : Site) (c : Consumer) (k : Tok) (n : Nat) (P : Cell → β) (h : BlockFree P) :
    ((s.emit t c k).cell? n).map P = (s.cell? n).map P := by
  unfold State.emit
  rw [State.cell?_send]
  exact State.updBlock_cell? s t _ n P (fun x => h x _ _ (fun b => by simp))

theorem State.emitAll_cell? {β : Type} (s : State) (t : Site) (l : List Consumer) (k : Tok) (n : Nat) (P : Cell → β) (h : BlockFree P) :
    ((s.emitAll t l k).cell? n).map P = (s.cell? n).map P := by
  unfold State.emitAll
  induction l generalizing s with
  | nil => rfl
  | cons c l ih => rw [List.foldl_cons, ih, State.emit_cell? s t c k n P h]

/-! Tokens on their way. -/

/-- What is put on its way depends on the cycle and on the cell's divider and parity alone. -/
theorem State.flights_congr (s s' : State) (t : Site) (l : List (Consumer × Tok)) (hc : s'.cycle = s.cycle)
    (h : (s'.cell? t.cell).map (fun c => (c.divider, c.parity)) = (s.cell? t.cell).map (fun c => (c.divider, c.parity))) :
    s'.flights t l = s.flights t l := by
  unfold State.flights
  cases h1 : s.cell? t.cell with
  | none => rw [h1] at h; simp at h; simp [h]
  | some c =>
    cases h2 : s'.cell? t.cell with
    | none => rw [h1, h2] at h; simp at h
    | some c' =>
      rw [h1, h2] at h
      simp only [Option.map_some, Option.some.injEq, Prod.mk.injEq] at h
      simp only [h.1, h.2, hc]

theorem State.flights_append (s : State) (t : Site) (l l' : List (Consumer × Tok)) : s.flights t (l ++ l') = s.flights t l ++ s.flights t l' := by
  unfold State.flights
  cases s.cell? t.cell with
  | none => rfl
  | some c => simp

@[simp] theorem State.flights_nil (s : State) (t : Site) : s.flights t [] = [] := by unfold State.flights; split <;> rfl

@[simp] theorem State.flights_none (s : State) (t : Site) (k : Tok) (l : List (Consumer × Tok)) : s.flights t ((none, k) :: l) = s.flights t l := by
  unfold State.flights; split <;> rfl

theorem State.send_flight (s : State) (t : Site) (c : Consumer) (k : Tok) : (s.send t c k 0).flight = s.flight ++ s.flights t [(c, k)] := by
  unfold State.send State.flights
  cases c with
  | none => cases s.cell? t.cell <;> simp
  | some g =>
    cases s.cell? t.cell with
    | none => simp
    | some c =>
      by_cases e : g.index.toNat / 4 = t.index / 4 <;> simp [flightTo, hopTo, Site.pe, e]

theorem State.emit_flight (s : State) (t : Site) (c : Consumer) (k : Tok) : (s.emit t c k).flight = s.flight ++ s.flights t [(c, k)] := by
  unfold State.emit
  rw [State.send_flight]
  congr 1
  exact State.flights_congr s _ t _ rfl (State.updBlock_cell? s t _ t.cell _ (fun x => rfl))

theorem State.emit_flights (s : State) (t u : Site) (c : Consumer) (k : Tok) (l : List (Consumer × Tok)) :
    (s.emit t c k).flights u l = s.flights u l :=
  State.flights_congr s _ u l (by simp) (State.emit_cell? s t c k u.cell _ blockFree_divider)

theorem State.emitAll_flight (s : State) (t : Site) (l : List Consumer) (k : Tok) :
    (s.emitAll t l k).flight = s.flight ++ s.flights t (l.map (fun c => (c, k))) := by
  unfold State.emitAll
  induction l generalizing s with
  | nil => simp
  | cons c l ih =>
    rw [List.foldl_cons, ih, State.emit_flight, State.emit_flights, List.map_cons,
      show (c, k) :: l.map (fun c => (c, k)) = [(c, k)] ++ l.map (fun c => (c, k)) from rfl, State.flights_append, List.append_assoc]

theorem State.reply_flight (s : State) (t : Site) (c : Consumer) (l : List Tok) :
    (s.reply t c l).flight = s.flight ++ s.flights t (l.map (fun k => (c, k))) := by
  unfold State.reply
  induction l generalizing s with
  | nil => simp
  | cons k l ih =>
    rw [List.foldl_cons, ih, State.send_flight, List.map_cons, show (c, k) :: l.map (fun k => (c, k)) = [(c, k)] ++ l.map (fun k => (c, k)) from rfl,
      State.flights_append, List.append_assoc]
    congr 2
    exact State.flights_congr s _ t _ (by simp) (by simp)

end Sys2Proof.Machine
end

