-- ==== Sys2Proof/Laws/Issue.lean ====
section
/-! SUPPORT. What an issue does, and that the instructions whose value the control ALU gives run. -/

namespace Sys2Proof.Machine

/-! The bookkeeping of an issue. -/

@[simp] theorem took_cycle (s : State) (t : Site) (i : Instr) : (s.took t i).cycle = s.cycle := rfl
@[simp] theorem took_agenda (s : State) (t : Site) (i : Instr) : (s.took t i).agenda = s.agenda := rfl
@[simp] theorem took_site (s : State) (t : Site) (i : Instr) : (s.took t i).site = s.site := rfl
@[simp] theorem took_fresh (s : State) (t : Site) (i : Instr) : (s.took t i).fresh = s.fresh := rfl
@[simp] theorem took_flight (s : State) (t : Site) (i : Instr) : (s.took t i).flight = s.flight := rfl
@[simp] theorem took_chanMsgs (s : State) (t : Site) (i : Instr) : (s.took t i).chanMsgs = s.chanMsgs := rfl
@[simp] theorem took_spalls (s : State) (t : Site) (i : Instr) : (s.took t i).spalls = s.spalls := rfl
@[simp] theorem took_regions (s : State) (t : Site) (i : Instr) : (s.took t i).regions = s.regions := rfl
@[simp] theorem took_ctxs (s : State) (t : Site) (i : Instr) : (s.took t i).ctxs = s.ctxs := rfl
@[simp] theorem took_dev (s : State) (t : Site) (i : Instr) : (s.took t i).dev = s.dev := rfl
@[simp] theorem took_thermal (s : State) (t : Site) (i : Instr) : (s.took t i).thermal = s.thermal := rfl
@[simp] theorem took_msix (s : State) (t : Site) (i : Instr) : (s.took t i).msix = s.msix := rfl
@[simp] theorem took_pend (s : State) (t : Site) (i : Instr) : (s.took t i).pend = s.pend := rfl
@[simp] theorem took_stamps (s : State) (t : Site) (i : Instr) : (s.took t i).stamps = s.stamps := rfl
@[simp] theorem took_hostPorts (s : State) (t : Site) (i : Instr) : (s.took t i).hostPorts = s.hostPorts := rfl
@[simp] theorem took_lrec (s : State) (t : Site) (i : Instr) : (s.took t i).lrec = s.lrec := rfl
@[simp] theorem took_launchQ (s : State) (t : Site) (i : Instr) : (s.took t i).launchQ = s.launchQ := rfl
@[simp] theorem took_launches (s : State) (t : Site) (i : Instr) : (s.took t i).launches = s.launches := rfl
@[simp] theorem took_images (s : State) (t : Site) (i : Instr) : (s.took t i).images = s.images := rfl
@[simp] theorem took_loaded (s : State) (t : Site) (i : Instr) : (s.took t i).loaded = s.loaded := rfl
@[simp] theorem took_cmds (s : State) (t : Site) (i : Instr) : (s.took t i).cmds = s.cmds := rfl
@[simp] theorem took_queues (s : State) (t : Site) (i : Instr) : (s.took t i).queues = s.queues := rfl
@[simp] theorem took_seams (s : State) (t : Site) (i : Instr) : (s.took t i).seams = s.seams := rfl
@[simp] theorem took_colls (s : State) (t : Site) (i : Instr) : (s.took t i).colls = s.colls := rfl
@[simp] theorem took_cams (s : State) (t : Site) (i : Instr) : (s.took t i).cams = s.cams := rfl
@[simp] theorem took_parked (s : State) (t : Site) (i : Instr) : (s.took t i).parked = s.parked := rfl
@[simp] theorem took_benches (s : State) (t : Site) (i : Instr) : (s.took t i).benches = s.benches := rfl
@[simp] theorem took_boot (s : State) (t : Site) (i : Instr) : (s.took t i).boot = s.boot := rfl
@[simp] theorem took_outbox (s : State) (t : Site) (i : Instr) : (s.took t i).outbox = s.outbox := rfl
@[simp] theorem took_drops (s : State) (t : Site) (i : Instr) : (s.took t i).drops = s.drops := rfl
@[simp] theorem took_logQ (s : State) (t : Site) (i : Instr) : (s.took t i).logQ = s.logQ := rfl
@[simp] theorem took_hostOps (s : State) (t : Site) (i : Instr) : (s.took t i).hostOps = s.hostOps := rfl
@[simp] theorem took_debugQ (s : State) (t : Site) (i : Instr) : (s.took t i).debugQ = s.debugQ := rfl
@[simp] theorem charge_bytes (m : MemSys) (t k n : Nat) : (m.charge t k n).bytes = m.bytes := rfl
@[simp] theorem took_mem_bytes (s : State) (t : Site) (i : Instr) : (s.took t i).mem.bytes = s.mem.bytes := rfl
@[simp] theorem charge_marks (m : MemSys) (t k n : Nat) : (m.charge t k n).marks = m.marks := rfl
@[simp] theorem took_mem_marks (s : State) (t : Site) (i : Instr) : (s.took t i).mem.marks = s.mem.marks := rfl
@[simp] theorem charge_bad (m : MemSys) (t k n : Nat) : (m.charge t k n).bad = m.bad := rfl
@[simp] theorem took_mem_bad (s : State) (t : Site) (i : Instr) : (s.took t i).mem.bad = s.mem.bad := rfl
@[simp] theorem charge_llc (m : MemSys) (t k n : Nat) : (m.charge t k n).llc = m.llc := rfl
@[simp] theorem took_mem_llc (s : State) (t : Site) (i : Instr) : (s.took t i).mem.llc = s.mem.llc := rfl
@[simp] theorem charge_banks (m : MemSys) (t k n : Nat) : (m.charge t k n).banks = m.banks := rfl
@[simp] theorem took_mem_banks (s : State) (t : Site) (i : Instr) : (s.took t i).mem.banks = s.mem.banks := rfl
@[simp] theorem charge_segs (m : MemSys) (t k n : Nat) : (m.charge t k n).segs = m.segs := rfl
@[simp] theorem took_mem_segs (s : State) (t : Site) (i : Instr) : (s.took t i).mem.segs = s.mem.segs := rfl
@[simp] theorem charge_vers (m : MemSys) (t k n : Nat) : (m.charge t k n).vers = m.vers := rfl
@[simp] theorem took_mem_vers (s : State) (t : Site) (i : Instr) : (s.took t i).mem.vers = s.mem.vers := rfl
@[simp] theorem charge_verPages (m : MemSys) (t k n : Nat) : (m.charge t k n).verPages = m.verPages := rfl
@[simp] theorem took_mem_verPages (s : State) (t : Site) (i : Instr) : (s.took t i).mem.verPages = s.mem.verPages := rfl
@[simp] theorem charge_tlb (m : MemSys) (t k n : Nat) : (m.charge t k n).tlb = m.tlb := rfl
@[simp] theorem took_mem_tlb (s : State) (t : Site) (i : Instr) : (s.took t i).mem.tlb = s.mem.tlb := rfl
@[simp] theorem charge_epochs (m : MemSys) (t k n : Nat) : (m.charge t k n).epochs = m.epochs := rfl
@[simp] theorem took_mem_epochs (s : State) (t : Site) (i : Instr) : (s.took t i).mem.epochs = s.mem.epochs := rfl
@[simp] theorem charge_metered (m : MemSys) (t k n : Nat) : (m.charge t k n).metered = m.metered := rfl
@[simp] theorem took_mem_metered (s : State) (t : Site) (i : Instr) : (s.took t i).mem.metered = s.mem.metered := rfl
@[simp] theorem charge_posted (m : MemSys) (t k n : Nat) : (m.charge t k n).posted = m.posted := rfl
@[simp] theorem charge_units (m : MemSys) (t k n : Nat) : (m.charge t k n).units = m.units := rfl
@[simp] theorem charge_picks (m : MemSys) (t k n : Nat) : (m.charge t k n).picks = m.picks := rfl
@[simp] theorem took_mem_posted (s : State) (t : Site) (i : Instr) : (s.took t i).mem.posted = s.mem.posted := rfl
@[simp] theorem took_mem_units (s : State) (t : Site) (i : Instr) : (s.took t i).mem.units = s.mem.units := rfl
@[simp] theorem took_mem_picks (s : State) (t : Site) (i : Instr) : (s.took t i).mem.picks = s.mem.picks := rfl

@[simp] theorem charge_seg (m : MemSys) (t k n p : Nat) : (m.charge t k n).seg p = m.seg p := rfl
@[simp] theorem charge_look (m : MemSys) (t k n a : Nat) : (m.charge t k n).look a = m.look a := rfl
@[simp] theorem took_look (s : State) (t : Site) (i : Instr) (a : Nat) : (s.took t i).mem.look a = s.mem.look a := rfl
@[simp] theorem took_bank (s : State) (t : Site) (i : Instr) (b : Nat) : (s.took t i).mem.bank b = s.mem.bank b := rfl

theorem State.took_cell? (s : State) (t : Site) (i : Instr) (n : Nat) :
    (s.took t i).cell? n = if n = t.cell then (s.cell? n).map (fun c => c.tookAt s.cycle t i) else s.cell? n :=
  State.cell?_updCell s t.cell n (fun c => c.tookAt s.cycle t i) (fun c => Cell.tookAt_num c s.cycle t i)

/-- What the bookkeeping leaves of a cell. -/
theorem State.took_cell_map {β : Type} (s : State) (t : Site) (i : Instr) (n : Nat) (P : Cell → β) (h : ∀ c, P (c.tookAt s.cycle t i) = P c) :
    ((s.took t i).cell? n).map P = (s.cell? n).map P := by
  rw [State.took_cell?]
  split
  · cases s.cell? n with
    | none => rfl
    | some c => simp [h]
  · rfl

theorem State.took_cells_map {β : Type} (s : State) (t : Site) (i : Instr) (P : Cell → β) (h : ∀ c, P (c.tookAt s.cycle t i) = P c) :
    (s.took t i).cells.map P = s.cells.map P :=
  State.cells_map_updCell s t.cell (fun c => c.tookAt s.cycle t i) P h

@[simp] theorem Cell.tookAt_held (c : Cell) (now : Nat) (t : Site) (i : Instr) : (c.tookAt now t i).held = c.held := by
  unfold Cell.tookAt
  rw [Cell.count_held]
  refine (Cell.updPe_held _ _ _ ?_ ?_).trans (Cell.updBlock_held _ _ _)
  · intro p; rfl
  · intro p; rfl

@[simp] theorem Cell.tookAt_channels (c : Cell) (now : Nat) (t : Site) (i : Instr) : (c.tookAt now t i).channels = c.channels := by
  unfold Cell.tookAt
  rw [Cell.count_channels, Cell.updPe_channels, Cell.updBlock_channels]
  intro b; rfl

@[simp] theorem Cell.count_regs (c : Cell) (n : Nat) (k : Word) : (c.count n k).regs = c.regs := by unfold Cell.count; split <;> rfl
@[simp] theorem Cell.count_flt (c : Cell) (n : Nat) (k : Word) : (c.count n k).flt = c.flt := by unfold Cell.count; split <;> rfl
@[simp] theorem Cell.count_ports (c : Cell) (n : Nat) (k : Word) : (c.count n k).ports = c.ports := by unfold Cell.count; split <;> rfl
@[simp] theorem Cell.count_context (c : Cell) (n : Nat) (k : Word) : (c.count n k).context = c.context := by unfold Cell.count; split <;> rfl
@[simp] theorem Cell.count_rid (c : Cell) (n : Nat) (k : Word) : (c.count n k).rid = c.rid := by unfold Cell.count; split <;> rfl
@[simp] theorem Cell.tookAt_regs (c : Cell) (now : Nat) (t : Site) (i : Instr) : (c.tookAt now t i).regs = c.regs := by simp [Cell.tookAt]; rfl
@[simp] theorem Cell.tookAt_flt (c : Cell) (now : Nat) (t : Site) (i : Instr) : (c.tookAt now t i).flt = c.flt := by simp [Cell.tookAt]; rfl
@[simp] theorem Cell.tookAt_ports (c : Cell) (now : Nat) (t : Site) (i : Instr) : (c.tookAt now t i).ports = c.ports := by simp [Cell.tookAt]; rfl
@[simp] theorem Cell.tookAt_context (c : Cell) (now : Nat) (t : Site) (i : Instr) : (c.tookAt now t i).context = c.context := by simp [Cell.tookAt]; rfl
@[simp] theorem Cell.tookAt_rid (c : Cell) (now : Nat) (t : Site) (i : Instr) : (c.tookAt now t i).rid = c.rid := by simp [Cell.tookAt]; rfl

/-- The block of the site after the bookkeeping. -/
def Block.tookAt (b : Block) (now : Nat) (t : Site) (i : Instr) : Block :=
  b.updSlot t.index (fun sl =>
    { (sl.consume (consumesOf i b t.index sl)) with done := sl.done + 1, issuedAt := some now, age := 0, aged := none, waking := false })

theorem Cell.tookAt_block? (c : Cell) (now : Nat) (t : Site) (i : Instr) :
    (c.tookAt now t i).block? t.ctx = (c.block? t.ctx).map (fun b => b.tookAt now t i) := by
  unfold Cell.tookAt
  rw [Cell.block?_count, Cell.block?_updPe, Cell.block?_updBlock _ _ _ _ (fun b => Block.updSlot_ctx b _ _), if_pos rfl]
  rfl

theorem State.took_block? (s : State) (t : Site) (i : Instr) :
    (s.took t i).block? t = (s.block? t).map (fun b => b.tookAt s.cycle t i) := by
  unfold State.block?
  rw [State.took_cell?, if_pos rfl]
  cases s.cell? t.cell with
  | none => rfl
  | some c => simp [Cell.tookAt_block?]

/-- Where the site is there: its cell, its block, its slot and its PE. -/
theorem State.placed_iff (s : State) : s.placed = true ↔
    ∃ c b, s.cell? s.site.cell = some c ∧ c.block? s.site.ctx = some b ∧ s.site.index < b.slots.length ∧ s.site.index / 4 < c.pes.length := by
  unfold State.placed
  cases hc : s.cell? s.site.cell with
  | none => simp
  | some c =>
    cases hb : c.block? s.site.ctx with
    | none => simp [hb]
    | some b => simp [hb]

/-- An issue has the effects that every issue has. -/
theorem issued_took (i : Instr) (s : State) (h : s.placed = true) : Issued i s (s.took s.site i) := by
  obtain ⟨c, b, hc, hb, hs, hp⟩ := (State.placed_iff s).mp h
  have hblk : s.block? s.site = some b := by simp [State.block?, hc, hb]
  have hsl : s.slot s.site = b.slot s.site.index := by simp [State.slot, hblk]
  have hsl' : (s.took s.site i).slot s.site = (b.tookAt s.cycle s.site i).slot s.site.index := by
    simp [State.slot, State.took_block?, hblk]
  rw [Issued, hsl, hsl']
  unfold Block.tookAt
  rw [Block.slot_updSlot b s.site.index s.site.index _ hs, if_pos rfl]
  refine ⟨?_, ?_, rfl, rfl⟩
  · intro b' hb' f
    rw [hblk] at hb'
    cases hb'
    exact Slot.consume_field (b.slot s.site.index) (consumesOf i b s.site.index (b.slot s.site.index)) f
  · intro c' hc'
    rw [State.took_cell?, if_pos rfl, hc] at hc'
    cases hc'
    unfold Cell.tookAt
    have hp' : s.site.pe < c.pes.length := hp
    have : ∀ (x : Cell) (n : Nat) (k : Word) q, (x.count n k).pe q = x.pe q := by intro x n k q; simp [Cell.pe]
    rw [this, Cell.pe_updPe _ _ _ _ (by simpa using hp'), if_pos rfl]

/-- What has issued stays so under whatever keeps the tokens and counts of its slot and the PEs of its cell. -/
theorem Issued.keep {i : Instr} {s t u : State} (h : Issued i s t)
    (hs : ∀ {β : Type} (P : Slot → β), ResvFree P → P (u.slot s.site) = P (t.slot s.site))
    (hc : (u.cell? s.site.cell).map (fun c => c.pes) = (t.cell? s.site.cell).map (fun c => c.pes)) : Issued i s u := by
  obtain ⟨h1, h2, h3, h4⟩ := h
  refine ⟨fun b hb f => ?_, fun c' hc' => ?_, ?_, ?_⟩
  · rw [← h1 b hb f]; exact hs _ (resvFree_toks f)
  · cases ht : t.cell? s.site.cell with
    | none => rw [hc', ht] at hc; simp at hc
    | some c =>
      rw [hc', ht] at hc
      simp only [Option.map_some, Option.some.injEq] at hc
      unfold Cell.pe
      rw [hc]
      exact h2 c ht
  · rw [← h3]; exact hs _ resvFree_done
  · rw [← h4]; exact hs _ resvFree_issuedAt

theorem Issued.emitAll {i : Instr} {s t : State} (h : Issued i s t) (l : List Consumer) (k : Tok) : Issued i s (t.emitAll s.site l k) :=
  h.keep (fun P hP => State.emitAll_slot t s.site s.site l k P hP) (State.emitAll_cell? t s.site l k _ _ blockFree_pes)

theorem Issued.emit {i : Instr} {s t : State} (h : Issued i s t) (c : Consumer) (k : Tok) : Issued i s (t.emit s.site c k) :=
  h.keep (fun P hP => State.emit_slot t s.site s.site c k P hP) (State.emit_cell? t s.site c k _ _ blockFree_pes)

theorem State.took_flights (s : State) (t : Site) (i : Instr) (l : List (Consumer × Tok)) : (s.took t i).flights t l = s.flights t l :=
  State.flights_congr s _ t l rfl (State.took_cell_map s t i t.cell _ (fun c => by simp))

/-! Issue. -/

theorem issueCtl_goes {i : Instr} {s : State} (h : s.goes i) (e : State → Opnds → State) :
    issueCtl i s e = .next (e (s.took s.site i) (s.opnds s.site i)) := by
  unfold issueCtl
  rw [if_pos h.2]

/-- An instruction that issues and then only emits a list of tokens, one after another. -/
theorem runs_of_emits {i : Instr} {s : State} (h : s.goes i) (t : State) (l : List (Consumer × Tok)) (P : State → Prop)
    (he : exec i s = .next t) (ht : t = l.foldl (fun u x => u.emit s.site x.1 x.2) (s.took s.site i)) (hP : P t) : Runs i s l P := by
  have key : ∀ (l : List (Consumer × Tok)) (u : State), Issued i s u →
      Issued i s (l.foldl (fun u x => u.emit s.site x.1 x.2) u) ∧
        (l.foldl (fun u x => u.emit s.site x.1 x.2) u).flight = u.flight ++ u.flights s.site l := by
    intro l
    induction l with
    | nil => intro u hu; exact ⟨hu, by simp⟩
    | cons x l ih =>
      intro u hu
      obtain ⟨h1, h2⟩ := ih (u.emit s.site x.1 x.2) (hu.emit x.1 x.2)
      refine ⟨h1, ?_⟩
      rw [List.foldl_cons, h2, State.emit_flight, State.emit_flights, show x :: l = [x] ++ l from rfl, State.flights_append, List.append_assoc]
  obtain ⟨h1, h2⟩ := key l (s.took s.site i) (issued_took i s h.1)
  refine ⟨t, he, ht ▸ h1, ?_, hP⟩
  rw [ht, h2, State.took_flights]
  rfl

/-- An instruction of the control ALU runs and emits its value on every consumer slot. -/
theorem runAlu_runs {i : Instr} {s : State} {f : Word → Word → Word → Word} (he : exec i s = runAlu i s f) (h : s.goes i) (P : State → Prop)
    (hP : ∀ t, exec i s = .next t → P t) : Runs i s (outs i ⟨f (s.lval i) (s.rval i) (s.pval i), s.omark i⟩) P := by
  have hx : exec i s = .next ((s.took s.site i).emitAll s.site i.consumers ⟨f (s.lval i) (s.rval i) (s.pval i), s.omark i⟩) := by
    rw [he]; unfold runAlu; rw [issueCtl_goes h]; rfl
  refine runs_of_emits h _ _ P hx ?_ (hP _ hx)
  unfold State.emitAll outs
  rw [List.foldl_map]

end Sys2Proof.Machine
end

