-- ==== Sys2Proof/Laws/Memory.lean ====
section
/-! SUPPORT. Memory: a read after a write, and that every operation on memory keeps the canonical form. -/

namespace Sys2Proof.Machine

/-! The list of bytes. -/

theorem Memory.wf_cons (a : Nat) (b : Byte) (rest : List Host.Cell) :
    Memory.wf ((a, b) :: rest) = true ↔ b ≠ Memory.unlisted ∧ (∀ c ∈ rest, a < c.1) ∧ Memory.wf rest = true := by
  simp [Memory.wf, and_assoc]

theorem Memory.wf_filter (p : Host.Cell → Bool) (m : List Host.Cell) (h : Memory.wf m = true) : Memory.wf (m.filter p) = true := by
  induction m with
  | nil => rfl
  | cons c rest ih =>
    obtain ⟨a, b⟩ := c
    obtain ⟨hb, hlt, hr⟩ := (Memory.wf_cons a b rest).mp h
    by_cases hp : p (a, b) = true
    · rw [List.filter_cons_of_pos hp]
      exact (Memory.wf_cons a b _).mpr ⟨hb, fun c hc => hlt c (List.mem_of_mem_filter hc), ih hr⟩
    · rw [List.filter_cons_of_neg hp]
      exact ih hr

/-- Every entry of a list after a write is the written one or an entry of before. -/
theorem Memory.mem_set (m : List Host.Cell) (a : Nat) (b : Byte) (c : Host.Cell) (h : c ∈ Memory.set m a b) : c = (a, b) ∨ c ∈ m := by
  induction m with
  | nil => simp only [Memory.set] at h; split at h <;> simp_all
  | cons x rest ih =>
    obtain ⟨k, y⟩ := x
    simp only [Memory.set] at h
    split at h
    · split at h <;> simp_all
    · split at h
      · split at h <;> simp_all
        rcases h with h | h <;> simp [h]
      · rcases List.mem_cons.mp h with h | h
        · simp [h]
        · rcases ih h with h | h <;> simp [h]

theorem Memory.wf_set (m : List Host.Cell) (a : Nat) (b : Byte) (h : Memory.wf m = true) : Memory.wf (Memory.set m a b) = true := by
  induction m with
  | nil => simp only [Memory.set]; split <;> simp_all [Memory.wf]
  | cons x rest ih =>
    obtain ⟨k, y⟩ := x
    obtain ⟨hb, hlt, hr⟩ := (Memory.wf_cons k y rest).mp h
    simp only [Memory.set]
    split
    · next hak =>
      split
      · exact h
      · next hne =>
        refine (Memory.wf_cons a b _).mpr ⟨hne, fun c hc => ?_, h⟩
        rcases List.mem_cons.mp hc with rfl | hc
        · exact hak
        · exact Nat.lt_trans hak (hlt c hc)
    · next hak =>
      split
      · next he =>
        split
        · exact hr
        · next hne => exact (Memory.wf_cons a b _).mpr ⟨hne, fun c hc => he ▸ hlt c hc, hr⟩
      · next he =>
        refine (Memory.wf_cons k y _).mpr ⟨hb, fun c hc => ?_, ih hr⟩
        rcases Memory.mem_set rest a b c hc with rfl | hc
        · exact Nat.lt_of_le_of_ne (Nat.le_of_not_lt hak) (Ne.symm he)
        · exact hlt c hc

theorem Memory.wf_setAll (bs : List Byte) (m : List Host.Cell) (a : Nat) (h : Memory.wf m = true) : Memory.wf (Memory.setAll m a bs) = true := by
  induction bs generalizing m a with
  | nil => exact h
  | cons b rest ih => exact ih _ _ (Memory.wf_set m a b h)

/-- In a list whose addresses all lie above, an address below reads as an unlisted one. -/
theorem Memory.get_below (m : List Host.Cell) (a : Nat) (h : ∀ c ∈ m, a < c.1) : Memory.get m a = Memory.unlisted := by
  unfold Memory.get
  have : m.find? (fun c => c.1 == a) = none := by
    rw [List.find?_eq_none]
    intro c hc
    have := h c hc
    simp only [beq_iff_eq]
    omega
  rw [this]

theorem Memory.get_cons_same (a : Nat) (b : Byte) (rest : List Host.Cell) : Memory.get ((a, b) :: rest) a = b := by
  simp [Memory.get]

theorem Memory.get_cons_other (a k : Nat) (b : Byte) (rest : List Host.Cell) (h : k ≠ a) : Memory.get ((k, b) :: rest) a = Memory.get rest a := by
  simp [Memory.get, h]

/-- A read after a write gives the byte written. -/
theorem Memory.get_set_same (m : List Host.Cell) (a : Nat) (b : Byte) (h : Memory.wf m = true) : Memory.get (Memory.set m a b) a = b := by
  induction m with
  | nil => simp only [Memory.set]; split <;> simp_all [Memory.get]
  | cons x rest ih =>
    obtain ⟨k, y⟩ := x
    obtain ⟨_, hlt, hr⟩ := (Memory.wf_cons k y rest).mp h
    simp only [Memory.set]
    split
    · next hak =>
      split
      · next hb => rw [hb]; exact Memory.get_below _ a (fun c hc => by
          rcases List.mem_cons.mp hc with rfl | hc
          · exact hak
          · exact Nat.lt_trans hak (hlt c hc))
      · exact Memory.get_cons_same a b _
    · next hak =>
      split
      · next he =>
        subst he
        split
        · next hb => rw [hb]; exact Memory.get_below rest a hlt
        · exact Memory.get_cons_same a b _
      · next he => rw [Memory.get_cons_other _ _ _ _ (Ne.symm he)]; exact ih hr

/-- A write leaves every other byte alone. -/
theorem Memory.get_set_other (m : List Host.Cell) (a k : Nat) (b : Byte) (h : k ≠ a) : Memory.get (Memory.set m a b) k = Memory.get m k := by
  induction m with
  | nil => simp only [Memory.set]; split <;> simp [Memory.get, Ne.symm h]
  | cons x rest ih =>
    obtain ⟨j, y⟩ := x
    simp only [Memory.set]
    split
    · split
      · rfl
      · exact Memory.get_cons_other _ _ _ _ (Ne.symm h)
    · split
      · next he =>
        subst he
        split
        · exact (Memory.get_cons_other _ _ _ _ (Ne.symm h)).symm
        · rw [Memory.get_cons_other _ _ _ _ (Ne.symm h), Memory.get_cons_other _ _ _ _ (Ne.symm h)]
      · by_cases hj : j = k
        · subst hj; rw [Memory.get_cons_same, Memory.get_cons_same]
        · rw [Memory.get_cons_other _ _ _ _ hj, Memory.get_cons_other _ _ _ _ hj]; exact ih

/-- A run of bytes written leaves every byte outside it alone. -/
theorem Memory.get_setAll_other (bs : List Byte) (m : List Host.Cell) (a k : Nat) (h : k < a ∨ a + bs.length ≤ k) :
    Memory.get (Memory.setAll m a bs) k = Memory.get m k := by
  induction bs generalizing m a with
  | nil => rfl
  | cons b rest ih =>
    simp only [Memory.setAll, List.length_cons] at h ⊢
    rw [ih _ _ (by omega), Memory.get_set_other _ _ _ _ (by omega)]

/-- A run of bytes written reads back. -/
theorem Memory.get_setAll_same (bs : List Byte) (m : List Host.Cell) (a k : Nat) (b : Byte) (h : Memory.wf m = true) (hb : bs[k]? = some b) :
    Memory.get (Memory.setAll m a bs) (a + k) = b := by
  induction bs generalizing m a k with
  | nil => simp at hb
  | cons x rest ih =>
    simp only [Memory.setAll]
    cases k with
    | zero =>
      simp only [List.getElem?_cons_zero, Option.some.injEq] at hb
      subst hb
      rw [Memory.get_setAll_other _ _ _ _ (by omega)]
      exact Memory.get_set_same m a x h
    | succ k =>
      have := ih (Memory.set m a x) (a + 1) k (Memory.wf_set m a x h) (by simpa using hb)
      rw [show a + (k + 1) = a + 1 + k by omega]
      exact this

/-! The memory system. -/

/-- The memory of a memory system stands in its canonical form. -/
abbrev MemSys.Wf (m : MemSys) : Prop := Memory.wf m.bytes = true

theorem reset_memory_wf : State.reset.MemoryWf := rfl

theorem MemSys.wf_charge (m : MemSys) (tag kind fj : Nat) (h : m.Wf) : (m.charge tag kind fj).Wf := h

theorem MemSys.wf_loseLine (m : MemSys) (line : Nat) (h : m.Wf) : (m.loseLine line).Wf := by
  unfold MemSys.loseLine
  generalize List.replicate 64 (0 : Byte) = l
  exact Memory.wf_setAll l m.bytes (line * 64) h

/-- The eviction of a line leaves the bytes. -/
theorem MemSys.evict_bytes (m : MemSys) (line : Nat) : (m.evict line).bytes = m.bytes := by
  unfold MemSys.evict
  split
  · rfl
  · dsimp only; split <;> rfl

/-- Making room for a line leaves the bytes. -/
theorem MemSys.makeRoom_bytes (m : MemSys) (line : Nat) : (m.makeRoom line).bytes = m.bytes := by
  unfold MemSys.makeRoom
  dsimp only
  split
  · rfl
  · split
    · exact MemSys.evict_bytes m _
    · rfl

/-- What a request at a line's home leaves of the bytes: all of them, or all with the lost line cleared. -/
theorem MemSys.atHome_bytes (m : MemSys) (tag line n : Nat) (write full : Bool) :
    (m.atHome tag line n write full).bytes = m.bytes ∨ (m.atHome tag line n write full).bytes = (m.loseLine line).bytes := by
  unfold MemSys.atHome MemSys.loseLine MemSys.charge
  generalize List.replicate 64 (0 : Byte) = l
  dsimp only
  simp only [apply_ite MemSys.bytes, MemSys.makeRoom_bytes, ite_self]
  repeat' split
  all_goals first | exact .inl rfl | exact .inr rfl

theorem MemSys.wf_atHome (m : MemSys) (tag line n : Nat) (write full : Bool) (h : m.Wf) : (m.atHome tag line n write full).Wf := by
  rcases m.atHome_bytes tag line n write full with e | e <;> unfold MemSys.Wf <;> rw [e]
  · exact h
  · exact MemSys.wf_loseLine m line h

theorem MemSys.wf_evict (m : MemSys) (line : Nat) (h : m.Wf) : (m.evict line).Wf := by
  unfold MemSys.Wf; rw [MemSys.evict_bytes]; exact h

theorem MemSys.wf_setBank (m : MemSys) (b : Nat) (x : Bank) (h : m.Wf) : (m.setBank b x).Wf := h

theorem MemSys.wf_setSeg (m : MemSys) (g : Segment) (h : m.Wf) : (m.setSeg g).Wf := h

theorem MemSys.wf_bankOff (m : MemSys) (b : Nat) (h : m.Wf) : (m.bankOff b).Wf := h

theorem MemSys.wf_readTouch (m : MemSys) (now b : Nat) (h : m.Wf) : (m.readTouch now b).Wf := by
  unfold MemSys.readTouch
  dsimp only
  split <;> exact h

theorem MemSys.wf_readGate (m : MemSys) (now pa : Nat) (wakes : Bool) (h : m.Wf) : (m.readGate now pa wakes).1.Wf := by
  unfold MemSys.readGate
  dsimp only
  split
  · dsimp only
    split
    · exact MemSys.wf_readTouch m now _ h
    · exact h
  · split <;> exact h

theorem MemSys.wf_writeGate (m : MemSys) (now pa : Nat) (h : m.Wf) : (m.writeGate now pa).1.Wf := by
  unfold MemSys.writeGate
  dsimp only
  split <;> exact h

theorem MemSys.wf_enliven (m : MemSys) (page tag : Nat) (h : m.Wf) : (m.enliven page tag).Wf := by
  unfold MemSys.enliven
  dsimp only
  split <;> exact h

theorem MemSys.wf_spadWrite (bs : List Byte) (m : MemSys) (pa : Nat) (h : m.Wf) : (m.spadWrite pa bs).Wf := by
  induction bs generalizing m pa with
  | nil => exact h
  | cons b rest ih => exact ih _ _ (Memory.wf_set _ _ _ h)

theorem MemSys.wf_hintSeg (m : MemSys) (now page : Nat) (x : Hint) (h : m.Wf) : (m.hintSeg now page x).Wf := by
  unfold MemSys.hintSeg
  dsimp only
  split <;> exact h

theorem MemSys.wf_readAs (wakes : Bool) (m : MemSys) (now tag pa n : Nat) (h : m.Wf) : (m.readAs wakes now tag pa n).1.Wf := by
  unfold MemSys.readAs
  split
  · exact MemSys.wf_atHome _ _ _ _ _ _ h
  · have := MemSys.wf_readGate m now pa wakes h
    split; rename_i m' g hm
    rw [hm] at this
    split <;> exact this
  · exact h
  · exact h

theorem MemSys.wf_read (m : MemSys) (now tag pa n : Nat) (h : m.Wf) : (m.read now tag pa n).1.Wf := MemSys.wf_readAs true m now tag pa n h

theorem MemSys.wf_write (m : MemSys) (now tag pa : Nat) (bs : List Byte) (poison : Bool) (h : m.Wf) : (m.write now tag pa bs poison).1.Wf := by
  unfold MemSys.write
  dsimp only
  split
  · exact Memory.wf_setAll _ _ _ (MemSys.wf_atHome _ _ _ _ _ _ h)
  · have := MemSys.wf_writeGate m now pa h
    split
    · exact MemSys.wf_spadWrite _ _ _ (MemSys.wf_enliven _ _ _ this)
    · exact this
    · exact this
  · exact Memory.wf_setAll _ _ _ h
  · exact h

theorem MemSys.wf_rewrite (m : MemSys) (now tag pa : Nat) (bs : List Byte) (poison : Bool) (h : m.Wf) : (m.rewrite now tag pa bs poison).1.Wf :=
  MemSys.wf_write m now tag pa bs poison h

theorem MemSys.wf_writeBits (m : MemSys) (now tag pa : Nat) (masks news : List Byte) (poison : Bool) (h : m.Wf) :
    (m.writeBits now tag pa masks news poison).1.Wf := by
  unfold MemSys.writeBits
  dsimp only
  split
  · have := MemSys.wf_writeGate m now pa h
    split
    · exact MemSys.wf_spadWrite _ _ _ (MemSys.wf_enliven _ _ _ this)
    · exact this
    · exact this
  · exact Memory.wf_setAll _ _ _ (MemSys.wf_atHome _ _ _ _ _ _ h)
  · exact Memory.wf_setAll _ _ _ h
  · exact h

theorem MemSys.wf_readEntry (m : MemSys) (now tag pa : Nat) (h : m.Wf) : (m.readEntry now tag pa).1.Wf := by
  unfold MemSys.readEntry
  split
  · have := MemSys.wf_read m now tag pa 8 h
    split <;> rename_i hm <;> rw [hm] at this <;> exact this
  · exact h
  · exact h
  · exact h

/-- The memory that an operation leaves, taken apart from its answer. -/
theorem MemSys.wf_of_eq {α : Type} {x : MemSys × α} {m : MemSys} {y : α} (e : x = (m, y)) (h : x.1.Wf) : m.Wf := by
  rw [e] at h; exact h

theorem MemSys.wf_tableEntry (m : MemSys) (now tag va level base : Nat) (h : m.Wf) : (m.tableEntry now tag va level base).1.Wf := by
  unfold MemSys.tableEntry
  dsimp only
  split
  · next hm => exact MemSys.wf_of_eq hm (MemSys.wf_readEntry m now tag _ h)
  · next hm => exact MemSys.wf_of_eq hm (MemSys.wf_readEntry m now tag _ h)

theorem MemSys.wf_walkFrom (level : Nat) (m : MemSys) (now tag va base : Nat) (h : m.Wf) : (m.walkFrom now tag va level base).1.Wf := by
  induction level generalizing m base with
  | zero =>
    unfold MemSys.walkFrom
    split
    · next hm => exact MemSys.wf_of_eq hm (MemSys.wf_tableEntry m now tag va 0 base h)
    · next hm => exact MemSys.wf_of_eq hm (MemSys.wf_tableEntry m now tag va 0 base h)
  | succ l ih =>
    unfold MemSys.walkFrom
    split
    · next hm => exact MemSys.wf_of_eq hm (MemSys.wf_tableEntry m now tag va (l + 1) base h)
    · next hm =>
      have := MemSys.wf_of_eq hm (MemSys.wf_tableEntry m now tag va (l + 1) base h)
      split
      · exact this
      · exact ih _ _ this

theorem MemSys.wf_useUnit (m : MemSys) (pa n : Nat) (h : m.Wf) : (m.useUnit pa n).Wf := h

theorem MemSys.wf_fillTile (m : MemSys) (e : TlbEntry) (h : m.Wf) : (m.fillTile e).Wf := by
  unfold MemSys.fillTile
  dsimp only
  split
  · exact h
  · split <;> exact h

theorem MemSys.wf_walk (m : MemSys) (now die ctx : Nat) (root : DWord) (va : Nat) (n : Need) (h : m.Wf) : (m.walk now die ctx root va n).1.Wf := by
  unfold MemSys.walk
  have set : ∀ (m : MemSys) (c : Prop) [Decidable c] (addr : Nat) (bs : List Byte), m.Wf →
      (if c then m else (m.write now ctx addr bs false).1.useUnit addr 8).Wf := by
    intro m c _ addr bs h
    split
    · exact h
    · exact MemSys.wf_write _ _ _ _ _ _ h
  split
  · exact h
  · split
    · next hm => exact MemSys.wf_of_eq hm (MemSys.wf_walkFrom _ _ _ _ _ _ h)
    · next hm =>
      have := MemSys.wf_of_eq hm (MemSys.wf_walkFrom _ _ _ _ _ _ h)
      dsimp only
      cases permits _ n
      · exact this
      · simp only [Bool.not_true, Bool.false_eq_true, if_false]
        generalize (if bitOf _ 5 = true then _ else _) = withA
        generalize (if (n.w && !bitOf withA 6) = true then _ else _) = new
        split
        · exact this
        · exact MemSys.wf_fillTile _ _ (set _ _ _ _ this)

theorem MemSys.wf_walkOrSet (m : MemSys) (now die ctx : Nat) (root : DWord) (va : Nat) (n : Need) (h : m.Wf) :
    (m.walkOrSet now die ctx root va n).1.Wf := by
  unfold MemSys.walkOrSet
  split
  · exact MemSys.wf_walk _ _ _ _ _ _ _ h
  · rename_i e _
    have := MemSys.wf_readEntry m now ctx e.entryAddr h
    split
    · rename_i hm; rw [hm] at this
      split
      · split
        · exact this
        · exact MemSys.wf_rewrite _ _ _ _ _ _ this
      · exact MemSys.wf_walk _ _ _ _ _ _ _ this
    · rename_i hm; rw [hm] at this
      exact MemSys.wf_walk _ _ _ _ _ _ _ this

theorem MemSys.wf_translate (m : MemSys) (now : Nat) (ws : List Window) (die ctx : Nat) (root : DWord) (va : Nat) (n : Need) (h : m.Wf) :
    (m.translate now ws die ctx root va n).1.Wf := by
  unfold MemSys.translate
  split
  · exact MemSys.wf_walkOrSet _ _ _ _ _ _ _ h
  · exact h

theorem MemSys.wf_translateSeq (m : MemSys) (now ctx : Nat) (root : DWord) (va : Nat) (n : Need) (h : m.Wf) : (m.translateSeq now ctx root va n).1.Wf := by
  unfold MemSys.translateSeq
  split
  · exact h
  · exact MemSys.wf_walk { m with units := [] } _ _ _ _ _ _ h

theorem MemSys.wf_post (m : MemSys) (now tag pa : Nat) (bs : List Byte) (cmd : Option Nat) (h : m.Wf) : (m.post now tag pa bs cmd).Wf := by
  unfold MemSys.post
  have := MemSys.wf_write m now tag pa bs false h
  dsimp only
  split <;> exact this

theorem MemSys.wf_flushPosted (m : MemSys) (now : Nat) (h : m.Wf) : (m.flushPosted now).Wf := by
  unfold MemSys.flushPosted
  have go : ∀ (l : List Posted) (m : MemSys), m.Wf → (l.foldl (fun m x => m.post now x.tag x.pa x.bytes x.cmd) m).Wf := by
    intro l
    induction l with
    | nil => exact fun _ h => h
    | cons x rest ih => exact fun m h => ih _ (MemSys.wf_post _ _ _ _ _ _ h)
  exact go _ _ h

theorem MemSys.wf_writeBacks (m : MemSys) (h : m.Wf) : m.writeBacks.Wf := by
  unfold MemSys.writeBacks
  have go : ∀ (l : List LlcLine) (m : MemSys), m.Wf → (l.foldl (fun (m : MemSys) x => (m.charge x.tag 2 896000).charge x.tag 1 64000) m).Wf := by
    intro l
    induction l with
    | nil => exact fun _ h => h
    | cons x rest ih => exact fun m h => ih _ h
  exact go _ _ h

theorem MemSys.wf_spoil (m : MemSys) (line : Nat) (h : m.Wf) : (m.spoil line).Wf := by
  unfold MemSys.spoil
  split <;> exact h

theorem MemSys.wf_tablePa (m : MemSys) (now ctx : Nat) (root : DWord) (va : Nat) (n : Need) (h : m.Wf) : (m.tablePa now ctx root va n).1.Wf := by
  unfold MemSys.tablePa
  split
  · exact h
  · split
    · next hm => exact MemSys.wf_of_eq hm (MemSys.wf_walkFrom _ _ _ _ _ _ h)
    · next hm => exact MemSys.wf_of_eq hm (MemSys.wf_walkFrom _ _ _ _ _ _ h)

theorem MemSys.wf_afterReset (m : MemSys) (dram : Bool) (h : m.Wf) : (m.afterReset dram).Wf := Memory.wf_filter _ _ h

theorem MemSys.wf_loseDirty (m : MemSys) (salt : Nat) (h : m.Wf) : (m.loseDirty salt).Wf := by
  unfold MemSys.loseDirty
  dsimp only
  have go : ∀ (l : List LlcLine) (bs : List Host.Cell), Memory.wf bs = true →
      ∀ r : List Nat, Memory.wf (l.foldl (fun bs x => Memory.setAll bs (x.line * 64) (r.map (fun i => Config.lostByte salt (x.line * 64 + i)))) bs) = true := by
    intro l
    induction l with
    | nil => exact fun _ h _ => h
    | cons x rest ih => exact fun bs h r => ih _ (Memory.wf_setAll _ _ _ h) r
  exact go _ _ h _

theorem MemSys.wf_notePage (m : MemSys) (p : Part) (h : m.Wf) : (m.notePage p).Wf := by
  unfold MemSys.notePage
  split
  · exact h
  · dsimp only
    split
    · split <;> exact h
    · exact h

theorem MemSys.wf_setVersion (m : MemSys) (v : Version) (h : m.Wf) : (m.setVersion v).Wf := h

end Sys2Proof.Machine
end

