-- ==== Sys2Proof/Laws/PerInstr.lean ====
section
/-! SUPPORT. The family of statements made per instruction: the parts of an instruction's word fit their fields, and the opcode part is the
instruction's opcode. -/

namespace Sys2Proof.Laws

/-! The codes of the operands fit their fields. -/

theorem consumerCode_lt (c : Consumer) : consumerCode c < 512 := by
  cases c with
  | none => simp [consumerCode]
  | some t => obtain ⟨f, n⟩ := t; have := n.isLt; cases f <;> simp [consumerCode, FieldSel.code] <;> omega

theorem fmt_code_lt (x : Fmt) : x.code < 16 := by cases x <;> decide

theorem rnd_code_lt (x : Rnd) : x.code < 4 := by cases x <;> decide

theorem cond_code_lt (x : Cond) : x.code < 8 := by cases x <;> decide

theorem hint_code_lt (x : Hint) : x.code < 4 := by cases x <;> decide

theorem scope_code_lt (x : Scope) : x.code < 8 := by cases x <;> decide

theorem redOp_code_lt (x : RedOp) : x.code < 4 := by cases x <;> decide

theorem order_code_lt (x : Order) : x.code < 4 := by cases x <;> decide

theorem atomOp_code_lt (x : AtomOp) : x.code < 16 := by cases x <;> decide

theorem collKind_code_lt (x : CollKind) : x.code < 8 := by cases x <;> decide

theorem bankFile_code_lt (x : BankFile) : x.code < 4 := by cases x <;> decide

theorem drainPath_code_lt (x : DrainPath) : x.code < 4 := by cases x <;> decide

theorem bool_toNat_lt (b : Bool) : b.toNat < 2 := by cases b <;> decide

namespace Opcode

/-- The parts of the word fit the fields of the word, and the opcode part is the opcode. -/
def Statement (i : Instr) : Prop :=
  ∀ x, encodeParts i = some x → x.op = i.opcode ∧ x.op < 256 ∧ x.hi < 64 ∧ x.mid < 512 ∧ x.c0 < 512

theorem nop : Statement (.nop) := by
  intro x h
  cases h
  refine ⟨rfl, ?_⟩
  dsimp only [Parts.imm]
  omega

theorem mov (c1 : Consumer) (c0 : Consumer) : Statement (.mov c1 c0) := by
  intro x h
  cases h
  have h0 := consumerCode_lt c1
  have h1 := consumerCode_lt c0
  refine ⟨rfl, ?_⟩
  dsimp only [Parts.imm]
  omega

theorem const (imm : BitVec 15) (c0 : Consumer) : Statement (.const imm c0) := by
  intro x h
  cases h
  have h0 := imm.isLt
  have h1 := consumerCode_lt c0
  refine ⟨rfl, ?_⟩
  dsimp only [Parts.imm]
  omega

theorem shlor (imm : BitVec 15) (c0 : Consumer) : Statement (.shlor imm c0) := by
  intro x h
  cases h
  have h0 := imm.isLt
  have h1 := consumerCode_lt c0
  refine ⟨rfl, ?_⟩
  dsimp only [Parts.imm]
  omega

theorem add (c1 : Consumer) (c0 : Consumer) : Statement (.add c1 c0) := by
  intro x h
  cases h
  have h0 := consumerCode_lt c1
  have h1 := consumerCode_lt c0
  refine ⟨rfl, ?_⟩
  dsimp only [Parts.imm]
  omega

theorem addi (imm : BitVec 15) (c0 : Consumer) : Statement (.addi imm c0) := by
  intro x h
  cases h
  have h0 := imm.isLt
  have h1 := consumerCode_lt c0
  refine ⟨rfl, ?_⟩
  dsimp only [Parts.imm]
  omega

theorem sub (c1 : Consumer) (c0 : Consumer) : Statement (.sub c1 c0) := by
  intro x h
  cases h
  have h0 := consumerCode_lt c1
  have h1 := consumerCode_lt c0
  refine ⟨rfl, ?_⟩
  dsimp only [Parts.imm]
  omega

theorem neg (c1 : Consumer) (c0 : Consumer) : Statement (.neg c1 c0) := by
  intro x h
  cases h
  have h0 := consumerCode_lt c1
  have h1 := consumerCode_lt c0
  refine ⟨rfl, ?_⟩
  dsimp only [Parts.imm]
  omega

theorem mul (c1 : Consumer) (c0 : Consumer) : Statement (.mul c1 c0) := by
  intro x h
  cases h
  have h0 := consumerCode_lt c1
  have h1 := consumerCode_lt c0
  refine ⟨rfl, ?_⟩
  dsimp only [Parts.imm]
  omega

theorem mulh (c1 : Consumer) (c0 : Consumer) : Statement (.mulh c1 c0) := by
  intro x h
  cases h
  have h0 := consumerCode_lt c1
  have h1 := consumerCode_lt c0
  refine ⟨rfl, ?_⟩
  dsimp only [Parts.imm]
  omega

theorem mulhu (c1 : Consumer) (c0 : Consumer) : Statement (.mulhu c1 c0) := by
  intro x h
  cases h
  have h0 := consumerCode_lt c1
  have h1 := consumerCode_lt c0
  refine ⟨rfl, ?_⟩
  dsimp only [Parts.imm]
  omega

theorem div (c1 : Consumer) (c0 : Consumer) : Statement (.div c1 c0) := by
  intro x h
  cases h
  have h0 := consumerCode_lt c1
  have h1 := consumerCode_lt c0
  refine ⟨rfl, ?_⟩
  dsimp only [Parts.imm]
  omega

theorem divu (c1 : Consumer) (c0 : Consumer) : Statement (.divu c1 c0) := by
  intro x h
  cases h
  have h0 := consumerCode_lt c1
  have h1 := consumerCode_lt c0
  refine ⟨rfl, ?_⟩
  dsimp only [Parts.imm]
  omega

theorem rem (c1 : Consumer) (c0 : Consumer) : Statement (.rem c1 c0) := by
  intro x h
  cases h
  have h0 := consumerCode_lt c1
  have h1 := consumerCode_lt c0
  refine ⟨rfl, ?_⟩
  dsimp only [Parts.imm]
  omega

theorem remu (c1 : Consumer) (c0 : Consumer) : Statement (.remu c1 c0) := by
  intro x h
  cases h
  have h0 := consumerCode_lt c1
  have h1 := consumerCode_lt c0
  refine ⟨rfl, ?_⟩
  dsimp only [Parts.imm]
  omega

theorem muli (imm : BitVec 15) (c0 : Consumer) : Statement (.muli imm c0) := by
  intro x h
  cases h
  have h0 := imm.isLt
  have h1 := consumerCode_lt c0
  refine ⟨rfl, ?_⟩
  dsimp only [Parts.imm]
  omega

theorem and (c1 : Consumer) (c0 : Consumer) : Statement (.and c1 c0) := by
  intro x h
  cases h
  have h0 := consumerCode_lt c1
  have h1 := consumerCode_lt c0
  refine ⟨rfl, ?_⟩
  dsimp only [Parts.imm]
  omega

theorem andi (imm : BitVec 15) (c0 : Consumer) : Statement (.andi imm c0) := by
  intro x h
  cases h
  have h0 := imm.isLt
  have h1 := consumerCode_lt c0
  refine ⟨rfl, ?_⟩
  dsimp only [Parts.imm]
  omega

theorem or (c1 : Consumer) (c0 : Consumer) : Statement (.or c1 c0) := by
  intro x h
  cases h
  have h0 := consumerCode_lt c1
  have h1 := consumerCode_lt c0
  refine ⟨rfl, ?_⟩
  dsimp only [Parts.imm]
  omega

theorem ori (imm : BitVec 15) (c0 : Consumer) : Statement (.ori imm c0) := by
  intro x h
  cases h
  have h0 := imm.isLt
  have h1 := consumerCode_lt c0
  refine ⟨rfl, ?_⟩
  dsimp only [Parts.imm]
  omega

theorem xor (c1 : Consumer) (c0 : Consumer) : Statement (.xor c1 c0) := by
  intro x h
  cases h
  have h0 := consumerCode_lt c1
  have h1 := consumerCode_lt c0
  refine ⟨rfl, ?_⟩
  dsimp only [Parts.imm]
  omega

theorem xori (imm : BitVec 15) (c0 : Consumer) : Statement (.xori imm c0) := by
  intro x h
  cases h
  have h0 := imm.isLt
  have h1 := consumerCode_lt c0
  refine ⟨rfl, ?_⟩
  dsimp only [Parts.imm]
  omega

theorem shl (c1 : Consumer) (c0 : Consumer) : Statement (.shl c1 c0) := by
  intro x h
  cases h
  have h0 := consumerCode_lt c1
  have h1 := consumerCode_lt c0
  refine ⟨rfl, ?_⟩
  dsimp only [Parts.imm]
  omega

theorem shli (sh : BitVec 5) (c0 : Consumer) : Statement (.shli sh c0) := by
  intro x h
  cases h
  have h0 := sh.isLt
  have h1 := consumerCode_lt c0
  refine ⟨rfl, ?_⟩
  dsimp only [Parts.imm]
  omega

theorem shr (c1 : Consumer) (c0 : Consumer) : Statement (.shr c1 c0) := by
  intro x h
  cases h
  have h0 := consumerCode_lt c1
  have h1 := consumerCode_lt c0
  refine ⟨rfl, ?_⟩
  dsimp only [Parts.imm]
  omega

theorem shri (sh : BitVec 5) (c0 : Consumer) : Statement (.shri sh c0) := by
  intro x h
  cases h
  have h0 := sh.isLt
  have h1 := consumerCode_lt c0
  refine ⟨rfl, ?_⟩
  dsimp only [Parts.imm]
  omega

theorem sar (c1 : Consumer) (c0 : Consumer) : Statement (.sar c1 c0) := by
  intro x h
  cases h
  have h0 := consumerCode_lt c1
  have h1 := consumerCode_lt c0
  refine ⟨rfl, ?_⟩
  dsimp only [Parts.imm]
  omega

theorem sari (sh : BitVec 5) (c0 : Consumer) : Statement (.sari sh c0) := by
  intro x h
  cases h
  have h0 := sh.isLt
  have h1 := consumerCode_lt c0
  refine ⟨rfl, ?_⟩
  dsimp only [Parts.imm]
  omega

theorem clz (c1 : Consumer) (c0 : Consumer) : Statement (.clz c1 c0) := by
  intro x h
  cases h
  have h0 := consumerCode_lt c1
  have h1 := consumerCode_lt c0
  refine ⟨rfl, ?_⟩
  dsimp only [Parts.imm]
  omega

theorem popc (c1 : Consumer) (c0 : Consumer) : Statement (.popc c1 c0) := by
  intro x h
  cases h
  have h0 := consumerCode_lt c1
  have h1 := consumerCode_lt c0
  refine ⟨rfl, ?_⟩
  dsimp only [Parts.imm]
  omega

theorem brev (c1 : Consumer) (c0 : Consumer) : Statement (.brev c1 c0) := by
  intro x h
  cases h
  have h0 := consumerCode_lt c1
  have h1 := consumerCode_lt c0
  refine ⟨rfl, ?_⟩
  dsimp only [Parts.imm]
  omega

theorem bfx (sx : Bool) (wm1 : BitVec 5) (low : BitVec 5) (c0 : Consumer) : Statement (.bfx sx wm1 low c0) := by
  intro x h
  cases h
  have h0 := bool_toNat_lt sx
  have h1 := wm1.isLt
  have h2 := low.isLt
  have h3 := consumerCode_lt c0
  refine ⟨rfl, ?_⟩
  dsimp only [Parts.imm]
  omega

theorem min (c1 : Consumer) (c0 : Consumer) : Statement (.min c1 c0) := by
  intro x h
  cases h
  have h0 := consumerCode_lt c1
  have h1 := consumerCode_lt c0
  refine ⟨rfl, ?_⟩
  dsimp only [Parts.imm]
  omega

theorem max (c1 : Consumer) (c0 : Consumer) : Statement (.max c1 c0) := by
  intro x h
  cases h
  have h0 := consumerCode_lt c1
  have h1 := consumerCode_lt c0
  refine ⟨rfl, ?_⟩
  dsimp only [Parts.imm]
  omega

theorem minu (c1 : Consumer) (c0 : Consumer) : Statement (.minu c1 c0) := by
  intro x h
  cases h
  have h0 := consumerCode_lt c1
  have h1 := consumerCode_lt c0
  refine ⟨rfl, ?_⟩
  dsimp only [Parts.imm]
  omega

theorem maxu (c1 : Consumer) (c0 : Consumer) : Statement (.maxu c1 c0) := by
  intro x h
  cases h
  have h0 := consumerCode_lt c1
  have h1 := consumerCode_lt c0
  refine ⟨rfl, ?_⟩
  dsimp only [Parts.imm]
  omega

theorem cmp (k : Cond) (c1 : Consumer) (c0 : Consumer) : Statement (.cmp k c1 c0) := by
  intro x h
  cases h
  have h0 := cond_code_lt k
  have h1 := consumerCode_lt c1
  have h2 := consumerCode_lt c0
  refine ⟨rfl, ?_⟩
  dsimp only [Parts.imm]
  omega

theorem cmpi (k : Cond) (imm : BitVec 12) (c0 : Consumer) : Statement (.cmpi k imm c0) := by
  intro x h
  cases h
  have h0 := cond_code_lt k
  have h1 := imm.isLt
  have h2 := consumerCode_lt c0
  refine ⟨rfl, ?_⟩
  dsimp only [Parts.imm]
  omega

theorem sel (c1 : Consumer) (c0 : Consumer) : Statement (.sel c1 c0) := by
  intro x h
  cases h
  have h0 := consumerCode_lt c1
  have h1 := consumerCode_lt c0
  refine ⟨rfl, ?_⟩
  dsimp only [Parts.imm]
  omega

theorem test (c1 : Consumer) (c0 : Consumer) : Statement (.test c1 c0) := by
  intro x h
  cases h
  have h0 := consumerCode_lt c1
  have h1 := consumerCode_lt c0
  refine ⟨rfl, ?_⟩
  dsimp only [Parts.imm]
  omega

theorem steer (c1 : Consumer) (c0 : Consumer) : Statement (.steer c1 c0) := by
  intro x h
  cases h
  have h0 := consumerCode_lt c1
  have h1 := consumerCode_lt c0
  refine ⟨rfl, ?_⟩
  dsimp only [Parts.imm]
  omega

theorem merge (c1 : Consumer) (c0 : Consumer) : Statement (.merge c1 c0) := by
  intro x h
  cases h
  have h0 := consumerCode_lt c1
  have h1 := consumerCode_lt c0
  refine ⟨rfl, ?_⟩
  dsimp only [Parts.imm]
  omega

theorem gate (t : Bool) (c1 : Consumer) (c0 : Consumer) : Statement (.gate t c1 c0) := by
  intro x h
  cases h
  have h0 := bool_toNat_lt t
  have h1 := consumerCode_lt c1
  have h2 := consumerCode_lt c0
  refine ⟨rfl, ?_⟩
  dsimp only [Parts.imm]
  omega

theorem pand (c1 : Consumer) (c0 : Consumer) : Statement (.pand c1 c0) := by
  intro x h
  cases h
  have h0 := consumerCode_lt c1
  have h1 := consumerCode_lt c0
  refine ⟨rfl, ?_⟩
  dsimp only [Parts.imm]
  omega

theorem por (c1 : Consumer) (c0 : Consumer) : Statement (.por c1 c0) := by
  intro x h
  cases h
  have h0 := consumerCode_lt c1
  have h1 := consumerCode_lt c0
  refine ⟨rfl, ?_⟩
  dsimp only [Parts.imm]
  omega

theorem pnot (c1 : Consumer) (c0 : Consumer) : Statement (.pnot c1 c0) := by
  intro x h
  cases h
  have h0 := consumerCode_lt c1
  have h1 := consumerCode_lt c0
  refine ⟨rfl, ?_⟩
  dsimp only [Parts.imm]
  omega

theorem pxor (c1 : Consumer) (c0 : Consumer) : Statement (.pxor c1 c0) := by
  intro x h
  cases h
  have h0 := consumerCode_lt c1
  have h1 := consumerCode_lt c0
  refine ⟨rfl, ?_⟩
  dsimp only [Parts.imm]
  omega

theorem drop : Statement (.drop) := by
  intro x h
  cases h
  refine ⟨rfl, ?_⟩
  dsimp only [Parts.imm]
  omega

theorem cnt (n : BitVec 15) (c0 : Consumer) : Statement (.cnt n c0) := by
  intro x h
  cases h
  have h0 := n.isLt
  have h1 := consumerCode_lt c0
  refine ⟨rfl, ?_⟩
  dsimp only [Parts.imm]
  omega

theorem cntx (c1 : Consumer) (c0 : Consumer) : Statement (.cntx c1 c0) := by
  intro x h
  cases h
  have h0 := consumerCode_lt c1
  have h1 := consumerCode_lt c0
  refine ⟨rfl, ?_⟩
  dsimp only [Parts.imm]
  omega

theorem accum (c1 : Consumer) (c0 : Consumer) : Statement (.accum c1 c0) := by
  intro x h
  cases h
  have h0 := consumerCode_lt c1
  have h1 := consumerCode_lt c0
  refine ⟨rfl, ?_⟩
  dsimp only [Parts.imm]
  omega

theorem fireno (c1 : Consumer) (c0 : Consumer) : Statement (.fireno c1 c0) := by
  intro x h
  cases h
  have h0 := consumerCode_lt c1
  have h1 := consumerCode_lt c0
  refine ⟨rfl, ?_⟩
  dsimp only [Parts.imm]
  omega

theorem cellid (c1 : Consumer) (c0 : Consumer) : Statement (.cellid c1 c0) := by
  intro x h
  cases h
  have h0 := consumerCode_lt c1
  have h1 := consumerCode_lt c0
  refine ⟨rfl, ?_⟩
  dsimp only [Parts.imm]
  omega

theorem laneid (c1 : Consumer) (c0 : Consumer) : Statement (.laneid c1 c0) := by
  intro x h
  cases h
  have h0 := consumerCode_lt c1
  have h1 := consumerCode_lt c0
  refine ⟨rfl, ?_⟩
  dsimp only [Parts.imm]
  omega

theorem rd (g : BitVec 6) (h : Hint) (c0 : Consumer) : Statement (.rd g h c0) := by
  intro x h
  cases h
  have h0 := g.isLt
  have h1 := hint_code_lt h
  have h2 := consumerCode_lt c0
  refine ⟨rfl, ?_⟩
  dsimp only [Parts.imm]
  omega

theorem wr (g : BitVec 6) (c0 : Consumer) : Statement (.wr g c0) := by
  intro x h
  cases h
  have h0 := g.isLt
  have h1 := consumerCode_lt c0
  refine ⟨rfl, ?_⟩
  dsimp only [Parts.imm]
  omega

theorem rdp (k : BitVec 3) (h : Hint) (c0 : Consumer) : Statement (.rdp k h c0) := by
  intro x h
  cases h
  have h0 := k.isLt
  have h1 := hint_code_lt h
  have h2 := consumerCode_lt c0
  refine ⟨rfl, ?_⟩
  dsimp only [Parts.imm]
  omega

theorem wrp (k : BitVec 3) (c0 : Consumer) : Statement (.wrp k c0) := by
  intro x h
  cases h
  have h0 := k.isLt
  have h1 := consumerCode_lt c0
  refine ⟨rfl, ?_⟩
  dsimp only [Parts.imm]
  omega

theorem dadd (f : Fmt) (rm : Rnd) (c1 : Consumer) (c0 : Consumer) : Statement (.dadd f rm c1 c0) := by
  intro x h
  cases h
  have h0 := fmt_code_lt f
  have h1 := rnd_code_lt rm
  have h2 := consumerCode_lt c1
  have h3 := consumerCode_lt c0
  refine ⟨rfl, ?_⟩
  dsimp only [Parts.imm]
  omega

theorem dsub (f : Fmt) (rm : Rnd) (c1 : Consumer) (c0 : Consumer) : Statement (.dsub f rm c1 c0) := by
  intro x h
  cases h
  have h0 := fmt_code_lt f
  have h1 := rnd_code_lt rm
  have h2 := consumerCode_lt c1
  have h3 := consumerCode_lt c0
  refine ⟨rfl, ?_⟩
  dsimp only [Parts.imm]
  omega

theorem dmul (f : Fmt) (rm : Rnd) (c1 : Consumer) (c0 : Consumer) : Statement (.dmul f rm c1 c0) := by
  intro x h
  cases h
  have h0 := fmt_code_lt f
  have h1 := rnd_code_lt rm
  have h2 := consumerCode_lt c1
  have h3 := consumerCode_lt c0
  refine ⟨rfl, ?_⟩
  dsimp only [Parts.imm]
  omega

theorem dfma (f : Fmt) (rm : Rnd) (c1 : Consumer) (c0 : Consumer) : Statement (.dfma f rm c1 c0) := by
  intro x h
  cases h
  have h0 := fmt_code_lt f
  have h1 := rnd_code_lt rm
  have h2 := consumerCode_lt c1
  have h3 := consumerCode_lt c0
  refine ⟨rfl, ?_⟩
  dsimp only [Parts.imm]
  omega

theorem dfms (f : Fmt) (rm : Rnd) (c1 : Consumer) (c0 : Consumer) : Statement (.dfms f rm c1 c0) := by
  intro x h
  cases h
  have h0 := fmt_code_lt f
  have h1 := rnd_code_lt rm
  have h2 := consumerCode_lt c1
  have h3 := consumerCode_lt c0
  refine ⟨rfl, ?_⟩
  dsimp only [Parts.imm]
  omega

theorem dmac (f : Fmt) (acc : BitVec 2) : Statement (.dmac f acc) := by
  intro x h
  cases h
  have h0 := fmt_code_lt f
  have h1 := acc.isLt
  refine ⟨rfl, ?_⟩
  dsimp only [Parts.imm]
  omega

theorem ddiv (f : Fmt) (rm : Rnd) (c1 : Consumer) (c0 : Consumer) : Statement (.ddiv f rm c1 c0) := by
  intro x h
  cases h
  have h0 := fmt_code_lt f
  have h1 := rnd_code_lt rm
  have h2 := consumerCode_lt c1
  have h3 := consumerCode_lt c0
  refine ⟨rfl, ?_⟩
  dsimp only [Parts.imm]
  omega

theorem dsqrt (f : Fmt) (rm : Rnd) (c1 : Consumer) (c0 : Consumer) : Statement (.dsqrt f rm c1 c0) := by
  intro x h
  cases h
  have h0 := fmt_code_lt f
  have h1 := rnd_code_lt rm
  have h2 := consumerCode_lt c1
  have h3 := consumerCode_lt c0
  refine ⟨rfl, ?_⟩
  dsimp only [Parts.imm]
  omega

theorem drsqrt (f : Fmt) (rm : Rnd) (c1 : Consumer) (c0 : Consumer) : Statement (.drsqrt f rm c1 c0) := by
  intro x h
  cases h
  have h0 := fmt_code_lt f
  have h1 := rnd_code_lt rm
  have h2 := consumerCode_lt c1
  have h3 := consumerCode_lt c0
  refine ⟨rfl, ?_⟩
  dsimp only [Parts.imm]
  omega

theorem drcp (f : Fmt) (rm : Rnd) (c1 : Consumer) (c0 : Consumer) : Statement (.drcp f rm c1 c0) := by
  intro x h
  cases h
  have h0 := fmt_code_lt f
  have h1 := rnd_code_lt rm
  have h2 := consumerCode_lt c1
  have h3 := consumerCode_lt c0
  refine ⟨rfl, ?_⟩
  dsimp only [Parts.imm]
  omega

theorem dexp2 (f : Fmt) (rm : Rnd) (c1 : Consumer) (c0 : Consumer) : Statement (.dexp2 f rm c1 c0) := by
  intro x h
  cases h
  have h0 := fmt_code_lt f
  have h1 := rnd_code_lt rm
  have h2 := consumerCode_lt c1
  have h3 := consumerCode_lt c0
  refine ⟨rfl, ?_⟩
  dsimp only [Parts.imm]
  omega

theorem dlog2 (f : Fmt) (rm : Rnd) (c1 : Consumer) (c0 : Consumer) : Statement (.dlog2 f rm c1 c0) := by
  intro x h
  cases h
  have h0 := fmt_code_lt f
  have h1 := rnd_code_lt rm
  have h2 := consumerCode_lt c1
  have h3 := consumerCode_lt c0
  refine ⟨rfl, ?_⟩
  dsimp only [Parts.imm]
  omega

theorem dscale (f : Fmt) (rm : Rnd) (c1 : Consumer) (c0 : Consumer) : Statement (.dscale f rm c1 c0) := by
  intro x h
  cases h
  have h0 := fmt_code_lt f
  have h1 := rnd_code_lt rm
  have h2 := consumerCode_lt c1
  have h3 := consumerCode_lt c0
  refine ⟨rfl, ?_⟩
  dsimp only [Parts.imm]
  omega

theorem dneg (f : Fmt) (rm : Rnd) (c1 : Consumer) (c0 : Consumer) : Statement (.dneg f rm c1 c0) := by
  intro x h
  cases h
  have h0 := fmt_code_lt f
  have h1 := rnd_code_lt rm
  have h2 := consumerCode_lt c1
  have h3 := consumerCode_lt c0
  refine ⟨rfl, ?_⟩
  dsimp only [Parts.imm]
  omega

theorem dabs (f : Fmt) (rm : Rnd) (c1 : Consumer) (c0 : Consumer) : Statement (.dabs f rm c1 c0) := by
  intro x h
  cases h
  have h0 := fmt_code_lt f
  have h1 := rnd_code_lt rm
  have h2 := consumerCode_lt c1
  have h3 := consumerCode_lt c0
  refine ⟨rfl, ?_⟩
  dsimp only [Parts.imm]
  omega

theorem dcvt (f : Fmt) (rm : Rnd) (c1 : Consumer) (c0 : Consumer) : Statement (.dcvt f rm c1 c0) := by
  intro x h
  cases h
  have h0 := fmt_code_lt f
  have h1 := rnd_code_lt rm
  have h2 := consumerCode_lt c1
  have h3 := consumerCode_lt c0
  refine ⟨rfl, ?_⟩
  dsimp only [Parts.imm]
  omega

theorem dmin (f : Fmt) (rm : Rnd) (c1 : Consumer) (c0 : Consumer) : Statement (.dmin f rm c1 c0) := by
  intro x h
  cases h
  have h0 := fmt_code_lt f
  have h1 := rnd_code_lt rm
  have h2 := consumerCode_lt c1
  have h3 := consumerCode_lt c0
  refine ⟨rfl, ?_⟩
  dsimp only [Parts.imm]
  omega

theorem dmax (f : Fmt) (rm : Rnd) (c1 : Consumer) (c0 : Consumer) : Statement (.dmax f rm c1 c0) := by
  intro x h
  cases h
  have h0 := fmt_code_lt f
  have h1 := rnd_code_lt rm
  have h2 := consumerCode_lt c1
  have h3 := consumerCode_lt c0
  refine ⟨rfl, ?_⟩
  dsimp only [Parts.imm]
  omega

theorem drelu (f : Fmt) (rm : Rnd) (c1 : Consumer) (c0 : Consumer) : Statement (.drelu f rm c1 c0) := by
  intro x h
  cases h
  have h0 := fmt_code_lt f
  have h1 := rnd_code_lt rm
  have h2 := consumerCode_lt c1
  have h3 := consumerCode_lt c0
  refine ⟨rfl, ?_⟩
  dsimp only [Parts.imm]
  omega

theorem dclamp (f : Fmt) (rm : Rnd) (c1 : Consumer) (c0 : Consumer) : Statement (.dclamp f rm c1 c0) := by
  intro x h
  cases h
  have h0 := fmt_code_lt f
  have h1 := rnd_code_lt rm
  have h2 := consumerCode_lt c1
  have h3 := consumerCode_lt c0
  refine ⟨rfl, ?_⟩
  dsimp only [Parts.imm]
  omega

theorem dthr (f : Fmt) (rm : Rnd) (c1 : Consumer) (c0 : Consumer) : Statement (.dthr f rm c1 c0) := by
  intro x h
  cases h
  have h0 := fmt_code_lt f
  have h1 := rnd_code_lt rm
  have h2 := consumerCode_lt c1
  have h3 := consumerCode_lt c0
  refine ⟨rfl, ?_⟩
  dsimp only [Parts.imm]
  omega

theorem dcmp (k : Cond) (c1 : Consumer) (c0 : Consumer) : Statement (.dcmp k c1 c0) := by
  intro x h
  cases h
  have h0 := cond_code_lt k
  have h1 := consumerCode_lt c1
  have h2 := consumerCode_lt c0
  refine ⟨rfl, ?_⟩
  dsimp only [Parts.imm]
  omega

theorem dsel (f : Fmt) (rm : Rnd) (c1 : Consumer) (c0 : Consumer) : Statement (.dsel f rm c1 c0) := by
  intro x h
  cases h
  have h0 := fmt_code_lt f
  have h1 := rnd_code_lt rm
  have h2 := consumerCode_lt c1
  have h3 := consumerCode_lt c0
  refine ⟨rfl, ?_⟩
  dsimp only [Parts.imm]
  omega

theorem dkill (f : Fmt) (rm : Rnd) (c1 : Consumer) (c0 : Consumer) : Statement (.dkill f rm c1 c0) := by
  intro x h
  cases h
  have h0 := fmt_code_lt f
  have h1 := rnd_code_lt rm
  have h2 := consumerCode_lt c1
  have h3 := consumerCode_lt c0
  refine ⟨rfl, ?_⟩
  dsimp only [Parts.imm]
  omega

theorem dtrunc (f : Fmt) (rm : Rnd) (c1 : Consumer) (c0 : Consumer) : Statement (.dtrunc f rm c1 c0) := by
  intro x h
  cases h
  have h0 := fmt_code_lt f
  have h1 := rnd_code_lt rm
  have h2 := consumerCode_lt c1
  have h3 := consumerCode_lt c0
  refine ⟨rfl, ?_⟩
  dsimp only [Parts.imm]
  omega

theorem dnorm (f : Fmt) (rm : Rnd) (c1 : Consumer) (c0 : Consumer) : Statement (.dnorm f rm c1 c0) := by
  intro x h
  cases h
  have h0 := fmt_code_lt f
  have h1 := rnd_code_lt rm
  have h2 := consumerCode_lt c1
  have h3 := consumerCode_lt c0
  refine ⟨rfl, ?_⟩
  dsimp only [Parts.imm]
  omega

theorem drep (f : Fmt) (c1 : Consumer) (c0 : Consumer) : Statement (.drep f c1 c0) := by
  intro x h
  cases h
  have h0 := fmt_code_lt f
  have h1 := consumerCode_lt c1
  have h2 := consumerCode_lt c0
  refine ⟨rfl, ?_⟩
  dsimp only [Parts.imm]
  omega

theorem dxtr (f : Fmt) (rm : Rnd) (c1 : Consumer) (c0 : Consumer) : Statement (.dxtr f rm c1 c0) := by
  intro x h
  cases h
  have h0 := fmt_code_lt f
  have h1 := rnd_code_lt rm
  have h2 := consumerCode_lt c1
  have h3 := consumerCode_lt c0
  refine ⟨rfl, ?_⟩
  dsimp only [Parts.imm]
  omega

theorem dlane (f : Fmt) (rm : Rnd) (c1 : Consumer) (c0 : Consumer) : Statement (.dlane f rm c1 c0) := by
  intro x h
  cases h
  have h0 := fmt_code_lt f
  have h1 := rnd_code_lt rm
  have h2 := consumerCode_lt c1
  have h3 := consumerCode_lt c0
  refine ⟨rfl, ?_⟩
  dsimp only [Parts.imm]
  omega

theorem dshuf (f : Fmt) (rm : Rnd) (c1 : Consumer) (c0 : Consumer) : Statement (.dshuf f rm c1 c0) := by
  intro x h
  cases h
  have h0 := fmt_code_lt f
  have h1 := rnd_code_lt rm
  have h2 := consumerCode_lt c1
  have h3 := consumerCode_lt c0
  refine ⟨rfl, ?_⟩
  dsimp only [Parts.imm]
  omega

theorem drot (f : Fmt) (rm : Rnd) (c1 : Consumer) (c0 : Consumer) : Statement (.drot f rm c1 c0) := by
  intro x h
  cases h
  have h0 := fmt_code_lt f
  have h1 := rnd_code_lt rm
  have h2 := consumerCode_lt c1
  have h3 := consumerCode_lt c0
  refine ⟨rfl, ?_⟩
  dsimp only [Parts.imm]
  omega

theorem dred (f : Fmt) (rm : Rnd) (c1 : Consumer) (c0 : Consumer) : Statement (.dred f rm c1 c0) := by
  intro x h
  cases h
  have h0 := fmt_code_lt f
  have h1 := rnd_code_lt rm
  have h2 := consumerCode_lt c1
  have h3 := consumerCode_lt c0
  refine ⟨rfl, ?_⟩
  dsimp only [Parts.imm]
  omega

theorem dbcast (f : Fmt) (rm : Rnd) (c1 : Consumer) (c0 : Consumer) : Statement (.dbcast f rm c1 c0) := by
  intro x h
  cases h
  have h0 := fmt_code_lt f
  have h1 := rnd_code_lt rm
  have h2 := consumerCode_lt c1
  have h3 := consumerCode_lt c0
  refine ⟨rfl, ?_⟩
  dsimp only [Parts.imm]
  omega

theorem dacc (acc : BitVec 2) : Statement (.dacc acc) := by
  intro x h
  cases h
  have h0 := acc.isLt
  refine ⟨rfl, ?_⟩
  dsimp only [Parts.imm]
  omega

theorem daccrd (f : Fmt) (rm : Rnd) (acc : BitVec 2) (c0 : Consumer) : Statement (.daccrd f rm acc c0) := by
  intro x h
  cases h
  have h0 := fmt_code_lt f
  have h1 := rnd_code_lt rm
  have h2 := acc.isLt
  have h3 := consumerCode_lt c0
  refine ⟨rfl, ?_⟩
  dsimp only [Parts.imm]
  omega

theorem daccz (acc : BitVec 2) : Statement (.daccz acc) := by
  intro x h
  cases h
  have h0 := acc.isLt
  refine ⟨rfl, ?_⟩
  dsimp only [Parts.imm]
  omega

theorem dwst (f : Fmt) : Statement (.dwst f) := by
  intro x h
  cases h
  have h0 := fmt_code_lt f
  refine ⟨rfl, ?_⟩
  dsimp only [Parts.imm]
  omega

theorem drdv (v : BitVec 5) (h : Hint) (f : Fmt) (c0 : Consumer) : Statement (.drdv v h f c0) := by
  intro x h
  cases h
  have h0 := v.isLt
  have h1 := hint_code_lt h
  have h2 := fmt_code_lt f
  have h3 := consumerCode_lt c0
  refine ⟨rfl, ?_⟩
  dsimp only [Parts.imm]
  omega

theorem dwrv (v : BitVec 5) (f : Fmt) (rm : Rnd) (c0 : Consumer) : Statement (.dwrv v f rm c0) := by
  intro x h
  cases h
  have h0 := v.isLt
  have h1 := fmt_code_lt f
  have h2 := rnd_code_lt rm
  have h3 := consumerCode_lt c0
  refine ⟨rfl, ?_⟩
  dsimp only [Parts.imm]
  omega

theorem recv (ch : BitVec 3) (n : BitVec 6) (off : BitVec 6) (c0 : Consumer) : Statement (.recv ch n off c0) := by
  intro x h
  cases h
  have h0 := ch.isLt
  have h1 := n.isLt
  have h2 := off.isLt
  have h3 := consumerCode_lt c0
  refine ⟨rfl, ?_⟩
  dsimp only [Parts.imm]
  omega

theorem peek (ch : BitVec 3) (n : BitVec 6) (off : BitVec 6) (c0 : Consumer) : Statement (.peek ch n off c0) := by
  intro x h
  cases h
  have h0 := ch.isLt
  have h1 := n.isLt
  have h2 := off.isLt
  have h3 := consumerCode_lt c0
  refine ⟨rfl, ?_⟩
  dsimp only [Parts.imm]
  omega

theorem send (ch : BitVec 3) (n : BitVec 6) : Statement (.send ch n) := by
  intro x h
  cases h
  have h0 := ch.isLt
  have h1 := n.isLt
  refine ⟨rfl, ?_⟩
  dsimp only [Parts.imm]
  omega

theorem advc (ch : BitVec 3) (n : BitVec 6) : Statement (.advc ch n) := by
  intro x h
  cases h
  have h0 := ch.isLt
  have h1 := n.isLt
  refine ⟨rfl, ?_⟩
  dsimp only [Parts.imm]
  omega

theorem advp (ch : BitVec 3) (n : BitVec 6) : Statement (.advp ch n) := by
  intro x h
  cases h
  have h0 := ch.isLt
  have h1 := n.isLt
  refine ⟨rfl, ?_⟩
  dsimp only [Parts.imm]
  omega

theorem chst (ch : BitVec 3) (out : Bool) (c0 : Consumer) : Statement (.chst ch out c0) := by
  intro x h
  cases h
  have h0 := ch.isLt
  have h1 := bool_toNat_lt out
  have h2 := consumerCode_lt c0
  refine ⟨rfl, ?_⟩
  dsimp only [Parts.imm]
  omega

theorem agb (p : BitVec 6) : Statement (.agb p) := by
  intro x h
  cases h
  have h0 := p.isLt
  refine ⟨rfl, ?_⟩
  dsimp only [Parts.imm]
  omega

theorem agl (p : BitVec 6) (lv : BitVec 3) : Statement (.agl p lv) := by
  intro x h
  cases h
  have h0 := p.isLt
  have h1 := lv.isLt
  refine ⟨rfl, ?_⟩
  dsimp only [Parts.imm]
  omega

theorem agfmt (p : BitVec 6) (f : Fmt) : Statement (.agfmt p f) := by
  intro x h
  cases h
  have h0 := p.isLt
  have h1 := fmt_code_lt f
  refine ⟨rfl, ?_⟩
  dsimp only [Parts.imm]
  omega

theorem aggo (p : BitVec 6) (c0 : Consumer) : Statement (.aggo p c0) := by
  intro x h
  cases h
  have h0 := p.isLt
  have h1 := consumerCode_lt c0
  refine ⟨rfl, ?_⟩
  dsimp only [Parts.imm]
  omega

theorem aggat (p : BitVec 6) (f : Fmt) (c0 : Consumer) : Statement (.aggat p f c0) := by
  intro x h
  cases h
  have h0 := p.isLt
  have h1 := fmt_code_lt f
  have h2 := consumerCode_lt c0
  refine ⟨rfl, ?_⟩
  dsimp only [Parts.imm]
  omega

theorem agsct (p : BitVec 6) (f : Fmt) (c0 : Consumer) : Statement (.agsct p f c0) := by
  intro x h
  cases h
  have h0 := p.isLt
  have h1 := fmt_code_lt f
  have h2 := consumerCode_lt c0
  refine ⟨rfl, ?_⟩
  dsimp only [Parts.imm]
  omega

theorem agctr (p : BitVec 6) (lv : BitVec 3) (c0 : Consumer) : Statement (.agctr p lv c0) := by
  intro x h
  cases h
  have h0 := p.isLt
  have h1 := lv.isLt
  have h2 := consumerCode_lt c0
  refine ⟨rfl, ?_⟩
  dsimp only [Parts.imm]
  omega

theorem retry (p : BitVec 6) (c0 : Consumer) : Statement (.retry p c0) := by
  intro x h
  cases h
  have h0 := p.isLt
  have h1 := consumerCode_lt c0
  refine ⟨rfl, ?_⟩
  dsimp only [Parts.imm]
  omega

theorem lds (p : BitVec 6) (h : Hint) (f : Fmt) (c0 : Consumer) : Statement (.lds p h f c0) := by
  intro x h
  cases h
  have h0 := p.isLt
  have h1 := hint_code_lt h
  have h2 := fmt_code_lt f
  have h3 := consumerCode_lt c0
  refine ⟨rfl, ?_⟩
  dsimp only [Parts.imm]
  omega

theorem sts (p : BitVec 6) (f : Fmt) (c0 : Consumer) : Statement (.sts p f c0) := by
  intro x h
  cases h
  have h0 := p.isLt
  have h1 := fmt_code_lt f
  have h2 := consumerCode_lt c0
  refine ⟨rfl, ?_⟩
  dsimp only [Parts.imm]
  omega

theorem ldv (p : BitVec 6) (h : Hint) (f : Fmt) (c0 : Consumer) : Statement (.ldv p h f c0) := by
  intro x h
  cases h
  have h0 := p.isLt
  have h1 := hint_code_lt h
  have h2 := fmt_code_lt f
  have h3 := consumerCode_lt c0
  refine ⟨rfl, ?_⟩
  dsimp only [Parts.imm]
  omega

theorem stv (p : BitVec 6) (f : Fmt) (c0 : Consumer) : Statement (.stv p f c0) := by
  intro x h
  cases h
  have h0 := p.isLt
  have h1 := fmt_code_lt f
  have h2 := consumerCode_lt c0
  refine ⟨rfl, ?_⟩
  dsimp only [Parts.imm]
  omega

theorem reclaim (p : BitVec 6) (c0 : Consumer) : Statement (.reclaim p c0) := by
  intro x h
  cases h
  have h0 := p.isLt
  have h1 := consumerCode_lt c0
  refine ⟨rfl, ?_⟩
  dsimp only [Parts.imm]
  omega

theorem pref (p : BitVec 6) (h : Hint) (depth : BitVec 6) : Statement (.pref p h depth) := by
  intro x h
  cases h
  have h0 := p.isLt
  have h1 := hint_code_lt h
  have h2 := depth.isLt
  refine ⟨rfl, ?_⟩
  dsimp only [Parts.imm]
  omega

theorem drain (path : DrainPath) (c0 : Consumer) : Statement (.drain path c0) := by
  intro x h
  cases h
  have h0 := drainPath_code_lt path
  have h1 := consumerCode_lt c0
  refine ⟨rfl, ?_⟩
  dsimp only [Parts.imm]
  omega

theorem win (p : BitVec 6) (w : BitVec 3) (c0 : Consumer) : Statement (.win p w c0) := by
  intro x h
  cases h
  have h0 := p.isLt
  have h1 := w.isLt
  have h2 := consumerCode_lt c0
  refine ⟨rfl, ?_⟩
  dsimp only [Parts.imm]
  omega

theorem copy (p : BitVec 6) (h : Hint) (c0 : Consumer) : Statement (.copy p h c0) := by
  intro x h
  cases h
  have h0 := p.isLt
  have h1 := hint_code_lt h
  have h2 := consumerCode_lt c0
  refine ⟨rfl, ?_⟩
  dsimp only [Parts.imm]
  omega

theorem copyr (p : BitVec 6) (h : Hint) (f : Fmt) (op : RedOp) (c0 : Consumer) : Statement (.copyr p h f op c0) := by
  intro x h
  cases h
  have h0 := p.isLt
  have h1 := hint_code_lt h
  have h2 := fmt_code_lt f
  have h3 := redOp_code_lt op
  have h4 := consumerCode_lt c0
  refine ⟨rfl, ?_⟩
  dsimp only [Parts.imm]
  omega

theorem copyc (p : BitVec 6) (h : Hint) (s : BitVec 6) (c0 : Consumer) : Statement (.copyc p h s c0) := by
  intro x h
  cases h
  have h0 := p.isLt
  have h1 := hint_code_lt h
  have h2 := s.isLt
  have h3 := consumerCode_lt c0
  refine ⟨rfl, ?_⟩
  dsimp only [Parts.imm]
  omega

theorem cplw (vis : Bool) (c0 : Consumer) : Statement (.cplw vis c0) := by
  intro x h
  cases h
  have h0 := bool_toNat_lt vis
  have h1 := consumerCode_lt c0
  refine ⟨rfl, ?_⟩
  dsimp only [Parts.imm]
  omega

theorem atom (p : BitVec 6) (sc : Scope) (o : Order) (op : AtomOp) (c0 : Consumer) : Statement (.atom p sc o op c0) := by
  intro x h
  cases h
  have h0 := p.isLt
  have h1 := scope_code_lt sc
  have h2 := order_code_lt o
  have h3 := atomOp_code_lt op
  have h4 := consumerCode_lt c0
  refine ⟨rfl, ?_⟩
  dsimp only [Parts.imm]
  omega

theorem lda (p : BitVec 6) (sc : Scope) (acq : Bool) (c0 : Consumer) : Statement (.lda p sc acq c0) := by
  intro x h
  cases h
  have h0 := p.isLt
  have h1 := scope_code_lt sc
  have h2 := bool_toNat_lt acq
  have h3 := consumerCode_lt c0
  refine ⟨rfl, ?_⟩
  dsimp only [Parts.imm]
  omega

theorem stl (p : BitVec 6) (sc : Scope) (rel : Bool) (c0 : Consumer) : Statement (.stl p sc rel c0) := by
  intro x h
  cases h
  have h0 := p.isLt
  have h1 := scope_code_lt sc
  have h2 := bool_toNat_lt rel
  have h3 := consumerCode_lt c0
  refine ⟨rfl, ?_⟩
  dsimp only [Parts.imm]
  omega

theorem fence (sc : Scope) (c0 : Consumer) : Statement (.fence sc c0) := by
  intro x h
  cases h
  have h0 := scope_code_lt sc
  have h1 := consumerCode_lt c0
  refine ⟨rfl, ?_⟩
  dsimp only [Parts.imm]
  omega

theorem own (p : BitVec 6) (op : AtomOp) : Statement (.own p op) := by
  intro x h
  cases h
  have h0 := p.isLt
  have h1 := atomOp_code_lt op
  refine ⟨rfl, ?_⟩
  dsimp only [Parts.imm]
  omega

theorem upd (p : BitVec 6) : Statement (.upd p) := by
  intro x h
  cases h
  have h0 := p.isLt
  refine ⟨rfl, ?_⟩
  dsimp only [Parts.imm]
  omega

theorem arrive (sc : Scope) (rel : Bool) (c0 : Consumer) : Statement (.arrive sc rel c0) := by
  intro x h
  cases h
  have h0 := scope_code_lt sc
  have h1 := bool_toNat_lt rel
  have h2 := consumerCode_lt c0
  refine ⟨rfl, ?_⟩
  dsimp only [Parts.imm]
  omega

theorem waitg (sc : Scope) (acq : Bool) (c0 : Consumer) : Statement (.waitg sc acq c0) := by
  intro x h
  cases h
  have h0 := scope_code_lt sc
  have h1 := bool_toNat_lt acq
  have h2 := consumerCode_lt c0
  refine ⟨rfl, ?_⟩
  dsimp only [Parts.imm]
  omega

theorem bar (sc : Scope) (ar : Bool) (c0 : Consumer) : Statement (.bar sc ar c0) := by
  intro x h
  cases h
  have h0 := scope_code_lt sc
  have h1 := bool_toNat_lt ar
  have h2 := consumerCode_lt c0
  refine ⟨rfl, ?_⟩
  dsimp only [Parts.imm]
  split <;> omega

theorem quiet (sc : Scope) (c0 : Consumer) : Statement (.quiet sc c0) := by
  intro x h
  cases h
  have h0 := scope_code_lt sc
  have h1 := consumerCode_lt c0
  refine ⟨rfl, ?_⟩
  dsimp only [Parts.imm]
  omega

theorem lift : Statement (.lift) := by
  intro x h
  cases h
  refine ⟨rfl, ?_⟩
  dsimp only [Parts.imm]
  omega

theorem seamoPush (p : BitVec 6) (rel : Bool) (c0 : Consumer) : Statement (.seamoPush p rel c0) := by
  intro x h
  cases h
  have h0 := p.isLt
  have h1 := bool_toNat_lt rel
  have h2 := consumerCode_lt c0
  refine ⟨rfl, ?_⟩
  dsimp only [Parts.imm]
  omega

theorem seamoPop (p : BitVec 6) (acq : Bool) (c0 : Consumer) : Statement (.seamoPop p acq c0) := by
  intro x h
  cases h
  have h0 := p.isLt
  have h1 := bool_toNat_lt acq
  have h2 := consumerCode_lt c0
  refine ⟨rfl, ?_⟩
  dsimp only [Parts.imm]
  omega

theorem seamoStatus (p : BitVec 6) (c0 : Consumer) : Statement (.seamoStatus p c0) := by
  intro x h
  cases h
  have h0 := p.isLt
  have h1 := consumerCode_lt c0
  refine ⟨rfl, ?_⟩
  dsimp only [Parts.imm]
  omega

theorem coll (f : Fmt) (op : RedOp) (sc : Scope) (kind : CollKind) (c0 : Consumer) : Statement (.coll f op sc kind c0) := by
  intro x h
  cases h
  have h0 := fmt_code_lt f
  have h1 := redOp_code_lt op
  have h2 := scope_code_lt sc
  have h3 := collKind_code_lt kind
  have h4 := consumerCode_lt c0
  refine ⟨rfl, ?_⟩
  dsimp only [Parts.imm]
  omega

theorem wqadd (p : BitVec 6) (sc : Scope) (rel : Bool) (c0 : Consumer) : Statement (.wqadd p sc rel c0) := by
  intro x h
  cases h
  have h0 := p.isLt
  have h1 := scope_code_lt sc
  have h2 := bool_toNat_lt rel
  have h3 := consumerCode_lt c0
  refine ⟨rfl, ?_⟩
  dsimp only [Parts.imm]
  omega

theorem wqtake (p : BitVec 6) (sc : Scope) (acq : Bool) (c0 : Consumer) : Statement (.wqtake p sc acq c0) := by
  intro x h
  cases h
  have h0 := p.isLt
  have h1 := scope_code_lt sc
  have h2 := bool_toNat_lt acq
  have h3 := consumerCode_lt c0
  refine ⟨rfl, ?_⟩
  dsimp only [Parts.imm]
  omega

theorem wqclose (p : BitVec 6) (sc : Scope) (rel : Bool) (c0 : Consumer) : Statement (.wqclose p sc rel c0) := by
  intro x h
  cases h
  have h0 := p.isLt
  have h1 := scope_code_lt sc
  have h2 := bool_toNat_lt rel
  have h3 := consumerCode_lt c0
  refine ⟨rfl, ?_⟩
  dsimp only [Parts.imm]
  omega

theorem cmdMatrix (rel : Bool) (c0 : Consumer) : Statement (.cmdMatrix rel c0) := by
  intro x h
  cases h
  have h0 := bool_toNat_lt rel
  have h1 := consumerCode_lt c0
  refine ⟨rfl, ?_⟩
  dsimp only [Parts.imm]
  omega

theorem cmdBulk (rel : Bool) (c0 : Consumer) : Statement (.cmdBulk rel c0) := by
  intro x h
  cases h
  have h0 := bool_toNat_lt rel
  have h1 := consumerCode_lt c0
  refine ⟨rfl, ?_⟩
  dsimp only [Parts.imm]
  omega

theorem cmdCollective (rel : Bool) (c0 : Consumer) : Statement (.cmdCollective rel c0) := by
  intro x h
  cases h
  have h0 := bool_toNat_lt rel
  have h1 := consumerCode_lt c0
  refine ⟨rfl, ?_⟩
  dsimp only [Parts.imm]
  omega

theorem cmdLift (rel : Bool) (c0 : Consumer) : Statement (.cmdLift rel c0) := by
  intro x h
  cases h
  have h0 := bool_toNat_lt rel
  have h1 := consumerCode_lt c0
  refine ⟨rfl, ?_⟩
  dsimp only [Parts.imm]
  omega

theorem cmdChild (rel : Bool) (c0 : Consumer) : Statement (.cmdChild rel c0) := by
  intro x h
  cases h
  have h0 := bool_toNat_lt rel
  have h1 := consumerCode_lt c0
  refine ⟨rfl, ?_⟩
  dsimp only [Parts.imm]
  omega

theorem cmdwait (sc : Scope) (acq : Bool) (c0 : Consumer) : Statement (.cmdwait sc acq c0) := by
  intro x h
  cases h
  have h0 := scope_code_lt sc
  have h1 := bool_toNat_lt acq
  have h2 := consumerCode_lt c0
  refine ⟨rfl, ?_⟩
  dsimp only [Parts.imm]
  omega

theorem egress (p : BitVec 6) (rel : Bool) (c0 : Consumer) : Statement (.egress p rel c0) := by
  intro x h
  cases h
  have h0 := p.isLt
  have h1 := bool_toNat_lt rel
  have h2 := consumerCode_lt c0
  refine ⟨rfl, ?_⟩
  dsimp only [Parts.imm]
  omega

theorem ingress (p : BitVec 6) (acq : Bool) (c0 : Consumer) : Statement (.ingress p acq c0) := by
  intro x h
  cases h
  have h0 := p.isLt
  have h1 := bool_toNat_lt acq
  have h2 := consumerCode_lt c0
  refine ⟨rfl, ?_⟩
  dsimp only [Parts.imm]
  omega

theorem syscfg (p : BitVec 6) (f : Fmt) (c0 : Consumer) : Statement (.syscfg p f c0) := by
  intro x h
  cases h
  have h0 := p.isLt
  have h1 := fmt_code_lt f
  have h2 := consumerCode_lt c0
  refine ⟨rfl, ?_⟩
  dsimp only [Parts.imm]
  omega

theorem mma (p : BitVec 6) (acc : BitVec 2) (f : Fmt) (rm : Rnd) (c0 : Consumer) : Statement (.mma p acc f rm c0) := by
  intro x h
  cases h
  have h0 := p.isLt
  have h1 := acc.isLt
  have h2 := fmt_code_lt f
  have h3 := rnd_code_lt rm
  have h4 := consumerCode_lt c0
  refine ⟨rfl, ?_⟩
  dsimp only [Parts.imm]
  omega

theorem mmasp (p : BitVec 6) (acc : BitVec 2) (f : Fmt) (rm : Rnd) (c0 : Consumer) : Statement (.mmasp p acc f rm c0) := by
  intro x h
  cases h
  have h0 := p.isLt
  have h1 := acc.isLt
  have h2 := fmt_code_lt f
  have h3 := rnd_code_lt rm
  have h4 := consumerCode_lt c0
  refine ⟨rfl, ?_⟩
  dsimp only [Parts.imm]
  omega

theorem mmarow (p : BitVec 6) (acc : BitVec 2) (f : Fmt) (rm : Rnd) (c0 : Consumer) : Statement (.mmarow p acc f rm c0) := by
  intro x h
  cases h
  have h0 := p.isLt
  have h1 := acc.isLt
  have h2 := fmt_code_lt f
  have h3 := rnd_code_lt rm
  have h4 := consumerCode_lt c0
  refine ⟨rfl, ?_⟩
  dsimp only [Parts.imm]
  omega

theorem wedge (c0 : Consumer) : Statement (.wedge c0) := by
  intro x h
  cases h
  have h0 := consumerCode_lt c0
  refine ⟨rfl, ?_⟩
  dsimp only [Parts.imm]
  omega

theorem prune (p : BitVec 6) (f : Fmt) (t : Bool) (c0 : Consumer) : Statement (.prune p f t c0) := by
  intro x h
  cases h
  have h0 := p.isLt
  have h1 := fmt_code_lt f
  have h2 := bool_toNat_lt t
  have h3 := consumerCode_lt c0
  refine ⟨rfl, ?_⟩
  dsimp only [Parts.imm]
  omega

theorem nmhdr (p : BitVec 6) (c0 : Consumer) : Statement (.nmhdr p c0) := by
  intro x h
  cases h
  have h0 := p.isLt
  have h1 := consumerCode_lt c0
  refine ⟨rfl, ?_⟩
  dsimp only [Parts.imm]
  omega

theorem nmchk (p : BitVec 6) (c0 : Consumer) : Statement (.nmchk p c0) := by
  intro x h
  cases h
  have h0 := p.isLt
  have h1 := consumerCode_lt c0
  refine ⟨rfl, ?_⟩
  dsimp only [Parts.imm]
  omega

theorem nmest (p : BitVec 6) (c0 : Consumer) : Statement (.nmest p c0) := by
  intro x h
  cases h
  have h0 := p.isLt
  have h1 := consumerCode_lt c0
  refine ⟨rfl, ?_⟩
  dsimp only [Parts.imm]
  omega

theorem scana (p : BitVec 6) (tree : Bool) (c0 : Consumer) : Statement (.scana p tree c0) := by
  intro x h
  cases h
  have h0 := p.isLt
  have h1 := bool_toNat_lt tree
  have h2 := consumerCode_lt c0
  refine ⟨rfl, ?_⟩
  dsimp only [Parts.imm]
  omega

theorem scano (p : BitVec 6) (tree : Bool) (c0 : Consumer) : Statement (.scano p tree c0) := by
  intro x h
  cases h
  have h0 := p.isLt
  have h1 := bool_toNat_lt tree
  have h2 := consumerCode_lt c0
  refine ⟨rfl, ?_⟩
  dsimp only [Parts.imm]
  omega

theorem isld (p : BitVec 6) (cam : BitVec 6) (c0 : Consumer) : Statement (.isld p cam c0) := by
  intro x h
  cases h
  have h0 := p.isLt
  have h1 := cam.isLt
  have h2 := consumerCode_lt c0
  refine ⟨rfl, ?_⟩
  dsimp only [Parts.imm]
  omega

theorem isprb (p : BitVec 6) (cam : BitVec 6) (c0 : Consumer) : Statement (.isprb p cam c0) := by
  intro x h
  cases h
  have h0 := p.isLt
  have h1 := cam.isLt
  have h2 := consumerCode_lt c0
  refine ⟨rfl, ?_⟩
  dsimp only [Parts.imm]
  omega

theorem union (p : BitVec 6) (c0 : Consumer) : Statement (.union p c0) := by
  intro x h
  cases h
  have h0 := p.isLt
  have h1 := consumerCode_lt c0
  refine ⟨rfl, ?_⟩
  dsimp only [Parts.imm]
  omega

theorem mergek (p : BitVec 6) (f : Fmt) (c0 : Consumer) : Statement (.mergek p f c0) := by
  intro x h
  cases h
  have h0 := p.isLt
  have h1 := fmt_code_lt f
  have h2 := consumerCode_lt c0
  refine ⟨rfl, ?_⟩
  dsimp only [Parts.imm]
  omega

theorem fibh (p : BitVec 6) (c0 : Consumer) : Statement (.fibh p c0) := by
  intro x h
  cases h
  have h0 := p.isLt
  have h1 := consumerCode_lt c0
  refine ⟨rfl, ?_⟩
  dsimp only [Parts.imm]
  omega

theorem trap (code : BitVec 8) : Statement (.trap code) := by
  intro x h
  cases h
  have h0 := code.isLt
  refine ⟨rfl, ?_⟩
  dsimp only [Parts.imm]
  omega

theorem halt : Statement (.halt) := by
  intro x h
  cases h
  refine ⟨rfl, ?_⟩
  dsimp only [Parts.imm]
  omega

theorem srd (n : BitVec 12) (c0 : Consumer) : Statement (.srd n c0) := by
  intro x h
  cases h
  have h0 := n.isLt
  have h1 := consumerCode_lt c0
  refine ⟨rfl, ?_⟩
  dsimp only [Parts.imm]
  omega

theorem swr (n : BitVec 12) (c0 : Consumer) : Statement (.swr n c0) := by
  intro x h
  cases h
  have h0 := n.isLt
  have h1 := consumerCode_lt c0
  refine ⟨rfl, ?_⟩
  dsimp only [Parts.imm]
  omega

theorem ptst (c1 : Consumer) (c0 : Consumer) : Statement (.ptst c1 c0) := by
  intro x h
  cases h
  have h0 := consumerCode_lt c1
  have h1 := consumerCode_lt c0
  refine ⟨rfl, ?_⟩
  dsimp only [Parts.imm]
  omega

theorem pclr (c1 : Consumer) (c0 : Consumer) : Statement (.pclr c1 c0) := by
  intro x h
  cases h
  have h0 := consumerCode_lt c1
  have h1 := consumerCode_lt c0
  refine ⟨rfl, ?_⟩
  dsimp only [Parts.imm]
  omega

theorem excrd (c1 : Consumer) (c0 : Consumer) : Statement (.excrd c1 c0) := by
  intro x h
  cases h
  have h0 := consumerCode_lt c1
  have h1 := consumerCode_lt c0
  refine ⟨rfl, ?_⟩
  dsimp only [Parts.imm]
  omega

theorem bankk (g : BitVec 6) (file : BankFile) (c0 : Consumer) : Statement (.bankk g file c0) := by
  intro x h
  cases h
  have h0 := g.isLt
  have h1 := bankFile_code_lt file
  have h2 := consumerCode_lt c0
  refine ⟨rfl, ?_⟩
  dsimp only [Parts.imm]
  omega

theorem banko (g : BitVec 6) (file : BankFile) (c0 : Consumer) : Statement (.banko g file c0) := by
  intro x h
  cases h
  have h0 := g.isLt
  have h1 := bankFile_code_lt file
  have h2 := consumerCode_lt c0
  refine ⟨rfl, ?_⟩
  dsimp only [Parts.imm]
  omega

theorem bankw (g : BitVec 6) (file : BankFile) (c0 : Consumer) : Statement (.bankw g file c0) := by
  intro x h
  cases h
  have h0 := g.isLt
  have h1 := bankFile_code_lt file
  have h2 := consumerCode_lt c0
  refine ⟨rfl, ?_⟩
  dsimp only [Parts.imm]
  omega

theorem tlbinv (sys : Bool) (c0 : Consumer) : Statement (.tlbinv sys c0) := by
  intro x h
  cases h
  have h0 := bool_toNat_lt sys
  have h1 := consumerCode_lt c0
  refine ⟨rfl, ?_⟩
  dsimp only [Parts.imm]
  split <;> omega

theorem perf (n : BitVec 8) (c0 : Consumer) : Statement (.perf n c0) := by
  intro x h
  cases h
  have h0 := n.isLt
  have h1 := consumerCode_lt c0
  refine ⟨rfl, ?_⟩
  dsimp only [Parts.imm]
  omega

theorem cyc (c1 : Consumer) (c0 : Consumer) : Statement (.cyc c1 c0) := by
  intro x h
  cases h
  have h0 := consumerCode_lt c1
  have h1 := consumerCode_lt c0
  refine ⟨rfl, ?_⟩
  dsimp only [Parts.imm]
  omega

theorem fend : Statement (.fend) := by
  intro x h
  cases h
  refine ⟨rfl, ?_⟩
  dsimp only [Parts.imm]
  omega

theorem launchToken (v : Word) : Statement (.launchToken v) := by
  intro x h; cases h

theorem hostRegisterWrite (page : Nat) (off : Nat) (v : DWord) : Statement (.hostRegisterWrite page off v) := by
  intro x h; cases h

theorem ingToken (port : BitVec 6) (v : Word) : Statement (.ingToken port v) := by
  intro x h; cases h

theorem egDataRead (port : BitVec 6) : Statement (.egDataRead port) := by
  intro x h; cases h

theorem ownerWrite (port : BitVec 6) (v : Word) : Statement (.ownerWrite port v) := by
  intro x h; cases h

theorem rcvGo : Statement (.rcvGo) := by
  intro x h; cases h

theorem hostMemoryRead (off : Nat) (n : Nat) : Statement (.hostMemoryRead off n) := by
  intro x h; cases h

theorem hostMemoryWrite (off : Nat) (bytes : List Byte) : Statement (.hostMemoryWrite off bytes) := by
  intro x h; cases h

theorem launchDispatch : Statement (.launchDispatch) := by
  intro x h; cases h

theorem regionGrant (k : Nat) : Statement (.regionGrant k) := by
  intro x h; cases h

theorem seedInject (rid : Nat) : Statement (.seedInject rid) := by
  intro x h; cases h

theorem preload (rid : Nat) (lift : Nat) (var : Nat) : Statement (.preload rid lift var) := by
  intro x h; cases h

theorem firingStart (cell : Nat) (ctx : Nat) : Statement (.firingStart cell ctx) := by
  intro x h; cases h

theorem firingEnd (cell : Nat) (ctx : Nat) : Statement (.firingEnd cell ctx) := by
  intro x h; cases h

theorem tokenArrive (k : Nat) : Statement (.tokenArrive k) := by
  intro x h; cases h

theorem divideComplete (cell : Nat) (pe : Nat) : Statement (.divideComplete cell pe) := by
  intro x h; cases h

theorem ageCounterExpiry (cell : Nat) (pe : Nat) (slot : Nat) : Statement (.ageCounterExpiry cell pe slot) := by
  intro x h; cases h

theorem benchClockStop (bench : Nat) : Statement (.benchClockStop bench) := by
  intro x h; cases h

theorem bankIdleTimeout (cell : Nat) (bank : Nat) : Statement (.bankIdleTimeout cell bank) := by
  intro x h; cases h

theorem bankWakeDone (cell : Nat) (bank : Nat) : Statement (.bankWakeDone cell bank) := by
  intro x h; cases h

theorem spadBankIdleTimeout (bank : Nat) : Statement (.spadBankIdleTimeout bank) := by
  intro x h; cases h

theorem spadBankWakeDone (bank : Nat) : Statement (.spadBankWakeDone bank) := by
  intro x h; cases h

theorem spallArrive (k : Nat) : Statement (.spallArrive k) := by
  intro x h; cases h

theorem memoryReply (cell : Nat) (port : Nat) (k : Nat) : Statement (.memoryReply cell port k) := by
  intro x h; cases h

theorem pageWalk (cell : Nat) (port : Nat) (k : Nat) : Statement (.pageWalk cell port k) := by
  intro x h; cases h

theorem atomicUnitApply (cell : Nat) (port : Nat) (k : Nat) : Statement (.atomicUnitApply cell port k) := by
  intro x h; cases h

theorem copyrLineUpdate (cell : Nat) (slot : Nat) : Statement (.copyrLineUpdate cell slot) := by
  intro x h; cases h

theorem copySrcComplete (cell : Nat) (slot : Nat) : Statement (.copySrcComplete cell slot) := by
  intro x h; cases h

theorem copyVisComplete (cell : Nat) (slot : Nat) : Statement (.copyVisComplete cell slot) := by
  intro x h; cases h

theorem commandIssue (slot : Nat) : Statement (.commandIssue slot) := by
  intro x h; cases h

theorem commandRetire (slot : Nat) : Statement (.commandRetire slot) := by
  intro x h; cases h

theorem matrixOpStart (rid : Nat) (sr : Nat) : Statement (.matrixOpStart rid sr) := by
  intro x h; cases h

theorem matrixOpComplete (rid : Nat) (sr : Nat) : Statement (.matrixOpComplete rid sr) := by
  intro x h; cases h

theorem collComplete (k : Nat) : Statement (.collComplete k) := by
  intro x h; cases h

theorem seamRemoteEntry (ctx : Nat) (seam : Nat) (entry : DWord) (marks : Option Word × Option Word) : Statement (.seamRemoteEntry ctx seam entry marks) := by
  intro x h; cases h

theorem phaseNotify (rid : Nat) (gid : Nat) (cell : Nat) : Statement (.phaseNotify rid gid cell) := by
  intro x h; cases h

theorem updApply (rid : Nat) : Statement (.updApply rid) := by
  intro x h; cases h

theorem workQueueApply (q : Nat) : Statement (.workQueueApply q) := by
  intro x h; cases h

theorem drainedReport (rid : Nat) : Statement (.drainedReport rid) := by
  intro x h; cases h

theorem liftWedge (rid : Nat) : Statement (.liftWedge rid) := by
  intro x h; cases h

theorem contextRetire (ctx : Nat) : Statement (.contextRetire ctx) := by
  intro x h; cases h

theorem hangLimitExpiry (rid : Nat) : Statement (.hangLimitExpiry rid) := by
  intro x h; cases h

theorem faultHoldExpiry (rid : Nat) : Statement (.faultHoldExpiry rid) := by
  intro x h; cases h

theorem switchGraceExpiry (rid : Nat) : Statement (.switchGraceExpiry rid) := by
  intro x h; cases h

theorem tswAtReached : Statement (.tswAtReached) := by
  intro x h; cases h

theorem tswCtlWrite (v : Word) : Statement (.tswCtlWrite v) := by
  intro x h; cases h

theorem resumeWrite (v : Word) : Statement (.resumeWrite v) := by
  intro x h; cases h

theorem fltCauseClear (cell : Nat) : Statement (.fltCauseClear cell) := by
  intro x h; cases h

theorem switchPoint (rid : Nat) : Statement (.switchPoint rid) := by
  intro x h; cases h

theorem park (rid : Nat) : Statement (.park rid) := by
  intro x h; cases h

theorem regionResume (k : Nat) : Statement (.regionResume k) := by
  intro x h; cases h

theorem softError (e : SoftError) : Statement (.softError e) := by
  intro x h; cases h

theorem deviceStart (d2d : Bool) (dram : Bool) (fuse : Bool) : Statement (.deviceStart d2d dram fuse) := by
  intro x h; cases h

theorem firmwareReady : Statement (.firmwareReady) := by
  intro x h; cases h

theorem readyTimeout : Statement (.readyTimeout) := by
  intro x h; cases h

theorem recoveryTimeout : Statement (.recoveryTimeout) := by
  intro x h; cases h

theorem droopTrip (bench : Nat) : Statement (.droopTrip bench) := by
  intro x h; cases h

theorem droopRelease (bench : Nat) : Statement (.droopRelease bench) := by
  intro x h; cases h

theorem currentCeilingTrip : Statement (.currentCeilingTrip) := by
  intro x h; cases h

theorem currentCeilingRelease : Statement (.currentCeilingRelease) := by
  intro x h; cases h

theorem thermalTrip : Statement (.thermalTrip) := by
  intro x h; cases h

theorem thermalRelease : Statement (.thermalRelease) := by
  intro x h; cases h

theorem watchdogExpiry : Statement (.watchdogExpiry) := by
  intro x h; cases h

theorem budgetChange (watts : Nat) : Statement (.budgetChange watts) := by
  intro x h; cases h

theorem modCap (v : BitVec 16) : Statement (.modCap v) := by
  intro x h; cases h

theorem dbgReq (v : Word) : Statement (.dbgReq v) := by
  intro x h; cases h

theorem sidebandRegisterWrite (reg : Nat) (index : Nat) (v : Word) : Statement (.sidebandRegisterWrite reg index v) := by
  intro x h; cases h

theorem firmwareUpdate (image : List Byte) : Statement (.firmwareUpdate image) := by
  intro x h; cases h

theorem attestationQuote (nonce : List Byte) : Statement (.attestationQuote nonce) := by
  intro x h; cases h

theorem returnCommand (cmd : List Byte) : Statement (.returnCommand cmd) := by
  intro x h; cases h

theorem debugRead (q : DebugReq) : Statement (.debugRead q) := by
  intro x h; cases h

theorem sidebandWake : Statement (.sidebandWake) := by
  intro x h; cases h

theorem i3cAddressTimeout : Statement (.i3cAddressTimeout) := by
  intro x h; cases h

theorem firmwareFailureReport : Statement (.firmwareFailureReport) := by
  intro x h; cases h

theorem packageSleepEntry : Statement (.packageSleepEntry) := by
  intro x h; cases h

theorem supplyLoss : Statement (.supplyLoss) := by
  intro x h; cases h

theorem tlbinvRemoteBroadcast (ctl : Word) (va : DWord) : Statement (.tlbinvRemoteBroadcast ctl va) := by
  intro x h; cases h

end Opcode

end Sys2Proof.Laws
end

