-- ==== Sys2Proof/Laws/Quiet.lean ====
section
/-! SUPPORT. That nothing but tokens, counters and energy changes: kept by issues, reservations, emissions and counts. -/

namespace Sys2Proof.Machine

theorem quiet_refl (s : State) : Quiet s s := by
  refine ⟨rfl, rfl, ⟨fun a => rfl, rfl, rfl, rfl, rfl⟩, ⟨⟨fun _ => rfl, rfl⟩, ?_⟩⟩
  simp

theorem State.ctxRegs_congr (s t : State) (h : t.ctxs = s.ctxs) (k : Nat) : t.ctxRegs k = s.ctxRegs k := by
  unfold State.ctxRegs; rw [h]

theorem quiet_took (s : State) (i : Instr) : Quiet s (s.took s.site i) := by
  refine ⟨State.took_cells_map s _ i _ (fun c => by simp), State.took_cells_map s _ i _ (fun c => by simp), ⟨fun a => rfl, rfl, rfl, rfl, rfl⟩,
    ⟨⟨fun k => State.ctxRegs_congr _ _ rfl k, rfl⟩, ?_⟩⟩
  simp

theorem quiet_of {s t u : State} (h : Quiet s t) (hc : u.cells.map Cell.held = t.cells.map Cell.held)
    (hch : u.cells.map Cell.channels = t.cells.map Cell.channels) (hm : u.mem = t.mem)
    (hctx : u.ctxs = t.ctxs) (hd : u.dev = t.dev) (h1 : u.cycle = t.cycle) (h2 : u.regions = t.regions) (h3 : u.hostPorts = t.hostPorts)
    (h4 : u.cmds = t.cmds) (h5 : u.queues = t.queues) (h6 : u.seams = t.seams) (h7 : u.colls = t.colls) (h8 : u.parked = t.parked)
    (h9 : u.launchQ = t.launchQ) (h10 : u.launches = t.launches) (h11 : u.boot = t.boot) (h12 : u.benches = t.benches)
    (h13 : u.outbox = t.outbox) (h14 : u.msix = t.msix) (h15 : u.chanMsgs = t.chanMsgs) (h16 : u.pend = t.pend) (h17 : u.logQ = t.logQ) (h18 : u.hostOps = t.hostOps)
    (h19 : u.drops = t.drops) : Quiet s u := by
  obtain ⟨a, b, ⟨c1, c2, c3, c4, c5⟩, ⟨d1, d2⟩, e⟩ := h
  refine ⟨hc.trans a, hch.trans b, ⟨fun x => by rw [hm, c1], by rw [hm, c2], by rw [hm, c3], by rw [hm, c4], by rw [hm, c5]⟩,
    ⟨fun k => by rw [← d1 k]; exact State.ctxRegs_congr _ _ hctx k, by rw [hd, d2]⟩, ?_⟩
  rw [h1, h2, h3, h4, h5, h6, h7, h8, h9, h10, h11, h12, h13, h14, h15, h16, h17, h18, h19]
  exact e

theorem quiet_emit {s t : State} (h : Quiet s t) (u : Site) (c : Consumer) (k : Tok) : Quiet s (t.emit u c k) :=
  quiet_of h (State.emit_cells _ _ _ _ _ blockFree_held) (State.emit_cells _ _ _ _ _ blockFree_channels)
    (by simp) (by simp) (by simp) (by simp) (by simp) (by simp) (by simp) (by simp) (by simp) (by simp) (by simp) (by simp) (by simp) (by simp) (by simp) (by simp) (by simp) (by simp) (by simp) (by simp) (by simp) (by simp)

theorem quiet_emitAll {s t : State} (h : Quiet s t) (u : Site) (c : List Consumer) (k : Tok) : Quiet s (t.emitAll u c k) :=
  quiet_of h (State.emitAll_cells _ _ _ _ _ blockFree_held) (State.emitAll_cells _ _ _ _ _ blockFree_channels)
    (by simp) (by simp) (by simp) (by simp) (by simp) (by simp) (by simp) (by simp) (by simp) (by simp) (by simp) (by simp) (by simp) (by simp) (by simp) (by simp) (by simp) (by simp) (by simp) (by simp) (by simp) (by simp)

theorem quiet_updCell {s t : State} (h : Quiet s t) (n : Nat) (f : Cell → Cell) (h1 : ∀ c, (f c).held = c.held) (h2 : ∀ c, (f c).channels = c.channels) :
    Quiet s (t.updCell n f) :=
  quiet_of h (State.cells_map_updCell _ _ _ _ h1) (State.cells_map_updCell _ _ _ _ h2)
    rfl rfl rfl rfl rfl rfl rfl rfl rfl rfl rfl rfl rfl rfl rfl rfl rfl rfl rfl rfl rfl rfl

theorem quiet_updSlot {s t : State} (h : Quiet s t) (u : Site) (f : Slot → Slot) : Quiet s (t.updSlot u f) :=
  quiet_updCell h _ _ (fun _ => rfl) (fun c => Cell.updBlock_channels c _ _ (fun _ => rfl))

theorem quiet_count {s t : State} (h : Quiet s t) (n k : Nat) (v : Word) : Quiet s (t.count n k v) :=
  quiet_updCell h _ _ (fun c => Cell.count_held c _ _) (fun c => Cell.count_channels c _ _)

theorem quiet_updPe {s t : State} (h : Quiet s t) (n k : Nat) (f : Pe → Pe) (h1 : ∀ p, (f p).acc = p.acc)
    (h2 : ∀ p, ((f p).cur, (f p).shadow, (f p).stored) = (p.cur, p.shadow, p.stored)) : Quiet s (t.updCell n (fun c => c.updPe k f)) :=
  quiet_updCell h _ _ (fun c => Cell.updPe_held c k f h1 h2) (fun _ => rfl)

theorem quiet_reserveAll {s t : State} (h : Quiet s t) (u : Site) (e : Emits) : Quiet s (t.reserveAll u e) := by
  refine quiet_updCell h _ _ (fun _ => rfl) (fun c => Cell.updBlock_channels c _ _ (fun b => ?_))
  induction e generalizing b with
  | nil => rfl
  | cons x e ih => rw [List.foldl_cons, ih]; simp

theorem quiet_send {s t : State} (h : Quiet s t) (u : Site) (c : Consumer) (k : Tok) (n : Nat) : Quiet s (t.send u c k n) :=
  quiet_of h (by simp) (by simp)
    (by simp) (by simp) (by simp) (by simp) (by simp) (by simp) (by simp) (by simp) (by simp) (by simp) (by simp) (by simp) (by simp) (by simp) (by simp) (by simp) (by simp) (by simp) (by simp) (by simp) (by simp) (by simp)

theorem quiet_runAlu {i : Instr} {s t : State} {f : Word → Word → Word → Word} (he : exec i s = runAlu i s f) (h : s.goes i)
    (ht : exec i s = .next t) : Quiet s t := by
  rw [he] at ht; unfold runAlu at ht; rw [issueCtl_goes h] at ht
  cases ht
  exact quiet_emitAll (quiet_took s i) _ _ _

end Sys2Proof.Machine
end

