-- ==== Sys2Proof/Tests/Slice0.lean ====
section
/-! SUPPORT. Tests: words written out from the encoding tables, ill-formed terms that the checks refuse, results worked by hand from the rules,
and for each obligation a state that meets the hypotheses of each of its clauses. -/

set_option Elab.async false

namespace Sys2Proof.Tests

open Sys2Proof Sys2Proof.Machine

/-! States to test on. -/

/-- An engine agent of the site at slot 1, without a port. -/
def engine : Eng := ⟨⟨0, 0, 1⟩, 0, 0, 0, 0, none, none, false, false, false, 0, none, none, none⟩

/-- A state in which an instruction stands at the site: every operand field holds three tokens of 0 and a number of zeros. -/
def sample (i : Instr) : State :=
  { State.reset.place ((encode i).getD 0) i with agenda := [], site := ⟨0, 0, if i.dataPlane then 0 else 1⟩ }

/-- Tokens without a mark. -/
def toks (l : List Word) : FieldQ := ⟨l.map (fun (w : Word) => ⟨w, none⟩), 0, []⟩

/-- The sample of an instruction with these tokens in l, r and p. -/
def fed (i : Instr) (l r p : List Word) : State :=
  (sample i).updSlot (sample i).site (fun (sl : Slot) => { sl with l := toks l, r := toks r, p := toks p })

/-- The sample of an instruction, changed. -/
def withCell (s : State) (f : Cell → Cell) : State := s.updCell 0 f

def withBlock (s : State) (f : Block → Block) : State := s.updBlock s.site f

/-- Whether the cell, the block or the region of the site is there and a test holds of it. -/
def onCell (s : State) (p : Cell → Bool) : Bool := (s.cell? s.site.cell).any p

def onBlock (s : State) (p : Block → Bool) : Bool := (s.block? s.site).any p

def onRegion (s : State) (p : Region → Bool) : Bool := (s.region? 0).any p

/-- The state after an instruction has run at its site. -/
def after (i : Instr) (s : State) : State :=
  match exec i s with
  | .next t => t
  | .fault _ | .refused _ => s

/-- The tokens on their way after an instruction has run. -/
def sent (i : Instr) (s : State) : List Word := (after i s).flight.map (fun (f : Flight) => f.tok.v)

/-- The consumer slot of the instruction at index 2 of the block. -/
def c2 : Consumer := some ⟨.l, 2⟩

/-- Whether each instruction issues in its own sample. -/
def allGo (l : List Instr) : Bool := l.all (fun i => decide ((sample i).goes i))

def allGo0 (l : List Instr) : Bool := l.all (fun i => decide ((sample i).goes0 i))

/-! Decoding: words written out from the formats of R27 and the rows of R35 to R40. -/

theorem test_decode_control : decodeWord 0x28028903 = .ok (.steer (some ⟨.r, 4⟩) (some ⟨.l, 3⟩)) ∧ decodeWord 0x05FFFF03 = .ok (.addi 0x7FFF (some ⟨.l, 3⟩)) ∧
    decodeWord 0x38950102 = .ok (.rd 37 .last (some ⟨.l, 2⟩)) ∧ decodeWord 0x3B1C0101 = .ok (.wrp 7 (some ⟨.l, 1⟩)) := by decide

theorem test_decode_data : decodeWord 0x42300104 = .ok (.dmul .e4m3 .rne none (some ⟨.l, 4⟩)) ∧
    decodeWord 0x438E11C4 = .ok (.dfma .x .rup (some ⟨.l, 8⟩) (some ⟨.a, 4⟩)) ∧ decodeWord 0x45900600 = .ok (.dmac .int8 3) ∧
    decodeWord 0x55E00180 = .ok (.dcmp .gt none (some ⟨.p, 0⟩)) ∧ decodeWord 0x69140508 = .ok (.daccrd .bf16 .rtz 2 (some ⟨.l, 8⟩)) ∧
    decodeWord 0x6B200000 = .ok (.dwst .fp16) ∧ decodeWord 0x707E0104 = .ok (.drdv 31 .far .fp32 (some ⟨.l, 4⟩)) ∧
    decodeWord 0x71243D03 = .ok (.dwrv 9 .e4m3 .rup (some ⟨.l, 3⟩)) := by decide

theorem test_decode_channels : decodeWord 0x81FF8B82 = .ok (.peek 7 63 5 (some ⟨.p, 2⟩)) ∧ decodeWord 0x84448000 = .ok (.advp 2 9) ∧
    decodeWord 0x85604101 = .ok (.chst 3 true (some ⟨.l, 1⟩)) := by decide

/-- LDS is worked to the bit after R50. -/
theorem test_decode_ports : decodeWord 0x91FE8000 = .ok (.agl 63 5) ∧ decodeWord 0x98150902 = .ok (.lds 5 .far .bf16 (some ⟨.l, 2⟩)) ∧
    decodeWord 0x9B186145 = .ok (.stv 6 .int4 (some ⟨.r, 5⟩)) ∧ decodeWord 0x9D04FE00 = .ok (.pref 1 .last 63) ∧
    decodeWord 0x9E018101 = .ok (.drain .host (some ⟨.l, 1⟩)) ∧ decodeWord 0xA1085541 = .ok (.copyr 2 .none .int32 .max (some ⟨.r, 1⟩)) ∧
    decodeWord 0xA20C4301 = .ok (.copyc 3 .none 0x21 (some ⟨.l, 1⟩)) ∧ decodeWord 0xA3008101 = .ok (.cplw true (some ⟨.l, 1⟩)) := by decide

/-- ATOM is worked to the bit after R50. -/
theorem test_decode_sync : decodeWord 0xB00ECB02 = .ok (.atom 3 .dev .rel .max (some ⟨.l, 2⟩)) ∧ decodeWord 0xB3036102 = .ok (.fence .sys (some ⟨.l, 2⟩)) ∧
    decodeWord 0xB4101400 = .ok (.own 4 .fadd) ∧ decodeWord 0xB8016181 = .ok (.bar .grp true (some ⟨.p, 1⟩)) ∧
    decodeWord 0xBB242301 = .ok (.seamoPop 9 true (some ⟨.l, 1⟩)) ∧ decodeWord 0xBC170301 = .ok (.coll .bf16 .min .sys .reduceScatter (some ⟨.l, 1⟩)) ∧
    decodeWord 0xBE842101 = .ok (.wqtake 33 .pe true (some ⟨.l, 1⟩)) ∧ decodeWord 0xC0004901 = .ok (.cmdChild true (some ⟨.l, 1⟩)) ∧
    decodeWord 0xC2FF0101 = .ok (.egress 63 false (some ⟨.l, 1⟩)) := by decide

theorem test_decode_matrix : decodeWord 0xC8044901 = .ok (.syscfg 1 .int8 (some ⟨.l, 1⟩)) ∧ decodeWord 0xC9098501 = .ok (.mma 2 3 .fp32 .rdn (some ⟨.l, 1⟩)) ∧
    decodeWord 0xD0081501 = .ok (.prune 2 .fp16 true (some ⟨.l, 1⟩)) ∧ decodeWord 0xD9040301 = .ok (.scano 1 true (some ⟨.l, 1⟩)) ∧
    decodeWord 0xDB042301 = .ok (.isprb 1 17 (some ⟨.l, 1⟩)) ∧ decodeWord 0xDD045901 = .ok (.mergek 1 .uint8 (some ⟨.l, 1⟩)) := by decide

theorem test_decode_system : decodeWord 0xE001FE00 = .ok (.trap 255) ∧ decodeWord 0xE3007B01 = .ok (.swr 0x3D (some ⟨.l, 1⟩)) ∧
    decodeWord 0xE87C0301 = .ok (.banko 31 .vector (some ⟨.l, 1⟩)) ∧ decodeWord 0xE9000501 = .ok (.bankw 0 .spad (some ⟨.l, 1⟩)) ∧
    decodeWord 0xEA030101 = .ok (.tlbinv true (some ⟨.l, 1⟩)) ∧ decodeWord 0xEB018101 = .ok (.perf 0xC0 (some ⟨.l, 1⟩)) ∧
    decodeWord 0xEC020501 = .ok (.cyc (some ⟨.l, 2⟩) (some ⟨.l, 1⟩)) ∧ decodeWord 0xED000000 = .ok .fend := by decide

/-- The rejected words after R45. -/
theorem test_decode_rejects : decodeWord 0x36000000 = .error .opcode ∧ decodeWord 0x42D00104 = .error .field ∧ decodeWord 0x24440186 = .error .field ∧
    decodeWord 0x38970102 = .error .field ∧ decodeWord 0xB00EDD02 = .error .field ∧ decodeWord 0x00000200 = .error .field := by decide

/-! Well-formedness: an ill-formed term for each check. -/

/-- R28: X and CODE4 are no word formats, CODE4 no stream format, X no memory element, UINT8 no matrix operand; COPYR has four formats. -/
theorem test_refuses_formats : (Instr.dadd .code4 .rne none none).wellFormed = false ∧ (Instr.drep .x none none).wellFormed = false ∧
    (Instr.lds 0 .none .x none).wellFormed = false ∧ (Instr.dmac .uint8 0).wellFormed = false ∧ (Instr.copyr 0 .none .int8 .add none).wellFormed = false := by
  decide

/-- R30 to R32, R35 to R39: counts of 0, loop level 6, DCMP under LTU, OWN with CAS, a barrier of scope CELL. -/
theorem test_refuses_codes : (Instr.cnt 0 none).wellFormed = false ∧ (Instr.send 0 0).wellFormed = false ∧ (Instr.agl 0 6).wellFormed = false ∧
    (Instr.pref 0 .none 0).wellFormed = false ∧ (Instr.dcmp .ltu none none).wellFormed = false ∧ (Instr.own 0 .cas).wellFormed = false ∧
    (Instr.bar .cell false none).wellFormed = false := by decide

/-- R39, R321: COLL of scope DIE, a broadcast with MIN, an all-reduce of INT8. -/
theorem test_refuses_collectives : (Instr.coll .fp32 .add .die .allReduce none).wellFormed = false ∧
    (Instr.coll .fp32 .min .sys .broadcast none).wellFormed = false ∧ (Instr.coll .int8 .add .sys .allReduce none).wellFormed = false := by decide

/-- R283, R346, R40: a selector, a system register and bank registers that do not exist. -/
theorem test_refuses_numbers : (Instr.copyc 0 .none 5 none).wellFormed = false ∧ (Instr.srd 6 none).wellFormed = false ∧
    (Instr.swr 0x3E none).wellFormed = false ∧ (Instr.bankk 32 .vector none).wellFormed = false ∧ (Instr.banko 1 .spad none).wellFormed = false := by decide

/-! Witnesses: the control plane. -/

theorem witness_BuildResults : allGo [.mov none c2, .const 0x4000 c2, .shlor 0x7FFF c2] = true ∧
    [Instr.mov none c2, .const 0x4000 c2, .shlor 0x7FFF c2].all (fun i => (buildSpec i).isSome) = true := by decide

theorem witness_ArithmeticResults : allGo [.add none c2, .addi 0x4000 c2, .sub none c2, .neg none c2, .mul none c2, .mulh none c2, .mulhu none c2, .muli 0x7FFF c2] = true := by
  decide

theorem witness_LogicBitResults : allGo [.and none c2, .andi 1 c2, .or none c2, .ori 1 c2, .xor none c2, .xori 1 c2, .shl none c2, .shli 31 c2, .shr none c2, .shri 31 c2,
    .sar none c2, .sari 31 c2] = true ∧ allGo [.clz none c2, .popc none c2, .brev none c2, .bfx true 31 31 c2] = true := by decide

theorem witness_ChooseResults : allGo [.min none c2, .max none c2, .minu none c2, .maxu none c2, .cmp .geu none c2, .cmpi .le 0xFFF c2, .sel none c2, .test none c2,
    .pand none c2, .por none c2, .pxor none c2, .pnot none c2] = true := by decide

/-- MERGE takes l on a true predicate and r on a false one; GATE passes and discards. -/
theorem witness_PathResults : allGo [.steer c2 c2, .merge none c2, .gate false none c2, .gate true none c2, .drop] = true ∧
    (fed (.merge none c2) [7] [] [1]).goes (.merge none c2) ∧ ((fed (.merge none c2) [7] [] [1]).slot ⟨0, 0, 1⟩).head .p = some ⟨1, none⟩ ∧
    ((fed (.merge none c2) [7] [] [1]).slot ⟨0, 0, 1⟩).head .l = some ⟨7, none⟩ ∧
    decide ((sample (.gate false none c2)).pval (.gate false none c2) ≠ 0) = false ∧
    decide ((sample (.gate true none c2)).pval (.gate true none c2) ≠ 0) ≠ true := by decide

/-- CNT of 1, CNTX of 1 and of 0, ACCUM with each predicate, the identity instructions. -/
theorem witness_SequenceResults : allGo [.cnt 1 c2, .cntx c2 c2, .accum none c2, .fireno none c2, .cellid none c2, .laneid none c2] = true ∧
    (fed (.cntx c2 c2) [5] [1] []).goes (.cntx c2 c2) ∧ (fed (.cntx c2 c2) [5] [1] []).rval (.cntx c2 c2) = 1 ∧
    (sample (.cntx c2 c2)).rval (.cntx c2 c2) = 0 ∧ (fed (.accum none c2) [5] [] [1]).goes (.accum none c2) ∧
    (fed (.accum none c2) [5] [] [1]).pval (.accum none c2) = 1 ∧ (sample (.accum none c2)).pval (.accum none c2) = 0 ∧
    (onBlock (sample (.fireno none c2)) fun _ => true) = true ∧ (onCell (sample (.cellid none c2)) fun _ => true) = true := by decide

/-- A division with these bench cycles to come. -/
def dividing (left : Nat) : State := withCell (sample (.div none c2)) (fun (c : Cell) => c.updPe 0 (fun (p : Pe) => { p with division := some ⟨⟨0, 0, 1⟩, ⟨7, none⟩, left⟩ }))

theorem witness_DivisionResults : allGo [.div none c2, .divu none c2, .rem none c2, .remu none c2] = true ∧
    (onCell (dividing 1) fun c => (dividing 1).benchActs c && (c.pe 0).division.any (fun d => decide (d.site.cell = 0 ∧ 0 < c.pes.length ∧ d.left ≤ 1) &&
      ((c.block? d.site.ctx).any fun b => (b.instr? d.site.index).isSome))) = true ∧
    (onCell (dividing 33) fun c => (dividing 33).benchActs c && (c.pe 0).division.any (fun d => decide (1 < d.left))) = true := by decide

theorem witness_ControlPlaneTouchesNothing : ∃ t, 1 ≤ (Instr.add none c2).opcode ∧ (Instr.add none c2).opcode ≤ 0x35 ∧ exec (.add none c2) (sample (.add none c2)) = .next t :=
  ⟨_, by decide, by decide, rfl⟩

/-- Nothing is granted at reset. -/
theorem witness_IssueGuards : State.reset.ready State.reset.site (.add none c2) = false ∧
    (after (.add none c2) (sample (.add none c2))).ready ⟨0, 0, 1⟩ (.add none c2) = false := by decide

/-! Witnesses: registers. -/

theorem witness_RegisterReads : allGo [.rd 63 .last c2, .rdp 7 .none c2] = true ∧
    (onCell (sample (.rd 63 .last c2)) fun c => ((c.regs.gReg 63).view 0).valid && decide ((c.regs.gBank 3).st = .full ∧ 63 < c.regs.g.length ∧ (c.regs.gReg 63).at? ≠ some 0)) = true := by
  decide

theorem witness_RegisterWrites : allGo [.wr 63 c2, .wrp 7 c2] = true ∧
    (onCell (sample (.wr 63 c2)) fun c => decide (63 < c.regs.g.length ∧ (c.regs.gReg 63).at? ≠ some 0 ∧ 7 < c.regs.k.length ∧ (c.regs.kReg 7).at? ≠ some 0)) = true := by
  decide

/-- g63 after a LAST read: it holds nothing that may be read. -/
def deadRegister : State := withCell (sample (.rd 63 .none c2)) (fun (c : Cell) => { c with regs := { c.regs with g := c.regs.g.set 63 (Timed.of ⟨5, false, false, none⟩) } })

def inBank (st : BankState) (s : State) : State :=
  withCell s (fun (c : Cell) => { c with regs := { c.regs with gBanks := List.replicate 4 ⟨st, 0⟩, vBanks := List.replicate 8 ⟨st, 0⟩ } })

theorem witness_DeadReadRaises : [BankState.full, .keep, .off].all (fun st => let s := inBank st deadRegister
    decide (s.goes (.rd 63 .none c2)) && (onCell s fun c => deadRead (c.regs.gBank 3) ((c.regs.gReg 63).view 0).valid && decide ((c.regs.gBank 3).st = st))) = true := by
  decide

theorem witness_ForcedRegisterBanks : allGo [.bankk 63 .scalar c2, .banko 63 .scalar c2, .bankw 63 .scalar c2, .bankk 31 .vector c2, .banko 31 .vector c2] = true ∧
    (onCell (sample (.bankk 63 .scalar c2)) fun c => decide (3 < c.regs.gBanks.length ∧ (c.regs.gBank 3).st = .full) && !(c.regs.gBank 3).isWaking && !c.bankAwaited (.scalar 3)) = true ∧
    [BankState.off, .keep].all (fun st => let s := inBank st (sample (.bankw 31 .vector c2))
      decide (s.goes (.bankw 31 .vector c2) ∧ bankName 31 .vector 0 = .vector 7 ∧ (s.bankOf 0 (.vector 7)).st = st) &&
        (onCell s fun c => !c.bankAwaited (.vector 7) && decide (7 < c.regs.vBanks.length))) = true := by decide

/-- Bank 2,048 does not exist; bank 0 with no live segment is the context's; with a live segment of context 5 it is not. -/
def foreignBank : State := let s := sample (.banko 0 .spad c2); { s with mem := { s.mem with segs := [⟨0, true, false, 5, 0, 0⟩] } }

theorem witness_ForcedScratchpadBanks : allGo [.banko 0 .spad c2] = true ∧ (fed (.banko 0 .spad c2) [2048] [] []).goes (.banko 0 .spad c2) ∧
    ((fed (.banko 0 .spad c2) [2048] [] []).lval (.banko 0 .spad c2)).toNat = 2048 ∧ ((State.reset).ctxRegs 0).fltLog.getLsbD 0 = false ∧
    (onCell (sample (.banko 0 .spad c2)) fun c => (sample (.banko 0 .spad c2)).mem.bankOwned 0 c.context && !((sample (.banko 0 .spad c2)).mem.bank 0).isWaking) = true ∧
    foreignBank.goes (.banko 0 .spad c2) ∧ (onCell foreignBank fun c => !foreignBank.mem.bankOwned 0 c.context) = true ∧
    (let s := sample (.bankw 0 .spad c2); let s := { s with mem := { s.mem with banks := [(0, ⟨.full, 0⟩)] } }
     s.goes (.bankw 0 .spad c2) ∧ (s.mem.bank 0).st = .full) ∧
    allGo [.bankk 0 .spad c2, .bankw 0 .spad c2] = true ∧ (fed (.bankw 0 .spad c2) [2048] [] []).goes (.bankw 0 .spad c2) := by decide

/-- Idle banks of the cell with nothing valid, and with valid FAR registers; a bank that wakes; banks of the scratchpad. -/
def idleBank (r : GReg) : State :=
  { withCell (sample .nop) (fun (c : Cell) => { c with regs := { c.regs with g := List.replicate 64 (Timed.of r) } }) with cycle := 9 * (Cell.absent 0).divider }

def idleVectors (valid far : Bool) : State :=
  { withCell (sample .nop) (fun (c : Cell) => { c with regs := { c.regs with v := List.replicate 32 (Timed.of ⟨List.replicate 128 0, valid, far, 0, 0⟩) } }) with
    cycle := 9 * (Cell.absent 0).divider }

def wakingBanks : State :=
  let s := inBank (.waking false 0) (sample .nop)
  { s with mem := { s.mem with banks := [(7, ⟨.waking true 0, 0⟩)] } }

theorem witness_BankSteps :
    (onCell (idleBank ⟨0, false, false, none⟩) fun c => decide (3 < c.regs.gBanks.length ∧ (c.regs.gBank 3).st = .full ∧ (c.regs.gBank 3).busyAt + 9 * c.divider ≤ 9 * (Cell.absent 0).divider) &&
      !c.bankAwaited (.scalar 3) && (List.range 16).all (fun n => !(c.regs.gReg (48 + n)).now.valid)) = true ∧
    (onCell (idleBank ⟨0, true, true, none⟩) fun c => !c.bankAwaited (.scalar 3) && (List.range 16).all (fun n => (c.regs.gReg (48 + n)).now.valid && (c.regs.gReg (48 + n)).now.far)) = true ∧
    [true, false].all (fun valid => onCell (idleVectors valid true) fun c => decide (7 < c.regs.vBanks.length ∧ (c.regs.vBank 7).st = .full ∧
      (c.regs.vBank 7).busyAt + 9 * c.divider ≤ 9 * (Cell.absent 0).divider) && !c.bankAwaited (.vector 7) &&
      (List.range 4).all (fun n => (c.regs.vReg (28 + n)).now.valid == valid && (c.regs.vReg (28 + n)).now.far)) = true ∧
    (onCell wakingBanks fun c => decide ((c.regs.gBank 3).st = .waking false 0 ∧ (c.regs.vBank 7).st = .waking false 0)) = true ∧ (wakingBanks.mem.bank 7).st = .waking true 0 ∧
    (let s := { State.reset with cycle := 9, mem := { State.reset.mem with banks := [(7, ⟨.full, 0⟩)] } }
     (s.mem.bank 7).st = .full ∧ (s.mem.bank 7).busyAt + 9 ≤ s.cycle) := by decide

/-! Witnesses: faults and the system registers. -/

/-- The sample of an instruction in context 5, and with the fault log of context 0 enabled on a page of DRAM that a root of context 0 maps. -/
def inContext5 (s : State) : State := withCell s (fun (c : Cell) => { c with context := 5 })

/-- A page table of context 0 at 0x200000 and 0x300000: its first gigabyte is mapped onto DRAM, readable and writable (R238, R239). -/
def mapped (s : State) : State :=
  { s with ctxs := [(0, { s.ctxRegs 0 with ptRoot := 0x200001 })], mem := { s.mem with bytes := [(0x200000, 0x01), (0x200002, 0x30), (0x300000, 0x6F)] } }

/-- The mapped sample with the fault log of context 0 enabled at address 0. -/
def logged : State := let s := mapped (sample .nop); { s with ctxs := [(0, { s.ctxRegs 0 with fltLog := 1 })] }

theorem witness_TakingAFault : (onCell (sample .nop) fun _ => true) = true ∧ (onRegion (sample .nop) fun r => !r.gone) = true ∧
    ((sample .nop).ctxRegs 0).fltCtl.getLsbD 16 = true ∧ ((sample .nop).ctxRegs 0).fltCtl.getLsbD 1 = false ∧ ((sample .nop).ctxRegs 0).fltLog.getLsbD 0 = false ∧
    Memory.wf logged.mem.bytes = true ∧ (logged.ctxRegs 0).fltLog.getLsbD 0 = true ∧
    (match (logged.mem.translateSeq 0 0 (logged.ctxRegs 0).ptRoot 0 .store).2 with
      | .ok pa _ => target pa == some .dram
      | .fault _ | .walk => false) = true := by decide

theorem witness_TrapHaltFend : allGo [.trap 255, .halt, .fend] = true ∧ (onCell (sample .halt) fun c => ((sample .halt).region? c.rid).isSome) = true ∧
    (onBlock (sample .fend) fun _ => true) = true := by decide

theorem witness_SystemRegisterReads : allGo [.srd 0x014 c2, .srd 0x013 c2] = true ∧ sysReg64 0x014 = false ∧ sysReg64 0x013 = true := by decide

/-- EXC, FLT_CAUSE, HANG_LIMIT, CTXSEL, FAULT_HOLD, SWITCH_GRACE and TSW_AT in context 0; a register no context writes; and one of the
device in context 5. -/
theorem witness_SystemRegisterWrites : allGo [.swr 0x003 c2, .swr 0x010 c2, .swr 0x024 c2, .swr 0x038 c2, .swr 0x039 c2, .swr 0x03A c2, .swr 0x03B c2, .swr 0x022 c2] = true ∧
    (onCell (sample (.swr 0x003 c2)) fun c => decide (c.context = 0 ∧ c.flt.exc.at? ≠ some 0 ∧ c.flt.at? ≠ some 0)) = true ∧
    (sample (.swr 0x03B c2)).nthTok ⟨0, 0, 1⟩ .l 1 = some ⟨0, none⟩ ∧ (inContext5 (sample (.swr 0x03B c2))).goes (.swr 0x03B c2) := by decide

theorem witness_PoisonFlagsCounters : allGo [.ptst c2 c2, .pclr none c2, .excrd none c2, .perf 0x3F c2, .cyc c2 c2] = true ∧
    (onCell (sample (.excrd none c2)) fun c => decide (c.flt.exc.at? ≠ some 0)) = true := by decide

/-! Witnesses: the data plane. -/

theorem witness_ElementwiseResults : allGo0 [.dadd .x .rne none none, .dsub .fp32 .rtz none none, .dmul .e2m1 .rdn none none, .dfma .bf16 .rup none none,
    .dfms .fp16 .rne none none, .ddiv .fp32 .rne none none, .dsqrt .fp32 .rne none none, .drsqrt .fp32 .rne none none, .drcp .fp32 .rne none none,
    .dexp2 .fp32 .rne none none, .dlog2 .fp32 .rne none none, .dscale .fp32 .rne none none, .dneg .int8 .rne none none, .dcvt .uint8 .rne none none,
    .dtrunc .int32 .rne none none] = true := by decide

theorem witness_DecidingResults : allGo0 [.dabs .x .rne none none, .dnorm .fp32 .rne none none, .dmin .fp32 .rne none none, .dmax .fp32 .rne none none,
    .drelu .fp32 .rne none none, .dclamp .fp32 .rne none none, .dthr .fp32 .rne none none, .dcmp .gt none none, .dsel .fp32 .rne none none,
    .dkill .int8 .rne none none] = true := by decide

theorem witness_LaneMoveResults : allGo0 [.dlane .fp32 .rne none none, .dshuf .fp32 .rne none none, .drot .fp32 .rne none none, .dbcast .fp32 .rne none none,
    .drep .uint8 none none, .dred .fp32 .rne none none, .dxtr .int8 .rne none none] = true := by decide

theorem witness_AccumulateResults : allGo0 [.dmac .int8 3, .dacc 3] = true ∧ 3 < ((sample (.dmac .int8 3)).peOf ⟨0, 0, 0⟩).acc.length := by decide

theorem witness_AccumulatorReadClearWeights : allGo0 [.daccrd .x .rne 3 none, .daccz 3, .dwst .int8] = true ∧ 3 < ((sample (.daccz 3)).peOf ⟨0, 0, 0⟩).acc.length := by decide

def deadVector : State := withCell (sample (.drdv 31 .none .fp32 none)) (fun (c : Cell) => { c with regs := { c.regs with
  v := c.regs.v.set 31 (Timed.of ⟨List.replicate 128 0, false, false, 0, 0⟩) } })

theorem witness_VectorRegisters : allGo0 [.drdv 31 .last .fp32 none, .dwrv 31 .int8 .rne none] = true ∧
    (onCell (sample (.drdv 31 .last .fp32 none)) fun c => !deadRead (c.regs.vBank 7) ((c.regs.vReg 31).view 1).valid && decide (31 < c.regs.v.length ∧ (c.regs.vReg 31).at? ≠ some 1)) = true ∧
    deadVector.goes0 (.drdv 31 .none .fp32 none) ∧ (onCell deadVector fun c => deadRead (c.regs.vBank 7) ((c.regs.vReg 31).view 1).valid) = true := by decide

/-! Witnesses: numbers. -/

/-- 3 * 2^-1 to a multiple of 1 is a tie: 2 to nearest even, 1 towards zero. -/
theorem witness_RoundingModes : quantise .rne false 3 (-1) 0 false = (2, true) ∧ quantise .rtz false 3 (-1) 0 false = (1, true) ∧
    quantise .rdn true 3 (-1) 0 false = (2, true) ∧ quantise .rup false 3 (-1) 0 false = (2, true) ∧ quantise .rne false 5 (-1) 0 false = (2, true) := by decide

theorem witness_ExactArithmetic : (Val.fin true 3 (-1)).isFin = true ∧ (Val.zero true).isZero = true := by decide

/-! Witnesses: channels. -/

/-- SEND into a channel whose consumer is the block itself. -/
def selfFed : State := withBlock (sample (.send 7 1)) (fun (b : Block) => { b with outs := b.outs.set 7 { b.outChan 7 with present := true } })

theorem witness_ChannelResults : allGo [.recv 7 63 0 c2, .peek 7 1 63 c2, .send 7 63, .advc 7 63, .advp 7 1, .chst 7 false c2, .chst 7 true c2] = true ∧
    (onBlock (sample (.advc 7 63)) fun b => decide (7 < b.ins.length ∧ 63 ≤ ((b.inChan 7).pp - (b.inChan 7).cp).toNat ∧ 7 < b.outs.length ∧ (b.outChan 7).w < 1)) = true ∧
    selfFed.goes (.send 7 1) ∧ (onBlock selfFed fun b => decide ((b.outChan 7).chan < b.ins.length ∧
      ((b.outChan 7).pp + BitVec.ofNat 32 (b.outChan 7).w).toNat % (b.outChan 7).cap < (b.inChan (b.outChan 7).chan).buf.length)) = true := by decide

/-- ADVC of more tokens than the channel holds, ADVP of as many as are written. -/
theorem witness_ChannelResults_advances :
    (let s := withBlock (sample (.advc 0 1)) (fun (b : Block) => { b with ins := b.ins.set 0 { b.inChan 0 with cp := 64 } })
     s.goes (.advc 0 1) ∧ (onBlock s fun b => decide (((b.inChan 0).pp - (b.inChan 0).cp).toNat < 1)) = true) ∧
    (let s := withBlock (sample (.advp 0 1)) (fun (b : Block) => { b with outs := b.outs.set 0 { b.outChan 0 with w := 1 } })
     s.goes (.advp 0 1) ∧ (onBlock s fun b => decide (1 ≤ (b.outChan 0).w)) = true) := by decide

/-! Witnesses: memory ports. -/

/-- A nest of AGGO in course at its port, and a sample whose port 63 takes these elements. -/
def nesting : State := withCell (sample (.aggo 63 c2)) (fun (c : Cell) => c.updPort 63 (fun (q : Port) =>
  { q with cnt := [2, 0, 0, 0, 0, 0], nest := some ⟨⟨0, 0, 1⟩, ⟨0, none⟩, [0, 0, 0, 0, 0, 0], none⟩ }))

def withPort (i : Instr) (f : Fmt) (limit : Word) : State := withCell (sample i) (fun (c : Cell) => c.updPort 63 (fun (q : Port) => { q with fmt := f, limit := limit }))

theorem witness_PortSetup : allGo [.agb 63, .agl 63 5, .agfmt 63 .code4, .aggo 63 c2, .agctr 63 5 c2] = true ∧
    (sample (.aggo 63 c2)).myNest ⟨0, 0, 1⟩ 63 = none ∧ nesting.placed = true ∧ (nesting.myNest ⟨0, 0, 1⟩ 63).any (nesting.nestReady ⟨0, 0, 1⟩ c2) = true := by decide

/-- Without a limit, at a limit of exactly the element, one below it, and with a format of another class. -/
theorem witness_ElementAccesses : allGo [.lds 63 .far .fp32 c2, .ldv 63 .none .int8 c2, .sts 63 .fp32 c2, .stv 63 .uint8 c2, .aggat 63 .bf16 c2, .agsct 63 .fp16 c2, .reclaim 63 c2] = true ∧
    (withPort (.lds 63 .far .fp32 c2) .fp32 4).goes (.lds 63 .far .fp32 c2) ∧ ((withPort (.lds 63 .far .fp32 c2) .fp32 4).port 0 63).limit = 4 ∧
    sizeUnits .fp32 = 4 ∧ ((withPort (.lds 63 .far .fp32 c2) .fp32 3).port 0 63).limit = 3 ∧
    (withPort (.lds 63 .far .e2m1 c2) .fp32 0).goes (.lds 63 .far .e2m1 c2) ∧ unitClass .e2m1 ≠ unitClass .fp32 := by decide

/-- An access of the sample at port 5 to four bytes at the end of line 1 of DRAM. -/
def accessOf (i : Instr) (st : Stage) (pa : Option Nat) : Access :=
  { site := ⟨0, 0, 1⟩, fire := 0, instr := i, ops := (sample i).opnds ⟨0, 0, 1⟩ i, more := [], va := 124, bit := 0, parts := [⟨124, 4, pa, false, 0, none, false⟩],
    stage := st, dead := none, stamp := 0, arr := none, wins := none }

def accessing (i : Instr) (st : Stage) (pa : Option Nat) : State :=
  withCell (mapped (sample i)) (fun (c : Cell) => c.updPort 5 (fun (q : Port) => { q with accs := [accessOf i st pa] }))

theorem witness_MemoryReplies : (let s := accessing (.lds 5 .none .fp32 c2) .ready (some 124);
      s.thermal = false ∧ (onCell s fun _ => true) = true ∧ (s.port 0 5).accs = [accessOf (.lds 5 .none .fp32 c2) .ready (some 124)] ∧
      target 124 = some .dram ∧ s.mem.bad.contains 1 = false ∧ 124 % 64 + 4 ≤ 64 ∧ loadFmt (.lds 5 .none .fp32 c2) = some .fp32) ∧
    (let s := accessing (.sts 5 .fp32 c2) .ready (some 124);
      Memory.wf s.mem.bytes = true ∧ storeFmt (.sts 5 .fp32 c2) = some .fp32 ∧ storeMark (accessOf (.sts 5 .fp32 c2) .ready (some 124)).ops = none) := by decide

/-- With nothing before them they reply; with an access under way they wait. -/
theorem witness_WaitsForAccesses : allGo [.fence .sys c2, .quiet .sys c2, .drain .global c2, .pref 63 .far 63] = true ∧
    (sample (.fence .sys c2)).performedBefore 0 0 = true ∧ (sample (.drain .global c2)).drained 0 0 .global = true ∧
    (let s := { withCell (sample (.fence .sys c2)) (fun (c : Cell) => c.updPort 5 (fun (q : Port) => { q with accs := [accessOf (.sts 5 .fp32 c2) .ready (some 124)] })) with stamps := 1 }
     s.goes (.fence .sys c2) ∧ s.performedBefore 0 1 = false ∧ s.drained 0 1 .global = false) := by decide

theorem witness_TranslationControl : allGo [.retry 63 c2, .win 63 7 c2, .tlbinv false c2, .tlbinv true c2] = true ∧ (sample (.retry 63 c2)).portHolds 0 63 = false ∧
    (onCell (sample (.win 63 7 c2)) fun c => decide (c.context = 0)) = true ∧ (inContext5 (sample (.win 63 7 c2))).goes (.win 63 7 c2) ∧
    (inContext5 (sample (.tlbinv false c2))).goes (.tlbinv false c2) ∧
    coverBad ((sample (.tlbinv false c2)).lval (.tlbinv false c2)).toNat (pairAt (((sample (.tlbinv false c2)).toks ⟨0, 0, 1⟩ .l 3).drop 1) 0) = false ∧
    [DrainPath.localSpad, .remoteSpad, .global, .host].all (fun x => (sample (.tlbinv false c2)).drained 0 0 x) = true ∧ (sample (.tlbinv false c2)).heldEngs = [] ∧
    (sample (.tlbinv false c2)).cmds = [] ∧ (onCell (sample (.tlbinv false c2)) fun c => c.ports.all (fun q => decide (q.accs = []))) = true := by decide

/-- The tag 0x0100 of a copy in slot 0, sequence 1, that has ended; and that of one under way. -/
def copying (i : Instr) (ended : Bool) : State := withCell (fed i [0x100] [0] []) (fun (c : Cell) => { c with copies := [⟨0, 1, some
  { eng := engine, accepted := 0, kind := .plain, hint := .none, desc := List.replicate 64 0, got := [], src := false, srcStatus := 0, segs := [], at_ := 0,
    status := 0, ended := ended }⟩] })

/-- Descriptors at 0 and at 32. -/
theorem witness_CopyInstructions : allGo [.copy 63 .far c2, .copyr 63 .none .int32 .max c2, .copyc 63 .last 0x21 c2, .cplw true c2] = true ∧
    ((sample (.copy 63 .far c2)).rval (.copy 63 .far c2) ++ (sample (.copy 63 .far c2)).lval (.copy 63 .far c2)).toNat % 64 = 0 ∧
    (fed (.copy 63 .far c2) [32] [0] []).goes (.copy 63 .far c2) ∧
    ((fed (.copy 63 .far c2) [32] [0] []).rval (.copy 63 .far c2) ++ (fed (.copy 63 .far c2) [32] [0] []).lval (.copy 63 .far c2)).toNat % 64 ≠ 0 ∧
    (onCell (copying (.cplw true c2) true) fun c => (c.cplw true 0x100).isSome) = true ∧ (copying (.cplw true c2) true).goes (.cplw true c2) ∧
    (onCell (copying (.cplw true c2) false) fun c => (c.cplw true 0x100).isNone) = true ∧ (copying (.cplw true c2) false).goes (.cplw true c2) := by decide

/-! Witnesses: words in memory, owners, barriers. -/

theorem witness_WordAccesses : allGo [.atom 63 .dev .rlx .cas c2, .lda 63 .pe true c2, .stl 63 .sys true c2] = true ∧ unitClass Fmt.fp32 = .byte ∧
    ((sample (.atom 63 .dev .rlx .cas c2)).lval (.atom 63 .dev .rlx .cas c2)).toNat % 4 = 0 ∧ (fed (.lda 63 .pe true c2) [2] [] []).goes (.lda 63 .pe true c2) ∧
    ((fed (.lda 63 .pe true c2) [2] [] []).lval (.lda 63 .pe true c2)).toNat % 4 ≠ 0 ∧
    (let i := Instr.atom 5 .dev .rlx .add c2; let s := accessing i .ready (some 124)
     (s.port 0 5).accs = [accessOf i .ready (some 124)] ∧ isRelease i = false ∧ storeMark (accessOf i .ready (some 124)).ops = none ∧ (accessOf i .ready (some 124)).ops.mark = none ∧
     s.mem.marks.contains 1 = false ∧ Memory.wf s.mem.bytes = true ∧ (List.range 4).all (fun k => s.mem.look (124 + k) == some ((0 : Word).extractLsb' (8 * k) 8)) = true) := by decide

/-- An owner of the region for the word at 0, of the block at the site. -/
def ownerAt : Owner := { eng := engine, va := 0, size := 1, op := .add, buf := [⟨0, none⟩], ready := true, closing := false, at? := none }

def owned (i : Instr) : State := (sample i).updRegion 0 (fun (r : Region) => { r with owners := [ownerAt] })

/-- OWN with 1 word and with 0, outside KIND 1; UPD of a word with an owner and without. -/
theorem witness_OwnerNodes : (fed (.own 63 .incw) [0] [1] []).goes (.own 63 .incw) ∧ (sample (.own 63 .incw)).goes (.own 63 .incw) ∧
    (onBlock (sample (.own 63 .incw)) fun b => decide (b.kind = 1)) = true ∧
    (onCell (sample (.own 63 .incw)) fun c => (onRegion (sample (.own 63 .incw)) fun r => !ownBad c r.owners ⟨0, 0, 1⟩ 0 1 && !ownBad c r.owners ⟨0, 0, 1⟩ 0 0)) = true ∧
    (let s := withBlock (sample (.own 63 .incw)) (fun (b : Block) => { b with kind := 0 }); s.goes (.own 63 .incw) ∧ (onBlock s fun b => decide (b.kind ≠ 1)) = true) ∧
    allGo [.upd 63] = true ∧ (owned (.upd 63)).goes (.upd 63) ∧
    (onRegion (owned (.upd 63)) fun r => (r.owners.find? (fun w => !w.closing && decide (w.va ≤ 0) && decide (0 < w.va + 4 * w.size))).isSome) = true := by decide

/-- Group 0 of the region with the cell as its only member, which has arrived or not. -/
def grouped (i : Instr) (arrived : List Nat) : State :=
  (sample i).updRegion 0 (fun (r : Region) => { r with groups := [⟨0, [0], 1, arrived, [(0, 1)]⟩] })

theorem witness_BarriersAndLift : (grouped (.arrive .grp false c2) []).goes (.arrive .grp false c2) ∧ (grouped (.arrive .grp false c2) []).barrierBad ⟨0, 0, 1⟩ 0 false = false ∧
    ((grouped (.arrive .grp false c2) []).group? 0 0).isSome = true ∧ (grouped (.arrive .grp false c2) [0]).goes (.arrive .grp false c2) ∧
    (grouped (.waitg .grp false c2) []).goes (.waitg .grp false c2) ∧ phaseDone 1 0 = true ∧ phaseDone 0 0 = false ∧
    (grouped (.bar .grp true c2) []).goes (.bar .grp true c2) ∧ (grouped (.bar .grp true c2) []).performedBefore 0 0 = true ∧
    (sample (.bar .grp false c2)).goes (.bar .grp false c2) ∧ (sample (.bar .grp false c2)).barrierBad ⟨0, 0, 1⟩ 0 false = true ∧
    (sample (.arrive .grp false c2)).barrierBad ⟨0, 0, 1⟩ 0 false = true ∧ (sample (.waitg .grp true c2)).barrierBad ⟨0, 0, 1⟩ 0 true = true ∧
    allGo [.lift, .waitg .grp true c2, .arrive .grp false c2] = true ∧
    (onRegion (sample .lift) fun r => (sample .lift).liftBad r 0 && decide (r.haltAt = none ∧ r.liftReq = none)) = true := by decide

/-- A BAR that waits for the phase at which it arrived, which its cell has learned; and an image of two lifts, each of two variants of one
block, laid out after R8 to R16, for the region of the sample. -/
theorem witness_BarriersAndLift_waiting :
    (let i := Instr.bar .grp false c2
     let q : Pend := ⟨⟨0, 0, 1⟩, 0, i, (sample i).opnds ⟨0, 0, 1⟩ i, [], [0], [], none, 0⟩
     let s := { grouped i [] with pend := [q] }
     s.pend.findIdx? (fun x => x.stamp == 0) = some 0 ∧ s.thermal = false ∧ s.phaseKnown q 0 0 = true) := by decide

/-- A translation of context 0 on F-die 0 that maps the first gigabyte onto DRAM. -/
def translated (s : State) : State := { s with mem := { s.mem with tlb := [⟨0, 0, 0, 0, 2 ^ 30, 0, false, 0x300000, 0x6F⟩] } }

def image : List Word :=
  [0x39565250, 0x20001, 0xe0, 0x40, 0x7f75b09c, 0, 0, 0, 0, 0, 0, 0, 0, 0, 0, 0] ++ [2, 0x80, 0x80, 0, 0, 0, 0, 0] ++ [2, 0x80, 0x80, 0, 0, 0, 0, 0] ++
    [0x10101, 1, 0xc0, 0, 0, 0, 0, 0, 0xd4, 0, 0, 0, 0, 0, 0, 0] ++ [0x1000001, 0, 0x4040051, 0, 0x1000000] ++ [0x7000001, 0, 7]

/-- Every step of the loader but the CRC accepts it. -/
theorem test_loads_image : checkHeader image = none ∧ checkLifts image [0, 1] = none := by decide +kernel

/-- A word with the reserved opcode 0x36 in its place is rejected with LE_OPCODE at its offset, 0xD0 (R23, R41). -/
theorem test_loader_rejects_opcode : checkBlock (image.set 52 0x36000000) (imageVar image 0 0) 0xC4 = some ⟨.opcode, 0xD0⟩ := by decide +kernel

/-- The CRC-32 of the bytes "12345678" (R8 names the standard). -/
theorem test_crc : crcOf [0x34333231, 0x38373635] = 0x9AE0DAAF := by decide +kernel

def imaged (s : State) : State := { s with images := [⟨0, 0, 0x1000, image⟩] }

theorem witness_BarriersAndLift_lift : (let s := imaged (fed .lift [1] [] [])
    s.goes .lift ∧ (onRegion s fun r => !s.liftBad r 1 && decide (r.liftReq = none ∧ r.haltAt = none)) = true) := by decide +kernel

/-! Witnesses: seams, queues, commands, host ports. -/

def seamed (i : Instr) (fab : List SeamEntry) : State := { sample i with seams := [⟨0, 63, 0, 0, false, false, 0, 0, fab, [], 0, []⟩] }

theorem witness_SeamInstructions : (seamed (.seamoPush 63 true c2) []).goes (.seamoPush 63 true c2) ∧ (seamed (.seamoPush 63 true c2) []).performedBefore 0 0 = true ∧
    (seamed (.seamoPop 63 true c2) [⟨5, none, none⟩]).goes (.seamoPop 63 true c2) ∧ (seamed (.seamoStatus 63 c2) []).goes (.seamoStatus 63 c2) ∧
    (seamed (.seamoStatus 63 c2) []).pend = [] ∧ ((seamed (.seamoPop 63 true c2) [⟨5, none, none⟩]).seam? 0 63).any (fun m => decide (m.fab = [⟨5, none, none⟩])) = true ∧
    ((seamed (.seamoPush 63 true c2) (List.replicate 255 ⟨5, none, none⟩)).seam? 0 63).any (fun m => decide (m.fab.length < 256 ∧ m.back = [] ∧ m.remote = false)) = true ∧
    (onBlock (sample (.seamoPush 63 true c2)) fun b => decide (b.kind = 3)) = true ∧
    (withBlock (sample (.seamoPush 63 true c2)) (fun (b : Block) => { b with kind := 0 })).goes (.seamoPush 63 true c2) := by decide +kernel

/-- A queue of the sample's context, with an entry or without, at which an instruction waits. -/
def queued (i : Instr) (ctx : Nat) (l : List (DWord × Mark)) : State :=
  { sample i with cycle := 1, queues := [⟨63, some ctx, false, l, 0, none⟩], pend := [⟨⟨0, 0, 1⟩, 0, i, (sample i).opnds ⟨0, 0, 1⟩ i, [], [0], [], none, 0⟩] }

theorem witness_WorkQueues : (let s := { queued (.wqadd 63 .sys true c2) 0 [] with pend := [] }; s.goes (.wqadd 63 .sys true c2) ∧ s.queueForeign 63 0 = false) ∧
    (let s := { queued (.wqclose 63 .sys true c2) 5 [] with pend := [] }; s.goes (.wqclose 63 .sys true c2) ∧ s.queueForeign 63 0 = true) ∧
    (let s := { queued (.wqtake 63 .sys true c2) 0 [] with pend := [] }; s.goes (.wqtake 63 .sys true c2)) ∧
    (let s := queued (.wqadd 63 .sys false c2) 0 []; (s.queue? 63).any (fun q => ((s.arriveAtQueue 63).nextAtQueue q).isSome && !q.closed && decide (q.at? ≠ some s.cycle)) = true) ∧
    (let s := queued (.wqtake 63 .sys false c2) 0 [(5, none)]; (s.queue? 63).any (fun q => ((s.arriveAtQueue 63).nextAtQueue q).isSome && decide (q.entries = [(5, none)])) = true) ∧
    (let s := queued (.wqclose 63 .sys false c2) 0 []; (s.queue? 63).any (fun q => ((s.arriveAtQueue 63).nextAtQueue q).isSome) = true) := by decide

def command (retired : Bool) : Cmd :=
  { slot := 4095, gen := 14, ctx := 0, kind := 1, eng := engine, desc := List.replicate 64 0, spoilt := false, waits := [], cancelled := false, issued := false,
    result := none, retired := retired, status := 0, order := 0, copy := none }

theorem witness_CommandInstructions : allGo [.cmdMatrix true c2, .cmdBulk false c2, .cmdCollective true c2, .cmdLift true c2, .cmdChild true c2, .cmdwait .sys true c2,
      .coll .fp32 .add .sys .allReduce c2] = true ∧
    ((sample (.cmdBulk true c2)).opnds ⟨0, 0, 1⟩ (.cmdBulk true c2)).r = none ∧ (sample (.cmdBulk true c2)).freeCmd = some 0 ∧
    (translated (sample (.cmdBulk true c2))).mem.lookup [] 0 0 0 .load = .ok 0 false ∧ (translated (sample (.cmdBulk true c2))).goes (.cmdBulk true c2) ∧
    (fed (.cmdBulk true c2) [32, 0] [] []).goes (.cmdBulk true c2) ∧ ((fed (.cmdBulk true c2) [32, 0] [] []).opnds ⟨0, 0, 1⟩ (.cmdBulk true c2)).r = none ∧
    (let s := { fed (.cmdwait .sys true c2) [0xEFFF] [] [] with cmds := [command true] }; s.goes (.cmdwait .sys true c2) ∧
      (s.cmds.find? (fun y => y.slot == 0xEFFF % 4096)) = some (command true) ∧ (command true).gen = 0xEFFF % 65536 / 4096) ∧
    (sample (.cmdwait .sys true c2)).cmds = [] := by decide

/-- Every slot of commands is in use. -/
theorem witness_CommandInstructions_full : (let s := { sample (.cmdBulk true c2) with cmds := (List.range 4096).map (fun k => { command false with slot := k }) }
    s.goes (.cmdBulk true c2) ∧ s.freeCmd = none) := by decide +kernel

/-- An all-reduce of one word, FP32, from 0x100 to 0x200, of one participant (R321). -/
def collDesc : List Byte := [2, 0, 0, 0, 0, 0, 0, 0] ++ leBytes 8 0x100 ++ leBytes 8 0x200 ++ List.replicate 16 0 ++ [1, 0, 0, 0, 0, 0, 0, 0] ++ [1, 0, 0, 0, 0, 0, 0, 0] ++ List.replicate 8 0

theorem witness_CommandInstructions_coll : (let i := Instr.coll .fp32 .add .sys .allReduce c2
    let s := translated { sample i with mem := { (sample i).mem with bytes := Memory.setAll [] 0 collDesc } }
    s.goes i ∧ s.performedBefore 0 0 = true ∧ s.mem.lookup [] 0 0 0 .load = .ok 0 false ∧
      (List.range 64).map (fun k => Memory.get s.mem.bytes k) = collDesc ∧
      collBad ⟨.allReduce, .fp32, .add, .sys⟩ collDesc false = false ∧ anyMeet (collRanges ⟨.allReduce, .fp32, .add, .sys⟩ collDesc []) = false ∧ (fed i [32] [0] []).goes i ∧
      (let t := { withCell (fed i [0] [0] []) (fun (c : Cell) => c.updPort 5 (fun (q : Port) => { q with accs := [accessOf (.sts 5 .fp32 c2) .ready (some 124)] })) with stamps := 1 }
       t.goes i ∧ t.performedBefore 0 1 = false)) := by decide

def ported (i : Instr) (owner : Word) (ing : List Word) : State :=
  { sample i with hostPorts := [⟨63, ing, false, List.replicate 255 0, owner⟩] }

/-- Port 63 enabled for context 0, and for context 5. -/
theorem witness_HostPortInstructions : (ported (.ingress 63 true c2) 0x80000000 [7]).goes (.ingress 63 true c2) ∧ ((ported (.ingress 63 true c2) 0x80000000 [7]).hostPort 63).foreign 0 = false ∧
    ((ported (.ingress 63 true c2) 0x80000000 [7]).hostPort 63).ingress = [7] ∧ (ported (.ingress 63 false c2) 0x80000000 []).goes (.ingress 63 false c2) ∧
    (ported (.egress 63 true c2) 0x80000000 []).goes (.egress 63 true c2) ∧ (ported (.egress 63 true c2) 0x80000000 []).performedBefore 0 0 = true ∧
    (ported (.egress 63 true c2) 0x80000000 []).omark (.egress 63 true c2) = none ∧ ((ported (.egress 63 true c2) 0x80000000 []).hostPort 63).egress.length = 255 ∧
    ((ported (.ingress 63 true c2) 0x80000005 []).hostPort 63).foreign 0 = true ∧ (ported (.ingress 63 true c2) 0x80000005 []).mem.posted = [] := by decide +kernel

/-! Witnesses: matrices, tiles and fibres. -/

/-- l = 0 asks for the rectangle of one PE of the first cell for S0, which lies in the region; l = 1,024 for one of two columns, which does
not. -/
theorem witness_MatrixInstructions : (let i := Instr.syscfg 63 .int8 c2
    (fed i [0] [1] []).goes i ∧ (fed i [0] [0] []).goes i ∧ (fed i [1024] [1] []).goes i ∧ (sample i).sysIdle 0 0 = true ∧ ((sample i).sysAt 0 0).busy = 0 ∧
      (onRegion (sample i) fun r => decide (0 < r.sys.length ∧ 1 ≤ r.w ∧ 1 ≤ r.h ∧ r.w < 2) && !sysMeets r.sys 0 0 0 1 1) = true) ∧
    allGo [.mma 63 3 .fp32 .rup c2, .mmasp 63 3 .bf16 .rne c2, .mmarow 63 3 .int8 .rtz c2] = true ∧ (fed (.mma 63 3 .fp32 .rup c2) [32] [0] []).goes (.mma 63 3 .fp32 .rup c2) ∧
    (onBlock (sample (.mma 63 3 .fp32 .rup c2)) fun b => decide (b.kind = 2)) = true ∧
    (let s := (sample (.wedge c2)).updRegion 0 (fun (r : Region) => { r with sys := r.sys.set 0 { Systolic.none with on := true, w := 1, h := 1 } })
     s.goes (.wedge c2) ∧ (s.sysAt 0 0).on = true ∧ (s.sysAt 0 0).active = false ∧ (s.sysAt 0 0).covers 0 0 = true) ∧
    (withBlock (sample (.wedge c2)) (fun (b : Block) => { b with kind := 0 })).goes (.wedge c2) := by decide

/-- NMEST of a header that fails its checks, for FP32 activations on an established region. -/
theorem witness_TileInstructions : allGo [.prune 63 .e2m1 true c2, .nmhdr 63 c2, .nmchk 63 c2] = true ∧ (fed (.prune 63 .e2m1 true c2) [32] [0] []).goes (.prune 63 .e2m1 true c2) ∧
    (fed (.nmhdr 63 c2) [4] [0] []).goes (.nmhdr 63 c2) ∧ (fed (.nmchk 63 c2) [4, 0, 0] [] []).goes (.nmchk 63 c2) ∧
    (tokVal ((fed (.nmchk 63 c2) [4, 0, 0] [] []).nthTok ⟨0, 0, 1⟩ .l 0)).toNat % 8 = 4 ∧
    (let s := (sample (.nmest 63 c2)).updRegion 0 (fun (r : Region) => { r with sys := r.sys.set 0 { Systolic.none with on := true, w := 1, h := 1 } })
     s.goes (.nmest 63 c2) ∧ s.nthTok ⟨0, 0, 1⟩ .l 2 = some ⟨0, none⟩ ∧ (s.systolic 0 0).isSome = true ∧ (matrixFmt 0).isSome = true) := by decide

/-- Addresses at 0 and at 4; runs of one key and of none. -/
theorem witness_FibreInstructions : allGo [.scana 63 true c2, .scano 63 false c2, .isld 63 63 c2, .isprb 63 63 c2, .union 63 c2, .fibh 63 c2, .mergek 63 .uint8 c2] = true ∧
    (fed (.fibh 63 c2) [4, 0] [] []).goes (.fibh 63 c2) ∧ pairAt ((fed (.fibh 63 c2) [4, 0] [] []).toks ⟨0, 0, 1⟩ .l 2) 0 = 4 ∧
    (sample (.isld 63 63 c2)).camFree 0 63 = true ∧ (fed (.mergek 63 .uint8 c2) [1] [0] []).goes (.mergek 63 .uint8 c2) := by decide

/-! Witnesses: the host, firings. -/

def booted (p : BootPhase) (s : State) : State := { s with boot := { Boot.reset with phase := p } }

/-- A firmware image in host memory that passes; and one that does not. -/
theorem witness_HostSteps : (booted .ready (sample .nop)).boot.phase = .ready ∧ (booted .ready (sample .nop)).launchQ.length < 64 ∧ (booted .recovery .reset).boot.phase = .recovery ∧
    (0x28 < 0x2C ∧ 0x28 % 4 = 0) ∧ (BitVec.getLsbD (0x80000000 : DWord) 31 = true) ∧ (State.reset.hostPorts.find? (fun h => h.num == 63)).isSome = true ∧
    (((ported .nop 0x80000000 [7]).hostPort 63).owner.getLsbD 31 = true) ∧ ((ported .nop 0x80000000 [7]).hostPort 63).egress ≠ [] ∧ (State.reset.hostPort 63).egress = [] ∧
    imageReason 0 [] ≠ none ∧ target 0x7FFFFFFFC0 = some .dram ∧ 64 ≤ 64 - 0x7FFFFFFFC0 % 64 ∧ State.reset.mem.bad.contains 0 = false ∧
    (booted .starting .reset).boot.phase = .starting ∧ Memory.wf State.reset.mem.bytes = true ∧ [(5 : Byte)].length ≤ 64 - 63 % 64 := by decide

/-- A block that can fire; one whose firing ends; a token that has arrived, of the cell's parity or not. -/
def firable : State := { sample .nop with cells := (sample .nop).cells.map (fun (c : Cell) => c.updBlock 0 (fun (b : Block) => { b with firing := false, words := [0], slots := [Slot.empty] })) }

def endable : State := withBlock (sample .nop) (fun (b : Block) => { b with words := [0], slots := [Slot.empty, Slot.empty] })

def arriving (parity : Bool) : State := { sample .nop with flight := [⟨⟨0, 0, 1⟩, .l, ⟨7, none⟩, parity, 0, 1⟩] }

/-- A number in the course of leaving slot 0 for C0. -/
def making : Made :=
  { id := 0, lanes := List.replicate 128 ⟨.zero false, none⟩, digits := 4, form := .free, pos := 1, start := 0, course := ⟨[], [], [], [], []⟩, undone := 0,
    doneAt := some 0, edges := [.c0], got := [], stopping := 0, stopped := 0, ins := [], sent := [], dep := .same }

def spalled : State :=
  { withBlock (sample .nop) (fun (b : Block) => b.updSlot 0 (fun (sl : Slot) => { sl with made := [making] })) with spalls := [⟨⟨⟨0, 0, 0⟩, 0, .c0, 1⟩, 1, 0⟩] }

theorem witness_FiringSteps : (onCell firable fun c => firable.regionBegins 0 && firable.benchActs c && decide (c.adoptAt ≤ 0 ∧ c.switchUntil ≤ 0 ∧ firable.nextToFire c = some 0)) = true ∧
    (onCell endable fun c => (onBlock endable fun b => endable.regionGoes 0 && endable.benchActs c && endable.ends c b && decide (c.cur = some 0))) = true ∧
    (onCell (arriving false) fun c => decide (c.parity = false ∧ c.adoptAt ≤ 0)) = true ∧ (arriving false).overtaken 0 ⟨⟨0, 0, 1⟩, .l, ⟨7, none⟩, false, 0, 1⟩ = false ∧
    (onBlock (arriving false) fun b => decide (b.fend = none ∧ 1 < b.slots.length)) = true ∧ (arriving true).overtaken 0 ⟨⟨0, 0, 1⟩, .l, ⟨7, none⟩, true, 0, 1⟩ = false ∧
    spalled.spalls[0]? = some ⟨⟨⟨0, 0, 0⟩, 0, .c0, 1⟩, 1, 0⟩ ∧ spalled.lands 0 0 = true ∧ (spalled.slot ⟨0, 0, 0⟩).made = [making] ∧
    (arriving true).lands 0 0 = true ∧ (onBlock (withBlock (arriving false) (fun (b : Block) => { b with fend := some 0 })) fun b => b.fend.isSome) = true ∧
    (onCell (withCell (arriving false) (fun (c : Cell) => { c with adoptAt := 1 })) fun c => decide (0 < c.adoptAt ∧ c.parity = false)) = true ∧
    ((sample .nop).benchCells 0).isEmpty = false ∧
    (let s := withBlock (sample .nop) (fun (b : Block) => b.updSlot 3 (fun (sl : Slot) => { sl with age := 1024 })); 1024 ≤ (s.slot ⟨0, 0, 4 * 0 + 3⟩).age ∧ (s.slot ⟨0, 0, 4 * 0 + 3⟩).aged = none ∧ (onCell s fun c => decide (c.cur = some 0)) = true) := by decide

/-! Witnesses: launches, accesses, engines. -/

/-- A launch of the image, in context 0 by context 0, at the first cell of F-die 1 (LREC2), whose configuration is resident there. -/
def launch : Launch := { words := [0, 1, 1, 0, 0x1000, 0, 0x9000, 0, 0, 0, 0, 0], cmd := none, by0 := true, order := 0, img := none, vars := [], judged := false }

def launching : State :=
  let s := mapped State.reset
  { s with mem := { s.mem with bytes := Memory.setAll s.mem.bytes 0x1010 (leBytes 4 0x7f75b09c) }, launchQ := [launch], images := [⟨0, 0, 0x1000, image⟩],
           loaded := [⟨1024, 0, 0, 0, 0, 0, 0⟩], cmds := [command false], boot := { Boot.reset with phase := .ready } }

/-- A launch that waits for cells. -/
def granting : State := { launching with launchQ := [], launches := [{ launch with img := some 0, vars := [0, 1] }] }

theorem witness_LaunchSteps_dispatch : launching.thermal = false ∧ launching.boot.phase = .ready ∧ launching.launchQ = [launch] ∧ launch.bad = false ∧
    (launch.ctx ≠ 0 ∨ launch.by0 = true) ∧ launching.launchQ.find? (fun x => x.judged) = none ∧
    (match (({ launching with launchQ := [] } : State).wakeUp.loadFor launch).2 with
      | .ok i => decide (launch.lift0 < imgNlift i.words) && !((launch.wanted i.words).filter (fun v =>
          !(launch.places (imageVar i.words launch.lift0 v).w (imageVar i.words launch.lift0 v).h).isEmpty &&
          decide (launch.seedn ≤ (imageVar i.words launch.lift0 v).seeds.length))).isEmpty
      | .rejected _ | .fault _ _ => false) = true ∧ (({ launching with launchQ := [] } : State).wakeUp.loadFor launch).1.queuesFree launch = true := by decide +kernel

theorem witness_LaunchSteps_grant : granting.thermal = false ∧ (granting.grantFor { launch with img := some 0, vars := [0, 1] }).any (fun x => !granting.groupClash 0 x.2.2.1 none) = true := by
  decide +kernel

/-- A seed on its way to an unfed channel with room; a region that is drained, and one that ends; a lift that may be switched. -/
def seeding : State :=
  { withBlock (sample .nop) (fun (b : Block) => { b with ins := b.ins.set 7 { b.inChan 7 with pp := 63 } }) with
    regions := (sample .nop).regions.map (fun (r : Region) => { r with seeds := [⟨0, 0, 7, 5⟩] }) }

def settled (f : Region → Region) : State :=
  imaged { sample .nop with cells := (sample .nop).cells.map (fun (c : Cell) => { c with blocks := [], cur := none }), regions := (sample .nop).regions.map f, cycle := 1000 }

theorem witness_LaunchSteps_regions : (onRegion seeding fun r => seeding.regionGoes 0 && decide (r.seedFrom ≤ 0) && (match r.seeds with
      | x :: _ => (seeding.block? ⟨x.cell, x.ctx, 0⟩).any (fun b => decide (!(b.inChan x.chan).fed ∧ (b.inChan x.chan).occupancy < (b.inChan x.chan).cap ∧ x.chan < b.ins.length))
      | [] => false)) = true ∧
    (onRegion (settled id) fun r => !r.gone && ((settled id).image? r.img).any (fun i => decide (1 < imgNlift i.words ∧ 1 < imgNvar i.words 1) &&
      (rectCells r.die r.x0 r.y0 (min (imageVar i.words 1 1).w r.w) (min (imageVar i.words 1 1).h r.h)).all (fun c =>
        decide (((settled id).currentSlots c.1).length + (imageVar i.words 1 1).fold ≤ 4)))) = true ∧
    (let f (r : Region) : Region := { r with liftReq := some 1 }
     onRegion (settled f) fun r => (settled f).regionSettled r && (settled f).regionGoes 0 && !(settled f).endsDrained r && decide (r.owners = [] ∧ r.drainedAt = none)) = true ∧
    (onRegion (settled id) fun r => (settled id).regionSettled r && (settled id).endsDrained r && decide (r.owners = [])) = true ∧
    (let f (r : Region) : Region := { r with liftReq := some 1, drainedAt := some 0 }
     onRegion (settled f) fun r => ((settled f).liftTarget r).any (fun x => (settled f).wedgeReady r x.1 x.2.1 x.2.2 && (settled f).powerFits r x.2.2) && decide (r.switch = none)) = true ∧
    State.reset.hasState 0 = false := by decide +kernel

/-- A walk that succeeds, and one in a context without a table; copies whose source is to be read, whose line is to be updated, and with nothing
left; no access anywhere. -/
theorem witness_AccessSteps_walk : (let s := accessing (.lds 5 .none .fp32 c2) .walk none
    (s.port 0 5).accs[0]? = some (accessOf (.lds 5 .none .fp32 c2) .walk none) ∧ (onCell s fun c => c.ports.any (fun q => q.num == 5) &&
      (match s.mem.translate s.cycle (c.port 5).wins c.die c.context (s.rootOf c) 124 (needOf (.lds 5 .none .fp32 c2)) with
        | (m, .ok pa ver) => !m.forbidden ⟨124, 4, some pa, ver, 0, none, false⟩
        | _ => false)) = true) ∧
    (let s := { accessing (.lds 5 .none .fp32 c2) .walk none with ctxs := [] }
     onCell s fun c => (match s.mem.translate s.cycle (c.port 5).wins c.die c.context (s.rootOf c) 124 (needOf (.lds 5 .none .fp32 c2)) with
        | (_, .fault code) => decide (code < 256)
        | _ => false)) = true := by decide +kernel

def copyDesc : List Byte := [1, 0, 0, 0, 0, 0, 0, 0] ++ leBytes 8 0x100 ++ leBytes 8 0x200 ++ [4, 0, 0, 0, 1, 0, 0, 0] ++ List.replicate 32 0

def copyJob (kind : CopyKind) (src : Bool) : Copy :=
  { eng := engine, accepted := 0, kind := kind, hint := .none, desc := copyDesc, got := [], src := src, srcStatus := 0, segs := [], at_ := 0, status := 0, ended := false }

def copyingNow (j : Copy) : State := translated (withCell (sample .nop) (fun (c : Cell) => { c with copies := [⟨255, 1, some j⟩] }))

theorem witness_AccessSteps_copies : (onCell (copyingNow (copyJob .plain false)) fun c => decide ((c.copySlot 255).job = some (copyJob .plain false))) = true ∧
    (match (copyingNow (copyJob .plain false)).readEng engine (copyJob .plain false).elem ((copyRows copyDesc).map (fun r => (r.1, r.2.2))) with
      | (_, _, .bytes l) => decide (l.length = 4)
      | _ => false) = true ∧
    (copyLines copyDesc)[0]?.isSome = true ∧
    (match (copyingNow (copyJob (.reduce .fp32 .add) true)).reach engine .both [(0x200, 4)] with
      | (_, .ok _) => true
      | _ => false) = true ∧
    (copyLines copyDesc)[0]? = some (0x200, 4, 0) ∧ (copyJob .plain true).writes.length ≤ ({ copyJob .plain true with at_ := 1 }).at_ ∧
    (sample .nop).heldEngs = [] ∧ (sample .nop).cmds = [] ∧ ((sample .nop).cells.all (fun c => c.ports.all (fun q => decide (q.accs = [])))) = true := by decide +kernel

def issuing (c : Cmd) : State := { sample .nop with cmds := [c] }

def opQueued (x : SysOp) : State :=
  (sample .nop).updRegion 0 (fun (r : Region) => { r with sys := r.sys.set 3 { Systolic.none with on := true, w := 1, h := 1, queue := [x] } })

/-- An operation of a matrix command without a descriptor's fields set but KEEPW or not; its weights are loaded; M is 0 in it. -/
def sysOp (desc : List Byte) (loaded : Nat) : SysOp :=
  { eng := engine, instr := none, cmd := some 0, desc := desc, bands := [], started := false, swept := 0, loaded := loaded, wts := [], row := 0, out := none, status := 0,
    inits := none }

theorem witness_EngineSteps_commands : (let s := issuing { command false with cancelled := true }
      (s.cmds.find? (fun c => c.slot == 4095 && !c.retired && !c.issued)).any (fun x => decide (x.waits = [] ∧ x.cancelled = true)) = true) ∧
    (command false).kindBad = true ∧ (command false).waits = [] ∧ ({ command false with desc := copyDesc }).kindBad = false ∧
    bulkKind (fieldAt copyDesc 0x28 4) = some (.plain, .none) ∧ copyBad copyDesc (fun _ => true) none = false ∧ (sample .nop).parked = [] ∧
    (let s := issuing { command false with issued := true, result := some 0 }
     (s.cmds.find? (fun c => c.slot == 4095 && !c.retired && c.issued)).any (fun x => decide (x.result = some 0 ∧ x.kind ≠ 0)) = true) := by decide

theorem witness_EngineSteps_matrix : ((opQueued (sysOp (List.replicate 64 0) 4)).sysAt 0 3).queue = [sysOp (List.replicate 64 0) 4] ∧
    (matOf (List.replicate 64 0) none).keepw = false ∧ 4 * ((opQueued (sysOp (List.replicate 64 0) 4)).sysAt 0 3).h ≤ 4 ∧
    (matOf (List.replicate 64 0xFF) none).keepw = true ∧
    (let x := { sysOp (List.replicate 64 0) 4 with started := true, row := 65536 }
     ((opQueued x).sysAt 0 3).queue = [x] ∧ (matOf x.desc x.instr).m ≤ x.row) := by decide

/-- The collective of one participant, which has written its block; a seam of another member; a group; an owner's first update. -/
def collJoin : Join := { eng := engine, cmd := none, instr := some (.coll .fp32 .add .sys .allReduce c2), desc := collDesc, sent := [], counts := [], readDone := true, status := 0, at_ := 0 }

def collDone : Coll := { ctx := 0, scope := .sys, gid := 0, cid := 0, npart := 1, joins := [collJoin], written := [1] }

theorem witness_EngineSteps_others : collDone.npart ≤ collDone.joins.length ∧ collDone.mismatch = false ∧ collDone.goal collJoin ≤ 1 ∧
    (({ sample (.coll .fp32 .add .sys .allReduce c2) with
        pend := [⟨⟨0, 0, 1⟩, 0, .coll .fp32 .add .sys .allReduce c2, ⟨none, none, none, none⟩, [], [], [], none, 0⟩] } : State).pend.find? (fun p => p.stamp == collJoin.eng.stamp)).isSome = true ∧
    (({ sample .nop with seams := [⟨0, 63, 0, 0, true, true, 0, 0, List.replicate 255 ⟨0, none, none⟩, [], 0, []⟩] } : State).seam? 0 63).any (fun m => decide (m.fab.length < 256)) = true ∧
    ((grouped .nop []).group? 0 0).isSome = true ∧
    (onRegion ((owned .nop).updRegion 0 (fun (r : Region) => { r with updates := [⟨⟨0, 0, 1⟩, 0, 0, ⟨7, none⟩, 0⟩] })) fun r =>
      (firstUpdate (r.updates.filter (fun u => u.owner == 0 && decide (u.due ≤ 0)))).isSome && r.owners.all (fun o => o.ready && decide (o.at? ≠ some 0))) = true := by
  decide +kernel

/-! Witnesses: switches, power, boot. -/

def idle (n : Nat) : State := (sample .nop).updRegion 0 (fun (r : Region) => { r with idle := n })

/-- A region in a switch, 2^18 cycles after its start, drained at a switch point. -/
def switching (k : SwitchKind) : State := { settled (fun (r : Region) => { r with switch := some ⟨k, 0, false, none⟩ }) with cycle := 0x40000 }

/-- An access held since cycle 0, in the cycle at which FAULT_HOLD is over. -/
def holding : State := { accessing (.lds 5 .none .fp32 c2) (.held 4 124 false 0) none with cycle := 270000 }

theorem witness_SwitchSteps_timers : (onRegion (idle 0x100000) fun r => !r.gone && decide (r.stopAt = none ∧ (idle 0x100000).hangLimit r.ctx ≤ r.idle) && !((idle 0x100000).ctxRegs r.ctx).occMap.getLsbD 0) = true ∧
    ((idle 0).ctxRegs 0).fltCtl.getLsbD 11 = true ∧ holding.holdDue 0 = true ∧ (holding.failHeld 0).holdDue 0 = true ∧ (holding.failHeld 0).region? 0 = holding.region? 0 ∧
    (onRegion (switching (.timed 1)) fun r => decide (r.switch = some ⟨.timed 1, 0, false, none⟩) && !r.gone && !(switching (.timed 1)).regionHolds 0 &&
      decide (0 + (switching (.timed 1)).dev.switchGrace.toNat ≤ (switching (.timed 1)).cycle)) = true ∧
    (let s := { State.reset with dev := { DevRegs.reset with tswCtl := 0x80002005 } }
     s.dev.tswCtl.getLsbD 31 = true ∧ s.dev.tswAt.toNat ≤ s.cycle ∧ s.dev.tswCtl.toNat / 4096 % 4 = 2) ∧
    (let s := { State.reset with dev := { DevRegs.reset with tswAt := 1 } }; s.dev.tswCtl.getLsbD 31 = false ∧ s.cycle < s.dev.tswAt.toNat) ∧
    (onCell (sample .nop) fun c => decide (c.flt.at? ≠ some 0)) = true := by decide +kernel

/-- The two variants of the image have one shape: a timed switch to the other has a target; a shrink for a launch that is gone has none. -/
theorem witness_SwitchSteps_points : (onRegion (switching (.timed 1)) fun r => let s := switching (.timed 1)
      s.regionGoes 0 && s.atSwitchPoint r && decide (r.liftReq = none) && (s.varOf r).any (fun old =>
        ((s.ordered r r.lift).find? (fun x => s.isTarget r (.timed 1) x && s.migratable r.rid old x.2)).isSome)) = true ∧
    (onRegion (switching (.shrink 9)) fun r => let s := switching (.shrink 9)
      s.regionGoes 0 && s.atSwitchPoint r && (s.varOf r).any (fun old => ((s.ordered r r.lift).find? (fun x => s.isTarget r (.shrink 9) x && s.migratable r.rid old x.2)).isNone)) = true := by
  decide +kernel

/-- A switching region whose held fault is that of a command, its cells having left; its park and its resumption. -/
def parkable : State :=
  { switching (.timed 1) with cells := [], ctxs := [(0, { (State.reset).ctxRegs 0 with saveBase := 1 })], cmds := [{ (command false) with eng := { engine with held := some ⟨4, 0, false, false, 0⟩ } }] }

theorem witness_SwitchSteps_park : (onRegion parkable fun r => !r.gone && parkable.regionGoes 0 && parkable.regionHolds 0 && !r.sweeping && decide (r.updates = []) &&
      r.sys.all Systolic.parkable && (parkable.cellsOf 0).all parkable.parkable && (parkable.ctxRegs r.ctx).saveBase.getLsbD 0 &&
      (parkable.saveCells r.ctx parkable.fresh (parkable.cellsOf 0)).2) = true ∧
    (onRegion (sample .nop) fun r =>
      let p : Parked := { region := r, cells := [], pends := [], parkedAt := 0, byHold := false, resumed := false, salt := 0 }
      State.reset.resumable p && decide ((State.reset.restoreCells p.region.ctx p.salt p.cells).2 = some [])) = true := by decide +kernel

/-- A soft error in the cell of the sample. -/
def upset (correctable : Bool) : SoftError := { storage := 6, cell := 0, pe := 15, slot := 0, bank := 0, offset := 0, syndrome := 0, correctable := correctable }

theorem witness_SwitchSteps_errors : (onCell (sample .nop) fun c => (sample .nop).regionLives c.rid) = true ∧ (upset true).cell = 0 ∧ (upset true).correctable = true ∧
    (upset false).correctable = false ∧ (upset false).storage ≠ 0 := by decide

theorem witness_PowerLimits : (booted .ready .reset).boot.safeTable = false ∧ (booted .ready .reset).committed ≤ 0 ∧ State.reset.boot.phase ≠ .off ∧
    (400 ≤ (0x190 : BitVec 16).toNat ∧ (2800 : BitVec 16).toNat ≤ 2800) ∧ (399 : BitVec 16).toNat < 400 ∧ (2 : Word).toNat % 4 ≠ 3 ∧ (3 : Word).toNat % 4 = 3 := by decide

/-- A firmware image without a body and of SVN 1; that it passes rests on the cryptographic constants, which have no body (log 13). -/
def firmware : List Byte := leBytes 4 imageMagic ++ [1, 0, 0, 0] ++ List.replicate 0x14F8 0

theorem witness_firmware_fields : leNat (firmware.take 4) = imageMagic ∧ firmware.length = 0x1500 ∧ imageSvn firmware = 1 ∧ leNat ((firmware.drop 8).take 4) = 0 ∧
    leNat ((firmware.drop 0xC).take 4) = 0 ∧ leNat ((firmware.drop 0x14DD).take 35) = 0 := by decide +kernel

/-- An image passes where its signature, key and digest are good: the hypothesis of the clauses on images that pass. -/
theorem witness_firmware_passes (img : List Byte) (hf : leNat (img.take 4) = imageMagic ∧ img.length = 0x1500 ∧ imageSvn img = 1 ∧ leNat ((img.drop 8).take 4) = 0 ∧
    leNat ((img.drop 0xC).take 4) = 0 ∧ leNat ((img.drop 0x14DD).take 35) = 0) (hk : Config.shake256 ((img.drop 0x50).take 1952) = Config.keyHash)
    (hv : Config.mlDsaVerify ((img.drop 0x50).take 1952) (img.take 0x50) ((img.drop 0x7F0).take 3309) = true)
    (hb : Config.shake256 [] = (img.drop 0x10).take 64) : imageReason 0 img = none := by
  obtain ⟨h1, h2, h3, h4, h5, h6⟩ := hf
  simp [imageReason, h1, h2, h3, h4, h5, h6, hk, hv, hb]

theorem witness_BootSteps : State.reset.boot.phase = .held ∧ State.reset.boot.attempts < 3 ∧ imageReason 0 [] = some 3 ∧ (booted .starting .reset).boot.phase = .starting ∧
    (booted .recovery .reset).boot.minimal = false ∧ (booted .ready .reset).boot.phase = .ready ∧ (booted .ready .reset).boot.updating = false ∧
    (List.replicate 32 (0 : Byte)).length = 32 ∧ State.reset.boot.sleep = false ∧ State.reset.regions = [] := by decide +kernel

/-! Witnesses: further clauses. -/

/-- An access may leave where no release stands before it, and no operation has been applied at its word. -/
theorem witness_AccessesLeave : (let a := accessOf (.lds 5 .none .fp32 c2) .ready (some 124)
      (accessing (.lds 5 .none .fp32 c2) .ready (some 124)).mayLeave 0 a = true) ∧
    (let i := Instr.atom 5 .dev .rlx .add c2; let s := accessing i .ready (some 124)
     s.mayLeave 0 (accessOf i .ready (some 124)) = true ∧ s.mem.unitBusy 124 4 = false) ∧
    isWordAccess (.lda 63 .pe true c2) = true ∧ canonical 124 = true ∧ isWordAccess (.lds 5 .none .fp32 c2) = false := by decide

/-- A port 63 with one held access whose page is mapped, or is not. -/
def heldPort (map : Bool) : State :=
  let i := Instr.retry 63 c2
  let s := if map then mapped (sample i) else sample i
  withCell s (fun (c : Cell) => c.updPort 63 (fun (q : Port) => { q with accs := [accessOf (.lds 63 .none .fp32 c2) (.held 4 124 false 7) none] }))

theorem witness_TranslationControl_retry : [true, false].all (fun map => let s := heldPort map
    decide (s.goes (.retry 63 c2)) && decide ((s.port 0 63).accs.length = 1 ∧ (s.slot ⟨0, 0, 1⟩).run = none ∧ s.heldEngs = [] ∧ s.cmds = []) &&
      (onCell s fun c => match s.mem.translate s.cycle (c.port 63).wins c.die c.context (s.rootOf c) 124 ⟨true, false⟩ with
        | (m, .ok pa _) => map && !m.refuses pa
        | (_, .fault k) => !map && decide (k < 256)
        | _ => false)) = true := by decide +kernel

/-- Whether every other member that is present has acknowledged: both cases of TLBINV.SYS, as Config.memberAcked has it. -/
theorem witness_TranslationControl_members (s : State) (h : ∀ m stamp now, Config.memberAcked m stamp now = true) : s.membersAcked s.stamps = true := by
  simp [State.membersAcked, h]

theorem witness_TranslationControl_member (s : State) (hm : s.dev.member = 0) (hp : Config.memberPresent 1 = true)
    (h : Config.memberAcked 1 s.stamps s.cycle = false) : s.membersAcked s.stamps = false := by
  simp only [State.membersAcked, List.all_eq_false]
  exact ⟨1, by decide, by simp [hm, hp, h]⟩

/-- A push end and a pop end of a remote seam. -/
def remoteSeam (i : Instr) (popEnd : Bool) : State := { sample i with seams := [⟨0, 63, 0, 0, true, popEnd, 1, 0, [⟨5, none, some 7⟩], [], 0, []⟩] }

theorem witness_SeamInstructions_remote : [true, false].all (fun e => decide ((remoteSeam (.seamoPush 63 true c2) e).goes (.seamoPush 63 true c2)) &&
    decide ((remoteSeam (.seamoPop 63 true c2) e).goes (.seamoPop 63 true c2)) &&
    ((remoteSeam (.seamoPop 63 true c2) e).seam? 0 63).any (fun m => m.remote && m.popEnd == e && decide (m.fab = [⟨5, none, some 7⟩]))) = true := by decide +kernel

/-- INGRESS.ACQ behind a host write, and without one. -/
theorem witness_HostPortInstructions_waits : (let i := Instr.ingress 63 true c2; let s := { ported i 0x80000000 [7] with hostOps := [⟨0, some [1], 1, 0⟩] }
    s.goes i ∧ s.hostOps.any (fun x => x.put.isSome) = true) ∧ (ported (.ingress 63 true c2) 0x80000000 [7]).hostOps.any (fun x => x.put.isSome) = false := by decide +kernel

/-- The bounds of a member's part of the BAR and of its pages; that it is present is Config's. -/
theorem witness_HostSteps_members : State.reset.dev.member = 0 ∧ 2 ^ 40 ≤ 0xFFFFFFFFFFF ∧ 0xFFFFFFFFFFF < 2 ^ 44 ∧ 65 ≤ 1039 ∧ 1039 / 65 < 16 ∧ 0 < 2 ^ 40 := by decide

/-- The launch that waits, with a place for its first variant. -/
theorem witness_LaunchSteps_preload : (let l := { launch with img := some 0, vars := [0, 1] }
    granting.region? 0 = none ∧ granting.launches.find? (fun x => x.order == 0) = some l ∧ (l.img.bind granting.image?).isSome = true ∧ 0 ∈ l.vars ∧
      (granting.preloadPlace l (imageVar image 0 0)).map (fun x => x.1) = [1024]) := by decide +kernel

/-- A command of kind 0 with each result, and a collective whose participants joined a cycle before. -/
theorem witness_EngineSteps_results : [0, 1, 2].all (fun n => let x := { command false with kind := 0, issued := true, result := some n }
      decide ((issuing x).cmds.find? (fun c => c.slot == 4095 && !c.retired && c.issued) = some x)) = true ∧
    collJoin.at_ ≠ ({ sample .nop with cycle := 1 } : State).cycle := by decide

/-- Outside every region, and in a region that is no longer live. -/
theorem witness_SwitchSteps_outside : State.reset.cell? 0 = none ∧
    (let s := (sample .nop).updRegion 0 (fun (r : Region) => { r with gone := true }); (onCell s fun c => !s.regionLives c.rid) = true) := by decide

/-- A number at its head whose instruction has one receiver, and one that has begun. -/
def leaving (pos : Nat) : State :=
  withBlock (sample (.dneg .fp32 .rne none (some ⟨.l, 0⟩))) (fun (b : Block) => b.updSlot 0 (fun (sl : Slot) => { sl with made := [{ making with pos := pos }] }))

theorem witness_DecidingResults_entries : (onCell (leaving 0) fun c => decide ((receivers c ⟨0, 0, 0⟩ (.dneg .fp32 .rne none (some ⟨.l, 0⟩))).length = 1)) = true ∧
    ({ making with pos := 0 }).pos = 0 ∧ making.pos ≠ 0 ∧ ({ making with pos := 0, undone := 1 }).undone ≠ 0 := by decide

theorem witness_BootSteps_phases : (let s := { booted .ready .reset with boot := { Boot.reset with phase := .ready, updating := true } };
      s.boot.phase = .ready ∧ s.boot.updating = true ∧ imageReason s.boot.rollback s.boot.staged = some 3) ∧
    (booted .recovery .reset).boot.phase = .recovery ∧ (booted .starting .reset).launchQ.length = 0 := by decide +kernel

/-! Witnesses of the clauses about accesses of one cycle, about HALT and FEND, and about every system register. -/

/-- A register that no access of cycle 3 has touched, and two ranks. -/
theorem witness_SameCycleAccesses : (Timed.of (⟨5, true, false, none⟩ : GReg)).at? ≠ some 3 ∧ 1 < 2 := by decide

/-- A region that is halted, and a block whose FEND has issued, in the cycle before; the slot neither waits on a wake nor has begun a sequence. -/
theorem witness_TrapHaltFend_after : (let s := { sample .nop with cycle := 1 }.updRegion 0 (fun (r : Region) => { r with haltAt := some 0 })
      (onCell s fun c => (s.region? c.rid).any (fun r => decide (r.haltAt = some 0))) = true ∧ 0 < s.cycle) ∧
    [Instr.halt, .fend, .trap 255, .add none c2].all (fun i => let s := withBlock { sample i with cycle := 1 } (fun (b : Block) => { b with fend := some 0 })
      onBlock s fun b => decide (b.fend = some 0) && !(s.slot s.site).waking && !(s.slot s.site).begun) = true := by decide

/-- Both contexts that a read tells apart, and a region. -/
theorem witness_SystemRegisterReads_contexts : (onCell (sample .nop) fun c => decide (c.context = 0) && ((sample .nop).region? c.rid).isSome) = true ∧
    (onCell (inContext5 (sample .nop)) fun c => decide (c.context ≠ 0)) = true := by decide

/-- The sample with a seam of context 0 open, with one of context 5, and with a request of TSW_CTL pending. -/
def seamOf (s : State) (ctx : Nat) : State := { s with seams := [⟨ctx, 63, 0, 0, false, false, 0, 0, [], [], 0, []⟩] }

def tswPending (s : State) : State := { s with dev := { s.dev with tswCtl := 0x80000000, tswAt := 9 } }

theorem witness_SystemRegisterWrites_registers : allGo ([0x020, 0x021, 0x023, 0x025, 0x030, 0x031, 0x03C, 0x03D].map (fun n => Instr.swr n c2)) = true ∧
    [0x021, 0x023, 0x025, 0x030, 0x031].all (fun n => decide ((sample (.swr n c2)).nthTok ⟨0, 0, 1⟩ .l 0 = some ⟨0, none⟩ ∧
      (sample (.swr n c2)).nthTok ⟨0, 0, 1⟩ .l 1 = some ⟨0, none⟩)) = true ∧ (onCell (sample .nop) fun c => decide (c.context = 0)) = true ∧
    ((seamOf (sample (.swr 0x025 c2)) 0).goes (.swr 0x025 c2) ∧ (seamOf (sample (.swr 0x025 c2)) 0).seams.any (fun m => m.ctx == 0) = true) ∧
    ((seamOf (sample (.swr 0x025 c2)) 5).goes (.swr 0x025 c2) ∧ (seamOf (sample (.swr 0x025 c2)) 5).seams.any (fun m => m.ctx == 0) = false) := by decide

/-- Each ACTION of TSW_CTL, at once and, but for 0, with a request pending. -/
theorem witness_SystemRegisterWrites_tsw : [(0x0FFF : Word), 0x1000, 0x2000, 0x3000].all (fun v => let s := fed (.swr 0x03C c2) [v] [] []
      decide (s.goes (.swr 0x03C c2) ∧ s.lval (.swr 0x03C c2) = v ∧ s.dev.tswCtl.getLsbD 31 = false) &&
      decide ((tswPending s).goes (.swr 0x03C c2) ∧ (tswPending s).dev.tswCtl.getLsbD 31 = true ∧ s.cycle < (tswPending s).dev.tswAt.toNat)) = true ∧
    [(0x0FFF : Word), 0x1000, 0x2000, 0x3000].map (fun v => v.toNat / 4096 % 4) = [0, 1, 2, 3] := by decide

/-- A TSW_AT to come, with no request pending. -/
theorem witness_SystemRegisterWrites_timed : (let s := fed (.swr 0x03C c2) [0x1000] [] []
    let s := { s with dev := { s.dev with tswAt := 9 } }
    s.goes (.swr 0x03C c2) ∧ s.dev.tswCtl.getLsbD 31 = false ∧ s.cycle < s.dev.tswAt.toNat) := by decide

theorem witness_SystemRegisterWrites_refused : allGo ([0, 1, 2, 4, 5, 0x11, 0x12, 0x13, 0x14, 0x18, 0x19, 0x1A, 0x1B, 0x22].map (fun n => Instr.swr n c2)) = true ∧
    [0x30, 0x31, 0x38, 0x39, 0x3A, 0x3B, 0x3C, 0x3D].all (fun n => let s := inContext5 (sample (.swr n c2))
      decide (s.goes (.swr n c2)) && onCell s fun c => decide (c.context ≠ 0)) = true := by decide

/-- The bounds of PERF's ranges, in context 0 and in context 5. -/
theorem witness_PoisonFlagsCounters_numbers : [0, 7, 8, 0x1F, 0x20, 0x23, 0x24, 0x3F, 0x40, 0x41, 0x4E, 0x4F, 0x50, 0x5F, 0x60, 0x61, 0x68, 0x69, 0x6A, 0xFF].all (fun n =>
      decide ((sample (.perf n c2)).goes (.perf n c2)) && decide ((inContext5 (sample (.perf n c2))).goes (.perf n c2))) = true := by decide

/-- A finite term, of which half a unit is rounded to even, added to the greatest and to the least sum. -/
theorem witness_AccumulateResults_sums : quantise .rne false 3 (-1) 0 false = (2, true) ∧ -(2 ^ 47) ≤ (2 ^ 47 - 1 : Int) ∧ (2 ^ 47 - 1 : Int) < 2 ^ 47 ∧
    (addTerm true (Val.ofInt (2 ^ 47 - 1)) (.fin false 3 (-1))).1 = Val.ofInt (2 ^ 47 - 1) ∧
    (addTerm true (Val.ofInt (-(2 ^ 47))) (.fin true 3 (-1))).1 = Val.ofInt (-(2 ^ 47)) := by decide

/-! Witnesses of the clauses about number formats. -/

/-- The spec of FP4: 1 is a multiple of its unit there, a half; 8 lies above its largest, 6; 3/16 is rounded up to its least subnormal, a half. -/
def fp4 : FloatSpec := ⟨2, 0, 3, 1, false, false⟩

theorem witness_RoundingModes_formats : Fmt.spec .e2m1 = .float fp4 ∧ max ((0 : Int) + Nat.log2 1) fp4.emin - (fp4.p - 1) = -1 ∧
    quantise .rne false 1 0 (-1) false = (2, false) ∧ max ((0 : Int) + Nat.log2 8) fp4.emin - (fp4.p - 1) = 2 ∧ quantise .rne false 8 0 2 false = (2, false) ∧
    max ((-3 : Int) + Nat.log2 3) fp4.emin - (fp4.p - 1) = -1 ∧ quantise .rup false 3 (-3) (-1) false = (1, true) ∧
    intSpec .int8 = some (8, true) ∧ quantise .rne false 300 0 0 false = (300, false) := by decide

theorem witness_RoundingModes_bounds : ((2 : Nat) : ℚ) * 2 ^ (-1 : Int) ≤ fp4.top * 2 ^ fp4.topExp ∧ (fp4.top : ℚ) * 2 ^ fp4.topExp < ((2 : Nat) : ℚ) * 2 ^ (2 : Int) ∧
    ((3 : Nat) : ℚ) * 2 ^ (-3 : Int) < 2 ^ fp4.emin := by norm_num [fp4]

/-- A word of each kind: an infinity, a NaN, the NaN of E4M3, a subnormal, and an integer below 0. -/
theorem witness_ExactArithmetic_words : layoutSpec .fp32 = some (8, 23, 127) ∧ (0x7F800000 : Word).toNat / 2 ^ 23 % 2 ^ 8 = 255 ∧ (0x7F800000 : Word).toNat % 2 ^ 23 = 0 ∧
    (0x7F800001 : Word).toNat % 2 ^ 23 = 1 ∧ layoutSpec .e4m3 = some (4, 3, 7) ∧ (0x7F : Word).toNat / 2 ^ 3 % 2 ^ 4 = 15 ∧ (0x7F : Word).toNat % 2 ^ 3 = 7 ∧
    (0x80000001 : Word).toNat / 2 ^ 23 % 2 ^ 8 = 0 ∧ (0x80000001 : Word).getLsbD 31 = true ∧ intSpec .int4 = some (4, true) ∧ intOfWord 4 true 8 = -8 := by decide

/-! Witnesses of the clauses about the scratchpad. -/

/-- The first byte of segment 0 of bank 0, and the sample with an access of four bytes there, its bank FULL and its segment live or not; its line
is of version 3, with a previous copy or without one. -/
def spadBase : Nat := 0x8000000000000

def spadAccess (i : Instr) (r : Word) (ver : Bool) : Access :=
  { accessOf i .ready (some spadBase) with
    ops := (fed i [0] [r] [0]).opnds ⟨0, 0, 1⟩ i, parts := [⟨124, 4, some spadBase, ver, 0, none, false⟩] }

def inSpad (i : Instr) (r : Word) (ver live pv : Bool) : State :=
  let s := accessing i .ready none
  let s := withCell s (fun (c : Cell) => c.updPort 5 (fun (q : Port) => { q with accs := [spadAccess i r ver] }))
  { s with mem := { s.mem with banks := [(0, ⟨.full, 0⟩)], vers := [⟨spadBase / 64, 3, pv⟩], segs :=
      if live then [⟨spadBase / 4096, true, false, 0, 0, 0⟩, ⟨pairAddr spadBase / 4096, true, false, 0, 0, 0⟩] else [] } }

/-- The parts of SpadTurn. -/
def spadTurns (s : State) (a : Access) (ver : Bool) : Bool :=
  decide (s.thermal = false ∧ (s.cell? 0).isSome = true ∧ (s.port 0 5).accs = [a] ∧ a.site.cell = 0 ∧ a.stage = .ready ∧ s.mayLeave 0 a = true ∧
    a.parts = [⟨124, 4, some spadBase, ver, 0, none, false⟩] ∧ a.dead = none ∧ target spadBase = some .spad ∧ (s.mem.bank (spadBank spadBase)).st = .full ∧
    spadBase % 64 + 4 ≤ 64 ∧ (s.slot a.site).run = none)

theorem spadTurn_of (s : State) (a : Access) (ver : Bool) (h : spadTurns s a ver = true) : SpadTurn s 0 5 a 4 spadBase ver := by
  simp only [spadTurns, decide_eq_true_eq] at h
  obtain ⟨a1, a2, a3, a4, a5, a6, a7, a8⟩ := h
  exact ⟨a1, a2, a3, a4, a5, a6, ⟨124, 0, a7⟩, a8⟩

theorem witness_MemoryReplies_spad (live : Bool) : let i := Instr.lds 5 .none .fp32 c2; let j := Instr.sts 5 .fp32 c2
    SpadTurn (inSpad i 0 false live false) 0 5 (spadAccess i 0 false) 4 spadBase false ∧ loadFmt i = some .fp32 ∧
    SpadTurn (inSpad j 0 false live false) 0 5 (spadAccess j 0 false) 4 spadBase false ∧ storeFmt j = some .fp32 ∧ (inSpad j 0 false live false).MemoryWf ∧
    storeMark (spadAccess j 0 false).ops = none ∧ ((inSpad i 0 false live false).mem.seg (spadBase / 4096)).live = live :=
  ⟨spadTurn_of _ _ _ (by cases live <;> decide +kernel), rfl, spadTurn_of _ _ _ (by cases live <;> decide +kernel), rfl, by unfold State.MemoryWf; cases live <;> decide +kernel,
    by decide +kernel, by cases live <;> decide +kernel⟩

/-- LDV asks for version 3, 2, 4 and 130 of a line of version 3, with a previous copy and without one. -/
theorem witness_MemoryReplies_ldv : let i := Instr.ldv 5 .none .fp32 c2
    ([(3, 0), (2, 255), (4, 1), (130, 127), (131, 128)] : List (Word × Nat)).all (fun x => [true, false].all (fun pv =>
      spadTurns (inSpad i x.1 true true pv) (spadAccess i x.1 true) true &&
        decide (((tokVal (spadAccess i x.1 true).ops.r).toNat % 256 + 256 - ((inSpad i x.1 true true pv).mem.version (spadBase / 64)).ver.toNat) % 256 = x.2) &&
        decide (((inSpad i x.1 true true pv).mem.version (spadBase / 64)).pv = pv ∧ ((inSpad i x.1 true true pv).mem.seg (spadBase / 4096)).live = true ∧
          ((inSpad i x.1 true true pv).mem.seg (pairAddr spadBase / 4096)).live = true))) = true := by decide +kernel

theorem witness_MemoryReplies_stv : let i := Instr.stv 5 .fp32 c2; let j := Instr.reclaim 5 c2
    [true, false].all (fun pv => spadTurns (inSpad i 0 true true pv) (spadAccess i 0 true) true && spadTurns (inSpad j 0 true true pv) (spadAccess j 0 true) true &&
      decide (((inSpad i 0 true true pv).mem.version (spadBase / 64)).pv = pv ∧ ((inSpad i 0 true true pv).mem.seg (spadBase / 4096)).live = true)) = true ∧
    (inSpad i 0 true true false).MemoryWf ∧ storeMark (spadAccess i 0 true).ops = none := by
  unfold State.MemoryWf; decide +kernel

/-- The three on a page that is not versioned. -/
theorem witness_MemoryReplies_unversioned : [Instr.ldv 5 .none .fp32 c2, .stv 5 .fp32 c2, .reclaim 5 c2].all (fun i =>
    spadTurns (inSpad i 0 false true false) (spadAccess i 0 false) false && waitsVersion i) = true := by decide +kernel

/-! Witnesses of the clauses about translation. -/

/-- Window 7 of port 63 holds the first megabyte; the page at 0 is translated by it. -/
def windowed (i : Instr) : State :=
  withCell (sample i) (fun (c : Cell) => c.updPort 63 (fun (q : Port) => { q with wins := [⟨7, 0, 0x100000, 0, true, true, false, true⟩] }))

theorem witness_WaitsForAccesses_pref : let i := Instr.pref 63 .far 63
    (windowed i).goes i ∧ (windowed i).mem.bad = [] ∧ (onCell (windowed i) fun c => (List.range 63).all (fun k => decide ((windowed i).mem.lookup (c.port 63).wins c.die c.context
      ((((c.port 63).base + BitVec.ofInt 64 ((windowed i).lval i).toInt).toNat / 64 * 64 + 64 * k) % 2 ^ 64) .load ≠ .walk))) = true := by decide +kernel

/-- A TLBINV of page 0, of all of context 0 and of everything, at a port whose window covers that page. -/
theorem witness_TranslationControl_windows : [(0 : Word), 0x1000, 0x2000].all (fun w => let i := Instr.tlbinv false c2
    let s := (windowed i).updSlot ⟨0, 0, 1⟩ (fun (sl : Slot) => { sl with l := toks [w, 0, 0] })
    decide (s.goes i) && (onCell s fun c => decide (c.context = 0) && c.ports.any (fun q => !q.wins.isEmpty)) && !coverBad (s.lval i).toNat (pairAt ((s.toks s.site .l 3).drop 1) 0) &&
      (let v := coverOf (s.lval i).toNat (pairAt ((s.toks s.site .l 3).drop 1) 0)
       decide (v.kind = 2 ∨ (v.ctx = 0 ∧ (v.kind = 1 ∨ (0 ≤ pairAt ((s.toks s.site .l 3).drop 1) 0 ∧ pairAt ((s.toks s.site .l 3).drop 1) 0 < 0x100000)))))) = true := by
  decide +kernel

/-- A record of a window: 0x2000 bytes of DRAM at 0x4000, readable and writable; and one of LENGTH 0. -/
def record (len : Nat) : List Byte := leBytes 8 0x1000 ++ leBytes 8 len ++ leBytes 8 0x4000 ++ leBytes 4 0 ++ leBytes 4 3

theorem witness_TranslationControl_install : winRecord 7 (record 0x2000) = some ⟨7, 0x1000, 0x2000, 0x4000, true, true, false, true⟩ ∧ fieldAt (record 0) 8 8 = 0 ∧
    (let i := Instr.win 63 7 c2; let a := accessOf i (.done [⟨0, none⟩]) none
     let s := withCell (windowed i) (fun (c : Cell) => c.updPort 63 (fun (q : Port) => { q with accs := [a] }))
     s.thermal = false ∧ (s.port 0 63).accs = [a] ∧ a.stage = .done [⟨0, none⟩] ∧ a.instr = i ∧ a.site.cell = 0) := by decide +kernel

/-! Witnesses of the clauses about commands, collectives and systolic regions. -/

/-- CMD.BULK, whose r another word of its block names, with no predecessor in either half, with one that has not retired, and with a malformed one. -/
theorem witness_CommandInstructions_waits : [(0xFFFFFFFF : Word), 0xFFFFEFFF, 0xFFFFF000].all (fun (w : Word) => let i := Instr.cmdBulk true c2
    let s := withBlock { fed i [32, 0] [w] [] with cmds := [command false] } (fun (b : Block) => { b with words := b.words ++ [(encode (.mov none (some ⟨.r, 1⟩))).getD 0] })
    decide (s.goes i ∧ (s.opnds s.site i).r = some ⟨w, none⟩ ∧ s.freeCmd = some 1 ∧ s.performedBefore 0 s.stamps = true)) = true ∧
    (0xEFFF % 4096, 0xEFFF / 4096) = ((command false).slot, (command false).gen) ∧ 0xF000 / 4096 = 15 := by decide +kernel

/-- A descriptor at 0, in a state that translates it; the group of the region has cell 0 as its member, or none. -/
def describing (i : Instr) (d : List Byte) (members : List Nat) : State :=
  let s := (grouped i []).updRegion 0 (fun (r : Region) => { r with groups := [⟨0, members, 1, [], [(0, 1)]⟩] })
  translated { s with mem := { s.mem with bytes := Memory.setAll [] 0 d } }

/-- An all-to-all of one block, FP32, from 0x100 to 0x200, whose counts stand at 0x300, of one participant. -/
def a2aDesc : List Byte := [2, 0, 0, 0, 0, 0, 0, 0] ++ leBytes 8 0x100 ++ leBytes 8 0x200 ++ leBytes 8 0x300 ++ List.replicate 8 0 ++ [0, 0, 0, 0, 1, 0, 0, 0] ++ [1, 0, 0, 0, 0, 0, 0, 0] ++
  List.replicate 8 0

theorem witness_CommandInstructions_groups : [[0], [1]].all (fun members => let i := Instr.coll .fp32 .add .grp .allReduce c2; let s := describing i collDesc members
    decide (s.goes i ∧ s.performedBefore 0 0 = true ∧ s.mem.lookup [] 0 0 0 .load = .ok 0 false ∧ s.colls = [] ∧
      (List.range 64).map (fun k => Memory.get s.mem.bytes k) = collDesc) && !collBad ⟨.allReduce, .fp32, .add, .grp⟩ collDesc false &&
      !anyMeet (collRanges ⟨.allReduce, .fp32, .add, .grp⟩ collDesc []) &&
      decide ((s.group? 0 0).any (fun g => g.members.contains 0) = members.contains 0)) = true := by decide +kernel

theorem witness_CommandInstructions_a2a : (let i := Instr.coll .fp32 .add .sys .a2aBlock c2; let s := describing i a2aDesc [0]
    s.goes i ∧ (List.range 64).map (fun k => Memory.get s.mem.bytes k) = a2aDesc ∧ collBad ⟨.a2aBlock, .fp32, .add, .sys⟩ a2aDesc false = false ∧
      (∀ y ∈ lineChunks (collScnt a2aDesc) (4 * collNpart a2aDesc), s.mem.lookup [] 0 0 y.1 .load = .ok y.1 false ∧ target y.1 = some .dram) ∧
      (List.range (collNpart a2aDesc)).map (fun k => fieldAt ((lineChunks (collScnt a2aDesc) (4 * collNpart a2aDesc)).flatMap (fun y => s.mem.plain y.1 y.2)) (4 * k) 4) = [0] ∧
      anyMeet (collRanges ⟨.a2aBlock, .fp32, .add, .sys⟩ a2aDesc [0]) = false) := by decide +kernel

/-- The rectangle of another systolic region covers the first cell. -/
theorem witness_MatrixInstructions_overlap : (let i := Instr.syscfg 63 .int8 c2
    let s := (fed i [0] [1] []).updRegion 0 (fun (r : Region) => { r with sys := r.sys.set 1 { Systolic.none with on := true, w := 1, h := 1 } })
    s.goes i ∧ s.sysIdle 0 0 = true ∧ (s.sysAt 0 0).busy ≤ s.cycle ∧ (onRegion s fun r => sysMeets r.sys 0 0 0 1 1) = true) := by decide

/-! Witnesses of the clauses about launches, copies and matrices. -/

theorem witness_HostSteps_queued : (booted .ready (sample .nop)).queued.length < 64 ∧ (booted .ready (sample .nop)).boot.minimal = false ∧
    ({ booted .starting .reset with boot := { (booted .starting .reset).boot with minimal := true } } : State).boot.phase ≠ .off := by decide

theorem witness_LaunchSteps_memory : granting.mem.bad = [] ∧ (settled id).mem.bad = [] ∧
    (onRegion (settled (fun (r : Region) => { r with liftReq := some 1, drainedAt := some 0 })) fun r =>
      decide ((imageVar image 1 0).fold ≤ 4 ∧ (imageVar image 0 0).fold ≤ 4 ∧ r.switch = none)) = true := by decide +kernel

/-- A plain copy and a reduce whose four bytes have been read, their lines translated one to one. -/
theorem witness_AccessSteps_lands : (let j := { copyJob .plain true with got := List.replicate 4 ⟨5, false⟩ }; let s := copyingNow j
      (onCell s fun c => decide ((c.copySlot 255).job = some j ∧ j.ended = false ∧ j.eng.held = none)) = true ∧ j.writes.drop j.at_ ≠ [] ∧
      ∀ w ∈ j.writes.drop j.at_, Lands s j.eng .store id (lineChunks w.1 w.2.length)) ∧
    (let j := { copyJob (.reduce .fp32 .add) true with got := List.replicate 4 ⟨5, false⟩ }; let s := copyingNow j
      (copyLines j.desc)[j.at_]? = some (0x200, 4, 0) ∧ Lands s j.eng .both id (lineChunks 0x200 4) ∧
      ∀ x ∈ lineChunks 0x200 4, target (id x.1) = some .dram ∧ s.mem.unitBusy (id x.1) x.2 = false) ∧ 0 < 4 / reduceSize .fp32 := by
  unfold Lands; decide +kernel

/-- A dense operation of one row and one column, FP32, with A at 0x100 and C at this address; its weights are loaded and its sweep is over. -/
def rowOp (c : Nat) : SysOp :=
  { sysOp ([0, 0, 0, 0, 0, 0, 0, 0] ++ leBytes 8 0x100 ++ List.replicate 8 0 ++ leBytes 8 c ++ List.replicate 22 0 ++ [1, 0, 1, 0] ++ List.replicate 6 0) 4 with started := true }

theorem witness_EngineSteps_rows : [0, 0x300].all (fun ca => let x := rowOp ca; let s := translated (opQueued x); let o := matOf x.desc x.instr; let y := s.sysAt 0 3
    decide (y.queue = [x] ∧ x.started = true ∧ x.eng.held = none ∧ x.swept ≤ s.cycle ∧ x.status = 0 ∧ x.bands = [] ∧ x.out = none ∧ x.row < o.m ∧ o.n ≤ 512 * y.w ∧ o.c = ca ∧
        o.n = 1 ∧ o.k = 1) &&
      (match s.readEng (s.shareFlags x.eng) (elemStart (o.af.getD .fp32).width [o.aRow (o.af.getD .fp32) x.row]) (o.rowRanges (o.af.getD .fp32) x.row) with
        | (s2, e, .bytes l) => decide (l.length = 4) && (lineChunks (vaPlus o.c (x.row * o.ldc)) 4).all (fun z =>
            decide (s2.mem.lookup (s2.winsOf e) (e.cell / 1024 % 4) e.ctx z.1 .store = .ok z.1 false ∧ s2.mem.refuses z.1 = false ∧ target z.1 = some .dram ∧
              s2.mem.bad.contains (z.1 / 64) = false))
        | _ => false) && !o.init && decide ((s.cells.map (fun c => c.num)).Nodup) && s.cells.all (fun c => decide (c.pes.length = 16) && c.pes.all (fun p => decide (p.acc.length = 4))) &&
      (List.range (4 * y.w)).all (fun c => (s.sysPe 0 y (4 * y.h - 1) c).isSome)) = true := by decide +kernel

/-- Products of 2 by 3 and of 2 by an infinity; a chunk of one that is scaled by 2. -/
theorem witness_EngineSteps_chunks : (mulVal (.fin false 1 1) (.inf true)).1 = .inf true ∧ (Val.fin false 1 1).isFin = true ∧ (128 : Byte) ≠ 0xFF ∧
    (mulVal (.zero false) (.inf true)).2 = flagNV ∧ 0 < 32 ∧ [((5 : Nat), true)][0]? = some (5, true) := by decide

/-! Witnesses of the clauses about parks and migrations. -/

/-- The image with a channel of four places from the block of its first variant to itself, and with such a block in a cell that switches. -/
def chanImage : List Word := image.set 36 0xE0 ++ [0x3000001, 0, 4]

def moving : State :=
  { switching (.timed 1) with
    images := [⟨0, 0, 0x1000, chanImage⟩],
    cells := (sample .nop).cells.map (fun (c : Cell) => { c with cur := none, blocks := c.blocks.map (fun (b : Block) => { b with firing := false, slots := [], ins := [{ b.inChan 0 with cp := 0, pp := 2 }] }) }) }

/-- Whether block 0 of a variant lies alone at its place, and channel 0 of it ends in it. -/
def placesFirst (v : ImgVar) : Bool :=
  match v.blocks, v.chans with
  | [b], [e] => decide (b.x < v.w ∧ b.y < v.h ∧ b.ctx < 4 ∧ (e.dx, e.dy, e.dctx) = (b.x, b.y, b.ctx) ∧ e.dch < b.nin)
  | _, _ => false

theorem witness_SwitchSteps_moves : (onRegion moving fun r => moving.atSwitchPoint r && decide (r.liftReq = none) && (moving.varOf r).any (fun old =>
      ((moving.ordered r r.lift).find? (fun x => moving.isTarget r (.timed 1) x && moving.migratable r.rid old x.2)).any (fun x => placesFirst x.2 &&
        old.blocks.all (fun b => (moving.varBlock 0 b).isSome && (moving.cellAt 0 b.x b.y).isSome)))) = true ∧
    (moving.regions.map (fun x => x.rid)).Nodup ∧ ((moving.cellsOf 0).map (fun c => c.num)).Nodup := by decide +kernel

/-- Every number of a list of one is 0. -/
theorem placesFirst_alone (v : ImgVar) (h : placesFirst v = true) : ∃ b e, v.placesBlock 0 b ∧ v.placesChan 0 e b := by
  unfold placesFirst at h
  split at h
  · rename_i b e hb he
    simp only [decide_eq_true_eq] at h
    refine ⟨b, e, ⟨by simp [hb], h.1, h.2.1, h.2.2.1, fun j d hj _ => ?_⟩, ⟨by simp [he], h.2.2.2.1, h.2.2.2.2, fun j d hj _ => ?_⟩⟩
    · simp only [hb, List.getElem?_singleton] at hj
      by_contra hn
      simp [hn] at hj
    · simp only [he, List.getElem?_singleton] at hj
      by_contra hn
      simp [hn] at hj
  · simp at h

/-- A park whose switch carries a fault, and one whose switch carries none. -/
def parkingFor (f : Option FaultRec) : State := parkable.updRegion 0 (fun (r : Region) => { r with switch := some ⟨.hold, 0, false, f⟩ })

theorem witness_SwitchSteps_parked : [none, (holding.region? 0).bind holding.parkFault].all (fun f => let s := parkingFor f
    onRegion s fun r => decide (r.switch = some ⟨.hold, 0, false, f⟩) && s.regionGoes 0 && decide (s.thermal = false) && r.sys.all Systolic.parkable &&
      (let s1 := s.settlePointers ((s.cellsOf 0).map (fun c => c.num))
       (s1.saveCells r.ctx s1.fresh (s1.cellsOf 0)).2)) = true := by decide +kernel

theorem witness_SwitchSteps_fault : (onRegion holding fun r => !r.gone && holding.holdDue 0 && (holding.parkFault r).isSome) = true := by decide +kernel

/-! Witnesses: the machine as a whole. -/

/-- The next step of the machine with a word placed at its first slot runs it. -/
theorem witness_StepRunsDecodedInstruction : (State.reset.withFetchWord 32 0x04000102).agenda = [.issue ⟨0, 0, 1⟩] ∧
    (State.reset.withFetchWord 32 0x04000102).fetch ⟨0, 0, 1⟩ = some 0x04000102 ∧ decodeWord 0x04000102 = .ok (.add none c2) ∧
    (booted .ready .reset).agenda = [] ∧ State.reset.thermal = false ∧ State.reset.boot.phase ≠ .off := by decide

theorem witness_DecodeEncodeRoundTrip : (Instr.coll .bf16 .max .sys .reduceScatter (some ⟨.a, 63⟩)).wellFormed = true ∧
    (encode (.coll .bf16 .max .sys .reduceScatter (some ⟨.a, 63⟩))).isSome = true := by decide

/-- A step from a state whose memory is canonical and holds a byte. -/
theorem witness_StepKeepsMemoryCanonical : ∃ t, Memory.wf (mapped State.reset).mem.bytes = true ∧ step (mapped State.reset) = .next t := ⟨_, by decide, rfl⟩

/-! Results worked by hand from the rules. -/

/-- R141: 0xFFFFFFFF + 1 wraps; the high half of (-1) * (-1) signed and unsigned. -/
theorem test_arithmetic : sent (.add none c2) (fed (.add none c2) [0xFFFFFFFF] [1] []) = [0] ∧ sent (.mulh none c2) (fed (.mulh none c2) [0xFFFFFFFF] [0xFFFFFFFF] []) = [0] ∧
    sent (.mulhu none c2) (fed (.mulhu none c2) [0xFFFFFFFF] [0xFFFFFFFF] []) = [0xFFFFFFFE] ∧ sent (.sub none c2) (fed (.sub none c2) [1] [2] []) = [0xFFFFFFFF] := by decide

/-- R140, R144 to R146: SHLOR, a shift by 33 AND 31, SAR of a negative word, BFX.SX of a field whose top bit is set. -/
theorem test_shifts_and_fields : sent (.shlor 0x1234 c2) (fed (.shlor 0x1234 c2) [1] [] []) = [0x9234] ∧ sent (.shl none c2) (fed (.shl none c2) [3] [33] []) = [6] ∧
    sent (.sar none c2) (fed (.sar none c2) [0x80000000] [31] []) = [0xFFFFFFFF] ∧ sent (.bfx true 7 4 c2) (fed (.bfx true 7 4 c2) [0xABC0] [] []) = [0xFFFFFFBC] ∧
    sent (.clz none c2) (fed (.clz none c2) [0] [] []) = [32] ∧ sent (.brev none c2) (fed (.brev none c2) [1] [] []) = [0x80000000] := by decide

/-- R147, R148: CMP.LT is signed, CMPI.LTU takes its immediate unsigned. -/
theorem test_comparisons : sent (.cmp .lt none c2) (fed (.cmp .lt none c2) [0xFFFFFFFF] [0] []) = [1] ∧ sent (.cmp .ltu none c2) (fed (.cmp .ltu none c2) [0xFFFFFFFF] [0] []) = [0] ∧
    sent (.cmpi .ltu 0xFA0 c2) (fed (.cmpi .ltu 0xFA0 c2) [3999] [] []) = [1] ∧ sent (.cmpi .ge 0xFFF c2) (fed (.cmpi .ge 0xFFF c2) [0] [] []) = [1] := by decide

/-- R151, R152: the true path is c0; MERGE takes r on a false predicate and leaves l. -/
theorem test_paths : (after (.steer (some ⟨.l, 3⟩) c2) (fed (.steer (some ⟨.l, 3⟩) c2) [7] [] [1])).flight.map (fun (f : Flight) => f.site.index) = [2] ∧
    sent (.merge none c2) (fed (.merge none c2) [7] [9] [0]) = [9] ∧
    ((after (.merge none c2) (fed (.merge none c2) [7] [9] [0])).slot ⟨0, 0, 1⟩).l.toks = [⟨7, none⟩] := by decide

/-- R142: the most negative number by -1, and a division by 0, as the PE holds them. -/
theorem test_divisions : (onCell (after (.div none c2) (fed (.div none c2) [0x80000000] [0xFFFFFFFF] [])) fun c => (c.pe 0).division.any (fun d => d.tok.v == 0x80000000)) = true ∧
    (onCell (after (.rem none c2) (fed (.rem none c2) [0xFFFFFFF9] [2] [])) fun c => (c.pe 0).division.any (fun d => d.tok.v == 0xFFFFFFFF)) = true ∧
    (onCell (after (.divu none c2) (fed (.divu none c2) [7] [0] [])) fun c => (c.pe 0).division.any (fun d => d.tok.v == 0xFFFFFFFF)) = true := by decide

/-- R163, R167: RD.LAST leaves g63 invalid; a read of it afterwards raises DEAD_REG, code 1, with the register in FLT_ADDR. -/
theorem test_dead_read : (onCell (after (.rd 63 .last c2) (sample (.rd 63 .last c2))) fun c => !(c.regs.gReg 63).now.valid) = true ∧
    (onCell (after (.rd 63 .none c2) deadRegister) fun c => decide (c.flt.regs.cause = 0x80000001 ∧ c.flt.regs.addr = 63)) = true := by decide

/-- R329, R348: TRAP 255 with token 7: CAUSE holds VALID, SUB and CODE 16; ORIGIN is slot 1 of PE 0 of cell 0. -/
theorem test_trap : (onCell (after (.trap 255) (fed (.trap 255) [7] [] [])) fun c => decide (c.flt.regs.cause &&& 0x8000FFFF = 0x8000FF10 ∧ c.flt.regs.aux = 7 ∧
    c.flt.regs.origin = 0x00010000)) = true := by decide

/-- R220, R221: AGB joins its two tokens, low half first. -/
theorem test_port_base : ((after (.agb 5) (fed (.agb 5) [0x1000] [1] [])).port 0 5).base = 0x100001000 := by decide

/-- R51, R54: 1.5 is 0x3FC00000 in FP32 and 0x3FC0 in BF16, 6 is 0x7 in FP4 E2M1, -1 is 0xFF in INT8 sign-extended to its word. -/
theorem test_word_formats : toWord .fp32 .rne (Exact.of (.fin false 3 (-1))) = (0x3FC00000, 0) ∧ toWord .bf16 .rne (Exact.of (.fin false 3 (-1))) = (0x3FC0, 0) ∧
    toWord .e2m1 .rne (Exact.of (.fin false 6 0)) = (7, 0) ∧ (toWord .int8 .rne (Exact.of (.fin true 1 0))).1.setWidth 8 = (0xFF : Byte) := by decide

/-- R6, R222: a store of 0x11223344 at 124 puts 0x44 there and 0x11 at 127, and replies 0. -/
theorem test_store : (let i := Instr.sts 5 .fp32 c2
    let a := { accessOf i .ready (some 124) with ops := ⟨some ⟨0, none⟩, some ⟨0x11223344, none⟩, none, none⟩ }
    let t := after (.memoryReply 0 5 64) <| after (.memoryReply 0 5 0) (withCell (sample i) (fun (c : Cell) => c.updPort 5 (fun (q : Port) => { q with accs := [a] })))
    t.mem.look 124 = some 0x44 ∧ t.mem.look 127 = some 0x11 ∧ t.flight.map (fun (f : Flight) => f.tok.v) = [0]) := by decide

/-- R307: FADD of 1.0 to the word 1.0 writes 2.0 and replies 1.0; INCW of a word at its limit writes 0. -/
theorem test_atomics : (atomNew .fadd 0x3F800000 0x3F800000 0).1 = some 0x40000000 ∧ (atomNew .incw 5 5 0).1 = some 0 ∧ (atomNew .min 0xFFFFFFFF 1 0).1 = some 0xFFFFFFFF := by
  decide

/-- R346, R347: SWR of FAULT_HOLD in context 0; SRD of FAULT_HOLD at reset reads 270,000. -/
theorem test_system_registers : (after (.swr 0x039 c2) (fed (.swr 0x039 c2) [5] [] [])).dev.faultHold = 5 ∧ sent (.srd 0x039 c2) (sample (.srd 0x039 c2)) = [270000] := by decide

end Sys2Proof.Tests
end

section
/-! PROOFS. The encodings of R27 to R50: every word decodes to the instruction that it encodes. -/

namespace Sys2Proof.Laws.Opcode

/-- The statements of Laws/PerInstr.lean, one for each constructor, as one statement about every instruction. -/
theorem statement : ∀ i, Statement i :=
  Instr.rec (motive := Statement)
    nop mov const shlor add addi sub neg mul mulh mulhu div divu rem remu muli and andi or ori xor xori shl shli shr shri sar sari clz popc brev
    bfx min max minu maxu cmp cmpi sel test steer merge gate pand por pnot pxor drop cnt cntx accum fireno cellid laneid rd wr rdp wrp dadd dsub
    dmul dfma dfms dmac ddiv dsqrt drsqrt drcp dexp2 dlog2 dscale dneg dabs dcvt dmin dmax drelu dclamp dthr dcmp dsel dkill dtrunc dnorm drep
    dxtr dlane dshuf drot dred dbcast dacc daccrd daccz dwst drdv dwrv recv peek send advc advp chst agb agl agfmt aggo aggat agsct agctr retry
    lds sts ldv stv reclaim pref drain win copy copyr copyc cplw atom lda stl fence own upd arrive waitg bar quiet lift seamoPush seamoPop
    seamoStatus coll wqadd wqtake wqclose cmdMatrix cmdBulk cmdCollective cmdLift cmdChild cmdwait egress ingress syscfg mma mmasp mmarow wedge
    prune nmhdr nmchk nmest scana scano isld isprb union mergek fibh trap halt srd swr ptst pclr excrd bankk banko bankw tlbinv perf cyc fend
    launchToken hostRegisterWrite ingToken egDataRead ownerWrite rcvGo hostMemoryRead hostMemoryWrite launchDispatch regionGrant seedInject
    preload firingStart firingEnd tokenArrive divideComplete ageCounterExpiry benchClockStop bankIdleTimeout bankWakeDone spadBankIdleTimeout
    spadBankWakeDone spallArrive memoryReply pageWalk atomicUnitApply copyrLineUpdate copySrcComplete copyVisComplete commandIssue commandRetire
    matrixOpStart matrixOpComplete collComplete seamRemoteEntry phaseNotify updApply workQueueApply drainedReport liftWedge contextRetire
    hangLimitExpiry faultHoldExpiry switchGraceExpiry tswAtReached tswCtlWrite resumeWrite fltCauseClear switchPoint park regionResume softError
    deviceStart firmwareReady readyTimeout recoveryTimeout droopTrip droopRelease currentCeilingTrip currentCeilingRelease thermalTrip
    thermalRelease watchdogExpiry budgetChange modCap dbgReq sidebandRegisterWrite firmwareUpdate attestationQuote returnCommand debugRead
    sidebandWake i3cAddressTimeout firmwareFailureReport packageSleepEntry supplyLoss tlbinvRemoteBroadcast

end Sys2Proof.Laws.Opcode

namespace Sys2Proof.Decoding
open Sys2Proof.Laws

/-! A field of a number that is a sum of fields. -/

@[simp] theorem bits_self {n w : Nat} (h : n < 2 ^ w) : bits n 0 w = n := by
  simp [bits, Nat.mod_eq_of_lt h]

@[simp] theorem bits_mul {a m lo w : Nat} (hm : m = 2 ^ lo) (ha : a < 2 ^ w) : bits (a * m) lo w = a := by
  simp [bits, hm, Nat.mod_eq_of_lt ha]

@[simp] theorem bits_of_lt {n lo w : Nat} (h : n < 2 ^ lo) : bits n lo w = 0 := by
  simp [bits, Nat.div_eq_of_lt h]

@[simp] theorem bits_of_dvd {n lo w : Nat} (h : 2 ^ (lo + w) ∣ n) : bits n lo w = 0 := by
  obtain ⟨k, rfl⟩ := h
  rw [bits, pow_add, mul_assoc, Nat.mul_div_cancel_left _ (by positivity), Nat.mul_mod_right]

@[simp] theorem bits_add_above {x y lo w : Nat} (hx : 2 ^ (lo + w) ∣ x) : bits (x + y) lo w = bits y lo w := by
  obtain ⟨k, rfl⟩ := hx
  rw [bits, bits, pow_add, mul_assoc, Nat.mul_add_div (by positivity), Nat.mul_add_mod]

@[simp] theorem bits_add_below {x y lo w : Nat} (hx : 2 ^ lo ∣ x) (hy : y < 2 ^ lo) : bits (x + y) lo w = bits x lo w := by
  obtain ⟨k, rfl⟩ := hx
  rw [bits, bits, Nat.mul_add_div (by positivity), Nat.div_eq_of_lt hy, Nat.mul_div_cancel_left _ (by positivity), add_zero]

@[simp] theorem bits_add_add_below {x y z lo w : Nat} (hx : 2 ^ lo ∣ x) (h : y + z < 2 ^ lo) : bits (x + y + z) lo w = bits x lo w := by
  rw [add_assoc, bits_add_below hx h]

@[simp] theorem bits_add_low {x y lo w : Nat} (hx : x < 2 ^ lo) (hy : 2 ^ lo ∣ y) : bits (x + y) lo w = bits y lo w := by
  rw [add_comm, bits_add_below hy hx]

@[simp] theorem bits_add_high {x y lo w : Nat} (hy : 2 ^ (lo + w) ∣ y) : bits (x + y) lo w = bits x lo w := by
  rw [add_comm, bits_add_above hy]

/-- A field of a number that is written out. -/
@[simp] theorem bits_ofNat (n lo w : Nat) :
    bits (no_index (OfNat.ofNat n)) lo w = OfNat.ofNat n / 2 ^ lo % 2 ^ w := rfl

@[simp] theorem imm15_div_mod (n : Nat) : imm15 (n / 512) (n % 512) = n := Nat.div_add_mod' n 512

/-! The code of each operand decodes to it (R18, R28 to R33, R38 to R40). -/

@[simp] theorem fieldSel_ofCode_code (x : FieldSel) : FieldSel.ofCode x.code = x := by cases x <;> rfl
@[simp] theorem fmt_ofCode_code (f : Fmt) : Fmt.ofCode f.code = some f := by cases f <;> rfl
@[simp] theorem rnd_ofCode_code (x : Rnd) : Rnd.ofCode x.code = x := by cases x <;> rfl
@[simp] theorem cond_ofCode_code (x : Cond) : Cond.ofCode x.code = x := by cases x <;> rfl
@[simp] theorem scope_ofCode_code (x : Scope) : Scope.ofCode x.code = some x := by cases x <;> rfl
@[simp] theorem order_ofCode_code (x : Order) : Order.ofCode x.code = x := by cases x <;> rfl
@[simp] theorem atomOp_ofCode_code (x : AtomOp) : AtomOp.ofCode x.code = some x := by cases x <;> rfl
@[simp] theorem redOp_ofCode_code (x : RedOp) : RedOp.ofCode x.code = some x := by cases x <;> rfl
@[simp] theorem hint_ofCode_code (x : Hint) : Hint.ofCode x.code = some x := by cases x <;> rfl
@[simp] theorem drainPath_ofCode_code (x : DrainPath) : DrainPath.ofCode x.code = x := by cases x <;> rfl
@[simp] theorem collKind_ofCode_code (x : CollKind) : CollKind.ofCode x.code = some x := by cases x <;> rfl
@[simp] theorem bankFile_ofCode_code (x : BankFile) : BankFile.ofCode x.code = some x := by cases x <;> rfl

theorem fieldSel_code_lt (x : FieldSel) : x.code < 4 := by cases x <;> decide

@[simp] theorem consumerOf_consumerCode (c : Consumer) : consumerOf (consumerCode c) = .ok c := by
  obtain _ | ⟨f, n⟩ := c
  · rfl
  · have := fieldSel_code_lt f
    have hv : ¬ 256 + f.code * 64 + n.toNat < 256 := by omega
    simp (disch := omega) [consumerOf, consumerCode, hv]

/-! A check that holds, and a field whose code is admitted. -/

@[simp] theorem need_true (r : Reject) : need true r = .ok () := rfl

@[simp] theorem fieldOf_some {α : Type} (a : α) : fieldOf (some a) = .ok a := rfl

@[simp] theorem ok_bind {ε α β : Type} (a : α) (f : α → Except ε β) : ((.ok a : Except ε α) >>= f) = f a := rfl

/-- A word that holds nothing but its opcode and two consumer slots (R34, R35). -/
theorem consumers_read (mk : Consumer → Consumer → Instr) (c1 c0 : Consumer) :
    (do need (bits 0 0 6 == 0) .field
        let c0 ← consumerOf (consumerCode c0)
        let c1 ← consumerOf (consumerCode c1)
        return mk c1 c0) = .ok (mk c1 c0) := by
  simp

section Tables
variable {i : Instr} {x : Parts} (hw : i.wellFormed = true) (h : encodeParts i = some x)
include hw h

/-! The decoder's tables, each on the words of its opcodes: every field of a word is read where the encoder has put it. The steps have no word, and the
instructions of the other tables have other opcodes. -/

/-- R35: the control plane, the scalar registers and the predicates. -/
theorem decodeControl_encodeParts (hhi : x.op < 0x40) : decodeControl x.op x.hi x.mid x.c0 = .ok i := by
  cases i <;> cases h <;> dsimp only [Parts.imm, Instr.wellFormed] at *
  case nop | const imm c0 | shlor imm c0 | addi imm c0 | muli imm c0 | andi imm c0 | ori imm c0 | xori imm c0 | shli sh c0 | shri sh c0 | sari sh c0 |
      drop | wr g c0 | wrp k c0 =>
    simp (disch := omega) [decodeControl]
  case mov c1 c0 | add c1 c0 | sub c1 c0 | neg c1 c0 | mul c1 c0 | mulh c1 c0 | mulhu c1 c0 | div c1 c0 | divu c1 c0 | rem c1 c0 | remu c1 c0 |
      and c1 c0 | or c1 c0 | xor c1 c0 | shl c1 c0 | shr c1 c0 | sar c1 c0 | clz c1 c0 | popc c1 c0 | brev c1 c0 | min c1 c0 | max c1 c0 |
      minu c1 c0 | maxu c1 c0 | sel c1 c0 | test c1 c0 | steer c1 c0 | merge c1 c0 | pand c1 c0 | por c1 c0 | pnot c1 c0 | pxor c1 c0 | cntx c1 c0 |
      accum c1 c0 | fireno c1 c0 | cellid c1 c0 | laneid c1 c0 =>
    exact consumers_read _ c1 c0
  case bfx b wm1 low c0 | gate b c1 c0 =>
    have := bool_toNat_lt b
    simp (disch := omega) [decodeControl]
  case cmp k c1 c0 | cmpi k imm c0 =>
    have := cond_code_lt k
    simp (disch := omega) [decodeControl]
  case cnt n c0 =>
    simp (disch := omega) [decodeControl, hw]
  case rd g h c0 | rdp k h c0 =>
    have := hint_code_lt h
    simp (disch := omega) [decodeControl]
  all_goals omega

/-- R36: the data plane. -/
theorem decodeDataPlane_encodeParts (hlo : 0x40 ≤ x.op) (hhi : x.op < 0x80) : decodeDataPlane x.op x.hi x.mid x.c0 = .ok i := by
  cases i <;> cases h <;> dsimp only [Parts.imm, Instr.wellFormed] at *
  case dadd f rm c1 c0 | dsub f rm c1 c0 | dmul f rm c1 c0 | dfma f rm c1 c0 | dfms f rm c1 c0 | ddiv f rm c1 c0 | dsqrt f rm c1 c0 |
      drsqrt f rm c1 c0 | drcp f rm c1 c0 | dexp2 f rm c1 c0 | dlog2 f rm c1 c0 | dscale f rm c1 c0 | dneg f rm c1 c0 | dabs f rm c1 c0 |
      dcvt f rm c1 c0 | dmin f rm c1 c0 | dmax f rm c1 c0 | drelu f rm c1 c0 | dclamp f rm c1 c0 | dthr f rm c1 c0 | dsel f rm c1 c0 |
      dkill f rm c1 c0 | dtrunc f rm c1 c0 | dnorm f rm c1 c0 | dxtr f rm c1 c0 | dlane f rm c1 c0 | dshuf f rm c1 c0 | drot f rm c1 c0 |
      dred f rm c1 c0 | dbcast f rm c1 c0 | daccrd f rm acc c0 | dwrv v f rm c0 =>
    have := fmt_code_lt f
    have := rnd_code_lt rm
    simp (disch := omega) [decodeDataPlane, hw]
  case dmac f acc | drep f c1 c0 | dwst f =>
    have := fmt_code_lt f
    simp (disch := omega) [decodeDataPlane, hw]
  case dcmp k c1 c0 =>
    have := cond_code_lt k
    simp (disch := omega) [decodeDataPlane, hw]
  case dacc acc | daccz acc =>
    simp (disch := omega) [decodeDataPlane]
  case drdv v h f c0 =>
    have := hint_code_lt h
    have := fmt_code_lt f
    simp (disch := omega) [decodeDataPlane, hw]
  all_goals omega

/-- R37: channels. -/
theorem decodeChannel_encodeParts (hlo : 0x80 ≤ x.op) (hhi : x.op < 0x90) : decodeChannel x.op x.hi x.mid x.c0 = .ok i := by
  cases i <;> cases h <;> dsimp only [Parts.imm, Instr.wellFormed] at *
  case recv ch n off c0 | peek ch n off c0 | send ch n | advc ch n | advp ch n =>
    simp (disch := omega) [decodeChannel, hw]
  case chst ch b c0 =>
    have := bool_toNat_lt b
    simp (disch := omega) [decodeChannel]
  all_goals omega

/-- R38: streams, ports and copies. -/
theorem decodeStream_encodeParts (hlo : 0x90 ≤ x.op) (hhi : x.op < 0xB0) : decodeStream x.op x.hi x.mid x.c0 = .ok i := by
  cases i <;> cases h <;> dsimp only [Parts.imm, Instr.wellFormed] at *
  case agb p | aggo p c0 | retry p c0 | reclaim p c0 | win p w c0 =>
    simp (disch := omega) [decodeStream]
  case agl p lv | agctr p lv c0 =>
    simp (disch := omega) [decodeStream, hw]
  case agfmt p f | aggat p f c0 | agsct p f c0 | sts p f c0 | stv p f c0 =>
    have := fmt_code_lt f
    simp (disch := omega) [decodeStream, hw]
  case lds p h f c0 | ldv p h f c0 =>
    have := hint_code_lt h
    have := fmt_code_lt f
    simp (disch := omega) [decodeStream, hw]
  case pref p h depth | copyc p h s c0 =>
    have := hint_code_lt h
    simp (disch := omega) [decodeStream, hw]
  case drain path c0 =>
    have := drainPath_code_lt path
    simp (disch := omega) [decodeStream]
  case copy p h c0 =>
    have := hint_code_lt h
    simp (disch := omega) [decodeStream]
  case copyr p h f op c0 =>
    have := hint_code_lt h
    have := fmt_code_lt f
    have := redOp_code_lt op
    simp (disch := omega) [decodeStream, hw]
  case cplw b c0 =>
    have := bool_toNat_lt b
    simp (disch := omega) [decodeStream]
  all_goals omega

/-- R39: memory words, barriers, seams, queues and commands. -/
theorem decodeSync_encodeParts (hlo : 0xB0 ≤ x.op) (hhi : x.op < 0xC8) : decodeSync x.op x.hi x.mid x.c0 = .ok i := by
  cases i <;> cases h <;> dsimp only [Parts.imm, Instr.wellFormed] at *
  case atom p sc o op c0 =>
    have := scope_code_lt sc
    have := order_code_lt o
    have := atomOp_code_lt op
    simp (disch := omega) [decodeSync]
  case lda p sc b c0 | stl p sc b c0 | wqadd p sc b c0 | wqtake p sc b c0 | wqclose p sc b c0 | cmdwait sc b c0 =>
    have := scope_code_lt sc
    have := bool_toNat_lt b
    simp (disch := omega) [decodeSync]
  case fence sc c0 | quiet sc c0 =>
    have := scope_code_lt sc
    simp (disch := omega) [decodeSync]
  case own p op =>
    have := atomOp_code_lt op
    simp (disch := omega) [decodeSync, hw]
  case upd p | lift | seamoStatus p c0 =>
    simp (disch := omega) [decodeSync]
  case arrive sc b c0 | waitg sc b c0 =>
    have := scope_code_lt sc
    have := bool_toNat_lt b
    simp (disch := omega) [decodeSync, hw]
  case bar sc ar c0 =>
    have := scope_code_lt sc
    cases ar <;> simp (disch := omega) [decodeSync, hw, arOf]
  case seamoPush p b c0 | seamoPop p b c0 | cmdMatrix b c0 | cmdBulk b c0 | cmdCollective b c0 | cmdLift b c0 | cmdChild b c0 | egress p b c0 |
      ingress p b c0 =>
    have := bool_toNat_lt b
    simp (disch := omega) [decodeSync]
  case coll f op sc kind c0 =>
    have := fmt_code_lt f
    have := redOp_code_lt op
    have := scope_code_lt sc
    have := collKind_code_lt kind
    simp (disch := omega) [decodeSync, hw]
  all_goals omega

/-- R38: engines. -/
theorem decodeEngine_encodeParts (hlo : 0xC8 ≤ x.op) (hhi : x.op < 0xE0) : decodeEngine x.op x.hi x.mid x.c0 = .ok i := by
  cases i <;> cases h <;> dsimp only [Parts.imm, Instr.wellFormed] at *
  case syscfg p f c0 | mergek p f c0 =>
    have := fmt_code_lt f
    simp (disch := omega) [decodeEngine, hw]
  case mma p acc f rm c0 | mmasp p acc f rm c0 | mmarow p acc f rm c0 =>
    have := fmt_code_lt f
    have := rnd_code_lt rm
    simp (disch := omega) [decodeEngine, hw]
  case wedge c0 | nmhdr p c0 | nmchk p c0 | nmest p c0 | isld p cam c0 | isprb p cam c0 | union p c0 | fibh p c0 =>
    simp (disch := omega) [decodeEngine]
  case prune p f b c0 =>
    have := fmt_code_lt f
    have := bool_toNat_lt b
    simp (disch := omega) [decodeEngine, hw]
  case scana p b c0 | scano p b c0 =>
    have := bool_toNat_lt b
    simp (disch := omega) [decodeEngine]
  all_goals omega

/-- R39, R40: the system instructions. -/
theorem decodeSystem_encodeParts (hlo : 0xE0 ≤ x.op) : decodeSystem x.op x.hi x.mid x.c0 = .ok i := by
  cases i <;> cases h <;> dsimp only [Parts.imm, Instr.wellFormed] at *
  case trap code | halt | perf n c0 | fend =>
    simp (disch := omega) [decodeSystem]
  case srd n c0 | swr n c0 =>
    simp (disch := omega) [decodeSystem, hw]
  case ptst c1 c0 | pclr c1 c0 | excrd c1 c0 | cyc c1 c0 =>
    exact consumers_read _ c1 c0
  case bankk g file c0 | banko g file c0 | bankw g file c0 =>
    have := bankFile_code_lt file
    simp (disch := omega) [decodeSystem, hw]
  case tlbinv sys c0 =>
    cases sys <;> simp (disch := omega) [decodeSystem, sysOf]
  all_goals omega

/-- The decoder reads an instruction from the parts that the encoder makes of it (R27). -/
theorem decodeParts_encodeParts : decodeParts x.op x.hi x.mid x.c0 = .ok i := by
  unfold decodeParts
  split_ifs with h1 h2 h3 h4 h5 h6
  · exact decodeControl_encodeParts hw h h1
  · exact decodeDataPlane_encodeParts hw h (not_lt.mp h1) h2
  · exact decodeChannel_encodeParts hw h (not_lt.mp h2) h3
  · exact decodeStream_encodeParts hw h (not_lt.mp h3) h4
  · exact decodeSync_encodeParts hw h (not_lt.mp h4) h5
  · exact decodeEngine_encodeParts hw h (not_lt.mp h5) h6
  · exact decodeSystem_encodeParts hw h (not_lt.mp h6)

end Tables

/-- A word whose parts fit their fields is read as those parts (R27). -/
theorem decodeWord_word {x : Parts} (hop : x.op < 256) (hhi : x.hi < 64) (hmid : x.mid < 512) (hc0 : x.c0 < 512) :
    decodeWord x.word = decodeParts x.op x.hi x.mid x.c0 := by
  have hn : x.word.toNat = ((x.op * 64 + x.hi) * 512 + x.mid) * 512 + x.c0 := by
    rw [Parts.word, BitVec.toNat_ofNat, Nat.mod_eq_of_lt (by omega)]
  have h1 : bits x.word.toNat 24 8 = x.op := by rw [hn, bits]; omega
  have h2 : bits x.word.toNat 18 6 = x.hi := by rw [hn, bits]; omega
  have h3 : bits x.word.toNat 9 9 = x.mid := by rw [hn, bits]; omega
  have h4 : bits x.word.toNat 0 9 = x.c0 := by rw [hn, bits]; omega
  rw [decodeWord, h1, h2, h3, h4]

/-- Settles O57: the word is read as its parts, and each table of the decoder reads the fields that the encoder has put there. -/
theorem decodeEncodeRoundTrip : Obligations.DecodeEncodeRoundTrip := by
  intro i w hw he
  obtain ⟨x, hx, rfl⟩ := Option.map_eq_some_iff.mp he
  obtain ⟨-, hop, hhi, hmid, hc0⟩ := Opcode.statement i x hx
  rw [decodeWord_word hop hhi hmid hc0]
  exact decodeParts_encodeParts hw hx

end Sys2Proof.Decoding
end

section
/-! PROOFS. The step of the machine: what a cycle does to CYCLE, and what an action of the agenda runs. -/

namespace Sys2Proof.Machine

/-! CYCLE stands still in everything that closes or opens a cycle; `State.tick` alone counts it. -/

theorem foldl_cycle {α : Type} (f : State → α → State) (l : List α) (h : ∀ s x, (f s x).cycle = s.cycle) (s : State) :
    (l.foldl f s).cycle = s.cycle := by
  induction l generalizing s with
  | nil => rfl
  | cons x l ih => rw [List.foldl_cons, ih, h]

/-! The data plane moves. -/

@[simp] theorem sendSpalls_cycle (s : State) (t : Site) (src : Source) (mask : BitVec 128) (n : Nat) :
    (s.sendSpalls t src mask n).cycle = s.cycle := by
  unfold State.sendSpalls; split <;> rfl

@[simp] theorem decideLanes_cycle (s : State) (t : Site) (m : Made) : (s.decideLanes t m).cycle = s.cycle := by
  unfold State.decideLanes
  dsimp only
  split
  · rfl
  · rw [updSlot_cycle]
    refine foldl_cycle _ _ (fun s x => ?_) s
    split
    · split <;> simp
    · rfl

@[simp] theorem stopLanes_cycle (s : State) (t : Site) (m : Made) : (s.stopLanes t m).cycle = s.cycle := by
  unfold State.stopLanes
  dsimp only
  split
  · rfl
  · rw [updSlot_cycle]
    exact foldl_cycle _ _ (fun s x => sendSpalls_cycle ..) s

@[simp] theorem emitEntry_cycle (s : State) (c : Cell) (t : Site) (i : Instr) (m : Made) : (s.emitEntry c t i m).cycle = s.cycle := by
  unfold State.emitEntry
  dsimp only
  split <;> exact foldl_cycle _ _ (fun s x => updSlot_cycle ..) s

@[simp] theorem skipRest_cycle (s : State) (c : Cell) (t : Site) (i : Instr) (m : Made) : (s.skipRest c t i m).cycle = s.cycle := by
  unfold State.skipRest
  rw [count_cycle, updSlot_cycle]
  exact foldl_cycle _ _ (fun s x => updSlot_cycle ..) s

@[simp] theorem advanceBundle_cycle (s : State) (c : Cell) (t : Site) (i : Instr) : (s.advanceBundle c t i).cycle = s.cycle := by
  have hd : ((s.slot t).made.foldl (fun s m => s.decideLanes t m) s).cycle = s.cycle := foldl_cycle _ _ (fun s m => decideLanes_cycle s t m) s
  unfold State.advanceBundle
  dsimp only
  rw [updSlot_cycle]
  split <;> repeat' split
  all_goals simp [hd]

@[simp] theorem drainFields_cycle (s : State) (c : Cell) (b : Block) (t : Site) (i : Instr) : (s.drainFields c b t i).cycle = s.cycle := by
  unfold State.drainFields; split <;> rfl

@[simp] theorem advanceDigits_cycle (s : State) : s.advanceDigits.cycle = s.cycle := by
  unfold State.advanceDigits
  rw [foldl_cycle _ _ (fun s x => drainFields_cycle ..), foldl_cycle _ _ (fun s x => advanceBundle_cycle ..)]

/-! The records and the writes that the end of a cycle performs. -/

@[simp] theorem writeLog_cycle (s : State) (ctx : Nat) (r : FaultRegs) : (s.writeLog ctx r).cycle = s.cycle := by
  unfold State.writeLog
  dsimp only
  split
  · rfl
  · split
    · split <;> rfl
    · rfl
    · rfl

@[simp] theorem flushLog_cycle (s : State) : s.flushLog.cycle = s.cycle := by
  unfold State.flushLog
  rw [foldl_cycle _ _ (fun s x => writeLog_cycle ..)]

@[simp] theorem hostLine_cycle (s : State) (off n : Nat) : (s.hostLine off n).1.cycle = s.cycle := by
  unfold State.hostLine
  split
  · rfl
  · split
    · rfl
    · split
      · simp only [apply_ite Prod.fst, apply_ite State.cycle, ite_self]
      · split <;> rfl

@[simp] theorem hostLines_cycle (s : State) (l : List (Nat × Nat)) : (s.hostLines l).1.cycle = s.cycle := by
  induction l generalizing s with
  | nil => rfl
  | cons x l ih => exact (ih _).trans (hostLine_cycle ..)

@[simp] theorem hostPut_cycle (s : State) (off arr : Nat) (bytes : List Byte) (l : List (Nat × Nat)) : (s.hostPut off arr bytes l).1.cycle = s.cycle := by
  induction l generalizing s with
  | nil => rfl
  | cons x l ih =>
    unfold State.hostPut
    split
    · exact ih s
    · split
      · exact ih _
      · dsimp only
        split
        · rfl
        · exact ih _
        · exact ih _

@[simp] theorem hostDrain_cycle (s : State) (l : List HostOp) : (s.hostDrain l).cycle = s.cycle := by
  induction l generalizing s with
  | nil => rfl
  | cons x l ih =>
    unfold State.hostDrain
    split
    · split
      next t bs ep ht => exact (ih _).trans (by simpa [ht] using hostLines_cycle s (lineChunks x.off x.n))
    · next bytes _ =>
      have hp := hostPut_cycle s x.off x.arr bytes (lineChunks x.off bytes.length)
      split
      · next t ht => rw [ih, ← hp, ht]
      · next t y ht => rw [← hp, ht]

@[simp] theorem closeCycle_cycle (s : State) : s.closeCycle.cycle = s.cycle := by
  simp [State.closeCycle]

/-! What happens as a cycle begins. -/

theorem restartBench_cycle (s : State) (n : Nat) : (s.restartBench n).cycle = s.cycle := rfl

@[simp] theorem answerDebug_cycle (s : State) : s.answerDebug.cycle = s.cycle := by
  unfold State.answerDebug
  dsimp only
  split
  · rfl
  · exact foldl_cycle _ _ (fun t n => by split <;> rfl) _

theorem narrowFrom_cycle (s : State) (left : Nat) (l : List Region) : (s.narrowFrom left l).cycle = s.cycle := by
  induction l generalizing s left with
  | nil => rfl
  | cons r l ih =>
    unfold State.narrowFrom
    split
    · exact ih ..
    · split
      · exact ih ..
      · exact ih ..

@[simp] theorem setBudget_cycle (s : State) (watts : Nat) : (s.setBudget watts).cycle = s.cycle := by
  unfold State.setBudget
  dsimp only
  split
  · rfl
  · exact narrowFrom_cycle ..

@[simp] theorem capBudget_cycle (s : State) : s.capBudget.cycle = s.cycle := by
  unfold State.capBudget; split <;> simp

theorem deliver_cycle (s : State) (m : ChanMsg) : (s.deliver m).cycle = s.cycle := by
  unfold State.deliver; dsimp only; split <;> rfl

@[simp] theorem deliverPointers_cycle (s : State) : s.deliverPointers.cycle = s.cycle := foldl_cycle _ _ deliver_cycle _

theorem quietWrite_cycle {s t : State} {ctx va : Nat} {l : List Byte} (h : s.quietWrite ctx va l = some t) : t.cycle = s.cycle := by
  unfold State.quietWrite at h
  split at h
  · split at h
    · cases h; rfl
    · cases h
  · cases h
  · cases h

@[simp] theorem quietWrites_cycle (s : State) (ctx : Nat) (l : List (Nat × List Byte)) : (s.quietWrites ctx l).1.cycle = s.cycle := by
  induction l generalizing s with
  | nil => rfl
  | cons x l ih =>
    unfold State.quietWrites
    split
    · next t ht => rw [ih, quietWrite_cycle ht]
    · rfl

@[simp] theorem writeOcc_cycle (s : State) (r : Region) (cause : Word) (stop : Nat) : (s.writeOcc r cause stop).1.cycle = s.cycle := by
  unfold State.writeOcc; dsimp only; split <;> simp

@[simp] theorem seqWrite_cycle (s : State) (ctx va : Nat) (l : List Byte) (cmd : Option Nat) : (s.seqWrite ctx va l cmd).cycle = s.cycle := by
  unfold State.seqWrite
  dsimp only
  split
  · split <;> rfl
  · rfl
  · rfl

@[simp] theorem tellLaunch_cycle (s : State) (ctx result : Nat) (cmd : Option Nat) (st : LaunchStatus) : (s.tellLaunch ctx result cmd st).cycle = s.cycle := by
  unfold State.tellLaunch; dsimp only; split <;> simp

theorem cmdResult_cycle (s : State) (slot r : Nat) : (s.cmdResult slot r).cycle = s.cycle := rfl

@[simp] theorem sweepGone_cycle (s : State) : s.sweepGone.cycle = s.cycle := by
  unfold State.sweepGone; dsimp only; split <;> rfl

@[simp] theorem setDividers_cycle (s : State) : s.setDividers.cycle = s.cycle := rfl

@[simp] theorem leave_cycle (s : State) (rid new : Nat) (nums : List Nat) : (s.leave rid new nums).cycle = s.cycle := rfl

@[simp] theorem closeRegion_cycle (s : State) (rid : Nat) (k : Kept) : (s.closeRegion rid k).cycle = s.cycle := by
  unfold State.closeRegion
  split
  · rfl
  · next r _ =>
    have ht : (if r.reported then s.countFirings r.ctx (s.cellsOf rid) else
        (s.countFirings r.ctx (s.cellsOf rid)).tellLaunch r.ctx r.result r.cmd .ended).cycle = s.cycle := by
      split
      · rfl
      · exact tellLaunch_cycle ..
    have hc := (foldl_cycle (fun s k => s.cmdResult (k % 4096) 3) r.liftCmds (fun s k => cmdResult_cycle ..) _).trans ht
    refine (setDividers_cycle _).trans ((sweepGone_cycle _).trans ?_)
    cases k <;> exact hc

@[simp] theorem endStopped_cycle (s : State) : s.endStopped.cycle = s.cycle := by
  refine foldl_cycle _ _ (fun s r => ?_) s
  split
  · split
    · dsimp only; split <;> simp
    · rfl
  · rfl

@[simp] theorem endSweeps_cycle (s : State) : s.endSweeps.cycle = s.cycle := by
  refine foldl_cycle _ _ (fun s r => ?_) s
  split
  · exact foldl_cycle _ _ (fun s k => cmdResult_cycle ..) s
  · rfl

@[simp] theorem openCycle_cycle (s : State) : s.openCycle.cycle = s.cycle := by
  have hl (s : State) : s.lineUp.cycle = s.cycle := rfl
  have hf (s : State) : s.forwardSeams.cycle = s.cycle := rfl
  have hd (s : State) : s.dropLost.cycle = s.cycle := rfl
  simp [State.openCycle, hl, hf, hd]

/-- R346: CYCLE counts one with each cycle, except in a thermal stop and without supply. -/
theorem tick_cycle (s : State) (ht : s.thermal = false) (hp : s.boot.phase ≠ .off) : s.tick.cycle = s.cycle + 1 := by
  simp [State.tick, ht, hp, State.sample]

theorem rest_of_cons {s : State} {a : Action} {l : List Action} (h : s.agenda = a :: l) : s.rest = { s with agenda := l } := by
  simp [State.rest, h]

/-- The issue of a site whose word decodes is the instruction's step there. -/
theorem step_issue {s : State} {t : Site} {l : List Action} {w : Word} {i : Instr} (h : s.agenda = .issue t :: l) (hw : s.fetch t = some w)
    (hd : decodeWord w = .ok i) : step s = exec i { s with agenda := l, site := t } := by
  simp [step, h, hw, hd, rest_of_cons h, State.at_]

theorem step_event {s : State} {i : Instr} {l : List Action} (h : s.agenda = .event i :: l) : step s = exec i { s with agenda := l } := by
  simp [step, h, rest_of_cons h]

theorem step_nil {s : State} (h : s.agenda = []) : step s = .next s.tick := by
  simp [step, h]

/-- Settles O55: a step is the first action of the agenda, and with none left the tick, which counts the cycle on. -/
theorem stepRunsDecodedInstruction : Obligations.StepRunsDecodedInstruction :=
  ⟨fun _ _ _ _ _ => step_issue, fun _ _ _ => step_event, fun s h ht hp => ⟨s.tick, step_nil h, tick_cycle s ht hp⟩, exec_nop⟩

end Sys2Proof.Machine
end

section
namespace Sys2Proof.Decoding

theorem decodeWord_of_encode {i : Instr} {w : Word} (h : i.wellFormed = true ∧ encode i = some w) : decodeWord w = .ok i :=
  decodeEncodeRoundTrip i w h.1 h.2

/-- Settles O56: a word that stands for an instruction is the word the encoder writes for it; on the two others the decoder runs. -/
theorem decodedWords : Obligations.DecodedWords := by
  refine ⟨?_, ?_, ?_, ?_, ?_, ?_, ?_, ?_, ?_, ?_, ?_, ⟨.field, by decide⟩, ⟨.opcode, by decide⟩⟩
  all_goals exact decodeWord_of_encode (by decide)

end Sys2Proof.Decoding
end

section
/-! Every arm of `exec` ends in `.next`: an instruction's issue is one test (it fires or it waits for a bank), a step without a word is
written as tests and matches with a next state at every leaf. -/
namespace Sys2Proof.Machine

/-- The answer is a next state. -/
def Answers (r : Result) : Prop := ∃ t, r = .next t

theorem answers_next (t : State) : Answers (.next t) := ⟨t, rfl⟩

/-- The form of `issueCtl` and `issueData`, and of every step that tests its premise once. -/
theorem answers_ite (c : Prop) [Decidable c] (t u : State) : Answers (if c then .next t else .next u) := by
  split <;> exact answers_next _

/-- R221: a port with a nest takes its turn when it is ready; one without starts a nest. -/
theorem execAggo_answers (p : BitVec 6) (c0 : Consumer) (s : State) : Answers (execAggo p c0 s) := by
  unfold execAggo
  split
  · exact answers_ite ..
  · exact answers_ite ..

/-- By the form of the arms: one test; a next state at once; one match; tests and matches inside each other. -/
theorem exec_answers (i : Instr) (s : State) : Answers (exec i s) := by
  cases i
  case mov | const | shlor | add | addi | sub | neg | mul | mulh | mulhu | div | divu | rem | remu | muli | and | andi | or | ori | xor | xori | shl |
      shli | shr | shri | sar | sari | clz | popc | brev | bfx | min | max | minu | maxu | cmp | cmpi | sel | test | steer | merge | gate | pand |
      por | pnot | pxor | drop | cnt | cntx | accum | fireno | cellid | laneid | rd | wr | rdp | wrp | dadd | dsub | dmul | dfma | dfms | dmac |
      ddiv | dsqrt | drsqrt | drcp | dexp2 | dlog2 | dscale | dneg | dabs | dcvt | dmin | dmax | drelu | dclamp | dthr | dcmp | dsel | dkill |
      dtrunc | dnorm | drep | dxtr | dlane | dshuf | drot | dred | dbcast | dacc | daccrd | daccz | dwst | drdv | dwrv | recv | peek | send | advc |
      advp | chst | agb | agl | agfmt | aggat | agsct | agctr | retry | lds | sts | ldv | stv | reclaim | pref | drain | win | copy | copyr | copyc |
      cplw | atom | lda | stl | fence | own | upd | arrive | waitg | bar | quiet | lift | seamoPush | seamoPop | seamoStatus | coll | wqadd | wqtake |
      wqclose | cmdMatrix | cmdBulk | cmdCollective | cmdLift | cmdChild | cmdwait | egress | ingress | syscfg | mma | mmasp | mmarow | wedge |
      prune | nmhdr | nmchk | nmest | scana | scano | isld | isprb | union | mergek | fibh | trap | halt | srd | swr | ptst | pclr | excrd | bankk |
      banko | bankw | tlbinv | perf | cyc | fend | launchToken | benchClockStop | atomicUnitApply | contextRetire | tswAtReached | readyTimeout |
      recoveryTimeout | budgetChange | returnCommand | sidebandWake | firmwareFailureReport | packageSleepEntry =>
    exact answers_ite ..
  case aggo p c0 => exact execAggo_answers p c0 s
  case nop | ingToken | ownerWrite | copyrLineUpdate | copySrcComplete | copyVisComplete | phaseNotify | tswCtlWrite | resumeWrite | fltCauseClear |
      deviceStart | droopTrip | droopRelease | currentCeilingTrip | currentCeilingRelease | thermalTrip | thermalRelease | modCap | dbgReq |
      supplyLoss =>
    exact answers_next _
  case egDataRead | tlbinvRemoteBroadcast | updApply | watchdogExpiry =>
    simp only [exec, execEgDataRead, execTlbinvRemoteBroadcast, execUpdApply, execWatchdogExpiry]
    split <;> exact answers_next _
  all_goals simp only [exec, execHostRegisterWrite, execRcvGo, execHostMemoryRead, execHostMemoryWrite, execLaunchDispatch, execRegionGrant,
    execSeedInject, execPreload, execFiringStart, execFiringEnd, execTokenArrive, execDivideComplete, execAgeCounterExpiry, execBankIdleTimeout,
    execBankWakeDone, execSpadBankIdleTimeout, execSpadBankWakeDone, execSpallArrive, execMemoryReply, execPageWalk, execCommandIssue,
    execCommandRetire, execMatrixOpStart, execMatrixOpComplete, execCollComplete, execSeamRemoteEntry, execWorkQueueApply, execDrainedReport,
    execLiftWedge, execHangLimitExpiry, execFaultHoldExpiry, execSwitchGraceExpiry, execSwitchPoint, execPark, execRegionResume, execSoftError,
    execFirmwareReady, execSidebandRegisterWrite, execFirmwareUpdate, execAttestationQuote, execDebugRead, execI3cAddressTimeout]
  all_goals repeat' (first | exact answers_next _ | split)

/-- Settles O60: by the arms of `exec`, each of which ends in a next state. -/
theorem everyInstructionAnswersNext : Obligations.EveryInstructionAnswersNext :=
  exec_answers

end Sys2Proof.Machine
end

section
/-! PROOFS. Poison, flags and counters: PTST, PCLR, EXCRD, PERF and CYC (R70, R349, R350, R358). -/

namespace Sys2Proof.Machine

/-! Instructions that change their cell beside its blocks, and then emit. -/

/-- Emitting a list of tokens, one after another. -/
def State.emits (s : State) (t : Site) (l : List (Consumer × Tok)) : State := l.foldl (fun u x => u.emit t x.1 x.2) s

@[simp] theorem State.emits_nil (s : State) (t : Site) : s.emits t [] = s := rfl

@[simp] theorem State.emits_cons (s : State) (t : Site) (x : Consumer × Tok) (l : List (Consumer × Tok)) :
    s.emits t (x :: l) = (s.emit t x.1 x.2).emits t l := rfl

theorem State.emitAll_eq_emits (s : State) (t : Site) (cs : List Consumer) (k : Tok) : s.emitAll t cs k = s.emits t (cs.map (fun c => (c, k))) := by
  rw [State.emitAll, State.emits, List.foldl_map]

theorem Issued.emits {i : Instr} {s u : State} (h : Issued i s u) (l : List (Consumer × Tok)) : Issued i s (u.emits s.site l) := by
  induction l generalizing u with
  | nil => exact h
  | cons x l ih => exact ih (h.emit x.1 x.2)

theorem State.emits_flight (s : State) (t : Site) (l : List (Consumer × Tok)) : (s.emits t l).flight = s.flight ++ s.flights t l := by
  induction l generalizing s with
  | nil => simp
  | cons x l ih =>
    rw [State.emits_cons, ih, State.emit_flight, State.emit_flights, ← List.singleton_append (l := l), State.flights_append, List.append_assoc]

theorem quiet_emits {s u : State} (h : Quiet s u) (t : Site) (l : List (Consumer × Tok)) : Quiet s (u.emits t l) := by
  induction l generalizing u with
  | nil => exact h
  | cons x l ih => exact ih (quiet_emit h t x.1 x.2)

theorem State.emits_cell? {β : Type} (s : State) (t : Site) (l : List (Consumer × Tok)) (n : Nat) (P : Cell → β) (h : BlockFree P) :
    ((s.emits t l).cell? n).map P = (s.cell? n).map P := by
  induction l generalizing s with
  | nil => rfl
  | cons x l ih => rw [State.emits_cons, ih, State.emit_cell? s t _ _ n P h]

theorem State.emits_cells {β : Type} (s : State) (t : Site) (l : List (Consumer × Tok)) (P : Cell → β) (h : BlockFree P) :
    (s.emits t l).cells.map P = s.cells.map P := by
  induction l generalizing s with
  | nil => rfl
  | cons x l ih => rw [State.emits_cons, ih, State.emit_cells s t _ _ P h]

/-- A change of a cell that leaves its number, its blocks, its PEs and its clock. -/
def Cell.BesideBlocks (f : Cell → Cell) : Prop :=
  ∀ c, (f c).num = c.num ∧ (f c).blocks = c.blocks ∧ (f c).pes = c.pes ∧ (f c).divider = c.divider ∧ (f c).parity = c.parity

theorem Cell.BesideBlocks.channels {f : Cell → Cell} (hf : Cell.BesideBlocks f) (c : Cell) : (f c).channels = c.channels := by
  obtain ⟨-, hb, -⟩ := hf c
  rw [Cell.channels, hb, Cell.channels]

theorem State.cell?_updCell_map {β : Type} (s : State) (n m : Nat) (f : Cell → Cell) (hn : ∀ c, (f c).num = c.num) (P : Cell → β)
    (h : ∀ c, P (f c) = P c) : ((s.updCell n f).cell? m).map P = (s.cell? m).map P := by
  rw [State.cell?_updCell s n m f hn]
  split
  · cases s.cell? m with
    | none => rfl
    | some c => simp [h]
  · rfl

theorem Issued.updCell {i : Instr} {s u : State} (h : Issued i s u) (n : Nat) {f : Cell → Cell} (hf : Cell.BesideBlocks f) :
    Issued i s (u.updCell n f) := by
  have hn : ∀ c, (f c).num = c.num := fun c => (hf c).1
  refine h.keep (fun P _ => ?_) (State.cell?_updCell_map u n _ f hn _ (fun c => (hf c).2.2.1))
  have hb : (u.updCell n f).block? s.site = u.block? s.site := by
    have := State.cell?_updCell_map u n s.site.cell f hn (fun c => c.block? s.site.ctx)
      (fun c => by rw [Cell.block?, (hf c).2.1, Cell.block?])
    unfold State.block?
    cases h1 : (u.updCell n f).cell? s.site.cell <;> cases h2 : u.cell? s.site.cell <;> simp_all
  rw [State.slot, hb, State.slot]

theorem flights_updCell_took (s : State) (i : Instr) (n : Nat) {f : Cell → Cell} (hf : Cell.BesideBlocks f) (l : List (Consumer × Tok)) :
    ((s.took s.site i).updCell n f).flights s.site l = s.flights s.site l := by
  refine (State.flights_congr (s.took s.site i) ((s.took s.site i).updCell n f) s.site l rfl ?_).trans (State.took_flights s s.site i l)
  refine State.cell?_updCell_map _ n _ f (fun c => (hf c).1) (fun c => (c.divider, c.parity)) (fun c => ?_)
  obtain ⟨-, -, -, hd, hp⟩ := hf c
  rw [hd, hp]

/-- Nothing outside the cells has changed, and no channel. -/
def BesideCells (s t : State) : Prop := SameMemory s t ∧ SameChannels s t ∧ SameDevice s t

theorem BesideCells.trans_quiet {s u t : State} (h : BesideCells s u) (q : Quiet u t) : BesideCells s t := by
  obtain ⟨⟨a1, a2, a3, a4, a5⟩, b, ⟨⟨d1, d2⟩, e⟩⟩ := h
  obtain ⟨-, b', ⟨a1', a2', a3', a4', a5'⟩, ⟨⟨d1', d2'⟩, e'⟩⟩ := q
  refine ⟨⟨fun a => (a1' a).trans (a1 a), a2'.trans a2, a3'.trans a3, a4'.trans a4, a5'.trans a5⟩, Eq.trans b' b,
    ⟨fun k => (d1' k).trans (d1 k), d2'.trans d2⟩, ?_⟩
  simp only [e', e, and_self]

theorem Quiet.besideCells {s t : State} (h : Quiet s t) : BesideCells s t := ⟨h.2.2.1, h.2.1, h.2.2.2⟩

theorem BesideCells.updCell {s u : State} (h : BesideCells s u) (n : Nat) {f : Cell → Cell} (hf : Cell.BesideBlocks f) :
    BesideCells s (u.updCell n f) := by
  obtain ⟨hm, hc, hd⟩ := h
  exact ⟨hm, (State.cells_map_updCell u n f Cell.channels hf.channels).trans hc, hd⟩

/-- An instruction that issues, changes its cell beside its blocks, and emits a list of tokens. -/
theorem runs_of_updCell_emits {i : Instr} {s : State} (h : s.goes i) {f : Cell → Cell} (hf : Cell.BesideBlocks f) (l : List (Consumer × Tok))
    (P : State → Prop) (he : exec i s = .next (((s.took s.site i).updCell s.site.cell f).emits s.site l))
    (hP : P (((s.took s.site i).updCell s.site.cell f).emits s.site l)) : Runs i s l P := by
  refine ⟨_, he, ((issued_took i s h.1).updCell _ hf).emits l, ?_, hP⟩
  rw [State.emits_flight, flights_updCell_took s i _ hf]
  rfl

/-- An instruction that issues and emits a list of tokens changes nothing else. -/
theorem runs_quiet_of_emits {i : Instr} {s : State} (h : s.goes i) (l : List (Consumer × Tok))
    (he : exec i s = .next ((s.took s.site i).emits s.site l)) : Runs i s l (Quiet s) :=
  runs_of_emits h _ l _ he rfl (quiet_emits (quiet_took s i) _ l)

theorem besideCells_updCell_emits (s : State) (i : Instr) {f : Cell → Cell} (hf : Cell.BesideBlocks f) (l : List (Consumer × Tok)) :
    BesideCells s (((s.took s.site i).updCell s.site.cell f).emits s.site l) :=
  ((quiet_took s i).besideCells.updCell _ hf).trans_quiet (quiet_emits (quiet_refl _) _ l)

/-- The cell of the site after an issue, a change beside its blocks, and emissions, as far as emissions leave it. -/
theorem cell?_updCell_emits {β : Type} {s : State} {i : Instr} {c c' : Cell} {f : Cell → Cell} (hf : Cell.BesideBlocks f)
    (l : List (Consumer × Tok)) (P : Cell → β) (hP : BlockFree P) (hc : s.cell? s.site.cell = some c)
    (hc' : (((s.took s.site i).updCell s.site.cell f).emits s.site l).cell? s.site.cell = some c') :
    P c' = P (f (c.tookAt s.cycle s.site i)) := by
  have := State.emits_cell? ((s.took s.site i).updCell s.site.cell f) s.site l s.site.cell P hP
  rw [hc', State.cell?_updCell_self _ _ _ (fun c => (hf c).1), State.took_cell?, if_pos rfl, hc] at this
  simpa using this

/-! PTST, PCLR and CYC. -/

theorem ptst_runs {c1 c0 : Consumer} {s : State} (h : s.goes (.ptst c1 c0)) :
    Runs (.ptst c1 c0) s [(c0, ⟨flag (tokMark (s.opnds s.site (.ptst c1 c0)).l).isSome, none⟩),
      (c1, ⟨(tokMark (s.opnds s.site (.ptst c1 c0)).l).getD 0, none⟩)] (Quiet s) :=
  runs_quiet_of_emits h _ (by rw [exec_ptst, execPtst, issueCtl_goes h]; rfl)

theorem pclr_runs {c1 c0 : Consumer} {s : State} (h : s.goes (.pclr c1 c0)) :
    Runs (.pclr c1 c0) s (outs (.pclr c1 c0) ⟨s.lval (.pclr c1 c0), none⟩) (Quiet s) :=
  runs_quiet_of_emits h _ (by rw [exec_pclr, execPclr, issueCtl_goes h]; rfl)

theorem lowWord_ofNat (n : Nat) : lowWord (BitVec.ofNat 64 n) = BitVec.ofNat 32 n := by
  unfold lowWord
  apply BitVec.eq_of_toNat_eq
  simp only [BitVec.extractLsb'_toNat, BitVec.toNat_ofNat, Nat.shiftRight_zero]
  omega

theorem highWord_ofNat (n : Nat) : highWord (BitVec.ofNat 64 n) = BitVec.ofNat 32 (n / 2 ^ 32) := by
  unfold highWord
  apply BitVec.eq_of_toNat_eq
  simp only [BitVec.extractLsb'_toNat, BitVec.toNat_ofNat, Nat.shiftRight_eq_div_pow]
  omega

theorem cyc_runs {c1 c0 : Consumer} {s : State} (h : s.goes (.cyc c1 c0)) :
    Runs (.cyc c1 c0) s [(c0, ⟨BitVec.ofNat 32 s.cycle, s.omark (.cyc c1 c0)⟩), (c1, ⟨BitVec.ofNat 32 (s.cycle / 2 ^ 32), s.omark (.cyc c1 c0)⟩)]
      (Quiet s) :=
  runs_quiet_of_emits h _ (by rw [exec_cyc, execCyc, issueCtl_goes h, lowWord_ofNat, highWord_ofNat]; rfl)

/-! EXCRD. -/

/-- EXC of a cell after EXCRD's clear. -/
def Cell.clearExc (now : Nat) (v : Word) (c : Cell) : Cell := { c with flt := { c.flt with exc := c.flt.exc.clear now v } }

theorem Cell.clearExc_besideBlocks (now : Nat) (v : Word) : Cell.BesideBlocks (Cell.clearExc now v) := fun _ => ⟨rfl, rfl, rfl, rfl, rfl⟩

/-- With nothing raised in the cycle before it, the clear removes the flags named and no other. -/
theorem Exc.clear_now {e : Exc} {now : Nat} (h : e.at? ≠ some now) (v : Word) : (e.clear now v).now = e.now &&& ~~~(v &&& 31) := by
  simp [Exc.clear, Exc.touch, h]

theorem excrd_runs {c1 c0 : Consumer} {s : State} {c : Cell} (h : s.goes (.excrd c1 c0)) (hc : s.cell? s.site.cell = some c)
    (ha : c.flt.exc.at? ≠ some s.cycle) :
    Runs (.excrd c1 c0) s (outs (.excrd c1 c0) ⟨c.flt.exc.now &&& 31, s.omark (.excrd c1 c0)⟩) (fun t => SameMemory s t ∧ SameChannels s t ∧
      SameDevice s t ∧ ∀ c', t.cell? s.site.cell = some c' → c'.flt.exc.now = c.flt.exc.now &&& ~~~(s.lval (.excrd c1 c0) &&& 31) ∧
        c'.flt.regs = c.flt.regs ∧ c'.regs = c.regs) := by
  have hf := Cell.clearExc_besideBlocks s.cycle (s.lval (.excrd c1 c0))
  refine runs_of_updCell_emits h hf _ _ ?_ ?_
  · rw [exec_excrd, execExcrd, issueCtl_goes h]
    simp only [hc, State.emitAll_eq_emits, Exc.read, if_neg ha]
    rfl
  · obtain ⟨hm, hch, hd⟩ := besideCells_updCell_emits s (.excrd c1 c0) hf (outs (.excrd c1 c0) ⟨c.flt.exc.now &&& 31, s.omark (.excrd c1 c0)⟩)
    refine ⟨hm, hch, hd, fun c' hc' => ?_⟩
    have hflt := cell?_updCell_emits hf _ (fun c => c.flt) blockFree_flt hc hc'
    have hregs := cell?_updCell_emits hf _ (fun c => c.regs) blockFree_regs hc hc'
    simp only [Cell.clearExc, Cell.tookAt_flt, Cell.tookAt_regs] at hflt hregs
    rw [hflt]
    exact ⟨Exc.clear_now ha _, rfl, hregs⟩

/-! PERF. -/

theorem Cell.counter_count_other (c : Cell) {n k : Nat} (v : Word) (h : k ≠ n) : (c.count n v).counter k = c.counter k := by
  have hp : ((fun x : Nat × Word => x.1 == k) ∘ fun x : Nat × Word => if (x.1 == n) = true then (x.1, x.2 + v) else x) = fun x => x.1 == k := by
    funext x; simp only [Function.comp]; split <;> rfl
  unfold Cell.count
  split
  · simp only [Cell.counter, List.find?_map, hp]
    cases hx : c.counters.find? (fun x => x.1 == k) with
    | none => rfl
    | some x =>
      have hk : x.1 = k := by simpa using List.find?_some hx
      simp [hk, h]
  · simp only [Cell.counter, List.find?_append]
    cases c.counters.find? (fun x => x.1 == k) with
    | none => simp [Ne.symm h]
    | some x => rfl

/-- An issue advances no counter but ISSUED. -/
theorem Cell.counter_tookAt (c : Cell) (now : Nat) (t : Site) (i : Instr) {k : Nat} (h : k ≠ 1) : (c.tookAt now t i).counter k = c.counter k := by
  unfold Cell.tookAt
  rw [Cell.counter_count_other _ _ h]
  rfl

theorem Cell.tookAt_latch (c : Cell) (now : Nat) (t : Site) (i : Instr) : (c.tookAt now t i).latch = c.latch :=
  congrArg CellHeld.latch (Cell.tookAt_held c now t i)

/-- PERF at its site: what it emits and latches, by the account that its number reads. -/
theorem perf_eq {n : BitVec 8} {c0 : Consumer} {s : State} {c : Cell} (h : s.goes (.perf n c0)) (hc : s.cell? s.site.cell = some c) :
    exec (.perf n c0) s = .next (match (s.took s.site (.perf n c0)).account c.context n.toNat with
      | none => (s.took s.site (.perf n c0)).emit s.site c0
          ⟨if cellCounter n.toNat then (c.tookAt s.cycle s.site (.perf n c0)).counter n.toNat else 0, s.omark (.perf n c0)⟩
      | some v =>
        if n.toNat % 2 = 0 then ((s.took s.site (.perf n c0)).updCell s.site.cell (fun c => { c with latch := [highWord v] })).emit s.site c0
          ⟨lowWord v, s.omark (.perf n c0)⟩
        else (s.took s.site (.perf n c0)).emit s.site c0 ⟨c.latch.headD 0, s.omark (.perf n c0)⟩) := by
  rw [exec_perf, execPerf, issueCtl_goes h]
  simp only [State.took_cell?, hc, if_true, Option.map_some, Cell.tookAt_context, Cell.tookAt_latch]
  rfl

theorem account_none {s : State} {ctx n : Nat} (h1 : n < 0x40 ∨ 0x50 ≤ n) (h2 : n < 0x60 ∨ 0x6A ≤ n ∨ ctx ≠ 0) : s.account ctx n = none := by
  unfold State.account
  rw [if_neg (by omega), if_neg (by omega)]

theorem account_context {s : State} {ctx n : Nat} (h1 : 0x40 ≤ n) (h2 : n < 0x50) :
    s.account ctx n = some (s.accountPair (s.regCtx ctx) ((n - 0x40) / 2)) := if_pos ⟨h1, h2⟩

theorem account_system {s : State} {n : Nat} (h1 : 0x60 ≤ n) (h2 : n < 0x6A) : s.account 0 n = some (s.accountPair 4096 ((n - 0x60) / 2)) := by
  unfold State.account
  rw [if_neg (by omega), if_pos ⟨h1, h2, rfl⟩]

/-- The pairs of R358 at the moment at which PERF reads them. -/
theorem accountPair_took (s : State) (i : Instr) (tag : Nat) {k : Nat} (hk : k < 8) : (s.took s.site i).accountPair tag k =
    (if k < 5 then BitVec.ofNat 64 ((s.took s.site i).mem.charged tag k / 1000000) else if k = 5 then (s.ctxRegs tag).cfirings
      else if k = 6 then (s.ctxRegs tag).cmds else (s.ctxRegs tag).egressed) := by
  unfold State.accountPair
  rw [State.ctxRegs_congr s (s.took s.site i) rfl]
  split_ifs with h5 h6 h7 h8
  · rfl
  · rfl
  · rfl
  · rfl
  · omega

theorem perf_runs_none {n : BitVec 8} {c0 : Consumer} {s : State} {c : Cell} {v : Word} (h : s.goes (.perf n c0))
    (hc : s.cell? s.site.cell = some c) (ha : (s.took s.site (.perf n c0)).account c.context n.toNat = none)
    (hv : (if cellCounter n.toNat then (c.tookAt s.cycle s.site (.perf n c0)).counter n.toNat else 0) = v) :
    Runs (.perf n c0) s [(c0, ⟨v, s.omark (.perf n c0)⟩)] (Quiet s) :=
  runs_quiet_of_emits h _ (by rw [perf_eq h hc, ha, ← hv]; rfl)

theorem perf_runs_odd {n : BitVec 8} {c0 : Consumer} {s : State} {c : Cell} (h : s.goes (.perf n c0)) (hc : s.cell? s.site.cell = some c) {v : DWord}
    (ha : (s.took s.site (.perf n c0)).account c.context n.toNat = some v) (hn : n.toNat % 2 = 1) :
    Runs (.perf n c0) s [(c0, ⟨c.latch.headD 0, s.omark (.perf n c0)⟩)] (Quiet s) :=
  runs_quiet_of_emits h _ (by rw [perf_eq h hc, ha]; simp only [hn, Nat.one_ne_zero, if_false]; rfl)

/-- PERF's latch: the high half of the pair it has read (R358). -/
def Cell.latchHigh (v : DWord) (c : Cell) : Cell := { c with latch := [highWord v] }

theorem Cell.latchHigh_besideBlocks (v : DWord) : Cell.BesideBlocks (Cell.latchHigh v) := fun _ => ⟨rfl, rfl, rfl, rfl, rfl⟩

theorem perf_runs_even {n : BitVec 8} {c0 : Consumer} {s : State} {c : Cell} (h : s.goes (.perf n c0)) (hc : s.cell? s.site.cell = some c) {v : DWord}
    (ha : (s.took s.site (.perf n c0)).account c.context n.toNat = some v) (hn : n.toNat % 2 = 0) :
    Runs (.perf n c0) s [(c0, ⟨v.extractLsb' 0 32, s.omark (.perf n c0)⟩)] (fun t => SameMemory s t ∧ SameChannels s t ∧ SameDevice s t ∧
      t.cells.map (fun (d : Cell) => { d.held with latch := [] }) = s.cells.map (fun (d : Cell) => { d.held with latch := [] }) ∧
      ∀ c', t.cell? s.site.cell = some c' → c'.latch = [v.extractLsb' 32 32]) := by
  have hf := Cell.latchHigh_besideBlocks v
  refine runs_of_updCell_emits h hf _ _ ?_ ?_
  · rw [perf_eq h hc, ha]
    simp only [hn, if_true]
    rfl
  · obtain ⟨hm, hch, hd⟩ := besideCells_updCell_emits s (.perf n c0) hf [(c0, ⟨v.extractLsb' 0 32, s.omark (.perf n c0)⟩)]
    refine ⟨hm, hch, hd, ?_, fun c' hc' => ?_⟩
    · refine (State.emits_cells _ _ _ _ (fun _ _ _ _ => rfl)).trans ((State.cells_map_updCell _ _ (Cell.latchHigh v) _ (fun _ => rfl)).trans ?_)
      exact State.took_cells_map s _ _ _ (fun c => by simp)
    · exact cell?_updCell_emits hf _ (fun c => c.latch) (fun _ _ _ _ => rfl) hc hc'

/-- Settles O21: each instruction issues and emits; EXCRD also clears EXC of its cell, and PERF at an even accounting number also sets the latch. -/
theorem poisonFlagsCounters : Obligations.PoisonFlagsCounters := by
  refine ⟨fun c1 c0 s => ptst_runs, fun c1 c0 s => pclr_runs, fun c1 c0 s c => excrd_runs, fun n c0 s c h hc => ⟨?_, ?_, ?_, ?_⟩, fun c1 c0 s => cyc_runs⟩
  · intro hn h1
    refine perf_runs_none h hc (account_none (by omega) (by omega)) ?_
    rw [Cell.counter_tookAt _ _ _ _ h1, if_pos (by simpa [cellCounter] using hn)]
  · intro hn
    refine perf_runs_none h hc (account_none (by omega) (by omega)) (if_neg ?_)
    simp only [cellCounter, Bool.or_eq_true, Bool.and_eq_true, decide_eq_true_eq]
    omega
  · rintro (⟨h1, h2⟩ | ⟨h1, h2, h0⟩) hn
    · exact perf_runs_odd h hc (account_context h1 h2) hn
    · exact perf_runs_odd h hc (h0 ▸ account_system h1 h2) hn
  · rintro tag k x v hn rfl (⟨h1, h2, rfl, rfl⟩ | ⟨h1, h2, h0, rfl, rfl⟩) rfl
    · refine perf_runs_even h hc ((account_context h1 h2).trans (congrArg some ?_)) hn
      exact accountPair_took s _ _ (by omega)
    · refine perf_runs_even h hc (h0 ▸ (account_system h1 h2).trans (congrArg some ?_)) hn
      exact accountPair_took s _ _ (by omega)

end Sys2Proof.Machine
end

section
/-! PROOFS. Values as rationals: what making a significand odd, an integer and a scaled integer become (R59, R60). -/

namespace Sys2Proof
open Sys2Proof.Machine

/-- The sign of a value as a factor. -/
def signRat (n : Bool) : ℚ := if n then -1 else 1

@[simp] theorem signRat_false : signRat false = 1 := rfl
@[simp] theorem signRat_true : signRat true = -1 := rfl

theorem signRat_bne (x y : Bool) : signRat (x != y) = signRat x * signRat y := by
  cases x <;> cases y <;> simp

theorem signRat_not (x : Bool) : signRat (!x) = -signRat x := by
  cases x <;> simp

theorem two_zpow_pos (k : Int) : (0 : ℚ) < 2 ^ k := zpow_pos two_pos k

theorem two_zpow_ne_zero (k : Int) : (2 : ℚ) ^ k ≠ 0 := (two_zpow_pos k).ne'

theorem two_zpow_add (j k : Int) : (2 : ℚ) ^ (j + k) = 2 ^ j * 2 ^ k := zpow_add₀ two_ne_zero j k

theorem two_zpow_sub (j k : Int) : (2 : ℚ) ^ (j - k) = 2 ^ j / 2 ^ k := zpow_sub₀ two_ne_zero j k

/-- A power of two with a natural exponent, where the model takes a difference that is not negative. -/
theorem two_pow_toNat {k : Int} (h : 0 ≤ k) : (2 : ℚ) ^ k.toNat = 2 ^ k := by
  rw [← zpow_natCast, Int.toNat_of_nonneg h]

@[simp] theorem ratOf_fin (n : Bool) (m : Nat) (e : Int) : ratOf (.fin n m e) = signRat n * m * 2 ^ e := rfl
@[simp] theorem ratOf_zero (n : Bool) : ratOf (.zero n) = 0 := rfl
@[simp] theorem ratOf_inf (n : Bool) : ratOf (.inf n) = 0 := rfl
@[simp] theorem ratOf_nan : ratOf .nan = 0 := rfl

/-! Odd significands. -/

theorem trailing_odd (k : Nat) : trailing (2 * k + 1) = 0 := by
  have h : (2 * k + 1) ^^^ (2 * k) = 1 := by
    have := Nat.xor_bit true k false k
    simpa [Nat.bit_val] using this
  rw [trailing, Nat.add_sub_cancel, h]
  rfl

theorem trailing_double {k : Nat} (h : k ≠ 0) : trailing (2 * k) = trailing k + 1 := by
  have hx : (2 * k) ^^^ (2 * k - 1) = 2 * (k ^^^ (k - 1)) + 1 := by
    have := Nat.xor_bit false k true (k - 1)
    rw [show 2 * k - 1 = 2 * (k - 1) + 1 by omega]
    simpa [Nat.bit_val] using this
  have hne : k ^^^ (k - 1) ≠ 0 := by
    rw [Nat.xor_ne_zero_iff]; omega
  rw [trailing, hx, Nat.log2_eq_log_two, Nat.log_of_one_lt_of_le one_lt_two (by omega), trailing, Nat.log2_eq_log_two]
  congr 2
  omega

theorem two_pow_trailing_dvd (m : Nat) : 2 ^ trailing m ∣ m := by
  induction m using Nat.strong_induction_on with
  | _ m ih =>
    obtain ⟨k, rfl | rfl⟩ := Nat.even_or_odd' m
    · rcases Nat.eq_zero_or_pos k with rfl | hk
      · simp
      · rw [trailing_double hk.ne', pow_succ, mul_comm]
        exact Nat.mul_dvd_mul_left 2 (ih k (by omega))
    · simp [trailing_odd]

theorem div_two_pow_trailing_mul (m : Nat) : m / 2 ^ trailing m * 2 ^ trailing m = m := Nat.div_mul_cancel (two_pow_trailing_dvd m)

theorem Val.mk_zero (n : Bool) (e : Int) : Val.mk n 0 e = .zero n := rfl

theorem Val.mk_of_ne_zero (n : Bool) {m : Nat} (h : m ≠ 0) (e : Int) : Val.mk n m e = .fin n (m / 2 ^ trailing m) (e + trailing m) := if_neg h

theorem div_two_pow_trailing_ne_zero {m : Nat} (h : m ≠ 0) : m / 2 ^ trailing m ≠ 0 := by
  intro h0
  have := div_two_pow_trailing_mul m
  rw [h0, zero_mul] at this
  exact h this.symm

theorem odd_part_mul_zpow (m : Nat) (e : Int) : ((m / 2 ^ trailing m : Nat) : ℚ) * 2 ^ (e + trailing m) = m * 2 ^ e := by
  have h : ((m / 2 ^ trailing m : Nat) : ℚ) * 2 ^ trailing m = m := by exact_mod_cast div_two_pow_trailing_mul m
  rw [two_zpow_add, zpow_natCast, mul_comm ((2 : ℚ) ^ e), ← mul_assoc, h]

@[simp] theorem ratOf_mk (n : Bool) (m : Nat) (e : Int) : ratOf (Val.mk n m e) = signRat n * m * 2 ^ e := by
  rcases eq_or_ne m 0 with rfl | h
  · simp [Val.mk_zero]
  · rw [Val.mk_of_ne_zero n h, ratOf_fin, mul_assoc, odd_part_mul_zpow, mul_assoc]

@[simp] theorem Val.mk_neg (n : Bool) (m : Nat) (e : Int) : (Val.mk n m e).neg = n := by
  unfold Val.mk; split <;> rfl

theorem Val.mk_isFin_or_isZero (n : Bool) (m : Nat) (e : Int) : (Val.mk n m e).isFin ∨ (Val.mk n m e).isZero := by
  unfold Val.mk; split <;> simp [Val.isFin, Val.isZero]

theorem signRat_mul_natAbs (i : Int) : signRat (decide (i < 0)) * (i.natAbs : ℚ) = i := by
  rw [← Int.cast_natCast, Int.natCast_natAbs]
  rcases lt_or_ge i 0 with h | h
  · simp [h, abs_of_neg h]
  · simp [not_lt.mpr h, abs_of_nonneg h]

@[simp] theorem ratOf_ofScaled (i q : Int) : ratOf (Val.ofScaled i q) = i * 2 ^ q := by
  rw [Val.ofScaled, ratOf_mk, signRat_mul_natAbs]

@[simp] theorem ratOf_ofInt (i : Int) : ratOf (Val.ofInt i) = i := by
  rw [Val.ofInt, ratOf_mk, signRat_mul_natAbs, zpow_zero, mul_one]

end Sys2Proof
end

section
/-! PROOFS. Rounding (R62 to R65, R69): a magnitude counted in units is split at the multiple below it, and each mode keeps that multiple
or takes the next. -/

namespace Sys2Proof
open Sys2Proof.Machine

/-! The split of a magnitude. -/

/-- y lies in the unit above fl; o compares what is left with one half, and `inexact` says whether anything is left (R63). -/
structure Splits (y : ℚ) (fl : Nat) (o : Ordering) (inexact : Bool) : Prop where
  below : (fl : ℚ) ≤ y
  above : y < fl + 1
  lt : o = .lt → y < fl + 1 / 2
  eq : o = .eq → y = fl + 1 / 2
  gt : o = .gt → fl + 1 / 2 < y
  exact_iff : inexact = true ↔ y ≠ fl

/-- The multiple below or the next, as the mode says. -/
def pick (rm : Rnd) (neg : Bool) (fl : Nat) (o : Ordering) (inexact : Bool) : Nat := if roundsUp rm neg fl o inexact then fl + 1 else fl

/-- A magnitude m * 2^e, or one strictly between it and the next multiple of 2^e where e is below the unit. -/
def Magnitude (m : Nat) (e q : Int) (more : Bool) (x : ℚ) : Prop :=
  (more = false → x = m * 2 ^ e) ∧ (more = true → e < q ∧ (m : ℚ) * 2 ^ e < x ∧ x < (m + 1) * 2 ^ e)

theorem Magnitude.bounds {m : Nat} {e q : Int} {more : Bool} {x : ℚ} (h : Magnitude m e q more x) : (m : ℚ) * 2 ^ e ≤ x ∧ x < (m + 1) * 2 ^ e := by
  have := two_zpow_pos e
  cases more with
  | false => rw [h.1 rfl]; constructor <;> nlinarith
  | true => obtain ⟨-, h1, h2⟩ := h.2 rfl; exact ⟨h1.le, h2⟩

theorem exists_magnitude (m : Nat) {e q : Int} {more : Bool} (h : more = true → e < q) : ∃ x, Magnitude m e q more x := by
  have := two_zpow_pos e
  cases more with
  | false => exact ⟨_, fun _ => rfl, fun h => by simp at h⟩
  | true => exact ⟨(m + 1 / 2) * 2 ^ e, fun h => by simp at h, fun _ => ⟨h rfl, by nlinarith, by nlinarith⟩⟩

theorem pick_exact (rm : Rnd) (neg : Bool) (fl : Nat) : pick rm neg fl .lt false = fl := by
  unfold pick roundsUp; cases rm <;> simp

/-- A magnitude that is a multiple of the unit. -/
theorem splits_of_multiple (n : Nat) : Splits n n .lt false where
  below := le_refl _
  above := by linarith
  lt := fun _ => by linarith
  eq := by simp
  gt := by simp
  exact_iff := by simp

/-- A magnitude below a quarter of the unit. -/
theorem splits_of_small {y : ℚ} (h0 : 0 < y) (h1 : y < 1 / 4) : Splits y 0 .lt true where
  below := by simpa using h0.le
  above := by push_cast; linarith
  lt := fun _ => by push_cast; linarith
  eq := by simp
  gt := by simp
  exact_iff := by simpa using h0.ne'

/-- What is left of a number after whole units of 2^d, compared with half a unit. -/
def halfOrder (r d : Nat) (more : Bool) : Ordering :=
  if r < 2 ^ (d - 1) then .lt else if r = 2 ^ (d - 1) && !more then .eq else .gt

theorem halfOrder_eq_lt (r d : Nat) (more : Bool) : halfOrder r d more = .lt ↔ r < 2 ^ (d - 1) := by
  unfold halfOrder; split_ifs with h h' <;> simp [h]

theorem halfOrder_eq_eq (r d : Nat) (more : Bool) : halfOrder r d more = .eq ↔ r = 2 ^ (d - 1) ∧ more = false := by
  unfold halfOrder; split_ifs with h h' <;> simp_all
  omega

theorem halfOrder_eq_gt (r d : Nat) (more : Bool) : halfOrder r d more = .gt ↔ 2 ^ (d - 1) < r ∨ (r = 2 ^ (d - 1) ∧ more = true) := by
  unfold halfOrder; split_ifs with h h' <;> simp_all
  · omega
  · rcases Nat.lt_or_eq_of_le h with h | h
    · exact .inl h
    · exact .inr ⟨h.symm, h' h.symm⟩

/-- A number of parts, or one strictly between it and the next, in units of 2^d parts. -/
theorem splits_of_parts {m d : Nat} {more : Bool} {z : ℚ} (hd : 0 < d) (h0 : more = false → z = m) (h1 : more = true → (m : ℚ) < z ∧ z < m + 1) :
    Splits (z / 2 ^ d) (m / 2 ^ d) (halfOrder (m % 2 ^ d) d more) (more || m % 2 ^ d != 0) := by
  obtain ⟨k, rfl⟩ : ∃ k, d = k + 1 := ⟨d - 1, by omega⟩
  set fl := m / 2 ^ (k + 1) with hfl
  set r := m % 2 ^ (k + 1) with hr
  have hmr : 2 ^ (k + 1) * fl + r = m := Nat.div_add_mod m (2 ^ (k + 1))
  have hrlt : r < 2 ^ (k + 1) := Nat.mod_lt _ (by positivity)
  have hpos : (0 : ℚ) < 2 ^ k := by positivity
  have hu : (2 : ℚ) ^ (k + 1) = 2 * 2 ^ k := pow_succ' 2 k
  have hm : (m : ℚ) = 2 * 2 ^ k * fl + r := by rw [← hmr]; push_cast; rw [hu]
  have hz : (m : ℚ) ≤ z ∧ z < m + 1 := by
    cases more with
    | false => rw [h0 rfl]; constructor <;> linarith
    | true => exact ⟨(h1 rfl).1.le, (h1 rfl).2⟩
  have hr1 : (r : ℚ) + 1 ≤ 2 * 2 ^ k := by rw [← hu]; exact_mod_cast hrlt
  have hr0 : (0 : ℚ) ≤ r := Nat.cast_nonneg r
  constructor
  · rw [hu, le_div_iff₀ (by positivity)]; nlinarith
  · rw [hu, div_lt_iff₀ (by positivity)]; nlinarith
  · rw [halfOrder_eq_lt, Nat.add_sub_cancel]
    intro hlt
    have : (r : ℚ) + 1 ≤ 2 ^ k := by exact_mod_cast hlt
    rw [hu, div_lt_iff₀ (by positivity)]; nlinarith
  · rw [halfOrder_eq_eq, Nat.add_sub_cancel]
    rintro ⟨heq, hmore⟩
    have : (r : ℚ) = 2 ^ k := by exact_mod_cast heq
    rw [h0 hmore, hu, div_eq_iff (by positivity), hm, this]; ring
  · rw [halfOrder_eq_gt, Nat.add_sub_cancel]
    intro hgt
    rw [hu, lt_div_iff₀ (by positivity)]
    rcases hgt with h | ⟨h, hmore⟩
    · have : (2 : ℚ) ^ k + 1 ≤ r := by exact_mod_cast h
      nlinarith
    · have h' : (r : ℚ) = 2 ^ k := by exact_mod_cast h
      have := (h1 hmore).1
      nlinarith
  · rw [ne_eq, hu, div_eq_iff (by positivity)]
    cases more with
    | true =>
      have := (h1 rfl).1
      simp only [Bool.true_or, true_iff]
      nlinarith
    | false =>
      have : (z = fl * (2 * 2 ^ k)) ↔ r = 0 := by
        rw [h0 rfl, hm]
        constructor
        · intro h; have : (r : ℚ) = 0 := by linarith
          exact_mod_cast this
        · intro h; simp [h]; ring
      simp [this]

/-- The three ways of `quantise`: a multiple of the unit, a magnitude below a quarter of it, and a division. -/
theorem quantise_splits (rm : Rnd) (neg : Bool) {m : Nat} {e q : Int} {more : Bool} {x : ℚ} (hm : m ≠ 0) (hx : Magnitude m e q more x) :
    ∃ fl o i, Splits (x / 2 ^ q) fl o i ∧ quantise rm neg m e q more = (pick rm neg fl o i, i) := by
  have hq := two_zpow_pos q
  have he := two_zpow_pos e
  unfold quantise
  by_cases h1 : q ≤ e
  · rw [if_pos h1]
    have hmore : more = false := by
      cases more with
      | false => rfl
      | true => exact absurd (hx.2 rfl).1 (not_lt.mpr h1)
    subst hmore
    have hy : x / 2 ^ q = ((m * 2 ^ (e - q).toNat : Nat) : ℚ) := by
      push_cast
      rw [hx.1 rfl, two_pow_toNat (by omega), two_zpow_sub]
      ring
    exact ⟨_, .lt, false, hy ▸ splits_of_multiple _, rfl⟩
  rw [if_neg h1]
  by_cases h2 : e + Nat.log2 m + 3 < q
  · rw [if_pos h2]
    refine ⟨0, .lt, true, splits_of_small ?_ ?_, rfl⟩
    · have : (0 : ℚ) < m := by exact_mod_cast Nat.pos_of_ne_zero hm
      exact div_pos (lt_of_lt_of_le (by positivity) hx.bounds.1) hq
    · have hlog : ((m : ℚ) + 1) ≤ 2 ^ (Nat.log2 m + 1) := by exact_mod_cast Nat.lt_log2_self
      have : x < 2 ^ (q - 2) := calc
        x < (m + 1) * 2 ^ e := hx.bounds.2
        _ ≤ 2 ^ (Nat.log2 m + 1) * 2 ^ e := by gcongr
        _ = 2 ^ ((Nat.log2 m : Int) + 1 + e) := by rw [two_zpow_add]; norm_cast
        _ ≤ 2 ^ (q - 2) := zpow_le_zpow_right₀ one_le_two (by omega)
      rw [div_lt_iff₀ hq]
      rw [two_zpow_sub] at this
      norm_num at this ⊢
      linarith
  · rw [if_neg h2]
    have hy : x / 2 ^ q = x / 2 ^ e / 2 ^ (q - e).toNat := by
      rw [two_pow_toNat (by omega), two_zpow_sub]; field_simp
    refine ⟨_, _, _, hy ▸ splits_of_parts (m := m) (more := more) (by omega) ?_ ?_, rfl⟩
    · intro h; rw [hx.1 h]; field_simp
    · intro h
      obtain ⟨-, h3, h4⟩ := hx.2 h
      exact ⟨(lt_div_iff₀ he).mpr h3, (div_lt_iff₀ he).mpr h4⟩

/-! What each mode names. -/

/-- The mode keeps the multiple below: RTZ, and a directed mode whose infinity lies on the other side (R63). -/
def TowardsZero (rm : Rnd) (neg : Bool) : Prop := rm = .rtz ∨ (rm = .rdn ∧ neg = false) ∨ (rm = .rup ∧ neg = true)

/-- The mode takes the next multiple unless the magnitude is one: a directed mode on the side of its infinity (R63). -/
def AwayFromZero (rm : Rnd) (neg : Bool) : Prop := (rm = .rdn ∧ neg = true) ∨ (rm = .rup ∧ neg = false)

theorem pick_towardsZero {rm : Rnd} {neg : Bool} (h : TowardsZero rm neg) (fl : Nat) (o : Ordering) (i : Bool) : pick rm neg fl o i = fl := by
  rcases h with rfl | ⟨rfl, rfl⟩ | ⟨rfl, rfl⟩ <;> rfl

theorem pick_awayFromZero {rm : Rnd} {neg : Bool} (h : AwayFromZero rm neg) (fl : Nat) (o : Ordering) (i : Bool) :
    pick rm neg fl o i = if i then fl + 1 else fl := by
  rcases h with ⟨rfl, rfl⟩ | ⟨rfl, rfl⟩ <;> rfl

theorem pick_rne (neg : Bool) (fl : Nat) (o : Ordering) (i : Bool) :
    pick .rne neg fl o i = match o with
      | .lt => fl
      | .eq => if fl % 2 = 1 then fl + 1 else fl
      | .gt => fl + 1 := by
  cases o <;> simp [pick, roundsUp]

/-- A rounded magnitude is the multiple below, or the next where something is left. -/
theorem pick_cases {y : ℚ} {fl : Nat} {o : Ordering} {i : Bool} (h : Splits y fl o i) (rm : Rnd) (neg : Bool) :
    pick rm neg fl o i = fl ∨ (pick rm neg fl o i = fl + 1 ∧ i = true) := by
  have hx : i = false → y = fl := fun hi => by
    by_contra hc
    simp [h.exact_iff.mpr hc] at hi
  cases i with
  | true =>
    unfold pick
    split
    · exact .inr ⟨rfl, rfl⟩
    · exact .inl rfl
  | false =>
    have ho : o = .lt := by
      cases o with
      | lt => rfl
      | eq => have := h.eq rfl; rw [hx rfl] at this; linarith
      | gt => have := h.gt rfl; rw [hx rfl] at this; linarith
    rw [ho, pick_exact]
    exact .inl rfl

theorem Splits.exact {y : ℚ} {fl : Nat} {o : Ordering} {i : Bool} (h : Splits y fl o i) (rm : Rnd) (neg : Bool) :
    i = true ↔ (pick rm neg fl o i : ℚ) ≠ y := by
  rcases pick_cases h rm neg with hp | ⟨hp, hi⟩
  · rw [hp, ne_comm]; exact h.exact_iff
  · have := h.above
    rw [hp]
    push_cast
    exact ⟨fun _ => this.ne', fun _ => hi⟩

theorem Splits.nearest {y : ℚ} {fl : Nat} {o : Ordering} {i : Bool} (h : Splits y fl o i) (neg : Bool) :
    |(pick .rne neg fl o i : ℚ) - y| ≤ 1 / 2 ∧ (|(pick .rne neg fl o i : ℚ) - y| = 1 / 2 → pick .rne neg fl o i % 2 = 0) := by
  have hb := h.below
  have ha := h.above
  rw [pick_rne]
  cases o with
  | lt =>
    have := h.lt rfl
    rw [abs_of_nonpos (by linarith)]
    exact ⟨by linarith, fun _ => by linarith⟩
  | gt =>
    have := h.gt rfl
    push_cast
    rw [abs_of_nonneg (by linarith)]
    exact ⟨by linarith, fun _ => by linarith⟩
  | eq =>
    have := h.eq rfl
    dsimp only
    split
    · push_cast
      rw [abs_of_nonneg (by linarith)]
      exact ⟨by linarith, fun _ => by omega⟩
    · rw [abs_of_nonpos (by linarith)]
      exact ⟨by linarith, fun _ => by omega⟩

theorem Splits.towardsZero {y : ℚ} {fl : Nat} {o : Ordering} {i : Bool} (h : Splits y fl o i) {rm : Rnd} {neg : Bool} (hr : TowardsZero rm neg) :
    (pick rm neg fl o i : ℚ) ≤ y ∧ y < pick rm neg fl o i + 1 := by
  rw [pick_towardsZero hr]
  exact ⟨h.below, h.above⟩

theorem Splits.awayFromZero {y : ℚ} {fl : Nat} {o : Ordering} {i : Bool} (h : Splits y fl o i) {rm : Rnd} {neg : Bool} (hr : AwayFromZero rm neg) :
    (pick rm neg fl o i : ℚ) - 1 < y ∧ y ≤ pick rm neg fl o i := by
  have hb := h.below
  have ha := h.above
  rw [pick_awayFromZero hr]
  cases i with
  | true =>
    have := lt_of_le_of_ne hb (Ne.symm (h.exact_iff.mp rfl))
    simp only [if_true]
    push_cast
    exact ⟨by linarith, by linarith⟩
  | false =>
    have : y = fl := by
      by_contra hc
      exact absurd (h.exact_iff.mpr hc) (by simp)
    simp only [Bool.false_eq_true, if_false]
    exact ⟨by linarith, this.le⟩

/-! Rounding to a multiple of 2^q. -/

/-- The first part of R63: what `quantise` answers, over the rationals. -/
theorem quantise_rounds {rm : Rnd} {neg : Bool} {m : Nat} {e q : Int} {more : Bool} {n : Nat} {inexact : Bool} {x : ℚ} (hm : m ≠ 0)
    (hx : Magnitude m e q more x) (h : quantise rm neg m e q more = (n, inexact)) :
    (inexact = true ↔ (n : ℚ) * 2 ^ q ≠ x) ∧
    (rm = .rne → |(n : ℚ) * 2 ^ q - x| ≤ 2 ^ q / 2 ∧ (|(n : ℚ) * 2 ^ q - x| = 2 ^ q / 2 → n % 2 = 0)) ∧
    (TowardsZero rm neg → (n : ℚ) * 2 ^ q ≤ x ∧ x < (n + 1) * 2 ^ q) ∧
    (AwayFromZero rm neg → ((n : ℚ) - 1) * 2 ^ q < x ∧ x ≤ n * 2 ^ q) := by
  obtain ⟨fl, o, i, hs, hp⟩ := quantise_splits rm neg hm hx
  rw [hp] at h
  obtain ⟨rfl, rfl⟩ := Prod.mk.inj h
  have hq := two_zpow_pos q
  obtain ⟨y, rfl⟩ : ∃ y, x = y * 2 ^ q := ⟨x / 2 ^ q, (div_mul_cancel₀ x hq.ne').symm⟩
  rw [mul_div_cancel_right₀ y hq.ne'] at hs
  refine ⟨?_, ?_, fun hr => ?_, fun hr => ?_⟩
  · rw [hs.exact rm neg, ne_eq, ne_eq, mul_left_inj' hq.ne']
  · rintro rfl
    obtain ⟨h1, h2⟩ := hs.nearest neg
    rw [← sub_mul, abs_mul, abs_of_pos hq, mul_comm, div_eq_mul_one_div, mul_le_mul_iff_right₀ hq, mul_right_inj' hq.ne']
    exact ⟨h1, h2⟩
  · obtain ⟨h1, h2⟩ := hs.towardsZero hr
    exact ⟨by gcongr, by gcongr⟩
  · obtain ⟨h1, h2⟩ := hs.awayFromZero hr
    exact ⟨by gcongr, by gcongr⟩

/-- A magnitude of at least 2^j units rounds to at least 2^j. -/
theorem le_quantise {rm : Rnd} {neg : Bool} {m j : Nat} {e q : Int} {more : Bool} {n : Nat} {i : Bool} (hm : m ≠ 0) (he : more = true → e < q)
    (h : quantise rm neg m e q more = (n, i)) (hj : q + j ≤ e + Nat.log2 m) : 2 ^ j ≤ n := by
  obtain ⟨x, hx⟩ := exists_magnitude m he
  obtain ⟨fl, o, i', hs, hp⟩ := quantise_splits rm neg hm hx
  rw [hp] at h
  obtain ⟨rfl, rfl⟩ := Prod.mk.inj h
  have hfl : 2 ^ j ≤ fl := by
    have hlog : (2 : ℚ) ^ Nat.log2 m ≤ m := by exact_mod_cast Nat.log2_self_le hm
    have : (2 : ℚ) ^ j < fl + 1 := calc
      (2 : ℚ) ^ j = 2 ^ (q + j) / 2 ^ q := by rw [two_zpow_add, zpow_natCast]; field_simp
      _ ≤ 2 ^ (e + Nat.log2 m) / 2 ^ q := by gcongr; exact one_le_two
      _ = 2 ^ Nat.log2 m * 2 ^ e / 2 ^ q := by rw [two_zpow_add, zpow_natCast, mul_comm]
      _ ≤ m * 2 ^ e / 2 ^ q := by gcongr
      _ ≤ x / 2 ^ q := by gcongr; exact hx.bounds.1
      _ < fl + 1 := hs.above
    exact Nat.lt_succ_iff.mp (by exact_mod_cast this)
  rcases pick_cases hs rm neg with hp | ⟨hp, -⟩ <;> omega

/-- A magnitude below 2^j units rounds to at most 2^j. -/
theorem quantise_le {rm : Rnd} {neg : Bool} {m j : Nat} {e q : Int} {more : Bool} {n : Nat} {i : Bool} (hm : m ≠ 0) (he : more = true → e < q)
    (h : quantise rm neg m e q more = (n, i)) (hj : e + Nat.log2 m < q + j) : n ≤ 2 ^ j := by
  obtain ⟨x, hx⟩ := exists_magnitude m he
  obtain ⟨fl, o, i', hs, hp⟩ := quantise_splits rm neg hm hx
  rw [hp] at h
  obtain ⟨rfl, rfl⟩ := Prod.mk.inj h
  have hfl : fl < 2 ^ j := by
    have hlog : (m : ℚ) + 1 ≤ 2 ^ (Nat.log2 m + 1) := by exact_mod_cast Nat.lt_log2_self
    have : (fl : ℚ) < 2 ^ j := calc
      (fl : ℚ) ≤ x / 2 ^ q := hs.below
      _ < (m + 1) * 2 ^ e / 2 ^ q := by gcongr; exact hx.bounds.2
      _ ≤ 2 ^ (Nat.log2 m + 1) * 2 ^ e / 2 ^ q := by gcongr
      _ = 2 ^ (e + Nat.log2 m + 1) / 2 ^ q := by rw [add_assoc, two_zpow_add]; norm_cast; rw [mul_comm]
      _ ≤ 2 ^ (q + j) / 2 ^ q := div_le_div_of_nonneg_right (zpow_le_zpow_right₀ one_le_two (by omega)) (two_zpow_pos q).le
      _ = 2 ^ j := by rw [two_zpow_add, zpow_natCast]; field_simp
    exact_mod_cast this
  rcases pick_cases hs rm neg with hp | ⟨hp, -⟩ <;> omega

end Sys2Proof
end

section
/-! PROOFS. Rounding to a format (R51 to R53, R63 to R65, R69). -/

namespace Sys2Proof
open Sys2Proof.Machine

/-! Formats. -/

/-- What the formats of R51 to R53 and R74 have in common: a significand of p bits holds the largest finite value's, whose unit lies above
that of the subnormals. -/
structure FloatSpec.Sound (s : FloatSpec) : Prop where
  p_pos : 0 < s.p
  top_lt : s.top < 2 ^ s.p
  emin_le : s.emin - (s.p - 1) ≤ s.topExp

theorem Fmt.spec_sound {f : Fmt} {s : FloatSpec} (h : f.spec = .float s) : s.Sound := by
  cases f <;> cases h <;> exact ⟨by decide, by decide, by decide⟩

theorem acc40_sound : acc40.Sound := ⟨by decide, by decide, by decide⟩

theorem sound_of_format {s : FloatSpec} (h : (∃ f : Fmt, f.spec = .float s) ∨ s = acc40) : s.Sound := by
  rcases h with ⟨f, hf⟩ | rfl
  · exact Fmt.spec_sound hf
  · exact acc40_sound

theorem spec_eq_floatSpec {f : Fmt} {s : FloatSpec} (h : f.spec = .float s) : floatSpec f = some (s.p, s.emin, s.hasInf, s.hasNan) := by
  cases f <;> cases h <;> rfl

theorem top_eq_largestSpec {f : Fmt} {s : FloatSpec} (h : f.spec = .float s) : (s.top : ℚ) * 2 ^ s.topExp = largestSpec f := by
  cases f <;> cases h <;> norm_num [largestSpec]

@[simp] theorem ratOf_largest (s : FloatSpec) (neg : Bool) : ratOf (s.largest neg) = signRat neg * s.top * 2 ^ s.topExp := ratOf_mk _ _ _

/-! The row of R64. -/

theorem overflow_finite {s : FloatSpec} {rm : Rnd} {neg : Bool} (h : s.hasInf = false ∨ TowardsZero rm neg) : s.overflow rm neg = s.largest neg := by
  unfold FloatSpec.overflow
  rcases h with h | rfl | ⟨rfl, rfl⟩ | ⟨rfl, rfl⟩
  · simp [h]
  all_goals cases s.hasInf <;> rfl

theorem overflow_inf {s : FloatSpec} {rm : Rnd} {neg : Bool} (hi : s.hasInf = true) (h : rm = .rne ∨ AwayFromZero rm neg) :
    s.overflow rm neg = .inf neg := by
  unfold FloatSpec.overflow
  rcases h with rfl | ⟨rfl, rfl⟩ | ⟨rfl, rfl⟩ <;> simp [hi]

/-! A finite magnitude in a format. -/

/-- The unit of the exponent of m * 2^e, no smaller than that of the subnormals (R51, R65). -/
def FloatSpec.unit (s : FloatSpec) (m : Nat) (e : Int) : Int := max (e + Nat.log2 m) s.emin - (s.p - 1)

/-- The unit of the exponent of m * 2^e were there no smallest exponent; tininess is detected after rounding to it (R65). -/
def FloatSpec.freeUnit (s : FloatSpec) (m : Nat) (e : Int) : Int := e + Nat.log2 m - (s.p - 1)

/-- Beyond the largest finite value, as `roundFin` tests it. -/
def FloatSpec.beyond (s : FloatSpec) (n : Nat) (q : Int) : Bool :=
  if q ≤ s.topExp then decide (s.top * 2 ^ (s.topExp - q).toNat < n) else true

/-- Tiny, as `roundFin` tests it. -/
def FloatSpec.tiny (s : FloatSpec) (m : Nat) (e : Int) (n' : Nat) : Bool :=
  decide (e + Nat.log2 m < s.emin) && (decide (e + Nat.log2 m + 1 < s.emin) || decide (n' < 2 ^ s.p))

theorem roundFin_eq {s : FloatSpec} {rm : Rnd} {neg more : Bool} {m : Nat} {e : Int} {n n' : Nat} {i i' : Bool}
    (h : quantise rm neg m e (s.unit m e) more = (n, i)) (h' : quantise rm neg m e (s.freeUnit m e) more = (n', i')) :
    s.roundFin rm neg m e more = if s.beyond n (s.unit m e) then (s.overflow rm neg, flagOF ||| flagNX)
      else (Val.mk neg n (s.unit m e), (if i then flagNX else 0) ||| (if s.tiny m e n' && i then flagUF else 0)) := by
  unfold FloatSpec.unit FloatSpec.freeUnit at *
  unfold FloatSpec.roundFin
  dsimp only
  rw [h, h']
  rfl

section
variable {s : FloatSpec} {rm : Rnd} {neg more : Bool} {m : Nat} {e : Int} {n n' : Nat} {i i' : Bool}

/-- A significand longer than the format's has parts below every unit that it is rounded to. -/
theorem lt_freeUnit (hs : s.Sound) (hm : m ≠ 0) (hmore : more = true → 2 ^ s.p ≤ m) (h : more = true) : e < s.freeUnit m e := by
  have : s.p ≤ Nat.log2 m := (Nat.le_log2 hm).mpr (hmore h)
  have := hs.p_pos
  unfold FloatSpec.freeUnit
  omega

theorem freeUnit_le_unit (s : FloatSpec) (m : Nat) (e : Int) : s.freeUnit m e ≤ s.unit m e := by
  unfold FloatSpec.freeUnit FloatSpec.unit
  omega

theorem beyond_iff (hs : s.Sound) (hm : m ≠ 0) (hmore : more = true → 2 ^ s.p ≤ m) (h : quantise rm neg m e (s.unit m e) more = (n, i)) :
    s.beyond n (s.unit m e) = true ↔ (s.top : ℚ) * 2 ^ s.topExp < n * 2 ^ s.unit m e := by
  have hp := hs.p_pos
  unfold FloatSpec.beyond
  split_ifs with hq
  · rw [decide_eq_true_eq, ← Nat.cast_lt (α := ℚ)]
    push_cast
    rw [two_pow_toNat (by omega), two_zpow_sub, ← mul_div_assoc, div_lt_iff₀ (two_zpow_pos _)]
  · have hn : 2 ^ (s.p - 1) ≤ n := by
      refine le_quantise hm (fun hc => lt_of_lt_of_le (lt_freeUnit hs hm hmore hc) (freeUnit_le_unit s m e)) h ?_
      have := hs.emin_le
      unfold FloatSpec.unit at hq ⊢
      omega
    simp only [true_iff]
    calc (s.top : ℚ) * 2 ^ s.topExp < 2 ^ s.p * 2 ^ s.topExp := by
          have := hs.top_lt
          gcongr
          exact_mod_cast this
      _ = 2 ^ (s.p - 1) * 2 ^ (s.topExp + 1) := by
          rw [two_zpow_add, ← Nat.sub_add_cancel hp, pow_succ, Nat.add_sub_cancel]; ring
      _ ≤ n * 2 ^ s.unit m e := by
          gcongr
          · exact_mod_cast hn
          · exact one_le_two
          · omega

/-- Tininess is that of the value rounded without a smallest exponent (R65). -/
theorem tiny_iff (hs : s.Sound) (hm : m ≠ 0) (hmore : more = true → 2 ^ s.p ≤ m) (h : quantise rm neg m e (s.freeUnit m e) more = (n', i')) :
    s.tiny m e n' = true ↔ (n' : ℚ) * 2 ^ s.freeUnit m e < 2 ^ s.emin := by
  have hp := hs.p_pos
  have hlo : 2 ^ (s.p - 1) ≤ n' := le_quantise hm (lt_freeUnit hs hm hmore) h (by unfold FloatSpec.freeUnit; omega)
  have hhi : n' ≤ 2 ^ s.p := quantise_le hm (lt_freeUnit hs hm hmore) h (by unfold FloatSpec.freeUnit; omega)
  have hlo' : (2 : ℚ) ^ (e + Nat.log2 m) ≤ n' * 2 ^ s.freeUnit m e := calc
    (2 : ℚ) ^ (e + Nat.log2 m) = 2 ^ (s.p - 1) * 2 ^ s.freeUnit m e := by
      rw [← zpow_natCast, ← two_zpow_add]; congr 1; unfold FloatSpec.freeUnit; omega
    _ ≤ n' * 2 ^ s.freeUnit m e := by gcongr; exact_mod_cast hlo
  have hunit : (2 : ℚ) ^ s.p * 2 ^ s.freeUnit m e = 2 ^ (e + Nat.log2 m + 1) := by
    rw [← zpow_natCast, ← two_zpow_add]; congr 1; unfold FloatSpec.freeUnit; omega
  have hhi' : (n' : ℚ) * 2 ^ s.freeUnit m e ≤ 2 ^ (e + Nat.log2 m + 1) := by
    rw [← hunit]; gcongr; exact_mod_cast hhi
  unfold FloatSpec.tiny
  rcases lt_trichotomy (e + Nat.log2 m + 1) s.emin with h1 | h1 | h1
  · have : e + Nat.log2 m < s.emin := by omega
    simp only [h1, this, decide_true, Bool.true_or, Bool.and_self, true_iff]
    exact lt_of_le_of_lt hhi' (zpow_lt_zpow_right₀ one_lt_two h1)
  · have : e + Nat.log2 m < s.emin := by omega
    simp only [this, h1, lt_irrefl, decide_true, decide_false, Bool.true_and, Bool.false_or, decide_eq_true_eq]
    rw [← h1, ← hunit, mul_lt_mul_iff_left₀ (two_zpow_pos _)]
    exact_mod_cast Iff.rfl
  · have : ¬ e + Nat.log2 m < s.emin := by omega
    simp only [this, decide_false, Bool.false_and, Bool.false_eq_true, false_iff, not_lt]
    exact le_trans (zpow_le_zpow_right₀ one_le_two (by omega)) hlo'

end

/-! Clauses of the statement. -/

theorem round_fin (s : FloatSpec) (rm : Rnd) (neg : Bool) (m : Nat) (e : Int) (more : Bool) :
    s.round rm ⟨.fin neg m e, more⟩ = s.roundFin rm neg m e more := rfl

theorem round_within {s : FloatSpec} {rm : Rnd} {neg more : Bool} {m : Nat} {e : Int} {n n' : Nat} {i i' : Bool} (hs : s.Sound) (hm : m ≠ 0)
    (hmore : more = true → 2 ^ s.p ≤ m) (h : quantise rm neg m e (s.unit m e) more = (n, i))
    (h' : quantise rm neg m e (s.freeUnit m e) more = (n', i')) (hn : (n : ℚ) * 2 ^ s.unit m e ≤ s.top * 2 ^ s.topExp) :
    s.round rm ⟨.fin neg m e, more⟩ =
      (Val.mk neg n (s.unit m e), (if i then flagNX else 0) ||| (if s.tiny m e n' && i then flagUF else 0)) := by
  rw [round_fin, roundFin_eq h h', if_neg]
  rw [beyond_iff hs hm hmore h]
  exact not_lt.mpr hn

theorem round_beyond {s : FloatSpec} {rm : Rnd} {neg more : Bool} {m : Nat} {e : Int} {n n' : Nat} {i i' : Bool} (hs : s.Sound) (hm : m ≠ 0)
    (hmore : more = true → 2 ^ s.p ≤ m) (h : quantise rm neg m e (s.unit m e) more = (n, i))
    (h' : quantise rm neg m e (s.freeUnit m e) more = (n', i')) (hn : (s.top : ℚ) * 2 ^ s.topExp < n * 2 ^ s.unit m e) :
    s.round rm ⟨.fin neg m e, more⟩ = (s.overflow rm neg, flagOF ||| flagNX) := by
  rw [round_fin, roundFin_eq h h', if_pos]
  exact (beyond_iff hs hm hmore h).mpr hn

theorem round_flags {s : FloatSpec} {rm : Rnd} {neg more : Bool} {m : Nat} {e : Int} {n' : Nat} {i i' : Bool} (hs : s.Sound) (hm : m ≠ 0)
    (hmore : more = true → 2 ^ s.p ≤ m) (h' : quantise rm neg m e (s.freeUnit m e) more = (n', i')) (fl : Word)
    (hfl : fl = (if i then flagNX else 0) ||| (if s.tiny m e n' && i then flagUF else 0)) :
    (i = true → (n' : ℚ) * 2 ^ s.freeUnit m e < 2 ^ s.emin → fl = flagUF ||| flagNX) ∧
    (i = true → (2 : ℚ) ^ s.emin ≤ n' * 2 ^ s.freeUnit m e → fl = flagNX) ∧ (i = false → fl = 0) := by
  subst hfl
  refine ⟨?_, ?_, ?_⟩
  · rintro rfl ht
    rw [(tiny_iff hs hm hmore h').mpr ht]
    rfl
  · rintro rfl ht
    rw [Bool.eq_false_iff.mpr (mt (tiny_iff hs hm hmore h').mp (not_lt.mpr ht))]
    rfl
  · rintro rfl
    simp

/-! Integers. -/

theorem intSpec_spec {f : Fmt} {bits : Nat} {signed : Bool} (h : intSpec f = some (bits, signed)) :
    f.spec = .int (if signed then -(2 ^ (bits - 1) : Int) else 0) (if signed then 2 ^ (bits - 1) - 1 else (2 ^ bits - 1 : Int)) := by
  cases f <;> cases h <;> rfl

/-- A range of integers that 64 bits hold. -/
theorem intSpec_range {f : Fmt} {bits : Nat} {signed : Bool} (h : intSpec f = some (bits, signed)) :
    -2 ^ 63 ≤ (if signed then -(2 ^ (bits - 1) : Int) else 0) ∧ (if signed then -(2 ^ (bits - 1) : Int) else 0) ≤ 0 ∧
      0 ≤ (if signed then 2 ^ (bits - 1) - 1 else (2 ^ bits - 1 : Int)) ∧ (if signed then 2 ^ (bits - 1) - 1 else (2 ^ bits - 1 : Int)) < 2 ^ 63 := by
  cases f <;> cases h <;> norm_num

/-- Rounded, then clamped with NV alone (R64, R69; log 18). -/
def clampInt (lo hi k : Int) (inexact : Bool) : Val × Word :=
  if k < lo then (Val.ofInt lo, flagNV) else if hi < k then (Val.ofInt hi, flagNV) else (Val.ofInt k, if inexact then flagNX else 0)

theorem roundToRange_fin {lo hi : Int} {rm : Rnd} {neg more : Bool} {m n : Nat} {e : Int} {i : Bool} (hlo : -2 ^ 63 ≤ lo) (hlo0 : lo ≤ 0)
    (hhi0 : 0 ≤ hi) (hhi : hi < 2 ^ 63) (hm : m ≠ 0) (hmore : more = true → e < 0) (h : quantise rm neg m e 0 more = (n, i)) :
    roundToRange lo hi rm ⟨.fin neg m e, more⟩ = clampInt lo hi (if neg then -(n : Int) else n) i := by
  unfold roundToRange
  dsimp only
  by_cases h64 : 64 ≤ e + Nat.log2 m
  · have hn : 2 ^ 64 ≤ n := le_quantise hm hmore h (by push_cast; omega)
    rw [if_pos h64, clampInt]
    cases neg with
    | true =>
      have : -(n : Int) < lo := by omega
      simp [this]
    | false =>
      have h1 : ¬ (n : Int) < lo := by omega
      have h2 : hi < n := by omega
      simp [h1, h2]
  · rw [if_neg h64]
    simp only [roundInt, h]
    rfl

/-- Settles O28: a magnitude in units of 2^q is split at the multiple below it, and the rest follows for each mode and format. -/
theorem roundingModes : Obligations.RoundingModes := by
  refine ⟨?_, ?_, ?_, ?_, ?_, ?_, ?_, ratOf_ofInt⟩
  · intro rm neg m e q more n i x hm h0 h1 h
    exact quantise_rounds hm ⟨h0, h1⟩ h
  · exact fun f s h => ⟨spec_eq_floatSpec h, top_eq_largestSpec h⟩
  · refine ⟨rfl, rfl, rfl, rfl, ?_⟩
    norm_num [acc40]
  · rintro s rm neg more m e q n n' i i' hf hm hmore rfl h h'
    have hs := sound_of_format hf
    refine ⟨fun hn => ?_, fun hn => ?_⟩
    · rw [round_within hs hm hmore h h' hn]
      exact ⟨ratOf_mk _ _ _, Val.mk_neg _ _ _, round_flags hs hm hmore h' _ rfl⟩
    · rw [round_beyond hs hm hmore h h' hn]
      refine ⟨rfl, fun hr => ?_, fun hi hr => ?_⟩
      · rw [overflow_finite hr]
        exact ratOf_largest s neg
      · exact overflow_inf hi hr
  · intro s rm neg more _
    refine ⟨rfl, rfl, fun hi => ?_, fun hi => ?_⟩
    · simp [FloatSpec.round, hi]
    · simp only [FloatSpec.round, hi, Bool.false_eq_true, if_false]
      exact ⟨ratOf_largest s neg, trivial⟩
  · intro f s rm x h
    simp only [roundTo, h]
  · rintro f bits signed lo hi hf rfl rfl rm neg more
    obtain ⟨h1, h2, h3, h4⟩ := intSpec_range hf
    simp only [roundTo, intSpec_spec hf]
    refine ⟨⟨rfl, rfl, rfl⟩, ?_⟩
    rintro m n e k i hm hmore h rfl
    exact roundToRange_fin h1 h2 h3 h4 hm hmore h

end Sys2Proof
end

section
/-! PROOFS. The exact operations on finite values and zeros, over the rationals (R62, R67, R68, R187, R196). -/

namespace Sys2Proof
open Sys2Proof.Machine

/-- A finite value or a zero: the values that a rational stands for. -/
inductive Val.Finite : Val → Prop where
  | zero (n : Bool) : (Val.zero n).Finite
  | fin (n : Bool) (m : Nat) (e : Int) : (Val.fin n m e).Finite

theorem Val.finite_iff (v : Val) : v.Finite ↔ v.isFin = true ∨ v.isZero = true := by
  constructor
  · rintro (_ | _) <;> simp [Val.isFin, Val.isZero]
  · cases v <;> simp [Val.isFin, Val.isZero, Val.Finite.zero, Val.Finite.fin]

theorem Val.finite_mk (n : Bool) (m : Nat) (e : Int) : (Val.mk n m e).Finite := (Val.finite_iff _).mpr (Val.mk_isFin_or_isZero n m e)

theorem Val.finite_ofScaled (i q : Int) : (Val.ofScaled i q).Finite := Val.finite_mk _ _ _

/-- The integer that a value is in units of 2^q, for a unit at most its own. -/
theorem at_mul_zpow {v : Val} {q : Int} (h : v.isFin = true → q ≤ v.exp) : (v.at q : ℚ) * 2 ^ q = ratOf v := by
  cases v with
  | fin n m e =>
    have hq : q ≤ e := h rfl
    have hs : (((if n then -1 else 1 : Int) : Int) : ℚ) = signRat n := by cases n <;> simp
    simp only [Val.at, ratOf_fin]
    push_cast
    rw [two_pow_toNat (by omega), two_zpow_sub, ← hs]
    field_simp
    push_cast
    ring
  | _ => simp [Val.at]

/-! Sums. -/

theorem sumFin_fin (rm : Rnd) (x y : Bool) (m m' : Nat) (e e' : Int) : sumFin rm (.fin x m e) (.fin y m' e') =
    if (Val.fin x m e).at (min e e') + (Val.fin y m' e').at (min e e') = 0 then .zero (rm == .rdn)
    else Val.ofScaled ((Val.fin x m e).at (min e e') + (Val.fin y m' e').at (min e e')) (min e e') := rfl

theorem sumFin_exact (rm : Rnd) {a b : Val} (ha : a.Finite) (hb : b.Finite) :
    (sumFin rm a b).Finite ∧ ratOf (sumFin rm a b) = ratOf a + ratOf b := by
  cases ha with
  | zero x =>
    cases hb with
    | zero y => simp only [sumFin]; split <;> exact ⟨.zero _, by simp⟩
    | fin y m e => exact ⟨.fin _ _ _, by simp [sumFin]⟩
  | fin x m e =>
    cases hb with
    | zero y => exact ⟨.fin _ _ _, by simp [sumFin]⟩
    | fin y m' e' =>
      have h1 := at_mul_zpow (v := .fin x m e) (q := min e e') (fun _ => min_le_left _ _)
      have h2 := at_mul_zpow (v := .fin y m' e') (q := min e e') (fun _ => min_le_right _ _)
      rw [← h1, ← h2, ← add_mul]
      rw [sumFin_fin]
      split_ifs with hi
      · have : ((Val.fin x m e).at (min e e') : ℚ) + (Val.fin y m' e').at (min e e') = 0 := by exact_mod_cast hi
        exact ⟨.zero _, by simp [this]⟩
      · exact ⟨Val.finite_ofScaled _ _, by simp⟩

theorem addVal_finite (rm : Rnd) {a b : Val} (ha : a.Finite) (hb : b.Finite) : addVal rm a b = (sumFin rm a b, 0) := by
  cases ha <;> cases hb <;> rfl

theorem addVal_exact (rm : Rnd) {a b : Val} (ha : a.Finite) (hb : b.Finite) : (addVal rm a b).2 = 0 ∧ ratOf (addVal rm a b).1 = ratOf a + ratOf b := by
  rw [addVal_finite rm ha hb]
  exact ⟨rfl, (sumFin_exact rm ha hb).2⟩

/-! Products. -/

theorem mulVal_exact {a b : Val} (ha : a.Finite) (hb : b.Finite) :
    (mulVal a b).2 = 0 ∧ (mulVal a b).1.Finite ∧ ratOf (mulVal a b).1 = ratOf a * ratOf b := by
  cases ha with
  | zero x => cases hb <;> exact ⟨rfl, .zero _, by simp [mulVal]⟩
  | fin x m e =>
    cases hb with
    | zero y => exact ⟨rfl, .zero _, by simp [mulVal]⟩
    | fin y m' e' =>
      refine ⟨rfl, Val.finite_mk _ _ _, ?_⟩
      simp only [mulVal, ratOf_mk, ratOf_fin, signRat_bne, two_zpow_add, Nat.cast_mul]
      ring

theorem fmaVal_exact (rm : Rnd) {a b c : Val} (ha : a.Finite) (hb : b.Finite) (hc : c.Finite) :
    (fmaVal rm a b c).2 = 0 ∧ ratOf (fmaVal rm a b c).1 = ratOf a * ratOf b + ratOf c := by
  obtain ⟨h0, hf, hr⟩ := mulVal_exact ha hb
  have : fmaVal rm a b c = addVal rm (mulVal a b).1 c := by
    unfold fmaVal
    simp only [h0]
    rfl
  rw [this, ← hr]
  exact addVal_exact rm hf hc

theorem ratOf_scale {a : Val} (k : Int) : ratOf (a.scale k) = ratOf a * 2 ^ k := by
  cases a with
  | fin n m e => simp only [Val.scale, ratOf_fin, two_zpow_add]; ring
  | _ => simp [Val.scale]

theorem ratOf_negate (a : Val) : ratOf a.negate = -ratOf a := by
  cases a <;> simp [Val.negate, signRat_not]

theorem ratOf_abs (a : Val) : ratOf a.abs = |ratOf a| := by
  cases a with
  | fin n m e =>
    have : |signRat n| = 1 := by cases n <;> simp
    simp only [Val.abs, ratOf_fin, signRat_false, abs_mul, this, Nat.abs_cast, abs_of_pos (two_zpow_pos e)]
  | _ => simp [Val.abs]

/-! Comparisons. -/

/-- The order of two values is that of their rationals (R68). -/
theorem ordVal_finite {a b : Val} (ha : a.Finite) (hb : b.Finite) : ordVal a b = compare (ratOf a) (ratOf b) := by
  have key : ∀ a b : Val, ordVal a b = compare (a.at (min a.exp b.exp)) (b.at (min a.exp b.exp)) → ordVal a b = compare (ratOf a) (ratOf b) := by
    intro a b h
    have h1 := at_mul_zpow (v := a) (q := min a.exp b.exp) (fun _ => min_le_left _ _)
    have h2 := at_mul_zpow (v := b) (q := min a.exp b.exp) (fun _ => min_le_right _ _)
    have hq := two_zpow_pos (min a.exp b.exp)
    rw [h, ← h1, ← h2]
    rcases lt_trichotomy (a.at (min a.exp b.exp)) (b.at (min a.exp b.exp)) with h | h | h
    · rw [compare_lt_iff_lt.mpr h, eq_comm, compare_lt_iff_lt, mul_lt_mul_iff_left₀ hq]
      exact_mod_cast h
    · rw [h, compare_eq_iff_eq.mpr rfl, compare_eq_iff_eq.mpr rfl]
    · rw [compare_gt_iff_gt.mpr h, eq_comm, compare_gt_iff_gt, mul_lt_mul_iff_left₀ hq]
      exact_mod_cast h
  apply key
  cases ha <;> cases hb <;> rfl

theorem Val.Finite.not_nan {v : Val} (h : v.Finite) : v.isNan = false := by
  cases h <;> rfl

theorem cmpVal_lt_iff {a b : Val} (ha : a.Finite) (hb : b.Finite) : cmpVal .lt a b = true ↔ ratOf a < ratOf b := by
  simp [cmpVal, ha.not_nan, hb.not_nan, ordVal_finite ha hb, compare_lt_iff_lt]

theorem cmpVal_eq_iff {a b : Val} (ha : a.Finite) (hb : b.Finite) : cmpVal .eq a b = true ↔ ratOf a = ratOf b := by
  simp [cmpVal, ha.not_nan, hb.not_nan, ordVal_finite ha hb]

/-! The sum of a list. -/

theorem foldl_min_exp_le (l : List Val) (q : Int) : l.foldl (fun q v => min q v.exp) q ≤ q ∧ ∀ v ∈ l, l.foldl (fun q v => min q v.exp) q ≤ v.exp := by
  induction l generalizing q with
  | nil => simp
  | cons x l ih =>
    obtain ⟨h1, h2⟩ := ih (min q x.exp)
    rw [List.foldl_cons]
    refine ⟨h1.trans (min_le_left _ _), fun v hv => ?_⟩
    rcases List.mem_cons.mp hv with rfl | hv
    · exact h1.trans (min_le_right _ _)
    · exact h2 v hv

theorem foldl_at_mul_zpow {q : Int} {l : List Val} (h : ∀ v ∈ l, q ≤ v.exp) (i : Int) :
    ((l.foldl (fun i v => i + v.at q) i : Int) : ℚ) * 2 ^ q = i * 2 ^ q + (l.map ratOf).sum := by
  induction l generalizing i with
  | nil => simp
  | cons x l ih =>
    rw [List.foldl_cons, ih (fun v hv => h v (List.mem_cons_of_mem x hv)), List.map_cons, List.sum_cons,
      ← at_mul_zpow (v := x) (fun _ => h x List.mem_cons_self)]
    push_cast
    ring

theorem sum_eq_zero_of_all_zero {l : List Val} {n : Bool} (h : l.all (· == .zero n) = true) : (l.map ratOf).sum = 0 := by
  refine List.sum_eq_zero fun x hx => ?_
  obtain ⟨v, hv, rfl⟩ := List.mem_map.mp hx
  have : v = .zero n := by simpa using List.all_eq_true.mp h v hv
  simp [this]

/-- The exact sum of finite values and zeros: the scaled integers' sum, unless all are zeros of one sign or it is zero. -/
theorem sumAll_finite (rm : Rnd) {l : List Val} (h : ∀ v ∈ l, v.Finite) : sumAll rm l =
    (if l.all (· == .zero false) then .zero false else if l.all (· == .zero true) then .zero true else
      if l.foldl (fun i v => i + v.at (l.foldl (fun q v => min q v.exp) 0)) 0 = 0 then .zero (rm == .rdn)
      else Val.ofScaled (l.foldl (fun i v => i + v.at (l.foldl (fun q v => min q v.exp) 0)) 0) (l.foldl (fun q v => min q v.exp) 0), 0) := by
  have h1 : l.any Val.isNan = false := by
    rw [List.any_eq_false]; intro v hv; simp [(h v hv).not_nan]
  have h2 : ∀ n, l.any (· == .inf n) = false := by
    intro n; rw [List.any_eq_false]; intro v hv
    cases h v hv <;> simp
  unfold sumAll
  simp only [h1, h2, Bool.and_self, Bool.false_eq_true, if_false]
  split_ifs <;> rfl

theorem sumAll_exact (rm : Rnd) {l : List Val} (h : ∀ v ∈ l, v.Finite) : (sumAll rm l).2 = 0 ∧ ratOf (sumAll rm l).1 = (l.map ratOf).sum := by
  have hsum := foldl_at_mul_zpow (foldl_min_exp_le l 0).2 0
  rw [Int.cast_zero, zero_mul, zero_add] at hsum
  rw [sumAll_finite rm h]
  refine ⟨rfl, ?_⟩
  dsimp only
  split_ifs with h1 h2 h3
  · rw [sum_eq_zero_of_all_zero h1, ratOf_zero]
  · rw [sum_eq_zero_of_all_zero h2, ratOf_zero]
  · rw [← hsum, h3, Int.cast_zero, zero_mul, ratOf_zero]
  · rw [ratOf_ofScaled, hsum]

end Sys2Proof
end

section
/-! PROOFS. What division, roots and reciprocals enclose, and the integer part (R62, R67, R187). -/

namespace Sys2Proof
open Sys2Proof.Machine

/-! Results and enclosures. -/

theorem encloses_mk (neg : Bool) {m : Nat} (hm : m ≠ 0) {e : Int} {f : ℚ → ℚ} {r : ℚ} (h : f (m * 2 ^ e) = r) :
    Encloses (Exact.of (Val.mk neg m e)) neg f r := by
  refine ⟨m / 2 ^ trailing m, e + trailing m, Val.mk_of_ne_zero neg hm e, div_two_pow_trailing_ne_zero hm, fun _ => ?_, fun hc => by cases hc⟩
  rw [odd_part_mul_zpow, h]

theorem encloses_more (neg : Bool) {m : Nat} {e : Int} {f : ℚ → ℚ} {r : ℚ} (hm : 2 ^ 80 ≤ m) (h1 : f (m * 2 ^ e) < r)
    (h2 : r < f ((m + 1) * 2 ^ e)) : Encloses ⟨.fin neg m e, true⟩ neg f r :=
  ⟨m, e, rfl, by omega, fun hc => by simp at hc, fun _ => ⟨hm, h1, h2⟩⟩

/-! Division. -/

/-- A quotient of numbers in whole units, with what is left. -/
theorem natDiv_bounds (n : Nat) {d : Nat} (hd : d ≠ 0) : ((n / d : Nat) : ℚ) ≤ n / d ∧ (n : ℚ) / d < (n / d : Nat) + 1 ∧
    (n % d = 0 ↔ ((n / d : Nat) : ℚ) = n / d) := by
  have hd' : (0 : ℚ) < d := by exact_mod_cast Nat.pos_of_ne_zero hd
  refine ⟨Nat.cast_div_le, ?_, ?_⟩
  · rw [div_lt_iff₀ hd']
    exact_mod_cast Nat.lt_mul_of_div_lt (Nat.lt_succ_self _) (Nat.pos_of_ne_zero hd)
  · rw [eq_div_iff hd'.ne', ← Nat.dvd_iff_mod_eq_zero, Nat.dvd_iff_div_mul_eq]
    exact_mod_cast Iff.rfl

/-- The scaled dividend of `divVal`, at least 2^87 times the divisor. -/
theorem two_pow_le_scaled_div {m m' : Nat} (hm : m ≠ 0) (hm' : m' ≠ 0) : 2 ^ 87 ≤ m * 2 ^ (88 + Nat.log2 m') / m' := by
  rw [Nat.le_div_iff_mul_le (Nat.pos_of_ne_zero hm')]
  have hlog : m' < 2 ^ (Nat.log2 m' + 1) := Nat.lt_log2_self
  calc 2 ^ 87 * m' ≤ 2 ^ 87 * 2 ^ (Nat.log2 m' + 1) := Nat.mul_le_mul_left _ hlog.le
    _ = 1 * 2 ^ (88 + Nat.log2 m') := by rw [← pow_add, one_mul]; congr 1; omega
    _ ≤ m * 2 ^ (88 + Nat.log2 m') := Nat.mul_le_mul_right _ (Nat.pos_of_ne_zero hm)

theorem divVal_fin (x y : Bool) (m m' : Nat) (e e' : Int) : divVal (.fin x m e) (.fin y m' e') =
    if m * 2 ^ (88 + Nat.log2 m') % m' = 0 then
      (Exact.of (Val.mk (x != y) (m * 2 ^ (88 + Nat.log2 m') / m') (e - e' - (88 + Nat.log2 m' : Nat))), 0)
    else (⟨.fin (x != y) (m * 2 ^ (88 + Nat.log2 m') / m') (e - e' - (88 + Nat.log2 m' : Nat)), true⟩, 0) := rfl

theorem divVal_encloses (x y : Bool) {m m' : Nat} (e e' : Int) (hm : m ≠ 0) (hm' : m' ≠ 0) :
    Encloses (divVal (.fin x m e) (.fin y m' e')).1 (x != y) (fun v => v) ((m : ℚ) * 2 ^ e / (m' * 2 ^ e')) ∧
      (divVal (.fin x m e) (.fin y m' e')).2 = 0 := by
  have hm'' : (m' : ℚ) ≠ 0 := by exact_mod_cast hm'
  rw [divVal_fin]
  have hbig := two_pow_le_scaled_div hm hm'
  obtain ⟨h1, h2, h3⟩ := natDiv_bounds (m * 2 ^ (88 + Nat.log2 m')) hm'
  generalize 88 + Nat.log2 m' = k at *
  have hu := two_zpow_pos (e - e' - k)
  have hr : (m : ℚ) * 2 ^ e / (m' * 2 ^ e') = ((m * 2 ^ k : Nat) : ℚ) / m' * 2 ^ (e - e' - k) := by
    push_cast
    rw [two_zpow_sub, two_zpow_sub, zpow_natCast]
    field_simp
  rw [hr]
  split_ifs with h
  · exact ⟨encloses_mk _ (by omega) (by rw [h3.mp h]), rfl⟩
  · refine ⟨encloses_more _ (by omega) ?_ ?_, rfl⟩
    · exact mul_lt_mul_of_pos_right (lt_of_le_of_ne h1 (fun hc => h (h3.mpr hc))) hu
    · exact mul_lt_mul_of_pos_right h2 hu

theorem rcpVal_encloses (y : Bool) {m' : Nat} (e' : Int) (hm' : m' ≠ 0) :
    Encloses (rcpVal (.fin y m' e')).1 y (fun v => v) (1 / ((m' : ℚ) * 2 ^ e')) ∧ (rcpVal (.fin y m' e')).2 = 0 := by
  have h := divVal_encloses false y 0 e' one_ne_zero hm'
  rw [Bool.false_bne, Nat.cast_one, zpow_zero, mul_one] at h
  exact h

/-! Roots. -/

/-- Bit by bit from a start below the root, the integer square root. -/
theorem isqrtFrom_bounds (n b r : Nat) (h1 : r * r ≤ n) (h2 : n < (r + 2 ^ b) * (r + 2 ^ b)) :
    isqrtFrom n b r * isqrtFrom n b r ≤ n ∧ n < (isqrtFrom n b r + 1) * (isqrtFrom n b r + 1) := by
  induction b generalizing r with
  | zero => exact ⟨h1, by simpa [isqrtFrom] using h2⟩
  | succ b ih =>
    rw [isqrtFrom]
    split_ifs with h
    · refine ih _ h ?_
      rwa [add_assoc, ← two_mul, ← pow_succ']
    · exact ih _ h1 (not_le.mp h)

theorem isqrt_eq_sqrt (n : Nat) : isqrt n = Nat.sqrt n := by
  have h : n < 2 ^ (Nat.log2 n / 2 + 1) * 2 ^ (Nat.log2 n / 2 + 1) := calc
    n < 2 ^ (Nat.log2 n + 1) := Nat.lt_log2_self
    _ ≤ 2 ^ (Nat.log2 n / 2 + 1 + (Nat.log2 n / 2 + 1)) := Nat.pow_le_pow_right two_pos (by omega)
    _ = _ := pow_add 2 _ _
  have := isqrtFrom_bounds n (Nat.log2 n / 2 + 1) 0 (Nat.zero_le n) (by simpa using h)
  exact Nat.eq_sqrt.mpr this

theorem le_isqrt {n j : Nat} (h : 2 ^ (2 * j) ≤ n) : 2 ^ j ≤ isqrt n := by
  rw [isqrt_eq_sqrt, Nat.le_sqrt, ← pow_add, ← two_mul]
  exact h

theorem isqrt_mul_le (n : Nat) : isqrt n * isqrt n ≤ n := by
  rw [isqrt_eq_sqrt]; exact Nat.sqrt_le n

theorem lt_succ_isqrt_mul (n : Nat) : n < (isqrt n + 1) * (isqrt n + 1) := by
  rw [isqrt_eq_sqrt]; exact Nat.lt_succ_sqrt n

theorem sq_mul_zpow_half (a : ℚ) {j : Int} (h : j % 2 = 0) : a * 2 ^ (j / 2) * (a * 2 ^ (j / 2)) = a * a * 2 ^ j := by
  have : (2 : ℚ) ^ j = 2 ^ (j / 2) * 2 ^ (j / 2) := by rw [← two_zpow_add]; congr 1; omega
  rw [this]; ring

theorem sqrtFin_eq (m : Nat) (e : Int) : sqrtFin m e =
    if isqrt (m * 2 ^ (170 + (e % 2).toNat)) * isqrt (m * 2 ^ (170 + (e % 2).toNat)) = m * 2 ^ (170 + (e % 2).toNat) then
      Exact.of (Val.mk false (isqrt (m * 2 ^ (170 + (e % 2).toNat))) ((e - (170 + (e % 2).toNat : Nat)) / 2))
    else ⟨.fin false (isqrt (m * 2 ^ (170 + (e % 2).toNat))) ((e - (170 + (e % 2).toNat : Nat)) / 2), true⟩ := rfl

theorem sqrtFin_encloses {m : Nat} (hm : m ≠ 0) (e : Int) : Encloses (sqrtFin m e) false (fun v => v * v) ((m : ℚ) * 2 ^ e) := by
  rw [sqrtFin_eq]
  have hk : (e - (170 + (e % 2).toNat : Nat)) % 2 = 0 := by omega
  have hk' : 170 ≤ 170 + (e % 2).toNat := by omega
  generalize 170 + (e % 2).toNat = k at *
  have hr : (m : ℚ) * 2 ^ e = ((m * 2 ^ k : Nat) : ℚ) * 2 ^ (e - k) := by
    push_cast
    rw [two_zpow_sub, zpow_natCast]
    field_simp
  have hu := two_zpow_pos (e - k)
  have hbig : 2 ^ 85 ≤ isqrt (m * 2 ^ k) := le_isqrt (calc
    2 ^ 170 ≤ 1 * 2 ^ k := by rw [one_mul]; exact Nat.pow_le_pow_right two_pos hk'
    _ ≤ m * 2 ^ k := Nat.mul_le_mul_right _ (Nat.pos_of_ne_zero hm))
  have h1 := isqrt_mul_le (m * 2 ^ k)
  have h2 := lt_succ_isqrt_mul (m * 2 ^ k)
  rw [hr]
  generalize m * 2 ^ k = n at *
  generalize isqrt n = r at *
  split_ifs with h
  · refine encloses_mk _ (by omega) ?_
    rw [sq_mul_zpow_half _ hk, ← h]
    push_cast
    rfl
  · refine encloses_more _ (by omega) ?_ ?_ <;> rw [sq_mul_zpow_half _ hk] <;> refine mul_lt_mul_of_pos_right ?_ hu
    · exact_mod_cast lt_of_le_of_ne h1 h
    · exact_mod_cast h2

theorem rsqrtVal_fin (m : Nat) (e : Int) : (rsqrtVal (.fin false m e)).1 =
    if 2 ^ (2 * (Nat.log2 m + 90) + (e % 2).toNat) / m * m = 2 ^ (2 * (Nat.log2 m + 90) + (e % 2).toNat) &&
        isqrt (2 ^ (2 * (Nat.log2 m + 90) + (e % 2).toNat) / m) * isqrt (2 ^ (2 * (Nat.log2 m + 90) + (e % 2).toNat) / m) =
          2 ^ (2 * (Nat.log2 m + 90) + (e % 2).toNat) / m then
      Exact.of (Val.mk false (isqrt (2 ^ (2 * (Nat.log2 m + 90) + (e % 2).toNat) / m)) (-((e + (2 * (Nat.log2 m + 90) + (e % 2).toNat : Nat)) / 2)))
    else ⟨.fin false (isqrt (2 ^ (2 * (Nat.log2 m + 90) + (e % 2).toNat) / m)) (-((e + (2 * (Nat.log2 m + 90) + (e % 2).toNat : Nat)) / 2)), true⟩ := by
  unfold rsqrtVal
  dsimp only
  rw [if_neg (by simp)]
  split_ifs <;> rfl

theorem rsqrtVal_flags (m : Nat) (e : Int) : (rsqrtVal (.fin false m e)).2 = 0 := by
  unfold rsqrtVal
  dsimp only
  rw [if_neg (by simp)]
  split_ifs <;> rfl

theorem sq_mul_zpow_neg_half (a : ℚ) {j : Int} (h : j % 2 = 0) : a * 2 ^ (-(j / 2)) * (a * 2 ^ (-(j / 2))) = a * a * 2 ^ (-j) := by
  have : -(j / 2) = -j / 2 := by omega
  rw [this]
  exact sq_mul_zpow_half a (by omega)

theorem rsqrtVal_encloses {m : Nat} (hm : m ≠ 0) (e : Int) :
    Encloses (rsqrtVal (.fin false m e)).1 false (fun v => v * v) (1 / ((m : ℚ) * 2 ^ e)) := by
  have hm' : (m : ℚ) ≠ 0 := by exact_mod_cast hm
  rw [rsqrtVal_fin]
  have hk : (e + (2 * (Nat.log2 m + 90) + (e % 2).toNat : Nat)) % 2 = 0 := by omega
  have hbig : 2 ^ (2 * 80) ≤ 2 ^ (2 * (Nat.log2 m + 90) + (e % 2).toNat) / m := by
    rw [Nat.le_div_iff_mul_le (Nat.pos_of_ne_zero hm)]
    calc 2 ^ (2 * 80) * m ≤ 2 ^ (2 * 80) * 2 ^ (Nat.log2 m + 1) := Nat.mul_le_mul_left _ Nat.lt_log2_self.le
      _ = 2 ^ (2 * 80 + (Nat.log2 m + 1)) := (pow_add 2 _ _).symm
      _ ≤ _ := Nat.pow_le_pow_right two_pos (by omega)
  generalize 2 * (Nat.log2 m + 90) + (e % 2).toNat = k at *
  obtain ⟨hq1, hq2, hq3⟩ := natDiv_bounds (2 ^ k) hm
  have hr : 1 / ((m : ℚ) * 2 ^ e) = ((2 ^ k : Nat) : ℚ) / m * 2 ^ (-(e + k)) := by
    push_cast
    rw [zpow_neg, two_zpow_add, zpow_natCast]
    field_simp
  have hu := two_zpow_pos (-(e + k))
  have hroot := le_isqrt hbig
  have h1 := isqrt_mul_le (2 ^ k / m)
  have h2 := lt_succ_isqrt_mul (2 ^ k / m)
  rw [← Nat.dvd_iff_mod_eq_zero, Nat.dvd_iff_div_mul_eq] at hq3
  rw [hr]
  generalize 2 ^ k / m = q at *
  generalize isqrt q = r at *
  split_ifs with h
  · obtain ⟨ha, hb⟩ : q * m = 2 ^ k ∧ r * r = q := by simpa using h
    refine encloses_mk _ (by omega) ?_
    rw [sq_mul_zpow_neg_half _ hk, ← hq3.mp ha, ← hb]
    push_cast
    rfl
  · have hlo : (r : ℚ) * r < ((2 ^ k : Nat) : ℚ) / m := by
      have h1' : (r : ℚ) * r ≤ q := by exact_mod_cast h1
      refine lt_of_le_of_ne (h1'.trans hq1) (fun hc => h ?_)
      have hq : (q : ℚ) = ((2 ^ k : Nat) : ℚ) / m := le_antisymm hq1 (hc ▸ h1')
      have hrq : r * r = q := by rw [← hq] at hc; exact_mod_cast hc
      simpa [hrq] using hq3.mpr hq
    have hhi : ((2 ^ k : Nat) : ℚ) / m < (r + 1) * (r + 1) := lt_of_lt_of_le hq2 (by exact_mod_cast h2)
    refine encloses_more _ (by omega) ?_ ?_ <;> rw [sq_mul_zpow_neg_half _ hk] <;> refine mul_lt_mul_of_pos_right ?_ hu
    · exact hlo
    · exact hhi

/-! The integer part. -/

theorem truncVal_fin (x : Bool) (m : Nat) (e : Int) :
    ratOf (truncVal (.fin x m e)) = signRat x * (⌊(m : ℚ) * 2 ^ e⌋ : ℚ) ∧ (truncVal (.fin x m e)).neg = x := by
  unfold truncVal
  dsimp only
  split_ifs with h
  · have : (m : ℚ) * 2 ^ e = ((m * 2 ^ e.toNat : Nat) : ℚ) := by push_cast; rw [two_pow_toNat h]
    refine ⟨?_, rfl⟩
    rw [ratOf_fin, mul_assoc, this, Int.floor_natCast, Int.cast_natCast]
  · have : (m : ℚ) * 2 ^ e = (m : ℚ) / ((2 ^ (-e).toNat : Nat) : ℚ) := by
      push_cast
      rw [two_pow_toNat (by omega), zpow_neg, div_inv_eq_mul]
    refine ⟨?_, Val.mk_neg _ _ _⟩
    rw [ratOf_mk, zpow_zero, mul_one, this, Rat.floor_natCast_div_natCast]
    rfl

end Sys2Proof
end

section
/-! PROOFS. The words of each format: the value of a word, and the word of a value (R51, R52, R54, R66). -/

namespace Sys2Proof
open Sys2Proof.Machine

/-! The fields of a floating-point word. -/

theorem fields_of_layout {f : Fmt} {eb fb : Nat} {bias : Int} (h : layoutSpec f = some (eb, fb, bias)) :
    f.fields = some ⟨eb, fb, bias⟩ ∧ f.width = fb + (eb + 1) ∧ 0 < eb ∧ f.width ≤ 32 := by
  cases f <;> cases h <;> decide

/-- Fraction, exponent and sign of the low bits of a word, as `wordVal` reads them. -/
theorem layout_fields {W eb fb : Nat} :
    W % 2 ^ (fb + (eb + 1)) % 2 ^ fb = W % 2 ^ fb ∧ W % 2 ^ (fb + (eb + 1)) / 2 ^ fb % 2 ^ eb = W / 2 ^ fb % 2 ^ eb ∧
      (W % 2 ^ (fb + (eb + 1)) / 2 ^ (fb + eb) == 1) = decide (W / 2 ^ (fb + eb) % 2 = 1) := by
  refine ⟨?_, ?_, ?_⟩
  · exact Nat.mod_mod_of_dvd W (pow_dvd_pow 2 (Nat.le_add_right _ _))
  · rw [pow_add, Nat.mod_mul_right_div_self]
    exact Nat.mod_mod_of_dvd _ (pow_dvd_pow 2 (Nat.le_succ _))
  · rw [← add_assoc, pow_succ 2 (fb + eb), Nat.mod_mul_right_div_self]
    rfl

/-- The low bits of a word, put together from its fields. -/
theorem layout_sum (W eb fb : Nat) : W % 2 ^ (fb + (eb + 1)) =
    (if decide (W / 2 ^ (fb + eb) % 2 = 1) then 2 ^ (fb + eb) else 0) + W / 2 ^ fb % 2 ^ eb * 2 ^ fb + W % 2 ^ fb := by
  have hs : (if decide (W / 2 ^ (fb + eb) % 2 = 1) then 2 ^ (fb + eb) else 0) = 2 ^ (fb + eb) * (W / 2 ^ (fb + eb) % 2) := by
    rcases Nat.mod_two_eq_zero_or_one (W / 2 ^ (fb + eb)) with h | h <;> simp [h]
  rw [hs, ← add_assoc, pow_succ 2 (fb + eb), Nat.mod_mul, pow_add 2 fb eb, Nat.mod_mul]
  ring

/-- The value of a word whose fields say neither infinity nor NaN (R51). -/
def fieldVal (ws : WordSpec) (neg : Bool) (ex frac : Nat) : Val :=
  if ex = 0 then Val.mk neg frac (1 - ws.bias - ws.fracBits) else Val.mk neg (2 ^ ws.fracBits + frac) (ex - ws.bias - ws.fracBits)

theorem wordVal_layout {f : Fmt} {eb fb : Nat} {bias : Int} (h : layoutSpec f = some (eb, fb, bias)) (w : Word) : wordVal f w =
    if f.ieeeTop && w.toNat / 2 ^ fb % 2 ^ eb == 2 ^ eb - 1 then
      if w.toNat % 2 ^ fb = 0 then (.inf (w.getLsbD (fb + eb)), 0) else (.nan, if w.toNat % 2 ^ fb < 2 ^ (fb - 1) then flagNV else 0)
    else if f == .e4m3 && w.toNat / 2 ^ fb % 2 ^ eb == 2 ^ eb - 1 && w.toNat % 2 ^ fb == 7 then (.nan, 0)
    else (fieldVal ⟨eb, fb, bias⟩ (w.getLsbD (fb + eb)) (w.toNat / 2 ^ fb % 2 ^ eb) (w.toNat % 2 ^ fb), 0) := by
  obtain ⟨hf, hw, -, -⟩ := fields_of_layout h
  obtain ⟨h1, h2, h3⟩ := @layout_fields w.toNat eb fb
  have hs : w.getLsbD (fb + eb) = decide (w.toNat / 2 ^ (fb + eb) % 2 = 1) := Nat.testBit_eq_decide_div_mod_eq
  unfold wordVal
  simp only [hf, hw, h1, h2, h3, hs, fieldVal]
  split_ifs <;> rfl

theorem fieldVal_neg (ws : WordSpec) (neg : Bool) (ex frac : Nat) : (fieldVal ws neg ex frac).neg = neg := by
  unfold fieldVal; split <;> exact Val.mk_neg _ _ _

theorem ratOf_fieldVal (ws : WordSpec) (neg : Bool) (ex frac : Nat) : ratOf (fieldVal ws neg ex frac) = signRat neg *
    (if ex = 0 then (frac : ℚ) / 2 ^ ws.fracBits * 2 ^ (1 - ws.bias) else (1 + (frac : ℚ) / 2 ^ ws.fracBits) * 2 ^ ((ex : Int) - ws.bias)) := by
  unfold fieldVal
  split_ifs <;> rw [ratOf_mk, two_zpow_sub _ (ws.fracBits : Int), zpow_natCast] <;> push_cast <;> field_simp

/-! The word of a value. -/

theorem log2_mul_two_pow {m : Nat} (hm : m ≠ 0) (t : Nat) : Nat.log2 (m * 2 ^ t) = Nat.log2 m + t := by
  rw [Nat.log2_eq_iff (by positivity)]
  have h1 := Nat.log2_self_le hm
  have h2 : m < 2 ^ (Nat.log2 m + 1) := Nat.lt_log2_self
  constructor
  · rw [pow_add]; exact Nat.mul_le_mul_right _ h1
  · rw [add_right_comm, pow_add]; exact Nat.mul_lt_mul_of_pos_right h2 (by positivity)

/-- Where `valWord` places m * 2^e, in units of 2^u for its exponent field ex. -/
def placeWord (ws : WordSpec) (neg : Bool) (m : Nat) (e : Int) : Word :=
  let ex : Int := max (e + Nat.log2 m + ws.bias) 1
  let sig := m * 2 ^ (e - (ex - ws.bias - ws.fracBits)).toNat
  BitVec.ofNat 32 ((if neg then 2 ^ (ws.fracBits + ws.expBits) else 0) + (if sig < 2 ^ ws.fracBits then 0 else ex.toNat) * 2 ^ ws.fracBits +
    sig % 2 ^ ws.fracBits)

/-- The placing does not depend on the significand's being odd, while its unit is at least that of the word. -/
theorem valWord_mk {f : Fmt} {ws : WordSpec} (hf : f.fields = some ws) (neg : Bool) {m : Nat} (hm : m ≠ 0) {e : Int}
    (he : max (e + Nat.log2 m + ws.bias) 1 - ws.bias - ws.fracBits ≤ e) : valWord f (Val.mk neg m e) = placeWord ws neg m e := by
  have ho := div_two_pow_trailing_ne_zero hm
  have hmt := div_two_pow_trailing_mul m
  have hlog := log2_mul_two_pow ho (trailing m)
  rw [hmt] at hlog
  have hplace : valWord f (Val.mk neg m e) = placeWord ws neg (m / 2 ^ trailing m) (e + trailing m) := by
    rw [Val.mk_of_ne_zero neg hm]
    simp only [valWord, hf]
    rfl
  have htop : e + trailing m + Nat.log2 (m / 2 ^ trailing m) = e + Nat.log2 m := by rw [hlog]; push_cast; ring
  have hpow : (e + trailing m - (max (e + Nat.log2 m + ws.bias) 1 - ws.bias - ws.fracBits)).toNat =
      trailing m + (e - (max (e + Nat.log2 m + ws.bias) 1 - ws.bias - ws.fracBits)).toNat := by omega
  rw [hplace]
  simp only [placeWord, htop, hpow, pow_add, ← mul_assoc, hmt]

/-- A word's fields come back from its value. -/
theorem valWord_fieldVal {f : Fmt} {ws : WordSpec} (hf : f.fields = some ws) (neg : Bool) {ex frac : Nat} (hfrac : frac < 2 ^ ws.fracBits) :
    valWord f (fieldVal ws neg ex frac) =
      BitVec.ofNat 32 ((if neg then 2 ^ (ws.fracBits + ws.expBits) else 0) + ex * 2 ^ ws.fracBits + frac) := by
  unfold fieldVal
  by_cases hex : ex = 0
  · subst hex
    rw [if_pos rfl]
    rcases eq_or_ne frac 0 with rfl | h0
    · rw [Val.mk_zero]
      simp only [valWord, hf, zero_mul, add_zero]
    · have hlog : Nat.log2 frac < ws.fracBits := (Nat.log2_lt h0).mpr hfrac
      have hmax : max (1 - ws.bias - ws.fracBits + Nat.log2 frac + ws.bias) 1 = 1 := by omega
      rw [valWord_mk hf neg h0 (by rw [hmax])]
      simp only [placeWord, hmax, sub_self, Int.toNat_zero, pow_zero, mul_one, hfrac, if_true, Nat.mod_eq_of_lt hfrac]
  · rw [if_neg hex]
    have hpos : 2 ^ ws.fracBits + frac ≠ 0 := (Nat.add_pos_left (by positivity) frac).ne'
    have hlog : Nat.log2 (2 ^ ws.fracBits + frac) = ws.fracBits := by
      rw [Nat.log2_eq_iff hpos, pow_succ, mul_two]
      exact ⟨Nat.le_add_right _ _, Nat.add_lt_add_left hfrac _⟩
    have hmax : max ((ex : Int) - ws.bias - ws.fracBits + ws.fracBits + ws.bias) 1 = ex := by omega
    rw [valWord_mk hf neg hpos (by rw [hlog, hmax])]
    have hnot : ¬ 2 ^ ws.fracBits + frac < 2 ^ ws.fracBits := not_lt.mpr (Nat.le_add_right _ _)
    simp only [placeWord, hlog, hmax, sub_self, Int.toNat_zero, pow_zero, mul_one, hnot, if_false, Int.toNat_natCast, Nat.add_mod_left,
      Nat.mod_eq_of_lt hfrac]

/-! Integer words. -/

theorem intOfWord_eq_signedOf {bits : Nat} (hb : 0 < bits) (w : Word) : intOfWord bits true w = signedOf bits (w.toNat % 2 ^ bits) := by
  obtain ⟨k, rfl⟩ : ∃ k, bits = k + 1 := ⟨bits - 1, by omega⟩
  unfold intOfWord signedOf
  simp only [true_and, Nat.add_sub_cancel, Nat.mod_mod, pow_succ]
  split_ifs
  · omega
  · push_cast; rfl
  · rfl
  · omega

theorem wordVal_int {f : Fmt} {bits : Nat} {signed : Bool} (h : intSpec f = some (bits, signed)) (w : Word) :
    wordVal f w = (Val.ofInt (intOfWord bits signed w), 0) := by
  cases f <;> cases h
  case uint8 => simp [wordVal, Fmt.fields, Fmt.width, intOfWord]
  all_goals rw [intOfWord_eq_signedOf (by decide)]; rfl

theorem valWord_ofInt {f : Fmt} (h : f.fields = none) (k : Int) : valWord f (Val.ofInt k) = BitVec.ofInt 32 k := by
  rcases eq_or_ne k 0 with rfl | hk
  · simp only [Val.ofInt, Int.natAbs_zero, Val.mk_zero, valWord, h]
    rfl
  · have hn : k.natAbs ≠ 0 := by omega
    rw [Val.ofInt, Val.mk_of_ne_zero _ hn]
    simp only [valWord, h, zero_add, Int.toNat_natCast, div_two_pow_trailing_mul]
    congr 1
    split_ifs with hs <;> simp only [decide_eq_true_eq] at hs <;> omega

theorem fields_of_intSpec {f : Fmt} {bits : Nat} {signed : Bool} (h : intSpec f = some (bits, signed)) : f.fields = none := by
  cases f <;> cases h <;> rfl

end Sys2Proof
end

section
/-! PROOFS. Exact arithmetic, enclosures and words, as stated (R51, R52, R54, R62, R66 to R68, R187, R196). -/

namespace Sys2Proof
open Sys2Proof.Machine

/-- R67's results of NaNs, infinities and zeros. -/
theorem special_results (rm : Rnd) (x : Val) (n k : Bool) (m : Nat) (e : Int) :
    addVal rm .nan x = (.nan, 0) ∧ addVal rm x .nan = (.nan, 0) ∧ addVal rm (.inf n) (.inf !n) = (.nan, flagNV) ∧
      mulVal (.zero n) (.inf k) = (.nan, flagNV) ∧ mulVal (.inf n) (.zero k) = (.nan, flagNV) ∧ mulVal (.inf n) (.inf k) = (.inf (n != k), 0) ∧
      divVal (.fin n m e) (.zero k) = (Exact.of (.inf (n != k)), flagDZ) ∧ divVal (.zero n) (.zero k) = (Exact.of .nan, flagNV) ∧
      sqrtVal (.fin true m e) = (Exact.of .nan, flagNV) ∧ sqrtVal (.zero n) = (Exact.of (.zero n), 0) ∧
      rsqrtVal (.zero n) = (Exact.of (.inf n), flagDZ) ∧ rcpVal (.zero n) = (Exact.of (.inf n), flagDZ) ∧
      log2Val (.zero n) = (Exact.of (.inf true), flagDZ) ∧ log2Val (.fin true m e) = (Exact.of .nan, flagNV) ∧
      exp2Val (.inf true) = Exact.of (.zero false) ∧ exp2Val (.zero n) = Exact.of (.fin false 1 0) ∧
      fmaVal rm (.zero n) (.inf k) .nan = (.nan, flagNV) := by
  have hinf : addVal rm (.inf n) (.inf !n) = (.nan, flagNV) := by cases n <;> rfl
  have hnan : addVal rm x .nan = (.nan, 0) := by cases x <;> rfl
  exact ⟨rfl, hnan, hinf, rfl, rfl, rfl, rfl, rfl, rfl, rfl, rfl, rfl, rfl, rfl, rfl, rfl, rfl⟩

theorem ieeeTop_iff (f : Fmt) : f.ieeeTop = true ↔ f ∈ [Fmt.fp32, .bf16, .fp16, .e5m2] := by
  cases f <;> decide

/-- A word of a floating-point format that is neither infinity nor NaN: its value, and the way back. -/
theorem wordVal_finite {f : Fmt} {eb fb : Nat} {bias : Int} (h : layoutSpec f = some (eb, fb, bias)) (w : Word)
    (h1 : f ∉ [Fmt.fp32, .bf16, .fp16, .e5m2] ∨ w.toNat / 2 ^ fb % 2 ^ eb < 2 ^ eb - 1)
    (h2 : ¬(f = .e4m3 ∧ w.toNat / 2 ^ fb % 2 ^ eb = 15 ∧ w.toNat % 2 ^ fb = 7)) :
    wordVal f w = (fieldVal ⟨eb, fb, bias⟩ (w.getLsbD (fb + eb)) (w.toNat / 2 ^ fb % 2 ^ eb) (w.toNat % 2 ^ fb), 0) := by
  rw [wordVal_layout h, if_neg, if_neg]
  · simp only [Bool.and_eq_true, beq_iff_eq, and_assoc]
    rintro ⟨rfl, h3, h4⟩
    cases h
    exact h2 ⟨rfl, h3, h4⟩
  · simp only [Bool.and_eq_true, beq_iff_eq, ieeeTop_iff]
    rintro ⟨h3, h4⟩
    rcases h1 with h1 | h1
    · exact h1 h3
    · omega

theorem valWord_wordVal {f : Fmt} {eb fb : Nat} {bias : Int} (h : layoutSpec f = some (eb, fb, bias)) (w : Word) :
    valWord f (fieldVal ⟨eb, fb, bias⟩ (w.getLsbD (fb + eb)) (w.toNat / 2 ^ fb % 2 ^ eb) (w.toNat % 2 ^ fb)) =
      BitVec.ofNat 32 (w.toNat % 2 ^ (1 + eb + fb)) := by
  obtain ⟨hf, -, -, -⟩ := fields_of_layout h
  have hs : w.getLsbD (fb + eb) = decide (w.toNat / 2 ^ (fb + eb) % 2 = 1) := Nat.testBit_eq_decide_div_mod_eq
  rw [valWord_fieldVal hf _ (Nat.mod_lt _ (by positivity)), show 1 + eb + fb = fb + (eb + 1) by omega, layout_sum, hs]

/-- Settles O29: the operations on finite values one by one, the enclosures, and the fields of a word. -/
theorem exactArithmetic : Obligations.ExactArithmetic := by
  refine ⟨?_, special_results, ?_, ?_, ?_, rfl, rfl, rfl, rfl, rfl⟩
  · intro rm a b c ha hb hc
    rw [← Val.finite_iff] at ha hb hc
    obtain ⟨hm0, -, hm⟩ := mulVal_exact ha hb
    exact ⟨addVal_exact rm ha hb, ⟨hm0, hm⟩, fmaVal_exact rm ha hb hc, ratOf_scale, ratOf_negate a, ratOf_abs a, cmpVal_lt_iff ha hb,
      cmpVal_eq_iff ha hb, fun l hl => sumAll_exact rm fun v hv => (Val.finite_iff v).mpr (hl v hv)⟩
  · intro x y m m' e e' hm hm'
    obtain ⟨ht, hn⟩ := truncVal_fin x m e
    exact ⟨divVal_encloses x y e e' hm hm', rcpVal_encloses y e' hm', ⟨sqrtFin_encloses hm e, rfl⟩, ⟨rsqrtVal_encloses hm e, rsqrtVal_flags m e⟩, ht, hn⟩
  · rintro f eb fb bias w sgn frac ex h rfl rfl rfl
    refine ⟨fun hf hex => ?_, ?_, fun h1 h2 => ?_⟩
    · rw [wordVal_layout h, if_pos (by simp [(ieeeTop_iff f).mpr hf, hex])]
    · rintro rfl hex hfrac
      cases h
      rw [wordVal_layout (f := .e4m3) rfl, if_neg (by simp [Fmt.ieeeTop]), if_pos (by rw [hex, hfrac]; rfl)]
    · rw [wordVal_finite h w h1 h2]
      exact ⟨rfl, fieldVal_neg _ _ _ _, ratOf_fieldVal _ _ _ _, valWord_wordVal h w⟩
  · intro f bits signed w h
    rw [wordVal_int h]
    exact ⟨rfl, ratOf_ofInt _, valWord_ofInt (fields_of_intSpec h) _⟩

end Sys2Proof
end

section
/-! PROOFS. Rows of matrix operations: accumulation along a path (R74, R247)

One step of an accumulator takes a term with the flags of its making; a path is a list of such steps. -/

namespace Sys2Proof

open Sys2Proof.Machine

/-- One step of an accumulator: a term is added, and its flags gathered. -/
def accStep (int : Bool) (x t : Val × Word) : Val × Word := ((addTerm int x.1 t.1).1, x.2 ||| (addTerm int x.1 t.1).2 ||| t.2)

/-- The steps that an output element takes along a path: chunks of 32, or single products. -/
def pathSteps (path : SysPath) (mx : Bool) (l : List Term) : List (Val × Word) :=
  match path with
  | .int | .chunked => (chunksOf l.length l).map (chunkVal mx)
  | .product => l.map (fun t => (scaled mx t.sa t.sb (mulVal t.a t.b).1, (mulVal t.a t.b).2))

theorem accumulateTerms_eq (path : SysPath) (mx : Bool) (start : Lane) (l : List Term) : accumulateTerms path mx start l =
    (⟨((pathSteps path mx l).foldl (accStep (path == .int)) (start.val, 0)).1, start.mark.or (l.foldr (fun t m => t.mark.or m) none)⟩,
      ((pathSteps path mx l).foldl (accStep (path == .int)) (start.val, 0)).2) := by
  cases path <;> rfl

/-- Flags gathered before a run of steps stay apart from those of the run. -/
theorem foldl_accStep (int : Bool) (steps : List (Val × Word)) (v : Val) (f : Word) : steps.foldl (accStep int) (v, f) =
    ((steps.foldl (accStep int) (v, 0)).1, f ||| (steps.foldl (accStep int) (v, 0)).2) := by
  induction steps generalizing v f with
  | nil => simp
  | cons t rest ih =>
    simp only [List.foldl_cons, accStep]
    rw [ih, ih _ (0 ||| _ ||| _)]
    simp [BitVec.or_assoc]

theorem chunksOf_nil (fuel : Nat) : chunksOf fuel [] = [] := by cases fuel <;> rfl

/-- Any two amounts of fuel that reach the length of the list cut it alike. -/
theorem chunksOf_congr {fuel fuel' : Nat} {l : List Term} (h : l.length ≤ fuel) (h' : l.length ≤ fuel') : chunksOf fuel l = chunksOf fuel' l := by
  induction fuel generalizing fuel' l with
  | zero => rw [List.length_eq_zero_iff.mp (Nat.le_zero.mp h), chunksOf_nil, chunksOf_nil]
  | succ fuel ih =>
    cases l with
    | nil => rw [chunksOf_nil, chunksOf_nil]
    | cons t rest =>
      obtain ⟨fuel', rfl⟩ : ∃ n, fuel' = n + 1 := ⟨fuel' - 1, by simp at h'; omega⟩
      have hd : ((t :: rest).drop 32).length ≤ rest.length := by simp
      simp only [List.length_cons, Nat.add_le_add_iff_right] at h h'
      simp only [chunksOf, List.isEmpty_cons, Bool.false_eq_true, if_false, ih (hd.trans h) (hd.trans h')]

/-- At most 32 terms are one chunk. -/
theorem chunksOf_one {l : List Term} (h0 : l ≠ []) (h : l.length ≤ 32) : chunksOf l.length l = [l] := by
  obtain ⟨t, rest, rfl⟩ := List.exists_cons_of_ne_nil h0
  simp only [chunksOf, List.length_cons, List.isEmpty_cons, Bool.false_eq_true, if_false, List.take_of_length_le h, List.drop_of_length_le h, chunksOf_nil]

/-- A full chunk stands before the chunks of the rest. -/
theorem chunksOf_append {l : List Term} (l' : List Term) (h : l.length = 32) : chunksOf (l ++ l').length (l ++ l') = l :: chunksOf l'.length l' := by
  have hlen : (l ++ l').length = (31 + l'.length) + 1 := by simp [h]; omega
  have hne : (l ++ l').isEmpty = false := by cases l <;> simp at h ⊢
  rw [hlen]
  simp only [chunksOf, hne, Bool.false_eq_true, if_false, List.take_left' h, List.drop_left' h]
  rw [chunksOf_congr (by omega) le_rfl]

theorem pathSteps_of_chunked {path : SysPath} (h : path ≠ .product) (mx : Bool) (l : List Term) :
    pathSteps path mx l = (chunksOf l.length l).map (chunkVal mx) := by
  cases path with
  | int => rfl
  | chunked => rfl
  | product => exact absurd rfl h

/-- A chunk is one step (R74). -/
theorem accumulateTerms_chunk {path : SysPath} (hp : path ≠ .product) (mx : Bool) (start : Lane) {l : List Term} (h0 : l ≠ []) (h : l.length ≤ 32) :
    (accumulateTerms path mx start l).1.val = (addTerm (path == .int) start.val (chunkVal mx l).1).1 ∧
      (accumulateTerms path mx start l).2 = (addTerm (path == .int) start.val (chunkVal mx l).1).2 ||| (chunkVal mx l).2 := by
  rw [accumulateTerms_eq, pathSteps_of_chunked hp, chunksOf_one h0 h]
  simp [accStep]

/-- The chunks after the first are accumulated from what the first left (R74). -/
theorem accumulateTerms_append {path : SysPath} (hp : path ≠ .product) (mx : Bool) (start : Lane) {l : List Term} (l' : List Term) (h : l.length = 32) :
    (accumulateTerms path mx start (l ++ l')).1.val = (accumulateTerms path mx (accumulateTerms path mx start l).1 l').1.val ∧
      (accumulateTerms path mx start (l ++ l')).2 = (accumulateTerms path mx start l).2 ||| (accumulateTerms path mx (accumulateTerms path mx start l).1 l').2 := by
  have h0 : l ≠ [] := by rintro rfl; simp at h
  simp only [accumulateTerms_eq, pathSteps_of_chunked hp, chunksOf_append l' h, chunksOf_one h0 h.le, List.map_cons, List.map_nil, List.foldl_cons, List.foldl_nil]
  rw [← Prod.eta (accStep _ (start.val, 0) (chunkVal mx l)), foldl_accStep]
  exact ⟨rfl, rfl⟩

/-- Along the path of single products each product is one step. -/
theorem accumulateTerms_product (mx : Bool) (start : Lane) (t : Term) (l : List Term) : (accumulateTerms .product mx start (t :: l)).1.val =
    (accumulateTerms .product mx ⟨(addTerm false start.val (scaled mx t.sa t.sb (mulVal t.a t.b).1)).1, start.mark⟩ l).1.val := by
  simp only [accumulateTerms_eq, pathSteps, List.map_cons, List.foldl_cons]
  rw [← Prod.eta (accStep _ (start.val, 0) _), foldl_accStep]
  rfl

/-- An accumulator is poisoned exactly where its start or a term of it is. -/
theorem accumulateTerms_mark (path : SysPath) (mx : Bool) (start : Lane) (l : List Term) :
    (accumulateTerms path mx start l).1.mark.isSome = (start.mark.isSome || l.any (fun t => t.mark.isSome)) := by
  have hfold : (l.foldr (fun t m => t.mark.or m) none).isSome = l.any (fun t => t.mark.isSome) := by
    induction l with
    | nil => rfl
    | cons t rest ih => simp [ih]
  rw [accumulateTerms_eq]
  simp [hfold]

theorem accumulateTerms_nil (path : SysPath) (mx : Bool) (start : Lane) : accumulateTerms path mx start [] = (start, 0) := by
  have hsteps : pathSteps path mx [] = [] := by cases path <;> rfl
  simp [accumulateTerms_eq, hsteps]

end Sys2Proof
end

section
/-! PROOFS. One chunk of products (R75)

Exact where all operands are finite; infinite products of one sign give that infinity, NaN takes over the rest. -/

namespace Sys2Proof

open Sys2Proof.Machine

/-- The values of the products of a chunk. -/
def Machine.Term.product (t : Term) : Val × Word := mulVal t.a t.b

/-- The flags that the products of a chunk raise. -/
def productFlags (l : List Term) : Word := l.foldl (fun f t => f ||| t.product.2) 0

theorem chunkVal_cons (mx : Bool) (t : Term) (rest : List Term) : chunkVal mx (t :: rest) =
    if mx && (t.sa == 0xFF || t.sb == 0xFF) then (.nan, productFlags (t :: rest))
    else (scaled mx t.sa t.sb (sumAll .rne ((t :: rest).map (fun t => t.product.1))).1,
      (sumAll .rne ((t :: rest).map (fun t => t.product.1))).2 ||| productFlags (t :: rest)) := by
  simp [chunkVal, productFlags, Term.product, List.foldl_map, Function.comp_def]

/-- A product raises NV or nothing, and NV only with NaN. -/
theorem mulVal_flags (a b : Val) : (mulVal a b).2 = 0 ∨ ((mulVal a b).2 = flagNV ∧ (mulVal a b).1 = .nan) := by
  cases a <;> cases b <;> simp [mulVal]

theorem mulVal_nan_left (b : Val) : (mulVal .nan b).1 = .nan := by cases b <;> rfl

theorem mulVal_nan_right (a : Val) : (mulVal a .nan).1 = .nan := by cases a <;> rfl

theorem foldl_or_of_zero {l : List Term} (h : ∀ t ∈ l, t.product.2 = 0) (f : Word) : l.foldl (fun f t => f ||| t.product.2) f = f := by
  induction l generalizing f with
  | nil => rfl
  | cons t rest ih =>
    rw [List.foldl_cons, h t List.mem_cons_self, ih (fun t ht => h t (List.mem_cons_of_mem _ ht))]
    exact BitVec.or_zero

theorem productFlags_of_zero {l : List Term} (h : ∀ t ∈ l, t.product.2 = 0) : productFlags l = 0 := foldl_or_of_zero h 0

/-- Flags of products stay NV once raised. -/
theorem foldl_or_flagNV (l : List Term) : l.foldl (fun f t => f ||| t.product.2) flagNV = flagNV := by
  induction l with
  | nil => rfl
  | cons t rest ih =>
    rcases mulVal_flags t.a t.b with h | ⟨h, -⟩ <;> simpa [Term.product, h] using ih

theorem productFlags_of_mem {l : List Term} (h : ∃ t ∈ l, t.product.2 = flagNV) : productFlags l = flagNV := by
  have key : ∀ f : Word, (f = 0 ∨ f = flagNV) → l.foldl (fun f t => f ||| t.product.2) f = flagNV := by
    induction l with
    | nil => simp at h
    | cons t rest ih =>
      rintro f (rfl | rfl)
      · rcases mulVal_flags t.a t.b with h0 | ⟨h1, -⟩
        · have hrest : ∃ t ∈ rest, t.product.2 = flagNV := by
            obtain ⟨u, hu, hf⟩ := h
            rcases List.mem_cons.mp hu with rfl | hu
            · exact absurd (h0.symm.trans hf) (by decide)
            · exact ⟨u, hu, hf⟩
          simpa [Term.product, h0] using ih hrest 0 (.inl rfl)
        · simpa [Term.product, h1] using foldl_or_flagNV rest
      · exact foldl_or_flagNV _
  exact key 0 (.inl rfl)

theorem scaled_nan (mx : Bool) (sa sb : Byte) : scaled mx sa sb .nan = .nan := by
  unfold scaled
  split_ifs <;> rfl

/-- Scales other than 0xFF, where there are scales, multiply by their power of two. -/
theorem scaled_of_ne {mx : Bool} {sa sb : Byte} (h : mx = true → sa ≠ 0xFF ∧ sb ≠ 0xFF) (v : Val) :
    scaled mx sa sb v = if mx then v.scale (sa.toNat + sb.toNat - 254) else v := by
  cases mx with
  | false => rfl
  | true =>
    have hne : ¬(sa = 0xFF ∨ sb = 0xFF) := not_or.mpr (h rfl)
    simp only [scaled, if_neg hne, Bool.not_true, Bool.false_eq_true, if_false, if_true]

/-- A chunk whose terms share scales that are numbers is the scaled sum of its products. -/
theorem chunkVal_of_scales {mx : Bool} {l : List Term} {sa sb : Byte} (h0 : l ≠ []) (hs : ∀ t ∈ l, t.sa = sa ∧ t.sb = sb)
    (hmx : mx = true → sa ≠ 0xFF ∧ sb ≠ 0xFF) : chunkVal mx l =
      (scaled mx sa sb (sumAll .rne (l.map (fun t => t.product.1))).1, (sumAll .rne (l.map (fun t => t.product.1))).2 ||| productFlags l) := by
  obtain ⟨t, rest, rfl⟩ := List.exists_cons_of_ne_nil h0
  obtain ⟨rfl, rfl⟩ := hs t List.mem_cons_self
  rw [chunkVal_cons, if_neg]
  cases mx with
  | false => simp
  | true => simpa using hmx rfl

theorem ratOf_scaled {mx : Bool} {sa sb : Byte} (h : mx = true → sa ≠ 0xFF ∧ sb ≠ 0xFF) (v : Val) :
    ratOf (scaled mx sa sb v) = ratOf v * (if mx then (2 : ℚ) ^ ((sa.toNat : Int) + sb.toNat - 254) else 1) := by
  rw [scaled_of_ne h]
  cases mx <;> simp [ratOf_scale]

/-- A zero sum of finite values is -0 exactly where all of them are -0 (R62, R75). -/
theorem sumAll_eq_zero {l : List Val} (h0 : l ≠ []) (h : ∀ v ∈ l, v.Finite) (hsum : (l.map ratOf).sum = 0) :
    (sumAll .rne l).1 = .zero (l.all (· == .zero true)) := by
  have hr := (sumAll_exact .rne h).2
  rw [sumAll_finite .rne h] at hr ⊢
  obtain ⟨v, rest, rfl⟩ := List.exists_cons_of_ne_nil h0
  dsimp only at hr ⊢
  split_ifs at hr ⊢ with h1 h2 h3
  · have hv : v = .zero false := by simpa using (List.all_eq_true.mp h1 v List.mem_cons_self)
    simp [hv]
  · rw [h2]
  · rw [Bool.eq_false_iff.mpr h2]; rfl
  · rw [hsum, ratOf_ofScaled] at hr
    exact absurd hr (mul_ne_zero (Int.cast_ne_zero.mpr h3) (two_zpow_ne_zero _))

/-- R75 for finite operands: a chunk is its exact sum, scaled, and raises nothing. -/
theorem chunkVal_finite {mx : Bool} {l : List Term} {sa sb : Byte} (h0 : l ≠ []) (hs : ∀ t ∈ l, t.sa = sa ∧ t.sb = sb)
    (hmx : mx = true → sa ≠ 0xFF ∧ sb ≠ 0xFF) (hfin : ∀ t ∈ l, (t.a.isFin ∨ t.a.isZero) ∧ (t.b.isFin ∨ t.b.isZero)) :
    (chunkVal mx l).2 = 0 ∧
      ratOf (chunkVal mx l).1 = (l.map (fun t => ratOf t.a * ratOf t.b)).sum * (if mx then (2 : ℚ) ^ ((sa.toNat : Int) + sb.toNat - 254) else 1) ∧
      ((l.map (fun t => ratOf t.a * ratOf t.b)).sum = 0 → (chunkVal mx l).1 = .zero (l.all (fun t => (mulVal t.a t.b).1 == .zero true))) := by
  have hprod : ∀ t ∈ l, t.product.2 = 0 ∧ t.product.1.Finite ∧ ratOf t.product.1 = ratOf t.a * ratOf t.b := fun t ht =>
    mulVal_exact ((Val.finite_iff _).mpr (hfin t ht).1) ((Val.finite_iff _).mpr (hfin t ht).2)
  have hvals : ∀ v ∈ l.map (fun t => t.product.1), v.Finite := by
    intro v hv
    obtain ⟨t, ht, rfl⟩ := List.mem_map.mp hv
    exact (hprod t ht).2.1
  have hsum : ((l.map (fun t => t.product.1)).map ratOf).sum = (l.map (fun t => ratOf t.a * ratOf t.b)).sum := by
    rw [List.map_map]
    exact congrArg List.sum (List.map_congr_left fun t ht => (hprod t ht).2.2)
  obtain ⟨hflag, hexact⟩ := sumAll_exact .rne hvals
  rw [chunkVal_of_scales h0 hs hmx]
  refine ⟨?_, ?_, fun hz => ?_⟩
  · rw [hflag, productFlags_of_zero fun t ht => (hprod t ht).1]; rfl
  · rw [ratOf_scaled hmx, hexact, hsum]
  · dsimp only
    rw [sumAll_eq_zero (by simpa using h0) hvals (hsum.trans hz), scaled_of_ne hmx, List.all_map]
    cases mx <;> rfl

theorem sumAll_inf {l : List Val} {n : Bool} (hnan : ∀ v ∈ l, v ≠ .nan) (hinf : Val.inf n ∈ l) :
    sumAll .rne l = if l.any (· == .inf !n) then (.nan, flagNV) else (.inf n, 0) := by
  have h1 : l.any Val.isNan = false := by
    rw [List.any_eq_false]
    intro v hv
    have := hnan v hv
    cases v <;> simp_all [Val.isNan]
  have h2 : l.any (· == .inf n) = true := List.any_eq_true.mpr ⟨_, hinf, by simp⟩
  unfold sumAll
  cases n with
  | false => simp [h1, h2]
  | true => simp only [h1, h2, Bool.and_true, Bool.not_true, Bool.false_eq_true, if_false, if_true]; split_ifs <;> rfl

/-- R75 for infinite products: of one sign they give that infinity, of both NaN with NV. -/
theorem chunkVal_inf {mx : Bool} {l : List Term} {sa sb : Byte} {n : Bool} (hs : ∀ t ∈ l, t.sa = sa ∧ t.sb = sb)
    (hmx : mx = true → sa ≠ 0xFF ∧ sb ≠ 0xFF) (hnan : ∀ t ∈ l, (mulVal t.a t.b).1 ≠ .nan) (hinf : ∃ t ∈ l, (mulVal t.a t.b).1 = .inf n) :
    chunkVal mx l = if l.any (fun t => (mulVal t.a t.b).1 == .inf !n) then (.nan, flagNV) else (.inf n, 0) := by
  obtain ⟨u, hu, hun⟩ := hinf
  have hflags : productFlags l = 0 := productFlags_of_zero fun t ht => (mulVal_flags t.a t.b).resolve_right fun h => hnan t ht h.2
  have hmem : Val.inf n ∈ l.map (fun t => t.product.1) := List.mem_map.mpr ⟨u, hu, hun⟩
  have hvals : ∀ v ∈ l.map (fun t => t.product.1), v ≠ .nan := by
    intro v hv
    obtain ⟨t, ht, rfl⟩ := List.mem_map.mp hv
    exact hnan t ht
  have hany : (l.map (fun t => t.product.1)).any (· == .inf !n) = l.any (fun t => (mulVal t.a t.b).1 == .inf !n) := by
    rw [List.any_map]; rfl
  rw [chunkVal_of_scales (List.ne_nil_of_mem hu) hs hmx, sumAll_inf hvals hmem, hany, hflags]
  split_ifs
  · rw [scaled_nan]; rfl
  · rw [scaled_of_ne hmx]
    cases mx <;> simp [Val.scale]

/-- R75 for a NaN operand, a product of zero and infinity, or a scale that is no number. -/
theorem chunkVal_nan {mx : Bool} {l : List Term} (h : (∃ t ∈ l, t.a = .nan ∨ t.b = .nan ∨ (mulVal t.a t.b).2 = flagNV) ∨
      (mx = true ∧ ∃ t, l.head? = some t ∧ (t.sa = 0xFF ∨ t.sb = 0xFF))) :
    (chunkVal mx l).1 = .nan ∧ ((∃ t ∈ l, (mulVal t.a t.b).2 = flagNV) → (chunkVal mx l).2 = flagNV) := by
  have hmem : ∀ u ∈ l, u.a = .nan ∨ u.b = .nan ∨ (mulVal u.a u.b).2 = flagNV → sumAll .rne (l.map (fun t => t.product.1)) = (.nan, 0) := by
    intro u hu hcase
    have hnan : u.product.1 = .nan := by
      rcases hcase with ha | hb | hf
      · rw [Term.product, ha, mulVal_nan_left]
      · rw [Term.product, hb, mulVal_nan_right]
      · exact ((mulVal_flags u.a u.b).resolve_left (by rw [hf]; exact by decide)).2
    have hany : (l.map (fun t => t.product.1)).any Val.isNan = true :=
      List.any_eq_true.mpr ⟨_, List.mem_map.mpr ⟨u, hu, rfl⟩, by rw [hnan]; rfl⟩
    rw [sumAll, if_pos hany]
  obtain ⟨t, rest, rfl⟩ : ∃ t rest, l = t :: rest := by
    cases l with
    | nil => simp at h
    | cons t rest => exact ⟨t, rest, rfl⟩
  rw [chunkVal_cons]
  split_ifs with hff
  · exact ⟨rfl, productFlags_of_mem⟩
  · obtain ⟨u, hu, hcase⟩ : ∃ u ∈ t :: rest, u.a = .nan ∨ u.b = .nan ∨ (mulVal u.a u.b).2 = flagNV := by
      refine h.resolve_right ?_
      rintro ⟨rfl, u, hu, hsc⟩
      obtain rfl : t = u := by simpa using hu
      simp only [Bool.true_and, Bool.or_eq_true, beq_iff_eq] at hff
      exact hff hsc
    rw [hmem u hu hcase]
    exact ⟨scaled_nan _ _ _, fun hf => by rw [productFlags_of_mem hf]; rfl⟩

end Sys2Proof
end

section
/-! PROOFS. Packed elements (R55) and their bytes (R6) -/

namespace Sys2Proof

open Sys2Proof.Machine

theorem leBytes_eq_map (n v : Nat) : leBytes n v = (List.range n).map (fun k => BitVec.ofNat 8 (v / 2 ^ (8 * k))) := by
  induction n generalizing v with
  | zero => rfl
  | succ n ih =>
    rw [leBytes, ih, List.range_succ_eq_map, List.map_cons, List.map_map]
    refine congrArg₂ List.cons (by simp) (List.map_congr_left fun k _ => ?_)
    rw [Function.comp_apply, Nat.div_div_eq_div_mul, Nat.mul_succ, Nat.add_comm, pow_add]
    rfl

@[simp] theorem length_leBytes (n v : Nat) : (leBytes n v).length = n := by simp [leBytes_eq_map]

/-- The bytes of a number hold it up to their width. -/
theorem leNat_leBytes (n v : Nat) : leNat (leBytes n v) = v % 2 ^ (8 * n) := by
  induction n generalizing v with
  | zero => simp [leBytes, leNat, Nat.mod_one]
  | succ n ih =>
    rw [leBytes, leNat, ih, Nat.mul_succ, Nat.add_comm (8 * n), pow_add, Nat.mod_mul, BitVec.toNat_ofNat]
    rfl

/-- A packed number takes no more than the bits of its elements. -/
theorem packBits_lt (w : Nat) (l : List Nat) : packBits w l < 2 ^ (w * l.length) := by
  induction l with
  | nil => simp [packBits]
  | cons x rest ih =>
    have hx : x % 2 ^ w < 2 ^ w := Nat.mod_lt _ (Nat.two_pow_pos w)
    have hs : packBits w (x :: rest) = x % 2 ^ w + 2 ^ w * packBits w rest := rfl
    rw [hs, List.length_cons, Nat.mul_succ, Nat.add_comm (w * _), pow_add]
    calc x % 2 ^ w + 2 ^ w * packBits w rest < 2 ^ w * (packBits w rest + 1) := by rw [Nat.mul_succ]; omega
      _ ≤ 2 ^ w * 2 ^ (w * rest.length) := Nat.mul_le_mul_left _ ih

/-- Element i of packed elements. -/
theorem packBits_digit {w : Nat} {l : List Nat} {i x : Nat} (h : l[i]? = some x) : packBits w l / 2 ^ (w * i) % 2 ^ w = x % 2 ^ w := by
  induction l generalizing i with
  | nil => simp at h
  | cons y rest ih =>
    have hs : packBits w (y :: rest) = y % 2 ^ w + 2 ^ w * packBits w rest := rfl
    cases i with
    | zero =>
      obtain rfl : y = x := by simpa using h
      rw [hs, Nat.mul_zero, pow_zero, Nat.div_one, Nat.add_mul_mod_self_left, Nat.mod_mod]
    | succ i =>
      have hdiv : (y % 2 ^ w + 2 ^ w * packBits w rest) / 2 ^ w = packBits w rest := by
        rw [Nat.add_mul_div_left _ _ (Nat.two_pow_pos w), Nat.div_eq_of_lt (Nat.mod_lt _ (Nat.two_pow_pos w)), Nat.zero_add]
      rw [hs, Nat.mul_succ, Nat.add_comm (w * i), pow_add, ← Nat.div_div_eq_div_mul, hdiv]
      exact ih (by simpa using h)

/-! Elements placed from the first bit of a byte. -/

theorem placeElems_masks (w : Nat) (l : List (Nat × Bool)) : (placeElems 0 w l).2 = leBytes ((w * l.length + 7) / 8) (2 ^ (w * l.length) - 1) := by
  simp [placeElems]

theorem placeElems_bytes (w : Nat) (l : List (Nat × Bool)) :
    (placeElems 0 w l).1.map (fun b => b.b) = leBytes ((w * l.length + 7) / 8) (packBits w (l.map (fun x => x.1))) := by
  simp [placeElems, leBytes_eq_map]

theorem placeElems_length (w : Nat) (l : List (Nat × Bool)) : (placeElems 0 w l).1.length = (w * l.length + 7) / 8 := by
  simp [placeElems]

theorem placeElems_masks_length (w : Nat) (l : List (Nat × Bool)) : (placeElems 0 w l).2.length = (placeElems 0 w l).1.length := by
  rw [placeElems_masks, placeElems_length, length_leBytes]

/-- What placed elements hold, and that their mask covers exactly their bits (R55, R222). -/
theorem placeElems_holds {w : Nat} {l : List (Nat × Bool)} {i : Nat} {x : Nat × Bool} (h : l[i]? = some x) :
    (placeElems 0 w l).1.length = (w * l.length + 7) / 8 ∧
    leNat ((placeElems 0 w l).1.map (fun b => b.b)) / 2 ^ (w * i) % 2 ^ w = x.1 % 2 ^ w ∧
    leNat (placeElems 0 w l).2 = 2 ^ (w * l.length) - 1 := by
  have hbits : 2 ^ (w * l.length) ≤ 2 ^ (8 * ((w * l.length + 7) / 8)) := Nat.pow_le_pow_right two_pos (by omega)
  have hpack : packBits w (l.map (fun x => x.1)) < 2 ^ (w * l.length) := by simpa using packBits_lt w (l.map (fun x => x.1))
  have hdigit : packBits w (l.map (fun x => x.1)) / 2 ^ (w * i) % 2 ^ w = x.1 % 2 ^ w := packBits_digit (by simp [h])
  refine ⟨placeElems_length w l, ?_, ?_⟩
  · rw [placeElems_bytes, leNat_leBytes, Nat.mod_eq_of_lt (hpack.trans_le hbits), hdigit]
  · rw [placeElems_masks, leNat_leBytes, Nat.mod_eq_of_lt (by have := Nat.two_pow_pos (w * l.length); omega)]

end Sys2Proof
end

section
/-! PROOFS. ACC40 entries (R251)

What rounding to ACC40 yields fits the fields of an entry, and the entry gives the value back. -/

namespace Sys2Proof

open Sys2Proof.Machine

theorem odd_part_odd {m : Nat} (h : m ≠ 0) : (m / 2 ^ trailing m) % 2 = 1 := by
  induction m using Nat.strong_induction_on with
  | _ m ih =>
    obtain ⟨k, rfl | rfl⟩ := Nat.even_or_odd' m
    · have hk : k ≠ 0 := by omega
      rw [trailing_double hk, pow_succ, mul_comm, Nat.mul_div_mul_right _ _ two_pos]
      exact ih k (by omega) hk
    · rw [trailing_odd, pow_zero, Nat.div_one]
      omega

/-- The values that an ACC40 accumulator may hold. -/
inductive Acc40 : Val → Prop
  | nan : Acc40 .nan
  | inf (neg : Bool) : Acc40 (.inf neg)
  | mk (neg : Bool) {n : Nat} {q : Int} (hn : n ≤ 2 ^ 40) (hq : -1061 ≤ q) (htop : n ≠ 0 → q + Nat.log2 n ≤ 1023) : Acc40 (Val.mk neg n q)

/-- Rounding to a unit that the significand exceeds by at most 39 bits leaves at most 2^40 units. -/
theorem quantise_le_two_pow (rm : Rnd) (neg : Bool) (m : Nat) {e q : Int} (more : Bool) (hq : e + Nat.log2 m - 39 ≤ q) :
    (quantise rm neg m e q more).1 ≤ 2 ^ 40 := by
  have hm : m < 2 ^ (Nat.log2 m + 1) := Nat.lt_log2_self
  have hup : ∀ (c : Prop) [Decidable c] {k : Nat}, k < 2 ^ 40 → (if c then k + 1 else k) ≤ 2 ^ 40 := fun c _ k hk => by split_ifs <;> omega
  unfold quantise
  split_ifs with h1 h2
  · refine hup _ ?_
    calc m * 2 ^ (e - q).toNat < 2 ^ (Nat.log2 m + 1) * 2 ^ (e - q).toNat := Nat.mul_lt_mul_of_pos_right hm (Nat.two_pow_pos _)
      _ = 2 ^ (Nat.log2 m + 1 + (e - q).toNat) := (pow_add _ _ _).symm
      _ ≤ 2 ^ 40 := Nat.pow_le_pow_right two_pos (by omega)
  · norm_num
  · norm_num
  · refine hup _ ?_
    rw [Nat.div_lt_iff_lt_mul (Nat.two_pow_pos _), ← pow_add]
    exact hm.trans_le (Nat.pow_le_pow_right two_pos (by omega))

theorem log2_le_of_le_mul {n t k : Nat} (h0 : n ≠ 0) (ht : t < 2 ^ 40) (h : n ≤ t * 2 ^ k) : Nat.log2 n ≤ 39 + k := by
  refine Nat.lt_succ_iff.mp ((Nat.log2_lt h0).mpr (h.trans_lt ?_))
  calc t * 2 ^ k < 2 ^ 40 * 2 ^ k := Nat.mul_lt_mul_of_pos_right ht (Nat.two_pow_pos k)
    _ = 2 ^ (39 + k).succ := by rw [← pow_add]; congr 1; omega

theorem acc40_largest (neg : Bool) : Acc40 (acc40.largest neg) :=
  .mk neg (by decide) (by decide) (fun _ => by decide)

theorem acc40_overflow (rm : Rnd) (neg : Bool) : Acc40 (acc40.overflow rm neg) := by
  cases rm with
  | rne => exact .inf neg
  | rtz => exact acc40_largest neg
  | rdn => cases neg with
    | false => exact acc40_largest false
    | true => exact .inf true
  | rup => cases neg with
    | false => exact .inf false
    | true => exact acc40_largest true

theorem acc40_beyond_iff (n : Nat) (q : Int) : acc40.beyond n q = true ↔ ¬(q ≤ 984 ∧ n ≤ (2 ^ 40 - 1) * 2 ^ (984 - q).toNat) := by
  show (if q ≤ 984 then decide ((2 ^ 40 - 1) * 2 ^ (984 - q).toNat < n) else true) = true ↔ _
  by_cases hq : q ≤ 984
  · rw [if_pos hq, decide_eq_true_iff, not_and, not_le]
    exact ⟨fun h _ => h, fun h => h hq⟩
  · simp [hq]

theorem acc40_roundFin (rm : Rnd) (neg : Bool) (m : Nat) (e : Int) (more : Bool) : Acc40 (acc40.roundFin rm neg m e more).1 := by
  have hu : acc40.unit m e = max (e + Nat.log2 m) (-1022) - 39 := rfl
  rw [roundFin_eq (Prod.eta _).symm (Prod.eta _).symm]
  by_cases hbig : acc40.beyond (quantise rm neg m e (acc40.unit m e) more).1 (acc40.unit m e) = true
  · rw [if_pos hbig]
    exact acc40_overflow rm neg
  · rw [if_neg hbig]
    have hn := quantise_le_two_pow rm neg m more (by omega : e + Nat.log2 m - 39 ≤ acc40.unit m e)
    refine .mk neg hn (by omega) fun h0 => ?_
    rw [acc40_beyond_iff, not_not] at hbig
    have := log2_le_of_le_mul h0 (by norm_num) hbig.2
    omega

/-- What rounding to ACC40 yields is a value of ACC40. -/
theorem acc40_round (rm : Rnd) (x : Exact) : Acc40 (acc40.round rm x).1 := by
  unfold FloatSpec.round
  cases hx : x.val with
  | nan => exact .nan
  | inf n => exact .inf n
  | zero n => exact .mk n (n := 0) (q := 0) (by norm_num) (by norm_num) (by simp)
  | fin n m e => exact acc40_roundFin rm n m e x.more

/-! The fields of an entry. -/

/-- The number with the fields of a floating-point entry. -/
def entryWord (sig field : Nat) (neg : Bool) : Nat := sig + field * 2 ^ 40 + neg.toNat * 2 ^ 51 + 2 ^ 52

theorem entryVal_entryWord {sig field : Nat} {neg : Bool} (hs : sig < 2 ^ 40) (hf : field < 2047) :
    entryVal false (entryWord sig field neg) = (Val.mk neg sig ((max field 1 : Nat) - 1062), 0) := by
  have hn : neg.toNat ≤ 1 := Bool.toNat_le neg
  have h63 : bitOf (entryWord sig field neg) 63 = false := by
    simp only [bitOf, entryWord, beq_eq_false_iff_ne]; omega
  have h51 : bitOf (entryWord sig field neg) 51 = neg := by
    have : entryWord sig field neg / 2 ^ 51 % 2 = neg.toNat := by simp only [entryWord]; omega
    rw [bitOf, this]
    cases neg <;> rfl
  have hsig : entryWord sig field neg % 2 ^ 40 = sig := by simp only [entryWord]; omega
  have hex : entryWord sig field neg / 2 ^ 40 % 2 ^ 11 = field := by simp only [entryWord]; omega
  have h54 : entryWord sig field neg / 2 ^ 54 % 2 ^ 9 = 0 := by simp only [entryWord]; omega
  have h52 : entryWord sig field neg / 2 ^ 52 % 4 = 1 := by simp only [entryWord]; omega
  have hne : (field == 2047) = false := by simp; omega
  simp only [entryVal, h63, h51, hsig, hex, h54, h52, hne]
  rfl

theorem entryVal_entryOf_zero (neg : Bool) : entryVal false (entryOf false (.zero neg)) = (.zero neg, 0) := by cases neg <;> decide

/-- A significand of 40 bits comes back from its entry, normal or subnormal. -/
theorem entryVal_entryOf_fin (neg : Bool) {m : Nat} {e : Int} (hm0 : m ≠ 0) (hm : m < 2 ^ 40) (he : -1061 ≤ e) (htop : e + Nat.log2 m ≤ 1023) :
    (entryVal false (entryOf false (.fin neg m e))).2 = 0 ∧ ratOf (entryVal false (entryOf false (.fin neg m e))).1 = ratOf (.fin neg m e) := by
  have hlog : Nat.log2 m ≤ 39 := Nat.lt_succ_iff.mp ((Nat.log2_lt hm0).mpr hm)
  have hlt : m < 2 ^ (Nat.log2 m + 1) := Nat.lt_log2_self
  have hfits : ∀ k : Nat, Nat.log2 m + 1 + k ≤ 40 → m * 2 ^ k < 2 ^ 40 := fun k hk => calc
    m * 2 ^ k < 2 ^ (Nat.log2 m + 1) * 2 ^ k := Nat.mul_lt_mul_of_pos_right hlt (Nat.two_pow_pos k)
    _ = 2 ^ (Nat.log2 m + 1 + k) := (pow_add _ _ _).symm
    _ ≤ 2 ^ 40 := Nat.pow_le_pow_right two_pos hk
  have hentry : entryOf false (.fin neg m e) = if 1 ≤ e + Nat.log2 m + 1023
      then entryWord (m * 2 ^ (39 - Nat.log2 m)) (e + Nat.log2 m + 1023).toNat neg
      else entryWord (m * 2 ^ (e + 1061).toNat) 0 neg := by
    simp only [entryOf, Bool.false_eq_true, if_false, entryWord]
    split_ifs <;> rfl
  rw [hentry]
  split_ifs with hex
  · rw [entryVal_entryWord (hfits _ (by omega)) (by omega)]
    refine ⟨rfl, ?_⟩
    have hexp : ((max (e + Nat.log2 m + 1023).toNat 1 : Nat) : Int) - 1062 = e - ((39 - Nat.log2 m : Nat) : Int) := by omega
    rw [ratOf_mk, hexp, two_zpow_sub, zpow_natCast, ratOf_fin, Nat.cast_mul, Nat.cast_pow]
    push_cast
    field_simp
  · rw [entryVal_entryWord (hfits _ (by omega)) (by omega)]
    refine ⟨rfl, ?_⟩
    have hexp : ((max 0 1 : Nat) : Int) - 1062 = e - (e + 1061) := by omega
    rw [ratOf_mk, hexp, two_zpow_sub, ← two_pow_toNat (k := e + 1061) (by omega), ratOf_fin, Nat.cast_mul, Nat.cast_pow]
    push_cast
    field_simp

/-- A value of ACC40 comes back from its entry, with no flag. -/
theorem entryVal_entryOf {v : Val} (h : Acc40 v) : (entryVal false (entryOf false v)).2 = 0 ∧ ratOf (entryVal false (entryOf false v)).1 = ratOf v := by
  cases h with
  | nan => decide
  | inf neg => cases neg <;> decide
  | @mk neg n q hn hq htop =>
    rcases eq_or_ne n 0 with rfl | h0
    · rw [Val.mk_zero, entryVal_entryOf_zero]
      exact ⟨rfl, rfl⟩
    · have hodd := odd_part_odd h0
      have hne := div_two_pow_trailing_ne_zero h0
      have hlog : Nat.log2 n = Nat.log2 (n / 2 ^ trailing n) + trailing n := by
        rw [← log2_mul_two_pow hne, div_two_pow_trailing_mul]
      have hle : n / 2 ^ trailing n ≤ 2 ^ 40 := (Nat.div_le_self _ _).trans hn
      have hn1023 := htop h0
      rw [Val.mk_of_ne_zero neg h0]
      exact entryVal_entryOf_fin neg hne (by omega) (by omega) (by omega)

/-- What rounding to ACC40 yields comes back from its entry (R251). -/
theorem entryVal_entryOf_round (rm : Rnd) (x : Exact) : (entryVal false (entryOf false (acc40.round rm x).1)).2 = 0 ∧
    ratOf (entryVal false (entryOf false (acc40.round rm x).1)).1 = ratOf (acc40.round rm x).1 := entryVal_entryOf (acc40_round rm x)

/-! Integer entries. -/

theorem quantise_units (rm : Rnd) (neg : Bool) (m : Nat) (e : Nat) : quantise rm neg m e 0 false = (m * 2 ^ e, false) := by
  have h0 : (0 : Int) ≤ e := by omega
  have hup : roundsUp rm neg (m * 2 ^ e) .lt false = false := by cases rm <;> simp [roundsUp]
  simp [quantise, h0, hup]

theorem intOf_ofInt (k : Int) : intOf (Val.ofInt k) = k := by
  rcases eq_or_ne k.natAbs 0 with h0 | h0
  · rw [Int.natAbs_eq_zero.mp h0]; rfl
  · rw [intOf, Exact.of, Val.ofInt, Val.mk_of_ne_zero _ h0, Int.zero_add]
    simp only [roundInt, quantise_units, div_two_pow_trailing_mul]
    split_ifs with h <;> simp at h <;> omega

/-- An accumulated integer within its 48 bits comes back from its entry (R251). -/
theorem entryVal_entryOf_int {k : Int} (h : -(2 ^ 47) ≤ k) (h' : k < 2 ^ 47) : entryVal true (entryOf true (Val.ofInt k)) = (Val.ofInt k, 0) := by
  have hmod : ((k % 2 ^ 48).toNat : Int) = k % 2 ^ 48 := Int.toNat_of_nonneg (Int.emod_nonneg _ (by norm_num))
  generalize hx : (k % 2 ^ 48).toNat = x at hmod
  have hent : entryOf true (Val.ofInt k) = 2 ^ 63 + x := by
    show 2 ^ 63 + ((intOf (Val.ofInt k)) % 2 ^ 48).toNat = _
    rw [intOf_ofInt, hx]
  have hlt : x < 2 ^ 48 := by omega
  have h63 : bitOf (2 ^ 63 + x) 63 = true := by simp only [bitOf, beq_iff_eq]; omega
  have h48 : (2 ^ 63 + x) / 2 ^ 48 % 2 ^ 15 = 0 := by omega
  have hlow : (2 ^ 63 + x) % 2 ^ 48 = x := by omega
  have hsigned : signedOf 48 x = k := by
    simp only [signedOf, Nat.mod_eq_of_lt hlt]
    split_ifs <;> push_cast <;> omega
  rw [hent]
  simp only [entryVal, h63, h48, hlow, hsigned]
  rfl

end Sys2Proof
end

section
/-! PROOFS. Commands: issue and retirement (R93, R94) -/

namespace Sys2Proof.Machine

/-! Updates that leave memory and cells. -/

theorem sameMemory_of_eq {s t : State} (h : t.mem = s.mem) : SameMemory s t := by simp [SameMemory, h]

theorem sameCells_of_eq {s t : State} (h : t.cells = s.cells) : SameCells s t := by rw [SameCells, h]

theorem sameChannels_of_eq {s t : State} (h : t.cells = s.cells) : SameChannels s t := by rw [SameChannels, h]

/-! Keyed lists. -/

theorem find?_putKey {α : Type} (l : List (Nat × α)) (k : Nat) (v : α) : (putKey l k v).find? (fun x => x.1 == k) = some (k, v) := by
  induction l with
  | nil => simp [putKey]
  | cons p rest ih =>
    obtain ⟨x, y⟩ := p
    rw [putKey]
    split_ifs with h1 h2
    · simp
    · simp
    · rw [List.find?_cons_of_neg (by simpa using Ne.symm h2), ih]

theorem ctxRegs_updCtx (s : State) (ctx : Nat) (f : CtxRegs → CtxRegs) : (s.updCtx ctx f).ctxRegs ctx = f (s.ctxRegs ctx) := by
  rw [State.ctxRegs, State.updCtx]
  simp only [find?_putKey]

/-! Retirement. -/

/-- What retirement does to the record of a command. -/
def Cmd.retire (c : Cmd) (status order : Nat) : Cmd := { c with retired := true, status := status, order := order, copy := none }

/-- A command that stands in its slot retires with its status, and its context counts it (R93, R358). -/
theorem retireCmd_found {s : State} {slot : Nat} {x : Cmd} (h : s.cmds.find? (fun c => c.slot == slot && !c.retired) = some x) (status : Nat) :
    (s.retireCmd slot status).cells = s.cells ∧ (s.retireCmd slot status).mem = s.mem ∧
    x.retire status s.stamps ∈ (s.retireCmd slot status).cmds ∧ ((s.retireCmd slot status).ctxRegs x.ctx).cmds = (s.ctxRegs x.ctx).cmds + 1 := by
  have hx : x.slot = slot ∧ x.retired = false := by simpa using List.find?_some h
  simp only [State.retireCmd, h, ctxRegs_updCtx, updCtx_cells, updCtx_mem, updCtx_cmds]
  exact ⟨trivial, trivial, List.mem_map.mpr ⟨x, List.mem_of_find?_eq_some h, by rw [if_pos hx.1]; rfl⟩, rfl⟩

/-- The command that waits in a slot is the first of that slot that has not retired, where none before it has issued. -/
theorem retireCmd_waiting {s : State} {slot : Nat} {x : Cmd} (h : s.cmds.find? (fun c => c.slot == slot && !c.retired && !c.issued) = some x) (status : Nat) :
    SameCells s (s.retireCmd slot status) ∧ SameMemory s (s.retireCmd slot status) ∧ ∃ y ∈ (s.retireCmd slot status).cmds,
      y.slot = slot ∧ y.gen = x.gen ∧ y.retired = true ∧ y.status = status := by
  obtain ⟨⟨hslot, hret⟩, -⟩ : (x.slot = slot ∧ x.retired = false) ∧ x.issued = false := by simpa using List.find?_some h
  have hx := List.mem_of_find?_eq_some h
  obtain ⟨y, hy⟩ : ∃ y, s.cmds.find? (fun c => c.slot == slot && !c.retired) = some y :=
    Option.isSome_iff_exists.mp (List.find?_isSome.mpr ⟨x, hx, by simp [hslot, hret]⟩)
  obtain ⟨hc, hm, -, -⟩ := retireCmd_found hy status
  refine ⟨sameCells_of_eq hc, sameMemory_of_eq hm, x.retire status s.stamps, ?_, hslot, rfl, rfl, rfl⟩
  simp only [State.retireCmd, hy, updCtx_cmds]
  exact List.mem_map.mpr ⟨x, hx, by rw [if_pos hslot]; rfl⟩

/-! Issue. -/

/-- The data type in which a copy reduces, if it reduces. -/
def CopyKind.reduces (k : CopyKind) : Option Fmt :=
  match k with
  | .reduce f _ => some f
  | .plain | .convert _ => none

theorem issueBulk_good {s : State} {x : Cmd} {kind : CopyKind} {h : Hint} (hk : bulkKind (fieldAt x.desc 0x28 4) = some (kind, h))
    (hb : copyBad x.desc (fun _ => true) kind.reduces = false) :
    s.issueBulk x = s.updCmd x.slot (fun c => { c with issued := true, copy := some (Copy.fresh c.eng kind h c.desc) }) := by
  cases kind <;> simp only [CopyKind.reduces] at hb <;> simp only [State.issueBulk, hk, hb, Bool.false_eq_true, if_false]

/-- A command that is cancelled retires CANCELLED; one whose KIND differs retires BADDESC (R93). -/
theorem commandIssue_ends {s : State} {slot : Nat} {x : Cmd} (h : s.cmds.find? (fun c => c.slot == slot && !c.retired && !c.issued) = some x)
    (hw : x.waits = []) (ht : s.thermal = false) :
    (x.cancelled = true → exec (.commandIssue slot) s = .next (s.retireCmd slot 2)) ∧
    (x.cancelled = false → x.kindBad = true → exec (.commandIssue slot) s = .next (s.retireCmd slot 1)) := by
  constructor
  · intro hc
    simp [exec_commandIssue, execCommandIssue, h, hw, ht, hc]
  · intro hc hk
    simp [exec_commandIssue, execCommandIssue, h, hw, ht, hc, hk]

/-- The oldest command of its engine issues, unless its region is parked; a bulk copy begins (R93, R229). -/
theorem commandIssue_bulk {s : State} {slot : Nat} {x : Cmd} (h : s.cmds.find? (fun c => c.slot == slot && !c.retired && !c.issued) = some x)
    (hw : x.waits = []) (ht : s.thermal = false) (hc : x.cancelled = false) (hk : x.kindBad = false) (h1 : x.kind = 1)
    (hp : ∀ p ∈ s.parked, p.region.rid ≠ x.eng.rid)
    (ho : ∀ d ∈ s.cmds.takeWhile (fun d => d.slot != slot), d.engine = x.engine → d.retired = true ∨ d.issued = true ∨ d.waits ≠ []) :
    exec (.commandIssue slot) s = .next (s.issueBulk x) := by
  have holder : (s.cmds.takeWhile (fun d => d.slot != slot)).any (fun d =>
      !d.retired && !d.issued && d.waits.isEmpty && !d.cancelled && !d.kindBad && decide (d.engine = x.engine)) = false := by
    rw [List.any_eq_false]
    intro d hd
    have := ho d hd
    simp only [Bool.and_eq_true, Bool.not_eq_true', List.isEmpty_iff, decide_eq_true_eq, not_and]
    intro h2
    obtain ⟨⟨⟨⟨hr, hi⟩, hws⟩, -⟩, -⟩ := h2
    simp_all
  have hparked : s.cmdParked x = false := by
    rw [State.cmdParked, List.any_eq_false]
    intro p hpm
    simpa using hp p hpm
  rw [exec_commandIssue, execCommandIssue, h]
  simp only [holder, hparked, hw, ht, hc, hk, h1, List.isEmpty_nil, Bool.not_true, Bool.or_self, Bool.false_eq_true, if_false]

theorem commandIssue_bulk_good {s : State} {slot : Nat} {x : Cmd} {kind : CopyKind} {h : Hint}
    (hx : s.cmds.find? (fun c => c.slot == slot && !c.retired && !c.issued) = some x) (hk : bulkKind (fieldAt x.desc 0x28 4) = some (kind, h))
    (hb : copyBad x.desc (fun _ => true) kind.reduces = false) : SameCells s (s.issueBulk x) ∧ SameMemory s (s.issueBulk x) ∧
      ∃ y ∈ (s.issueBulk x).cmds, y.slot = slot ∧ y.gen = x.gen ∧ y.issued = true ∧ y.copy = some (Copy.fresh x.eng kind h x.desc) := by
  obtain ⟨⟨hslot, -⟩, -⟩ : (x.slot = slot ∧ x.retired = false) ∧ x.issued = false := by simpa using List.find?_some hx
  rw [issueBulk_good hk hb]
  exact ⟨sameCells_of_eq rfl, sameMemory_of_eq rfl, _, List.mem_map.mpr ⟨x, List.mem_of_find?_eq_some hx, if_pos rfl⟩, hslot, rfl, rfl, rfl⟩

/-- A command whose engine has a result retires once none of its writes is outstanding (R92, R93). -/
theorem commandRetire_result {s : State} {slot : Nat} {x : Cmd} {r : Nat} (h : s.cmds.find? (fun c => c.slot == slot && !c.retired && c.issued) = some x)
    (ht : s.thermal = false) (hr : x.result = some r) (hp : ∀ y ∈ s.mem.posted, y.cmd ≠ some slot) :
    exec (.commandRetire slot) s = .next (s.retireCmd slot (if x.kind = 0 then engineResult r else r)) := by
  have hposted : s.mem.posted.any (fun x => x.cmd == some slot) = false := by
    rw [List.any_eq_false]
    intro y hy
    simpa using hp y hy
  simp only [exec_commandRetire, execCommandRetire, h, ht, hposted, hr, Bool.or_self, Bool.false_eq_true, if_false]

/-- The clauses of O51 about the issue of a command, and of a bulk copy. -/
theorem commandIssue_steps (s : State) (slot : Nat) (x : Cmd) (h : s.cmds.find? (fun c => c.slot == slot && !c.retired && !c.issued) = some x)
    (hw : x.waits = []) (ht : s.thermal = false) :
    (x.cancelled = true → ∃ t, exec (.commandIssue slot) s = .next t ∧ SameCells s t ∧ SameMemory s t ∧ ∃ y ∈ t.cmds, y.slot = slot ∧ y.gen = x.gen ∧ y.retired = true ∧ y.status = 2) ∧
    (x.cancelled = false → x.kindBad = true → ∃ t, exec (.commandIssue slot) s = .next t ∧ SameCells s t ∧ SameMemory s t ∧
      ∃ y ∈ t.cmds, y.slot = slot ∧ y.gen = x.gen ∧ y.retired = true ∧ y.status = 1) ∧
    (∀ kind h, x.cancelled = false → x.kindBad = false → x.kind = 1 → (∀ p ∈ s.parked, p.region.rid ≠ x.eng.rid) →
      (∀ d ∈ s.cmds.takeWhile (fun d => d.slot != slot), d.engine = x.engine → d.retired = true ∨ d.issued = true ∨ d.waits ≠ []) →
      bulkKind (fieldAt x.desc 0x28 4) = some (kind, h) → copyBad x.desc (fun _ => true) kind.reduces = false →
      ∃ t, exec (.commandIssue slot) s = .next t ∧ SameCells s t ∧ SameMemory s t ∧
        ∃ y ∈ t.cmds, y.slot = slot ∧ y.gen = x.gen ∧ y.issued = true ∧ y.copy = some (Copy.fresh x.eng kind h x.desc)) :=
  ⟨fun hc => ⟨_, (commandIssue_ends h hw ht).1 hc, retireCmd_waiting h 2⟩,
    fun hc hk => ⟨_, (commandIssue_ends h hw ht).2 hc hk, retireCmd_waiting h 1⟩,
    fun _ _ hc hk h1 hp ho hkind hbad => ⟨_, commandIssue_bulk h hw ht hc hk h1 hp ho, commandIssue_bulk_good h hkind hbad⟩⟩

/-- The clause of O51 about retirement. -/
theorem commandRetire_step (s : State) (slot : Nat) (x : Cmd) (r : Nat) (h : s.cmds.find? (fun c => c.slot == slot && !c.retired && c.issued) = some x)
    (ht : s.thermal = false) (hr : x.result = some r) (hx : s.cmds.find? (fun c => c.slot == slot && !c.retired) = some x)
    (hp : ∀ y ∈ s.mem.posted, y.cmd ≠ some slot) : ∃ t, exec (.commandRetire slot) s = .next t ∧ SameCells s t ∧ SameMemory s t ∧
      (∃ y ∈ t.cmds, y.slot = slot ∧ y.gen = x.gen ∧ y.retired = true ∧ y.status = (if x.kind = 0 then (if r = 1 then 1 else if r = 2 then 3 else 0) else r)) ∧
      (t.ctxRegs x.ctx).cmds = (s.ctxRegs x.ctx).cmds + 1 := by
  obtain ⟨hslot, -⟩ : x.slot = slot ∧ x.retired = false := by simpa using List.find?_some hx
  obtain ⟨hc, hm, hmem, hctx⟩ := retireCmd_found hx (if x.kind = 0 then engineResult r else r)
  exact ⟨_, commandRetire_result h ht hr hp, sameCells_of_eq hc, sameMemory_of_eq hm, ⟨_, hmem, hslot, rfl, rfl, rfl⟩, hctx⟩

end Sys2Proof.Machine
end

section
/-! PROOFS. What systolic regions see of the cells

An operation of a systolic region reads weights and accumulators of its cells by their places (R246). Records of faults, counters, flags and
queues stand beside that. -/

namespace Sys2Proof.Machine

/-- What a systolic region, and the translation of an agent, see of a cell. -/
def Cell.grid (c : Cell) : Nat × Nat × Nat × Nat × List Pe × List Port := (c.num, c.rid, c.rx, c.ry, c.pes, c.ports)

/-- Every cell stands at its place, with its PEs and ports. -/
def SameGrid (s t : State) : Prop := t.cells.map Cell.grid = s.cells.map Cell.grid

/-- The same, and memory as it was. -/
structure SameWork (s t : State) : Prop where
  grid : SameGrid s t
  mem : t.mem = s.mem

theorem SameGrid.refl (s : State) : SameGrid s s := rfl

theorem SameGrid.trans {s t u : State} (h : SameGrid s t) (h' : SameGrid t u) : SameGrid s u := Eq.trans h' h

theorem SameWork.refl (s : State) : SameWork s s := ⟨rfl, rfl⟩

theorem SameWork.trans {s t u : State} (h : SameWork s t) (h' : SameWork t u) : SameWork s u := ⟨h.grid.trans h'.grid, h'.mem.trans h.mem⟩

theorem sameWork_of_eq {s t : State} (h : t.cells = s.cells) (hm : t.mem = s.mem) : SameWork s t := ⟨congrArg (List.map Cell.grid) h, hm⟩

theorem sameGrid_of_eq {s t : State} (h : t.cells = s.cells) : SameGrid s t := congrArg (List.map Cell.grid) h

theorem sameGrid_of_map {s t : State} {f : Cell → Cell} (h : t.cells = s.cells.map f) (hf : ∀ c, (f c).grid = c.grid) : SameGrid s t := by
  rw [SameGrid, h, List.map_map]
  exact List.map_congr_left fun c _ => hf c

theorem sameWork_updCell (s : State) (n : Nat) {f : Cell → Cell} (hf : ∀ c, (f c).grid = c.grid) : SameWork s (s.updCell n f) :=
  ⟨s.cells_map_updCell n f Cell.grid hf, rfl⟩

/-! Records of faults, flags and counters. -/

theorem Cell.count_grid (c : Cell) (n : Nat) (v : Word) : (c.count n v).grid = c.grid := by
  unfold Cell.count
  split_ifs <;> rfl

theorem sameWork_count (s : State) (cell n : Nat) (v : Word) : SameWork s (s.count cell n v) := sameWork_updCell s cell fun c => c.count_grid n v

theorem sameWork_raiseFlags (s : State) (cell : Nat) (flags : Word) : SameWork s (s.raiseFlags cell flags) := sameWork_updCell s cell fun _ => rfl

theorem sameWork_raise (s : State) (f : FaultRec) : SameWork s (s.raise f) := by
  have hrec : ∀ (rank : Nat) (regs : FaultRegs), SameWork s (match f.cell with
      | some n => s.updCell n (fun c => { c with flt := c.flt.record s.cycle rank regs })
      | none => s) := by
    intro rank regs
    cases f.cell with
    | none => exact .refl s
    | some n => exact sameWork_updCell s n fun _ => rfl
  unfold State.raise
  dsimp only
  split
  · exact (hrec _ _).trans (sameWork_of_eq rfl rfl)
  · exact (hrec _ _).trans (sameWork_of_eq rfl rfl)
  · exact (hrec _ _).trans (sameWork_of_eq rfl rfl)

theorem sameWork_raiseEng (s : State) (e : Eng) (code sub : Nat) (held : Bool) (addr aux : DWord) : SameWork s (s.raiseEng e code sub held addr aux) :=
  sameWork_raise s _

theorem sameWork_engFlags (s : State) (e : Eng) (flags : Word) : SameWork s (s.engFlags e flags) := by
  unfold State.engFlags
  split
  · exact sameWork_raiseFlags s _ flags
  · exact .refl s

theorem sameWork_engSink (s : State) (e : Eng) (addr : Nat) (origin : Word) : SameWork s (s.engSink e addr origin).1 := by
  unfold State.engSink
  split_ifs
  · dsimp only
    split
    · exact sameWork_count s _ _ _
    · exact .refl s
  · exact sameWork_raise s _

theorem sameWork_engSinks (s : State) (e : Eng) (origin : Word) (bad : List Nat) (elems : Option Nat) : SameWork s (s.engSinks e origin bad elems).1 := by
  unfold State.engSinks
  split
  · exact .refl s
  · next addr _ =>
    refine (sameWork_engSink s e addr origin).trans ?_
    dsimp only
    split
    · exact sameWork_count _ _ _ _
    · exact .refl _

theorem sameWork_stirs (s : State) (e : Eng) : SameWork s (s.stirs e) := sameWork_of_eq rfl rfl

theorem sameWork_moves (s : State) (e : Eng) (l : List Span) : SameWork s (s.moves e l) := by
  unfold State.moves
  split_ifs
  · exact .refl s
  · exact sameWork_stirs s e

theorem sameWork_sends (s : State) (e : Eng) : SameWork s (s.sends e) := by
  unfold State.sends
  split_ifs
  · exact sameWork_stirs s e
  · exact .refl s

theorem sameWork_deadEng (s : State) (e : Eng) (dead : Option Nat) (write : Bool) : SameWork s (s.deadEng e dead write).1 := by
  unfold State.deadEng
  split
  · exact .refl s
  · split_ifs
    · exact .refl s
    · exact sameWork_raiseEng s e _ _ _ _ _

theorem sameWork_holdEng (s : State) (e : Eng) (code va : Nat) (n : Need) : SameWork s (s.holdEng e code va n).1 := sameWork_raiseEng s e _ _ _ _ _

/-! Reads and writes of agents. -/

theorem spans_cells (s : State) (e : Eng) (n : Need) (l : List (Nat × Nat)) (acc : List Span) : (s.spans e n l acc).1.cells = s.cells := by
  induction l generalizing s acc with
  | nil => rfl
  | cons x rest ih =>
    unfold State.spans
    split
    · rfl
    · rfl
    · dsimp only
      split_ifs
      · rfl
      · exact ih _ _

theorem reach_cells (s : State) (e : Eng) (n : Need) (ranges : List (Nat × Nat)) : (s.reach e n ranges).1.cells = s.cells := by
  have h := spans_cells s e n (ranges.flatMap (fun r => lineChunks r.1 r.2)) []
  unfold State.reach
  split
  · next heq => rw [heq] at h; exact h
  · next heq => rw [heq] at h; exact h

theorem gather_cells (s : State) (e : Eng) (l : List Span) : (s.gather e l).1.cells = s.cells := by
  induction l generalizing s with
  | nil => rfl
  | cons x rest ih =>
    unfold State.gather
    split <;> exact ih _

theorem sameGrid_readSpans (s : State) (e : Eng) (elem : Nat → Nat) (ranges : List (Nat × Nat)) : SameGrid s (s.readSpans e elem ranges).1 := by
  have h := sameGrid_of_eq (reach_cells s e .load ranges)
  unfold State.readSpans
  split
  · next s' spans heq =>
    rw [heq] at h
    exact h.trans (((sameWork_moves s' e spans).grid.trans (sameGrid_of_eq (gather_cells _ e spans))).trans (sameWork_deadEng _ _ _ _).grid)
  · next s' code va heq =>
    rw [heq] at h
    exact h.trans (sameWork_holdEng s' e code va .load).grid
  · next s' va heq =>
    rw [heq] at h
    exact h.trans (sameWork_raiseEng s' e _ _ _ _ _).grid
  · next s' heq =>
    rw [heq] at h
    exact h.trans (sameWork_sends s' e).grid

theorem sameGrid_readEng (s : State) (e : Eng) (elem : Nat → Nat) (ranges : List (Nat × Nat)) : SameGrid s (s.readEng e elem ranges).1 :=
  sameGrid_readSpans s e elem ranges

end Sys2Proof.Machine
end

section
/-! PROOFS. Places of a systolic region, and the accumulators of its south edge (R246, R252) -/

namespace Sys2Proof.Machine

/-! Lookups that the grid alone decides. -/

theorem cellAt_map_grid (s : State) (rid x y : Nat) :
    (s.cellAt rid x y).map Cell.grid = (s.cells.map Cell.grid).find? (fun g => g.2.1 == rid && g.2.2.1 == x && g.2.2.2.1 == y) := by
  rw [List.find?_map]
  rfl

theorem cell?_map_grid (s : State) (n : Nat) : (s.cell? n).map Cell.grid = (s.cells.map Cell.grid).find? (fun g => g.1 == n) := by
  rw [List.find?_map]
  rfl

/-- The cells of one place in two states with the same grid. -/
theorem SameGrid.cellAt {s t : State} (h : SameGrid s t) (rid x y : Nat) : (t.cellAt rid x y).map Cell.grid = (s.cellAt rid x y).map Cell.grid := by
  rw [cellAt_map_grid, cellAt_map_grid, h]

theorem SameGrid.cell? {s t : State} (h : SameGrid s t) (n : Nat) : (t.cell? n).map Cell.grid = (s.cell? n).map Cell.grid := by
  rw [cell?_map_grid, cell?_map_grid, h]

/-- What is read of the PE (k, c) of a systolic region. -/
theorem sysPe_read {α : Type} {s t : State} (h : SameGrid s t) (rid : Nat) (y : Systolic) (k c : Nat) (f : Pe → α) :
    (t.sysPe rid y k c).map (fun x => f (x.1.pe x.2)) = (s.sysPe rid y k c).map (fun x => f (x.1.pe x.2)) := by
  have hview := congrArg (Option.map (fun g : Nat × Nat × Nat × Nat × List Pe × List Port => f (g.2.2.2.2.1.getD (4 * (k % 4) + c % 4) .fresh)))
    (h.cellAt rid (y.x0 + c / 4) (y.y0 + k / 4))
  simp only [Option.map_map] at hview
  simp only [State.sysPe, Option.map_map]
  exact hview

theorem southLane_eq (s : State) (rid : Nat) (y : Systolic) (acc n : Nat) : s.southLane rid y acc n =
    ((s.sysPe rid y (4 * y.h - 1) (n / 128)).map (fun x => laneAt ((x.1.pe x.2).accReg acc).lanes (n % 128))).getD .zero := by
  unfold State.southLane
  cases s.sysPe rid y (4 * y.h - 1) (n / 128) <;> rfl

theorem sysWeights_eq (s : State) (rid : Nat) (y : Systolic) (k c : Nat) : s.sysWeights rid y k c =
    ((s.sysPe rid y k c).map (fun x => (x.1.pe x.2).cur)).getD .zero := by
  unfold State.sysWeights
  cases s.sysPe rid y k c <;> rfl

theorem SameGrid.southLane {s t : State} (h : SameGrid s t) (rid : Nat) (y : Systolic) (acc n : Nat) : t.southLane rid y acc n = s.southLane rid y acc n := by
  rw [southLane_eq, southLane_eq, sysPe_read h rid y _ _ (fun p => laneAt (p.accReg acc).lanes (n % 128))]

theorem SameGrid.sysWeights {s t : State} (h : SameGrid s t) (rid : Nat) (y : Systolic) (k c : Nat) : t.sysWeights rid y k c = s.sysWeights rid y k c := by
  rw [sysWeights_eq, sysWeights_eq, sysPe_read h rid y k c (fun p => p.cur)]

theorem SameGrid.initLane {s t : State} (h : SameGrid s t) (rid : Nat) (y : Systolic) (o : MatOp) (int : Bool) (l : List RByte) (e : Eng) (n : Nat) :
    t.initLane rid y o int l e n = s.initLane rid y o int l e n := by
  unfold State.initLane
  rw [h.southLane]

/-- An agent translates through the ports of its cell. -/
theorem winsOf_congr {s t : State} (h : t.cells.map (fun c => (c.num, c.ports)) = s.cells.map (fun c => (c.num, c.ports))) (e : Eng) :
    t.winsOf e = s.winsOf e := by
  have hfind : ∀ u : State, (u.cell? e.cell).map (fun c => (c.num, c.ports)) = (u.cells.map (fun c => (c.num, c.ports))).find? (fun g => g.1 == e.cell) := by
    intro u
    rw [List.find?_map]
    rfl
  have hcell : (t.cell? e.cell).map (fun c => (c.num, c.ports)) = (s.cell? e.cell).map (fun c => (c.num, c.ports)) := by rw [hfind, hfind, h]
  have hport : ∀ p, t.port e.cell p = s.port e.cell p := by
    intro p
    unfold State.port
    revert hcell
    cases t.cell? e.cell <;> cases s.cell? e.cell <;> intro hcell
    · rfl
    · cases hcell
    · cases hcell
    · next c d =>
      have hp : c.ports = d.ports := by simpa using congrArg (Option.map Prod.snd) hcell
      simp only [Cell.port, Cell.port?, hp]
  simp only [State.winsOf, hport]

theorem SameGrid.winsOf {s t : State} (h : SameGrid s t) (e : Eng) : t.winsOf e = s.winsOf e := by
  refine winsOf_congr ?_ e
  have hview := congrArg (List.map (fun g : Nat × Nat × Nat × Nat × List Pe × List Port => (g.1, g.2.2.2.2.2))) h
  simp only [List.map_map] at hview
  exact hview

/-! Writing the south edge. -/

/-- The cells carry different numbers, and every cell its 16 PEs with their 4 accumulators (R10, R197). -/
structure State.Shaped (s : State) : Prop where
  nodup : (s.cells.map (fun c => c.num)).Nodup
  pes : ∀ c ∈ s.cells, c.pes.length = 16 ∧ ∀ p ∈ c.pes, p.acc.length = 4

theorem State.Shaped.cell_ext {s : State} (h : s.Shaped) {c d : Cell} (hc : c ∈ s.cells) (hd : d ∈ s.cells) (hn : c.num = d.num) : c = d :=
  List.inj_on_of_nodup_map h.nodup hc hd hn

theorem mem_of_cellAt {s : State} {rid x y : Nat} {c : Cell} (h : s.cellAt rid x y = some c) : c ∈ s.cells ∧ c.rid = rid ∧ c.rx = x ∧ c.ry = y := by
  refine ⟨List.mem_of_find?_eq_some h, ?_⟩
  simpa [and_assoc] using List.find?_some h

theorem cellAt_updCell (s : State) (n : Nat) {f : Cell → Cell} (hf : ∀ c, ((f c).rid, (f c).rx, (f c).ry) = (c.rid, c.rx, c.ry)) (rid x y : Nat) :
    (s.updCell n f).cellAt rid x y = (s.cellAt rid x y).map (fun c => if c.num == n then f c else c) := by
  have hp : ((fun c : Cell => c.rid == rid && c.rx == x && c.ry == y) ∘ fun c => if c.num == n then f c else c) =
      fun c => c.rid == rid && c.rx == x && c.ry == y := by
    funext c
    have := hf c
    simp only [Prod.mk.injEq] at this
    obtain ⟨h1, h2, h3⟩ := this
    simp only [Function.comp]
    split_ifs
    · rw [h1, h2, h3]
    · rfl
  unfold State.updCell State.cellAt
  rw [List.find?_map, hp]

/-- An accumulator of a PE given lanes, and the KIND of the path; lanes that are not given stay. -/
def Pe.writeSouth (acc : Nat) (int : Bool) (lanes : List Lane) (c : Nat) (p : Pe) : Pe :=
  p.setAcc acc ⟨int, lanes128 (fun l => (lanes[128 * c + l]?).getD (laneAt (p.accReg acc).lanes l))⟩

/-- The column c of the south edge given its lanes. -/
def State.setColumn (rid : Nat) (y : Systolic) (acc : Nat) (int : Bool) (lanes : List Lane) (s : State) (c : Nat) : State :=
  match s.sysPe rid y (4 * y.h - 1) c with
  | none => s
  | some (cell, pe) => s.updCell cell.num (fun cell => cell.updPe pe (Pe.writeSouth acc int lanes c))

theorem setSouth_eq (s : State) (rid : Nat) (y : Systolic) (acc : Nat) (int : Bool) (lanes : List Lane) :
    s.setSouth rid y acc int lanes = (List.range ((lanes.length + 127) / 128)).foldl (State.setColumn rid y acc int lanes) s := rfl

/-- The accumulator of column c of the south edge. -/
def State.southAcc (s : State) (rid : Nat) (y : Systolic) (acc c : Nat) : Option Acc :=
  (s.sysPe rid y (4 * y.h - 1) c).map (fun x => (x.1.pe x.2).accReg acc)

theorem southLane_southAcc (s : State) (rid : Nat) (y : Systolic) (acc n : Nat) :
    s.southLane rid y acc n = ((s.southAcc rid y acc (n / 128)).map (fun a => laneAt a.lanes (n % 128))).getD .zero := by
  rw [southLane_eq, State.southAcc, Option.map_map]
  rfl

/-- The PE of column c in its cell of the south edge. -/
def southPe (y : Systolic) (c : Nat) : Nat := 4 * ((4 * y.h - 1) % 4) + c % 4

theorem southPe_lt (y : Systolic) (c : Nat) : southPe y c < 16 := by unfold southPe; omega

section
variable {rid : Nat} {y : Systolic} {acc : Nat} {int : Bool} {lanes : List Lane}

theorem setColumn_mem (s : State) (c : Nat) : (s.setColumn rid y acc int lanes c).mem = s.mem := by
  unfold State.setColumn
  split <;> rfl

theorem setColumn_ports (s : State) (c : Nat) :
    (s.setColumn rid y acc int lanes c).cells.map (fun c => (c.num, c.ports)) = s.cells.map (fun c => (c.num, c.ports)) := by
  unfold State.setColumn
  split
  · rfl
  · exact State.cells_map_updCell s _ _ _ fun _ => rfl

theorem Cell.updPe_shaped {c : Cell} (h : c.pes.length = 16 ∧ ∀ p ∈ c.pes, p.acc.length = 4) {f : Pe → Pe} (hf : ∀ p, (f p).acc.length = p.acc.length)
    (k : Nat) : (c.updPe k f).pes.length = 16 ∧ ∀ p ∈ (c.updPe k f).pes, p.acc.length = 4 := by
  obtain ⟨hlen, hacc⟩ := h
  refine ⟨by simpa [Cell.updPe] using hlen, fun p hp => ?_⟩
  rcases List.mem_or_eq_of_mem_set hp with hp | rfl
  · exact hacc p hp
  · rw [hf, Cell.pe]
    rcases lt_or_ge k c.pes.length with hk | hk
    · rw [List.getD_eq_getElem _ _ hk]
      exact hacc _ (List.getElem_mem hk)
    · rw [List.getD_eq_default _ _ hk]
      rfl

theorem setColumn_shaped {s : State} (h : s.Shaped) (c : Nat) : (s.setColumn rid y acc int lanes c).Shaped := by
  unfold State.setColumn
  split
  · exact h
  · next cell pe _ =>
    refine ⟨?_, fun d hd => ?_⟩
    · have hnums := s.cells_map_updCell cell.num (fun d => d.updPe pe (Pe.writeSouth acc int lanes c)) (fun d => d.num) fun _ => rfl
      exact hnums ▸ h.nodup
    · obtain ⟨d, hmem, rfl⟩ := List.mem_map.mp hd
      split_ifs
      · exact Cell.updPe_shaped (h.pes d hmem) (fun p => by simp [Pe.writeSouth, Pe.setAcc]) pe
      · exact h.pes d hmem

theorem accReg_writeSouth {p : Pe} (h : acc < p.acc.length) (c : Nat) : (Pe.writeSouth acc int lanes c p).accReg acc =
    ⟨int, lanes128 (fun l => (lanes[128 * c + l]?).getD (laneAt (p.accReg acc).lanes l))⟩ := by
  simp [Pe.writeSouth, Pe.setAcc, Pe.accReg, List.getD, h]

theorem southAcc_eq (s : State) (c : Nat) : s.southAcc rid y acc c =
    (s.cellAt rid (y.x0 + c / 4) (y.y0 + (4 * y.h - 1) / 4)).map (fun d => (d.pe (southPe y c)).accReg acc) := by
  rw [State.southAcc, State.sysPe, Option.map_map]
  rfl

/-- A PE of the south edge changed: its column alone sees it. -/
theorem southAcc_updPe {s : State} (h : s.Shaped) {c : Nat} {cell : Cell} (hcell : s.cellAt rid (y.x0 + c / 4) (y.y0 + (4 * y.h - 1) / 4) = some cell)
    (f : Pe → Pe) (c' : Nat) : (s.updCell cell.num (fun d => d.updPe (southPe y c) f)).southAcc rid y acc c' =
      if c' = c then some ((f (cell.pe (southPe y c))).accReg acc) else s.southAcc rid y acc c' := by
  obtain ⟨hmem, -, hrx, -⟩ := mem_of_cellAt hcell
  have hpe : ∀ q, (cell.updPe (southPe y c) f).pe q = if q = southPe y c then f (cell.pe q) else cell.pe q := fun q =>
    Cell.pe_updPe cell _ q f ((h.pes cell hmem).1 ▸ southPe_lt y c)
  rw [southAcc_eq, southAcc_eq, cellAt_updCell s cell.num (f := fun d => d.updPe (southPe y c) f) (fun _ => rfl), Option.map_map]
  split_ifs with heq
  · simp [heq, hcell, hpe]
  · cases hcell' : s.cellAt rid (y.x0 + c' / 4) (y.y0 + (4 * y.h - 1) / 4) with
    | none => rfl
    | some cell' =>
      obtain ⟨hmem', -, hrx', -⟩ := mem_of_cellAt hcell'
      by_cases hnum : cell'.num = cell.num
      · obtain rfl := h.cell_ext hmem' hmem hnum
        have hne : southPe y c' ≠ southPe y c := by simp only [southPe]; omega
        simp [hpe, hne]
      · simp [hnum]

/-- A column given its lanes; the other columns stay. -/
theorem southAcc_setColumn {s : State} (h : s.Shaped) (hacc : acc < 4) (c c' : Nat) : (s.setColumn rid y acc int lanes c).southAcc rid y acc c' =
    if c' = c then (s.southAcc rid y acc c).map (fun a => ⟨int, lanes128 (fun l => (lanes[128 * c + l]?).getD (laneAt a.lanes l))⟩)
    else s.southAcc rid y acc c' := by
  cases hcell : s.cellAt rid (y.x0 + c / 4) (y.y0 + (4 * y.h - 1) / 4) with
  | none =>
    have hnone : s.southAcc rid y acc c = none := by rw [southAcc_eq, hcell]; rfl
    have hstay : s.setColumn rid y acc int lanes c = s := by rw [State.setColumn, State.sysPe, hcell]; rfl
    rw [hstay]
    split_ifs with heq
    · rw [heq, hnone]; rfl
    · rfl
  | some cell =>
    obtain ⟨hlen, haccs⟩ := h.pes cell (mem_of_cellAt hcell).1
    have hpe : acc < (cell.pe (southPe y c)).acc.length := by
      have hlt : southPe y c < cell.pes.length := hlen ▸ southPe_lt y c
      rw [Cell.pe, List.getD_eq_getElem _ _ hlt, haccs _ (List.getElem_mem hlt)]
      exact hacc
    have hset : s.setColumn rid y acc int lanes c = s.updCell cell.num (fun d => d.updPe (southPe y c) (Pe.writeSouth acc int lanes c)) := by
      rw [State.setColumn, State.sysPe, hcell]; rfl
    rw [hset, southAcc_updPe h hcell]
    split_ifs with heq
    · rw [southAcc_eq, hcell, accReg_writeSouth hpe]; rfl
    · rfl

/-- Columns given their lanes, from the first on. -/
theorem foldl_setColumn {s : State} (h : s.Shaped) (hacc : acc < 4) (m : Nat) :
    ((List.range m).foldl (State.setColumn rid y acc int lanes) s).Shaped ∧
    ∀ c, ((List.range m).foldl (State.setColumn rid y acc int lanes) s).southAcc rid y acc c =
      if c < m then (s.southAcc rid y acc c).map (fun a => ⟨int, lanes128 (fun l => (lanes[128 * c + l]?).getD (laneAt a.lanes l))⟩)
      else s.southAcc rid y acc c := by
  induction m with
  | zero => exact ⟨h, fun c => by simp⟩
  | succ m ih =>
    obtain ⟨hshape, hcols⟩ := ih
    rw [List.range_succ, List.foldl_append, List.foldl_cons, List.foldl_nil]
    refine ⟨setColumn_shaped hshape m, fun c => ?_⟩
    rw [southAcc_setColumn hshape hacc, hcols, hcols]
    rcases lt_trichotomy c m with hc | rfl | hc
    · simp [hc, hc.ne, hc.trans (Nat.lt_succ_self m)]
    · simp
    · simp [hc.ne', hc.not_gt, show ¬c < m + 1 by omega]

end

theorem setSouth_mem (s : State) (rid : Nat) (y : Systolic) (acc : Nat) (int : Bool) (lanes : List Lane) : (s.setSouth rid y acc int lanes).mem = s.mem := by
  rw [setSouth_eq]
  exact List.foldlRecOn _ _ (motive := fun t : State => t.mem = s.mem) rfl fun t ht c _ => (setColumn_mem t c).trans ht

theorem setSouth_ports (s : State) (rid : Nat) (y : Systolic) (acc : Nat) (int : Bool) (lanes : List Lane) :
    (s.setSouth rid y acc int lanes).cells.map (fun c => (c.num, c.ports)) = s.cells.map (fun c => (c.num, c.ports)) := by
  rw [setSouth_eq]
  exact List.foldlRecOn _ _ (motive := fun t : State => t.cells.map (fun c => (c.num, c.ports)) = s.cells.map (fun c => (c.num, c.ports))) rfl
    fun t ht c _ => (setColumn_ports t c).trans ht

/-- The south edge after a row: the lanes given where there are columns, else what it held (R252). -/
theorem southLane_setSouth {s : State} (h : s.Shaped) {acc : Nat} (hacc : acc < 4) {rid : Nat} {y : Systolic}
    (hcols : ∀ c < 4 * y.w, (s.sysPe rid y (4 * y.h - 1) c).isSome = true) (int : Bool) (lanes : List Lane) {n : Nat} (hn : n < 512 * y.w) :
    (s.setSouth rid y acc int lanes).southLane rid y acc n = (lanes[n]?).getD (s.southLane rid y acc n) := by
  obtain ⟨a, ha⟩ : ∃ a, s.southAcc rid y acc (n / 128) = some a := by
    obtain ⟨x, hx⟩ := Option.isSome_iff_exists.mp (hcols (n / 128) (by omega))
    exact ⟨_, by rw [State.southAcc, hx]; rfl⟩
  rw [southLane_southAcc, southLane_southAcc, setSouth_eq, (foldl_setColumn h hacc _).2, ha]
  split_ifs with hc
  · have hlane : ∀ f : Nat → Lane, laneAt (lanes128 f) (n % 128) = f (n % 128) := fun f => by
      simp [laneAt, lanes128, List.getD, Nat.mod_lt]
    simp only [Option.map_some, Option.getD_some, hlane, Nat.div_add_mod]
  · have hnone : lanes[n]? = none := List.getElem?_eq_none (by omega)
    simp [hnone]

end Sys2Proof.Machine
end

section
/-! PROOFS. Writes of elements by engine agents

A write that reaches its lines (`Lands`) lays its bits over them: no line is lost, no bank must wake, and the lines take the bytes in order. -/

namespace Sys2Proof.Machine

/-! The requests of a range. -/

/-- The bytes of the first lines of a range. -/
theorem lineChunks_first_sum (va n : Nat) {k : Nat} (hk : k ≤ (va % 64 + n + 63) / 64) :
    ((List.range k).map (fun i => min (va + n) ((va / 64 + i + 1) * 64) - max va ((va / 64 + i) * 64))).sum =
      min (va + n) (max va ((va / 64 + k) * 64)) - va := by
  induction k with
  | zero => simp; omega
  | succ k ih =>
    rw [List.range_succ, List.map_append, List.sum_append, ih (by omega)]
    simp only [List.map_cons, List.map_nil, List.sum_cons, List.sum_nil]
    omega

/-- The requests of a range cover its bytes. -/
theorem lineChunks_sum (va n : Nat) : ((lineChunks va n).map (fun x => x.2)).sum = n := by
  rcases Nat.eq_zero_or_pos n with rfl | hn
  · rfl
  · have h := lineChunks_first_sum va n (k := (va % 64 + n + 63) / 64) le_rfl
    rw [lineChunks, if_neg hn.ne', List.map_map]
    refine Eq.trans h ?_
    omega

/-! What lets a write go. -/

/-- An address at which a write is performed at once and loses nothing: the memory map holds it, its bank is FULL, no error stands in its line. -/
structure MemSys.Takes (m : MemSys) (pa : Nat) : Prop where
  mapped : m.refuses pa = false
  full : target pa = some .spad → (m.bank (spadBank pa)).st = .full
  sound : m.bad.contains (pa / 64) = false

/-- A memory that takes whatever another takes. -/
def MemSys.Keeps (m m' : MemSys) : Prop := ∀ pa, m.Takes pa → m'.Takes pa

theorem MemSys.Keeps.refl (m : MemSys) : m.Keeps m := fun _ h => h

theorem MemSys.Keeps.trans {m m' m'' : MemSys} (h : m.Keeps m') (h' : m'.Keeps m'') : m.Keeps m'' := fun pa ht => h' pa (h pa ht)

/-- Memory whose bytes stand, and that takes what it took. -/
structure MemSys.Stays (m m' : MemSys) : Prop where
  bytes : m'.bytes = m.bytes
  keeps : m.Keeps m'

theorem MemSys.Stays.refl (m : MemSys) : m.Stays m := ⟨rfl, .refl m⟩

theorem MemSys.Stays.trans {m m' m'' : MemSys} (h : m.Stays m') (h' : m'.Stays m'') : m.Stays m'' := ⟨h'.bytes.trans h.bytes, h.keeps.trans h'.keeps⟩

/-- It is enough that no page turns versioned, FULL banks stay FULL, and no line turns bad. -/
theorem MemSys.keeps_of {m m' : MemSys} (hp : ∀ p, m.verPages.contains p = false → m'.verPages.contains p = false)
    (hb : ∀ b, (m.bank b).st = .full → (m'.bank b).st = .full) (hbad : ∀ l, m.bad.contains l = false → m'.bad.contains l = false) : m.Keeps m' := by
  rintro pa ⟨hadm, hfull, hsound⟩
  refine ⟨?_, fun ht => hb _ (hfull ht), hbad _ hsound⟩
  unfold MemSys.refuses at hadm ⊢
  split at hadm
  · exact hadm
  · exact hp _ hadm
  · rfl
  · rfl

theorem MemSys.keeps_of_eq {m m' : MemSys} (hp : m'.verPages = m.verPages) (hb : m'.banks = m.banks) (hbad : m'.bad = m.bad) : m.Keeps m' :=
  MemSys.keeps_of (fun _ h => by rwa [hp]) (fun b h => by rwa [MemSys.bank, hb]) (fun l h => by rwa [hbad])

theorem contains_filter_of_not {l : List Nat} {x : Nat} (p : Nat → Bool) (h : l.contains x = false) : (l.filter p).contains x = false := by
  simp only [List.contains_eq_mem, decide_eq_false_iff_not, List.mem_filter, not_and] at h ⊢
  exact fun hx => absurd hx h

/-- An unversioned use of a page leaves what memory takes, and the bytes. -/
theorem MemSys.notePage_unversioned (m : MemSys) {p : Part} (h : p.ver = false) :
    m.Keeps (m.notePage p) ∧ (m.notePage p).bytes = m.bytes ∧ (m.notePage p).tlb = m.tlb := by
  unfold MemSys.notePage
  cases p.pa with
  | none => exact ⟨.refl m, rfl, rfl⟩
  | some pa =>
    dsimp only
    rw [h]
    simp only [Bool.false_eq_true, if_false]
    split_ifs with ht
    · exact ⟨MemSys.keeps_of (fun _ => contains_filter_of_not _) (fun _ h => h) fun _ h => h, rfl, rfl⟩
    · exact ⟨.refl m, rfl, rfl⟩

theorem find?_putKey_ne {α : Type} (l : List (Nat × α)) {k j : Nat} (v : α) (h : j ≠ k) :
    (putKey l k v).find? (fun x => x.1 == j) = l.find? (fun x => x.1 == j) := by
  have hk : ((k, v).1 == j) = false := by simpa using h.symm
  induction l with
  | nil => simp [putKey, h.symm]
  | cons p rest ih =>
    obtain ⟨x, y⟩ := p
    rw [putKey]
    split_ifs with h1 h2
    · rw [List.find?_cons_of_neg (by simpa using h.symm)]
    · subst h2
      rw [List.find?_cons_of_neg (by simpa using h.symm), List.find?_cons_of_neg (by simpa using h.symm)]
    · rw [List.find?_cons, List.find?_cons, ih]

theorem MemSys.bank_setBank (m : MemSys) (b j : Nat) (x : Bank) : (m.setBank b x).bank j = if j = b then x else m.bank j := by
  unfold MemSys.bank MemSys.setBank
  split_ifs with h
  · subst h
    rw [find?_putKey]
  · rw [find?_putKey_ne _ _ h]

theorem MemSys.keeps_setBank_full (m : MemSys) (b : Nat) {x : Bank} (hx : x.st = .full) : m.Keeps (m.setBank b x) :=
  MemSys.keeps_of (fun _ h => h) (fun j h => by rw [MemSys.bank_setBank]; split_ifs; exacts [hx, h]) fun _ h => h

/-- A write goes at a FULL bank, which stays FULL. -/
theorem MemSys.writeGate_full {m : MemSys} {pa : Nat} (now : Nat) (h : (m.bank (spadBank pa)).st = .full) :
    ∃ m', m.writeGate now pa = (m', .go) ∧ m.Stays m' :=
  ⟨m.setBank (spadBank pa) { m.bank (spadBank pa) with busyAt := now }, by simp only [MemSys.writeGate, h], rfl, m.keeps_setBank_full _ h⟩

/-! What a write leaves. -/

theorem MemSys.evict_keeps (m : MemSys) (line : Nat) : m.Keeps (m.evict line) := by
  unfold MemSys.evict
  split
  · exact .refl m
  · dsimp only
    split_ifs
    · exact MemSys.keeps_of (fun _ h => h) (fun _ h => h) fun _ => contains_filter_of_not _
    · exact MemSys.keeps_of_eq rfl rfl rfl

theorem MemSys.makeRoom_keeps (m : MemSys) (line : Nat) : m.Keeps (m.makeRoom line) := by
  unfold MemSys.makeRoom
  dsimp only
  split
  · exact .refl m
  · split
    · next x _ => exact (MemSys.evict_keeps m x.line).trans (MemSys.keeps_of_eq rfl rfl rfl)
    · exact .refl m

/-- The write of a line in which no error stands leaves the bytes at its home. -/
theorem MemSys.atHome_write {m : MemSys} {line : Nat} (h : m.bad.contains line = false) (tag n : Nat) (full : Bool) :
    m.Stays (m.atHome tag line n true full) := by
  unfold MemSys.atHome
  extract_lets held late hit m1 m2 m3 m4
  have h2 : m.Stays m2 ∧ m2.bad = m.bad := by
    simp only [m2]
    split_ifs <;> exact ⟨⟨rfl, MemSys.keeps_of_eq rfl rfl rfl⟩, rfl⟩
  have h3 : m.Stays m3 := by
    simp only [m3]
    split_ifs with hfull hlost
    · exact h2.1.trans ⟨rfl, MemSys.keeps_of (fun _ h => h) (fun _ h => h) fun _ => contains_filter_of_not _⟩
    · rw [h2.2, h] at hlost
      simp at hlost
    · exact h2.1
  have h4 : m.Stays m4 := h3.trans ⟨MemSys.makeRoom_bytes m3 line, MemSys.makeRoom_keeps m3 line⟩
  simp only [if_true]
  split_ifs
  · exact h3.trans ⟨rfl, MemSys.keeps_of_eq (m := m3) rfl rfl rfl⟩
  · exact h4.trans ⟨rfl, MemSys.keeps_of_eq (m := m4) rfl rfl rfl⟩

/-- Memory after bytes are laid at an address, which takes what it took. -/
structure MemSys.Lays (m m' : MemSys) (pa : Nat) (bs : List Byte) : Prop where
  bytes : m'.bytes = Memory.setAll m.bytes pa bs
  keeps : m.Keeps m'

theorem MemSys.spadWrite_lays (bs : List Byte) (m : MemSys) (pa : Nat) : m.Lays (m.spadWrite pa bs) pa bs := by
  induction bs generalizing m pa with
  | nil => exact ⟨rfl, .refl m⟩
  | cons b rest ih =>
    rw [MemSys.spadWrite]
    refine ⟨(ih _ _).bytes, MemSys.Keeps.trans ?_ (ih _ _).keeps⟩
    exact MemSys.keeps_of_eq rfl rfl rfl

theorem MemSys.enliven_stays (m : MemSys) (page tag : Nat) : m.Stays (m.enliven page tag) := by
  unfold MemSys.enliven
  dsimp only
  split_ifs <;> exact ⟨rfl, MemSys.keeps_of_eq rfl rfl rfl⟩

theorem MemSys.refuses_of_no_target (m : MemSys) {pa : Nat} (h : target pa = none) : m.refuses pa = true := by
  rw [MemSys.refuses, h]

/-- A write where memory takes it lays its bytes. -/
theorem MemSys.write_lays {m : MemSys} {pa : Nat} (h : m.Takes pa) (now tag : Nat) (bs : List Byte) (poison : Bool) :
    m.Lays (m.write now tag pa bs poison).1 pa bs := by
  unfold MemSys.write
  cases ht : target pa with
  | none => exact absurd (m.refuses_of_no_target ht) (by simp [h.mapped])
  | some r => cases r with
    | dram =>
      obtain ⟨hb, hk⟩ := MemSys.atHome_write h.sound tag bs.length (bs.length == 64)
      exact ⟨by simp only [hb], hk.trans (MemSys.keeps_of_eq rfl rfl rfl)⟩
    | spad =>
      obtain ⟨m', hgate, hstay⟩ := MemSys.writeGate_full now (h.full ht)
      have hlive := hstay.trans (m'.enliven_stays (pa / 4096) tag)
      obtain ⟨hb, hk⟩ := MemSys.spadWrite_lays bs (m'.enliven (pa / 4096) tag) pa
      simp only [hgate]
      exact ⟨by rw [← hlive.bytes]; exact hb, (hlive.keeps.trans hk).trans (MemSys.keeps_of_eq rfl rfl rfl)⟩
    | host => exact ⟨rfl, MemSys.keeps_of_eq rfl rfl rfl⟩

/-- The bytes that a write under masks leaves. -/
def mixed (m : List Host.Cell) (pa : Nat) (masks news : List Byte) : List Byte :=
  (List.range news.length).map (fun i => mixByte (Memory.get m (pa + i)) (masks.getD i 0) (news.getD i 0))

/-- A write of bits outside the scratchpad where memory takes it lays its bytes under their masks. -/
theorem MemSys.writeBits_lays {m : MemSys} {pa : Nat} (h : m.Takes pa) (hs : target pa ≠ some .spad) (now tag : Nat) (masks news : List Byte) (poison : Bool) :
    m.Lays (m.writeBits now tag pa masks news poison).1 pa (mixed m.bytes pa masks news) := by
  unfold MemSys.writeBits
  cases ht : target pa with
  | none => exact absurd (m.refuses_of_no_target ht) (by simp [h.mapped])
  | some r => cases r with
    | dram =>
      obtain ⟨hb, hk⟩ := MemSys.atHome_write h.sound tag news.length false
      exact ⟨by simp only [hb, mixed], hk.trans (MemSys.keeps_of_eq rfl rfl rfl)⟩
    | spad => exact absurd ht hs
    | host => exact ⟨rfl, MemSys.keeps_of_eq rfl rfl rfl⟩

theorem mixByte_full (old new : Byte) : mixByte old 0xFF new = new := by
  show (old &&& ~~~BitVec.allOnes 8) ||| (new &&& BitVec.allOnes 8) = new
  rw [BitVec.not_allOnes, BitVec.and_zero, BitVec.zero_or, BitVec.and_allOnes]

/-- Whole bytes laid under masks are the bytes. -/
theorem mixed_full (m : List Host.Cell) (pa : Nat) {masks news : List Byte} (hl : masks.length = news.length) (h : masks.all (· == 0xFF) = true) :
    mixed m pa masks news = news := by
  refine List.ext_getElem (by simp [mixed]) fun i hi hi' => ?_
  have hm : masks.getD i 0 = 0xFF := by
    rw [List.getD_eq_getElem _ _ (hl ▸ hi')]
    simpa using List.all_eq_true.mp h _ (List.getElem_mem (hl ▸ hi'))
  simp only [mixed, List.getElem_map, List.getElem_range, hm, mixByte_full]
  exact List.getD_eq_getElem _ _ hi'

/-- One line of a write of elements. -/
theorem MemSys.writeElems_lays {m : MemSys} {pa : Nat} (h : m.Takes pa) {masks news : List Byte} (hl : masks.length = news.length)
    (hs : target pa ≠ some .spad ∨ ∀ b ∈ masks, b = 0xFF) (now tag : Nat) (poison : Bool) :
    m.Lays (if masks.all (· == 0xFF) then m.write now tag pa news poison else m.writeBits now tag pa masks news poison).1 pa (mixed m.bytes pa masks news) := by
  split_ifs with hall
  · rw [mixed_full m.bytes pa hl hall]
    exact MemSys.write_lays h now tag news poison
  · refine MemSys.writeBits_lays h (hs.resolve_right fun hff => hall ?_) now tag masks news poison
    exact List.all_eq_true.mpr fun b hb => by simp [hff b hb]

end Sys2Proof.Machine
end

section
/-! PROOFS. An agent's write of elements where its requests land -/

namespace Sys2Proof.Machine

/-- The translation of a request at a physical address, unversioned. -/
def spanAt (pa : Nat → Nat) (x : Nat × Nat) : Span := ⟨x.1, x.2, pa x.1, false⟩

/-- Only the tiles decide what a lookup answers. -/
theorem lookup_congr {m m' : MemSys} (h : m'.tlb = m.tlb) (ws : List Window) (die ctx va : Nat) (n : Need) :
    m'.lookup ws die ctx va n = m.lookup ws die ctx va n := by
  unfold MemSys.lookup MemSys.tileHit
  rw [h]

/-- Requests that land are translated, each to its address. -/
theorem spans_lands {e : Eng} {n : Need} {pa : Nat → Nat} {l : List (Nat × Nat)} {s : State}
    (h : ∀ x ∈ l, s.mem.lookup (s.winsOf e) (e.cell / 1024 % 4) e.ctx x.1 n = .ok (pa x.1) false ∧ s.mem.Takes (pa x.1)) (acc : List Span) :
    ∃ m, s.spans e n l acc = ({ s with mem := m }, .ok (acc.reverse ++ l.map (spanAt pa))) ∧ s.mem.Stays m := by
  induction l generalizing s acc with
  | nil => exact ⟨s.mem, by simp [State.spans], .refl _⟩
  | cons x rest ih =>
    obtain ⟨hlook, htake⟩ := h x List.mem_cons_self
    obtain ⟨hkeep, hbytes, htlb⟩ := s.mem.notePage_unversioned (p := ⟨x.1, x.2, some (pa x.1), false, 0, none, false⟩) rfl
    obtain ⟨m, hm, hstay⟩ := ih (s := { s with mem := s.mem.notePage ⟨x.1, x.2, some (pa x.1), false, 0, none, false⟩ }) (fun y hy => by
      obtain ⟨hl, ht⟩ := h y (List.mem_cons_of_mem x hy)
      exact ⟨(lookup_congr htlb _ _ _ _ _).trans hl, hkeep _ ht⟩) (spanAt pa x :: acc)
    refine ⟨m, ?_, MemSys.Stays.trans ⟨hbytes, hkeep⟩ hstay⟩
    have htr : s.mem.translate s.cycle (s.winsOf e) (e.cell / 1024 % 4) e.ctx (s.ctxRegs e.ctx).ptRoot x.1 n = (s.mem, .ok (pa x.1) false) := by
      simp only [MemSys.translate, hlook]
    have hadm : s.mem.forbidden ⟨x.1, x.2, some (pa x.1), false, 0, none, false⟩ = false := htake.mapped
    rw [State.spans]
    simp only [htr, hadm, Bool.false_eq_true, if_false]
    refine hm.trans ?_
    simp

/-- Banks that take writes let them go. -/
theorem gates_takes {pa : Nat → Nat} {l : List (Nat × Nat)} {m : MemSys} (h : ∀ x ∈ l, m.Takes (pa x.1)) (now : Nat) :
    ∃ m', m.gates now true (l.map (spanAt pa)) = (m', true) ∧ m.Stays m' := by
  induction l generalizing m with
  | nil => exact ⟨m, rfl, .refl m⟩
  | cons x rest ih =>
    have hrest := fun y hy => h y (List.mem_cons_of_mem x hy)
    rw [List.map_cons, MemSys.gates]
    cases ht : target (spanAt pa x).pa with
    | none => exact ih hrest
    | some r => cases r with
      | dram => exact ih hrest
      | host => exact ih hrest
      | spad =>
        obtain ⟨m', hgate, hstay⟩ := MemSys.writeGate_full now ((h x List.mem_cons_self).full ht)
        obtain ⟨m'', hm'', hstay'⟩ := ih fun y hy => hstay.keeps _ (hrest y hy)
        refine ⟨m'', ?_, hstay.trans hstay'⟩
        have hgate' : m.writeGate now (spanAt pa x).pa = (m', .go) := hgate
        simp only [if_true, hgate', hm'']
        rfl

/-- A write whose requests land reaches them. -/
theorem reach_lands {s : State} {e : Eng} {pa : Nat → Nat} {va n : Nat} (h : Lands s e .store pa (lineChunks va n)) :
    ∃ m, s.reach e .store [(va, n)] = ({ s with mem := m }, .ok ((lineChunks va n).map (spanAt pa))) ∧ s.mem.Stays m := by
  have htakes : ∀ x ∈ lineChunks va n, s.mem.Takes (pa x.1) := fun x hx => ⟨(h x hx).2.1, (h x hx).2.2.1, (h x hx).2.2.2⟩
  obtain ⟨m, hm, hstay⟩ := spans_lands (fun x hx => ⟨(h x hx).1, htakes x hx⟩) []
  obtain ⟨m', hm', hstay'⟩ := gates_takes (fun x hx => hstay.keeps _ (htakes x hx)) s.cycle
  refine ⟨m', ?_, hstay.trans hstay'⟩
  have hflat : [(va, n)].flatMap (fun r => lineChunks r.1 r.2) = lineChunks va n := by simp
  rw [List.reverse_nil, List.nil_append] at hm
  simp only [State.reach, hflat, hm]
  simp only [Need.store, hm', if_true]

/-- A line's part of bytes under masks. -/
theorem mixed_take (m : List Host.Cell) (pa : Nat) {n : Nat} {masks news : List Byte} (h : n ≤ news.length) :
    mixed m pa (masks.take n) (news.take n) = (List.range n).map (fun i => mixByte (Memory.get m (pa + i)) (masks.getD i 0) (news.getD i 0)) := by
  rw [mixed, List.length_take, Nat.min_eq_left h]
  refine List.map_congr_left fun i hi => ?_
  have hlt : i < n := List.mem_range.mp hi
  simp only [List.getD_eq_getElem?_getD, List.getElem?_take_of_lt hlt]

/-- The lines of a write of elements take their bytes in order (R222, R261). -/
theorem scatterBits_lays {pa : Nat → Nat} {l : List (Nat × Nat)} {m : MemSys} {bytes : List RByte} {masks : List Byte} (ht : ∀ x ∈ l, m.Takes (pa x.1))
    (hs : ∀ x ∈ l, target (pa x.1) ≠ some .spad ∨ ∀ b ∈ masks, b = 0xFF) (hsum : (l.map (fun x => x.2)).sum = bytes.length)
    (hlen : masks.length = bytes.length) (now tag : Nat) :
    (m.scatterBits now tag (l.map (spanAt pa)) bytes masks).1.bytes = mixLines pa l (bytes.map (fun b => b.b)) masks m.bytes := by
  induction l generalizing m bytes masks with
  | nil => rfl
  | cons x rest ih =>
    have hx : x.2 ≤ bytes.length := by rw [← hsum]; simp
    obtain ⟨hb, hk⟩ := MemSys.writeElems_lays (ht x List.mem_cons_self) (masks := masks.take x.2) (news := (bytes.take x.2).map (fun b => b.b))
      (by simp [hlen]) ((hs x List.mem_cons_self).imp_right fun hff b hb => hff b (List.mem_of_mem_take hb)) now tag ((bytes.take x.2).any (fun b => b.bad))
    rw [List.map_cons, MemSys.scatterBits]
    refine (ih (fun y hy => hk _ (ht y (List.mem_cons_of_mem x hy))) (fun y hy => (hs y (List.mem_cons_of_mem x hy)).imp_right
      fun hff b hb => hff b (List.mem_of_mem_drop hb)) (by simp [← hsum, spanAt]) (by simp [hlen])).trans ?_
    rw [mixLines, ← mixed_take _ _ (by simpa using hx), ← List.map_take, ← List.map_drop]
    exact congrArg _ hb

/-- A write of elements where its requests land is done, and lays its bits over them. -/
theorem putEng_lands {s : State} {e : Eng} {w : EngPut} {pa : Nat → Nat} (h : Lands s e .store pa (lineChunks w.va w.bytes.length))
    (hs : ∀ x ∈ lineChunks w.va w.bytes.length, target (pa x.1) ≠ some .spad ∨ ∀ b ∈ w.masks, b = 0xFF) (hlen : w.masks.length = w.bytes.length) :
    (s.putEng e w).2.2 = .done ∧
    (s.putEng e w).1.mem.bytes = mixLines pa (lineChunks w.va w.bytes.length) (w.bytes.map (fun b => b.b)) w.masks s.mem.bytes := by
  obtain ⟨m, hm, hstay⟩ := reach_lands h
  have htakes : ∀ x ∈ lineChunks w.va w.bytes.length, m.Takes (pa x.1) := fun x hx => hstay.keeps _ ⟨(h x hx).2.1, (h x hx).2.2.1, (h x hx).2.2.2⟩
  rw [State.putEng, hm]
  refine ⟨rfl, ?_⟩
  refine (congrArg MemSys.bytes (sameWork_engSinks _ _ _ _ _).mem).trans ?_
  have hmoves := (sameWork_moves { s with mem := m } e ((lineChunks w.va w.bytes.length).map (spanAt pa))).mem
  rw [hmoves]
  exact (scatterBits_lays htakes hs (lineChunks_sum _ _) hlen _ _).trans (by rw [hstay.bytes])

end Sys2Proof.Machine
end

section
/-! PROOFS. Operations of systolic regions: their start, their rows and their end (R252, R254) -/

namespace Sys2Proof.Machine

/-! Regions and systolic regions. -/

theorem region?_updRegion (s : State) (rid : Nat) {f : Region → Region} (hf : ∀ r, (f r).rid = r.rid) :
    (s.updRegion rid f).region? rid = (s.region? rid).map f := by
  have hp : ((fun r : Region => r.rid == rid) ∘ fun r => if r.rid == rid then f r else r) = fun r => r.rid == rid := by
    funext r
    simp only [Function.comp]
    split_ifs
    · rw [hf]
    · rfl
  unfold State.updRegion State.region?
  rw [List.find?_map, hp]
  cases hr : s.regions.find? (fun r => r.rid == rid) with
  | none => rfl
  | some r => simp only [Option.map_some, if_pos (List.find?_some hr)]

theorem sysAt_congr {s t : State} (h : t.regions = s.regions) (rid k : Nat) : t.sysAt rid k = s.sysAt rid k := by
  unfold State.sysAt State.region?
  rw [h]

/-- An update of a systolic region in use is read back. -/
theorem sysAt_updSys {s : State} {rid k : Nat} (h : (s.sysAt rid k).queue ≠ []) (f : Systolic → Systolic) :
    (s.updSys rid k f).sysAt rid k = f (s.sysAt rid k) := by
  have hreg := region?_updRegion s rid (f := fun r => { r with sys := r.sys.modify k f }) fun _ => rfl
  unfold State.sysAt at h ⊢
  unfold State.updSys
  rw [hreg]
  cases hr : s.region? rid with
  | none => rw [hr] at h; exact absurd rfl h
  | some r =>
    rw [hr] at h
    dsimp only [Option.map_some] at h ⊢
    rcases lt_or_ge k r.sys.length with hk | hk
    · simp [List.getD, hk]
    · rw [List.getD_eq_default _ _ hk] at h
      exact absurd rfl h

theorem holdSlots_regions (s : State) (rid : Nat) : (s.holdSlots rid).regions = s.regions := by
  unfold State.holdSlots
  split <;> rfl

theorem holdSlots_cmds (s : State) (rid : Nat) : (s.holdSlots rid).cmds = s.cmds := by
  unfold State.holdSlots
  split <;> rfl

theorem holdSlots_mem (s : State) (rid : Nat) : (s.holdSlots rid).mem = s.mem := by
  unfold State.holdSlots
  split <;> rfl

/-- Holding slots changes nothing of a cell but the slots held. -/
theorem holdSlots_cells_map {β : Type} (s : State) (rid : Nat) (g : Cell → β) (hg : ∀ (c : Cell) l, g { c with held0 := l } = g c) :
    (s.holdSlots rid).cells.map g = s.cells.map g := by
  unfold State.holdSlots
  split
  · rfl
  · rw [List.map_map]
    refine List.map_congr_left fun c _ => ?_
    simp only [Function.comp]
    split_ifs
    · exact hg c _
    · exact hg c _
    · rfl

theorem sameWork_holdSlots (s : State) (rid : Nat) : SameWork s (s.holdSlots rid) :=
  ⟨holdSlots_cells_map s rid Cell.grid fun _ _ => rfl, holdSlots_mem s rid⟩

theorem sweepWedge_channels (s : State) (rid : Nat) (y : Systolic) : (s.sweepWedge rid y).cells.map Cell.channels = s.cells.map Cell.channels := by
  unfold State.sweepWedge
  rw [List.map_map]
  refine List.map_congr_left fun c _ => ?_
  simp only [Function.comp]
  split_ifs <;> rfl

/-! The start of an operation. -/

section
variable {s : State} {rid k : Nat} {x : SysOp} {rest : List SysOp}

/-- What an operation's start leaves in the state, once its weights are in place. -/
theorem startOp_leaves {t : State} (hq : (s.sysAt rid k).queue = x :: rest) (hreg : t.regions = s.regions) (hmem : t.mem = s.mem)
    (hch : t.cells.map Cell.channels = s.cells.map Cell.channels) (x' : SysOp) : SameMemory s ((t.putOp rid k 0 x').holdSlots rid) ∧
      SameChannels s ((t.putOp rid k 0 x').holdSlots rid) ∧ (((t.putOp rid k 0 x').holdSlots rid).sysAt rid k).queue = x' :: rest := by
  have hq' : (t.sysAt rid k).queue = x :: rest := by rw [sysAt_congr hreg, hq]
  refine ⟨sameMemory_of_eq ((holdSlots_mem _ _).trans hmem), (holdSlots_cells_map _ _ Cell.channels fun _ _ => rfl).trans hch, ?_⟩
  rw [sysAt_congr (holdSlots_regions _ _), State.putOp, sysAt_updSys (by rw [hq']; simp), hq']
  rfl

/-- The operation at the head of a queue whose weights are in place starts; one that keeps the weights sweeps no wedge (R252). -/
theorem matrixOpStart_steps (hq : (s.sysAt rid k).queue = x :: rest) (hst : x.started = false) (hh : x.eng.held = none)
    (hb : (s.sysAt rid k).busy ≤ s.cycle) (h0 : x.status = 0) (hbands : x.bands = [])
    (hr : x.loaded = 0 → s.opRefused rid (s.sysAt rid k) (matOf x.desc x.instr) = false) :
    ((matOf x.desc x.instr).keepw = true → ∃ t, exec (.matrixOpStart rid k) s = .next t ∧ SameMemory s t ∧ SameChannels s t ∧
      (t.sysAt rid k).queue = { x with started := true, swept := s.cycle } :: rest) ∧
    ((matOf x.desc x.instr).keepw = false → 4 * (s.sysAt rid k).h ≤ x.loaded → ∃ t, exec (.matrixOpStart rid k) s = .next t ∧ SameMemory s t ∧ SameChannels s t ∧
      (t.sysAt rid k).queue = { x with started := true, swept := s.cycle + (s.sysAt rid k).w + (s.sysAt rid k).h - 1 } :: rest) := by
  have hidx : (x :: rest).findIdx? (fun x => !x.started) = some 0 := by simp [List.findIdx?_cons, hst]
  have href : ¬(x.loaded = 0 ∧ s.opRefused rid (s.sysAt rid k) (matOf x.desc x.instr) = true) := fun h => by simp [hr h.1] at h
  have hbusy : ¬s.cycle < (s.sysAt rid k).busy := not_lt.mpr hb
  constructor
  · intro hk
    refine ⟨_, ?_, startOp_leaves (t := s) hq rfl rfl rfl _⟩
    simp [exec_matrixOpStart, execMatrixOpStart, hq, hidx, hh, hbusy, h0, hbands, href, hk]
  · intro hk hl
    refine ⟨_, ?_, startOp_leaves (t := s.sweepWedge rid (s.sysAt rid k)) hq rfl rfl (sweepWedge_channels s rid _) _⟩
    simp [exec_matrixOpStart, execMatrixOpStart, hq, hidx, hh, hbusy, h0, hbands, href, hk, not_lt.mpr hl]

end

/-! The turn of an operation in progress. -/

theorem sameWork_putOp (s : State) (rid k i : Nat) (x : SysOp) : SameWork s (s.putOp rid k i x) := sameWork_of_eq rfl rfl

theorem sameWork_keepFlags (s : State) (e : Eng) : SameWork s (s.keepFlags e) := sameWork_of_eq rfl rfl

theorem sameWork_endOp (s : State) (rid k : Nat) (x : SysOp) : SameWork s (s.endOp rid k x) := by
  have hqueue : SameWork s (((s.keepFlags x.eng).updSys rid k (fun y => { y with queue := y.queue.tail, row := x.row })).holdSlots rid) :=
    SameWork.trans (t := (s.keepFlags x.eng).updSys rid k (fun y => { y with queue := y.queue.tail, row := x.row })) (sameWork_of_eq rfl rfl) (sameWork_holdSlots _ rid)
  unfold State.endOp
  dsimp only
  split
  · exact hqueue.trans (sameWork_of_eq rfl rfl)
  · split
    · exact hqueue
    · split
      · exact hqueue.trans (sameWork_of_eq rfl rfl)
      · exact hqueue.trans (sameWork_of_eq (reply_cells _ _ _ _) (reply_mem _ _ _ _))

/-- What follows a turn: the operation and what it has logged are kept, and it ends where it has nothing more to do. -/
def State.afterTurn (rid k : Nat) (r : State × SysOp) : State :=
  if r.2.finished then ((r.1.putOp rid k 0 r.2).keepFlags r.2.eng).endOp rid k r.2 else (r.1.putOp rid k 0 r.2).keepFlags r.2.eng

theorem sameWork_afterTurn (rid k : Nat) (r : State × SysOp) : SameWork r.1 (State.afterTurn rid k r) := by
  have hkeep : SameWork r.1 ((r.1.putOp rid k 0 r.2).keepFlags r.2.eng) := (sameWork_putOp r.1 rid k 0 r.2).trans (sameWork_keepFlags _ _)
  unfold State.afterTurn
  split_ifs
  · exact hkeep.trans (sameWork_endOp _ rid k r.2)
  · exact hkeep

section
variable {s : State} {rid k : Nat} {x : SysOp} {rest : List SysOp}

/-- A started operation at the head of its queue that holds no fault takes a turn once its wedge has swept (R252). -/
theorem matrixOpComplete_turn (hq : (s.sysAt rid k).queue = x :: rest) (hst : x.started = true) (hh : x.eng.held = none) (hsw : x.swept ≤ s.cycle)
    (h0 : x.status = 0) : exec (.matrixOpComplete rid k) s =
      .next (State.afterTurn rid k (s.opTurn rid (s.sysAt rid k) { x with eng := s.shareFlags x.eng })) := by
  have hswept : ¬s.cycle < x.swept := not_lt.mpr hsw
  have hstatus : ¬(x.status ≠ 0 ∧ x.out.isNone = true) := fun h => h.1 h0
  rw [exec_matrixOpComplete, execMatrixOpComplete]
  simp only [hq, hh, hst, Option.isSome_none, Bool.false_or, decide_eq_true_eq, hswept, hstatus, if_false, Bool.not_true, Bool.false_eq_true]
  exact (apply_ite Host.Outcome.next _ _ _).symm

/-- An operation of a command that ends without a fault leaves its queue, and the command has result 0 (R254). -/
theorem endOp_of_cmd {slot : Nat} {y : SysOp} (hq : (s.sysAt rid k).queue = y :: rest) (hc : x.cmd = some slot) (h0 : x.status = 0) :
    (s.endOp rid k x).mem = s.mem ∧ (s.endOp rid k x).cells.map Cell.channels = s.cells.map Cell.channels ∧
    ((s.endOp rid k x).sysAt rid k).queue = rest ∧ ∀ z ∈ (s.endOp rid k x).cmds, z.slot = slot → z.result = some 0 := by
  have hq' : ((s.keepFlags x.eng).sysAt rid k).queue = y :: rest := hq
  unfold State.endOp
  simp only [hc, h0, if_true]
  refine ⟨holdSlots_mem _ _, holdSlots_cells_map _ _ Cell.channels fun _ _ => rfl, ?_, fun z hz hslot => ?_⟩
  · refine (congrArg Systolic.queue (sysAt_congr (holdSlots_regions _ _) rid k)).trans ?_
    rw [sysAt_updSys (by rw [hq']; simp), hq']
    rfl
  · obtain ⟨c, -, rfl⟩ := List.mem_map.mp hz
    split_ifs at hslot ⊢ with h
    · rfl
    · exact absurd hslot h

/-- A dense operation of a command that has run its last row leaves its queue, and the command has its result (R252, R254). -/
theorem matrixOpComplete_ends {slot : Nat} (hq : (s.sysAt rid k).queue = x :: rest) (hst : x.started = true) (hh : x.eng.held = none)
    (hsw : x.swept ≤ s.cycle) (h0 : x.status = 0) (hbands : x.bands = []) (hout : x.out = none) (hrow : (matOf x.desc x.instr).m ≤ x.row)
    (hi : x.instr = none) (hc : x.cmd = some slot) : ∃ t, exec (.matrixOpComplete rid k) s = .next t ∧ SameMemory s t ∧ SameChannels s t ∧
      (t.sysAt rid k).queue = rest ∧ ∀ y ∈ t.cmds, y.slot = slot → y.result = some 0 := by
  refine ⟨_, matrixOpComplete_turn hq hst hh hsw h0, ?_⟩
  have hturn : s.opTurn rid (s.sysAt rid k) { x with eng := s.shareFlags x.eng } = (s, { x with eng := s.shareFlags x.eng }) := by
    simp only [State.opTurn, hout, hbands, if_neg (not_lt.mpr hrow)]
  have hfin : ({ x with eng := s.shareFlags x.eng } : SysOp).finished = true := by
    rw [hi] at hrow
    simp [SysOp.finished, hout, hbands, hi, hrow]
  have hput : ((s.putOp rid k 0 { x with eng := s.shareFlags x.eng }).sysAt rid k).queue = { x with eng := s.shareFlags x.eng } :: rest := by
    rw [State.putOp, sysAt_updSys (by rw [hq]; simp), hq]
    rfl
  rw [hturn, State.afterTurn, if_pos hfin]
  obtain ⟨hm, hch, hqueue, hcmds⟩ := endOp_of_cmd (s := (s.putOp rid k 0 { x with eng := s.shareFlags x.eng }).keepFlags (s.shareFlags x.eng))
    (x := { x with eng := s.shareFlags x.eng }) hput hc h0
  exact ⟨sameMemory_of_eq hm, hch, hqueue, hcmds⟩

end

end Sys2Proof.Machine
end

section
/-! PROOFS. A row of a dense operation (R252): what it computes, leaves at the south edge and writes -/

namespace Sys2Proof.Machine

/-! What the grid decides. -/

theorem State.Shaped.of_grid {s t : State} (h : s.Shaped) (hg : SameGrid s t) : t.Shaped := by
  constructor
  · have hnums := congrArg (List.map (fun g : Nat × Nat × Nat × Nat × List Pe × List Port => g.1)) hg
    simp only [List.map_map] at hnums
    exact hnums ▸ h.nodup
  · intro c hc
    have hmem : c.grid ∈ s.cells.map Cell.grid := hg ▸ List.mem_map_of_mem hc
    obtain ⟨d, hd, hdc⟩ := List.mem_map.mp hmem
    have hpes : d.pes = c.pes := congrArg (fun g : Nat × Nat × Nat × Nat × List Pe × List Port => g.2.2.2.2.1) hdc
    exact hpes ▸ h.pes d hd

theorem SameGrid.sysPe_isSome {s t : State} (h : SameGrid s t) (rid : Nat) (y : Systolic) (k c : Nat) :
    (t.sysPe rid y k c).isSome = (s.sysPe rid y k c).isSome := by
  have := congrArg Option.isSome (h.cellAt rid (y.x0 + c / 4) (y.y0 + k / 4))
  simpa [State.sysPe] using this

/-! The products of a row. -/

theorem mapIdx_map_range {α β : Type} (k : Nat) (f : Nat → α) (g : Nat → α → β) : ((List.range k).map f).mapIdx g = (List.range k).map (fun i => g i (f i)) :=
  List.ext_getElem (by simp) fun i _ _ => by simp

/-- What an output column of a row is, with the flags raised on the way, as `runRow` computes it. -/
def State.rowLane (s : State) (rid : Nat) (y : Systolic) (o : MatOp) (l : List RByte) (e : Eng) (n : Nat) : Lane × Word :=
  let start := s.initLane rid y o (o.path y.wf == .int) (l.drop (packedBytes (o.af.getD .fp32) o.k + if o.mxa then blocks32 o.k else 0)) e n
  let acc := accumulateTerms (o.path y.wf) (o.mxa || o.mxb) start.1 (matTerms s rid y o l e n)
  (acc.1, start.2 ||| acc.2)

theorem SameGrid.rowLane {s t : State} (h : SameGrid s t) (rid : Nat) (y : Systolic) (o : MatOp) (l : List RByte) (e : Eng) (n : Nat) :
    t.rowLane rid y o l e n = s.rowLane rid y o l e n := by
  simp only [State.rowLane, matTerms, h.initLane, h.sysWeights]

theorem rowLane_fst (s : State) (rid : Nat) (y : Systolic) (o : MatOp) (l : List RByte) (e : Eng) (n : Nat) :
    (s.rowLane rid y o l e n).1 = matLane s rid y o l e n := rfl

/-- A row whose operands have been read is computed column by column (R74, R252). -/
theorem runRow_bytes {s s2 : State} {rid : Nat} {y : Systolic} {o : MatOp} {x : SysOp} {e : Eng} {l : List RByte} (hn : o.n ≤ 512 * y.w)
    (hread : s.readEng x.eng (elemStart (o.af.getD .fp32).width [o.aRow (o.af.getD .fp32) x.row])
      (o.rowRanges (o.af.getD .fp32) x.row ++ (if o.init && !o.isRow then [o.entryRange x.row 0 o.n] else [])) = (s2, e, .bytes l)) :
    s.runRow rid y o x = s2.finishRow rid y o { x with eng := e } x.row 0 (o.k * o.n) ((List.range o.n).map (s2.rowLane rid y o l e)) true := by
  unfold State.runRow
  dsimp only
  rw [hread]
  dsimp only
  congr 1
  refine List.map_congr_left fun n hmem => ?_
  have hcol : n / 128 < 4 * y.w := by have := List.mem_range.mp hmem; omega
  have hw : ∀ k, ((List.range (4 * y.w)).map (fun c => s2.sysWeights rid y k c)).getD (n / 128) .zero = s2.sysWeights rid y k (n / 128) := by
    intro k
    simp [List.getD, hcol]
  rw [List.zip_map', mapIdx_map_range]
  simp only [hw]
  rfl

/-! What follows the products. -/

theorem outElems_fst (o : MatOp) (int : Bool) (lanes : List Lane) : (o.outElems int lanes).1 = lanes.map (matOut1 o int) := by
  simp only [MatOp.outElems, List.map_map]
  refine List.map_congr_left fun x _ => ?_
  simp only [Function.comp, matOut1]
  split_ifs <;> rfl

theorem writeRow_fst (s : State) (x : SysOp) (w : EngPut) : (s.writeRow x w).1 = (s.putEng x.eng w).1 := by
  unfold State.writeRow
  split <;> next h => rw [h]

theorem matOut_acc_lt (i : Option Instr) (flags : Nat) : (matOut i flags).2.2 < 4 := by
  unfold matOut
  split
  · exact BitVec.isLt _
  · exact BitVec.isLt _
  · exact BitVec.isLt _
  · exact Nat.mod_lt _ (by decide)

/-- The state of a row after its charge and flags. -/
def State.billed (s : State) (y : Systolic) (o : MatOp) (e : Eng) (work : Nat) (lanes : List (Lane × Word)) : State :=
  (s.chargeRow e (o.af.getD .fp32) work).engFlags e
    (allFlags lanes ||| (if o.c = 0 then 0 else (o.outElems (o.path y.wf == .int) (lanes.map (fun l => l.1))).2))

/-- The write of a row of C, by its accumulators. -/
def MatOp.rowPut (o : MatOp) (y : Systolic) (e : Eng) (row : Nat) (accs : List Lane) : EngPut :=
  let elems := accs.map (matOut1 o (o.path y.wf == .int))
  ⟨vaPlus o.c (row * o.ldc), (placeElems 0 o.outBits elems).1, (placeElems 0 o.outBits elems).2, (accs.findSome? (fun a => a.mark)).getD e.origin,
    (elems.filter (fun x => x.2)).length⟩

/-- A row with its charge, its flags, its accumulators and its C write (R252). -/
theorem finishRow_fst (s : State) (rid : Nat) (y : Systolic) (o : MatOp) (x : SysOp) (row work : Nat) (lanes : List (Lane × Word)) :
    (s.finishRow rid y o x row 0 work lanes true).1 =
      let t := (s.billed y o x.eng work lanes).setSouth rid y o.acc (o.path y.wf == .int) ((lanes.map (fun l => l.1)).take (512 * y.w))
      if o.c = 0 then t else (t.putEng x.eng (o.rowPut y x.eng row (lanes.map (fun l => l.1)))).1 := by
  simp only [State.finishRow, if_true, Nat.zero_mul, Nat.zero_div, Nat.zero_mod, Nat.cast_zero, Int.add_zero, outElems_fst]
  split_ifs with h
  · rw [State.billed, if_pos h]
  · rw [State.billed, if_neg h]
    exact writeRow_fst _ _ _

theorem billed_grid (s : State) (y : Systolic) (o : MatOp) (e : Eng) (work : Nat) (lanes : List (Lane × Word)) : SameGrid s (s.billed y o e work lanes) :=
  (sameWork_engFlags (s.chargeRow e (o.af.getD .fp32) work) e _).grid

theorem billed_mem (s : State) (y : Systolic) (o : MatOp) (e : Eng) (work : Nat) (lanes : List (Lane × Word)) :
    (s.billed y o e work lanes).mem = s.mem.charge e.ctx 0 (66 * (work * (o.af.getD .fp32).digits)) :=
  (sameWork_engFlags (s.chargeRow e (o.af.getD .fp32) work) e _).mem

theorem sameGrid_putEng (s : State) (e : Eng) (w : EngPut) : SameGrid s (s.putEng e w).1 := by
  have h := sameGrid_of_eq (reach_cells s e .store [(w.va, w.bytes.length)])
  unfold State.putEng
  split
  · next s' spans heq =>
    rw [heq] at h
    exact h.trans ((sameWork_moves s' e spans).grid.trans (sameWork_engSinks _ e.served w.origin _ _).grid)
  · next s' code va heq =>
    rw [heq] at h
    exact h.trans (sameWork_holdEng s' e code va .store).grid
  · next s' va heq =>
    rw [heq] at h
    exact h.trans (sameWork_raiseEng s' e _ _ _ _ _).grid
  · next s' heq =>
    rw [heq] at h
    exact h.trans (sameWork_sends s' e).grid

/-- Where requests land is decided by the windows of the agent's port and by memory. -/
theorem Lands.of_charge {s t : State} {e : Eng} {n : Need} {pa : Nat → Nat} {chunks : List (Nat × Nat)} (h : Lands s e n pa chunks) {tag kind fj : Nat}
    (hm : t.mem = s.mem.charge tag kind fj) (hw : t.winsOf e = s.winsOf e) : Lands t e n pa chunks := by
  intro x hx
  rw [hm, hw]
  exact h x hx

section
variable {s : State} {rid : Nat} {y : Systolic} {o : MatOp} {x : SysOp} {row work : Nat} {lanes : List (Lane × Word)}

/-- The state in which a row writes C. -/
theorem rowState_winsOf (e : Eng) (south : List Lane) (int : Bool) :
    ((s.billed y o x.eng work lanes).setSouth rid y o.acc int south).winsOf e = s.winsOf e :=
  (winsOf_congr (setSouth_ports _ rid y o.acc int south) e).trans ((billed_grid s y o x.eng work lanes).winsOf e)

theorem rowState_mem (south : List Lane) (int : Bool) : ((s.billed y o x.eng work lanes).setSouth rid y o.acc int south).mem =
    s.mem.charge x.eng.ctx 0 (66 * (work * (o.af.getD .fp32).digits)) :=
  (setSouth_mem _ rid y o.acc int south).trans (billed_mem s y o x.eng work lanes)

/-- The south edge after a row: its accumulators in the first lanes, what it held in the others (R252). -/
theorem finishRow_southLane (hshape : s.Shaped) (hacc : o.acc < 4) (hcols : ∀ c < 4 * y.w, (s.sysPe rid y (4 * y.h - 1) c).isSome = true)
    {n : Nat} (hn : n < 512 * y.w) : (s.finishRow rid y o x row 0 work lanes true).1.southLane rid y o.acc n =
      ((lanes.map (fun l => l.1))[n]?).getD (s.southLane rid y o.acc n) := by
  have hgrid := billed_grid s y o x.eng work lanes
  have hsouth := southLane_setSouth (hshape.of_grid hgrid) hacc (rid := rid) (y := y) (fun c hc => (hgrid.sysPe_isSome rid y _ c).trans (hcols c hc))
    (o.path y.wf == .int) ((lanes.map (fun l => l.1)).take (512 * y.w)) hn
  rw [List.getElem?_take_of_lt hn, hgrid.southLane] at hsouth
  rw [finishRow_fst]
  dsimp only
  split_ifs
  · exact hsouth
  · exact ((sameGrid_putEng _ _ _).southLane rid y o.acc n).trans hsouth

/-- A row without a C leaves the bytes. -/
theorem finishRow_bytes_of_no_c (hc : o.c = 0) : (s.finishRow rid y o x row 0 work lanes true).1.mem.bytes = s.mem.bytes := by
  rw [finishRow_fst]
  dsimp only
  rw [if_pos hc, rowState_mem]
  rfl

/-- A row whose C write lands lays its elements there (R252). -/
theorem finishRow_bytes {bytes : List RByte} {masks : List Byte} {pa : Nat → Nat} (hc : o.c ≠ 0)
    (hp : placeElems 0 o.outBits ((lanes.map (fun l => l.1)).map (matOut1 o (o.path y.wf == .int))) = (bytes, masks))
    (hl : Lands s x.eng .store pa (lineChunks (vaPlus o.c (row * o.ldc)) bytes.length))
    (hs : ∀ c ∈ lineChunks (vaPlus o.c (row * o.ldc)) bytes.length, target (pa c.1) ≠ some .spad ∨ ∀ b ∈ masks, b = 0xFF) :
    (s.finishRow rid y o x row 0 work lanes true).1.mem.bytes =
      mixLines pa (lineChunks (vaPlus o.c (row * o.ldc)) bytes.length) (bytes.map (fun b => b.b)) masks s.mem.bytes := by
  have hput : (o.rowPut y x.eng row (lanes.map (fun l => l.1))).va = vaPlus o.c (row * o.ldc) ∧
      (o.rowPut y x.eng row (lanes.map (fun l => l.1))).bytes = bytes ∧ (o.rowPut y x.eng row (lanes.map (fun l => l.1))).masks = masks := by
    simp only [MatOp.rowPut, hp, and_self]
  obtain ⟨hva, hbytes, hmasks⟩ := hput
  have hlen : masks.length = bytes.length := by
    have := placeElems_masks_length o.outBits ((lanes.map (fun l => l.1)).map (matOut1 o (o.path y.wf == .int)))
    rwa [hp] at this
  rw [finishRow_fst]
  dsimp only
  rw [if_neg hc]
  have hwrite := putEng_lands (s := (s.billed y o x.eng work lanes).setSouth rid y o.acc (o.path y.wf == .int) ((lanes.map (fun l => l.1)).take (512 * y.w)))
    (e := x.eng) (w := o.rowPut y x.eng row (lanes.map (fun l => l.1))) (pa := pa)
  rw [hva, hbytes, hmasks] at hwrite
  rw [(hwrite (hl.of_charge (rowState_mem _ _) (rowState_winsOf _ _ _)) hs hlen).2, rowState_mem]
  rfl

end

/-- The clause of O51 about a row of a dense operation. -/
theorem matrixOpComplete_row {s : State} {rid k : Nat} {y : Systolic} {x : SysOp} {rest : List SysOp} {o : MatOp} {s2 : State} {e : Eng} {l : List RByte}
    (hy : y = s.sysAt rid k) (hq : y.queue = x :: rest) (hst : x.started = true) (hh : x.eng.held = none) (hsw : x.swept ≤ s.cycle) (h0 : x.status = 0)
    (hbands : x.bands = []) (hout : x.out = none) (ho : o = matOf x.desc x.instr) (hrow : x.row < o.m) (hn : o.n ≤ 512 * y.w)
    (hread : s.readEng (s.shareFlags x.eng) (elemStart (o.af.getD .fp32).width [o.aRow (o.af.getD .fp32) x.row])
      (o.rowRanges (o.af.getD .fp32) x.row ++ (if o.init && !o.isRow then [o.entryRange x.row 0 o.n] else [])) = (s2, e, .bytes l))
    (hshape : s.Shaped) (hcols : ∀ c < 4 * y.w, (s.sysPe rid y (4 * y.h - 1) c).isSome = true) : ∃ t, exec (.matrixOpComplete rid k) s = .next t ∧
      (∀ n < 512 * y.w, t.southLane rid y o.acc n = if n < o.n then matLane s rid y o l e n else s.southLane rid y o.acc n) ∧
      (o.c = 0 → t.mem.bytes = s2.mem.bytes) ∧
      ∀ bytes masks pa, o.c ≠ 0 → placeElems 0 o.outBits ((List.range o.n).map (fun n => matOut1 o (o.path y.wf == .int) (matLane s rid y o l e n))) = (bytes, masks) →
        Lands s2 e .store pa (lineChunks (vaPlus o.c (x.row * o.ldc)) bytes.length) →
        (∀ c ∈ lineChunks (vaPlus o.c (x.row * o.ldc)) bytes.length, target (pa c.1) ≠ some .spad ∨ ∀ b ∈ masks, b = 0xFF) →
        t.mem.bytes = mixLines pa (lineChunks (vaPlus o.c (x.row * o.ldc)) bytes.length) (bytes.map (fun b => b.b)) masks s2.mem.bytes := by
  subst hy
  have hgrid : SameGrid s s2 := by
    have := sameGrid_readEng s (s.shareFlags x.eng) (elemStart (o.af.getD .fp32).width [o.aRow (o.af.getD .fp32) x.row])
      (o.rowRanges (o.af.getD .fp32) x.row ++ (if o.init && !o.isRow then [o.entryRange x.row 0 o.n] else []))
    rwa [hread] at this
  have hturn : s.opTurn rid (s.sysAt rid k) { x with eng := s.shareFlags x.eng } = s.runRow rid (s.sysAt rid k) o { x with eng := s.shareFlags x.eng } := by
    subst ho
    simp only [State.opTurn, hout, hbands, if_pos hrow]
  have hlanes : ((List.range o.n).map (s2.rowLane rid (s.sysAt rid k) o l e)).map (fun a => a.1) = (List.range o.n).map (matLane s rid (s.sysAt rid k) o l e) := by
    rw [List.map_map]
    exact List.map_congr_left fun n _ => by rw [Function.comp_apply, hgrid.rowLane, rowLane_fst]
  refine ⟨_, matrixOpComplete_turn hq hst hh hsw h0, ?_⟩
  obtain ⟨htgrid, htmem⟩ := sameWork_afterTurn rid k (s.opTurn rid (s.sysAt rid k) { x with eng := s.shareFlags x.eng })
  rw [hturn, runRow_bytes hn hread] at htgrid htmem ⊢
  refine ⟨fun n hlt => ?_, fun hc => ?_, fun bytes masks pa hc hp hl hs => ?_⟩
  · rw [htgrid.southLane, finishRow_southLane (hshape.of_grid hgrid) (ho ▸ matOut_acc_lt _ _) (fun c hc => (hgrid.sysPe_isSome rid _ _ c).trans (hcols c hc)) hlt,
      hlanes, hgrid.southLane]
    split_ifs with hcol
    · simp [hcol]
    · rw [List.getElem?_eq_none (by simpa using hcol)]
      rfl
  · rw [htmem, finishRow_bytes_of_no_c hc]
  · rw [htmem]
    refine finishRow_bytes hc ?_ hl hs
    rw [hlanes, List.map_map]
    exact hp

end Sys2Proof.Machine
end

section
/-! PROOFS. Collectives, seams, group phases and owners (R312, R314, R319, R325) -/

namespace Sys2Proof.Machine

/-! A collective completes. -/

/-- The state that differs from another in what a completion of a participant may touch alone. -/
structure SameBeside (s t : State) : Prop where
  cells : t.cells = s.cells
  mem : t.mem = s.mem
  colls : t.colls = s.colls

theorem SameBeside.refl (s : State) : SameBeside s s := ⟨rfl, rfl, rfl⟩

theorem SameBeside.trans {s t u : State} (h : SameBeside s t) (h' : SameBeside t u) : SameBeside s u :=
  ⟨h'.cells.trans h.cells, h'.mem.trans h.mem, h'.colls.trans h.colls⟩

theorem sameBeside_collEnd (s : State) (j : Join) (status : Nat) : SameBeside s (s.collEnd j status) := by
  unfold State.collEnd
  split
  · exact ⟨rfl, rfl, rfl⟩
  · split
    · exact .refl s
    · exact ⟨reply_cells _ _ _ _, reply_mem _ _ _ _, reply_colls _ _ _ _⟩

theorem sameBeside_foldl_collEnd (l : List Join) (f : Join → Nat) (s : State) : SameBeside s (l.foldl (fun s j => s.collEnd j (f j)) s) := by
  induction l generalizing s with
  | nil => exact .refl s
  | cons j rest ih => exact (sameBeside_collEnd s j (f j)).trans (ih _)

theorem collFinish_leaves (s : State) (k : Nat) (x : Coll) (faulted : Bool) : (s.collFinish k x faulted).cells = s.cells ∧
    (s.collFinish k x faulted).mem = s.mem ∧ (s.collFinish k x faulted).colls = s.colls.eraseIdx k := by
  obtain ⟨hc, hm, hcolls⟩ := sameBeside_foldl_collEnd x.joins (x.statusOf faulted) { s with colls := s.colls.eraseIdx k }
  exact ⟨hc, hm, hcolls⟩

/-- A participant that has been read and has done its writes has nothing more to do. -/
theorem collTurns_done {s : State} {x : Coll} (allRead : Bool) {l : List (Join × Nat)} (h : ∀ z ∈ l, z.1.readDone = true ∧ z.1.status = 0 ∧ x.goal z.1 ≤ z.2) :
    s.collTurns x allRead l = (s, l) := by
  induction l with
  | nil => rfl
  | cons z rest ih =>
    obtain ⟨j, w⟩ := z
    obtain ⟨hread, hstatus, hgoal⟩ : j.readDone = true ∧ j.status = 0 ∧ x.goal j ≤ w := h (j, w) List.mem_cons_self
    have hturn : s.collTurn x allRead j w = (s, j, w) := by
      have hw : ¬w < x.goal j := not_lt.mpr hgoal
      simp [State.collTurn, hread, hstatus, hw]
    rw [State.collTurns, hturn]
    simp only [ih fun z hz => h z (List.mem_cons_of_mem _ hz)]

section
variable {s : State} {k : Nat} {x : Coll}

/-- The last turn of a collective whose participants have done all their writes (R325). -/
theorem collComplete_finish (hx : s.colls[k]? = some x) (hnpart : x.npart ≤ x.joins.length)
    (hjoins : ∀ j ∈ x.joins, j.at_ ≠ s.cycle ∧ ∀ p ∈ s.parked, ∀ q ∈ p.pends, q.stamp ≠ j.eng.stamp) (hlen : x.written.length = x.joins.length)
    (hmis : x.mismatch = false) (hread : ∀ j ∈ x.joins, j.readDone = true ∧ j.status = 0) (hgoal : ∀ z ∈ x.joins.zip x.written, x.goal z.1 ≤ z.2) :
    exec (.collComplete k) s = .next ({ s with colls := s.colls.set k x }.collFinish k x false) := by
  have hwait : x.joins.any (fun j => decide (j.at_ = s.cycle) || s.parked.any (fun p => p.pends.any (fun q => q.stamp == j.eng.stamp))) = false := by
    rw [List.any_eq_false]
    intro j hj
    obtain ⟨hat, hparked⟩ := hjoins j hj
    simpa [hat] using hparked
  have hturns : ∀ b, s.collTurns x b (x.joins.zip x.written) = (s, x.joins.zip x.written) := fun b =>
    collTurns_done b fun z hz => ⟨(hread z.1 (List.of_mem_zip hz).1).1, (hread z.1 (List.of_mem_zip hz).1).2, hgoal z hz⟩
  have hfst : (x.joins.zip x.written).map (fun y => y.1) = x.joins := List.map_fst_zip hlen.ge
  have hsnd : (x.joins.zip x.written).map (fun y => y.2) = x.written := List.map_snd_zip hlen.le
  have hfault : x.joins.any (fun j => decide (j.status = 2)) = false := by
    rw [List.any_eq_false]
    intro j hj
    simp [(hread j hj).2]
  have hall : x.joins.all (fun j => j.readDone) = true := List.all_eq_true.mpr fun j hj => (hread j hj).1
  have hdone : (x.joins.zip x.written).all (fun y => decide (x.goal y.1 ≤ y.2)) = true := List.all_eq_true.mpr fun z hz => by simpa using hgoal z hz
  rw [exec_collComplete, execCollComplete]
  simp only [hx, hwait, hmis, hturns, hfst, hsnd, hfault, hall, hdone, not_lt.mpr hnpart, decide_false, Bool.or_self, Bool.false_eq_true, if_false,
    Bool.and_self, if_true]

/-- The token of COLL, which carries no mark (log 16), leaves for its consumer as the participant completes. -/
theorem collEnd_flight {t : State} {j : Join} {p : Pend} {f op sc kind c0} (hc : j.cmd = none) (hp : t.pend.find? (fun p => p.stamp == j.eng.stamp) = some p)
    (hi : p.instr = .coll f op sc kind c0) (status : Nat) :
    (t.collEnd j status).flight = t.flight ++ t.flights p.site [(c0, ⟨BitVec.ofNat 32 status, none⟩)] := by
  unfold State.collEnd
  simp only [hc, hp, hi, State.reply_flight]
  rfl

/-- The clause of O51 about collectives. -/
theorem collComplete_steps (hx : s.colls[k]? = some x) (hnpart : x.npart ≤ x.joins.length)
    (hjoins : ∀ j ∈ x.joins, j.at_ ≠ s.cycle ∧ ∀ p ∈ s.parked, ∀ q ∈ p.pends, q.stamp ≠ j.eng.stamp) (hlen : x.written.length = x.joins.length)
    (hmis : x.mismatch = false) (hread : ∀ j ∈ x.joins, j.readDone = true ∧ j.status = 0) (hgoal : ∀ z ∈ x.joins.zip x.written, x.goal z.1 ≤ z.2) :
    (∃ t, exec (.collComplete k) s = .next t ∧ SameMemory s t ∧ SameCells s t ∧ t.colls = s.colls.eraseIdx k) ∧
    ∀ j p f op sc kind c0, x.joins = [j] → j.cmd = none → s.pend.find? (fun p => p.stamp == j.eng.stamp) = some p → p.instr = .coll f op sc kind c0 →
      ∃ t, exec (.collComplete k) s = .next t ∧ t.flight = s.flight ++ s.flights p.site [(c0, ⟨BitVec.ofNat 32 (x.statusOf false j), none⟩)] := by
  have hexec := collComplete_finish hx hnpart hjoins hlen hmis hread hgoal
  obtain ⟨hc, hm, hcolls⟩ := collFinish_leaves { s with colls := s.colls.set k x } k x false
  refine ⟨⟨_, hexec, sameMemory_of_eq hm, sameCells_of_eq hc, hcolls.trans (List.eraseIdx_set_eq ..)⟩, ?_⟩
  intro j p f op sc kind c0 hj hcmd hp hi
  refine ⟨_, hexec, ?_⟩
  rw [State.collFinish, hj, List.foldl_cons, List.foldl_nil]
  exact collEnd_flight (t := { s with colls := (s.colls.set k x).eraseIdx k }) hcmd hp hi _

end

/-! An entry arrives at its seam. -/

theorem seam?_key {s : State} {ctx n : Nat} {m : Seam} (h : s.seam? ctx n = some m) : m.ctx = ctx ∧ m.num = n := by
  simpa using List.find?_some h

/-- A seam put in its place is found there. -/
theorem seam?_setSeam {s : State} {ctx n : Nat} {m : Seam} (h : (s.seam? ctx n).isSome = true) (hm : m.ctx = ctx ∧ m.num = n) :
    (s.setSeam m).seam? ctx n = some m := by
  obtain ⟨rfl, rfl⟩ := hm
  unfold State.seam? State.setSeam at *
  rw [List.find?_map]
  have hp : ((fun x : Seam => x.ctx == m.ctx && x.num == m.num) ∘ fun x => if x.ctx = m.ctx ∧ x.num = m.num then m else x) =
      fun x => x.ctx == m.ctx && x.num == m.num := by
    funext x
    simp only [Function.comp]
    split_ifs with hx
    · simp [hx]
    · rfl
  rw [hp]
  obtain ⟨y, hy⟩ := Option.isSome_iff_exists.mp h
  have hkey : y.ctx = m.ctx ∧ y.num = m.num := by simpa using List.find?_some hy
  rw [hy, Option.map_some, if_pos hkey]

/-- The seams after an entry has left its push end stand under their names. -/
theorem seam?_isSome_of_map {s : State} {f : Seam → Seam} (hf : ∀ x, (f x).ctx = x.ctx ∧ (f x).num = x.num) {ctx n : Nat} :
    (({ s with seams := s.seams.map f } : State).seam? ctx n).isSome = (s.seam? ctx n).isSome := by
  have hp : ((fun x : Seam => x.ctx == ctx && x.num == n) ∘ f) = fun x => x.ctx == ctx && x.num == n := by
    funext x
    simp only [Function.comp, (hf x).1, (hf x).2]
  unfold State.seam?
  rw [List.find?_map, hp, Option.isSome_map]

theorem seamAppend_room {s : State} (e : Eng) {m : Seam} (hb : m.back = []) (hf : m.fab.length < 256) (x : SeamEntry) :
    s.seamAppend e m x = (s, e, .done { m with fab := m.fab ++ [x] }) := by
  simp [State.seamAppend, hb, hf]

/-- The clause of O51 about an entry from a push end: it joins the in-fabric part (R319). -/
theorem seamRemoteEntry_arrives {s : State} {ctx n : Nat} {m : Seam} (v : DWord) (lo hi : Mark) (h : s.seam? ctx n = some m) (hr : m.remote = true)
    (hpop : m.popEnd = true) (hb : m.back = []) (hf : m.fab.length < 256) : ∃ t, exec (.seamRemoteEntry ctx n v (lo, hi)) s = .next t ∧
      SameMemory s t ∧ SameCells s t ∧ t.seam? ctx n = some { m with fab := m.fab ++ [⟨v, lo, hi⟩] } := by
  obtain ⟨hctx, hnum⟩ := seam?_key h
  rw [exec_seamRemoteEntry, execSeamRemoteEntry]
  simp only [h, hr, hpop, Bool.and_self, Bool.not_true, Bool.false_eq_true, if_false, seamAppend_room (seamEng ctx) hb hf]
  refine ⟨_, rfl, sameMemory_of_eq rfl, sameCells_of_eq rfl, seam?_setSeam ?_ ⟨hctx, hnum⟩⟩
  rw [seam?_isSome_of_map fun x => by split_ifs <;> exact ⟨rfl, rfl⟩, h]
  rfl

/-! A member learns the phase of its group. -/

theorem group?_updGroup (s : State) (rid gid : Nat) {f : Group → Group} (hf : ∀ g, (f g).gid = g.gid) :
    (s.updGroup rid gid f).group? rid gid = (s.group? rid gid).map f := by
  have hp : ((fun g : Group => g.gid == gid) ∘ fun g => if g.gid = gid then f g else g) = fun g => g.gid == gid := by
    funext g
    simp only [Function.comp]
    split_ifs
    · rw [hf]
    · rfl
  have hreg := region?_updRegion s rid (f := fun r => { r with groups := r.groups.map (fun g => if g.gid = gid then f g else g) }) fun _ => rfl
  unfold State.group? State.updGroup
  rw [hreg]
  cases s.region? rid with
  | none => rfl
  | some r =>
    simp only [Option.map_some, Option.bind_some, List.find?_map, hp]
    cases hg : r.groups.find? (fun g => g.gid == gid) with
    | none => rfl
    | some g =>
      have hgid : g.gid = gid := by simpa using List.find?_some hg
      rw [Option.map_some, if_pos hgid, Option.map_some]

/-- The clause of O51 about PHASE_NOTIFY (R314). -/
theorem phaseNotify_learns {s : State} {rid gid cell : Nat} {g : Group} (h : s.group? rid gid = some g) : ∃ t, exec (.phaseNotify rid gid cell) s = .next t ∧
    SameMemory s t ∧ SameCells s t ∧ (t.group? rid gid).map (fun h => (h.known cell, h.phase, h.arrived)) = some (g.phase, g.phase, g.arrived) := by
  refine ⟨_, rfl, sameMemory_of_eq rfl, sameCells_of_eq rfl, ?_⟩
  rw [group?_updGroup, h]
  · simp [Group.known, find?_putKey]
  · exact fun _ => rfl

/-! An owner applies an update. -/

theorem updCell_region? (s : State) (n : Nat) (f : Cell → Cell) (rid : Nat) : (s.updCell n f).region? rid = s.region? rid := rfl

/-- An update applied: it leaves the region's list, and the word that it names holds the result (R312). -/
theorem applyUpdate_region {s : State} {rid : Nat} {r : Region} {o : Owner} (hr : s.region? rid = some r) (ho : r.owners = [o]) (u : Update) :
    (s.applyUpdate rid o u).mem = s.mem ∧ ((s.applyUpdate rid o u).region? rid).map (fun y => (y.updates, y.owners.map (fun w => w.buf))) =
      some (r.updates.erase u, [o.buf.set ((u.va - o.va) / 4)
        ⟨(atomNew o.op (o.buf.getD ((u.va - o.va) / 4) ⟨0, none⟩).v u.tok.v 0).1.getD (o.buf.getD ((u.va - o.va) / 4) ⟨0, none⟩).v,
          (o.buf.getD ((u.va - o.va) / 4) ⟨0, none⟩).mark.or u.tok.mark⟩]) := by
  refine ⟨rfl, ?_⟩
  unfold State.applyUpdate State.updOwner State.raiseFlags
  dsimp only
  rw [updCell_region?, region?_updRegion, region?_updRegion, hr]
  · simp [ho]
  · exact fun _ => rfl
  · exact fun _ => rfl

/-- The clause of O51 about UPD_APPLY (R312). -/
theorem updApply_first {s : State} {rid : Nat} {r : Region} {o : Owner} {u : Update} (hr : s.region? rid = some r) (ho : r.owners = [o]) (hready : o.ready = true)
    (hat : o.at? ≠ some s.cycle) (hu : firstUpdate (r.updates.filter (fun u => u.owner == o.eng.stamp && decide (u.due ≤ s.cycle))) = some u) :
    ∃ t, exec (.updApply rid) s = .next t ∧ SameMemory s t ∧ (t.region? rid).map (fun y => (y.updates, y.owners.map (fun w => w.buf))) =
      some (r.updates.erase u, [o.buf.set ((u.va - o.va) / 4)
        ⟨(atomNew o.op (o.buf.getD ((u.va - o.va) / 4) ⟨0, none⟩).v u.tok.v 0).1.getD (o.buf.getD ((u.va - o.va) / 4) ⟨0, none⟩).v,
          (o.buf.getD ((u.va - o.va) / 4) ⟨0, none⟩).mark.or u.tok.mark⟩]) := by
  obtain ⟨hm, hregion⟩ := applyUpdate_region hr ho u
  refine ⟨s.applyUpdate rid o u, ?_, sameMemory_of_eq hm, hregion⟩
  rw [exec_updApply, execUpdApply]
  simp [hr, ho, hready, hat, hu]

end Sys2Proof.Machine
end

section
/-! PROOFS. O51: the steps of the engines -/

namespace Sys2Proof

open Sys2Proof.Machine

/-- Settles O51, clause by clause: what a command, an operation of a systolic region, a collective, a seam, a group and an owner do in a step, and
what a row's accumulators, its chunks of products and its entries hold. -/
theorem engineSteps : Obligations.EngineSteps := by
  refine ⟨?_, commandRetire_step, ?_, ?_, ?_, ?_, ?_, accumulateTerms_product, ?_, ?_, ?_, ?_, ?_, ?_, ?_, ?_⟩
  · intro s slot x h hw ht
    obtain ⟨hcancelled, hbad, hbulk⟩ := commandIssue_steps s slot x h hw ht
    refine ⟨hcancelled, hbad, fun kind hint hc hk h1 hp ho hkind hcopy => hbulk kind hint hc hk h1 hp ho hkind ?_⟩
    cases kind <;> exact hcopy
  · intro s rid k x rest hq hst hh hb h0 hbands hr
    exact matrixOpStart_steps hq hst hh hb h0 hbands hr
  · intro s rid k x rest slot hq hst hh hsw h0 hbands hout hrow hi hc
    exact matrixOpComplete_ends hq hst hh hsw h0 hbands hout hrow hi hc
  · intro s rid k y x rest o s2 e l hy hq hst hh hsw h0 hbands hout ho hrow hn hread hnums hpes hcols
    exact matrixOpComplete_row hy hq hst hh hsw h0 hbands hout ho hrow hn hread ⟨hnums, hpes⟩ hcols
  · exact fun w l i x _ h => placeElems_holds h
  · exact fun path mx start l l' hp => ⟨fun h0 h => accumulateTerms_chunk hp mx start h0 h, fun h => accumulateTerms_append hp mx start l' h⟩
  · exact fun path mx start l => ⟨accumulateTerms_mark path mx start l, accumulateTerms_nil path mx start⟩
  · exact fun mx l sa sb h0 hs hmx => ⟨chunkVal_finite h0 hs hmx, fun n => chunkVal_inf hs hmx⟩
  · exact fun mx l h => chunkVal_nan h
  · exact fun rm x k _ => ⟨entryVal_entryOf_round rm x, entryVal_entryOf_int⟩
  · intro s k x hx hnpart hjoins hlen hmis hread hgoal
    exact collComplete_steps hx hnpart hjoins hlen hmis hread hgoal
  · exact fun s ctx n m v lo hi h hr hpop hb hf => seamRemoteEntry_arrives v lo hi h hr hpop hb hf
  · exact fun s rid gid cell g h => phaseNotify_learns h
  · exact fun s rid r o u hr ho hready hat hu => updApply_first hr ho hready hat hu

end Sys2Proof
end

section
/-! PROOFS. What reservations and faults leave of a cell (R124, R328, R329) -/

namespace Sys2Proof.Machine

/-! What reservations and faults leave of a cell. -/

/-- An instruction slot but for the entries reserved at its fields. -/
def Slot.face (sl : Slot) : Slot :=
  { sl with l := { sl.l with resv := 0 }, r := { sl.r with resv := 0 }, p := { sl.p with resv := 0 }, a := { sl.a with resv := 0 } }

def Block.face (b : Block) : Block := { b with slots := b.slots.map Slot.face }

/-- A cell but for reserved entries and its exception state. -/
def Cell.face (c : Cell) : Cell := { c with blocks := c.blocks.map Block.face, flt := .fresh }

/-- Every cell stands as it was, but for reserved entries and its exception state. -/
def SameFace (s t : State) : Prop := t.cells.map Cell.face = s.cells.map Cell.face

theorem SameFace.refl (s : State) : SameFace s s := rfl

theorem SameFace.trans {s t u : State} (h : SameFace s t) (h' : SameFace t u) : SameFace s u := Eq.trans h' h

theorem sameFace_of_eq {s t : State} (h : t.cells = s.cells) : SameFace s t := congrArg (List.map Cell.face) h

theorem Slot.face_toks {sl sl' : Slot} (h : sl'.face = sl.face) (f : FieldSel) : (sl'.field f).toks = (sl.field f).toks := by
  simp only [Slot.face, Slot.mk.injEq, FieldQ.mk.injEq] at h
  obtain ⟨⟨hl, -⟩, ⟨hr, -⟩, ⟨hp, -⟩, ⟨ha, -⟩, -⟩ := h
  cases f
  · exact hl
  · exact hr
  · exact hp
  · exact ha

theorem Slot.face_updField (sl : Slot) (f : FieldSel) (g : FieldQ → FieldQ) (hg : ∀ q, { g q with resv := 0 } = { q with resv := 0 }) :
    (sl.updField f g).face = sl.face := by
  cases f <;> simp [Slot.updField, Slot.face, hg]

theorem Block.face_updSlot (b : Block) (k : Nat) (f : Slot → Slot) (hf : ∀ sl, (f sl).face = sl.face) : (b.updSlot k f).face = b.face := by
  simp only [Block.face, Block.updSlot]
  congr 1
  exact map_set_same b.slots k .empty f Slot.face hf

theorem Cell.face_updBlock (c : Cell) (k : Nat) (f : Block → Block) (hf : ∀ b, (f b).face = b.face) : (c.updBlock k f).face = c.face := by
  simp only [Cell.face, Cell.updBlock, List.map_map]
  congr 1
  refine List.map_congr_left fun b _ => ?_
  simp only [Function.comp]
  split_ifs
  · exact hf b
  · rfl

theorem Block.face_reserve (b : Block) (c : Consumer) (n : Nat) : (b.reserve c n).face = b.face := by
  cases c with
  | none => rfl
  | some g => exact b.face_updSlot _ _ fun sl => sl.face_updField _ _ fun _ => rfl

theorem sameFace_reserveAll (s : State) (t : Site) (e : Emits) : SameFace s (s.reserveAll t e) := by
  refine s.cells_map_updCell t.cell _ Cell.face fun c => c.face_updBlock t.ctx _ fun b => ?_
  induction e generalizing b with
  | nil => rfl
  | cons x e ih => rw [List.foldl_cons, ih, Block.face_reserve]

theorem sameFace_release (s : State) (t : Site) (c : Consumer) : SameFace s (s.release t c) := by
  refine s.cells_map_updCell t.cell _ Cell.face fun x => x.face_updBlock t.ctx _ fun b => ?_
  cases c with
  | none => rfl
  | some g => exact b.face_updSlot _ _ fun sl => sl.face_updField _ _ fun _ => rfl

/-! Lookups that the face of the cells decides. -/

theorem SameFace.cell? {s t : State} (h : SameFace s t) (n : Nat) : (t.cell? n).map Cell.face = (s.cell? n).map Cell.face := by
  have key : ∀ u : State, (u.cell? n).map Cell.face = (u.cells.map Cell.face).find? (fun c => c.num == n) := fun u => by
    rw [List.find?_map]; rfl
  rw [key, key, h]

theorem SameFace.block? {s t : State} (h : SameFace s t) (u : Site) : (t.block? u).map Block.face = (s.block? u).map Block.face := by
  have key : ∀ x : State, (x.block? u).map Block.face = ((x.cell? u.cell).map Cell.face).bind (fun c => c.block? u.ctx) := fun x => by
    cases hc : x.cell? u.cell with
    | none => simp [State.block?, hc]
    | some c =>
      simp only [State.block?, hc, Option.bind_some, Option.map_some, Cell.block?, Cell.face]
      rw [List.find?_map]
      rfl
  rw [key, key, h.cell?]

theorem SameFace.slot {s t : State} (h : SameFace s t) (u : Site) : (t.slot u).face = (s.slot u).face := by
  have key : ∀ x : State, (x.slot u).face = (((x.block? u).map Block.face).map (fun b => b.slot u.index)).getD Slot.empty.face := fun x => by
    unfold State.slot
    cases x.block? u with
    | none => rfl
    | some b =>
      simp only [Option.map_some, Option.getD_some, Block.slot, Block.face, List.getD_eq_getElem?_getD, List.getElem?_map]
      cases b.slots[u.index]? <;> rfl
  rw [key, key, h.block?]

theorem SameFace.fireNo {s t : State} (h : SameFace s t) (u : Site) : t.fireNo u = s.fireNo u := by
  have key : ∀ x : State, x.fireNo u = (((x.block? u).map Block.face).map (fun b => b.fireNo)).getD 0 := fun x => by
    unfold State.fireNo
    cases x.block? u <;> rfl
  rw [key, key, h.block?]

theorem SameFace.flights {s t : State} (h : SameFace s t) (hc : t.cycle = s.cycle) (u : Site) (l : List (Consumer × Tok)) :
    t.flights u l = s.flights u l := by
  refine State.flights_congr s t u l hc ?_
  have := congrArg (Option.map (fun c : Cell => (c.divider, c.parity))) (h.cell? u.cell)
  rwa [Option.map_map, Option.map_map] at this

/-- What has issued stays so under reservations and faults. -/
theorem Issued.of_face {i : Instr} {s t u : State} (h : Issued i s t) (hf : SameFace t u) : Issued i s u := by
  obtain ⟨htoks, hpe, hdone, hat⟩ := h
  have hslot := hf.slot s.site
  refine ⟨fun b hb f => (Slot.face_toks hslot f).trans (htoks b hb f), fun c' hc' => ?_, ?_, ?_⟩
  · have hcell := hf.cell? s.site.cell
    rw [hc'] at hcell
    obtain ⟨c, hc, hface⟩ := Option.map_eq_some_iff.mp hcell.symm
    have hpes : c.face.pes = c'.face.pes := congrArg Cell.pes hface
    change c.pes = c'.pes at hpes
    rw [Cell.pe, ← hpes]
    exact hpe c hc
  · exact (congrArg Slot.done hslot).trans hdone
  · exact (congrArg Slot.issuedAt hslot).trans hat

/-! Faults. -/

/-- A state that differs from another in its cells, in the stops of its regions, and in what it logs and signals. -/
def SameButFaults (s t : State) : Prop := ∃ cells regions msix logQ, t = { s with cells := cells, regions := regions, msix := msix, logQ := logQ }

theorem SameButFaults.refl (s : State) : SameButFaults s s := ⟨_, _, _, _, rfl⟩

theorem SameButFaults.trans {s t u : State} (h : SameButFaults s t) (h' : SameButFaults t u) : SameButFaults s u := by
  obtain ⟨_, _, _, _, rfl⟩ := h
  obtain ⟨_, _, _, _, rfl⟩ := h'
  exact ⟨_, _, _, _, rfl⟩

theorem sameButFaults_updCell (s : State) (n : Nat) (f : Cell → Cell) : SameButFaults s (s.updCell n f) := ⟨_, _, _, _, rfl⟩

/-- The record of a fault in the registers of its cell. -/
def State.recordAt (s : State) (cell : Option Nat) (rank : Nat) (regs : FaultRegs) : State :=
  match cell with
  | some n => s.updCell n (fun c => { c with flt := c.flt.record s.cycle rank regs })
  | none => s

/-- Taking a fault records it in its cell; the rest is the log, a stop, and an interrupt. -/
theorem raise_record (s : State) (f : FaultRec) : ∃ stop : Bool, SameButFaults s (s.raise f) ∧
    (s.raise f).cells = (s.recordAt f.cell (f.stamp.getD s.stamps) ⟨causeWord f.code f.sub f.held stop f.parked, f.origin, f.addr, f.aux, f.fire⟩).cells := by
  refine ⟨faultStops (s.ctxRegs f.ctx).fltCtl f.code f.held && (match f.rid with
    | some rid => s.regionLives rid
    | none => true), ?_⟩
  have hrec : ∀ rank regs, SameButFaults s (s.recordAt f.cell rank regs) := fun rank regs => by
    unfold State.recordAt
    cases f.cell with
    | none => exact .refl s
    | some n => exact sameButFaults_updCell s n _
  unfold State.raise
  dsimp only
  split
  · exact ⟨(hrec _ _).trans ⟨_, _, _, _, rfl⟩, rfl⟩
  · exact ⟨(hrec _ _).trans ⟨_, _, _, _, rfl⟩, rfl⟩
  · exact ⟨(hrec _ _).trans ⟨_, _, _, _, rfl⟩, rfl⟩

theorem sameFace_recordAt (s : State) (cell : Option Nat) (rank : Nat) (regs : FaultRegs) : SameFace s (s.recordAt cell rank regs) := by
  cases cell with
  | none => exact .refl s
  | some n => exact s.cells_map_updCell n _ Cell.face fun _ => rfl

theorem sameFace_raise (s : State) (f : FaultRec) : SameFace s (s.raise f) := by
  obtain ⟨stop, -, hcells⟩ := raise_record s f
  exact (sameFace_recordAt s _ _ _).trans (sameFace_of_eq hcells)

end Sys2Proof.Machine
end

section
/-! PROOFS. Faults of instructions: what they record, and the reply entries that they give back (R97, R328, R329) -/

namespace Sys2Proof.Machine

/-! Exception state. -/

/-- Every cell has the exception state that it had. -/
def SameFlt (s t : State) : Prop := t.cells.map (fun c => (c.num, c.flt)) = s.cells.map (fun c => (c.num, c.flt))

theorem SameFlt.trans {s t u : State} (h : SameFlt s t) (h' : SameFlt t u) : SameFlt s u := Eq.trans h' h

theorem SameCells.sameFlt {s t : State} (h : SameCells s t) : SameFlt s t := by
  have key := congrArg (List.map fun c : CellHeld => (c.num, c.flt)) h
  rwa [List.map_map, List.map_map] at key

theorem SameFlt.flt? {s t : State} (h : SameFlt s t) (n : Nat) : (t.cell? n).map (fun c => c.flt) = (s.cell? n).map (fun c => c.flt) := by
  have key : ∀ u : State, (u.cell? n).map (fun c => c.flt) = ((u.cells.map (fun c => (c.num, c.flt))).find? (fun x => x.1 == n)).map (fun x => x.2) := fun u => by
    rw [List.find?_map, Option.map_map]; rfl
  rw [key, key, h]

theorem FaultTaken.congr {s s' t t' : State} {rank n code sub : Nat} {held : Bool} {origin fire : Word} {addr aux : DWord}
    (h : FaultTaken s t rank n code sub held origin addr aux fire) (hs : SameFlt s' s) (hc : s'.cycle = s.cycle) (ht : SameFlt t t') :
    FaultTaken s' t' rank n code sub held origin addr aux fire := by
  intro c hcell hin c' hcell'
  have hs' := hs.flt? n
  have ht' := ht.flt? n
  rw [hcell] at hs'
  rw [hcell'] at ht'
  obtain ⟨d, hd, hdc⟩ := Option.map_eq_some_iff.mp hs'
  obtain ⟨d', hd', hdc'⟩ := Option.map_eq_some_iff.mp ht'.symm
  have := h d hd (by rw [hdc, ← hc]; exact hin) d' hd'
  simpa only [hdc, hdc'] using this

/-! Faults: FLT_CAUSE and the registers that a fault leaves (R329). -/

theorem CellFaults.record_regs (f : CellFaults) (now rank : Nat) (new : FaultRegs) (h : f.inOrder now rank) :
    (f.record now rank new).regs = f.regs.record new := by
  have hraised : ∀ x ∈ (f.touch now).raised, x.1 ≤ rank := by
    unfold CellFaults.touch
    split
    · rename_i hat; exact h hat
    · simp
  have hregs : (f.touch now).regs = f.regs := by unfold CellFaults.touch; split <;> rfl
  unfold CellFaults.record
  dsimp only
  rw [if_pos (by simpa using hraised), hregs]

theorem causeWord_toNat (code sub : Nat) (held stop parked : Bool) : (causeWord code sub held stop parked).toNat =
    code % 256 + sub % 256 * 256 + held.toNat * 65536 + stop.toNat * 131072 + parked.toNat * 524288 + 2147483648 := by
  rw [causeWord, BitVec.toNat_ofNat, Nat.mod_eq_of_lt]
  cases held <;> cases stop <;> cases parked <;> simp only [Bool.toNat_true, Bool.toNat_false] <;> omega

theorem causeWord_bit (code sub n : Nat) (held stop parked : Bool) (h : 16 ≤ n) : (causeWord code sub held stop parked).getLsbD n =
    (2147483648 + parked.toNat * 524288 + stop.toNat * 131072 + held.toNat * 65536).testBit n := by
  have hlt : code % 256 + sub % 256 * 256 < 2 ^ 16 := by omega
  obtain ⟨k, rfl⟩ := Nat.exists_eq_add_of_le h
  have hsum : code % 256 + sub % 256 * 256 + held.toNat * 65536 + stop.toNat * 131072 + parked.toNat * 524288 + 2147483648 =
      2 ^ 16 * (32768 + parked.toNat * 8 + stop.toNat * 2 + held.toNat) + (code % 256 + sub % 256 * 256) := by ring
  have hsum' : 2147483648 + parked.toNat * 524288 + stop.toNat * 131072 + held.toNat * 65536 =
      2 ^ 16 * (32768 + parked.toNat * 8 + stop.toNat * 2 + held.toNat) := by ring
  rw [BitVec.getLsbD, causeWord_toNat, hsum, hsum', Nat.testBit_two_pow_mul_add _ hlt, Nat.testBit_two_pow_mul]
  simp

theorem causeWord_code (code sub : Nat) (held stop parked : Bool) : (causeWord code sub held stop parked).extractLsb' 0 8 = BitVec.ofNat 8 code := by
  apply BitVec.eq_of_toNat_eq
  rw [BitVec.extractLsb'_toNat, causeWord_toNat, BitVec.toNat_ofNat]
  cases held <;> cases stop <;> cases parked <;> simp only [Bool.toNat_true, Bool.toNat_false] <;> omega

theorem causeWord_sub (code sub : Nat) (held stop parked : Bool) : (causeWord code sub held stop parked).extractLsb' 8 8 = BitVec.ofNat 8 sub := by
  apply BitVec.eq_of_toNat_eq
  rw [BitVec.extractLsb'_toNat, causeWord_toNat, BitVec.toNat_ofNat]
  cases held <;> cases stop <;> cases parked <;> simp only [Bool.toNat_true, Bool.toNat_false] <;> omega

theorem cell?_recordAt (s : State) (n rank : Nat) (regs : FaultRegs) :
    (s.recordAt (some n) rank regs).cell? n = (s.cell? n).map (fun c => { c with flt := c.flt.record s.cycle rank regs }) :=
  s.cell?_updCell_self n _ fun _ => rfl

/-- A fault that a region's cell takes while it is not parked is taken as R329 says. -/
theorem faultTaken_raise (s : State) (f : FaultRec) (n : Nat) (hn : f.cell = some n) (hp : f.parked = false) :
    FaultTaken s (s.raise f) (f.stamp.getD s.stamps) n f.code f.sub f.held f.origin f.addr f.aux f.fire := by
  obtain ⟨stop, -, hcells⟩ := raise_record s f
  intro c hc hin c' hc'
  have hcell : (s.raise f).cell? n = (s.recordAt f.cell (f.stamp.getD s.stamps) ⟨causeWord f.code f.sub f.held stop f.parked, f.origin, f.addr, f.aux, f.fire⟩).cell? n := by
    rw [State.cell?, hcells]; rfl
  rw [hcell, hn, cell?_recordAt, hc, Option.map_some, Option.some.injEq] at hc'
  subst hc'
  dsimp only
  rw [CellFaults.record_regs _ _ _ _ hin, FaultRegs.record, hp]
  split
  · rfl
  · exact ⟨causeWord_code .., causeWord_sub .., by rw [causeWord_bit _ _ _ _ _ _ (by omega)]; cases f.held <;> cases stop <;> rfl,
      by rw [causeWord_bit _ _ _ _ _ _ (by omega)]; cases f.held <;> cases stop <;> rfl,
      by rw [causeWord_bit _ _ _ _ _ _ (by omega)]; cases f.held <;> cases stop <;> rfl, rfl, rfl, rfl, rfl⟩

theorem originOf_spec (t : Site) (fire : Word) : originOf t fire = originSpec t fire := by
  have hx : t.cell % 4096 < 4096 := Nat.mod_lt _ (by omega)
  apply BitVec.eq_of_toNat_eq
  simp only [originOf, originSpec, Site.pe, Site.slotNo, BitVec.toNat_append, BitVec.toNat_ofNat, BitVec.toNat_setWidth]
  have h1 : t.index % 4 % 2 ^ 2 < 2 ^ 2 := Nat.mod_lt _ (by omega)
  have h2 : t.index / 4 % 2 ^ 4 < 2 ^ 4 := Nat.mod_lt _ (by omega)
  have h3 : t.cell % 2 ^ 12 < 2 ^ 12 := Nat.mod_lt _ (by omega)
  rw [← Nat.shiftLeft_add_eq_or_of_lt h1, ← Nat.shiftLeft_add_eq_or_of_lt h2, ← Nat.shiftLeft_add_eq_or_of_lt h3]
  simp only [Nat.shiftLeft_eq]
  have h4 : t.index % 4 / 4 = 0 := by omega
  omega

/-! Faults of an instruction. -/

theorem opcodeFault_eq_raise (s : State) (t : Site) (code : Nat) (i : Instr) (stamp : Option Nat) (c : Cell) (h : s.cell? t.cell = some c) :
    s.opcodeFault t code i stamp = s.raise
      { cell := some t.cell, ctx := c.context, rid := some c.rid, code := code, sub := 0, held := false, parked := false, origin := s.origin t,
        addr := 0, aux := BitVec.ofNat 64 i.opcode, fire := s.fireNo t, stamp := stamp } := by
  simp only [State.opcodeFault, State.faultAt, h]

theorem opcodeFault_none (s : State) (t : Site) (code : Nat) (i : Instr) (stamp : Option Nat) (h : s.cell? t.cell = none) :
    s.opcodeFault t code i stamp = s := by
  simp only [State.opcodeFault, State.faultAt, h]

theorem sameFace_opcodeFault (s : State) (t : Site) (code : Nat) (i : Instr) (stamp : Option Nat) : SameFace s (s.opcodeFault t code i stamp) := by
  cases h : s.cell? t.cell with
  | none => rw [opcodeFault_none _ _ _ _ _ h]; exact .refl s
  | some c => rw [opcodeFault_eq_raise _ _ _ _ _ _ h]; exact sameFace_raise s _

theorem sameButFaults_opcodeFault (s : State) (t : Site) (code : Nat) (i : Instr) (stamp : Option Nat) : SameButFaults s (s.opcodeFault t code i stamp) := by
  cases h : s.cell? t.cell with
  | none => rw [opcodeFault_none _ _ _ _ _ h]; exact .refl s
  | some c =>
    rw [opcodeFault_eq_raise _ _ _ _ _ _ h]
    obtain ⟨-, hs, -⟩ := raise_record s _
    exact hs

theorem faultTaken_opcodeFault (s : State) (t : Site) (code : Nat) (i : Instr) (stamp : Option Nat) :
    FaultTaken s (s.opcodeFault t code i stamp) (stamp.getD s.stamps) t.cell code 0 false (originSpec t (s.fireNo t)) 0 (BitVec.ofNat 64 i.opcode) (s.fireNo t) := by
  cases h : s.cell? t.cell with
  | none => intro c hc; rw [h] at hc; cases hc
  | some c =>
    rw [opcodeFault_eq_raise _ _ _ _ _ _ h, ← originOf_spec]
    exact faultTaken_raise s _ _ rfl rfl

/-! Giving back the entries of a reply. -/

theorem sameFlt_updBlock (s : State) (t : Site) (f : Block → Block) : SameFlt s (s.updBlock t f) :=
  s.cells_map_updCell t.cell _ (fun c => (c.num, c.flt)) fun _ => rfl

theorem sameButFaults_updBlock (s : State) (t : Site) (f : Block → Block) : SameButFaults s (s.updBlock t f) := sameButFaults_updCell s _ _

/-- A property of the steps of `giveUp` holds of all of them. -/
theorem giveUp_induction {R : State → State → Prop} (hrefl : ∀ s, R s s) (htrans : ∀ {s t u}, R s t → R t u → R s u)
    (hrel : ∀ s t c, R s (s.release t c)) (s : State) (p : Pend) : R s (s.giveUp p) := by
  unfold State.giveUp
  refine List.foldlRecOn (motive := R s) _ _ (hrefl s) fun t ht x _ => htrans ht ?_
  exact List.foldlRecOn (motive := R t) _ _ (hrefl t) fun u hu _ _ => htrans hu (hrel u _ _)

theorem sameFace_giveUp (s : State) (p : Pend) : SameFace s (s.giveUp p) := giveUp_induction .refl .trans sameFace_release s p

theorem sameFlt_giveUp (s : State) (p : Pend) : SameFlt s (s.giveUp p) :=
  giveUp_induction (R := SameFlt) (fun _ => rfl) .trans (fun s t _ => sameFlt_updBlock s t _) s p

theorem sameButFaults_giveUp (s : State) (p : Pend) : SameButFaults s (s.giveUp p) :=
  giveUp_induction .refl .trans (fun s t _ => sameButFaults_updBlock s t _) s p

theorem refuse_eq (s : State) (p : Pend) (code : Nat) : s.refuse p code = (s.opcodeFault p.site code p.instr (some p.stamp)).giveUp p := rfl

theorem sameFace_refuse (s : State) (p : Pend) (code : Nat) : SameFace s (s.refuse p code) :=
  (sameFace_opcodeFault s p.site code p.instr (some p.stamp)).trans (sameFace_giveUp _ p)

theorem sameButFaults_refuse (s : State) (p : Pend) (code : Nat) : SameButFaults s (s.refuse p code) :=
  (sameButFaults_opcodeFault s p.site code p.instr (some p.stamp)).trans (sameButFaults_giveUp _ p)

theorem faultTaken_refuse (s : State) (p : Pend) (code : Nat) :
    FaultTaken s (s.refuse p code) p.stamp p.site.cell code 0 false (originSpec p.site (s.fireNo p.site)) 0 (BitVec.ofNat 64 p.instr.opcode) (s.fireNo p.site) :=
  (faultTaken_opcodeFault s p.site code p.instr (some p.stamp)).congr rfl rfl (sameFlt_giveUp _ p)

theorem sameFlt_putBack (s : State) (t : Site) (o : Opnds) (more : List Tok) : SameFlt s (s.putBack t o more) := sameFlt_updBlock s t _

theorem sameButFaults_putBack (s : State) (t : Site) (o : Opnds) (more : List Tok) : SameButFaults s (s.putBack t o more) := sameButFaults_updBlock s t _

theorem SameButFaults.sameMemory {s t : State} (h : SameButFaults s t) : SameMemory s t := by
  obtain ⟨_, _, _, _, rfl⟩ := h
  exact sameMemory_of_eq rfl

theorem SameButFaults.flight {s t : State} (h : SameButFaults s t) : t.flight = s.flight := by
  obtain ⟨_, _, _, _, rfl⟩ := h; rfl

theorem SameButFaults.queues {s t : State} (h : SameButFaults s t) : t.queues = s.queues := by
  obtain ⟨_, _, _, _, rfl⟩ := h; rfl

theorem SameButFaults.hostPorts {s t : State} (h : SameButFaults s t) : t.hostPorts = s.hostPorts := by
  obtain ⟨_, _, _, _, rfl⟩ := h; rfl

theorem SameButFaults.colls {s t : State} (h : SameButFaults s t) : t.colls = s.colls := by
  obtain ⟨_, _, _, _, rfl⟩ := h; rfl

end Sys2Proof.Machine
end

section
/-! PROOFS. Instructions that issue and wait: what an issue leaves, and how an attempt ends (R97, R124, R328) -/

namespace Sys2Proof.Machine

/-! What holds of a cell, and of what the cells decide. -/

theorem SameCells.trans {s t u : State} (h : SameCells s t) (h' : SameCells t u) : SameCells s u := Eq.trans h' h

theorem SameMemory.trans {s t u : State} (h : SameMemory s t) (h' : SameMemory t u) : SameMemory s u := by
  obtain ⟨look, marks, vers, segs, banks⟩ := h
  obtain ⟨look', marks', vers', segs', banks'⟩ := h'
  exact ⟨fun a => (look' a).trans (look a), marks'.trans marks, vers'.trans vers, segs'.trans segs, banks'.trans banks⟩

theorem Quiet.sameCells {s t : State} (h : Quiet s t) : SameCells s t := h.1
theorem Quiet.sameMemory {s t : State} (h : Quiet s t) : SameMemory s t := h.2.2.1
theorem Quiet.sameSysRegs {s t : State} (h : Quiet s t) : SameSysRegs s t := h.2.2.2.1

theorem SameCells.held? {s t : State} (h : SameCells s t) (n : Nat) : (t.cell? n).map Cell.held = (s.cell? n).map Cell.held := by
  have key : ∀ u : State, (u.cell? n).map Cell.held = (u.cells.map Cell.held).find? (fun c => c.num == n) := fun u => by
    rw [List.find?_map]; rfl
  rw [key, key, h]

theorem SameCells.performedBefore {s t : State} (h : SameCells s t) (hp : t.pend = s.pend) (n stamp : Nat) :
    t.performedBefore n stamp = s.performedBefore n stamp := by
  have hports := congrArg (Option.map (fun c : CellHeld => c.ports)) (h.held? n)
  rw [Option.map_map, Option.map_map] at hports
  have key : ∀ u : State, u.performedBefore n stamp = (((u.cell? n).map ((fun c : CellHeld => c.ports) ∘ Cell.held)).map (fun l =>
      l.all (fun p => p.accs.all (fun a => !decide (a.stamp < stamp) || a.stage.isDone)) &&
      u.pend.all (fun q => !((isOwn q.instr || isSignal q.instr) && decide (q.site.cell = n) && decide (q.stamp < stamp))))).getD true := fun u => by
    unfold State.performedBefore
    cases u.cell? n <;> rfl
  rw [key, key, hports, hp]

/-! An instruction that issues and reserves its reply. -/

/-- The state in which an instruction that waits has issued: it has taken its tokens and reserved its reply, and a stamp has gone to it. -/
def State.issuing (s : State) (i : Instr) : State :=
  { (s.took s.site i).reserveAll s.site (emitsOf i .empty) with stamps := s.stamps + 1 }

/-- The instruction of the site as it waits. -/
def State.pendOf (s : State) (i : Instr) (notes : List Nat) : Pend :=
  ⟨s.site, s.fireNo s.site, i, s.opnds s.site i, [], notes, [], none, s.stamps⟩

theorem quiet_issuing (s : State) (i : Instr) : Quiet s (s.issuing i) :=
  quiet_of (quiet_reserveAll (quiet_took s i) s.site (emitsOf i .empty))
    rfl rfl rfl rfl rfl rfl rfl rfl rfl rfl rfl rfl rfl rfl rfl rfl rfl rfl rfl rfl rfl rfl rfl rfl

theorem sameFace_issuing (s : State) (i : Instr) : SameFace (s.took s.site i) (s.issuing i) := sameFace_reserveAll _ s.site (emitsOf i .empty)

theorem issuing_flight (s : State) (i : Instr) : (s.issuing i).flight = s.flight := by simp [State.issuing]
theorem issuing_pend (s : State) (i : Instr) : (s.issuing i).pend = s.pend := by simp [State.issuing]
theorem issuing_site (s : State) (i : Instr) : (s.issuing i).site = s.site := by simp [State.issuing]
theorem issuing_cycle (s : State) (i : Instr) : (s.issuing i).cycle = s.cycle := by simp [State.issuing]
theorem issuing_hostPorts (s : State) (i : Instr) : (s.issuing i).hostPorts = s.hostPorts := by simp [State.issuing]
theorem issuing_hostOps (s : State) (i : Instr) : (s.issuing i).hostOps = s.hostOps := by simp [State.issuing]
theorem issuing_queues (s : State) (i : Instr) : (s.issuing i).queues = s.queues := by simp [State.issuing]
theorem issuing_cmds (s : State) (i : Instr) : (s.issuing i).cmds = s.cmds := by simp [State.issuing]
theorem issuing_colls (s : State) (i : Instr) : (s.issuing i).colls = s.colls := by simp [State.issuing]
theorem issuing_regions (s : State) (i : Instr) : (s.issuing i).regions = s.regions := by simp [State.issuing]
theorem issuing_ctxs (s : State) (i : Instr) : (s.issuing i).ctxs = s.ctxs := by simp [State.issuing]

theorem took_fireNo (s : State) (i : Instr) : (s.took s.site i).fireNo s.site = s.fireNo s.site := by
  unfold State.fireNo
  rw [State.took_block?]
  cases s.block? s.site <;> rfl

theorem issuing_fireNo (s : State) (i : Instr) : (s.issuing i).fireNo s.site = s.fireNo s.site :=
  ((sameFace_issuing s i).fireNo s.site).trans (took_fireNo s i)

/-- What issuing leaves of the cell of the site. -/
theorem issuing_cell?_map {β : Type} (s : State) (i : Instr) (n : Nat) (P : Cell → β) (htook : ∀ c, P (c.tookAt s.cycle s.site i) = P c)
    (hface : ∀ c, P c.face = P c) : ((s.issuing i).cell? n).map P = (s.cell? n).map P := by
  have hmap : ∀ u : State, ((u.cell? n).map Cell.face).map P = (u.cell? n).map P := fun u => by
    rw [Option.map_map, show P ∘ Cell.face = P from funext hface]
  rw [← hmap, (sameFace_issuing s i).cell?, hmap]
  exact s.took_cell_map s.site i n P htook

theorem issuing_tagOf (s : State) (i : Instr) (n : Nat) : (s.issuing i).tagOf n = s.tagOf n := by
  have key : ∀ u : State, u.tagOf n = ((u.cell? n).map (fun c => c.context)).getD 0 := fun u => by
    unfold State.tagOf; cases u.cell? n <;> rfl
  rw [key, key, issuing_cell?_map s i n (fun c => c.context) (fun c => Cell.tookAt_context ..) (fun _ => rfl)]

theorem tagOf_of_cell? {s : State} {n : Nat} {c : Cell} (h : s.cell? n = some c) : s.tagOf n = c.context := by rw [State.tagOf, h]

theorem issuing_flights (s : State) (i : Instr) (l : List (Consumer × Tok)) : (s.issuing i).flights s.site l = s.flights s.site l :=
  ((sameFace_issuing s i).flights (by simp [State.issuing]) s.site l).trans (s.took_flights s.site i l)

theorem issued_issuing {i : Instr} {s : State} (h : s.goes i) : Issued i s (s.issuing i) :=
  (issued_took i s h.1).of_face (sameFace_issuing s i)

/-- An instruction that issues and waits stands last in the list. -/
theorem wait_issuing (s : State) (i : Instr) (notes : List Nat) :
    ((s.took s.site i).reserveAll s.site (emitsOf i .empty)).wait s.site i (s.opnds s.site i) [] notes =
      { s.issuing i with pend := s.pend ++ [s.pendOf i notes] } := by
  have hfire : ((s.took s.site i).reserveAll s.site (emitsOf i .empty)).fireNo s.site = s.fireNo s.site := issuing_fireNo s i
  rw [State.wait, hfire]
  rfl

/-- The last of the waiting instructions is tried. -/
theorem tryPend_last (s : State) (l : List Pend) (p : Pend) (attempt : State → Pend → Option State) :
    ({ s with pend := l ++ [p] } : State).tryPend (({ s with pend := l ++ [p] } : State).pend.length - 1) attempt =
      (attempt { s with pend := l } p).getD { s with pend := l ++ [p] } := by
  have hlen : (l ++ [p]).length - 1 = l.length := by simp
  have herase : (l ++ [p]).eraseIdx l.length = l := by simp [List.eraseIdx_append_of_length_le]
  have hget : (l ++ [p])[l.length]? = some p := by simp
  simp only [State.tryPend, hlen, herase, hget]
  cases attempt { s with pend := l } p <;> rfl

/-! What such an instruction has done, by the outcome of its attempt. -/

theorem runs_of_face {i : Instr} {s t : State} {P : State → Prop} (h : s.goes i) (he : exec i s = .next t) (hf : SameFace (s.issuing i) t)
    (hfl : t.flight = s.flight) (hP : P t) : Runs i s [] P :=
  ⟨t, he, (issued_issuing h).of_face hf, by rw [State.flights_nil, List.append_nil, hfl], hP⟩

theorem runs_of_reply {i : Instr} {s u : State} {P : State → Prop} (h : s.goes i) (c0 : Consumer) (k : Tok)
    (he : exec i s = .next (u.reply s.site c0 [k])) (hf : SameFace (s.issuing i) u) (hc : u.cycle = s.cycle) (hfl : u.flight = s.flight)
    (hP : P (u.reply s.site c0 [k])) : Runs i s [(c0, k)] P := by
  refine ⟨_, he, (issued_issuing h).of_face (hf.trans (sameFace_of_eq (reply_cells ..))), ?_, hP⟩
  rw [State.reply_flight, hfl, hf.flights (hc.trans (issuing_cycle s i).symm), issuing_flights]
  rfl

theorem waits_of_face {i : Instr} {s u : State} {P : State → Prop} {q : Pend} (h : s.goes i) (he : exec i s = .next u) (hf : SameFace (s.issuing i) u)
    (hfl : u.flight = s.flight) (hp : u.pend = s.pend ++ [q]) (hsite : q.site = s.site) (hinstr : q.instr = i) (hops : q.ops = s.opnds s.site i)
    (hfire : q.fire = s.fireNo s.site) (hP : P u) : Waits i s P :=
  ⟨u, q, he, (issued_issuing h).of_face hf, hfl, hp, hsite, hinstr, hops, hfire, hP⟩

/-! Tokens put back at the heads of their fields. -/

/-- The tokens of an operand list that belong to a field. -/
def Opnds.back (o : Opnds) (f : FieldSel) : List Tok :=
  match f with
  | .l => o.l.toList
  | .r => o.r.toList
  | .p => o.p.toList
  | .a => o.a.toList

/-- An instruction that takes each field at most once, one token of it. -/
def Takes.single (t : Takes) : Prop := ∀ f, Takes.of t f = if t.any (fun x => x.1 == f) then 1 else 0

theorem Slot.back_drop (sl : Slot) (t : Takes) (hs : t.single) (f : FieldSel) :
    (sl.opnds t).back f ++ ((sl.field f).toks).drop (Takes.of t f) = (sl.field f).toks := by
  have hback : (sl.opnds t).back f = (sl.opnd t f).toList := by cases f <;> rfl
  rw [hback, hs f, Slot.opnd, Slot.head]
  split
  · cases (sl.field f).toks <;> rfl
  · rfl

theorem putBack_field (sl : Slot) (o : Opnds) (f : FieldSel) :
    (([(FieldSel.l, o.l.toList ++ []), (.r, o.r.toList), (.p, o.p.toList), (.a, o.a.toList)].foldl (fun sl x =>
      sl.updField x.1 (fun q => { q with toks := x.2 ++ q.toks })) sl).field f).toks = o.back f ++ (sl.field f).toks := by
  cases f <;> simp [Slot.updField, Slot.field, Opnds.back]

theorem State.block?_updSlot_self (s : State) (t : Site) (f : Slot → Slot) : (s.updSlot t f).block? t = (s.block? t).map (fun b => b.updSlot t.index f) :=
  s.block?_updBlock_self t _ fun _ => rfl

theorem State.slot_updSlot_self (s : State) (t : Site) (f : Slot → Slot) {b : Block} (hb : s.block? t = some b) (hi : t.index < b.slots.length) :
    (s.updSlot t f).slot t = f (s.slot t) := by
  simp only [State.slot, State.block?_updSlot_self, hb, Option.map_some, Block.slot_updSlot b _ _ f hi, if_true]

theorem putBack_toks (s : State) (t : Site) (o : Opnds) {b : Block} (hb : s.block? t = some b) (hi : t.index < b.slots.length) (f : FieldSel) :
    (((s.putBack t o []).slot t).field f).toks = o.back f ++ ((s.slot t).field f).toks := by
  rw [State.putBack, State.slot_updSlot_self s t _ hb hi, putBack_field]

/-- A queue or host-port instruction that issues, is refused and has its tokens back (R97, R328). -/
theorem refused_of_face {i : Instr} {s u : State} {P : State → Prop} (h : s.goes i) (he : exec i s = .next (u.putBack s.site (s.opnds s.site i) []))
    (hf : SameFace (s.took s.site i) u) (hfl : u.flight = s.flight)
    (htakes : ∀ b, s.block? s.site = some b → consumesOf i b s.site.index (s.slot s.site) = needsOf i b s.site.index (s.slot s.site) ∧
      (needsOf i b s.site.index (s.slot s.site)).single)
    (hP : P (u.putBack s.site (s.opnds s.site i) [])) : Refused i s P := by
  obtain ⟨c, b, hc, hb, hi, -⟩ := (State.placed_iff s).mp h.1
  have hblock : s.block? s.site = some b := by rw [State.block?, hc]; exact hb
  have hslot : s.slot s.site = b.slot s.site.index := by rw [State.slot, hblock]
  obtain ⟨htakes, hsingle⟩ := htakes b hblock
  have htook : (s.took s.site i).block? s.site = some (b.tookAt s.cycle s.site i) := by rw [State.took_block?, hblock]; rfl
  have hface := hf.block? s.site
  rw [htook] at hface
  obtain ⟨b', hb', hbface⟩ := Option.map_eq_some_iff.mp hface
  have hlen : b'.slots.length = b.slots.length := by
    have := congrArg (fun x : Block => x.slots.length) hbface
    simpa [Block.face, Block.tookAt] using this
  refine ⟨_, he, fun f => ?_, hfl, hP⟩
  obtain ⟨htoks, -⟩ := issued_took i s h.1
  rw [putBack_toks u s.site _ hb' (hlen ▸ hi), Slot.face_toks (hf.slot s.site) f, htoks b hblock f, htakes, State.opnds, hblock]
  dsimp only
  rw [← hslot]
  exact Slot.back_drop _ _ hsingle f

end Sys2Proof.Machine
end

section
/-! PROOFS. O41: work queues (R95 to R97) -/

namespace Sys2Proof.Machine

/-! Work queues (R95 to R97). -/

theorem queue_cases {i : Instr} {n : Nat} (h : queueOf i = some n) : ∃ p : BitVec 6, p.toNat = n ∧ ∃ sc b c0,
    i = .wqadd p sc b c0 ∨ i = .wqtake p sc b c0 ∨ i = .wqclose p sc b c0 := by
  unfold queueOf at h
  split at h
  · exact ⟨_, Option.some.inj h, _, _, _, .inl rfl⟩
  · exact ⟨_, Option.some.inj h, _, _, _, .inr (.inl rfl)⟩
  · exact ⟨_, Option.some.inj h, _, _, _, .inr (.inr rfl)⟩
  · cases h

theorem exec_queue {i : Instr} {n : Nat} (h : queueOf i = some n) (s : State) : ∃ p : BitVec 6, p.toNat = n ∧ exec i s = issueQueue i p s := by
  obtain ⟨p, hp, sc, b, c0, rfl | rfl | rfl⟩ := queue_cases h
  · exact ⟨p, hp, exec_wqadd ..⟩
  · exact ⟨p, hp, exec_wqtake ..⟩
  · exact ⟨p, hp, exec_wqclose ..⟩

theorem single_l : Takes.single [(.l, 1)] := fun f => by cases f <;> rfl

theorem single_lr : Takes.single [(.l, 1), (.r, 1)] := fun f => by cases f <;> rfl

theorem queue_takes {i : Instr} {n : Nat} (h : queueOf i = some n) (b : Block) (k : Nat) (sl : Slot) :
    consumesOf i b k sl = needsOf i b k sl ∧ (needsOf i b k sl).single := by
  obtain ⟨p, -, sc, b, c0, rfl | rfl | rfl⟩ := queue_cases h
  · exact ⟨rfl, single_lr⟩
  · exact ⟨rfl, single_l⟩
  · exact ⟨rfl, single_l⟩

/-- A queue instruction goes to a queue of its context. -/
theorem queue_waits {i : Instr} {s : State} {c : Cell} {n : Nat} (hq : queueOf i = some n) (h : s.goes i) (hc : s.cell? s.site.cell = some c)
    (hown : s.queueForeign n c.context = false) : Waits i s (fun t => SameCells s t ∧ SameMemory s t ∧ t.queues = s.queues) := by
  obtain ⟨p, hp, hexec⟩ := exec_queue hq s
  have hquiet := quiet_issuing s i
  have hnext : exec i s = .next { s.issuing i with pend := s.pend ++ [s.pendOf i (s.arrivalNote i)] } := by
    rw [hexec, issueQueue, issueCtl_goes h, hp, tagOf_of_cell? hc, hown, if_neg Bool.false_ne_true, wait_issuing]
  exact waits_of_face h hnext (sameFace_of_eq rfl) (issuing_flight s i) rfl rfl rfl rfl rfl
    ⟨hquiet.sameCells, hquiet.sameMemory, issuing_queues s i⟩

/-- At a queue of another context it is refused. -/
theorem queue_refused {i : Instr} {s : State} {c : Cell} {n : Nat} (hq : queueOf i = some n) (h : s.goes i) (hc : s.cell? s.site.cell = some c)
    (hforeign : s.queueForeign n c.context = true) :
    Refused i s (fun t => OwnFault s t 5 0 0 (BitVec.ofNat 64 i.opcode) ∧ t.queues = s.queues) := by
  obtain ⟨p, hp, hexec⟩ := exec_queue hq s
  have hfault := sameButFaults_opcodeFault (s.took s.site i) s.site codeProt i none
  refine refused_of_face h (u := (s.took s.site i).opcodeFault s.site codeProt i) ?_ (sameFace_opcodeFault ..) hfault.flight
    (fun b _ => queue_takes hq b _ _) ⟨?_, (sameButFaults_putBack ..).queues.trans hfault.queues⟩
  · rw [hexec, issueQueue, issueCtl_goes h, hp, tagOf_of_cell? hc, hforeign, if_pos rfl]
  · have hraise := faultTaken_opcodeFault (s.took s.site i) s.site codeProt i none
    rw [took_fireNo] at hraise
    exact hraise.congr (quiet_took s i).sameCells.sameFlt rfl (sameFlt_putBack ..)

/-! What a queue applies. -/

theorem State.queue?_updQueue (s : State) (n : Nat) (f : WorkQueue → WorkQueue) (hf : ∀ q, (f q).num = q.num) :
    (s.updQueue n f).queue? n = (s.queue? n).map f := by
  have hp : ((fun q => q.num == n) ∘ fun q => if q.num = n then f q else q) = fun (q : WorkQueue) => q.num == n := by
    funext q; simp only [Function.comp]; split <;> simp [hf]
  simp only [State.updQueue, State.queue?, List.find?_map, hp]
  cases h : List.find? (fun q => q.num == n) s.queues with
  | none => rfl
  | some q => simp [show q.num = n by simpa using List.find?_some h]

/-- The state in which a queue applies the operation that it has chosen. -/
def State.applying (s : State) (n : Nat) (p : Pend) : State :=
  ({ s.arriveAtQueue n with pend := (s.arriveAtQueue n).pend.filter (fun x => x.stamp != p.stamp) }).updQueue n (fun q => { q with at? := some s.cycle })

theorem exec_workQueueApply_some {s : State} {n : Nat} {q : WorkQueue} {p : Pend} (hq : s.queue? n = some q) (hat : q.at? ≠ some s.cycle)
    (hp : (s.arriveAtQueue n).nextAtQueue q = some p) : exec (.workQueueApply n) s = .next ((s.applying n p).applyQueue q p) := by
  rw [exec_workQueueApply, execWorkQueueApply, hq]
  dsimp only
  rw [if_neg (show ¬ q.at? = some (s.arriveAtQueue n).cycle from hat), hp]
  rfl

theorem applying_queue? {s : State} {n : Nat} {q : WorkQueue} (hq : s.queue? n = some q) (p : Pend) :
    (s.applying n p).queue? n = some { q with at? := some s.cycle } := by
  rw [State.applying, State.queue?_updQueue _ _ _ (fun _ => by rfl)]
  show Option.map _ (s.queue? n) = _
  rw [hq]
  rfl

/-- An operation that changes neither memory nor cells and then replies. -/
theorem reply_beside {s u : State} (hmem : u.mem = s.mem) (hcells : u.cells = s.cells) (hcycle : u.cycle = s.cycle) (hflight : u.flight = s.flight)
    (t : Site) (c : Consumer) (l : List Tok) : SameMemory s (u.reply t c l) ∧ SameCells s (u.reply t c l) ∧
      (u.reply t c l).flight = s.flight ++ s.flights t (l.map (fun k => (c, k))) := by
  refine ⟨sameMemory_of_eq ((reply_mem ..).trans hmem), sameCells_of_eq ((reply_cells ..).trans hcells), ?_⟩
  rw [State.reply_flight, hflight, (sameFace_of_eq hcells).flights hcycle]

section
variable {s : State} {n : Nat} {q : WorkQueue} {p : Pend} (hq : s.queue? n = some q) {w : BitVec 6} {sc : Scope} {b : Bool} {c0 : Consumer}
include hq

/-- A queue changed by the operation that it applies, which replies. -/
theorem applying_reply (f : WorkQueue → WorkQueue) (hf : ∀ q, (f q).num = q.num) (l : List Tok) :
    (((s.applying n p).updQueue n f).reply p.site c0 l).queue? n = some (f { q with at? := some s.cycle }) := by
  rw [State.queue?, reply_queues]
  refine (State.queue?_updQueue (s.applying n p) n f hf).trans ?_
  rw [applying_queue? hq]
  rfl

theorem applyQueue_add (hp : p.instr = .wqadd w sc b c0) (hopen : q.closed = false) :
    SameMemory s ((s.applying n p).applyQueue q p) ∧ SameCells s ((s.applying n p).applyQueue q p) ∧
      ((s.applying n p).applyQueue q p).flight = s.flight ++ s.flights p.site [(c0, ⟨q.added + 1, none⟩)] ∧
      (((s.applying n p).applyQueue q p).queue? n).map (fun x => x.entries) =
        some (q.entries ++ [(tokVal p.ops.r ++ tokVal p.ops.l, p.ops.mark)]) := by
  have hnum : q.num = n := by simpa using List.find?_some hq
  simp only [State.applyQueue, hp, hopen, Bool.false_eq_true, if_false, hnum]
  obtain ⟨hmem, hcells, hflight⟩ := reply_beside (s := s) (u := (s.applying n p).updQueue n _) rfl rfl rfl rfl p.site c0 _
  exact ⟨hmem, hcells, hflight, congrArg (Option.map _) (applying_reply hq _ (fun _ => by rfl) _)⟩

theorem applyQueue_add_closed (hp : p.instr = .wqadd w sc b c0) (hclosed : q.closed = true) :
    SameMemory s ((s.applying n p).applyQueue q p) ∧ ((s.applying n p).applyQueue q p).flight = s.flight ∧
      (((s.applying n p).applyQueue q p).queue? n).map (fun x => x.entries) = some q.entries ∧
      FaultTaken s ((s.applying n p).applyQueue q p) p.stamp p.site.cell 17 0 false (originSpec p.site (s.fireNo p.site)) 0
        (BitVec.ofNat 64 p.instr.opcode) (s.fireNo p.site) := by
  have happly : (s.applying n p).applyQueue q p = ((s.applying n p).refuse p codeWqClosed).putBack p.site p.ops [] := by
    simp only [State.applyQueue, hp, hclosed, if_true]
  have hsame := (sameButFaults_refuse (s.applying n p) p codeWqClosed).trans (sameButFaults_putBack _ p.site p.ops [])
  rw [happly]
  refine ⟨hsame.sameMemory, hsame.flight, ?_, (faultTaken_refuse (s.applying n p) p codeWqClosed).congr rfl rfl (sameFlt_putBack ..)⟩
  rw [State.queue?, hsame.queues]
  exact congrArg (Option.map _) (applying_queue? hq p)

theorem applyQueue_take (hp : p.instr = .wqtake w sc b c0) {x : DWord × Mark} {rest : List (DWord × Mark)} (hx : q.entries = x :: rest) :
    SameMemory s ((s.applying n p).applyQueue q p) ∧ SameCells s ((s.applying n p).applyQueue q p) ∧
      ((s.applying n p).applyQueue q p).flight = s.flight ++ s.flights p.site [(c0, ⟨x.1.extractLsb' 0 32, x.2⟩), (c0, ⟨x.1.extractLsb' 32 32, x.2⟩)] ∧
      (((s.applying n p).applyQueue q p).queue? n).map (fun x => x.entries) = some rest := by
  have hnum : q.num = n := by simpa using List.find?_some hq
  simp only [State.applyQueue, hp, hx, hnum]
  obtain ⟨hmem, hcells, hflight⟩ := reply_beside (s := s) (u := (s.applying n p).updQueue n _) rfl rfl rfl rfl p.site c0 _
  exact ⟨hmem, hcells, hflight, congrArg (Option.map _) (applying_reply hq _ (fun _ => by rfl) _)⟩

omit hq in
theorem applyQueue_take_empty (hp : p.instr = .wqtake w sc b c0) (hx : q.entries = []) :
    SameMemory s ((s.applying n p).applyQueue q p) ∧ SameCells s ((s.applying n p).applyQueue q p) ∧
      ((s.applying n p).applyQueue q p).flight = s.flight ++ s.flights p.site [(c0, ⟨0xFFFFFFFF, none⟩), (c0, ⟨0xFFFFFFFF, none⟩)] := by
  simp only [State.applyQueue, hp, hx]
  exact reply_beside rfl rfl rfl rfl ..

theorem applyQueue_close (hp : p.instr = .wqclose w sc b c0) :
    SameMemory s ((s.applying n p).applyQueue q p) ∧ SameCells s ((s.applying n p).applyQueue q p) ∧
      ((s.applying n p).applyQueue q p).flight = s.flight ++ s.flights p.site [(c0, ⟨0, none⟩)] ∧
      (((s.applying n p).applyQueue q p).queue? n).map (fun x => (x.closed, x.entries)) = some (true, q.entries) := by
  have hnum : q.num = n := by simpa using List.find?_some hq
  simp only [State.applyQueue, hp, hnum]
  obtain ⟨hmem, hcells, hflight⟩ := reply_beside (s := s) (u := (s.applying n p).updQueue n _) rfl rfl rfl rfl p.site c0 _
  exact ⟨hmem, hcells, hflight, congrArg (Option.map _) (applying_reply hq _ (fun _ => by rfl) _)⟩

end

end Sys2Proof.Machine

namespace Sys2Proof
open Sys2Proof.Machine

/-- Settles O41: an issue puts the instruction in the list or is refused; a queue's turn is `applyQueue` of the operation that it chooses. -/
theorem workQueues : Obligations.WorkQueues := by
  unfold Obligations.WorkQueues
  refine ⟨fun i s c n hi h hc => ⟨queue_waits hi h hc, queue_refused hi h hc⟩, fun s n q p hq hat hp => ?_⟩
  have hexec := exec_workQueueApply_some hq hat hp
  refine ⟨fun w sc rel c0 hi hopen => ⟨_, hexec, applyQueue_add hq hi hopen⟩,
    fun w sc rel c0 hi hclosed => ⟨_, hexec, applyQueue_add_closed hq hi hclosed⟩,
    fun w sc acq c0 hi => ⟨fun x rest hx => ⟨_, hexec, applyQueue_take hq hi hx⟩, fun hx => ⟨_, hexec, applyQueue_take_empty hi hx⟩⟩,
    fun w sc rel c0 hi => ⟨_, hexec, applyQueue_close hq hi⟩⟩

end Sys2Proof
end

section
/-! PROOFS. O43: host ports (R79, R80, R97, R98) -/

namespace Sys2Proof.Machine

/-! An instruction that issues, waits, and is tried at once. -/

theorem issuing_with_pend (s : State) (i : Instr) : ({ s.issuing i with pend := s.pend } : State) = s.issuing i := by rw [← issuing_pend s i]

/-- The outcome of the first attempt of an instruction that waits as `p`. -/
def State.tried (s : State) (i : Instr) (p : Pend) (attempt : State → Pend → Option State) : State :=
  (attempt (s.issuing i) p).getD { s.issuing i with pend := s.pend ++ [p] }

theorem tryPend_issuing (s : State) (i : Instr) (p : Pend) (attempt : State → Pend → Option State) :
    ({ s.issuing i with pend := s.pend ++ [p] } : State).tryPend (({ s.issuing i with pend := s.pend ++ [p] } : State).pend.length - 1) attempt =
      s.tried i p attempt := by
  rw [tryPend_last, issuing_with_pend, State.tried]

theorem issueCtl_tries {i : Instr} {s : State} (h : s.goes i) (notes : List Nat) (attempt : State → Pend → Option State) :
    issueCtl i s (fun s' o => ((s'.reserveAll s.site (emitsOf i .empty)).wait s.site i o [] notes).tryPend
      (((s'.reserveAll s.site (emitsOf i .empty)).wait s.site i o [] notes).pend.length - 1) attempt) =
      .next (s.tried i (s.pendOf i notes) attempt) := by
  rw [issueCtl_goes h, wait_issuing, tryPend_issuing]

theorem tried_some {i : Instr} {s t : State} {p : Pend} {attempt : State → Pend → Option State}
    (h : attempt (s.issuing i) p = some t) : s.tried i p attempt = t := by rw [State.tried, h]; rfl

theorem waits_of_tried {i : Instr} {s : State} {p : Pend} {attempt : State → Pend → Option State} {P : State → Prop} (h : s.goes i)
    (he : exec i s = .next (s.tried i p attempt)) (hsite : p.site = s.site) (hinstr : p.instr = i) (hops : p.ops = s.opnds s.site i)
    (hfire : p.fire = s.fireNo s.site) (hnone : attempt (s.issuing i) p = none) (hP : P { s.issuing i with pend := s.pend ++ [p] }) : Waits i s P := by
  rw [State.tried, hnone] at he
  exact waits_of_face h he (sameFace_of_eq rfl) (issuing_flight s i) rfl hsite hinstr hops hfire hP

/-! Host ports (R79, R80, R97, R98). -/

theorem State.hostPort_updHostPort (s : State) (n : Nat) (f : HostPort → HostPort) (hf : ∀ h, (f h).num = h.num)
    (hsome : (s.hostPorts.find? (fun h => h.num == n)).isSome = true) : (s.updHostPort n f).hostPort n = f (s.hostPort n) := by
  have hp : ((fun h => h.num == n) ∘ fun h => if h.num = n then f h else h) = fun (h : HostPort) => h.num == n := by
    funext h; simp only [Function.comp]; split <;> simp [hf]
  obtain ⟨h, hfind⟩ := Option.isSome_iff_exists.mp hsome
  simp only [State.updHostPort, State.hostPort, List.find?_map, hp, hfind, Option.map_some, Option.getD_some,
    show h.num = n by simpa using List.find?_some hfind, if_true]

/-- A port of a context is there: one that is not has no owner. -/
theorem hostPort_isSome {s : State} {n : Nat} {ctx : Nat} (h : (s.hostPort n).foreign ctx = false) :
    (s.hostPorts.find? (fun h => h.num == n)).isSome = true := by
  cases hfind : s.hostPorts.find? (fun h => h.num == n) with
  | some _ => rfl
  | none =>
    rw [State.hostPort, hfind, HostPort.foreign] at h
    simp at h

theorem issuing_hostPort (s : State) (i : Instr) (n : Nat) : (s.issuing i).hostPort n = s.hostPort n := by
  rw [State.hostPort, State.hostPort, issuing_hostPorts]

theorem hostEarlier_issuing {s : State} {i : Instr} (notes : List Nat) (h : ∀ q ∈ s.pend, hostPortOf q.instr ≠ hostPortOf i) :
    (s.issuing i).hostEarlier (s.pendOf i notes) = false := by
  rw [State.hostEarlier, issuing_pend, List.any_eq_false]
  intro q hq
  have hne := h q hq
  simp [State.pendOf, hne]

theorem sameSysRegs_of_eq {s t : State} (hctxs : t.ctxs = s.ctxs) (hdev : t.dev = s.dev) : SameSysRegs s t :=
  ⟨fun k => State.ctxRegs_congr s t hctxs k, hdev⟩

theorem SameSysRegs.trans {s t u : State} (h : SameSysRegs s t) (h' : SameSysRegs t u) : SameSysRegs s u :=
  ⟨fun k => (h'.1 k).trans (h.1 k), h'.2.trans h.2⟩

/-- A host-port instruction changes its port and replies. -/
theorem hostPort_runs {i : Instr} {s : State} {p : Pend} {attempt : State → Pend → Option State} {n : Nat} {f : HostPort → HostPort}
    {c0 : Consumer} {k : Tok} (h : s.goes i) (he : exec i s = .next (s.tried i p attempt))
    (hsome : (s.hostPorts.find? (fun h => h.num == n)).isSome = true) (hf : ∀ h, (f h).num = h.num)
    (hattempt : attempt (s.issuing i) p = some (((s.issuing i).updHostPort n f).reply s.site c0 [k])) :
    Runs i s [(c0, k)] (fun t => SameCells s t ∧ SameMemory s t ∧ SameSysRegs s t ∧ t.hostPort n = f (s.hostPort n)) := by
  have hquiet := quiet_issuing s i
  rw [tried_some hattempt] at he
  refine runs_of_reply h c0 k he (sameFace_of_eq rfl) (issuing_cycle s i) (issuing_flight s i)
    ⟨hquiet.sameCells.trans (sameCells_of_eq (reply_cells ..)), hquiet.sameMemory.trans (sameMemory_of_eq (reply_mem ..)),
      hquiet.sameSysRegs.trans (sameSysRegs_of_eq (reply_ctxs ..) (reply_dev ..)), ?_⟩
  rw [State.hostPort, reply_hostPorts]
  refine (State.hostPort_updHostPort (s.issuing i) n f hf (by rw [issuing_hostPorts]; exact hsome)).trans ?_
  rw [issuing_hostPort]

/-! INGRESS. -/

theorem exec_ingress_goes {p : BitVec 6} {acq : Bool} {c0 : Consumer} {s : State} (h : s.goes (.ingress p acq c0)) :
    exec (.ingress p acq c0) s =
      .next (s.tried (.ingress p acq c0) (s.pendOf (.ingress p acq c0) [s.cycle]) (fun s q => s.ingressAttempt p.toNat c0 q)) :=
  (exec_ingress p acq c0 s).trans (issueCtl_tries h [s.cycle] _)

theorem ingressAttempt_own {p : BitVec 6} {acq : Bool} {c0 : Consumer} {s : State} {c : Cell} (hc : s.cell? s.site.cell = some c)
    (hown : (s.hostPort p.toNat).foreign c.context = false) (hfirst : ∀ q ∈ s.pend, hostPortOf q.instr ≠ some (true, p.toNat)) :
    (s.issuing (.ingress p acq c0)).ingressAttempt p.toNat c0 (s.pendOf (.ingress p acq c0) [s.cycle]) =
      if acq = true ∧ s.hostOps.any (fun x => x.put.isSome) = true then none
      else match (s.hostPort p.toNat).ingress with
        | [] => none
        | v :: rest => some (((s.issuing (.ingress p acq c0)).updHostPort p.toNat (fun h => { h with ingress := rest })).reply s.site c0
            [⟨v, s.omark (.ingress p acq c0)⟩]) := by
  have htag : (s.issuing (.ingress p acq c0)).tagOf s.site.cell = c.context := (issuing_tagOf ..).trans (tagOf_of_cell? hc)
  have hearlier := hostEarlier_issuing (i := .ingress p acq c0) [s.cycle] hfirst
  have hout : (s.issuing (.ingress p acq c0)).hostWritesOut (.ingress p acq c0) = (acq && s.hostOps.any (fun x => x.put.isSome)) := by
    cases acq
    · rfl
    · rw [State.hostWritesOut, issuing_hostOps, Bool.true_and]
  simp only [State.ingressAttempt, issuing_hostPort, show (s.pendOf (.ingress p acq c0) [s.cycle]).site = s.site from rfl, htag, hown,
    Bool.false_eq_true, if_false, hearlier, Bool.false_or, show (s.pendOf (.ingress p acq c0) [s.cycle]).instr = .ingress p acq c0 from rfl, hout,
    Bool.and_eq_true]
  rfl

/-! EGRESS. -/

/-- The note with which an EGRESS begins to wait. -/
def State.egressNotes (s : State) (p : BitVec 6) (rel : Bool) (c0 : Consumer) : List Nat :=
  if s.behindEgress s.site.cell (.egress p rel c0) s.stamps then [] else s.arrivalNote (.egress p rel c0)

theorem exec_egress_goes {p : BitVec 6} {rel : Bool} {c0 : Consumer} {s : State} (h : s.goes (.egress p rel c0)) :
    exec (.egress p rel c0) s = .next (s.tried (.egress p rel c0) (s.pendOf (.egress p rel c0) (s.egressNotes p rel c0))
      (fun s q => s.egressAttempt p.toNat c0 q)) :=
  (exec_egress p rel c0 s).trans (issueCtl_tries h (s.egressNotes p rel c0) _)

/-- The first EGRESS to its port arrives as it issues, where nothing holds it back. -/
theorem egressNotes_first {p : BitVec 6} {rel : Bool} {c0 : Consumer} {s : State} (hfirst : ∀ q ∈ s.pend, hostPortOf q.instr ≠ some (false, p.toNat))
    (hrel : rel = true → s.performedBefore s.site.cell s.stamps = true) : s.egressNotes p rel c0 = [s.cycle] := by
  have hbehind : s.behindEgress s.site.cell (.egress p rel c0) s.stamps = false := by
    rw [State.behindEgress, List.any_eq_false]
    intro q hq
    have hne : hostPortOf q.instr ≠ hostPortOf (.egress p rel c0) := hfirst q hq
    simp [hne]
  rw [State.egressNotes, hbehind, if_neg Bool.false_ne_true, State.arrivalNote]
  refine if_neg ?_
  cases rel
  · exact Bool.false_ne_true
  · simp [hrel rfl]

theorem egressAttempt_own {p : BitVec 6} {rel : Bool} {c0 : Consumer} {s : State} {c : Cell} (hc : s.cell? s.site.cell = some c)
    (hown : (s.hostPort p.toNat).foreign c.context = false) (hfirst : ∀ q ∈ s.pend, hostPortOf q.instr ≠ some (false, p.toNat))
    (hroom : (s.hostPort p.toNat).egress.length < 256) (hmark : s.omark (.egress p rel c0) = none) :
    (s.issuing (.egress p rel c0)).egressAttempt p.toNat c0 (s.pendOf (.egress p rel c0) [s.cycle]) =
      some (((s.issuing (.egress p rel c0)).updHostPort p.toNat (fun h =>
        { h with egress := h.egress ++ [s.rval (.egress p rel c0) ++ s.lval (.egress p rel c0)] })).reply s.site c0 [⟨0, none⟩]) := by
  have htag : (s.issuing (.egress p rel c0)).tagOf s.site.cell = c.context := (issuing_tagOf ..).trans (tagOf_of_cell? hc)
  have hearlier := hostEarlier_issuing (i := .egress p rel c0) [s.cycle] hfirst
  have hmark' : (s.pendOf (.egress p rel c0) [s.cycle]).ops.mark = none := hmark
  simp only [State.egressAttempt, issuing_hostPort, show (s.pendOf (.egress p rel c0) [s.cycle]).site = s.site from rfl, htag, hown,
    Bool.false_eq_true, if_false, hearlier, Bool.false_or, show (s.pendOf (.egress p rel c0) [s.cycle]).notes = [s.cycle] from rfl,
    List.isEmpty_cons, decide_eq_true_eq, if_neg (Nat.not_le.mpr hroom), hmark']
  rfl

/-! A port of another context. -/

theorem hostPort_takes {i : Instr} {x : Bool × Nat} (h : hostPortOf i = some x) (b : Block) (k : Nat) (sl : Slot) :
    consumesOf i b k sl = needsOf i b k sl ∧ (needsOf i b k sl).single := by
  unfold hostPortOf at h
  split at h
  · refine ⟨rfl, ?_⟩
    rw [needsOf]
    split
    · exact fun f => rfl
    · exact single_l
  · refine ⟨rfl, ?_⟩
    rw [needsOf]
    split
    · exact single_lr
    · exact single_l
  · cases h

/-- At a port of another context either instruction faults and has its tokens again. -/
theorem exec_hostPort_foreign {i : Instr} {b : Bool} {n : Nat} {s : State} {c : Cell} (hi : hostPortOf i = some (b, n)) (h : s.goes i)
    (hc : s.cell? s.site.cell = some c) (hforeign : (s.hostPort n).foreign c.context = true) : ∃ notes,
    exec i s = .next (((s.issuing i).refuse (s.pendOf i notes) codeProt).putBack s.site (s.opnds s.site i) []) := by
  have htag : (s.issuing i).tagOf s.site.cell = c.context := (issuing_tagOf ..).trans (tagOf_of_cell? hc)
  unfold hostPortOf at hi
  split at hi
  · rename_i p acq c0
    obtain ⟨-, rfl⟩ := Prod.mk.inj (Option.some.inj hi)
    refine ⟨[s.cycle], (exec_ingress_goes h).trans (congrArg _ (tried_some ?_))⟩
    simp only [State.ingressAttempt, issuing_hostPort, show (s.pendOf (.ingress p acq c0) [s.cycle]).site = s.site from rfl, htag, hforeign, if_true]
    rfl
  · rename_i p rel c0
    obtain ⟨-, rfl⟩ := Prod.mk.inj (Option.some.inj hi)
    refine ⟨s.egressNotes p rel c0, (exec_egress_goes h).trans (congrArg _ (tried_some ?_))⟩
    simp only [State.egressAttempt, issuing_hostPort, show (s.pendOf (.egress p rel c0) (s.egressNotes p rel c0)).site = s.site from rfl, htag,
      hforeign, if_true]
    rfl
  · cases hi

theorem hostPort_refused {i : Instr} {b : Bool} {n : Nat} {s : State} {c : Cell} (hi : hostPortOf i = some (b, n)) (h : s.goes i)
    (hc : s.cell? s.site.cell = some c) (hforeign : (s.hostPort n).foreign c.context = true) :
    Refused i s (fun t => OwnFault s t 5 0 0 (BitVec.ofNat 64 i.opcode) ∧ t.hostPorts = s.hostPorts) := by
  obtain ⟨notes, he⟩ := exec_hostPort_foreign hi h hc hforeign
  have hfault := sameButFaults_refuse (s.issuing i) (s.pendOf i notes) codeProt
  refine refused_of_face h he ((sameFace_issuing s i).trans (sameFace_refuse ..)) (hfault.flight.trans (issuing_flight s i))
    (fun b _ => hostPort_takes hi b _ _) ⟨?_, (sameButFaults_putBack ..).hostPorts.trans (hfault.hostPorts.trans (issuing_hostPorts s i))⟩
  have htaken := faultTaken_refuse (s.issuing i) (s.pendOf i notes) codeProt
  rw [show (s.pendOf i notes).site = s.site from rfl, issuing_fireNo] at htaken
  exact htaken.congr (quiet_issuing s i).sameCells.sameFlt (issuing_cycle s i).symm (sameFlt_putBack ..)

end Sys2Proof.Machine

namespace Sys2Proof
open Sys2Proof.Machine

/-- Settles O43: at a port of its context each instruction acts in its first turn or waits; at any other it has its tokens again. -/
theorem hostPortInstructions : Obligations.HostPortInstructions := by
  unfold Obligations.HostPortInstructions
  refine ⟨fun p acq c0 s c h hc hown hfirst => ?_, fun p rel c0 s c h hc hown hfirst hrel hroom hmark => ?_,
    fun i s c b n hi h hc hforeign => hostPort_refused hi h hc hforeign⟩
  · have hattempt := ingressAttempt_own (acq := acq) (c0 := c0) hc hown hfirst
    constructor
    · intro v rest hout hv
      have hgo : ¬ (acq = true ∧ s.hostOps.any (fun x => x.put.isSome) = true) := fun ⟨hacq, hany⟩ => by
        rw [hout hacq] at hany; cases hany
      rw [if_neg hgo, hv] at hattempt
      exact hostPort_runs (f := fun h => { h with ingress := rest }) h (exec_ingress_goes h) (hostPort_isSome hown) (fun _ => rfl) hattempt
    · intro hwait
      refine waits_of_tried h (exec_ingress_goes h) rfl rfl rfl rfl ?_ ⟨(quiet_issuing s (.ingress p acq c0)).sameMemory, issuing_hostPorts s (.ingress p acq c0)⟩
      rw [hattempt]
      split
      · rfl
      · next hgo => rw [hwait.resolve_right hgo]
  · have hattempt := egressAttempt_own hc hown hfirst hroom hmark
    rw [← egressNotes_first hfirst hrel] at hattempt
    exact hostPort_runs (f := fun x => { x with egress := x.egress ++ [s.rval (.egress p rel c0) ++ s.lval (.egress p rel c0)] }) h
      (exec_egress_goes h) (hostPort_isSome hown) (fun _ => rfl) hattempt

end Sys2Proof
end

section
/-! PROOFS. Memory in which nothing has moved: requests of DRAM lines without an error (R225, R357, R380) -/

namespace Sys2Proof.Machine

/-! Memory in which no byte, mark, version, page or bank has moved. -/

/-- Memory that differs from another in its caches, charges and free choices alone, and in which no error has come up. -/
structure MemSys.Unmoved (m m' : MemSys) : Prop where
  bytes : m'.bytes = m.bytes
  marks : m'.marks = m.marks
  vers : m'.vers = m.vers
  segs : m'.segs = m.segs
  banks : m'.banks = m.banks
  tlb : m'.tlb = m.tlb
  sound : ∀ l, m.bad.contains l = false → m'.bad.contains l = false

theorem MemSys.Unmoved.refl (m : MemSys) : m.Unmoved m := ⟨rfl, rfl, rfl, rfl, rfl, rfl, fun _ h => h⟩

theorem MemSys.Unmoved.trans {m m' m'' : MemSys} (h : m.Unmoved m') (h' : m'.Unmoved m'') : m.Unmoved m'' :=
  ⟨h'.bytes.trans h.bytes, h'.marks.trans h.marks, h'.vers.trans h.vers, h'.segs.trans h.segs, h'.banks.trans h.banks, h'.tlb.trans h.tlb,
    fun l hl => h'.sound l (h.sound l hl)⟩

/-- What stands at an address is decided by the bytes and the segments. -/
theorem MemSys.look_congr {m m' : MemSys} (a : Nat) (hb : Memory.get m'.bytes a = Memory.get m.bytes a) (hs : m'.segs = m.segs) :
    m'.look a = m.look a := by
  have hseg : ∀ p, m'.seg p = m.seg p := fun p => by rw [MemSys.seg, hs, MemSys.seg]
  simp only [MemSys.look, MemSys.spadByte, hb, hseg]

theorem MemSys.Unmoved.look {m m' : MemSys} (h : m.Unmoved m') (a : Nat) : m'.look a = m.look a := MemSys.look_congr a (by rw [h.bytes]) h.segs

theorem MemSys.Unmoved.sameMemory {s t : State} (h : s.mem.Unmoved t.mem) : SameMemory s t := ⟨h.look, h.marks, h.vers, h.segs, h.banks⟩

theorem MemSys.unmoved_charge (m : MemSys) (tag kind n : Nat) : m.Unmoved (m.charge tag kind n) := ⟨rfl, rfl, rfl, rfl, rfl, rfl, fun _ h => h⟩

theorem MemSys.unmoved_evict (m : MemSys) (line : Nat) : m.Unmoved (m.evict line) := by
  unfold MemSys.evict
  split
  · exact .refl m
  · dsimp only
    split_ifs
    · exact ⟨rfl, rfl, rfl, rfl, rfl, rfl, fun _ => contains_filter_of_not _⟩
    · exact ⟨rfl, rfl, rfl, rfl, rfl, rfl, fun _ h => h⟩

theorem MemSys.unmoved_makeRoom (m : MemSys) (line : Nat) : m.Unmoved (m.makeRoom line) := by
  unfold MemSys.makeRoom
  dsimp only
  split
  · exact .refl m
  · split
    · next x _ => exact (MemSys.unmoved_evict m x.line).trans ⟨rfl, rfl, rfl, rfl, rfl, rfl, fun _ h => h⟩
    · exact .refl m

/-- A request at the home of a line in which no error stands. -/
theorem MemSys.unmoved_atHome {m : MemSys} {line : Nat} (h : m.bad.contains line = false) (tag n : Nat) (write full : Bool) :
    m.Unmoved (m.atHome tag line n write full) := by
  unfold MemSys.atHome
  extract_lets held late hit m1 m2 m3 m4
  have h1 : m.Unmoved m1 ∧ m1.bad = m.bad := by
    simp only [m1]
    split_ifs <;> exact ⟨⟨rfl, rfl, rfl, rfl, rfl, rfl, fun _ h => h⟩, rfl⟩
  have h2 : m.Unmoved m2 ∧ m2.bad = m.bad := by
    simp only [m2]
    split_ifs
    · exact ⟨h1.1.trans (m1.unmoved_charge ..), h1.2⟩
    · exact ⟨(h1.1.trans (m1.unmoved_charge ..)).trans (MemSys.unmoved_charge ..), h1.2⟩
  have h3 : m.Unmoved m3 := by
    simp only [m3]
    split_ifs with hfull hlost
    · exact h2.1.trans ⟨rfl, rfl, rfl, rfl, rfl, rfl, fun _ => contains_filter_of_not _⟩
    · rw [h2.2, h] at hlost
      simp at hlost
    · exact h2.1
  have h4 : m.Unmoved m4 := h3.trans (m3.unmoved_makeRoom line)
  split_ifs
  · exact h3.trans ⟨rfl, rfl, rfl, rfl, rfl, rfl, fun _ h => h⟩
  · exact h3
  · exact h4.trans ⟨rfl, rfl, rfl, rfl, rfl, rfl, fun _ h => h⟩

/-- A read in a DRAM line in which no error stands. -/
theorem MemSys.readAs_dram {m : MemSys} {pa : Nat} (ht : target pa = some .dram) (hb : m.bad.contains (pa / 64) = false) (wakes : Bool)
    (now tag n : Nat) : ∃ m', m.readAs wakes now tag pa n = (m', .bytes (m.plain pa n) (m.marks.contains (pa / 64))) ∧ m.Unmoved m' := by
  have h := MemSys.unmoved_atHome hb tag n false false
  refine ⟨m.atHome tag (pa / 64) n false false, ?_, h⟩
  simp only [MemSys.readAs, ht, MemSys.plain, h.bytes, h.marks]

/-- A write in a DRAM line in which no error stands. -/
theorem MemSys.write_dram {m : MemSys} {pa : Nat} (ht : target pa = some .dram) (hb : m.bad.contains (pa / 64) = false) (now tag : Nat)
    (bs : List Byte) (poison : Bool) : (m.write now tag pa bs poison).1.bytes = Memory.setAll m.bytes pa bs ∧
      (m.write now tag pa bs poison).1.segs = m.segs ∧ (m.write now tag pa bs poison).1.banks = m.banks := by
  have h := MemSys.unmoved_atHome hb tag bs.length true (bs.length == 64)
  simp only [MemSys.write, ht, h.bytes, h.segs, h.banks, and_self]

/-- A range that lies in one line is one request. -/
theorem lineChunks_one {va n : Nat} (hn : 0 < n) (h : n ≤ 64 - va % 64) (hva : va < 2 ^ 64) : lineChunks va n = [(va, n)] := by
  have hcount : (va % 64 + n + 63) / 64 = 1 := by omega
  have hlo : max va (va / 64 * 64) = va := by omega
  have hhi : min (va + n) ((va / 64 + 1) * 64) = va + n := by omega
  simp only [lineChunks, if_neg hn.ne', hcount, List.range_one, List.map_cons, List.map_nil, Nat.add_zero, hlo, hhi, Nat.mod_eq_of_lt hva,
    Nat.add_sub_cancel_left]

theorem target_dram {pa : Nat} : target pa = some .dram ↔ pa < 0x8000000000 := by
  unfold target
  split_ifs with h1 h2 h3 <;> simp [h1]

end Sys2Proof.Machine
end

section
/-! PROOFS. O47: what the host writes and reads (R77 to R79, R82, R114, R366, R383) -/

namespace Sys2Proof.Machine

/-! The launch page and the host ports' pages (R77 to R79, R82). -/

theorem exec_launchToken_ready (v : Word) {s : State} (hready : s.boot.phase = .ready) (hroom : s.queued.length < 64) :
    ∃ t l, exec (.launchToken v) s = .next t ∧ t.lrec = s.lrec.set 11 v ∧ t.launchQ = s.launchQ ++ [l] ∧ l.words = t.lrec ∧ l.cmd = none ∧
      t.boot = { s.boot with sleep := false } ∧ SameCells s t ∧ SameMemory s t := by
  have hroom' : ({ s with lrec := s.lrec.set 11 v } : State).queued.length < 64 := hroom
  rw [exec_launchToken, execLaunchToken, if_pos hready]
  dsimp only
  rw [State.raiseLaunch, if_pos hroom']
  exact ⟨_, _, rfl, rfl, rfl, rfl, rfl, rfl, sameCells_of_eq rfl, sameMemory_of_eq rfl⟩

theorem recovering_eq_minimal {s : State} (hready : s.boot.phase = .ready) : s.recovering = s.boot.minimal := by
  simp only [State.recovering, hready]

theorem exec_hostRegisterWrite_lrec {off : Nat} (v : DWord) {s : State} (hready : s.boot.phase = .ready) (hmin : s.boot.minimal = false)
    (hoff : off < 0x2C) (hal : off % 4 = 0) : exec (.hostRegisterWrite 0 off v) s = .next { s with lrec := s.lrec.set (off / 4) (v.setWidth 32) } := by
  have hlow : lowWord v = v.setWidth 32 := BitVec.setWidth_eq_extractLsb' (by omega) |>.symm
  rw [exec_hostRegisterWrite, execHostRegisterWrite, if_pos rfl, recovering_eq_minimal hready, hmin, if_neg Bool.false_ne_true,
    if_pos ⟨hready, hoff, hal⟩, hlow]

theorem exec_hostRegisterWrite_ovf (p : BitVec 6) {v : DWord} {s : State} (hv : v.getLsbD 31 = true)
    (hsome : (s.hostPorts.find? (fun h => h.num == p.toNat)).isSome = true) :
    ∃ t, exec (.hostRegisterWrite (p.toNat + 1) 8 v) s = .next t ∧ t.hostPort p.toNat = { s.hostPort p.toNat with ovf := false } ∧ SameCells s t := by
  have hp : p.toNat + 1 ≤ 64 := p.isLt
  rw [exec_hostRegisterWrite, execHostRegisterWrite, if_neg (by omega), if_pos ⟨hp, rfl, hv⟩]
  exact ⟨_, rfl, s.hostPort_updHostPort p.toNat _ (fun _ => rfl) hsome, sameCells_of_eq rfl⟩

/-- A host port with an owner is there. -/
theorem hostPort_isSome_of_enabled {s : State} {n : Nat} (h : (s.hostPort n).owner.getLsbD 31 = true) :
    (s.hostPorts.find? (fun h => h.num == n)).isSome = true :=
  hostPort_isSome (ctx := (s.hostPort n).owner.toNat % 4096) (by rw [HostPort.foreign, h]; simp)

/-- A host port with an entry is there. -/
theorem hostPort_isSome_of_egress {s : State} {n : Nat} {x : DWord} {rest : List DWord} (h : (s.hostPort n).egress = x :: rest) :
    (s.hostPorts.find? (fun h => h.num == n)).isSome = true := by
  cases hfind : s.hostPorts.find? (fun h => h.num == n) with
  | some _ => rfl
  | none => rw [State.hostPort, hfind] at h; cases h

theorem exec_ingToken_enabled (p : BitVec 6) (v : Word) {s : State} (h : (s.hostPort p.toNat).owner.getLsbD 31 = true) :
    ∃ t, exec (.ingToken p v) s = .next t ∧ SameCells s t ∧ SameMemory s t ∧ t.hostPort p.toNat =
      if (s.hostPort p.toNat).ingress.length < 64 then { s.hostPort p.toNat with ingress := (s.hostPort p.toNat).ingress ++ [v] }
      else { s.hostPort p.toNat with ovf := true } := by
  refine ⟨_, exec_ingToken p v s, sameCells_of_eq rfl, sameMemory_of_eq rfl, ?_⟩
  refine (s.hostPort_updHostPort p.toNat _ (fun x => ?_) (hostPort_isSome_of_enabled h)).trans ?_
  · split_ifs <;> rfl
  · simp only [h, Bool.true_and, decide_eq_true_eq]

theorem exec_egDataRead_entry (p : BitVec 6) {s : State} {x : DWord} {rest : List DWord} (h : (s.hostPort p.toNat).egress = x :: rest) :
    ∃ t, exec (.egDataRead p) s = .next t ∧ SameCells s t ∧ SameMemory s t ∧
      t.hostPort p.toNat = { s.hostPort p.toNat with egress := rest } ∧ t.outbox = s.outbox ++ [⟨4, leBytes 8 x.toNat, 0⟩] := by
  have hport := s.hostPort_updHostPort p.toNat (fun h => { h with egress := rest }) (fun _ => rfl) (hostPort_isSome_of_egress h)
  rw [exec_egDataRead, execEgDataRead]
  dsimp only
  rw [h]
  dsimp only
  refine ⟨_, rfl, sameCells_of_eq ?_, (MemSys.Unmoved.sameMemory ?_), ?_, ?_⟩
  · split_ifs <;> rfl
  · split_ifs <;> exact s.mem.unmoved_charge ..
  · split_ifs <;> exact hport
  · split_ifs <;> rfl

theorem exec_egDataRead_empty (p : BitVec 6) {s : State} (h : (s.hostPort p.toNat).egress = []) :
    ∃ t, exec (.egDataRead p) s = .next t ∧ SameCells s t ∧ SameMemory s t ∧ t.hostPorts = s.hostPorts ∧
      t.outbox = s.outbox ++ [⟨4, List.replicate 8 0xFF, 0⟩] := by
  rw [exec_egDataRead, execEgDataRead]
  dsimp only
  rw [h]
  exact ⟨_, rfl, sameCells_of_eq rfl, (s.mem.unmoved_charge ..).sameMemory, rfl, rfl⟩

theorem exec_ownerWrite_port (p : BitVec 6) (v : Word) {s : State} (h : (s.hostPorts.find? (fun h => h.num == p.toNat)).isSome = true) :
    ∃ t, exec (.ownerWrite p v) s = .next t ∧ SameCells s t ∧ SameMemory s t ∧
      t.hostPort p.toNat = { s.hostPort p.toNat with owner := v &&& 0x80000FFF, ingress := [], egress := [] } :=
  ⟨_, exec_ownerWrite p v s, sameCells_of_eq rfl, sameMemory_of_eq rfl, s.hostPort_updHostPort p.toNat _ (fun _ => rfl) h⟩

/-! Recovery (R366). -/

theorem recovering_of {s : State} (h : s.boot.phase = .recovery ∨ (s.boot.minimal = true ∧ s.boot.phase ≠ .off)) : s.recovering = true := by
  unfold State.recovering
  rcases h with h | ⟨hmin, hoff⟩
  · rw [h]
  · split
    · rfl
    · next hphase => exact absurd hphase hoff
    all_goals exact hmin

theorem exec_rcvGo_recovering {s : State} (h : s.recovering = true) :
    (imageReason s.boot.rollback (s.mem.hostBytes s.boot.rcvAddr.toNat s.boot.rcvLen.toNat) = none →
      ∃ t, exec .rcvGo s = .next t ∧ t.boot.image = s.mem.hostBytes s.boot.rcvAddr.toNat s.boot.rcvLen.toNat ∧ t.boot.phase = .held ∧ t.cells = []) ∧
    ∀ r, imageReason s.boot.rollback (s.mem.hostBytes s.boot.rcvAddr.toNat s.boot.rcvLen.toNat) = some r →
      ∃ t, exec .rcvGo s = .next t ∧ t.boot = { s.boot with reason := r } ∧ SameCells s t := by
  rw [exec_rcvGo, execRcvGo, if_pos h]
  constructor
  · intro hgood
    dsimp only
    rw [hgood]
    exact ⟨_, rfl, rfl, rfl, rfl⟩
  · intro r hbad
    dsimp only
    rw [hbad]
    exact ⟨_, rfl, rfl, sameCells_of_eq rfl⟩

/-! The memory BAR (R383). -/

theorem barClosed_ready {s : State} (h : s.boot.phase = .ready) : s.wakeUp.barClosed = false := by
  simp only [State.barClosed, State.wakeUp, h]

theorem barClosed_recovery {s : State} (h : s.boot.phase = .recovery ∨ s.boot.phase = .minimal) : s.wakeUp.barClosed = true := by
  rcases h with h | h <;> simp only [State.barClosed, State.wakeUp, h]

theorem exec_hostMemoryRead_own {off : Nat} (n : Nat) {s : State} (h : s.boot.phase = .ready) (hoff : off < 2 ^ 40) :
    exec (.hostMemoryRead off n) s =
      .next { s with boot := { s.boot with sleep := false }, hostOps := s.hostOps ++ [⟨off, none, n, s.cycle⟩] } := by
  rw [exec_hostMemoryRead, execHostMemoryRead]
  dsimp only
  rw [barClosed_ready h, if_neg Bool.false_ne_true, if_neg (Nat.not_le.mpr hoff)]
  rfl

theorem exec_hostMemoryWrite_own {off : Nat} (bytes : List Byte) {s : State} (h : s.boot.phase = .ready) (hoff : off < 2 ^ 40) :
    exec (.hostMemoryWrite off bytes) s =
      .next { s with boot := { s.boot with sleep := false }, hostOps := s.hostOps ++ [⟨off, some bytes, bytes.length, s.cycle⟩] } := by
  rw [exec_hostMemoryWrite, execHostMemoryWrite]
  dsimp only
  rw [barClosed_ready h, if_neg Bool.false_ne_true, if_neg (Nat.not_le.mpr hoff)]
  rfl

theorem exec_hostMemory_closed (off n : Nat) (bytes : List Byte) {s : State} (h : s.boot.phase = .recovery ∨ s.boot.phase = .minimal) :
    (∃ t, exec (.hostMemoryRead off n) s = .next t ∧ t.mem = s.mem ∧ SameCells s t ∧ t.outbox = s.outbox ++ [⟨5, List.replicate n 0, 0⟩]) ∧
    ∃ t, exec (.hostMemoryWrite off bytes) s = .next t ∧ t.mem = s.mem ∧ SameCells s t ∧ t.hostOps = s.hostOps := by
  rw [exec_hostMemoryRead, execHostMemoryRead, exec_hostMemoryWrite, execHostMemoryWrite]
  dsimp only
  rw [barClosed_recovery h, if_pos rfl, if_pos rfl]
  exact ⟨⟨_, rfl, rfl, sameCells_of_eq rfl, rfl⟩, ⟨_, rfl, rfl, sameCells_of_eq rfl, rfl⟩⟩

/-! What the bridging device passes on (R114). -/

theorem forwardHost_present (kind : Nat) {member : Nat} (bytes : List Byte) {s : State} (hown : s.dev.member = 0) (hm : member < 16)
    (hp : Config.memberPresent member = true) : s.forwardHost kind member bytes = s.sendMember 0 kind bytes member := by
  rw [State.forwardHost, if_pos ⟨hown, hm, hp⟩]

theorem exec_hostMemoryRead_member {off : Nat} (n : Nat) {s : State} (h : s.boot.phase = .ready) (hown : s.dev.member = 0) (hlo : 2 ^ 40 ≤ off)
    (hhi : off < 2 ^ 44) (hp : Config.memberPresent (off / 2 ^ 40) = true) :
    ∃ t, exec (.hostMemoryRead off n) s = .next t ∧ SameCells s t ∧ SameMemory s t ∧ t.boot = { s.boot with sleep := false } ∧ t.hostOps = s.hostOps ∧
      t.outbox = s.outbox ++ [⟨13, leBytes 5 (off % 2 ^ 40) ++ leBytes 4 n, off / 2 ^ 40⟩] := by
  have hm : off / 2 ^ 40 < 16 := by omega
  rw [exec_hostMemoryRead, execHostMemoryRead]
  dsimp only
  rw [barClosed_ready h, if_neg Bool.false_ne_true, if_pos hlo, forwardHost_present 13 _ (s := s.wakeUp) hown hm hp,
    if_neg (by simp [State.sendMember])]
  exact ⟨_, rfl, sameCells_of_eq rfl, (s.mem.unmoved_charge ..).sameMemory, rfl, rfl, rfl⟩

theorem exec_hostMemoryWrite_member {off : Nat} (bytes : List Byte) {s : State} (h : s.boot.phase = .ready) (hown : s.dev.member = 0) (hlo : 2 ^ 40 ≤ off)
    (hhi : off < 2 ^ 44) (hp : Config.memberPresent (off / 2 ^ 40) = true) :
    ∃ t, exec (.hostMemoryWrite off bytes) s = .next t ∧ SameCells s t ∧ SameMemory s t ∧ t.boot = { s.boot with sleep := false } ∧ t.hostOps = s.hostOps ∧
      t.outbox = s.outbox ++ [⟨12, leBytes 5 (off % 2 ^ 40) ++ bytes, off / 2 ^ 40⟩] := by
  have hm : off / 2 ^ 40 < 16 := by omega
  rw [exec_hostMemoryWrite, execHostMemoryWrite]
  dsimp only
  rw [barClosed_ready h, if_neg Bool.false_ne_true, if_pos hlo, forwardHost_present 12 _ (s := s.wakeUp) hown hm hp]
  exact ⟨_, rfl, sameCells_of_eq rfl, (s.mem.unmoved_charge ..).sameMemory, rfl, rfl, rfl⟩

theorem exec_hostRegisterWrite_member {page : Nat} (off : Nat) (v : DWord) {s : State} (hown : s.dev.member = 0) (hpage : 65 ≤ page)
    (hm : page / 65 < 16) (hp : Config.memberPresent (page / 65) = true) :
    ∃ t, exec (.hostRegisterWrite page off v) s = .next t ∧ SameCells s t ∧ SameMemory s t ∧ t.boot = s.boot ∧ t.lrec = s.lrec ∧ t.hostPorts = s.hostPorts ∧
      t.outbox = s.outbox ++ [⟨10, leBytes 1 (page % 65) ++ leBytes 2 off ++ leBytes 8 v.toNat, page / 65⟩] := by
  rw [exec_hostRegisterWrite, execHostRegisterWrite, if_neg (by omega), if_neg (by omega), if_pos hpage, forwardHost_present 10 _ hown hm hp]
  exact ⟨_, rfl, sameCells_of_eq rfl, (s.mem.unmoved_charge ..).sameMemory, rfl, rfl, rfl, rfl⟩

/-! Host accesses of one DRAM line (R305, R383). -/

theorem barAddr_dram {off : Nat} (h : target off = some .dram) : barAddr off = some off := by
  rw [barAddr, if_pos (target_dram.mp h)]

theorem refuses_dram (m : MemSys) {pa : Nat} (h : target pa = some .dram) : m.refuses pa = false := by simp only [MemSys.refuses, h]

theorem hostLine_dram {off : Nat} (n : Nat) {s : State} (ht : target off = some .dram) (hb : s.mem.bad.contains (off / 64) = false) :
    ∃ m, s.hostLine off n = ({ s with mem := m }, s.mem.plain off n, s.mem.marks.contains (off / 64)) ∧ s.mem.Unmoved m := by
  obtain ⟨m, hread, hm⟩ := MemSys.readAs_dram ht hb true s.cycle 0 n
  refine ⟨m, ?_, hm⟩
  simp only [State.hostLine, barAddr_dram ht, refuses_dram s.mem ht, Bool.false_eq_true, if_false, ht, MemSys.read, hread]
  exact if_neg (by decide)

theorem hostDrain_read {off n : Nat} (arr : Nat) {s : State} (hn : 0 < n) (hl : n ≤ 64 - off % 64) (ht : target off = some .dram)
    (hb : s.mem.bad.contains (off / 64) = false) : ∃ m, s.mem.Unmoved m ∧ s.hostDrain [⟨off, none, n, arr⟩] =
      { s with mem := m, hostOps := [], outbox := s.outbox ++ [⟨5, s.mem.plain off n, (s.mem.marks.contains (off / 64)).toNat⟩] } := by
  have hoff := target_dram.mp ht
  obtain ⟨m, hline, hm⟩ := hostLine_dram n ht hb
  refine ⟨m.charge 0 4 (5000 * n), hm.trans (m.unmoved_charge ..), ?_⟩
  simp only [State.hostDrain, lineChunks_one hn hl (by omega), State.hostLines, hline, List.append_nil, Bool.or_false]

theorem hostDrain_write {off : Nat} {bytes : List Byte} (arr : Nat) {s : State} (hn : bytes ≠ []) (hl : bytes.length ≤ 64 - off % 64)
    (ht : target off = some .dram) : s.hostDrain [⟨off, some bytes, bytes.length, arr⟩] =
      { s with mem := (s.mem.write s.cycle 0 off bytes false).1.charge 0 4 (5000 * bytes.length), hostOps := [] } := by
  have hoff := target_dram.mp ht
  have hput : s.hostPut off arr bytes [(off, bytes.length)] =
      ({ s with mem := (s.mem.write s.cycle 0 off bytes false).1.charge 0 4 (5000 * bytes.length) }, none) := by
    rw [State.hostPut]
    simp only [barAddr_dram ht, refuses_dram s.mem ht, Bool.false_eq_true, if_false, ht]
    rw [if_neg (by decide)]
    simp only [Nat.sub_self, List.drop_zero, List.take_length, State.hostPut]
  simp only [State.hostDrain, lineChunks_one (List.length_pos_of_ne_nil hn) hl (by omega), hput]

theorem look_dram (m : MemSys) {pa : Nat} (h : target pa = some .dram) : m.look pa = some (Memory.get m.bytes pa) := by simp only [MemSys.look, h]

/-- The bytes of a host write stand in their line, and every other byte as it was. -/
theorem hostDrain_write_look {off : Nat} {bytes : List Byte} (arr : Nat) {s : State} (hwf : s.MemoryWf) (hn : bytes ≠ [])
    (hl : bytes.length ≤ 64 - off % 64) (ht : target off = some .dram) (hb : s.mem.bad.contains (off / 64) = false) :
    (∀ k b, bytes[k]? = some b → (s.hostDrain [⟨off, some bytes, bytes.length, arr⟩]).mem.look (off + k) = some b) ∧
      ∀ a, ¬(off ≤ a ∧ a < off + bytes.length) → (s.hostDrain [⟨off, some bytes, bytes.length, arr⟩]).mem.look a = s.mem.look a := by
  obtain ⟨hbytes, hsegs, -⟩ := MemSys.write_dram ht hb s.cycle 0 bytes false
  rw [hostDrain_write arr hn hl ht]
  dsimp only
  constructor
  · intro k b hk
    obtain ⟨hklt, -⟩ := List.getElem?_eq_some_iff.mp hk
    have hoff := target_dram.mp ht
    rw [charge_look, look_dram _ (target_dram.mpr (by omega)), hbytes, Memory.get_setAll_same bytes _ off k b hwf hk]
  · intro a ha
    rw [charge_look]
    exact MemSys.look_congr a (by rw [hbytes, Memory.get_setAll_other bytes _ off a (by omega)]) hsegs

end Sys2Proof.Machine

namespace Sys2Proof
open Sys2Proof.Machine

/-- Settles O47, access by access: the pages of the launch record and of the ports, RCV_GO, and the memory BAR in its modes. -/
theorem hostSteps : Obligations.HostSteps := by
  unfold Obligations.HostSteps
  refine ⟨fun v s => exec_launchToken_ready v, fun v s h => ?_, fun off v s h hmin hoff hal => exec_hostRegisterWrite_lrec v h hmin hoff hal,
    fun p v s hv hsome => exec_hostRegisterWrite_ovf p hv hsome, fun p v s h => exec_ingToken_enabled p v h,
    fun p s x rest h => exec_egDataRead_entry p h, fun p s h => exec_egDataRead_empty p h, fun p v s h => exec_ownerWrite_port p v h, ?_,
    fun off n bytes s h hoff => ⟨exec_hostMemoryRead_own n h hoff, exec_hostMemoryWrite_own bytes h hoff⟩, ?_, ?_,
    fun off n bytes s h => exec_hostMemory_closed off n bytes h,
    fun off n bytes s h hown hlo hhi hp => ⟨exec_hostMemoryRead_member n h hown hlo hhi hp, exec_hostMemoryWrite_member bytes h hown hlo hhi hp⟩,
    fun page off v s hown hpage hm hp => exec_hostRegisterWrite_member off v hown hpage hm hp⟩
  · rw [exec_launchToken, execLaunchToken, h]
    rfl
  · rintro s _ h rfl
    exact exec_rcvGo_recovering (recovering_of h)
  · intro off n arr s hn hl ht hb
    obtain ⟨m, hm, hdrain⟩ := hostDrain_read arr hn hl ht hb
    rw [hdrain]
    exact ⟨sameCells_of_eq rfl, rfl, hm.look, rfl⟩
  · intro off bytes arr s hwf hn hl ht hb
    have hdrain := hostDrain_write arr (s := s) hn hl ht
    exact ⟨sameCells_of_eq (by rw [hdrain]), by rw [hdrain], hostDrain_write_look arr hwf hn hl ht hb⟩

end Sys2Proof
end

section
/-! PROOFS. Reads of DRAM lines by an engine agent (R235, R380) -/

namespace Sys2Proof.Machine

/-! An engine agent's read of DRAM lines in which no error stands. -/

/-- Every request of a range translates without a walk to a DRAM line in which no error stands. -/
def ReadsDram (s : State) (e : Eng) (pa : Nat → Nat) (ver : Bool) (chunks : List (Nat × Nat)) : Prop :=
  ∀ y ∈ chunks, s.mem.lookup (s.winsOf e) (e.cell / 1024 % 4) e.ctx y.1 .load = .ok (pa y.1) ver ∧ target (pa y.1) = some .dram ∧
    s.mem.bad.contains (pa y.1 / 64) = false

/-- The bytes that such a read finds. -/
def dramBytes (m : MemSys) (pa : Nat → Nat) (chunks : List (Nat × Nat)) : List RByte :=
  chunks.flatMap (fun y => (m.plain (pa y.1) y.2).map (fun b => ⟨b, m.marks.contains (pa y.1 / 64)⟩))

/-- A translated request of a read. -/
def spanTo (pa : Nat → Nat) (ver : Bool) (y : Nat × Nat) : Span := ⟨y.1, y.2, pa y.1, ver⟩

section
variable {e : Eng} {pa : Nat → Nat} {ver : Bool}

theorem spans_dram {s : State} {chunks : List (Nat × Nat)} (h : ReadsDram s e pa ver chunks) (acc : List Span) :
    s.spans e .load chunks acc = (s, .ok (acc.reverse ++ chunks.map (spanTo pa ver))) := by
  induction chunks generalizing acc with
  | nil => simp [State.spans]
  | cons y rest ih =>
    obtain ⟨va, k⟩ := y
    obtain ⟨hlook, htarget, -⟩ := h (va, k) (List.mem_cons_self ..)
    have hnote : ∀ p : Part, p.pa = some (pa va) → s.mem.notePage p = s.mem ∧ s.mem.forbidden p = false := fun p hp =>
      ⟨by simp only [MemSys.notePage, hp, htarget]; exact if_neg (by decide), by simp [MemSys.forbidden, hp, refuses_dram s.mem htarget]⟩
    obtain ⟨hkeep, hallowed⟩ := hnote ⟨va, k, some (pa va), ver, 0, none, false⟩ rfl
    simp only [State.spans, MemSys.translate, hlook, hkeep, hallowed, Bool.false_eq_true, if_false]
    exact (ih (fun z hz => h z (List.mem_cons_of_mem _ hz)) _).trans (by simp [spanTo])

theorem gates_dram {chunks : List (Nat × Nat)} (h : ∀ y ∈ chunks, target (pa y.1) = some .dram) (m : MemSys) (now : Nat) :
    m.gates now false (chunks.map (spanTo pa ver)) = (m, true) := by
  induction chunks with
  | nil => rfl
  | cons y rest ih =>
    have htarget : target (spanTo pa ver y).pa = some .dram := h y (List.mem_cons_self ..)
    simp only [List.map_cons, MemSys.gates, htarget]
    exact ih fun z hz => h z (List.mem_cons_of_mem _ hz)

theorem gather_dram {chunks : List (Nat × Nat)} {s : State} (h : ∀ y ∈ chunks, target (pa y.1) = some .dram ∧ s.mem.bad.contains (pa y.1 / 64) = false) :
    ∃ m, s.gather e (chunks.map (spanTo pa ver)) = ({ s with mem := m }, dramBytes s.mem pa chunks, none) ∧ s.mem.Unmoved m := by
  induction chunks generalizing s with
  | nil => exact ⟨s.mem, rfl, .refl _⟩
  | cons y rest ih =>
    obtain ⟨htarget, hsound⟩ := h y (List.mem_cons_self ..)
    obtain ⟨m, hread, hm⟩ := MemSys.readAs_dram htarget hsound false s.cycle e.ctx y.2
    obtain ⟨m', hgather, hm'⟩ := ih (s := { s with mem := m }) fun z hz =>
      ⟨(h z (List.mem_cons_of_mem _ hz)).1, hm.sound _ (h z (List.mem_cons_of_mem _ hz)).2⟩
    have hrest : dramBytes m pa rest = dramBytes s.mem pa rest := by simp only [dramBytes, MemSys.plain, hm.bytes, hm.marks]
    refine ⟨m', ?_, hm.trans hm'⟩
    have hread' : s.mem.readAs false s.cycle e.ctx (spanTo pa ver y).pa (spanTo pa ver y).n = _ := hread
    simp only [List.map_cons, State.gather, hread', hgather, hrest]
    rfl

/-- A region but for what counts as idle. -/
def Region.still (r : Region) : Region := { r with moved := false }

/-- The regions of a state differ from those of another in what counts as idle alone. -/
def SameRegionHeld (s : State) (regions : List Region) : Prop := regions.map Region.still = s.regions.map Region.still

theorem moves_regions (s : State) (e : Eng) (l : List Span) : ∃ regions, s.moves e l = { s with regions := regions } ∧ SameRegionHeld s regions := by
  unfold State.moves
  split_ifs
  · exact ⟨s.regions, rfl, rfl⟩
  · refine ⟨_, rfl, ?_⟩
    rw [SameRegionHeld, List.map_map]
    refine List.map_congr_left fun r _ => ?_
    simp only [Function.comp]
    split_ifs <;> rfl

theorem readEng_dram {s : State} {ranges : List (Nat × Nat)} (h : ReadsDram s e pa ver (ranges.flatMap (fun r => lineChunks r.1 r.2))) (elem : Nat → Nat) :
    ∃ m regions b, s.readEng e elem ranges = ({ s with mem := m, regions := regions }, { e with arr := none, poisoned := b },
      .bytes (dramBytes s.mem pa (ranges.flatMap (fun r => lineChunks r.1 r.2)))) ∧ s.mem.Unmoved m ∧ SameRegionHeld s regions := by
  have hreach : s.reach e .load ranges = (s, .ok ((ranges.flatMap (fun r => lineChunks r.1 r.2)).map (spanTo pa ver))) := by
    simp only [State.reach, spans_dram h, List.reverse_nil, List.nil_append, gates_dram (fun y hy => (h y hy).2.1), if_true,
      show Need.load.w = false from rfl]
  obtain ⟨regions, hmoves, hregions⟩ := moves_regions s e ((ranges.flatMap (fun r => lineChunks r.1 r.2)).map (spanTo pa ver))
  obtain ⟨m, hgather, hm⟩ := gather_dram (e := e) (ver := ver) (s := { s with regions := regions }) (fun y hy => (h y hy).2)
  simp only [State.readEng, State.readSpans, hreach, hmoves, hgather, Option.map_none, State.deadEng]
  by_cases hbad : (dramBytes s.mem pa (ranges.flatMap (fun r => lineChunks r.1 r.2))).any (fun b => b.bad) = true
  · exact ⟨m, regions, true, by rw [if_pos hbad]; rfl, hm, hregions⟩
  · exact ⟨m, regions, e.poisoned, by rw [if_neg hbad]; rfl, hm, hregions⟩

end

end Sys2Proof.Machine
end

section
/-! PROOFS. Instructions that issue and wait with an engine agent (R97, R292) -/

namespace Sys2Proof.Machine

/-! An instruction that waits with an engine agent. -/

/-- The agent of the instruction of the site, which translates through its context's table. -/
def State.agentOf (s : State) : Eng := s.engOf s.site (s.fireNo s.site) none s.stamps

/-- The instruction of the site as it waits with its agent. -/
def State.pendEng (s : State) (i : Instr) (more : List Tok) (notes : List Nat) : Pend := { s.pendOf i notes with more := more, eng := some s.agentOf }

/-- An agent without a port is decided by the context and the region of its cell. -/
theorem engOf_congr {s u : State} {t : Site} (h : (u.cell? t.cell).map (fun c => (c.context, c.rid)) = (s.cell? t.cell).map (fun c => (c.context, c.rid)))
    (fire : Word) (port : Option Nat) (stamp : Nat) : u.engOf t fire port stamp = s.engOf t fire port stamp := by
  unfold State.engOf
  cases hs : s.cell? t.cell with
  | none =>
    rw [hs] at h
    rw [Option.map_eq_none_iff.mp h]
  | some c =>
    rw [hs] at h
    obtain ⟨d, hd, hdc⟩ := Option.map_eq_some_iff.mp h
    obtain ⟨hctx, hrid⟩ := Prod.mk.inj hdc
    rw [hd]
    simp only [hctx, hrid]

theorem issuing_agentOf (s : State) (i : Instr) :
    ((s.took s.site i).reserveAll s.site (emitsOf i .empty)).engOf s.site (s.fireNo s.site) none s.stamps = s.agentOf :=
  engOf_congr (issuing_cell?_map s i s.site.cell (fun c => (c.context, c.rid)) (fun c => by simp) (fun _ => rfl)) ..

theorem modify_last {α : Type} (l : List α) (x : α) (f : α → α) : (l ++ [x]).modify ((l ++ [x]).length - 1) f = l ++ [f x] := by
  rw [show (l ++ [x]).length - 1 = l.length by simp]
  induction l with
  | nil => rfl
  | cons y l ih => simpa using ih

theorem waitEng_issuing (s : State) (i : Instr) (more : List Tok) (notes : List Nat) :
    ((s.took s.site i).reserveAll s.site (emitsOf i .empty)).waitEng s.site i (s.opnds s.site i) more notes =
      { s.issuing i with pend := s.pend ++ [s.pendEng i more notes] } := by
  have hfire : ((s.took s.site i).reserveAll s.site (emitsOf i .empty)).fireNo s.site = s.fireNo s.site := issuing_fireNo s i
  have hstamps : ((s.took s.site i).reserveAll s.site (emitsOf i .empty)).stamps = s.stamps := by simp
  have hpend : ((s.took s.site i).reserveAll s.site (emitsOf i .empty)).pend = s.pend := issuing_pend s i
  simp only [State.waitEng, State.wait, hfire, hstamps, hpend, issuing_agentOf, modify_last]
  rfl

theorem issuing_unmoved (s : State) (i : Instr) : s.mem.Unmoved (s.issuing i).mem := s.mem.unmoved_charge ..

/-- An agent of the instruction of the site, whatever it has read. -/
structure IsAgent (s : State) (e : Eng) : Prop where
  ctx : e.ctx = s.agentOf.ctx
  rid : e.rid = s.agentOf.rid
  site : e.site = s.site
  cell : e.cell = s.site.cell
  port : e.port = none

theorem isAgent_agentOf (s : State) : IsAgent s s.agentOf := ⟨rfl, rfl, rfl, rfl, rfl⟩

theorem agentOf_ctx {s : State} {c : Cell} (hc : s.cell? s.site.cell = some c) : s.agentOf.ctx = c.context := by
  simp only [State.agentOf, State.engOf, hc]

theorem agentOf_rid {s : State} {c : Cell} (hc : s.cell? s.site.cell = some c) : s.agentOf.rid = c.rid := by
  simp only [State.agentOf, State.engOf, hc]

/-! What reads of DRAM lines leave of the state in which an instruction has issued. -/

/-- A state that differs from that in which an instruction has issued by reads of DRAM lines. -/
structure AfterRead (s : State) (i : Instr) (u : State) : Prop where
  cells : u.cells = (s.issuing i).cells
  cycle : u.cycle = s.cycle
  flight : u.flight = s.flight
  pend : u.pend = s.pend
  cmds : u.cmds = s.cmds
  colls : u.colls = s.colls
  memory : s.mem.Unmoved u.mem
  regions : SameRegionHeld s u.regions

theorem afterRead_issuing (s : State) (i : Instr) : AfterRead s i (s.issuing i) :=
  ⟨rfl, issuing_cycle s i, issuing_flight s i, issuing_pend s i, issuing_cmds s i, issuing_colls s i, issuing_unmoved s i,
    congrArg (List.map Region.still) (issuing_regions s i)⟩

theorem AfterRead.sameFace {s u : State} {i : Instr} (h : AfterRead s i u) : SameFace (s.issuing i) u := sameFace_of_eq h.cells

theorem AfterRead.sameCells {s u : State} {i : Instr} (h : AfterRead s i u) : SameCells s u :=
  (quiet_issuing s i).sameCells.trans (sameCells_of_eq h.cells)

theorem dramBytes_congr {m m' : MemSys} (h : m.Unmoved m') (pa : Nat → Nat) (chunks : List (Nat × Nat)) : dramBytes m' pa chunks = dramBytes m pa chunks := by
  simp only [dramBytes, MemSys.plain, h.bytes, h.marks]

/-- The agent of an instruction reads the lines of a range. -/
theorem AfterRead.read {s u : State} {i : Instr} {c : Cell} {e : Eng} (hu : AfterRead s i u) (he : IsAgent s e) (hc : s.cell? s.site.cell = some c)
    {pa : Nat → Nat} {ver : Bool} {va n : Nat} (h : ∀ y ∈ lineChunks va n,
      s.mem.lookup [] (s.site.cell / 1024 % 4) c.context y.1 .load = .ok (pa y.1) ver ∧ target (pa y.1) = some .dram ∧ s.mem.bad.contains (pa y.1 / 64) = false)
    (elem : Nat → Nat) :
    ∃ u' e', u.readEng e elem [(va, n)] = (u', e', .bytes (dramBytes s.mem pa (lineChunks va n))) ∧ AfterRead s i u' ∧ IsAgent s e' := by
  have hread : ReadsDram u e pa ver ([(va, n)].flatMap (fun r => lineChunks r.1 r.2)) := by
    rw [List.flatMap_singleton]
    intro y hy
    obtain ⟨hlook, htarget, hsound⟩ := h y hy
    have hwins : u.winsOf e = [] := by simp only [State.winsOf, he.port]
    refine ⟨?_, htarget, hu.memory.sound _ hsound⟩
    rw [lookup_congr hu.memory.tlb, hwins, he.cell, he.ctx, agentOf_ctx hc]
    exact hlook
  obtain ⟨m, regions, b, heq, hm, hregions⟩ := readEng_dram hread elem
  rw [List.flatMap_singleton, dramBytes_congr hu.memory] at heq
  exact ⟨_, _, heq, ⟨hu.cells, hu.cycle, hu.flight, hu.pend, hu.cmds, hu.colls, hu.memory.trans hm, hregions.trans hu.regions⟩,
    ⟨he.ctx, he.rid, he.site, he.cell, he.port⟩⟩

end Sys2Proof.Machine
end

section
/-! PROOFS. CMD: its turn, its predecessors and the record of the command (R91, R93, R97) -/

namespace Sys2Proof.Machine

/-! CMD (R91, R93, R97). -/

theorem cmd_cases {i : Instr} {kind : Nat} {rel : Bool} {c0 : Consumer} (h : cmdOf i = some (kind, rel, c0)) :
    i = .cmdMatrix rel c0 ∨ i = .cmdBulk rel c0 ∨ i = .cmdCollective rel c0 ∨ i = .cmdLift rel c0 ∨ i = .cmdChild rel c0 := by
  unfold cmdOf at h
  split at h
  case h_6 => cases h
  all_goals
    obtain ⟨-, hrest⟩ := Prod.mk.inj (Option.some.inj h)
    obtain ⟨rfl, rfl⟩ := Prod.mk.inj hrest
    simp

theorem exec_cmd {i : Instr} {kind : Nat} {rel : Bool} {c0 : Consumer} (h : cmdOf i = some (kind, rel, c0)) (s : State) : exec i s = issueCmd i s := by
  obtain rfl | rfl | rfl | rfl | rfl := cmd_cases h
  · exact exec_cmdMatrix ..
  · exact exec_cmdBulk ..
  · exact exec_cmdCollective ..
  · exact exec_cmdLift ..
  · exact exec_cmdChild ..

/-- The instruction of the site as a CMD waits: with its second l token. -/
def State.pendCmd (s : State) (i : Instr) : Pend := s.pendEng i ((s.toks s.site .l 2).drop 1) []

theorem exec_cmd_goes {i : Instr} {kind : Nat} {rel : Bool} {c0 : Consumer} {s : State} (hi : cmdOf i = some (kind, rel, c0)) (h : s.goes i) :
    exec i s = .next (s.tried i (s.pendCmd i) State.cmdAttempt) := by
  rw [exec_cmd hi, issueCmd, issueCtl_goes h]
  dsimp only
  rw [waitEng_issuing, tryPend_issuing]
  rfl

/-- The generation of the next command of a slot. -/
def State.nextGen (s : State) (slot : Nat) : Nat :=
  match s.cmds.find? (fun x => x.slot == slot) with
  | some x => (x.gen + 1) % 15
  | none => 1

/-- The predecessors that a word of two ids names. -/
def State.predsOf (s : State) (ctx pr : Nat) : List Pred := [s.predOf ctx (pr % 65536), s.predOf ctx (pr / 65536)]

/-- The word of the ids of the predecessors: that of r, else none twice. -/
def predWord (r : Option Tok) : Nat :=
  match r with
  | some t => t.v.toNat
  | none => 0xFFFFFFFF

/-- The state in which a command has been accepted, and has retired BADPRED where a predecessor is malformed. -/
def State.accepting (s : State) (slot kind : Nat) (e : Eng) (desc : List Byte) (bad : Bool) (pr : Nat) : State :=
  if (s.predsOf e.ctx pr).any (fun q => q == .malformed) then (s.acceptCmd slot kind e desc bad (s.predsOf e.ctx pr)).1.retireCmd slot 5
  else (s.acceptCmd slot kind e desc bad (s.predsOf e.ctx pr)).1

section
variable {i : Instr} {kind : Nat} {rel : Bool} {c0 : Consumer} {s : State} (hi : cmdOf i = some (kind, rel, c0))
include hi

theorem cmdAttempt_full (hfree : s.freeCmd = none) : (s.issuing i).cmdAttempt (s.pendCmd i) = none := by
  have hfree' : (s.issuing i).freeCmd = none := by rw [State.freeCmd, issuing_cmds]; exact hfree
  simp only [State.cmdAttempt, State.pendCmd, State.pendEng, show (s.pendOf i []).instr = i from rfl, hi, hfree', ite_self]

variable {c : Cell} {slot : Nat} (hc : s.cell? s.site.cell = some c) (hrel : rel = true → s.performedBefore s.site.cell s.stamps = true)
  (hfree : s.freeCmd = some slot) (hroom : (s.cmds.filter (fun x => x.ctx == c.context && !x.retired)).length < 2048)
include hc hrel hfree hroom

/-- A CMD that nothing holds back and whose descriptor is misaligned takes its slot; one that is aligned reads it first. -/
theorem cmdAttempt_goes {addr : Nat} (haddr : addr = (tokVal (s.nthTok s.site .l 1) ++ s.lval i).toNat) :
    (addr % 64 ≠ 0 → (s.issuing i).cmdAttempt (s.pendCmd i) =
      some (((s.issuing i).accepting slot kind s.agentOf [] true (predWord (s.opnds s.site i).r)).reply s.site c0
        [⟨BitVec.ofNat 32 ((s.issuing i).nextGen slot * 4096 + slot), none⟩])) ∧
    ∀ u e l, addr % 64 = 0 → (s.issuing i).readEng s.agentOf id [(addr, 64)] = (u, e, .bytes l) → (s.issuing i).cmdAttempt (s.pendCmd i) =
      some ((u.accepting slot kind e (l.map (fun b => b.b)) (rbBad l) (predWord (s.opnds s.site i).r)).reply s.site c0
        [⟨BitVec.ofNat 32 (u.nextGen slot * 4096 + slot), none⟩]) := by
  have hfree' : (s.issuing i).freeCmd = some slot := by rw [State.freeCmd, issuing_cmds]; exact hfree
  have hperf : (rel && !(s.issuing i).performedBefore s.site.cell s.stamps) = false := by
    rw [(quiet_issuing s i).sameCells.performedBefore (issuing_pend s i)]
    cases rel
    · rfl
    · simp [hrel rfl]
  have hroom' : ¬ 2048 ≤ ((s.issuing i).cmds.filter (fun x => x.ctx == s.agentOf.ctx && !x.retired)).length := by
    rw [issuing_cmds, agentOf_ctx hc]
    omega
  have hmore : tokAt (s.pendCmd i).more 0 = tokVal (s.nthTok s.site .l 1) := by
    simp [State.pendCmd, State.pendEng, tokAt, State.toks, State.nthTok]
  have haddr' : (joinWords (tokVal (s.pendCmd i).ops.l) (tokAt (s.pendCmd i).more 0)).toNat = addr := by
    rw [hmore, haddr]; rfl
  unfold State.cmdAttempt
  simp only [show (s.pendCmd i).eng = some s.agentOf from rfl, show (s.pendCmd i).instr = i from rfl, hi, hfree', haddr',
    show (s.pendCmd i).site = s.site from rfl, show (s.pendCmd i).stamp = s.stamps from rfl, hperf, if_neg hroom',
    show s.agentOf.held = none from rfl, Option.isSome_none, Bool.or_self, Bool.false_eq_true, if_false]
  constructor
  · intro hmis
    rw [if_pos hmis]
    rfl
  · intro u e l hal hread
    rw [if_neg (not_not.mpr hal), hread]
    rfl

end

/-! What acceptance leaves. -/

theorem retireCmd_beside (s : State) (slot status : Nat) : (s.retireCmd slot status).cells = s.cells ∧ (s.retireCmd slot status).mem = s.mem ∧
    (s.retireCmd slot status).cycle = s.cycle ∧ (s.retireCmd slot status).flight = s.flight := by
  unfold State.retireCmd
  split
  · exact ⟨rfl, rfl, rfl, rfl⟩
  · simp

theorem accepting_beside (s : State) (slot kind : Nat) (e : Eng) (desc : List Byte) (bad : Bool) (pr : Nat) :
    (s.accepting slot kind e desc bad pr).cells = s.cells ∧ (s.accepting slot kind e desc bad pr).mem = s.mem ∧
      (s.accepting slot kind e desc bad pr).cycle = s.cycle ∧ (s.accepting slot kind e desc bad pr).flight = s.flight := by
  unfold State.accepting
  split_ifs
  · exact retireCmd_beside _ _ _
  · exact ⟨rfl, rfl, rfl, rfl⟩

/-- The commands that a list of predecessors waits on. -/
def waitedOn (l : List Pred) : List (Nat × Nat) :=
  l.filterMap (fun p => match p with
    | .waitOn k g => some (k, g)
    | .none | .malformed => Option.none)

/-- The record of a command as it is accepted. -/
def State.newCmd (s : State) (slot kind : Nat) (e : Eng) (desc : List Byte) (bad : Bool) (preds : List Pred) : Cmd :=
  { slot := slot, gen := s.nextGen slot, ctx := e.ctx, kind := kind, eng := { e with held := none, deadLogged := false, poisoned := false }, desc := desc,
    spoilt := bad, waits := waitedOn preds, cancelled := false, issued := false, result := none, retired := false, status := 0, order := 0, copy := none }

theorem acceptCmd_cmds (s : State) (slot kind : Nat) (e : Eng) (desc : List Byte) (bad : Bool) (preds : List Pred) :
    (s.acceptCmd slot kind e desc bad preds).1.cmds = s.cmds.filter (fun c => c.slot != slot) ++ [s.newCmd slot kind e desc bad preds] := rfl

/-- The new command is the only one of its slot. -/
theorem acceptCmd_find? (s : State) (slot kind : Nat) (e : Eng) (desc : List Byte) (bad : Bool) (preds : List Pred) :
    (s.acceptCmd slot kind e desc bad preds).1.cmds.find? (fun c => c.slot == slot && !c.retired) = some (s.newCmd slot kind e desc bad preds) := by
  have hnone : (s.cmds.filter (fun c => c.slot != slot)).find? (fun c => c.slot == slot && !c.retired) = none := by
    rw [List.find?_eq_none]
    intro c hc
    simp [show c.slot ≠ slot by simpa using (List.mem_filter.mp hc).2]
  rw [acceptCmd_cmds, List.find?_append, hnone]
  simp [State.newCmd]

theorem newCmd_mem_accepting {s : State} {slot kind : Nat} {e : Eng} {desc : List Byte} {bad : Bool} {pr : Nat}
    (h : (s.predsOf e.ctx pr).any (fun q => q == .malformed) = false) :
    s.newCmd slot kind e desc bad (s.predsOf e.ctx pr) ∈ (s.accepting slot kind e desc bad pr).cmds := by
  rw [State.accepting, h, if_neg Bool.false_ne_true, acceptCmd_cmds]
  exact List.mem_append_right _ (List.mem_singleton_self _)

theorem retired_mem_accepting {s : State} {slot kind : Nat} {e : Eng} {desc : List Byte} {bad : Bool} {pr : Nat}
    (h : (s.predsOf e.ctx pr).any (fun q => q == .malformed) = true) :
    ∃ order, (s.newCmd slot kind e desc bad (s.predsOf e.ctx pr)).retire 5 order ∈ (s.accepting slot kind e desc bad pr).cmds := by
  rw [State.accepting, h, if_pos rfl]
  obtain ⟨-, -, hmem, -⟩ := retireCmd_found (acceptCmd_find? s slot kind e desc bad (s.predsOf e.ctx pr)) 5
  exact ⟨_, hmem⟩

/-! Predecessors (R93). -/

theorem predOf_eq_malformed {s : State} {ctx id : Nat} : s.predOf ctx id = .malformed ↔ id ≠ 0xFFFF ∧ id / 4096 = 15 := by
  unfold State.predOf
  split_ifs with h1 h2 h3 <;> simp [*]

theorem predOf_eq_waitOn {s : State} {ctx id k g : Nat} : s.predOf ctx id = .waitOn k g ↔
    id ≠ 0xFFFF ∧ id / 4096 ≠ 15 ∧ k = id % 4096 ∧ g = id / 4096 ∧ ∃ y ∈ s.cmds, y.slot = k ∧ y.gen = g ∧ y.ctx = ctx ∧ y.retired = false := by
  unfold State.predOf
  split_ifs with h1 h2 h3
  · simp [h1]
  · simp [h2]
  · rw [List.any_eq_true] at h3
    constructor
    · intro h
      obtain ⟨rfl, rfl⟩ := Pred.waitOn.inj h
      refine ⟨h1, h2, rfl, rfl, ?_⟩
      obtain ⟨y, hy, hall⟩ := h3
      exact ⟨y, hy, by simpa [and_assoc] using hall⟩
    · rintro ⟨-, -, rfl, rfl, -⟩
      rfl
  · rw [List.any_eq_true] at h3
    constructor
    · intro h; cases h
    · rintro ⟨-, -, rfl, rfl, y, hy, hall⟩
      exact absurd ⟨y, hy, by simpa [and_assoc] using hall⟩ h3

theorem mem_waitedOn {l : List Pred} {k g : Nat} : (k, g) ∈ waitedOn l ↔ Pred.waitOn k g ∈ l := by
  rw [waitedOn, List.mem_filterMap]
  constructor
  · rintro ⟨p, hp, h⟩
    cases p with
    | none => cases h
    | malformed => cases h
    | waitOn a b => cases h; exact hp
  · exact fun h => ⟨_, h, rfl⟩

theorem predsOf_none (s : State) (ctx : Nat) : s.predsOf ctx (predWord none) = [.none, .none] := rfl

end Sys2Proof.Machine
end

section
/-! PROOFS. CMD and CMDWAIT: what each has done (R91 to R94, R97) -/

namespace Sys2Proof.Machine

/-! What a CMD has done. -/

theorem AfterRead.nextGen {s u : State} {i : Instr} (h : AfterRead s i u) (slot : Nat) : u.nextGen slot = s.nextGen slot := by
  rw [State.nextGen, h.cmds, State.nextGen]

theorem AfterRead.predsOf {s u : State} {i : Instr} (h : AfterRead s i u) (ctx pr : Nat) : u.predsOf ctx pr = s.predsOf ctx pr := by
  simp only [State.predsOf, State.predOf, h.cmds]

/-- A CMD that is accepted replies its id; memory and cells stand. -/
theorem cmd_runs {i : Instr} {kind : Nat} {rel : Bool} {c0 : Consumer} {s u : State} (hi : cmdOf i = some (kind, rel, c0)) (h : s.goes i)
    (hu : AfterRead s i u) {slot : Nat} {e : Eng} {desc : List Byte} {bad : Bool} {pr : Nat} {P : State → Prop}
    (hattempt : (s.issuing i).cmdAttempt (s.pendCmd i) =
      some ((u.accepting slot kind e desc bad pr).reply s.site c0 [⟨BitVec.ofNat 32 (u.nextGen slot * 4096 + slot), none⟩]))
    (hP : ∀ t, SameCells s t → SameMemory s t → t.cmds = (u.accepting slot kind e desc bad pr).cmds → P t) :
    Runs i s [(c0, ⟨BitVec.ofNat 32 (s.nextGen slot * 4096 + slot), none⟩)] P := by
  obtain ⟨hcells, hmem, hcycle, hflight⟩ := accepting_beside u slot kind e desc bad pr
  have hexec := exec_cmd_goes hi h
  rw [tried_some hattempt, hu.nextGen] at hexec
  refine runs_of_reply h c0 _ hexec (hu.sameFace.trans (sameFace_of_eq hcells)) (hcycle.trans hu.cycle) (hflight.trans hu.flight) (hP _ ?_ ?_ (reply_cmds ..))
  · exact hu.sameCells.trans (sameCells_of_eq ((reply_cells ..).trans hcells))
  · exact (hu.memory.sameMemory (t := u)).trans (sameMemory_of_eq ((reply_mem ..).trans hmem))

/-! A descriptor of one line. -/

theorem dramBytes_bytes (m : MemSys) (pa : Nat → Nat) (chunks : List (Nat × Nat)) :
    (dramBytes m pa chunks).map (fun b => b.b) = chunks.flatMap (fun y => m.plain (pa y.1) y.2) := by
  simp [dramBytes, List.map_flatMap, Function.comp_def]

theorem dramBytes_bad (m : MemSys) (pa : Nat → Nat) (va n : Nat) (hn : 0 < n) : rbBad (dramBytes m pa [(va, n)]) = m.marks.contains (pa va / 64) := by
  obtain ⟨k, rfl⟩ := Nat.exists_eq_succ_of_ne_zero hn.ne'
  simp only [dramBytes, rbBad, MemSys.plain, List.range_succ_eq_map, List.flatMap_cons, List.flatMap_nil, List.append_nil, List.map_cons, List.map_map,
    List.any_cons, List.any_map]
  cases m.marks.contains (pa va / 64)
  · exact Bool.or_eq_false_iff.mpr ⟨rfl, List.any_eq_false.mpr fun _ _ => Bool.false_ne_true⟩
  · rfl

/-- The agent of the instruction of the site reads a descriptor of one line. -/
theorem readEng_descriptor {s : State} {c : Cell} {addr pa : Nat} {ver : Bool} (i : Instr) (hc : s.cell? s.site.cell = some c) (hal : addr % 64 = 0)
    (haddr : addr < 2 ^ 64) (hlook : s.mem.lookup [] (s.site.cell / 1024 % 4) c.context addr .load = .ok pa ver) (ht : target pa = some .dram)
    (hb : s.mem.bad.contains (pa / 64) = false) :
    ∃ u e, (s.issuing i).readEng s.agentOf id [(addr, 64)] = (u, e, .bytes (dramBytes s.mem (fun _ => pa) [(addr, 64)])) ∧ AfterRead s i u ∧ IsAgent s e := by
  have hchunks : lineChunks addr 64 = [(addr, 64)] := lineChunks_one (by omega) (by omega) haddr
  have hread := (afterRead_issuing s i).read (isAgent_agentOf s) hc (pa := fun _ => pa) (ver := ver) (va := addr) (n := 64) (fun y hy => by
    rw [hchunks] at hy
    rw [List.mem_singleton.mp hy]
    exact ⟨hlook, ht, hb⟩) id
  rwa [hchunks] at hread

/-! CMD without predecessors, and with them. -/

section
variable {i : Instr} {kind : Nat} {rel : Bool} {c0 : Consumer} {s : State} {c : Cell} {addr slot : Nat} (hi : cmdOf i = some (kind, rel, c0))
  (h : s.goes i) (hc : s.cell? s.site.cell = some c) (hrel : rel = true → s.performedBefore s.site.cell s.stamps = true)
  (haddr : addr = (tokVal (s.nthTok s.site .l 1) ++ s.lval i).toNat) (hfree : s.freeCmd = some slot)
  (hroom : (s.cmds.filter (fun x => x.ctx == c.context && !x.retired)).length < 2048)
include hi h hc hrel haddr hfree hroom

theorem cmd_runs_read {pa : Nat} {ver : Bool} (hal : addr % 64 = 0)
    (hlook : s.mem.lookup [] (s.site.cell / 1024 % 4) c.context addr .load = .ok pa ver) (ht : target pa = some .dram)
    (hb : s.mem.bad.contains (pa / 64) = false) {P : State → Prop}
    (hP : ∀ t u e, SameCells s t → SameMemory s t → AfterRead s i u → e.ctx = c.context → t.cmds = (u.accepting slot kind e
      ((List.range 64).map (fun k => Memory.get s.mem.bytes (pa + k))) (s.mem.marks.contains (pa / 64)) (predWord (s.opnds s.site i).r)).cmds → P t) :
    Runs i s [(c0, ⟨BitVec.ofNat 32 (s.nextGen slot * 4096 + slot), none⟩)] P := by
  obtain ⟨u, e, hread, hu, he⟩ := readEng_descriptor i hc hal (haddr ▸ BitVec.isLt _) hlook ht hb
  have hattempt := (cmdAttempt_goes hi hc hrel hfree hroom haddr).2 _ _ _ hal hread
  rw [dramBytes_bytes, dramBytes_bad _ _ _ _ (by omega)] at hattempt
  simp only [List.flatMap_cons, List.flatMap_nil, List.append_nil, MemSys.plain] at hattempt
  exact cmd_runs hi h hu hattempt fun t hcells hmem hcmds => hP t _ _ hcells hmem hu (he.ctx.trans (agentOf_ctx hc)) hcmds

theorem cmd_runs_misaligned (hmis : addr % 64 ≠ 0) {P : State → Prop}
    (hP : ∀ t u e, SameCells s t → SameMemory s t → AfterRead s i u → e.ctx = c.context → t.cmds = (u.accepting slot kind e [] true
      (predWord (s.opnds s.site i).r)).cmds → P t) :
    Runs i s [(c0, ⟨BitVec.ofNat 32 (s.nextGen slot * 4096 + slot), none⟩)] P :=
  cmd_runs hi h (afterRead_issuing s i) ((cmdAttempt_goes hi hc hrel hfree hroom haddr).1 hmis) fun t hcells hmem hcmds =>
    hP t _ _ hcells hmem (afterRead_issuing s i) (agentOf_ctx hc) hcmds

end

/-- A command accepted without predecessors stands in the commands. -/
theorem newCmd_mem_alone {s u t : State} {i : Instr} (hu : AfterRead s i u) {slot kind : Nat} {e : Eng} {desc : List Byte} {bad : Bool}
    (hcmds : t.cmds = (u.accepting slot kind e desc bad (predWord none)).cmds) : ∃ x ∈ t.cmds, x.slot = slot ∧ x.gen = s.nextGen slot ∧ x.ctx = e.ctx ∧
      x.kind = kind ∧ x.retired = false ∧ x.waits = [] ∧ x.spoilt = bad ∧ x.desc = desc := by
  refine ⟨u.newCmd slot kind e desc bad (u.predsOf e.ctx (predWord none)), ?_, rfl, hu.nextGen slot, rfl, rfl, rfl, ?_, rfl, rfl⟩
  · rw [hcmds]
    exact newCmd_mem_accepting (by rw [predsOf_none]; rfl)
  · rw [predsOf_none]; rfl

/-- A command accepted with predecessors waits on those that have not retired, and retires BADPRED where one is malformed. -/
theorem newCmd_mem_preds {s u t : State} {i : Instr} (hu : AfterRead s i u) {slot kind ctx : Nat} {e : Eng} {desc : List Byte} {bad : Bool} {r : Tok}
    (hctx : e.ctx = ctx) (hcmds : t.cmds = (u.accepting slot kind e desc bad (predWord (some r))).cmds) :
    ∃ x ∈ t.cmds, x.slot = slot ∧ x.gen = s.nextGen slot ∧ x.ctx = ctx ∧ x.kind = kind ∧
      ((∀ id ∈ [r.v.toNat % 65536, r.v.toNat / 65536], id = 0xFFFF ∨ id / 4096 ≠ 15) → x.retired = false ∧ ∀ k g, (k, g) ∈ x.waits ↔
        ∃ id ∈ [r.v.toNat % 65536, r.v.toNat / 65536], id ≠ 0xFFFF ∧ k = id % 4096 ∧ g = id / 4096 ∧
          ∃ y ∈ s.cmds, y.slot = k ∧ y.gen = g ∧ y.ctx = ctx ∧ y.retired = false) ∧
      ((∃ id ∈ [r.v.toNat % 65536, r.v.toNat / 65536], id ≠ 0xFFFF ∧ id / 4096 = 15) → x.retired = true ∧ x.status = 5) := by
  have hpreds : u.predsOf e.ctx (predWord (some r)) = [r.v.toNat % 65536, r.v.toNat / 65536].map (s.predOf e.ctx) := hu.predsOf _ _
  have hany : (u.predsOf e.ctx (predWord (some r))).any (fun q => q == .malformed) = true ↔
      ∃ id ∈ [r.v.toNat % 65536, r.v.toNat / 65536], id ≠ 0xFFFF ∧ id / 4096 = 15 := by
    rw [hpreds, List.any_map, List.any_eq_true]
    simp only [Function.comp, beq_iff_eq, predOf_eq_malformed]
  by_cases hbad : ∃ id ∈ [r.v.toNat % 65536, r.v.toNat / 65536], id ≠ 0xFFFF ∧ id / 4096 = 15
  · obtain ⟨order, hmem⟩ := retired_mem_accepting (slot := slot) (kind := kind) (desc := desc) (bad := bad) (hany.mpr hbad)
    refine ⟨_, hcmds ▸ hmem, rfl, hu.nextGen slot, hctx, rfl, fun hgood => ?_, fun _ => ⟨rfl, rfl⟩⟩
    obtain ⟨id, hid, hne, h15⟩ := hbad
    exact absurd h15 ((hgood id hid).resolve_left hne)
  · have hmem := newCmd_mem_accepting (slot := slot) (kind := kind) (desc := desc) (bad := bad) (Bool.eq_false_iff.mpr (mt hany.mp hbad))
    refine ⟨_, hcmds ▸ hmem, rfl, hu.nextGen slot, hctx, rfl, fun hgood => ⟨rfl, fun k g => ?_⟩, fun hb => absurd hb hbad⟩
    rw [State.newCmd, mem_waitedOn, hpreds, List.mem_map]
    simp only [predOf_eq_waitOn, hctx]
    constructor
    · rintro ⟨id, hid, hne, -, hk, hg, hy⟩
      exact ⟨id, hid, hne, hk, hg, hy⟩
    · rintro ⟨id, hid, hne, hk, hg, hy⟩
      exact ⟨id, hid, hne, (hgood id hid).resolve_left hne, hk, hg, hy⟩

/-! CMDWAIT (R94, R97). -/

theorem cmdwait_runs {sc : Scope} {acq : Bool} {c0 : Consumer} {s : State} {c : Cell} (h : s.goes (.cmdwait sc acq c0)) (hc : s.cell? s.site.cell = some c) :
    (∀ w, s.cmdStatus c.context ((s.lval (.cmdwait sc acq c0)).toNat % 65536) = some w → Runs (.cmdwait sc acq c0) s [(c0, ⟨w, none⟩)] (Quiet s)) ∧
    (s.cmdStatus c.context ((s.lval (.cmdwait sc acq c0)).toNat % 65536) = none → Waits (.cmdwait sc acq c0) s (SameMemory s)) := by
  have hexec : exec (.cmdwait sc acq c0) s = .next (s.tried (.cmdwait sc acq c0) (s.pendOf (.cmdwait sc acq c0) []) (fun s p => s.cmdwaitAttempt c0 p)) :=
    (exec_cmdwait sc acq c0 s).trans (issueCtl_tries h [] _)
  have hstatus : (s.issuing (.cmdwait sc acq c0)).cmdStatus c.context ((s.lval (.cmdwait sc acq c0)).toNat % 65536) =
      s.cmdStatus c.context ((s.lval (.cmdwait sc acq c0)).toNat % 65536) := by
    rw [State.cmdStatus, issuing_cmds, State.cmdStatus]
  have hattempt : (s.issuing (.cmdwait sc acq c0)).cmdwaitAttempt c0 (s.pendOf (.cmdwait sc acq c0) []) =
      (s.cmdStatus c.context ((s.lval (.cmdwait sc acq c0)).toNat % 65536)).map (fun w => (s.issuing (.cmdwait sc acq c0)).reply s.site c0 [⟨w, none⟩]) := by
    rw [← hstatus, ← tagOf_of_cell? hc, ← issuing_tagOf s (.cmdwait sc acq c0)]
    rfl
  constructor
  · intro w hw
    rw [hw] at hattempt
    rw [tried_some hattempt] at hexec
    exact runs_of_reply h c0 _ hexec (.refl _) (issuing_cycle s _) (issuing_flight s _) (quiet_send (quiet_issuing s _) s.site c0 _ 0)
  · intro hw
    rw [hw] at hattempt
    exact waits_of_tried h hexec rfl rfl rfl rfl hattempt (issuing_unmoved s (.cmdwait sc acq c0)).sameMemory

theorem cmdStatus_found {s : State} {ctx id : Nat} {x : Cmd} (hx : s.cmds.find? (fun y => y.slot == id % 4096) = some x) (hctx : x.ctx = ctx)
    (hgen : x.gen = id / 4096) : s.cmdStatus ctx id = if x.retired then some (BitVec.ofNat 32 (id + x.status * 65536)) else none := by
  rw [State.cmdStatus, hx]
  dsimp only
  rw [if_neg (by simp [hctx, hgen])]

theorem cmdStatus_none {s : State} {id : Nat} (hx : s.cmds.find? (fun y => y.slot == id % 4096) = none) (ctx : Nat) :
    s.cmdStatus ctx id = some (BitVec.ofNat 32 (id + 0xFF0000)) := by
  rw [State.cmdStatus, hx]

end Sys2Proof.Machine
end

section
/-! PROOFS. COLL: its turn, and how a participant joins (R304, R321, R322) -/

namespace Sys2Proof.Machine

/-! COLL (R304, R321, R322). -/

/-- The instruction as it waits with its agent. -/
def State.pendColl (s : State) (i : Instr) : Pend := s.pendEng i [] []

theorem exec_coll_misaligned {f : Fmt} {op : RedOp} {sc : Scope} {kind : CollKind} {c0 : Consumer} {s : State} (h : s.goes (.coll f op sc kind c0))
    (hmis : (s.lval (.coll f op sc kind c0)).toNat % 64 ≠ 0) : Runs (.coll f op sc kind c0) s [(c0, ⟨1, none⟩)] (Quiet s) := by
  refine runs_quiet_of_emits h _ ?_
  rw [exec_coll, execColl, issueCtl_goes h]
  exact congrArg _ (if_pos hmis)

theorem exec_coll_aligned {f : Fmt} {op : RedOp} {sc : Scope} {kind : CollKind} {c0 : Consumer} {s : State} (h : s.goes (.coll f op sc kind c0))
    (hal : (s.lval (.coll f op sc kind c0)).toNat % 64 = 0) : exec (.coll f op sc kind c0) s =
      .next (s.tried (.coll f op sc kind c0) (s.pendColl (.coll f op sc kind c0)) (fun s p => s.collAttempt c0 p)) := by
  rw [exec_coll, execColl, issueCtl_goes h]
  refine congrArg _ ((if_neg (not_not.mpr hal)).trans ?_)
  have hwait := waitEng_issuing s (.coll f op sc kind c0) [] []
  rw [show emitsOf (.coll f op sc kind c0) .empty = [(c0, 1)] from rfl] at hwait
  simp only [hwait]
  exact tryPend_issuing s _ (s.pendColl _) _

/-- What a participant does once it has its descriptor, as COLL waits. -/
def State.collJoin (s : State) (c0 : Consumer) (p : Pend) (x : CollSpec) (e : Eng) (d : List Byte) : State :=
  match s.joinTurn x e none (some p.instr) d false with
  | .joined s => { s with pend := s.pend ++ [{ p with eng := none, notes := [1], data := d }] }
  | .ended s status => s.reply p.site c0 [⟨BitVec.ofNat 32 status, none⟩]
  | .fault s => s.refuse p codeProt
  | .wait s e => { s with pend := s.pend ++ [{ p with eng := some e, data := d }] }

section
variable {f : Fmt} {op : RedOp} {sc : Scope} {kind : CollKind} {c0 : Consumer} {s : State}

/-- COLL waits for what its cell has issued before it. -/
theorem collAttempt_early (hperf : s.performedBefore s.site.cell s.stamps = false) :
    (s.issuing (.coll f op sc kind c0)).collAttempt c0 (s.pendColl (.coll f op sc kind c0)) = none := by
  have hperf' := ((quiet_issuing s (.coll f op sc kind c0)).sameCells.performedBefore (issuing_pend s _) s.site.cell s.stamps).trans hperf
  unfold State.collAttempt
  simp only [show (s.pendColl (.coll f op sc kind c0)).notes = [] from rfl, show (s.pendColl (.coll f op sc kind c0)).eng = some s.agentOf from rfl,
    show collOf (s.pendColl (.coll f op sc kind c0)).instr = some ⟨kind, f, op, sc⟩ from rfl,
    show (s.pendColl (.coll f op sc kind c0)).site = s.site from rfl, show (s.pendColl (.coll f op sc kind c0)).stamp = s.stamps from rfl, hperf',
    List.isEmpty_nil, Bool.not_true, Bool.not_false, Bool.or_true, Bool.false_eq_true, if_false, if_true]

/-- COLL reads its descriptor and joins. -/
theorem collAttempt_joins {addr : Nat} (hperf : s.performedBefore s.site.cell s.stamps = true)
    (haddr : addr = (s.rval (.coll f op sc kind c0) ++ s.lval (.coll f op sc kind c0)).toNat) {u : State} {e : Eng} {l : List RByte}
    (hread : (s.issuing (.coll f op sc kind c0)).readEng s.agentOf id [(addr, 64)] = (u, e, .bytes l)) (hgood : rbBad l = false) :
    (s.issuing (.coll f op sc kind c0)).collAttempt c0 (s.pendColl (.coll f op sc kind c0)) =
      some (u.collJoin c0 (s.pendColl (.coll f op sc kind c0)) ⟨kind, f, op, sc⟩ e (l.map (fun b => b.b))) := by
  have hperf' := ((quiet_issuing s (.coll f op sc kind c0)).sameCells.performedBefore (issuing_pend s _) s.site.cell s.stamps).trans hperf
  have haddr' : (joinWords (tokVal (s.pendColl (.coll f op sc kind c0)).ops.l) (tokVal (s.pendColl (.coll f op sc kind c0)).ops.r)).toNat = addr := haddr.symm
  unfold State.collAttempt
  simp only [show (s.pendColl (.coll f op sc kind c0)).notes = [] from rfl, show (s.pendColl (.coll f op sc kind c0)).eng = some s.agentOf from rfl,
    show collOf (s.pendColl (.coll f op sc kind c0)).instr = some ⟨kind, f, op, sc⟩ from rfl,
    show (s.pendColl (.coll f op sc kind c0)).site = s.site from rfl, show (s.pendColl (.coll f op sc kind c0)).stamp = s.stamps from rfl, hperf',
    show (s.pendColl (.coll f op sc kind c0)).data = [] from rfl, show s.agentOf.held = none from rfl, Option.isSome_none,
    List.isEmpty_nil, Bool.not_true, Bool.or_self, Bool.false_eq_true, if_false, haddr', hread, hgood]
  rfl

end

/-! Joining. -/

/-- A state that differs in its collectives alone, one of which a participant has joined. -/
theorem joinColl_joins {s : State} (hroom : ∀ x ∈ s.colls, x.joins.length < x.npart) (sc : Scope) (fuel : Nat) (j : Join) :
    ∃ colls, s.joinColl sc (fuel + 1) j = { s with colls := colls } ∧
      ∃ x ∈ colls, j ∈ x.joins ∧ x.scope = sc ∧ x.cid = collCid j.desc ∧ (x.ctx = j.eng.ctx ∨ sc = .sys) := by
  unfold State.joinColl
  extract_lets cid fits
  cases hk : s.colls.findIdx? fits with
  | none =>
    exact ⟨_, rfl, _, List.mem_append_right _ (List.mem_singleton_self _), List.mem_singleton_self _, rfl, rfl, .inl rfl⟩
  | some k =>
    obtain ⟨hlt, hfit, -⟩ := List.findIdx?_eq_some_iff_getElem.mp hk
    have hget : s.colls.getD k ⟨0, sc, 0, 0, 0, [], []⟩ = s.colls[k] := by simp [List.getD_eq_getElem?_getD, hlt]
    simp only [fits, cid, Bool.and_eq_true, Bool.or_eq_true, beq_iff_eq] at hfit
    obtain ⟨⟨⟨hctx, hscope⟩, hcid⟩, -⟩ := hfit
    dsimp only
    rw [hget, if_pos (hroom _ (List.getElem_mem hlt))]
    exact ⟨_, rfl, _, List.mem_set hlt _, List.mem_append_right _ (List.mem_singleton_self _), hscope, hcid, hctx.symm⟩

theorem SameRegionHeld.group? {s u : State} (h : SameRegionHeld s u.regions) (rid gid : Nat) : u.group? rid gid = s.group? rid gid := by
  have key : ∀ x : State, x.group? rid gid = (((x.regions.map Region.still).find? (fun r => r.rid == rid)).bind
      (fun r => r.groups.find? (fun g => g.gid == gid))) := fun x => by
    rw [State.group?, State.region?, List.find?_map, show ((fun r => r.rid == rid) ∘ Region.still) = fun r => r.rid == rid from rfl]
    cases x.regions.find? (fun r => r.rid == rid) <;> rfl
  rw [key, key, h]

/-- A participant whose descriptor is good joins, with no counts or with those of its all-to-all. -/
theorem joinTurn_joins {s : State} {x : CollSpec} {e : Eng} {i : Option Instr} {d : List Byte} {counts : List Nat} (hgood : collBad x d false = false)
    (hmember : x.sc = .grp → (s.group? e.rid (collGrp d)).any (fun g => g.members.contains e.site.cell) = true)
    (hmeet : anyMeet (collRanges x d counts) = false) {u : State} {e' : Eng}
    (hcounts : if isA2a x.kind then ∃ l, s.readEng e (fun va => va / 4 * 4) [(collScnt d, 4 * collNpart d)] = (u, e', .bytes l) ∧ rbBad l = false ∧
        counts = (List.range (collNpart d)).map (fun k => fieldAt (l.map (fun b => b.b)) (4 * k) 4)
      else u = s ∧ e' = e ∧ counts = []) :
    s.joinTurn x e none i d false = .joined (u.joinColl x.sc (u.colls.length + 1)
      { eng := e', cmd := none, instr := i, desc := d, sent := [], counts := counts, readDone := false, status := 0, at_ := u.cycle }) := by
  have hin : (x.sc == .grp && !((s.group? e.rid (collGrp d)).any (fun g => g.members.contains e.site.cell))) = false := by
    by_cases hsc : x.sc = .grp
    · rw [hmember hsc]; simp
    · simp [hsc]
  rw [State.joinTurn, hgood, if_neg Bool.false_ne_true, hin, if_neg Bool.false_ne_true]
  dsimp only
  by_cases ha : isA2a x.kind = true
  · rw [if_pos ha] at hcounts
    obtain ⟨l, hread, hbad, rfl⟩ := hcounts
    rw [ha, if_neg (by simp), hread]
    dsimp only
    rw [hbad, if_neg Bool.false_ne_true, hmeet, if_neg Bool.false_ne_true]
  · rw [if_neg ha] at hcounts
    obtain ⟨rfl, rfl, rfl⟩ := hcounts
    rw [if_pos (by simp [ha]), hmeet, if_neg Bool.false_ne_true]

theorem joinTurn_outside {s : State} {x : CollSpec} {e : Eng} {i : Option Instr} {d : List Byte} (hgood : collBad x d false = false) (hsc : x.sc = .grp)
    (hout : (s.group? e.rid (collGrp d)).any (fun g => g.members.contains e.site.cell) = false) : s.joinTurn x e none i d false = .fault s := by
  rw [State.joinTurn, hgood, if_neg Bool.false_ne_true, if_pos (by rw [hout, hsc]; rfl)]

end Sys2Proof.Machine
end

section
/-! PROOFS. O42: CMD, CMDWAIT and COLL (R91 to R94, R97, R321, R322) -/

namespace Sys2Proof.Machine

/-! COLL at its turn. -/

theorem append_toNat (r l : Word) : (r ++ l).toNat = r.toNat * 2 ^ 32 + l.toNat := by
  rw [BitVec.toNat_append, ← Nat.shiftLeft_add_eq_or_of_lt l.isLt, Nat.shiftLeft_eq]

theorem collJoin_fault {s u : State} {p : Pend} (c0 : Consumer) {x : CollSpec} {e : Eng} {d : List Byte}
    (h : s.joinTurn x e none (some p.instr) d false = .fault u) : s.collJoin c0 p x e d = u.refuse p codeProt := by
  unfold State.collJoin
  simp only [h]

theorem collJoin_joined {s u : State} {p : Pend} (c0 : Consumer) {x : CollSpec} {e : Eng} {d : List Byte}
    (h : s.joinTurn x e none (some p.instr) d false = .joined u) :
    s.collJoin c0 p x e d = { u with pend := u.pend ++ [{ p with eng := none, notes := [1], data := d }] } := by
  unfold State.collJoin
  simp only [h]

section
variable {f : Fmt} {op : RedOp} {sc : Scope} {kind : CollKind} {c0 : Consumer} {s : State} {c : Cell} {addr pa : Nat} {ver : Bool} {d : List Byte}
  (h : s.goes (.coll f op sc kind c0)) (hc : s.cell? s.site.cell = some c) (hperf : s.performedBefore s.site.cell s.stamps = true)
  (haddr : addr = (s.rval (.coll f op sc kind c0) ++ s.lval (.coll f op sc kind c0)).toNat) (hal : addr % 64 = 0)
  (hlook : s.mem.lookup [] (s.site.cell / 1024 % 4) c.context addr .load = .ok pa ver) (ht : target pa = some .dram)
  (hb : s.mem.bad.contains (pa / 64) = false) (hmark : s.mem.marks.contains (pa / 64) = false)
  (hd : d = (List.range 64).map (fun k => Memory.get s.mem.bytes (pa + k)))
include h hc hperf haddr hal hlook ht hb hmark hd

/-- COLL with a good descriptor takes its turn with it. -/
theorem exec_coll_turn : ∃ u e, exec (.coll f op sc kind c0) s =
    .next (u.collJoin c0 (s.pendColl (.coll f op sc kind c0)) ⟨kind, f, op, sc⟩ e d) ∧ AfterRead s (.coll f op sc kind c0) u ∧ IsAgent s e := by
  have hl : (s.lval (.coll f op sc kind c0)).toNat % 64 = 0 := by
    rw [append_toNat] at haddr
    omega
  obtain ⟨u, e, hread, hu, he⟩ := readEng_descriptor (.coll f op sc kind c0) hc hal (haddr ▸ BitVec.isLt _) hlook ht hb
  have hgood : rbBad (dramBytes s.mem (fun _ => pa) [(addr, 64)]) = false := by rw [dramBytes_bad _ _ _ _ (by omega)]; exact hmark
  have hdesc : (dramBytes s.mem (fun _ => pa) [(addr, 64)]).map (fun b => b.b) = d := by
    rw [dramBytes_bytes, hd]
    simp only [List.flatMap_cons, List.flatMap_nil, List.append_nil, MemSys.plain]
  have hattempt := collAttempt_joins (c0 := c0) hperf haddr hread hgood
  rw [hdesc] at hattempt
  exact ⟨u, e, (exec_coll_aligned h hl).trans (congrArg _ (tried_some hattempt)), hu, he⟩

/-- COLL at GRP in a cell that is no member faults. -/
theorem coll_outside (hgood : collBad ⟨kind, f, op, sc⟩ d false = false) (hsc : sc = .grp)
    (hout : (s.group? c.rid (collGrp d)).any (fun g => g.members.contains s.site.cell) = false) :
    Runs (.coll f op sc kind c0) s [] (fun t => OwnFault s t 5 0 0 (BitVec.ofNat 64 (Instr.coll f op sc kind c0).opcode) ∧ t.colls = s.colls) := by
  obtain ⟨u, e, hexec, hu, he⟩ := exec_coll_turn h hc hperf haddr hal hlook ht hb hmark hd
  have hjoin : u.collJoin c0 (s.pendColl (.coll f op sc kind c0)) ⟨kind, f, op, sc⟩ e d = u.refuse (s.pendColl (.coll f op sc kind c0)) codeProt := by
    have hturn : u.joinTurn ⟨kind, f, op, sc⟩ e none (some (.coll f op sc kind c0)) d false = .fault u := joinTurn_outside hgood hsc (by
      rw [hu.regions.group?, he.rid, agentOf_rid hc, he.site]
      exact hout)
    exact collJoin_fault _ hturn
  have hfire : u.fireNo s.site = s.fireNo s.site := (hu.sameFace.fireNo s.site).trans (issuing_fireNo s _)
  have hsame := sameButFaults_refuse u (s.pendColl (.coll f op sc kind c0)) codeProt
  have htaken := faultTaken_refuse u (s.pendColl (.coll f op sc kind c0)) codeProt
  rw [show (s.pendColl (.coll f op sc kind c0)).site = s.site from rfl, hfire] at htaken
  rw [hjoin] at hexec
  exact runs_of_face h hexec (hu.sameFace.trans (sameFace_refuse ..)) (hsame.flight.trans hu.flight)
    ⟨htaken.congr hu.sameCells.sameFlt hu.cycle.symm rfl, hsame.colls.trans hu.colls⟩

omit h hperf haddr hal hlook ht hb hmark hd in
/-- A participant reads its counts, where it has any, and joins. -/
theorem joinTurn_after {u : State} {e : Eng} (hu : AfterRead s (.coll f op sc kind c0) u) (he : IsAgent s e) (hgood : collBad ⟨kind, f, op, sc⟩ d false = false)
    (hmember : sc = .grp → (s.group? c.rid (collGrp d)).any (fun g => g.members.contains s.site.cell) = true) {counts : List Nat} {pa2 : Nat → Nat}
    (hcounts : if isA2a kind then (∀ y ∈ lineChunks (collScnt d) (4 * collNpart d), s.mem.lookup [] (s.site.cell / 1024 % 4) c.context y.1 .load = .ok (pa2 y.1) false ∧
        target (pa2 y.1) = some .dram ∧ s.mem.bad.contains (pa2 y.1 / 64) = false ∧ s.mem.marks.contains (pa2 y.1 / 64) = false) ∧
      counts = (List.range (collNpart d)).map (fun k => fieldAt ((lineChunks (collScnt d) (4 * collNpart d)).flatMap (fun y => s.mem.plain (pa2 y.1) y.2)) (4 * k) 4)
      else counts = [])
    (hmeet : anyMeet (collRanges ⟨kind, f, op, sc⟩ d counts) = false) (i : Option Instr) :
    ∃ u' e', u.joinTurn ⟨kind, f, op, sc⟩ e none i d false = .joined (u'.joinColl sc (u'.colls.length + 1)
        { eng := e', cmd := none, instr := i, desc := d, sent := [], counts := counts, readDone := false, status := 0, at_ := u'.cycle }) ∧
      AfterRead s (.coll f op sc kind c0) u' ∧ IsAgent s e' := by
  have hmember' : sc = .grp → (u.group? e.rid (collGrp d)).any (fun g => g.members.contains e.site.cell) = true := fun hsc => by
    rw [hu.regions.group?, he.rid, agentOf_rid hc, he.site]
    exact hmember hsc
  by_cases ha : isA2a kind = true
  · rw [if_pos ha] at hcounts
    obtain ⟨hchunks, hcounts⟩ := hcounts
    obtain ⟨u', e', hread, hu', he'⟩ := hu.read he hc (fun y hy => ⟨(hchunks y hy).1, (hchunks y hy).2.1, (hchunks y hy).2.2.1⟩) (fun va => va / 4 * 4)
    refine ⟨u', e', joinTurn_joins hgood hmember' hmeet ?_, hu', he'⟩
    rw [if_pos ha]
    refine ⟨_, hread, ?_, by rw [dramBytes_bytes]; exact hcounts⟩
    rw [rbBad, dramBytes, List.any_flatMap, List.any_eq_false]
    intro y hy
    rw [(hchunks y hy).2.2.2]
    simp
  · rw [if_neg ha] at hcounts
    exact ⟨u, e, joinTurn_joins hgood hmember' hmeet (by rw [if_neg ha]; exact ⟨rfl, rfl, hcounts⟩), hu, he⟩

/-- COLL joins its instance and waits. -/
theorem coll_joins (hgood : collBad ⟨kind, f, op, sc⟩ d false = false)
    (hmember : sc = .grp → (s.group? c.rid (collGrp d)).any (fun g => g.members.contains s.site.cell) = true) {counts : List Nat} {pa2 : Nat → Nat}
    (hcounts : if isA2a kind then (∀ y ∈ lineChunks (collScnt d) (4 * collNpart d), s.mem.lookup [] (s.site.cell / 1024 % 4) c.context y.1 .load = .ok (pa2 y.1) false ∧
        target (pa2 y.1) = some .dram ∧ s.mem.bad.contains (pa2 y.1 / 64) = false ∧ s.mem.marks.contains (pa2 y.1 / 64) = false) ∧
      counts = (List.range (collNpart d)).map (fun k => fieldAt ((lineChunks (collScnt d) (4 * collNpart d)).flatMap (fun y => s.mem.plain (pa2 y.1) y.2)) (4 * k) 4)
      else counts = [])
    (hmeet : anyMeet (collRanges ⟨kind, f, op, sc⟩ d counts) = false) (hroom : ∀ x ∈ s.colls, x.joins.length < x.npart) :
    Waits (.coll f op sc kind c0) s (fun t => SameCells s t ∧ SameMemory s t ∧ ∃ x ∈ t.colls, ∃ j ∈ x.joins, j.desc = d ∧ j.eng.site = s.site ∧ j.counts = counts ∧
      x.scope = sc ∧ x.cid = collCid d ∧ (x.ctx = c.context ∨ sc = .sys)) := by
  obtain ⟨u, e, hexec, hu, he⟩ := exec_coll_turn h hc hperf haddr hal hlook ht hb hmark hd
  obtain ⟨u', e', hturn, hu', he'⟩ := joinTurn_after hc hu he hgood hmember hcounts hmeet (some (.coll f op sc kind c0))
  obtain ⟨colls, hjoin, x, hx, hj, hscope, hcid, hctx⟩ := joinColl_joins (by rw [hu'.colls]; exact hroom) sc u'.colls.length
    { eng := e', cmd := none, instr := some (.coll f op sc kind c0), desc := d, sent := [], counts := counts, readDone := false, status := 0, at_ := u'.cycle }
  rw [collJoin_joined (p := s.pendColl (.coll f op sc kind c0)) c0 (hturn.trans (congrArg _ hjoin))] at hexec
  exact waits_of_face h hexec (hu'.sameFace.trans (sameFace_of_eq rfl)) hu'.flight (congrArg (· ++ _) hu'.pend) rfl rfl rfl rfl
    ⟨hu'.sameCells, hu'.memory.sameMemory (t := u'), x, hx, _, hj, rfl, he'.site, rfl, hscope, hcid,
      hctx.imp_left fun hx => hx.trans (he'.ctx.trans (agentOf_ctx hc))⟩

end

end Sys2Proof.Machine

namespace Sys2Proof
open Sys2Proof.Machine

/-- Settles O42: a CMD takes a slot once it has read its descriptor, CMDWAIT answers `cmdStatus`, and COLL joins or is refused at its turn. -/
theorem commandInstructions : Obligations.CommandInstructions := by
  unfold Obligations.CommandInstructions
  refine ⟨fun i s c kind rel c0 addr slot gen hi h hc hr hrel haddr hfree hroom hgen => ⟨fun pa ver hal hlook ht hb => ?_, fun hmis => ?_⟩, ?_, ?_, ?_, ?_, ?_⟩
  · subst hgen
    refine cmd_runs_read hi h hc hrel haddr hfree hroom hal hlook ht hb fun t u e hcells hmem hu hctx hcmds => ⟨hcells, hmem, ?_⟩
    rw [hr] at hcmds
    obtain ⟨x, hx, hslot, hgen, hx3, hkind, hret, hwaits, hspoilt, hdesc⟩ := newCmd_mem_alone hu hcmds
    exact ⟨x, hx, hslot, hgen, hx3.trans hctx, hkind, hret, hwaits, hspoilt, hdesc⟩
  · subst hgen
    refine cmd_runs_misaligned hi h hc hrel haddr hfree hroom hmis fun t u e hcells hmem hu hctx hcmds => ⟨hcells, hmem, ?_⟩
    rw [hr] at hcmds
    obtain ⟨x, hx, hslot, hgen, hx3, hkind, hret, hwaits, hspoilt, -⟩ := newCmd_mem_alone hu hcmds
    exact ⟨x, hx, hslot, hgen, hx3.trans hctx, hkind, hret, hwaits, hspoilt⟩
  · intro i s c kind rel c0 addr slot gen r hi h hc hr hrel haddr hfree hroom hgen hread
    subst hgen
    by_cases hal : addr % 64 = 0
    · obtain ⟨pa, ver, hlook, ht, hb⟩ := hread hal
      refine cmd_runs_read hi h hc hrel haddr hfree hroom hal hlook ht hb fun t u e _ hmem hu hctx hcmds => ⟨hmem, ?_⟩
      rw [hr] at hcmds
      exact newCmd_mem_preds hu hctx hcmds
    · refine cmd_runs_misaligned hi h hc hrel haddr hfree hroom hal fun t u e _ hmem hu hctx hcmds => ⟨hmem, ?_⟩
      rw [hr] at hcmds
      exact newCmd_mem_preds hu hctx hcmds
  · intro i s kind rel c0 hi h hfree
    exact waits_of_tried h (exec_cmd_goes hi h) rfl rfl rfl rfl (cmdAttempt_full hi hfree) ⟨(issuing_unmoved s i).sameMemory (t := s.issuing i), issuing_cmds s i⟩
  · intro sc acq c0 s c h hc
    obtain ⟨hruns, hwaits⟩ := cmdwait_runs h hc
    have hid : (s.lval (.cmdwait sc acq c0)).toNat % 65536 % 4096 = (s.lval (.cmdwait sc acq c0)).toNat % 4096 := by omega
    rw [← hid]
    refine ⟨fun x hx hctx hgen => ?_, fun hx => hruns _ (cmdStatus_none hx _)⟩
    have hstatus := cmdStatus_found hx hctx hgen
    exact ⟨fun hret => hruns _ (by rw [hstatus, hret, if_pos rfl]), fun hret => hwaits (by rw [hstatus, hret, if_neg Bool.false_ne_true])⟩
  · intro f op sc kind c0 s h
    exact ⟨exec_coll_misaligned h, fun hal hperf => waits_of_tried h (exec_coll_aligned h hal) rfl rfl rfl rfl (collAttempt_early hperf)
      (issuing_unmoved s (.coll f op sc kind c0)).sameMemory⟩
  · intro f op sc kind c0 s c addr pa ver d h hc hperf haddr hal hlook ht hb hmark hd hgood
    exact ⟨coll_outside h hc hperf haddr hal hlook ht hb hmark hd hgood, fun counts pa2 hmember hcounts hmeet hroom =>
      coll_joins h hc hperf haddr hal hlook ht hb hmark hd hgood hmember hcounts hmeet hroom⟩

end Sys2Proof
end

section
/-! PROOFS. Looks at the page table (R236, R238) -/

namespace Sys2Proof.Machine

/-! Looks at the page table, as the wave and the wedge make them (R236, R238): memory stands as it was where no line has an error. -/

/-- Memory in which no line has an error. -/
def MemSys.Sound (m : MemSys) : Prop := ∀ l, m.bad.contains l = false

theorem MemSys.sound_of_nil {m : MemSys} (h : m.bad = []) : m.Sound := fun l => by rw [h]; rfl

theorem MemSys.Unmoved.keepsSound {m m' : MemSys} (h : m.Unmoved m') (hs : m.Sound) : m'.Sound := fun l => h.sound l (hs l)

theorem MemSys.unmoved_readEntry {m : MemSys} (h : m.Sound) (now tag pa : Nat) : m.Unmoved (m.readEntry now tag pa).1 := by
  unfold MemSys.readEntry
  split
  next ht =>
    obtain ⟨m', hread, hm⟩ := MemSys.readAs_dram ht (h _) true now tag 8
    simp only [MemSys.read, hread]
    cases m.marks.contains (pa / 64) <;> exact hm
  all_goals exact .refl m

theorem MemSys.unmoved_tableEntry {m : MemSys} (h : m.Sound) (now tag va level base : Nat) : m.Unmoved (m.tableEntry now tag va level base).1 := by
  unfold MemSys.tableEntry
  dsimp only
  generalize base + 8 * _ = addr
  have hr := MemSys.unmoved_readEntry h now tag addr
  split <;> (rename_i hx; rw [hx] at hr; exact hr)

theorem MemSys.unmoved_walkFrom {m : MemSys} (h : m.Sound) (now tag va level base : Nat) : m.Unmoved (m.walkFrom now tag va level base).1 := by
  induction level generalizing m base with
  | zero =>
    have ht := MemSys.unmoved_tableEntry h now tag va 0 base
    unfold MemSys.walkFrom
    split <;> (rename_i hx; rw [hx] at ht; exact ht)
  | succ l ih =>
    have ht := MemSys.unmoved_tableEntry h now tag va (l + 1) base
    unfold MemSys.walkFrom
    split <;> (rename_i hx; rw [hx] at ht)
    · exact ht
    · split
      · exact ht
      · exact ht.trans (ih (ht.keepsSound h) _)

theorem MemSys.unmoved_tablePa {m : MemSys} (h : m.Sound) (now ctx : Nat) (root : DWord) (va : Nat) (n : Need) :
    m.Unmoved (m.tablePa now ctx root va n).1 := by
  unfold MemSys.tablePa
  split
  · exact .refl m
  · have hw := MemSys.unmoved_walkFrom h now ctx va 3 (root.toNat / 2 ^ 21 % 2 ^ 31 * 2 ^ 21)
    split <;> (rename_i hx; rw [hx] at hw; exact hw)

/-- A state that differs from another in memory alone, which stands as it was where no line has an error. -/
structure State.Looked (s t : State) : Prop where
  frame : t = { s with mem := t.mem }
  unmoved : s.mem.Sound → s.mem.Unmoved t.mem

theorem State.Looked.refl (s : State) : s.Looked s := ⟨rfl, fun _ => .refl _⟩

theorem State.Looked.trans {s t u : State} (h : s.Looked t) (h' : t.Looked u) : s.Looked u :=
  ⟨by rw [h'.frame, h.frame], fun hs => (h.unmoved hs).trans (h'.unmoved ((h.unmoved hs).keepsSound hs))⟩

theorem State.looked_foldl {α : Type} {f : State → α → State} (hf : ∀ (s : State) (x : α), s.Looked (f s x)) (l : List α) (s : State) : s.Looked (l.foldl f s) := by
  induction l generalizing s with
  | nil => exact .refl s
  | cons x l ih => exact (hf s x).trans (ih _)

theorem State.looked_windowPage (s : State) (ctx : Nat) (w : Window) (k : Nat) : s.Looked { s with mem := (s.windowPage ctx w k).1 } :=
  ⟨rfl, fun hs => MemSys.unmoved_tablePa hs ..⟩

theorem State.looked_lookWindows (s : State) (ctx : Nat) (v : ImgVar) : s.Looked (s.lookWindows ctx v) := by
  unfold State.lookWindows
  split
  · exact .refl s
  · exact State.looked_foldl (fun s w => State.looked_foldl (fun s k => s.looked_windowPage ctx w k) _ s) _ s

end Sys2Proof.Machine
end

section
/-! PROOFS. LAUNCH_DISPATCH: what the sequencer's accesses leave, and a launch that waits (R83 to R85) -/

namespace Sys2Proof.Machine

/-! What the accesses of the sequencer leave (R83 to R85): all but memory, the log, the images, the commands and the counts of free choices. -/

/-- A state that differs from another in nothing but what the sequencer's accesses move. -/
def State.SequencerOnly (s t : State) : Prop :=
  t = { s with mem := t.mem, fresh := t.fresh, logQ := t.logQ, images := t.images, stamps := t.stamps, cmds := t.cmds }

namespace State.SequencerOnly

theorem refl (s : State) : s.SequencerOnly s := rfl

theorem trans {s t u : State} (h : s.SequencerOnly t) (h' : t.SequencerOnly u) : s.SequencerOnly u := by
  unfold SequencerOnly at *
  rw [h', h]

theorem cells {s t : State} (h : s.SequencerOnly t) : t.cells = s.cells := by rw [h]
theorem regions {s t : State} (h : s.SequencerOnly t) : t.regions = s.regions := by rw [h]
theorem launches {s t : State} (h : s.SequencerOnly t) : t.launches = s.launches := by rw [h]
theorem launchQ {s t : State} (h : s.SequencerOnly t) : t.launchQ = s.launchQ := by rw [h]
theorem queues {s t : State} (h : s.SequencerOnly t) : t.queues = s.queues := by rw [h]

end State.SequencerOnly

theorem sequencerOnly_seqWrite (s : State) (ctx va : Nat) (bs : List Byte) (cmd : Option Nat) : s.SequencerOnly (s.seqWrite ctx va bs cmd) := by
  unfold State.seqWrite
  dsimp only
  split
  · split <;> rfl
  · rfl
  · rfl

theorem sequencerOnly_tellLaunch (s : State) (ctx result : Nat) (cmd : Option Nat) (st : LaunchStatus) :
    s.SequencerOnly (s.tellLaunch ctx result cmd st) := by
  have h := sequencerOnly_seqWrite s ctx (result + 8) (leBytes 8 st.code) cmd
  unfold State.tellLaunch
  cases cmd with
  | none => exact h
  | some slot => exact h.trans rfl

theorem sequencerOnly_seqLine (s : State) (ctx va n : Nat) : s.SequencerOnly (s.seqLine ctx va n).1 := by
  unfold State.seqLine
  split
  · split
    · rfl
    · split <;> rfl
  · rfl
  · rfl

theorem sequencerOnly_seqLines (s : State) (ctx : Nat) (l : List (Nat × Nat)) : s.SequencerOnly (s.seqLines ctx l).1 := by
  induction l generalizing s with
  | nil => rfl
  | cons x l ih =>
    have h := sequencerOnly_seqLine s ctx x.1 x.2
    unfold State.seqLines
    split <;> (rename_i hx; rw [hx] at h)
    · exact h
    · have h' := h.trans (ih _)
      split <;> (rename_i hy; rw [hy] at h'; exact h')

theorem sequencerOnly_seqRead (s : State) (ctx va n : Nat) : s.SequencerOnly (s.seqRead ctx va n).1 := sequencerOnly_seqLines s ctx _

theorem sequencerOnly_of_seqRead {s t : State} {ctx va n : Nat} {r : Except (Nat × Nat) (List Byte)} (h : s.seqRead ctx va n = (t, r)) :
    s.SequencerOnly t := by
  have := sequencerOnly_seqRead s ctx va n
  rwa [h] at this

theorem sequencerOnly_loadFor (s : State) (l : Launch) : s.SequencerOnly (s.loadFor l).1 := by
  unfold State.loadFor
  split
  · next hhead => exact sequencerOnly_of_seqRead hhead
  · next hhead =>
    have h := sequencerOnly_of_seqRead hhead
    dsimp only
    split
    · exact h
    · split
      · exact h
      · split
        · next hrest => exact h.trans (sequencerOnly_of_seqRead hrest)
        · next hrest =>
          have h' := h.trans (sequencerOnly_of_seqRead hrest)
          split
          · exact h'
          · exact h'.trans rfl

theorem queuesFree_congr {s t : State} (h : t.queues = s.queues) (l : Launch) : t.queuesFree l = s.queuesFree l := by
  unfold State.queuesFree State.queue?
  rw [h]

/-- A launch whose image passes and that finds variants and queues waits for cells (R83). -/
theorem judgeLaunch_waits {s s2 : State} {l : Launch} {i : Image} {fits seeded : List Nat} (hbad : l.bad = false) (hctx : l.ctx ≠ 0 ∨ l.by0 = true)
    (hload : s.loadFor l = (s2, .ok i)) (hlift : l.lift0 < imgNlift i.words)
    (hfits : fits = (l.wanted i.words).filter (fun v => !(l.places (imageVar i.words l.lift0 v).w (imageVar i.words l.lift0 v).h).isEmpty))
    (hseeded : seeded = fits.filter (fun v => decide (l.seedn ≤ (imageVar i.words l.lift0 v).seeds.length))) (hne : seeded ≠ [])
    (hfree : s2.queuesFree l = true) : ∃ u, s.SequencerOnly u ∧ s.judgeLaunch l = { u with launches := u.launches ++ [{ l with img := some i.id, vars := seeded }] } := by
  have h2 := sequencerOnly_loadFor s l
  rw [hload] at h2
  have hw := sequencerOnly_seqWrite s2 l.ctx l.result (leBytes 8 0) none
  refine ⟨s2.seqWrite l.ctx l.result (leBytes 8 0), h2.trans hw, ?_⟩
  have hctx' : ¬ (l.ctx = 0 ∧ l.by0 = false) := by rintro ⟨h, h'⟩; simp [h, h'] at hctx
  have hfitsne : fits ≠ [] := by rintro h; exact hne (by rw [hseeded, h]; rfl)
  unfold State.judgeLaunch
  rw [if_neg (by simp [hbad]), if_neg hctx']
  simp only [hload, ← hfits, ← hseeded, queuesFree_congr hw.queues, hfree]
  rw [if_neg (by omega), if_neg (by simpa using hfitsne), if_neg (by simpa using hne), if_neg (by simp)]

theorem launchDispatch_waits {s s2 : State} {l : Launch} {rest : List Launch} {i : Image} {fits seeded : List Nat} (hth : s.thermal = false)
    (hready : s.boot.phase = .ready) (hq : s.launchQ = l :: rest) (hbad : l.bad = false) (hctx : l.ctx ≠ 0 ∨ l.by0 = true)
    (hjudged : s.launchQ.find? (fun x => x.judged) = none) (hload : ({ s with launchQ := rest } : State).wakeUp.loadFor l = (s2, .ok i))
    (hlift : l.lift0 < imgNlift i.words)
    (hfits : fits = (l.wanted i.words).filter (fun v => !(l.places (imageVar i.words l.lift0 v).w (imageVar i.words l.lift0 v).h).isEmpty))
    (hseeded : seeded = fits.filter (fun v => decide (l.seedn ≤ (imageVar i.words l.lift0 v).seeds.length))) (hne : seeded ≠ [])
    (hfree : s2.queuesFree l = true) :
    ∃ t, exec .launchDispatch s = .next t ∧ t.launchQ = rest ∧ t.launches = s.launches ++ [{ l with img := some i.id, vars := seeded }] ∧ SameCells s t := by
  obtain ⟨u, hu, hjudge⟩ := judgeLaunch_waits hbad hctx hload hlift hfits hseeded hne hfree
  refine ⟨{ u with launches := u.launches ++ [{ l with img := some i.id, vars := seeded }] }, ?_, hu.launchQ, congrArg (· ++ _) hu.launches, sameCells_of_eq hu.cells⟩
  rw [exec_launchDispatch, execLaunchDispatch, if_neg (by simp [hth, hready]), hjudged, hq]
  exact congrArg Host.Outcome.next hjudge

end Sys2Proof.Machine
end

section
/-! PROOFS. Context slots: what a placement leaves and fills (R85, R104) -/

namespace Sys2Proof.Machine

/-! Context slots: what a placement leaves, and how many slots then hold the variant (R85, R104). -/

/-- A state that differs from another in nothing but what its context slots hold. -/
def State.SlotsOnly (s t : State) : Prop := t = { s with loaded := t.loaded, stamps := t.stamps }

namespace State.SlotsOnly

theorem refl (s : State) : s.SlotsOnly s := rfl

theorem trans {s t u : State} (h : s.SlotsOnly t) (h' : t.SlotsOnly u) : s.SlotsOnly u := by
  unfold SlotsOnly at *
  rw [h', h]

theorem cells {s t : State} (h : s.SlotsOnly t) : t.cells = s.cells := by rw [h]
theorem mem {s t : State} (h : s.SlotsOnly t) : t.mem = s.mem := by rw [h]
theorem regions {s t : State} (h : s.SlotsOnly t) : t.regions = s.regions := by rw [h]
theorem launches {s t : State} (h : s.SlotsOnly t) : t.launches = s.launches := by rw [h]

end State.SlotsOnly

/-- What the context slots of a cell hold. -/
def State.loadedIn (s : State) (cell : Nat) : List Loaded := s.loaded.filter (fun x => x.cell == cell)

/-- The slots of a cell that hold a variant are decided by what the cell's slots hold. -/
theorem slotsOf_loadedIn (s : State) (cell img lift var : Nat) :
    s.slotsOf cell img lift var = ((s.loadedIn cell).filter (fun x => x.img == img && x.lift == lift && x.var == var)).map (fun x => x.slot) := by
  simp only [State.slotsOf, State.loadedIn, List.filter_filter]
  refine congrArg (List.map _) (List.filter_congr fun x _ => ?_)
  grind

theorem slotsOf_congr {s t : State} {cell : Nat} (h : t.loadedIn cell = s.loadedIn cell) (img lift var : Nat) :
    t.slotsOf cell img lift var = s.slotsOf cell img lift var := by rw [slotsOf_loadedIn, slotsOf_loadedIn, h]

theorem slotsOnly_placeSlots (s : State) (cell img lift var fold : Nat) (keep : List Nat) :
    s.SlotsOnly (s.placeSlots cell img lift var fold keep) := by
  unfold State.placeSlots
  split <;> rfl

/-- A placement in one cell leaves what the slots of another hold. -/
theorem loadedIn_placeSlots_of_ne (s : State) {c cell : Nat} (h : c ≠ cell) (img lift var fold : Nat) (keep : List Nat) :
    (s.placeSlots cell img lift var fold keep).loadedIn c = s.loadedIn c := by
  unfold State.placeSlots
  split
  · rfl
  · dsimp only [State.loadedIn]
    rw [List.filter_append, List.filter_filter]
    refine (congrArg₂ (· ++ ·) (List.filter_congr fun x _ => ?_) (List.filter_eq_nil_iff.mpr fun x hx => ?_)).trans (List.append_nil _)
    · grind
    · obtain ⟨y, -, rfl⟩ := List.mem_map.mp hx
      simpa using h.symm

theorem insertBy_perm {α : Type} (le : α → α → Bool) (x : α) (l : List α) : (insertBy le x l).Perm (x :: l) := by
  induction l with
  | nil => exact .refl _
  | cons y l ih =>
    rw [insertBy]
    split
    · exact .refl _
    · exact (ih.cons y).trans (.swap x y l)

theorem sortBy_perm {α : Type} (le : α → α → Bool) (l : List α) : (sortBy le l).Perm l := by
  induction l with
  | nil => exact .refl _
  | cons x l ih => exact (insertBy_perm le x _).trans (ih.cons x)

theorem length_le_of_nodup_of_subset {α : Type} {l l' : List α} (hn : l.Nodup) (h : l ⊆ l') : l.length ≤ l'.length :=
  (List.subperm_of_subset hn h).length_le

/-- Slots enough stand in the order in which a configuration takes them: every slot that is not kept. -/
theorem length_slotOrder (s : State) (cell : Nat) (keep : List Nat) : 4 ≤ (s.slotOrder cell keep).length + keep.length := by
  unfold State.slotOrder
  extract_lets held free empty
  have hkept : ((List.range 4).filter (fun k => keep.contains k)).length ≤ keep.length :=
    length_le_of_nodup_of_subset (List.nodup_range.filter _) fun k hk => by simpa using (List.mem_filter.mp hk).2
  have hrange := List.length_eq_length_filter_add (l := List.range 4) (fun k => keep.contains k)
  have hfree := List.length_eq_length_filter_add (l := free) (fun k => held.any (fun x => x.slot == k))
  have hheld : (free.filter (fun k => held.any (fun x => x.slot == k))).length ≤ (held.filter (fun x => free.contains x.slot)).length := by
    rw [← List.length_map (f := fun x : Loaded => x.slot)]
    refine length_le_of_nodup_of_subset ((List.nodup_range.filter _).filter _) fun k hk => ?_
    obtain ⟨hfree, hk⟩ := List.mem_filter.mp hk
    obtain ⟨x, hx, hslot⟩ := List.any_eq_true.mp hk
    obtain rfl := eq_of_beq hslot
    exact List.mem_map.mpr ⟨x, List.mem_filter.mpr ⟨hx, by simpa using hfree⟩, rfl⟩
  rw [List.length_append, List.length_map, (sortBy_perm _ _).length_eq]
  rw [List.length_range] at hrange
  change free.length = _ + empty.length at hfree
  change 4 = _ + free.length at hrange
  omega

/-- A variant placed in a cell whose kept slots leave room stands in as many slots as it has contexts. -/
theorem length_slotsOf_placeSlots (s : State) (cell img lift var : Nat) {fold : Nat} {keep : List Nat} (h : keep.length + fold ≤ 4) :
    ((s.placeSlots cell img lift var fold keep).slotsOf cell img lift var).length = fold := by
  unfold State.placeSlots
  split
  · assumption
  · have hlen : (sortBy (fun (a b : Nat) => decide (a ≤ b)) ((s.slotOrder cell keep).take fold)).length = fold := by
      have := length_slotOrder s cell keep
      rw [(sortBy_perm _ _).length_eq, List.length_take]
      omega
    simp only [State.slotsOf, List.filter_append, List.length_map, List.length_append, List.filter_filter]
    rw [List.filter_eq_nil_iff.mpr, List.filter_eq_self.mpr, List.length_map, List.length_zipIdx, hlen, List.length_nil, Nat.zero_add]
    · intro x hx
      obtain ⟨y, -, rfl⟩ := List.mem_map.mp hx
      simp
    · grind

theorem slotsOnly_foldl {α : Type} (g : α → Nat) (keep : State → α → List Nat) (img lift var fold : Nat) (l : List α) (s : State) :
    s.SlotsOnly (l.foldl (fun t x => t.placeSlots (g x) img lift var fold (keep t x)) s) := by
  induction l generalizing s with
  | nil => exact .refl s
  | cons x l ih => exact (slotsOnly_placeSlots s ..).trans (ih _)

/-- Placements in one cell after another, of which each finds room in a cell whose slots stand as at first, leave the variant in every cell. -/
theorem placeSlots_foldl {α : Type} (g : α → Nat) (keep : State → α → List Nat) (img lift var fold : Nat) (s : State) (l : List α)
    (hroom : ∀ (t : State), s.SlotsOnly t → ∀ x ∈ l, t.loadedIn (g x) = s.loadedIn (g x) → (keep t x).length + fold ≤ 4) (u : State)
    (hu : s.SlotsOnly u) (hdone : ∀ x ∈ l, (u.slotsOf (g x) img lift var).length = fold ∨ u.loadedIn (g x) = s.loadedIn (g x)) :
    let t := l.foldl (fun t x => t.placeSlots (g x) img lift var fold (keep t x)) u
    s.SlotsOnly t ∧ ∀ c, (c ∈ l.map g ∨ (u.slotsOf c img lift var).length = fold) → (t.slotsOf c img lift var).length = fold := by
  induction l generalizing u with
  | nil => exact ⟨hu, fun c h => h.resolve_left (by simp)⟩
  | cons x l ih =>
    have hplaced : ((u.placeSlots (g x) img lift var fold (keep u x)).slotsOf (g x) img lift var).length = fold := by
      rcases hdone x (List.mem_cons_self ..) with h | h
      · rw [State.placeSlots, if_pos h, h]
      · exact length_slotsOf_placeSlots u _ _ _ _ (hroom u hu x (List.mem_cons_self ..) h)
    have hstays : ∀ c, (u.slotsOf c img lift var).length = fold → ((u.placeSlots (g x) img lift var fold (keep u x)).slotsOf c img lift var).length = fold := by
      intro c h
      by_cases hc : c = g x
      · rw [hc, hplaced]
      · rw [slotsOf_congr (loadedIn_placeSlots_of_ne u hc ..), h]
    obtain ⟨hframe, hall⟩ := ih (fun t ht y hy => hroom t ht y (List.mem_cons_of_mem _ hy)) _ (hu.trans (slotsOnly_placeSlots u ..)) fun y hy => by
      by_cases hy' : g y = g x
      · exact .inl (by rw [hy', hplaced])
      · rw [slotsOf_congr (loadedIn_placeSlots_of_ne u hy' ..), loadedIn_placeSlots_of_ne u hy']
        exact hdone y (List.mem_cons_of_mem _ hy)
    refine ⟨hframe, fun c hc => hall c ?_⟩
    rcases hc with hc | hc
    · rcases List.mem_cons.mp hc with rfl | hc
      · exact .inr hplaced
      · exact .inl hc
    · exact .inr (hstays c hc)

end Sys2Proof.Machine
end

section
/-! PROOFS. PRELOAD: regions and waiting launches (R85, R104) -/

namespace Sys2Proof.Machine

/-! PRELOAD (R85, R104). -/

/-- Placements that start in the state itself. -/
theorem placeSlots_all {α : Type} (g : α → Nat) (keep : State → α → List Nat) (img lift var fold : Nat) (s : State) (l : List α)
    (hroom : ∀ (t : State), s.SlotsOnly t → ∀ x ∈ l, t.loadedIn (g x) = s.loadedIn (g x) → (keep t x).length + fold ≤ 4) :
    let t := l.foldl (fun t x => t.placeSlots (g x) img lift var fold (keep t x)) s
    s.SlotsOnly t ∧ ∀ x ∈ l, (t.slotsOf (g x) img lift var).length = fold := by
  obtain ⟨hframe, hall⟩ := placeSlots_foldl g keep img lift var fold s l hroom s (.refl s) fun _ _ => .inr rfl
  exact ⟨hframe, fun x hx => hall _ (.inl (List.mem_map_of_mem hx))⟩

/-- The slots that a cell's region runs are decided by the cells, the regions and what the cell's slots hold. -/
theorem currentSlots_congr {s t : State} {cell : Nat} (h : s.SlotsOnly t) (hl : t.loadedIn cell = s.loadedIn cell) :
    t.currentSlots cell = s.currentSlots cell := by
  unfold State.currentSlots State.region? State.cell?
  simp only [h.cells, h.regions, slotsOf_congr hl]

theorem preload_region {s : State} {rid lift var : Nat} {r : Region} {i : Image} {v : ImgVar} (hr : s.region? rid = some r) (hi : s.image? r.img = some i)
    (hgone : r.gone = false) (hlift : lift < imgNlift i.words) (hvar : var < imgNvar i.words lift) (hv : v = imageVar i.words lift var)
    (hroom : ∀ c ∈ rectCells r.die r.x0 r.y0 (min v.w r.w) (min v.h r.h), (s.currentSlots c.1).length + v.fold ≤ 4) :
    ∃ t, exec (.preload rid lift var) s = .next t ∧ SameCells s t ∧ SameMemory s t ∧ t.regions = s.regions ∧
      ∀ c ∈ rectCells r.die r.x0 r.y0 (min v.w r.w) (min v.h r.h), (t.slotsOf c.1 r.img lift var).length = v.fold := by
  obtain ⟨hframe, hall⟩ := placeSlots_all (fun c => c.1) (fun t c => t.currentSlots c.1) r.img lift var v.fold s
    (rectCells r.die r.x0 r.y0 (min v.w r.w) (min v.h r.h)) fun t ht c hc hl => by rw [currentSlots_congr ht hl]; exact hroom c hc
  have hfull : (rectCells r.die r.x0 r.y0 (min v.w r.w) (min v.h r.h)).any (fun c => decide (4 < (s.currentSlots c.1).length + v.fold)) = false :=
    List.any_eq_false.mpr fun c hc => by simpa using hroom c hc
  refine ⟨_, ?_, sameCells_of_eq hframe.cells, sameMemory_of_eq hframe.mem, hframe.regions, hall⟩
  rw [exec_preload, execPreload]
  simp only [hr, hi, ← hv]
  rw [if_neg (by simp [hgone, hlift, hvar]), if_neg (by simp [hfull])]

/-- The slots that a place keeps leave room for the variant. -/
theorem preloadPlace_room {s : State} {l : Launch} {v : ImgVar} : ∀ x ∈ s.preloadPlace l v, x.2.length + v.fold ≤ 4 := by
  unfold State.preloadPlace
  extract_lets keep cells
  split
  · next p hp =>
    intro x hx
    have hall := List.find?_some hp
    simpa using List.all_eq_true.mp hall x hx
  · simp

theorem preload_launch {s : State} {order lift var : Nat} {l : Launch} {i : Image} {v : ImgVar} (hr : s.region? order = none)
    (hl : s.launches.find? (fun x => x.order == order) = some l) (hi : l.img.bind s.image? = some i) (hlift : lift = l.lift0) (hvar : var ∈ l.vars)
    (hv : v = imageVar i.words lift var) : ∃ t, exec (.preload order lift var) s = .next t ∧ SameCells s t ∧ SameMemory s t ∧ t.launches = s.launches ∧
      ∀ x ∈ s.preloadPlace l v, (t.slotsOf x.1 i.id lift var).length = v.fold := by
  obtain ⟨hframe, hall⟩ := placeSlots_all (fun x => x.1) (fun _ x => x.2) i.id lift var v.fold s (s.preloadPlace l v) fun _ _ x hx _ =>
    preloadPlace_room x hx
  refine ⟨_, ?_, sameCells_of_eq hframe.cells, sameMemory_of_eq hframe.mem, hframe.launches, hall⟩
  rw [exec_preload, execPreload]
  simp only [hr, hl, hi, ← hv]
  rw [if_pos (by simp [hlift, hvar])]

end Sys2Proof.Machine
end

section
/-! PROOFS. SEED_INJECT and CONTEXT_RETIRE (R89, R118, R355) -/

namespace Sys2Proof.Machine

/-! SEED_INJECT (R89, R118). -/

theorem block?_arrived (s : State) (cell : Nat) (t : Site) : (s.arrived cell).block? t = s.block? t := by
  have hcell : (s.arrived cell).cell? t.cell = (s.updCell cell (fun c => { c with arrivedAt := s.cycle })).cell? t.cell := rfl
  unfold State.block?
  rw [hcell, State.cell?_updCell _ _ _ _ (fun _ => by rfl)]
  split_ifs
  · rw [Option.bind_map]; rfl
  · rfl

theorem Block.inChan_updIn (b : Block) {ch : Nat} (f : InChan → InChan) (h : ch < b.ins.length) : (b.updIn ch f).inChan ch = f (b.inChan ch) := by
  simp only [Block.inChan, Block.updIn]
  rw [List.getD_eq_getElem _ _ (by simpa using h), List.getElem_set_self]

/-- An entry of a channel that a seed or a producer fills next. -/
def InChan.put (c : InChan) (tok : Tok) : InChan := { c with buf := c.buf.set (c.pp.toNat % c.cap) tok, pp := c.pp + 1 }

/-- A seed in a channel that no block feeds is put there. -/
theorem putSeed_unfed {s : State} {x : Seed} {b : Block} (hb : s.block? ⟨x.cell, x.ctx, 0⟩ = some b) (hfed : (b.inChan x.chan).fed = false) :
    s.putSeed x = (s.updBlock ⟨x.cell, x.ctx, 0⟩ (fun b => b.updIn x.chan (fun c => c.put ⟨x.value, none⟩))).arrived x.cell := by
  unfold State.putSeed
  simp only [hb, hfed]
  rfl

theorem block?_putSeed {s : State} {x : Seed} {b : Block} (hb : s.block? ⟨x.cell, x.ctx, 0⟩ = some b) (hfed : (b.inChan x.chan).fed = false) :
    (s.putSeed x).block? ⟨x.cell, x.ctx, 0⟩ = some (b.updIn x.chan (fun c => c.put ⟨x.value, none⟩)) := by
  rw [putSeed_unfed hb hfed, block?_arrived, State.block?_updBlock_self _ _ _ (fun _ => by rfl), hb]
  rfl

theorem regions_putSeed {s : State} {x : Seed} {b : Block} (hb : s.block? ⟨x.cell, x.ctx, 0⟩ = some b) (hfed : (b.inChan x.chan).fed = false) :
    (s.putSeed x).regions = s.regions := by rw [putSeed_unfed hb hfed]; rfl

theorem cells_reportLaunched (s : State) (rid : Nat) : (s.reportLaunched rid).cells = s.cells := by
  unfold State.reportLaunched
  split
  · rfl
  · split
    · rfl
    · exact (sequencerOnly_tellLaunch ..).cells

/-- The report of a launch leaves the seeds of its region. -/
theorem seeds_reportLaunched (s : State) (rid : Nat) :
    ((s.reportLaunched rid).region? rid).map (fun r => r.seeds) = (s.region? rid).map (fun r => r.seeds) := by
  unfold State.reportLaunched
  split
  · rfl
  · split
    · rfl
    · next r _ _ =>
      have hregions := (sequencerOnly_tellLaunch (s.updRegion rid (fun r => { r with reported := true })) r.ctx r.result r.cmd .launched).regions
      unfold State.region?
      rw [hregions]
      change ((s.updRegion rid _).region? rid).map _ = _
      rw [region?_updRegion _ _ (fun _ => by rfl), Option.map_map]
      rfl

theorem seedInject_put {s : State} {rid : Nat} {r : Region} {x : Seed} {rest : List Seed} {b : Block} (hr : s.region? rid = some r)
    (hfrom : r.seedFrom ≤ s.cycle) (hgoes : s.regionGoes rid = true) (hth : s.thermal = false) (hseeds : r.seeds = x :: rest)
    (hb : s.block? ⟨x.cell, x.ctx, 0⟩ = some b) (hfed : (b.inChan x.chan).fed = false) (hroom : (b.inChan x.chan).occupancy < (b.inChan x.chan).cap)
    (hchan : x.chan < b.ins.length) : ∃ t b', exec (.seedInject rid) s = .next t ∧ (t.region? rid).map (fun y => y.seeds) = some rest ∧
      t.block? ⟨x.cell, x.ctx, 0⟩ = some b' ∧ b'.inChan x.chan = (b.inChan x.chan).put ⟨x.value, none⟩ := by
  have hseed : s.seedRoom x = true := by
    unfold State.seedRoom
    simp only [hb, hfed]
    simpa using hroom
  refine ⟨((s.putSeed x).updRegion rid (fun r => { r with seeds := rest, seedFrom := s.cycle + 1 })).reportLaunched rid, _, ?_, ?_, ?_,
    Block.inChan_updIn b (fun c => c.put ⟨x.value, none⟩) hchan⟩
  · rw [exec_seedInject, execSeedInject]
    simp only [hr, hseeds, hseed, hgoes, hth]
    rw [if_neg (by simpa using hfrom), if_pos trivial]
  · rw [seeds_reportLaunched, region?_updRegion _ _ (fun _ => by rfl), State.region?, regions_putSeed hb hfed]
    change ((s.region? rid).map _).map _ = _
    rw [hr]
    rfl
  · rw [← block?_putSeed hb hfed]
    unfold State.block? State.cell?
    rw [cells_reportLaunched]
    rfl

/-! CONTEXT_RETIRE (R355). -/

theorem cells_retireContext (s : State) (ctx : Nat) : (s.retireContext ctx).cells = s.cells := rfl
theorem regions_retireContext (s : State) (ctx : Nat) : (s.retireContext ctx).regions = s.regions := rfl

theorem contextRetire_retires {s : State} {ctx : Nat} (h : s.hasState ctx = false) :
    ∃ t, exec (.contextRetire ctx) s = .next t ∧ SameCells s t ∧ t.seams = s.seams.filter (fun m => m.ctx != ctx) ∧
      t.mem.metered = s.mem.metered.filter (fun x => x != ctx) ∧ t.mem.bytes = s.mem.bytes := by
  refine ⟨s.retireContext ctx, ?_, sameCells_of_eq (cells_retireContext s ctx), rfl, rfl, rfl⟩
  rw [exec_contextRetire, execContextRetire, if_neg (by simp [h])]

end Sys2Proof.Machine
end

section
/-! PROOFS. Cells as the wave and the wedge leave them (R88, R105, R118, R132) -/

namespace Sys2Proof.Machine

/-! Cells as the wave and the wedge leave them, and what a new divider moves in them (R88, R105, R118, R122, R132). -/

@[simp] theorem Cell.retime_num (now : Nat) (f : Nat → Nat × Nat) (c : Cell) : (c.retime now f).num = c.num := rfl
@[simp] theorem Cell.retime_rid (now : Nat) (f : Nat → Nat × Nat) (c : Cell) : (c.retime now f).rid = c.rid := rfl
@[simp] theorem Cell.retime_context (now : Nat) (f : Nat → Nat × Nat) (c : Cell) : (c.retime now f).context = c.context := rfl
@[simp] theorem Cell.retime_rx (now : Nat) (f : Nat → Nat × Nat) (c : Cell) : (c.retime now f).rx = c.rx := rfl
@[simp] theorem Cell.retime_ry (now : Nat) (f : Nat → Nat × Nat) (c : Cell) : (c.retime now f).ry = c.ry := rfl
@[simp] theorem Cell.retime_adoptAt (now : Nat) (f : Nat → Nat × Nat) (c : Cell) : (c.retime now f).adoptAt = c.adoptAt := rfl
@[simp] theorem Cell.retime_parity (now : Nat) (f : Nat → Nat × Nat) (c : Cell) : (c.retime now f).parity = c.parity := rfl
@[simp] theorem Cell.retime_pes (now : Nat) (f : Nat → Nat × Nat) (c : Cell) : (c.retime now f).pes = c.pes := rfl

theorem Bank.timeless_retime (now d d' : Nat) (b : Bank) : (b.retime now d d').timeless = b.timeless := by
  cases b with
  | mk st busyAt => cases st <;> rfl

@[simp] theorem Cell.retime_timeless (now : Nat) (f : Nat → Nat × Nat) (c : Cell) : (c.retime now f).regs.timeless = c.regs.timeless := by
  have hbanks : ∀ d d' : Nat, Bank.timeless ∘ Bank.retime now d d' = Bank.timeless := fun d d' => funext (Bank.timeless_retime now d d')
  simp only [Cell.retime, RegFiles.timeless, List.map_map, hbanks]

/-- A new divider moves nothing in blocks whose fields are empty. -/
theorem FreshBlocks.blocks_retime {l : List ImgBlock} {c : Cell} (h : FreshBlocks l c.blocks) (now : Nat) (f : Nat → Nat × Nat) :
    (c.retime now f).blocks = c.blocks := by
  obtain ⟨-, -, hfresh⟩ := h
  refine (List.map_congr_left fun b hb => ?_).trans (List.map_id _)
  obtain ⟨-, -, -, -, hslots, -⟩ := hfresh b hb
  rw [hslots, List.map_replicate]
  change { b with slots := List.replicate b.words.length Slot.empty } = b
  rw [← hslots]

theorem FreshBlocks.retime {l : List ImgBlock} {c : Cell} (h : FreshBlocks l c.blocks) (now : Nat) (f : Nat → Nat × Nat) :
    FreshBlocks l (c.retime now f).blocks := by rwa [h.blocks_retime]

theorem buildIn_empty (p : Placed) (v : ImgVar) (b : ImgBlock) (ch : Nat) : (buildIn p v b ch).cp = 0 ∧ (buildIn p v b ch).pp = 0 := by
  unfold buildIn
  split <;> exact ⟨rfl, rfl⟩

theorem buildOut_empty (p : Placed) (v : ImgVar) (b : ImgBlock) (ch : Nat) : (buildOut p v b ch).pp = 0 ∧ (buildOut p v b ch).w = 0 := by
  unfold buildOut
  split <;> exact ⟨rfl, rfl⟩

/-- The blocks of an image as they are built are fresh. -/
theorem freshBlocks_build (p : Placed) (v : ImgVar) (l : List ImgBlock) : FreshBlocks l (l.map (buildBlock p v)) := by
  refine ⟨by simp only [List.map_map]; rfl, ?_, fun b hb => ?_⟩
  · rw [List.map_map]
    refine List.map_congr_left fun b _ => ?_
    simp [buildBlock]
  · obtain ⟨x, -, rfl⟩ := List.mem_map.mp hb
    refine ⟨rfl, rfl, rfl, rfl, rfl, fun c hc => ?_, fun c hc => ?_⟩
    · obtain ⟨ch, -, rfl⟩ := List.mem_map.mp hc
      exact buildIn_empty p v x ch
    · obtain ⟨ch, -, rfl⟩ := List.mem_map.mp hc
      exact buildOut_empty p v x ch

/-- The cells after the dividers have been set: each is timed anew. -/
theorem cells_setDividers (s : State) : ∃ f, s.setDividers.cells = s.cells.map (Cell.retime s.cycle f) := ⟨_, rfl⟩

/-- What no divider moves in the cells stands as it was. -/
theorem cells_map_setDividers {β : Type} (s : State) (g : Cell → β) (h : ∀ now f c, g (Cell.retime now f c) = g c) :
    s.setDividers.cells.map g = s.cells.map g := by
  obtain ⟨f, hf⟩ := cells_setDividers s
  rw [hf, List.map_map]
  exact List.map_congr_left fun c _ => h s.cycle f c

end Sys2Proof.Machine
end

section
/-! PROOFS. DRAINED_REPORT and LIFT_WEDGE (R104, R130 to R132, R354) -/

namespace Sys2Proof.Machine

/-! DRAINED_REPORT (R130, R131, R354): the drained cycle, or the end of the region. -/

theorem mem_cells_setDividers {s : State} {c : Cell} (h : c ∈ s.setDividers.cells) : ∃ d ∈ s.cells, ∃ f, c = d.retime s.cycle f := by
  obtain ⟨f, hf⟩ := cells_setDividers s
  rw [hf] at h
  obtain ⟨d, hd, rfl⟩ := List.mem_map.mp h
  exact ⟨d, hd, f, rfl⟩

theorem cells_sweepGone_subset (s : State) : s.sweepGone.cells ⊆ s.cells := by
  unfold State.sweepGone
  extract_lets done
  split
  · exact fun _ h => h
  · exact fun c h => List.mem_of_mem_filter h

/-- Cells that have left their region have numbers of no cell of a die. -/
theorem leave_num {s : State} {rid new : Nat} {nums : List Nat} (hall : ∀ d ∈ s.cells, d.rid = rid → nums.contains d.num = true) :
    ∀ c ∈ (s.leave rid new nums).cells, c.rid = rid → 4096 ≤ c.num := by
  intro c hc hrid
  obtain ⟨d, hd, rfl⟩ := List.mem_map.mp hc
  split_ifs at hrid ⊢ with h
  · change 4096 ≤ d.num % 4096 + 4096 * (new + 1)
    omega
  · exact absurd ⟨hrid, hall d hd hrid⟩ h

theorem cells_foldl_cmdResult (l : List Nat) (s : State) : (l.foldl (fun s k => s.cmdResult (k % 4096) 3) s).cells = s.cells := by
  induction l generalizing s with
  | nil => rfl
  | cons k l ih => exact ih _

/-- The end of a region after what it has told: its cells leave it, and it is gone once nothing of it is left to perform. -/
theorem closeRegion_leaves {s : State} {rid : Nat} {r : Region} (hr : s.region? rid = some r) : ∃ (u : State) (f : Region → Region), u.cells = s.cells ∧
    s.closeRegion rid .all = ((u.leave rid rid ((s.cellsOf rid).map (fun c => c.num))).updRegion rid f).sweepGone.setDividers := by
  unfold State.closeRegion
  rw [hr]
  dsimp -zeta only
  extract_lets nums s1 s2 s3 s4 s5 s6 runs sys flushing s7 s8
  have h2 : s2.cells = s.cells := by
    simp only [s2]
    split
    · rfl
    · exact (sequencerOnly_tellLaunch ..).cells
  exact ⟨s5, _, (cells_foldl_cmdResult r.liftCmds s2).trans h2, rfl⟩

/-- What is left of the cells when a region is gone or kept and the dividers are set anew. -/
theorem mem_cells_swept {s : State} {rid : Nat} {f : Region → Region} {c : Cell} (h : c ∈ (s.updRegion rid f).sweepGone.setDividers.cells) :
    ∃ d ∈ s.cells, d.num = c.num ∧ d.rid = c.rid := by
  obtain ⟨d, hd, g, rfl⟩ := mem_cells_setDividers h
  exact ⟨d, cells_sweepGone_subset (s.updRegion rid f) hd, rfl, rfl⟩

theorem closeRegion_num {s : State} {rid : Nat} {r : Region} (hr : s.region? rid = some r) :
    ∀ c ∈ (s.closeRegion rid .all).cells, c.rid = rid → 4096 ≤ c.num := by
  obtain ⟨u, f, hcells, hclose⟩ := closeRegion_leaves hr
  have hnums : ∀ x ∈ u.cells, x.rid = rid → ((s.cellsOf rid).map (fun c => c.num)).contains x.num = true := fun x hx hxrid => by
    rw [hcells] at hx
    simp only [List.contains_iff_mem, List.mem_map, State.cellsOf]
    exact ⟨x, List.mem_filter.mpr ⟨hx, by simpa using hxrid⟩, rfl⟩
  intro c hc hrid
  rw [hclose] at hc
  obtain ⟨d, hd, hnum, hdrid⟩ := mem_cells_swept hc
  rw [← hnum]
  exact leave_num hnums d hd (hdrid.trans hrid)

theorem drainedReport_records {s : State} {rid : Nat} {r : Region} (hr : s.region? rid = some r) (hsettled : s.regionSettled r = true)
    (hgoes : s.regionGoes rid = true) (hth : s.thermal = false) (hends : s.endsDrained r = false) (howners : r.owners = []) (hdrained : r.drainedAt = none) :
    ∃ t, exec (.drainedReport rid) s = .next t ∧ SameCells s t ∧ SameMemory s t ∧ (t.region? rid).map (fun x => x.drainedAt) = some (some s.cycle) := by
  refine ⟨s.updRegion rid (fun r => { r with drainedAt := some s.cycle }), ?_, sameCells_of_eq rfl, sameMemory_of_eq rfl, ?_⟩
  · rw [exec_drainedReport, execDrainedReport]
    simp only [hr, hsettled, hgoes, hth, hends, howners, hdrained]
    cases r.liftReq <;> rfl
  · rw [region?_updRegion _ _ (fun _ => by rfl), hr]
    rfl

theorem drainedReport_ends {s : State} {rid : Nat} {r : Region} (hr : s.region? rid = some r) (hsettled : s.regionSettled r = true)
    (hgoes : s.regionGoes rid = true) (hth : s.thermal = false) (hends : s.endsDrained r = true) (howners : r.owners = []) :
    ∃ t, exec (.drainedReport rid) s = .next t ∧ ∀ c ∈ t.cells, c.rid = rid → 4096 ≤ c.num := by
  refine ⟨s.closeRegion rid .all, ?_, closeRegion_num hr⟩
  rw [exec_drainedReport, execDrainedReport]
  simp only [hr, hsettled, hgoes, hth, hends, howners]
  rfl

/-! LIFT_WEDGE (R104, R132). -/

theorem placeVariant_slots (s : State) (r : Region) (lift var : Nat) (v : ImgVar) (hfold : v.fold ≤ 4) :
    ∀ c ∈ rectCells r.die r.x0 r.y0 v.w v.h, ((s.placeVariant r lift var v).slotsOf c.1 r.img lift var).length = v.fold := by
  refine (placeSlots_all (fun c : Nat × Nat × Nat => c.1) (fun t c => if (t.slotsOf c.1 r.img r.lift r.var).length + v.fold ≤ 4 then t.slotsOf c.1 r.img r.lift r.var else [])
    r.img lift var v.fold s _ fun t _ c _ _ => ?_).2
  split
  · assumption
  · simpa using hfold

theorem slotsOnly_placeVariant (s : State) (r : Region) (lift var : Nat) (v : ImgVar) : s.SlotsOnly (s.placeVariant r lift var v) :=
  slotsOnly_foldl (fun c : Nat × Nat × Nat => c.1) (fun t c =>
    if (t.slotsOf c.1 r.img r.lift r.var).length + v.fold ≤ 4 then t.slotsOf c.1 r.img r.lift r.var else []) r.img lift var v.fold _ s

/-- The state in which the wedge finds its cells: the variant is placed, its windows have been looked at. -/
def State.readied (s : State) (r : Region) (lift var : Nat) (v : ImgVar) : State := (s.placeVariant r lift var v).lookWindows r.ctx v

/-- The wedge's placing and its looks move nothing but slots and memory. -/
theorem readied_frame (s : State) (r : Region) (lift var : Nat) (v : ImgVar) :
    s.readied r lift var v = { s with loaded := (s.readied r lift var v).loaded, stamps := (s.readied r lift var v).stamps, mem := (s.readied r lift var v).mem } := by
  have hslots := slotsOnly_placeVariant s r lift var v
  have hlook := (State.looked_lookWindows (s.placeVariant r lift var v) r.ctx v).frame
  unfold State.readied
  unfold State.SlotsOnly at hslots
  rw [hlook, hslots]

theorem readied_unmoved (s : State) (r : Region) (lift var : Nat) (v : ImgVar) (h : s.mem.Sound) : s.mem.Unmoved (s.readied r lift var v).mem := by
  have hmem := (slotsOnly_placeVariant s r lift var v).mem
  have hlook := (State.looked_lookWindows (s.placeVariant r lift var v) r.ctx v).unmoved
  rw [hmem] at hlook
  exact hlook h

theorem loaded_readied (s : State) (r : Region) (lift var : Nat) (v : ImgVar) : (s.readied r lift var v).loaded = (s.placeVariant r lift var v).loaded := by
  rw [State.readied, (State.looked_lookWindows (s.placeVariant r lift var v) r.ctx v).frame]

theorem wedgeCell_fresh (s : State) (p : Placed) (v : ImgVar) (start : Nat) (c : Cell) :
    FreshBlocks (if c.rx < v.w ∧ c.ry < v.h then v.cellBlocks c.rx c.ry else []) (s.wedgeCell p v start c).blocks := by
  have hin : (decide (c.rx < v.w) && decide (c.ry < v.h)) = decide (c.rx < v.w ∧ c.ry < v.h) := by simp
  unfold State.wedgeCell
  simp only [hin, decide_eq_true_eq]
  exact freshBlocks_build p v _

/-- The cells after the wedge: those of the region as it leaves them, all timed anew. -/
theorem cells_wedge (s : State) (r : Region) (lift var : Nat) (v : ImgVar) : ∃ f, (s.wedge r lift var v).cells = (s.cells.map (fun c =>
    if c.rid = r.rid then (s.readied r lift var v).wedgeCell ⟨r.die, r.x0, r.y0⟩ v s.cycle c else c)).map (Cell.retime s.cycle f) := by
  have hcells : (s.readied r lift var v).cells = s.cells := by rw [readied_frame]
  have hcycle : (s.readied r lift var v).cycle = s.cycle := by rw [readied_frame]
  have h : ∃ f, (s.wedge r lift var v).cells = ((s.readied r lift var v).cells.map (fun c =>
      if c.rid = r.rid then (s.readied r lift var v).wedgeCell ⟨r.die, r.x0, r.y0⟩ v (s.readied r lift var v).cycle c else c)).map
        (Cell.retime (s.readied r lift var v).cycle f) := ⟨_, rfl⟩
  rwa [hcells, hcycle] at h

/-- What the wedge changes in a cell beside its blocks and ports: its parity. -/
theorem wedge_keeps (s : State) (r : Region) (lift var : Nat) (v : ImgVar) :
    (s.wedge r lift var v).cells.map (fun (c : Cell) => (c.num, c.rid, c.parity, c.regs.timeless, c.pes)) =
      s.cells.map (fun (c : Cell) => (c.num, c.rid, if c.rid = r.rid then !c.parity else c.parity, c.regs.timeless, c.pes)) := by
  obtain ⟨f, hf⟩ := cells_wedge s r lift var v
  rw [hf, List.map_map, List.map_map]
  refine List.map_congr_left fun c _ => ?_
  simp only [Function.comp, Cell.retime_num, Cell.retime_rid, Cell.retime_parity, Cell.retime_timeless, Cell.retime_pes]
  split_ifs <;> rfl

/-- A cell of the region after the wedge: its blocks are fresh, from the cycle in which the wedge reaches it. -/
theorem wedge_adopts {s : State} {r : Region} {lift var : Nat} {v : ImgVar} {d : Cell} (hd : d ∈ (s.wedge r lift var v).cells) (hrid : d.rid = r.rid) :
    d.adoptAt = s.cycle + d.rx + d.ry ∧ FreshBlocks (if d.rx < v.w ∧ d.ry < v.h then v.cellBlocks d.rx d.ry else []) d.blocks := by
  obtain ⟨f, hf⟩ := cells_wedge s r lift var v
  rw [hf, List.map_map] at hd
  obtain ⟨c, hc, rfl⟩ := List.mem_map.mp hd
  by_cases hcrid : c.rid = r.rid
  · rw [Function.comp, if_pos hcrid]
    exact ⟨rfl, (wedgeCell_fresh (s.readied r lift var v) ⟨r.die, r.x0, r.y0⟩ v s.cycle c).retime s.cycle f⟩
  · rw [Function.comp, if_neg hcrid] at hrid
    exact absurd hrid hcrid

theorem region_wedge {s : State} {rid : Nat} {r : Region} (hr : s.region? rid = some r) (lift var : Nat) (v : ImgVar) :
    ((s.wedge r lift var v).region? rid).map (fun x => (x.lift, x.var, x.liftReq, x.sweepEnd)) = some (lift, var, none, s.cycle + r.w + r.h - 2) := by
  have hrid : r.rid = rid := by simpa using List.find?_some hr
  have hregions : (s.readied r lift var v).region? rid = some r := by rw [readied_frame]; exact hr
  have h : ∃ f : Region → Region, (s.wedge r lift var v).region? rid = ((s.readied r lift var v).updRegion r.rid f).region? rid ∧
      (∀ x, (f x).rid = x.rid) ∧ (f r).lift = lift ∧ (f r).var = var ∧ (f r).liftReq = none ∧ (f r).sweepEnd = s.cycle + r.w + r.h - 2 :=
    ⟨_, rfl, fun _ => rfl, rfl, rfl, rfl, rfl⟩
  obtain ⟨f, hwedge, hf, hlift, hvar, hreq, hend⟩ := h
  rw [hwedge, hrid, region?_updRegion _ _ hf, hregions, Option.map_some, Option.map_some, hlift, hvar, hreq, hend]

theorem liftWedge_wedges {s : State} {rid lift var : Nat} {r : Region} {v : ImgVar} (hr : s.region? rid = some r)
    (htarget : s.liftTarget r = some (lift, var, v)) (hswitch : r.switch = none) (hpower : s.powerFits r v = true)
    (hready : s.wedgeReady r lift var v = true) : exec (.liftWedge rid) s = .next (s.wedge r lift var v) := by
  rw [exec_liftWedge, execLiftWedge]
  simp only [hr, htarget, hswitch, hpower, hready]
  rfl

theorem wedge_memory (s : State) (r : Region) (lift var : Nat) (v : ImgVar) (h : s.mem.bad = []) : SameMemory s (s.wedge r lift var v) :=
  (readied_unmoved s r lift var v (MemSys.sound_of_nil h)).sameMemory

theorem wedge_slots (s : State) (r : Region) (lift var : Nat) (v : ImgVar) (h : v.fold ≤ 4) :
    ∀ c ∈ rectCells r.die r.x0 r.y0 v.w v.h, ((s.wedge r lift var v).slotsOf c.1 r.img lift var).length = v.fold := by
  intro c hc
  have hloaded : (s.wedge r lift var v).loadedIn c.1 = (s.placeVariant r lift var v).loadedIn c.1 := by
    rw [State.loadedIn, State.loadedIn, ← loaded_readied]
    rfl
  rw [slotsOf_congr hloaded]
  exact placeVariant_slots s r lift var v h c hc

end Sys2Proof.Machine
end

section
/-! PROOFS. REGION_GRANT: the variant, the region and the cells that the wave reaches (R86, R88, R104, R106) -/

namespace Sys2Proof.Machine

/-! REGION_GRANT (R86, R88, R104, R106): which variant is granted, and the cells that the wave reaches. -/

theorem bestVar_mem {l : List (Nat × ImgVar)} {x : Nat × ImgVar} (h : bestVar l = some x) : x ∈ l := by
  induction l with
  | nil => exact absurd h (by simp [bestVar])
  | cons a l ih =>
    rw [bestVar] at h
    split at h
    · next b hb =>
      split at h
      · exact List.mem_cons_of_mem _ (ih (hb.trans h))
      · exact List.mem_cons.mpr (.inl (Option.some.inj h).symm)
    · exact List.mem_cons.mpr (.inl (Option.some.inj h).symm)

/-- What a grant names: the image of the launch and one of the variants that it allows. -/
theorem grantFor_names {s : State} {l : Launch} {i : Image} {vn : Nat} {v : ImgVar} {p : Placed} {clusters : List (Nat × Nat)}
    (h : s.grantFor l = some (i, vn, v, p, clusters)) : l.img.bind s.image? = some i ∧ vn ∈ l.vars ∧ v = imageVar i.words l.lift0 vn := by
  unfold State.grantFor at h
  split at h
  · exact absurd h (by simp)
  · next j hj =>
    split at h
    · exact absurd h (by simp)
    · split at h
      · exact absurd h (by simp)
      · next n x hbest =>
        obtain ⟨q, -, hq⟩ := Option.map_eq_some_iff.mp h
        simp only [Prod.mk.injEq] at hq
        obtain ⟨rfl, rfl, rfl, -, -⟩ := hq
        obtain ⟨m, hm, hpair⟩ := List.mem_map.mp (List.mem_of_mem_filter (bestVar_mem hbest))
        obtain ⟨rfl, rfl⟩ := Prod.mk.inj hpair
        exact ⟨hj, hm, rfl⟩

theorem putCells_perm (l cells : List Cell) : (putCells l cells).Perm (cells ++ l) := by
  unfold putCells
  induction cells generalizing l with
  | nil => exact .refl _
  | cons c cells ih =>
    exact (ih _).trans (((insertBy_perm _ c l).append_left cells).trans List.perm_middle)

theorem mem_rectCells {die x0 y0 w h x y : Nat} (hx : x < w) (hy : y < h) : (cellNum die (x0 + x) (y0 + y), x, y) ∈ rectCells die x0 y0 w h := by
  simp only [rectCells, List.mem_flatMap, List.mem_map, List.mem_range]
  exact ⟨y, hy, x, hx, rfl⟩

/-- The state in which the cells of a granted region are built: its variant is placed, its windows have been looked at. -/
def State.dressed (s : State) (ctx : Nat) (i : Image) (lift vn : Nat) (v : ImgVar) (p : Placed) : State :=
  ((rectCells p.die p.x0 p.y0 v.w v.h).foldl (fun s c => s.placeSlots c.1 i.id lift vn v.fold []) s).lookWindows ctx v

/-- A state that differs from another in nothing that a grant reads of it afterwards. -/
structure State.GrantFrame (s t : State) : Prop where
  cycle : t.cycle = s.cycle
  regions : t.regions = s.regions
  bytes : t.mem.bytes = s.mem.bytes
  bad : t.mem.bad = s.mem.bad

theorem openAccount_frame (s : State) (ctx : Nat) : s.GrantFrame (s.openAccount ctx) ∧ (s.openAccount ctx).launches = s.launches := by
  unfold State.openAccount
  split <;> exact ⟨⟨rfl, rfl, rfl, rfl⟩, rfl⟩

/-- Placing the variant and looking at its windows move nothing but slots and memory; where they find room, the variant stands in every cell. -/
theorem dressed_slots (s : State) (ctx : Nat) (i : Image) (lift vn : Nat) (v : ImgVar) (p : Placed) (hfold : v.fold ≤ 4) :
    ∀ c ∈ rectCells p.die p.x0 p.y0 v.w v.h, ((s.dressed ctx i lift vn v p).slotsOf c.1 i.id lift vn).length = v.fold := by
  intro c hc
  obtain ⟨-, hall⟩ := placeSlots_all (fun c : Nat × Nat × Nat => c.1) (fun _ _ => []) i.id lift vn v.fold s (rectCells p.die p.x0 p.y0 v.w v.h)
    fun _ _ _ _ _ => by simpa using hfold
  have hlook := (State.looked_lookWindows
    ((rectCells p.die p.x0 p.y0 v.w v.h).foldl (fun s c => s.placeSlots c.1 i.id lift vn v.fold []) s) ctx v).frame
  rw [← hall c hc, State.dressed, hlook]
  rfl

theorem dressed_frame (s : State) (ctx : Nat) (i : Image) (lift vn : Nat) (v : ImgVar) (p : Placed) :
    s.dressed ctx i lift vn v p = { s with loaded := (s.dressed ctx i lift vn v p).loaded, stamps := (s.dressed ctx i lift vn v p).stamps, mem := (s.dressed ctx i lift vn v p).mem } ∧
      (s.mem.Sound → s.mem.Unmoved (s.dressed ctx i lift vn v p).mem) := by
  have hslots := slotsOnly_foldl (fun c : Nat × Nat × Nat => c.1) (fun _ _ => []) i.id lift vn v.fold (rectCells p.die p.x0 p.y0 v.w v.h) s
  have hlook := State.looked_lookWindows ((rectCells p.die p.x0 p.y0 v.w v.h).foldl (fun s c => s.placeSlots c.1 i.id lift vn v.fold []) s) ctx v
  refine ⟨?_, fun h => ?_⟩
  · unfold State.dressed
    unfold State.SlotsOnly at hslots
    rw [hlook.frame, hslots]
  · have := hlook.unmoved
    rw [hslots.mem] at this
    exact this h

/-- A start of a region leads from one state to another: by way of a state that holds the region, whose slots are then loaded, and in which its cells
are built. -/
structure Starts (s u t : State) (r : Region) (l : Launch) (i : Image) (vn : Nat) (v : ImgVar) (p : Placed) (clusters : List (Nat × Nat)) : Prop where
  bytes_eq : u.mem.bytes = s.mem.bytes
  bad_eq : u.mem.bad = s.mem.bad
  launches_eq : t.launches = s.launches
  regions_eq : t.regions = s.regions ++ [r]
  place : (r.ctx, r.prio, r.die, r.x0, r.y0, r.w, r.h) = (l.ctx, l.prio, p.die, p.x0, p.y0, v.w, v.h)
  runs : (r.lift, r.var, r.clusters) = (l.lift0, vn, clusters)
  lives : r.gone = false
  mem_eq : t.mem = (u.dressed l.ctx i l.lift0 vn v p).mem
  loaded_eq : t.loaded = (u.dressed l.ctx i l.lift0 vn v p).loaded
  cells_eq : ∃ f, t.cells = (putCells u.cells ((rectCells p.die p.x0 p.y0 v.w v.h).map (fun c =>
    (u.dressed l.ctx i l.lift0 vn v p).buildCell p v r.rid l.ctx c.2.1 c.2.2 (s.cycle + 1 + c.2.1 + c.2.2)))).map (Cell.retime s.cycle f)

theorem startRegion_starts (s : State) (l : Launch) (i : Image) (vn : Nat) (v : ImgVar) (p : Placed) (clusters : List (Nat × Nat)) :
    ∃ u r, Starts s u (s.startRegion l i vn v p clusters) r l i vn v p clusters := by
  obtain ⟨hframe, hlaunches⟩ := openAccount_frame s l.ctx
  unfold State.startRegion
  extract_lets s1 rid wave end_ r s2 s3 s4 cells
  have hdressed : s4 = { s2 with loaded := s4.loaded, stamps := s4.stamps, mem := s4.mem } := (dressed_frame s2 l.ctx i l.lift0 vn v p).1
  have hregions : s4.regions = s2.regions := by rw [hdressed]
  have hkept : s4.launches = s2.launches := by rw [hdressed]
  have hcells : s4.cells = s2.cells := by rw [hdressed]
  have hcycle : s4.cycle = s.cycle := by rw [hdressed]; exact hframe.cycle
  have hwave : wave = s.cycle + 1 := congrArg (· + 1) hframe.cycle
  refine ⟨s2, r, hframe.bytes, hframe.bad, hkept.trans hlaunches, hregions.trans (congrArg (· ++ [r]) hframe.regions), rfl, rfl, rfl, rfl, rfl, ?_⟩
  obtain ⟨f, hf⟩ := cells_setDividers { s4 with cells := putCells s4.cells cells, drops := s4.drops.filter (fun x => !cells.any (fun c => c.num == x.1)) }
  refine ⟨f, hf.trans ?_⟩
  simp only [cells, hcells, hcycle, hwave]
  rfl

theorem buildCell_retime (s : State) (p : Placed) (v : ImgVar) (rid ctx x y at0 now : Nat) (f : Nat → Nat × Nat) :
    ((s.buildCell p v rid ctx x y at0).retime now f).num = p.num x y ∧ ((s.buildCell p v rid ctx x y at0).retime now f).rid = rid ∧
      ((s.buildCell p v rid ctx x y at0).retime now f).context = ctx ∧
      (((s.buildCell p v rid ctx x y at0).retime now f).rx, ((s.buildCell p v rid ctx x y at0).retime now f).ry) = (x, y) ∧
      ((s.buildCell p v rid ctx x y at0).retime now f).adoptAt = at0 ∧
      ((s.buildCell p v rid ctx x y at0).retime now f).regs.timeless = RegFiles.fresh.timeless ∧
      FreshBlocks (v.cellBlocks x y) ((s.buildCell p v rid ctx x y at0).retime now f).blocks :=
  ⟨rfl, rfl, rfl, rfl, rfl, Cell.retime_timeless .., FreshBlocks.retime (c := s.buildCell p v rid ctx x y at0) (freshBlocks_build p v (v.cellBlocks x y)) now f⟩

/-- The cell that the wave reaches at a place of the rectangle. -/
theorem Starts.cell {s u t : State} {r : Region} {l : Launch} {i : Image} {vn : Nat} {v : ImgVar} {p : Placed} {clusters : List (Nat × Nat)}
    (h : Starts s u t r l i vn v p clusters) {x y : Nat} (hx : x < v.w) (hy : y < v.h) : ∃ c ∈ t.cells, c.num = p.num x y ∧ c.rid = r.rid ∧ c.context = l.ctx ∧
      (c.rx, c.ry) = (x, y) ∧ c.adoptAt = s.cycle + 1 + x + y ∧ c.regs.timeless = RegFiles.fresh.timeless ∧ FreshBlocks (v.cellBlocks x y) c.blocks ∧
      (v.fold ≤ 4 → (t.slotsOf c.num i.id l.lift0 vn).length = v.fold) := by
  obtain ⟨f, hcells⟩ := h.cells_eq
  have hrect := mem_rectCells (die := p.die) (x0 := p.x0) (y0 := p.y0) hx hy
  have hmem : ((u.dressed l.ctx i l.lift0 vn v p).buildCell p v r.rid l.ctx x y (s.cycle + 1 + x + y)).retime s.cycle f ∈ t.cells := by
    rw [hcells]
    refine List.mem_map.mpr ⟨_, (putCells_perm ..).mem_iff.mpr (List.mem_append_left _ (List.mem_map.mpr ⟨_, hrect, rfl⟩)), rfl⟩
  have hslots : v.fold ≤ 4 → (t.slotsOf (p.num x y) i.id l.lift0 vn).length = v.fold := fun hfold => by
    rw [← dressed_slots u l.ctx i l.lift0 vn v p hfold _ hrect, State.slotsOf, State.slotsOf, h.loaded_eq]
    rfl
  obtain ⟨hnum, hrid, hctx, hplace, hadopt, hregs, hblocks⟩ := buildCell_retime (u.dressed l.ctx i l.lift0 vn v p) p v r.rid l.ctx x y (s.cycle + 1 + x + y) s.cycle f
  exact ⟨_, hmem, hnum, hrid, hctx, hplace, hadopt, hregs, hblocks, hnum ▸ hslots⟩

theorem Starts.bytes {s u t : State} {r : Region} {l : Launch} {i : Image} {vn : Nat} {v : ImgVar} {p : Placed} {clusters : List (Nat × Nat)}
    (h : Starts s u t r l i vn v p clusters) (hbad : s.mem.bad = []) : t.mem.bytes = s.mem.bytes := by
  have hsound : u.mem.Sound := MemSys.sound_of_nil (h.bad_eq.trans hbad)
  rw [h.mem_eq, ((dressed_frame u l.ctx i l.lift0 vn v p).2 hsound).bytes, h.bytes_eq]

/-- The state in which a granted launch starts: its context has state, it waits no longer. -/
def State.granting (s : State) (k : Nat) (l : Launch) : State :=
  let s := (if s.hasState l.ctx then s else s.retireContext l.ctx).wakeUp
  { s with launches := s.launches.eraseIdx k }

theorem granting_frame (s : State) (k : Nat) (l : Launch) : s.GrantFrame (s.granting k l) := by
  unfold State.granting
  split <;> exact ⟨rfl, rfl, rfl, rfl⟩

theorem launches_granting (s : State) (k : Nat) (l : Launch) : (s.granting k l).launches.map (fun (m : Launch) => { m with judged := false }) =
    (s.launches.eraseIdx k).map (fun (m : Launch) => { m with judged := false }) := by
  unfold State.granting
  split
  · rfl
  · change ((s.launches.map _).eraseIdx k).map _ = _
    rw [List.eraseIdx_map, List.map_map]
    rfl

theorem groupClash_congr {s t : State} (h : t.regions = s.regions) (ctx : Nat) (v : ImgVar) (but : Option Nat) : t.groupClash ctx v but = s.groupClash ctx v but := by
  unfold State.groupClash State.live
  rw [h]

theorem regionGrant_starts {s : State} {k : Nat} {l : Launch} {i : Image} {vn : Nat} {v : ImgVar} {p : Placed} {clusters : List (Nat × Nat)}
    (hl : s.launches[k]? = some l) (hth : s.thermal = false) (hfirst : ∀ m ∈ s.launches.take k, s.grantFor m = none)
    (hgrant : s.grantFor l = some (i, vn, v, p, clusters)) (hclash : s.groupClash l.ctx v none = false) :
    exec (.regionGrant k) s = .next ((s.granting k l).startRegion l i vn v p clusters) := by
  have hnone : (s.launches.take k).any (fun m => (s.grantFor m).isSome) = false := List.any_eq_false.mpr fun m hm => by simp [hfirst m hm]
  have hclash' : (s.granting k l).groupClash l.ctx v none = false := by rw [groupClash_congr (granting_frame s k l).regions, hclash]
  rw [exec_regionGrant, execRegionGrant]
  simp only [hl, hth, hnone, hgrant]
  change (if (s.granting k l).groupClash l.ctx v none = true then _ else _) = _
  rw [if_neg (by simp [hclash'])]
  rfl

theorem regionGrant_grants {s : State} {k : Nat} {l : Launch} {i : Image} {vn : Nat} {v : ImgVar} {p : Placed} {clusters : List (Nat × Nat)}
    (hl : s.launches[k]? = some l) (hth : s.thermal = false) (hfirst : ∀ m ∈ s.launches.take k, s.grantFor m = none)
    (hgrant : s.grantFor l = some (i, vn, v, p, clusters)) (hclash : s.groupClash l.ctx v none = false) : ∃ t r, exec (.regionGrant k) s = .next t ∧
      t.launches.map (fun (m : Launch) => { m with judged := false }) = (s.launches.eraseIdx k).map (fun (m : Launch) => { m with judged := false }) ∧
      l.img.bind s.image? = some i ∧ vn ∈ l.vars ∧ v = imageVar i.words l.lift0 vn ∧ t.regions = s.regions ++ [r] ∧ (r.ctx, r.prio, r.die, r.x0, r.y0, r.w, r.h) = (l.ctx, l.prio, p.die, p.x0, p.y0, v.w, v.h) ∧
      (r.lift, r.var, r.clusters) = (l.lift0, vn, clusters) ∧ r.gone = false ∧ (s.mem.bad = [] → t.mem.bytes = s.mem.bytes) ∧
      ∀ x < v.w, ∀ y < v.h, ∃ c ∈ t.cells, c.num = p.num x y ∧ c.rid = r.rid ∧ c.context = l.ctx ∧ (c.rx, c.ry) = (x, y) ∧
        c.adoptAt = s.cycle + 1 + x + y ∧ c.regs.timeless = RegFiles.fresh.timeless ∧ FreshBlocks (v.cellBlocks x y) c.blocks ∧
        (v.fold ≤ 4 → (t.slotsOf c.num i.id l.lift0 vn).length = v.fold) := by
  obtain ⟨himg, hvar, hv⟩ := grantFor_names hgrant
  have hframe := granting_frame s k l
  obtain ⟨u, r, hstart⟩ := startRegion_starts (s.granting k l) l i vn v p clusters
  refine ⟨_, r, regionGrant_starts hl hth hfirst hgrant hclash, ?_, himg, hvar, hv, ?_, hstart.place, hstart.runs, hstart.lives, fun hbad => ?_,
    fun x hx y hy => ?_⟩
  · rw [hstart.launches_eq, launches_granting]
  · rw [hstart.regions_eq, hframe.regions]
  · rw [hstart.bytes (hframe.bad.trans hbad), hframe.bytes]
  · obtain ⟨c, hc, hcell⟩ := hstart.cell hx hy
    rw [hframe.cycle] at hcell
    exact ⟨c, hc, hcell⟩

end Sys2Proof.Machine
end

section
/-! PROOFS. O49: the steps of a launch (R83, R86, R88, R89, R104, R130, R132, R354, R355) -/

namespace Sys2Proof
open Sys2Proof.Machine

/-- Settles O49: each step of a launch by the lemma about it, from LAUNCH_DISPATCH to CONTEXT_RETIRE. -/
theorem launchSteps : Obligations.LaunchSteps := by
  unfold Obligations.LaunchSteps
  refine ⟨?dispatch, ?grant, ?seed, ?preloadRegion, ?preloadLaunch, ?drained, ?wedge, ?retire⟩
  case dispatch =>
    intro s s2 l rest i fits seeded hth hready hq hbad hctx hjudged hload hlift hfits hseeded hne hfree
    exact launchDispatch_waits hth hready hq hbad hctx hjudged hload hlift hfits hseeded hne hfree
  case grant =>
    intro s k l i vn v p clusters hl hth hfirst hgrant hclash
    exact regionGrant_grants hl hth hfirst hgrant hclash
  case seed =>
    intro s rid r x rest b hr hfrom hgoes hth hseeds hb hfed hroom hchan
    exact seedInject_put hr hfrom hgoes hth hseeds hb hfed hroom hchan
  case preloadRegion =>
    intro s rid lift var r i v hr hi hgone hlift hvar hv hroom
    exact preload_region hr hi hgone hlift hvar hv hroom
  case preloadLaunch =>
    intro s order lift var l i v hr hl hi hlift hvar hv
    exact preload_launch hr hl hi hlift hvar hv
  case drained =>
    intro s rid r hr hsettled hgoes hth
    exact ⟨drainedReport_records hr hsettled hgoes hth, drainedReport_ends hr hsettled hgoes hth⟩
  case wedge =>
    intro s rid r lift var v hr htarget hswitch hpower hready
    obtain rfl : r.rid = rid := by simpa using List.find?_some hr
    exact ⟨s.wedge r lift var v, liftWedge_wedges hr htarget hswitch hpower hready, region_wedge hr lift var v, wedge_memory s r lift var v,
      wedge_keeps s r lift var v, fun d hd hrid => wedge_adopts hd hrid, wedge_slots s r lift var v⟩
  case retire =>
    intro s ctx h
    exact contextRetire_retires h

end Sys2Proof
end

section
/-! PROOFS. Firings: what their start and their end do to the cell (R120 to R122) -/

namespace Sys2Proof.Machine

/-! Blocks and counters of a cell after an update. -/

/-- The block of a context after an update that keeps blocks of this context in it. -/
theorem Cell.block?_updBlock_self (c : Cell) (k : Nat) (f : Block → Block) (hf : ∀ b, b.ctx = k → (f b).ctx = k) :
    (c.updBlock k f).block? k = (c.block? k).map f := by
  have hp : ((fun b => b.ctx == k) ∘ fun b => if (b.ctx == k) = true then f b else b) = fun (b : Block) => b.ctx == k := by
    funext b
    by_cases hb : b.ctx = k <;> simp [hb, hf]
  simp only [Cell.updBlock, Cell.block?, List.find?_map, hp]
  cases h : c.blocks.find? (fun b => b.ctx == k) with
  | none => rfl
  | some b => simp [Cell.block?_ctx c k b h]

theorem Cell.counter_count_self (c : Cell) (n : Nat) (v : Word) : (c.count n v).counter n = c.counter n + v := by
  have hp : ((fun x : Nat × Word => x.1 == n) ∘ fun x : Nat × Word => if (x.1 == n) = true then (x.1, x.2 + v) else x) = fun x => x.1 == n := by
    funext x; simp only [Function.comp]; split <;> rfl
  unfold Cell.count
  split
  · next hany =>
    obtain ⟨x, hx⟩ := Option.isSome_iff_exists.mp (List.find?_isSome.mpr (List.any_eq_true.mp hany))
    have hn : x.1 = n := by simpa using List.find?_some hx
    simp only [Cell.counter, List.find?_map, hp, hx, Option.map_some]
    simp [hn]
  · next hany =>
    have hx : c.counters.find? (fun x => x.1 == n) = none := List.find?_eq_none.mpr fun x hx h => hany (List.any_eq_true.mpr ⟨x, hx, h⟩)
    simp [Cell.counter, List.find?_append, hx]

/-! FIRING_START (R120). -/

/-- A cell in which the firing of a context's block has begun. -/
def Cell.startFiring (ctx until_ : Nat) (c : Cell) : Cell :=
  { (c.updBlock ctx Block.begin) with cur := some ctx, last := some ctx, switchUntil := until_ }

theorem Cell.startFiring_block? (c : Cell) (ctx until_ : Nat) : (c.startFiring ctx until_).block? ctx = (c.block? ctx).map Block.begin :=
  c.block?_updBlock_self ctx Block.begin fun _ h => h

theorem Block.begin_pointers (b : Block) : b.begin.ins.map (fun x => (x.pp, x.cp)) = b.ins.map (fun x => (x.pp, x.cp)) := by
  simp only [Block.begin, List.map_map]
  rfl

theorem firingStart_starts {s : State} {cell ctx : Nat} {c : Cell} (hc : s.cell? cell = some c) (hregion : s.regionBegins c.rid = true)
    (hbench : s.benchActs c = true) (hadopt : c.adoptAt ≤ s.cycle) (hswitch : c.switchUntil ≤ s.cycle) (hnext : s.nextToFire c = some ctx) :
    exec (.firingStart cell ctx) s = .next (s.updCell cell (Cell.startFiring ctx (if c.cur = some ctx then c.switchUntil else s.cycle + 2))) := by
  rw [exec_firingStart, execFiringStart]
  simp only [hc, hregion, hbench, hadopt, hswitch, hnext]
  rfl

/-! FIRING_END (R121, R122). -/

/-- A state that differs from another in memory and in the pointer updates on their way alone. -/
def OnlyMemoryAndPointers (s t : State) : Prop := ∃ mem msgs, t = { s with mem := mem, chanMsgs := msgs }

theorem OnlyMemoryAndPointers.refl (s : State) : OnlyMemoryAndPointers s s := ⟨_, _, rfl⟩

theorem OnlyMemoryAndPointers.trans {s t u : State} (h : OnlyMemoryAndPointers s t) (h' : OnlyMemoryAndPointers t u) : OnlyMemoryAndPointers s u := by
  obtain ⟨_, _, rfl⟩ := h
  obtain ⟨_, _, rfl⟩ := h'
  exact ⟨_, _, rfl⟩

theorem onlyMemoryAndPointers_foldl {α : Type} {f : State → α → State} (hf : ∀ s x, OnlyMemoryAndPointers s (f s x)) (l : List α) (s : State) :
    OnlyMemoryAndPointers s (l.foldl f s) :=
  List.foldlRecOn (motive := OnlyMemoryAndPointers s) l f (.refl s) fun t ht x _ => ht.trans (hf t x)

theorem onlyMemoryAndPointers_applyRuns (s : State) (b : Block) : OnlyMemoryAndPointers s (s.applyRuns b) := by
  refine onlyMemoryAndPointers_foldl (fun s sl => ?_) b.slots s
  cases sl.run with
  | none => exact .refl s
  | some r => exact ⟨_, _, rfl⟩

theorem onlyMemoryAndPointers_sendCp (s : State) (c : InChan) (d : Nat) : OnlyMemoryAndPointers s (s.sendCp c d) := by
  unfold State.sendCp
  split
  · exact ⟨_, _, rfl⟩
  · exact .refl s

theorem onlyMemoryAndPointers_sendPp (s : State) (c : OutChan) (d : Nat) : OnlyMemoryAndPointers s (s.sendPp c d) := by
  unfold State.sendPp
  split
  · exact ⟨_, _, rfl⟩
  · exact .refl s

/-- The pointers that a firing's end has moved are sent to the other ends of their channels. -/
theorem onlyMemoryAndPointers_sendMoved (s : State) (b b' : Block) (d : Nat) : OnlyMemoryAndPointers s
    ((b.outs.zip b'.outs).foldl (fun s x => if x.1.pp = x.2.pp then s else s.sendPp x.2 d)
      ((b.ins.zip b'.ins).foldl (fun s x => if x.1.cp = x.2.cp then s else s.sendCp x.2 d) s)) := by
  refine (onlyMemoryAndPointers_foldl (fun s x => ?_) _ s).trans (onlyMemoryAndPointers_foldl (fun s x => ?_) _ _)
  · split_ifs
    · exact .refl s
    · exact onlyMemoryAndPointers_sendCp s _ _
  · split_ifs
    · exact .refl s
    · exact onlyMemoryAndPointers_sendPp s _ _

/-- A cell in which the firing of a context's block, which stood as `b`, has ended. -/
def Cell.endFiring (cell ctx : Nat) (b : Block) (c : Cell) : Cell :=
  ({ c.updBlock ctx (fun _ => b.finish cell) with pes := c.pes.map Pe.swapStored }.count 0 1).count 2 (BitVec.ofNat 32 b.leftTokens)

@[simp] theorem Cell.endFiring_num (c : Cell) (cell ctx : Nat) (b : Block) : (c.endFiring cell ctx b).num = c.num := by simp [Cell.endFiring]

@[simp] theorem Cell.endFiring_regs (c : Cell) (cell ctx : Nat) (b : Block) : (c.endFiring cell ctx b).regs = c.regs := by
  simp only [Cell.endFiring, Cell.count_regs]
  rfl

theorem Cell.endFiring_counter_zero (c : Cell) (cell ctx : Nat) (b : Block) : (c.endFiring cell ctx b).counter 0 = c.counter 0 + 1 := by
  rw [Cell.endFiring, Cell.counter_count_other _ _ (by decide), Cell.counter_count_self]
  rfl

theorem Cell.endFiring_block? {c : Cell} {ctx : Nat} {b : Block} (hb : c.block? ctx = some b) (cell : Nat) :
    (c.endFiring cell ctx b).block? ctx = some (b.finish cell) := by
  have hctx : (b.finish cell).ctx = ctx := c.block?_ctx ctx b hb
  rw [Cell.endFiring, Cell.block?_count, Cell.block?_count]
  exact (c.block?_updBlock_self ctx _ fun _ _ => hctx).trans (by rw [hb]; rfl)

theorem firingEnd_ends {s : State} {cell ctx : Nat} {c : Cell} {b : Block} (hc : s.cell? cell = some c) (hb : c.block? ctx = some b)
    (hregion : s.regionGoes c.rid = true) (hbench : s.benchActs c = true) (hcur : c.cur = some ctx) (hends : s.ends c b = true) :
    ∃ t, exec (.firingEnd cell ctx) s = .next t ∧ t.flight = s.flight ∧ t.cell? cell = some (c.endFiring cell ctx b) := by
  obtain ⟨_, _, hruns⟩ := onlyMemoryAndPointers_applyRuns s b
  obtain ⟨_, _, hsent⟩ := onlyMemoryAndPointers_sendMoved ((s.applyRuns b).updCell cell (Cell.endFiring cell ctx b)) b (b.finish cell) c.divider
  refine ⟨_, ?_, congrArg State.flight hsent |>.trans ?_, congrArg (fun t => t.cell? cell) hsent |>.trans ?_⟩
  · rw [exec_firingEnd, execFiringEnd]
    simp only [hc, hb, hregion, hbench, hcur, hends]
    rfl
  · rw [hruns]
    rfl
  · change ((s.applyRuns b).updCell cell (Cell.endFiring cell ctx b)).cell? cell = _
    rw [State.cell?_updCell_self _ _ _ (fun c => c.endFiring_num cell ctx b), hruns]
    change (s.cell? cell).map _ = _
    rw [hc]
    rfl

/-! The block after its firing (R121). -/

theorem Block.finish_cp (b : Block) (cell : Nat) {k : Nat} {x : InChan} (hx : b.ins[k]? = some x) :
    ((b.finish cell).ins[k]?).map (fun y => y.cp) = some (if x.advanced then x.cp else x.cp + BitVec.ofNat 32 (b.rates.getD k 0)) := by
  simp only [Block.finish, List.getElem?_mapIdx, hx, Option.map_some, InChan.close]
  split <;> rfl

theorem Block.finish_pp (b : Block) (cell : Nat) {k : Nat} {x : OutChan} (hx : b.outs[k]? = some x) :
    ((b.finish cell).outs[k]?).map (fun y => y.pp) = some (if x.advanced then x.pp else x.pp + BitVec.ofNat 32 x.w) := by
  simp only [Block.finish, List.getElem?_map, hx, Option.map_some, OutChan.close]

theorem Block.finish_toks (b : Block) (cell : Nat) : ∀ sl ∈ (b.finish cell).slots, sl.l.toks = [] ∧ sl.r.toks = [] ∧ sl.p.toks = [] ∧ sl.a.toks = [] := by
  intro sl hsl
  obtain ⟨sl', -, rfl⟩ := List.mem_map.mp hsl
  exact ⟨rfl, rfl, rfl, rfl⟩

end Sys2Proof.Machine
end

section
/-! PROOFS. Arrivals of tokens and spalls, and age counters (R123, R125, R133, R154, R205, R209) -/

namespace Sys2Proof.Machine

/-! Faults raised at a site. -/

theorem faultAt_eq_raise (s : State) (t : Site) (code sub : Nat) (held : Bool) (addr aux : DWord) (stamp : Option Nat) (c : Cell)
    (h : s.cell? t.cell = some c) : s.faultAt t code sub held addr aux stamp = s.raise
      { cell := some t.cell, ctx := c.context, rid := some c.rid, code := code, sub := sub, held := held, parked := false, origin := s.origin t,
        addr := addr, aux := aux, fire := s.fireNo t, stamp := stamp } := by
  simp only [State.faultAt, h]

theorem sameChannels_raise (s : State) (f : FaultRec) : SameChannels s (s.raise f) := by
  obtain ⟨stop, -, hcells⟩ := raise_record s f
  rw [SameChannels, hcells]
  cases f.cell with
  | none => rfl
  | some n => exact s.cells_map_updCell n _ Cell.channels fun _ => rfl

/-- A stale token raises its fault at its target, and leaves channels, memory and the other tokens on their way (R133, R330). -/
theorem staleToken_taken {s : State} {f : Flight} {c : Cell} (hc : s.cell? f.site.cell = some c) :
    (s.staleToken f).flight = s.flight ∧ SameChannels s (s.staleToken f) ∧ SameMemory s (s.staleToken f) ∧
      FaultTaken s (s.staleToken f) s.stamps f.site.cell 8 0 false (originSpec f.site (s.fireNo f.site)) 0
        (BitVec.ofNat 64 (f.site.index % 64 + f.field.code * 64 + f.parity.toNat * 256)) (s.fireNo f.site) := by
  rw [State.staleToken, faultAt_eq_raise _ _ _ _ _ _ _ _ c hc, ← originOf_spec]
  obtain ⟨-, hframe, -⟩ := raise_record s _
  exact ⟨hframe.flight, sameChannels_raise s _, hframe.sameMemory, faultTaken_raise s _ _ rfl rfl⟩

/-! TOKEN_ARRIVE (R19, R123, R133, R348). -/

/-- A token in the entry that was reserved for it; where FEND has closed the firing the entry is freed and the token discarded. -/
def FieldQ.enter (closed : Bool) (tok : Tok) (q : FieldQ) : FieldQ := { q with resv := q.resv - 1, toks := if closed then q.toks else q.toks ++ [tok] }

/-- The block that a token reaches, with the token in its FIFO. -/
def Block.enter (f : Flight) (b : Block) : Block :=
  b.updSlot f.site.index (fun sl => sl.updField f.field (FieldQ.enter b.fend.isSome f.tok))

theorem Block.enter_toks {b : Block} {f : Flight} (h : f.site.index < b.slots.length) :
    (((b.enter f).slot f.site.index).field f.field).toks = ((b.slot f.site.index).field f.field).toks ++ (if b.fend.isSome then [] else [f.tok]) := by
  rw [Block.enter, Block.slot_updSlot _ _ _ _ h, if_pos rfl, Slot.field_updField, if_pos rfl, FieldQ.enter]
  split <;> simp

/-- An arrival changes nothing of a cell but the time of its last arrival. -/
theorem cells_map_arrived {β : Type} (s : State) (cell : Nat) (P : Cell → β) (hP : ∀ c : Cell, P { c with arrivedAt := s.cycle } = P c) :
    (s.arrived cell).cells.map P = s.cells.map P :=
  s.cells_map_updCell cell (fun c => { c with arrivedAt := s.cycle }) P hP

theorem sameCells_updBlock_arrived (s : State) (t : Site) (g : Block → Block) (cell : Nat) : SameCells s ((s.updBlock t g).arrived cell) :=
  (cells_map_arrived _ cell Cell.held fun _ => rfl).trans (s.cells_map_updCell t.cell _ Cell.held fun _ => rfl)

theorem sameChannels_updBlock_arrived (s : State) (t : Site) (g : Block → Block) (hg : ∀ b, ((g b).ins, (g b).outs) = (b.ins, b.outs)) (cell : Nat) :
    SameChannels s ((s.updBlock t g).arrived cell) :=
  (cells_map_arrived _ cell Cell.channels fun _ => rfl).trans (s.cells_map_updCell t.cell _ Cell.channels fun c => c.updBlock_channels t.ctx g hg)

theorem arrived_bench_runs (s : State) (cell : Nat) : ∀ x ∈ (s.arrived cell).benches, x.num = benchOf cell → x.stopped = false := by
  intro x hx hn
  obtain ⟨y, -, rfl⟩ := List.mem_map.mp hx
  split_ifs at hn ⊢ with h
  · rfl
  · exact absurd hn h

/-- The state after a token has left the fabric. -/
def State.landed (s : State) (k : Nat) : State := { s with flight := s.flight.eraseIdx k }

section TokenArrive
variable {s : State} {k : Nat} {f : Flight} {c : Cell} (hf : s.flight[k]? = some f) (hlands : s.lands f.site.cell f.due = true)
  (hfirst : s.overtaken k f = false) (hc : s.cell? f.site.cell = some c)
include hf hlands hfirst hc

/-- What the k-th token on its way does once it lands, by its parity and by whether the wedge has passed its cell. -/
theorem tokenArrive_eq : exec (.tokenArrive k) s =
    if f.parity = c.parityAt s.cycle then
      .next ((if c.adoptAt ≤ s.cycle then (s.landed k).updBlock f.site (Block.enter f) else s.landed k).arrived f.site.cell)
    else if s.cycle < c.adoptAt then .next s else .next ((s.landed k).staleToken f) := by
  rw [exec_tokenArrive, execTokenArrive]
  simp only [hf, hlands, hfirst, hc]
  rw [if_neg (by simp)]
  by_cases hparity : f.parity = c.parityAt s.cycle
  · rw [if_pos (beq_iff_eq.mpr hparity), if_pos hparity]
    simp only [decide_eq_true_eq]
    rfl
  · rw [if_neg (mt beq_iff_eq.mp hparity), if_neg hparity]
    simp only [Bool.not_eq_true', decide_eq_false_iff_not, Nat.not_le]
    rfl

theorem tokenArrive_enters {b : Block} (hadopt : c.adoptAt ≤ s.cycle) (hparity : f.parity = c.parity) (hb : s.block? f.site = some b)
    (hi : f.site.index < b.slots.length) : ∃ t, exec (.tokenArrive k) s = .next t ∧ t.flight = s.flight.eraseIdx k ∧ SameCells s t ∧ SameChannels s t ∧
      SameMemory s t ∧ (∀ x ∈ t.benches, x.num = benchOf f.site.cell → x.stopped = false) ∧
      ((t.slot f.site).field f.field).toks = ((s.slot f.site).field f.field).toks ++ (if b.fend.isSome then [] else [f.tok]) := by
  refine ⟨((s.landed k).updBlock f.site (Block.enter f)).arrived f.site.cell, ?_, rfl, sameCells_updBlock_arrived (s.landed k) _ _ _,
    sameChannels_updBlock_arrived (s.landed k) _ (Block.enter f) (fun _ => rfl) _, sameMemory_of_eq rfl, arrived_bench_runs _ _, ?_⟩
  · rw [tokenArrive_eq hf hlands hfirst hc, Cell.parityAt, if_pos hadopt, if_pos hparity, if_pos hadopt]
  · have hblock : (((s.landed k).updBlock f.site (Block.enter f)).arrived f.site.cell).block? f.site = some (b.enter f) := by
      rw [block?_arrived, State.block?_updBlock_self _ _ _ (fun _ => by rfl)]
      exact congrArg (Option.map (Block.enter f)) hb
    simp only [State.slot, hblock, hb]
    exact Block.enter_toks hi

theorem tokenArrive_stale (hadopt : c.adoptAt ≤ s.cycle) (hparity : f.parity ≠ c.parity) : ∃ t, exec (.tokenArrive k) s = .next t ∧
    t.flight = s.flight.eraseIdx k ∧ SameChannels s t ∧ SameMemory s t ∧
    FaultTaken s t s.stamps f.site.cell 8 0 false (originSpec f.site (s.fireNo f.site)) 0
      (BitVec.ofNat 64 (f.site.index % 64 + f.field.code * 64 + f.parity.toNat * 256)) (s.fireNo f.site) := by
  refine ⟨(s.landed k).staleToken f, ?_, staleToken_taken (s := s.landed k) hc⟩
  rw [tokenArrive_eq hf hlands hfirst hc, Cell.parityAt, if_pos hadopt, if_neg hparity, if_neg (Nat.not_lt.mpr hadopt)]

theorem tokenArrive_waits (hadopt : s.cycle < c.adoptAt) (hparity : f.parity = c.parity) : exec (.tokenArrive k) s = .next s := by
  rw [tokenArrive_eq hf hlands hfirst hc, Cell.parityAt, if_neg (Nat.not_le.mpr hadopt), hparity, if_neg (by simp), if_pos hadopt]

end TokenArrive

/-! SPALL_ARRIVE (R205, R209). -/

/-- A slot that is not there reads as empty; an update that keeps the empty slot is seen at every site. -/
theorem State.slot_updSlot_of_empty (s : State) (t : Site) {f : Slot → Slot} (hf : f .empty = .empty) : (s.updSlot t f).slot t = f (s.slot t) := by
  cases hb : s.block? t with
  | none => simp only [State.slot, State.block?_updSlot_self, hb, Option.map_none, hf]
  | some b =>
    by_cases hi : t.index < b.slots.length
    · exact s.slot_updSlot_self t f hb hi
    · have hslot : b.slot t.index = .empty := by rw [Block.slot, List.getD_eq_default _ _ (by omega)]
      have hslot' : (b.updSlot t.index f).slot t.index = .empty := by rw [Block.slot, List.getD_eq_default _ _ (by simpa using hi)]
      simp only [State.slot, State.block?_updSlot_self, hb, Option.map_some, hslot, hslot', hf]

theorem maskAt_addMask {α : Type} [DecidableEq α] (l : List (α × BitVec 128)) (k e : α) (m : BitVec 128) :
    maskAt (addMask l k m) e = if e = k then maskAt l e ||| m else maskAt l e := by
  induction l with
  | nil => by_cases h : e = k <;> simp [addMask, maskAt, h, eq_comm]
  | cons x l ih =>
    obtain ⟨y, n⟩ := x
    by_cases hy : y = e
    · subst hy
      by_cases hk : y = k <;> simp [addMask, maskAt, hk]
    · have hskip : ∀ (n : BitVec 128) l, maskAt ((y, n) :: l) e = maskAt l e := fun n l => by simp [maskAt, hy]
      rw [addMask]
      split_ifs with hk h h
      · exact absurd (hk.trans h.symm) hy
      · rw [hskip, hskip]
      · rw [hskip, hskip, ih, if_pos h]
      · rw [hskip, hskip, ih, if_neg h]

/-- Spalls noted at the number that they name (R209). -/
def Made.note (sp : SpallMsg) (m : Made) : Made := if m.id = sp.dest.id then { m with got := addMask m.got sp.dest.edge sp.mask } else m

theorem Made.note_notes (sp : SpallMsg) (m : Made) : { m.note sp with got := m.got } = m ∧ (m.id ≠ sp.dest.id → m.note sp = m) ∧
    (m.id = sp.dest.id → ∀ e, maskAt (m.note sp).got e = if e = sp.dest.edge then maskAt m.got e ||| sp.mask else maskAt m.got e) := by
  refine ⟨?_, fun h => if_neg h, fun h e => ?_⟩
  · unfold Made.note
    split <;> rfl
  · rw [Made.note, if_pos h]
    exact maskAt_addMask m.got sp.dest.edge e sp.mask

theorem spallArrive_notes {s : State} {k : Nat} {sp : SpallMsg} (hsp : s.spalls[k]? = some sp) (hlands : s.lands sp.dest.site.cell sp.due = true) :
    ∃ t, exec (.spallArrive k) s = .next t ∧ t.spalls = s.spalls.eraseIdx k ∧ t.flight = s.flight ∧ Quiet s t ∧
      (t.slot sp.dest.site).made = (s.slot sp.dest.site).made.map (Made.note sp) := by
  refine ⟨{ s with spalls := s.spalls.eraseIdx k }.updSlot sp.dest.site (fun sl => { sl with made := sl.made.map (Made.note sp) }), ?_, rfl, rfl,
    quiet_updSlot (quiet_refl s) _ _, ?_⟩
  · rw [exec_spallArrive, execSpallArrive]
    simp only [hsp, hlands]
    rfl
  · rw [State.slot_updSlot_of_empty _ _ rfl]
    rfl

/-- A lane that every consumer of a number has spalled is spalled (R205). -/
theorem Made.inMask_spalled (m : Made) {k : Nat} (hk : k < 128) : inMask m.spalled k = true ↔ ∀ e ∈ m.edges, inMask (maskAt m.got e) k = true := by
  have hfold : ∀ (l : List Edge) (a : BitVec 128), inMask (l.foldl (fun a e => a &&& maskAt m.got e) a) k = true ↔
      inMask a k = true ∧ ∀ e ∈ l, inMask (maskAt m.got e) k = true := by
    intro l
    induction l with
    | nil => simp
    | cons e l ih =>
      intro a
      rw [List.foldl_cons, ih]
      simp [inMask, and_assoc]
  have hall : inMask (BitVec.allOnes 128) k = true := by rw [inMask, BitVec.getLsbD_allOnes, decide_eq_true hk]
  rw [Made.spalled, hfold]
  exact and_iff_right hall

/-! AGE_COUNTER_EXPIRY (R125). -/

theorem ageCounterExpiry_marks {s : State} {cell pe slot ctx : Nat} {c : Cell} {b : Block} (hc : s.cell? cell = some c) (hcur : c.cur = some ctx)
    (hb : c.block? ctx = some b) (hi : 4 * pe + slot < b.slots.length) (hage : 1024 ≤ (s.slot ⟨cell, ctx, 4 * pe + slot⟩).age)
    (haged : (s.slot ⟨cell, ctx, 4 * pe + slot⟩).aged = none) :
    ∃ t, exec (.ageCounterExpiry cell pe slot) s = .next t ∧ Quiet s t ∧ t.flight = s.flight ∧
      t.slot ⟨cell, ctx, 4 * pe + slot⟩ = { s.slot ⟨cell, ctx, 4 * pe + slot⟩ with aged := some s.cycle } := by
  have hblock : s.block? ⟨cell, ctx, 4 * pe + slot⟩ = some b := by rw [State.block?, hc]; exact hb
  refine ⟨s.updSlot ⟨cell, ctx, 4 * pe + slot⟩ (fun sl => if 1024 ≤ sl.age ∧ sl.aged = none then { sl with aged := some s.cycle } else sl), ?_,
    quiet_updSlot (quiet_refl s) _ _, rfl, (s.slot_updSlot_self _ _ hblock hi).trans (if_pos ⟨hage, haged⟩)⟩
  rw [exec_ageCounterExpiry, execAgeCounterExpiry]
  simp only [hc, hcur]

end Sys2Proof.Machine
end

section
/-! PROOFS. O48: the steps of a firing, of tokens and of a quiet bench (R105, R120, R121, R123, R125, R132, R133, R154, R205, R209) -/

namespace Sys2Proof
open Sys2Proof.Machine

/-- Settles O48: each step by the lemma about it, from FIRING_START to BENCH_CLOCK_STOP. -/
theorem firingSteps : Obligations.FiringSteps := by
  unfold Obligations.FiringSteps
  refine ⟨?start, ?finish, ?token, ⟨?spall, ?spalled⟩, ?age, ?bench⟩
  case start =>
    intro s cell ctx c b hc hb hregion hbench hadopt hswitch hnext
    obtain ⟨-, -, hmemory, hdevice⟩ := quiet_refl s
    refine ⟨_, c.startFiring ctx _, b.begin, firingStart_starts hc hregion hbench hadopt hswitch hnext, hmemory, hdevice, rfl, ?_, rfl, rfl, rfl, rfl, ?_,
      rfl, rfl, b.begin_pointers⟩
    · rw [State.cell?_updCell_self _ _ _ (fun _ => by rfl), hc]
      rfl
    · rw [Cell.startFiring_block?, hb]
      rfl
  case finish =>
    intro s cell ctx c b hc hb hregion hbench hcur hends
    obtain ⟨t, hexec, hflight, hcell⟩ := firingEnd_ends hc hb hregion hbench hcur hends
    exact ⟨t, _, b.finish cell, hexec, hflight, hcell, c.endFiring_regs cell ctx b, c.endFiring_counter_zero cell ctx b, Cell.endFiring_block? hb cell,
      rfl, rfl, rfl, fun _ _ => b.finish_cp cell, fun _ _ => b.finish_pp cell, b.finish_toks cell⟩
  case token =>
    intro s k f c b hf hlands hfirst hc
    exact ⟨tokenArrive_enters hf hlands hfirst hc, tokenArrive_stale hf hlands hfirst hc, tokenArrive_waits hf hlands hfirst hc⟩
  case spall =>
    intro s k sp hsp hlands
    obtain ⟨t, hexec, hspalls, hflight, hquiet, hmade⟩ := spallArrive_notes hsp hlands
    refine ⟨t, hexec, hspalls, hflight, hquiet, by rw [hmade, List.length_map], fun n m hm => ⟨m.note sp, ?_, m.note_notes sp⟩⟩
    rw [hmade, List.getElem?_map, hm]
    rfl
  case spalled =>
    intro m k hk
    exact m.inMask_spalled hk
  case age =>
    intro s cell pe slot c ctx b hc hcur hb hi hage haged
    exact ageCounterExpiry_marks hc hcur hb hi hage haged
  case bench =>
    intro s n h
    rw [exec_benchClockStop, execBenchClockStop, if_neg (by simp [h])]
    rfl

end Sys2Proof
end

section
/-! PROOFS. Issue of a control instruction: where nothing happens, and what an update of its slot or its block leaves (R124 to R126) -/

namespace Sys2Proof.Machine

/-! An instruction that does not issue. -/

/-- An instruction that accesses no register bank starts no wake and waits for none (R126). -/
theorem wakeFor_of_go {s : State} {i : Instr} (t : Site) (h : ∀ c, bankNeed c s.cycle i = .go) : s.wakeFor t i = s := by
  unfold State.wakeFor
  cases s.cell? t.cell with
  | none => rfl
  | some c =>
    cases hb : c.block? t.ctx with
    | none => simp only [hb]
    | some b => simp only [hb, h, ite_self]

theorem issueCtl_stays {i : Instr} {s : State} (hready : s.ready s.site i = false) (hbank : ∀ c, bankNeed c s.cycle i = .go)
    (e : State → Opnds → State) : issueCtl i s e = .next s := by
  rw [issueCtl, hready, if_neg Bool.false_ne_true, wakeFor_of_go _ hbank]

/-! An instruction that emits nothing. -/

theorem runs_silent {i : Instr} {s t : State} {P : State → Prop} (he : exec i s = .next t) (hissued : Issued i s t) (hflight : t.flight = s.flight)
    (hP : P t) : Runs i s [] P :=
  ⟨t, he, hissued, by rw [State.flights_nil, List.append_nil, hflight], hP⟩

/-! Updates of a slot. -/

/-- What an update of one slot leaves of every slot, it leaves of each slot of the block. -/
theorem Block.slot_updSlot_map {β : Type} (b : Block) (k j : Nat) {f : Slot → Slot} (P : Slot → β) (hP : ∀ sl, P (f sl) = P sl) :
    P ((b.updSlot k f).slot j) = P (b.slot j) := by
  by_cases hk : k < b.slots.length
  · rw [Block.slot_updSlot b k j f hk]
    split_ifs
    · exact hP _
    · rfl
  · rw [Block.updSlot, List.set_eq_of_length_le (Nat.le_of_not_lt hk)]

theorem State.slot_updSlot_map {β : Type} (s : State) (t u : Site) {f : Slot → Slot} (P : Slot → β) (hP : ∀ sl, P (f sl) = P sl) :
    P ((s.updSlot t f).slot u) = P (s.slot u) :=
  s.slot_updBlock t u _ P (fun b => b.updSlot_ctx _ _) (fun b j => b.slot_updSlot_map _ j P hP)

theorem State.emits_slot {β : Type} (s : State) (t u : Site) (l : List (Consumer × Tok)) (P : Slot → β) (h : ResvFree P) :
    P ((s.emits t l).slot u) = P (s.slot u) := by
  induction l generalizing s with
  | nil => rfl
  | cons x l ih => rw [State.emits_cons, ih, State.emit_slot s t u _ _ P h]

/-- An update of a slot that leaves the tokens at its fields and the record of its last execution. -/
def Slot.KeepsIssue (f : Slot → Slot) : Prop :=
  ∀ sl, (∀ g, ((f sl).field g).toks = (sl.field g).toks) ∧ (f sl).done = sl.done ∧ (f sl).issuedAt = sl.issuedAt

theorem Issued.updSlot {i : Instr} {s u : State} (h : Issued i s u) (t : Site) {f : Slot → Slot} (hf : Slot.KeepsIssue f) :
    Issued i s (u.updSlot t f) := by
  obtain ⟨htoks, hpe, hdone, hat⟩ := h
  refine ⟨fun b hb g => ?_, fun c' hc' => ?_, ?_, ?_⟩
  · exact (u.slot_updSlot_map t s.site (fun sl => (sl.field g).toks) fun sl => (hf sl).1 g).trans (htoks b hb g)
  · have hcell := u.updBlock_cell? t (fun b => b.updSlot t.index f) s.site.cell (fun c => c.pe s.site.pe) fun _ => rfl
    change ((u.updSlot t f).cell? s.site.cell).map _ = _ at hcell
    rw [hc'] at hcell
    obtain ⟨c, hc, hcpe⟩ := Option.map_eq_some_iff.mp hcell.symm
    exact (congrArg Pe.issuedAt hcpe).symm.trans (hpe c hc)
  · exact (u.slot_updSlot_map t s.site Slot.done fun sl => (hf sl).2.1).trans hdone
  · exact (u.slot_updSlot_map t s.site Slot.issuedAt fun sl => (hf sl).2.2).trans hat

/-- What a slot carries from one execution of a firing to the next (R155 to R157). -/
def Slot.carried (sl : Slot) : Nat × Word × Mark := (sl.seq, sl.sum, sl.sumMark)

theorem State.took_carried (s : State) (t : Site) (i : Instr) : ((s.took t i).slot t).carried = (s.slot t).carried := by
  simp only [State.slot, State.took_block?]
  cases s.block? t with
  | none => rfl
  | some b => exact b.slot_updSlot_map t.index t.index Slot.carried fun sl => by simp [Slot.carried]

theorem took_updSlot_slot {s : State} (h : s.placed = true) (i : Instr) (f : Slot → Slot) :
    ((s.took s.site i).updSlot s.site f).slot s.site = f ((s.took s.site i).slot s.site) := by
  obtain ⟨c, b, hc, hb, hi, -⟩ := s.placed_iff.mp h
  have hblock : (s.took s.site i).block? s.site = some (b.tookAt s.cycle s.site i) := by
    rw [State.took_block?, State.block?, hc, Option.bind_some, hb, Option.map_some]
  exact (s.took s.site i).slot_updSlot_self s.site f hblock (by rwa [Block.tookAt, Block.updSlot_length])

/-- An instruction that issues, updates its slot beside its tokens, and emits a list of tokens. -/
theorem runs_of_updSlot_emits {i : Instr} {s : State} (h : s.goes i) {f : Slot → Slot} (hf : Slot.KeepsIssue f) (l : List (Consumer × Tok))
    (P : State → Prop) (he : exec i s = .next (((s.took s.site i).updSlot s.site f).emits s.site l))
    (hP : ∀ t, Quiet s t → Issued i s t →
      (∀ {β : Type} (Q : Slot → β), ResvFree Q → Q (t.slot s.site) = Q (f ((s.took s.site i).slot s.site))) → P t) : Runs i s l P := by
  have hissued := ((issued_took i s h.1).updSlot s.site hf).emits l
  refine ⟨_, he, hissued, ?_, hP _ (quiet_emits (quiet_updSlot (quiet_took s i) _ _) _ l) hissued fun Q hQ => ?_⟩
  · rw [State.emits_flight]
    congr 1
    refine (State.flights_congr (s.took s.site i) ((s.took s.site i).updSlot s.site f) s.site l rfl ?_).trans (s.took_flights s.site i l)
    exact (s.took s.site i).updBlock_cell? s.site (fun b => b.updSlot s.site.index f) _ _ fun _ => rfl
  · rw [State.emits_slot _ _ _ _ Q hQ, took_updSlot_slot h.1]

/-! Updates of blocks. -/

/-- An update of a block that leaves its context and its slots. -/
def Block.BesideSlots (f : Block → Block) : Prop := ∀ b, (f b).ctx = b.ctx ∧ (f b).slots = b.slots

theorem Issued.updBlock {i : Instr} {s u : State} (h : Issued i s u) (t : Site) {f : Block → Block} (hf : Block.BesideSlots f) :
    Issued i s (u.updBlock t f) :=
  h.keep (fun P _ => u.slot_updBlock t s.site f P (fun b => (hf b).1) fun b j => by rw [Block.slot, (hf b).2, Block.slot])
    (u.updBlock_cell? t f _ _ fun _ => rfl)

/-- What an update of one block leaves of every block, it leaves of each block of the cell. -/
theorem Cell.block?_updBlock_map {β : Type} (c : Cell) (k m : Nat) {f : Block → Block} (hctx : ∀ b, (f b).ctx = b.ctx) (P : Block → β)
    (hP : ∀ b, P (f b) = P b) : ((c.updBlock k f).block? m).map P = (c.block? m).map P := by
  rw [Cell.block?_updBlock c k m f hctx]
  split_ifs
  · rw [Option.map_map, show P ∘ f = P from funext hP]
  · rfl

/-- Where the blocks of every cell look the same, the blocks of every site do. -/
theorem State.block?_map_congr {β : Type} {s t : State} {u : Site} {P : Block → β}
    (h : (t.cell? u.cell).map (fun c => (c.block? u.ctx).map P) = (s.cell? u.cell).map (fun c => (c.block? u.ctx).map P)) :
    (t.block? u).map P = (s.block? u).map P := by
  have key : ∀ x : State, (x.block? u).map P = ((x.cell? u.cell).map (fun c => (c.block? u.ctx).map P)).join := fun x => by
    unfold State.block?
    cases x.cell? u.cell <;> rfl
  rw [key, key, h]

theorem State.block?_updBlock_map {β : Type} (s : State) (t u : Site) {f : Block → Block} (hctx : ∀ b, (f b).ctx = b.ctx) (P : Block → β)
    (hP : ∀ b, P (f b) = P b) : ((s.updBlock t f).block? u).map P = (s.block? u).map P :=
  State.block?_map_congr (s.updBlock_cell? t f u.cell _ fun c => c.block?_updBlock_map _ _ hctx P hP)

/-- What an issue leaves of every block: all but the slots. -/
theorem State.took_block?_map {β : Type} (s : State) (t u : Site) (i : Instr) (P : Block → β) (hP : ∀ b k f, P (Block.updSlot b k f) = P b) :
    ((s.took t i).block? u).map P = (s.block? u).map P := by
  refine State.block?_map_congr (s.took_cell_map t i u.cell _ fun c => ?_)
  rw [Cell.tookAt, Cell.block?_count, Cell.block?_updPe]
  exact c.block?_updBlock_map _ _ (fun b => b.updSlot_ctx _ _) P fun b => hP b _ _

end Sys2Proof.Machine
end

section
/-! PROOFS. O9: the guard and the grant of control-plane instructions (R124, R125) -/

namespace Sys2Proof.Machine

/-! Effects that leave the control ALUs. -/

/-- The cycles in which the control ALUs of a cell last issued. -/
def Cell.alus (c : Cell) : List (Option Nat) := c.pes.map (fun p => p.issuedAt)

theorem Cell.pe_issuedAt (c : Cell) (k : Nat) : (c.pe k).issuedAt = c.alus.getD k none := by
  rw [Cell.pe, Cell.alus, List.getD_eq_getElem?_getD, List.getD_eq_getElem?_getD, List.getElem?_map]
  cases c.pes[k]? <;> rfl

theorem blockFree_alus : BlockFree Cell.alus := fun _ _ _ _ => rfl

theorem Cell.alus_updPe (c : Cell) (k : Nat) {f : Pe → Pe} (hf : ∀ p, (f p).issuedAt = p.issuedAt) : (c.updPe k f).alus = c.alus :=
  map_set_same c.pes k .fresh f _ hf

theorem Cell.alus_count (c : Cell) (n : Nat) (v : Word) : (c.count n v).alus = c.alus := by rw [Cell.alus, Cell.count_pes, Cell.alus]

/-- Nothing but tokens, counters, energy and divisions in course has changed, and no control ALU has issued. -/
def QuietAlus (s t : State) : Prop := Quiet s t ∧ ∀ n, (t.cell? n).map Cell.alus = (s.cell? n).map Cell.alus

namespace QuietAlus
variable {s t : State}

theorem refl (s : State) : QuietAlus s s := ⟨quiet_refl s, fun _ => rfl⟩

theorem emit (h : QuietAlus s t) (u : Site) (c : Consumer) (k : Tok) : QuietAlus s (t.emit u c k) :=
  ⟨quiet_emit h.1 u c k, fun n => (t.emit_cell? u c k n _ blockFree_alus).trans (h.2 n)⟩

theorem emitAll (h : QuietAlus s t) (u : Site) (l : List Consumer) (k : Tok) : QuietAlus s (t.emitAll u l k) :=
  ⟨quiet_emitAll h.1 u l k, fun n => (t.emitAll_cell? u l k n _ blockFree_alus).trans (h.2 n)⟩

theorem updSlot (h : QuietAlus s t) (u : Site) (f : Slot → Slot) : QuietAlus s (t.updSlot u f) :=
  ⟨quiet_updSlot h.1 u f, fun n => (t.updBlock_cell? u _ n Cell.alus fun _ => rfl).trans (h.2 n)⟩

theorem reserveAll (h : QuietAlus s t) (u : Site) (e : Emits) : QuietAlus s (t.reserveAll u e) :=
  ⟨quiet_reserveAll h.1 u e, fun n => (t.updBlock_cell? u _ n Cell.alus fun _ => rfl).trans (h.2 n)⟩

theorem count (h : QuietAlus s t) (n k : Nat) (v : Word) : QuietAlus s (t.count n k v) :=
  ⟨quiet_count h.1 n k v, fun m => (t.cell?_updCell_map n m _ (fun c => c.count_num k v) Cell.alus fun c => c.alus_count k v).trans (h.2 m)⟩

theorem division (h : QuietAlus s t) (n k : Nat) (d : Option Division) :
    QuietAlus s (t.updCell n (fun c => c.updPe k (fun p => { p with division := d }))) :=
  ⟨quiet_updPe h.1 n k _ (fun _ => rfl) (fun _ => rfl),
    fun m => (t.cell?_updCell_map n m (fun c => c.updPe k (fun p => { p with division := d })) (fun _ => rfl) Cell.alus
      fun c => c.alus_updPe k fun _ => rfl).trans (h.2 m)⟩

theorem discardTok (h : QuietAlus s t) (k : Option Tok) : QuietAlus s (discardTok t k) := by
  unfold Machine.discardTok
  cases tokMark k with
  | none => exact h
  | some _ => exact h.count _ _ _

end QuietAlus

/-! The issue of a control-plane instruction. -/

/-- An instruction that accesses no register bank, and whose issue has an effect on tokens, counters and divisions alone. -/
def IssuesQuietly (i : Instr) (s : State) : Prop :=
  (∀ c, bankNeed c s.cycle i = .go) ∧ ∃ e : State → Opnds → State, exec i s = issueCtl i s e ∧ ∀ u o, QuietAlus u (e u o)

theorem issuesQuietly_of_runAlu {i : Instr} {s : State} {f : Word → Word → Word → Word} (hbank : ∀ c, bankNeed c s.cycle i = .go)
    (he : exec i s = runAlu i s f) : IssuesQuietly i s :=
  ⟨hbank, _, he, fun u _ => (QuietAlus.refl u).emitAll _ _ _⟩

theorem issuesQuietly_of_startDivision {i : Instr} {s : State} {f : Word → Word → Word} (hbank : ∀ c, bankNeed c s.cycle i = .go)
    (he : exec i s = startDivision i s f) : IssuesQuietly i s :=
  ⟨hbank, _, he, fun u _ => ((QuietAlus.refl u).reserveAll _ _).division _ _ _⟩

/-- Opcodes 0x01 to 0x35 (R139): the control ALU's values, the divisions, the paths, the sequences and the running sum. -/
theorem controlPlane_issuesQuietly {i : Instr} (hlo : 1 ≤ i.opcode) (hhi : i.opcode ≤ 0x35) (s : State) : IssuesQuietly i s := by
  cases i
  case mov | const | shlor | add | addi | sub | neg | mul | mulh | mulhu | muli | and | andi | or | ori | xor | xori | shl | shli | shr | shri |
      sar | sari | clz | popc | brev | bfx | min | max | minu | maxu | cmp | cmpi | sel | test | merge | pand | por | pnot | pxor | fireno |
      cellid | laneid => exact issuesQuietly_of_runAlu (fun _ => rfl) (by simp only [exec]; rfl)
  case div | divu | rem | remu => exact issuesQuietly_of_startDivision (fun _ => rfl) (by simp only [exec]; rfl)
  case steer => exact ⟨fun _ => rfl, _, exec_steer .., fun u _ => (QuietAlus.refl u).emit _ _ _⟩
  case gate =>
    refine ⟨fun _ => rfl, _, exec_gate .., fun u o => ?_⟩
    split
    · exact (QuietAlus.refl u).emitAll _ _ _
    · exact (QuietAlus.refl u).discardTok _
  case drop => exact ⟨fun _ => rfl, _, exec_drop s, fun u _ => (QuietAlus.refl u).discardTok _⟩
  case cnt => exact ⟨fun _ => rfl, _, exec_cnt .., fun u _ => ((QuietAlus.refl u).updSlot _ _).emit _ _ _⟩
  case cntx =>
    refine ⟨fun _ => rfl, _, by simp only [exec_cntx, execCntx]; rfl, fun u o => ?_⟩
    have hslot := fun n => (QuietAlus.refl u).updSlot s.site (fun sl => sl.nextIn n)
    split
    · exact hslot _
    · exact ((hslot _).emit _ _ _).emit _ _ _
  case accum =>
    refine ⟨fun _ => rfl, _, by simp only [exec_accum, execAccum]; rfl, fun u o => ?_⟩
    split
    · exact ((QuietAlus.refl u).updSlot _ _).emitAll _ _ _
    · exact (QuietAlus.refl u).updSlot _ _
  all_goals simp [Instr.opcode] at hlo hhi

theorem IssuesQuietly.stays {i : Instr} {s : State} (h : IssuesQuietly i s) (hready : s.ready s.site i = false) : exec i s = .next s := by
  obtain ⟨hbank, e, he, -⟩ := h
  rw [he, issueCtl_stays hready hbank]

/-- A PE that has issued in this cycle grants its control ALU to no further instruction. -/
theorem not_ready_of_issuedAt {s : State} {t : Site} (h : ∀ c, s.cell? t.cell = some c → (c.pe t.pe).issuedAt = some s.cycle) (i : Instr) :
    s.ready t i = false := by
  unfold State.ready
  cases hc : s.cell? t.cell with
  | none => rfl
  | some c =>
    cases hb : c.block? t.ctx with
    | none => simp only [hb]
    | some b => simp [hb, Pe.free, h c hc]

theorem IssuesQuietly.uses_alu {i : Instr} {s t : State} (h : IssuesQuietly i s) (hgoes : s.goes i) (ht : exec i s = .next t) :
    ∀ c, t.cell? s.site.cell = some c → (c.pe s.site.pe).issuedAt = some t.cycle := by
  obtain ⟨-, e, he, heffect⟩ := h
  rw [he, issueCtl_goes hgoes] at ht
  cases ht
  obtain ⟨⟨-, -, -, -, hcycle, -⟩, halus⟩ := heffect (s.took s.site i) (s.opnds s.site i)
  obtain ⟨-, hpe, -⟩ := issued_took i s hgoes.1
  intro c hc
  have hcell := halus s.site.cell
  rw [hc] at hcell
  obtain ⟨d, hd, hdc⟩ := Option.map_eq_some_iff.mp hcell.symm
  rw [Cell.pe_issuedAt, ← hdc, ← Cell.pe_issuedAt, hpe d hd, hcycle, took_cycle]

end Sys2Proof.Machine

namespace Sys2Proof
open Sys2Proof.Machine

/-- Settles O9: where it is not granted a control-plane instruction waits for no bank; where it issues, it uses its PE's control ALU. -/
theorem issueGuards : Obligations.IssueGuards := by
  unfold Obligations.IssueGuards
  refine ⟨fun i s hlo hhi => (controlPlane_issuesQuietly hlo hhi s).stays, fun i s t hlo hhi hgoes ht u j hcell hpe => ?_⟩
  exact not_ready_of_issuedAt (by rw [hcell, hpe]; exact (controlPlane_issuesQuietly hlo hhi s).uses_alu hgoes ht) j

end Sys2Proof
end

section
/-! PROOFS. O6: CNT, CNTX, ACCUM and the identity words (R122, R155 to R158) -/

namespace Sys2Proof.Machine

/-! CNT and CNTX (R155, R156). -/

theorem Slot.nextIn_eq (sl : Slot) (n : Nat) :
    sl.nextIn n = { sl with seq := if sl.seq + 1 < n then sl.seq + 1 else 0, begun := decide (sl.seq + 1 < n) && sl.begun } := by
  unfold Slot.nextIn
  by_cases hn : sl.seq + 1 < n
  · simp [hn]
  · simp [hn]

theorem Slot.nextIn_seq (sl : Slot) (n : Nat) : (sl.nextIn n).seq = if sl.seq + 1 < n then sl.seq + 1 else 0 := by rw [Slot.nextIn_eq]

theorem Slot.keepsIssue_nextIn (n : Nat) : Slot.KeepsIssue (fun sl => sl.nextIn n) := fun sl => by
  show (∀ g, ((sl.nextIn n).field g).toks = (sl.field g).toks) ∧ (sl.nextIn n).done = sl.done ∧ (sl.nextIn n).issuedAt = sl.issuedAt
  rw [Slot.nextIn_eq]
  exact ⟨fun g => by cases g <;> rfl, rfl, rfl⟩

theorem took_seq (s : State) (t : Site) (i : Instr) : ((s.took t i).slot t).seq = (s.slot t).seq := congrArg Prod.fst (s.took_carried t i)

theorem took_sum (s : State) (t : Site) (i : Instr) : ((s.took t i).slot t).sum = (s.slot t).sum := congrArg (fun x => x.2.1) (s.took_carried t i)

theorem took_sumMark (s : State) (t : Site) (i : Instr) : ((s.took t i).slot t).sumMark = (s.slot t).sumMark :=
  congrArg (fun x => x.2.2) (s.took_carried t i)

theorem cnt_runs {n : BitVec 15} {c0 : Consumer} {s : State} (h : s.goes (.cnt n c0)) :
    Runs (.cnt n c0) s [(c0, ⟨s.lval (.cnt n c0) + BitVec.ofNat 32 (s.slot s.site).seq, s.omark (.cnt n c0)⟩)] (fun t => Quiet s t ∧
      (t.slot s.site).seq = (if (s.slot s.site).seq + 1 < n.toNat then (s.slot s.site).seq + 1 else 0) ∧
      ((t.slot s.site).field .l).toks = if (s.slot s.site).seq + 1 < n.toNat then ((s.slot s.site).field .l).toks
        else (((s.slot s.site).field .l).toks).tail) := by
  refine runs_of_updSlot_emits h (Slot.keepsIssue_nextIn n.toNat) _ _ ?_ fun t hquiet hissued hslot => ⟨hquiet, ?_, ?_⟩
  · rw [exec_cnt, execCnt, issueCtl_goes h]
    rfl
  · rw [hslot Slot.seq resvFree_seq, Slot.nextIn_seq, took_seq]
  · obtain ⟨c, b, hc, hb, -⟩ := s.placed_iff.mp h.1
    obtain ⟨htoks, -⟩ := hissued
    rw [htoks b (by rw [State.block?, hc]; exact hb), consumesOf]
    split_ifs
    · rfl
    · exact List.drop_one

theorem cntx_runs {c1 c0 : Consumer} {s : State} (h : s.goes (.cntx c1 c0)) (hn : s.rval (.cntx c1 c0) ≠ 0) :
    Runs (.cntx c1 c0) s
      [(c0, ⟨s.lval (.cntx c1 c0) + BitVec.ofNat 32 (s.slot s.site).seq, s.omark (.cntx c1 c0)⟩),
       (c1, ⟨flag (decide ((s.slot s.site).seq + 1 = (s.rval (.cntx c1 c0)).toNat)), s.omark (.cntx c1 c0)⟩)] (fun t => Quiet s t ∧
      (t.slot s.site).seq = if (s.slot s.site).seq + 1 < (s.rval (.cntx c1 c0)).toNat then (s.slot s.site).seq + 1 else 0) := by
  have hcount : (s.rval (.cntx c1 c0)).toNat ≠ 0 := mt (fun h0 => BitVec.eq_of_toNat_eq h0) hn
  refine runs_of_updSlot_emits h (Slot.keepsIssue_nextIn (s.rval (.cntx c1 c0)).toNat) _ _ ?_ fun t hquiet _ hslot => ⟨hquiet, ?_⟩
  · rw [exec_cntx, execCntx, issueCtl_goes h]
    exact congrArg Host.Outcome.next (if_neg hcount)
  · rw [hslot Slot.seq resvFree_seq, Slot.nextIn_seq, took_seq]

theorem cntx_runs_zero {c1 c0 : Consumer} {s : State} (h : s.goes (.cntx c1 c0)) (hn : s.rval (.cntx c1 c0) = 0) :
    Runs (.cntx c1 c0) s [] (Quiet s) := by
  refine runs_of_updSlot_emits h (Slot.keepsIssue_nextIn (s.rval (.cntx c1 c0)).toNat) _ _ ?_ fun t hquiet _ _ => hquiet
  rw [exec_cntx, execCntx, issueCtl_goes h]
  exact congrArg Host.Outcome.next (if_pos (congrArg BitVec.toNat hn))

/-! ACCUM (R157). -/

/-- A slot of ACCUM with this sum and this mark of it. -/
def Slot.withSum (sum : Word) (mark : Mark) (sl : Slot) : Slot := { sl with sum := sum, sumMark := mark }

theorem Slot.keepsIssue_withSum (sum : Word) (mark : Mark) : Slot.KeepsIssue (Slot.withSum sum mark) :=
  fun _ => ⟨fun g => by cases g <;> rfl, rfl, rfl⟩

section Accum
variable {c1 c0 : Consumer} {s : State}

theorem accum_runs_false (h : s.goes (.accum c1 c0)) (hp : s.pval (.accum c1 c0) = 0) :
    Runs (.accum c1 c0) s [] (fun t => Quiet s t ∧ (t.slot s.site).sum = (s.slot s.site).sum + s.lval (.accum c1 c0) ∧
      (t.slot s.site).sumMark = ((s.slot s.site).sumMark).or (tokMark (s.opnds s.site (.accum c1 c0)).l)) := by
  refine runs_of_updSlot_emits h (Slot.keepsIssue_withSum ((s.slot s.site).sum + s.lval (.accum c1 c0))
    (((s.slot s.site).sumMark).or (tokMark (s.opnds s.site (.accum c1 c0)).l))) _ _ ?_ fun t hquiet _ hslot =>
      ⟨hquiet, hslot Slot.sum resvFree_sum, hslot Slot.sumMark resvFree_sumMark⟩
  rw [exec_accum, execAccum, issueCtl_goes h]
  exact congrArg Host.Outcome.next (if_neg (by simpa [truth, State.pval] using hp))

theorem accum_runs_true (h : s.goes (.accum c1 c0)) (hp : s.pval (.accum c1 c0) ≠ 0) :
    Runs (.accum c1 c0) s (outs (.accum c1 c0) ⟨(s.slot s.site).sum + s.lval (.accum c1 c0),
        (((s.slot s.site).sumMark).or (tokMark (s.opnds s.site (.accum c1 c0)).l)).or (tokMark (s.opnds s.site (.accum c1 c0)).p)⟩)
      (fun t => Quiet s t ∧ (t.slot s.site).sum = 0 ∧ (t.slot s.site).sumMark = none) := by
  refine runs_of_updSlot_emits h (Slot.keepsIssue_withSum 0 none) _ _ ?_ fun t hquiet _ hslot =>
    ⟨hquiet, hslot Slot.sum resvFree_sum, hslot Slot.sumMark resvFree_sumMark⟩
  rw [exec_accum, execAccum, issueCtl_goes h]
  exact congrArg Host.Outcome.next (if_pos (by simpa [truth, State.pval] using hp))

end Accum

/-! The identity words (R158). -/

theorem cellIdWord_spec (c : Cell) (t : Site) : cellIdWord c t = cellIdSpec c t := by
  apply BitVec.eq_of_toNat_eq
  simp only [cellIdWord, cellIdSpec, Site.pe, BitVec.ofNat_eq_ofNat, BitVec.toNat_append, BitVec.toNat_ofNat,
    ← Nat.shiftLeft_add_eq_or_of_lt (Nat.mod_lt _ (Nat.two_pow_pos _))]
  simp only [Nat.shiftLeft_eq]
  omega

theorem laneIdWord_spec (t : Site) (l : Word) :
    BitVec.ofNat 32 (l.toNat % 128 + t.pe % 16 * 2 ^ 7 + t.cell % 4096 * 2 ^ 11) = laneIdSpec t l := by
  apply BitVec.eq_of_toNat_eq
  simp only [laneIdSpec, Site.pe, BitVec.ofNat_eq_ofNat, BitVec.toNat_append, BitVec.toNat_ofNat, BitVec.extractLsb'_toNat, Nat.shiftRight_zero,
    ← Nat.shiftLeft_add_eq_or_of_lt (Nat.mod_lt _ (Nat.two_pow_pos _))]
  simp only [Nat.shiftLeft_eq]
  omega

theorem fireno_runs {c1 c0 : Consumer} {s : State} {b : Block} (h : s.goes (.fireno c1 c0)) (hb : s.block? s.site = some b) :
    Runs (.fireno c1 c0) s (outs (.fireno c1 c0) ⟨b.fireNo, s.omark (.fireno c1 c0)⟩) (Quiet s) := by
  have hfire : s.fireNo s.site = b.fireNo := by rw [State.fireNo, hb]
  rw [← hfire]
  exact runAlu_runs (exec_fireno ..) h _ fun _ => quiet_runAlu (exec_fireno ..) h

theorem cellid_runs {c1 c0 : Consumer} {s : State} {c : Cell} (h : s.goes (.cellid c1 c0)) (hc : s.cell? s.site.cell = some c) :
    Runs (.cellid c1 c0) s (outs (.cellid c1 c0) ⟨cellIdSpec c s.site, s.omark (.cellid c1 c0)⟩) (Quiet s) := by
  have hrun := runAlu_runs (exec_cellid c1 c0 s) h _ fun _ => quiet_runAlu (exec_cellid ..) h
  simp only [hc, cellIdWord_spec] at hrun
  exact hrun

theorem laneid_runs {c1 c0 : Consumer} {s : State} (h : s.goes (.laneid c1 c0)) :
    Runs (.laneid c1 c0) s (outs (.laneid c1 c0) ⟨laneIdSpec s.site (s.lval (.laneid c1 c0)), s.omark (.laneid c1 c0)⟩) (Quiet s) := by
  rw [← laneIdWord_spec]
  exact runAlu_runs (exec_laneid ..) h _ fun _ => quiet_runAlu (exec_laneid ..) h

end Sys2Proof.Machine

namespace Sys2Proof
open Sys2Proof.Machine

/-- Settles O6: an execution of a sequence or of ACCUM updates what its slot carries to the next one; the identity words are values of the control ALU. -/
theorem sequenceResults : Obligations.SequenceResults := by
  unfold Obligations.SequenceResults
  exact ⟨⟨fun _ _ _ h _ => cnt_runs h, fun _ _ _ => cntx_runs, fun _ _ _ => cntx_runs_zero, fun _ _ _ => accum_runs_false, fun _ _ _ => accum_runs_true⟩,
    fun _ _ _ _ => fireno_runs, fun _ _ _ _ => cellid_runs, fun _ _ _ => laneid_runs⟩

end Sys2Proof
end

section
/-! PROOFS. O18: TRAP, HALT and FEND (R120, R329, R348) -/

namespace Sys2Proof.Machine

/-! TRAP. -/

/-- A fault raised at a site is recorded in its cell, and leaves slots, channels and the tokens on their way (R328, R329). -/
theorem faultAt_taken {s : State} {t : Site} {c : Cell} (hc : s.cell? t.cell = some c) (code sub : Nat) (addr aux : DWord) :
    SameFace s (s.faultAt t code sub false addr aux) ∧ SameButFaults s (s.faultAt t code sub false addr aux) ∧
      SameChannels s (s.faultAt t code sub false addr aux) ∧ FaultTaken s (s.faultAt t code sub false addr aux) s.stamps t.cell code sub false
        (originSpec t (s.fireNo t)) addr aux (s.fireNo t) := by
  rw [faultAt_eq_raise _ _ _ _ _ _ _ _ c hc, ← originOf_spec]
  obtain ⟨-, hframe, -⟩ := raise_record s _
  exact ⟨sameFace_raise s _, hframe, sameChannels_raise s _, faultTaken_raise s _ _ rfl rfl⟩

/-- An instruction that issues and raises a fault of its own emits nothing and leaves every channel. -/
theorem runs_of_fault {i : Instr} {s : State} (h : s.goes i) {code sub : Nat} {addr aux : DWord}
    (he : exec i s = .next ((s.took s.site i).faultAt s.site code sub false addr aux)) :
    Runs i s [] (fun t => OwnFault s t code sub addr aux ∧ SameChannels s t) := by
  obtain ⟨c, b, hc, -⟩ := s.placed_iff.mp h.1
  have htook : (s.took s.site i).cell? s.site.cell = some (c.tookAt s.cycle s.site i) := by rw [State.took_cell?, if_pos rfl, hc, Option.map_some]
  obtain ⟨hcells, hchannels, -⟩ := quiet_took s i
  obtain ⟨hface, hframe, hchannels', htaken⟩ := faultAt_taken htook code sub addr aux
  rw [took_fireNo] at htaken
  exact runs_silent he ((issued_took i s h.1).of_face hface) (hframe.flight.trans (took_flight ..))
    ⟨htaken.congr hcells.sameFlt rfl rfl, Eq.trans hchannels' hchannels⟩

theorem trap_runs {code : BitVec 8} {s : State} (h : s.goes (.trap code)) :
    Runs (.trap code) s [] (fun t => OwnFault s t 16 code.toNat 0 ((s.lval (.trap code)).setWidth 64) ∧ SameChannels s t) :=
  runs_of_fault h (by rw [exec_trap, execTrap, issueCtl_goes h]; rfl)

/-! HALT. -/

/-- A region that has executed HALT: the cycle of the first stands. -/
def Region.halt (now : Nat) (r : Region) : Region := { r with haltAt := some (r.haltAt.getD now) }

theorem halt_eq {s : State} {c : Cell} (h : s.goes .halt) (hc : s.cell? s.site.cell = some c) :
    exec .halt s = .next ((s.took s.site .halt).updRegion c.rid (Region.halt s.cycle)) := by
  have hrid : s.ridOf s.site.cell = c.rid := by rw [State.ridOf, hc]
  rw [exec_halt, execHalt, issueCtl_goes h, hrid]
  congr 2
  funext r
  rw [Region.halt]
  cases hr : r.haltAt with
  | none => rfl
  | some k => exact congrArg (fun x => { r with haltAt := x }) hr

theorem halt_runs {s : State} {c : Cell} {r : Region} (h : s.goes .halt) (hc : s.cell? s.site.cell = some c) (hr : s.region? c.rid = some r) :
    Runs .halt s [] (fun t => SameCells s t ∧ SameMemory s t ∧ (t.region? c.rid).map (fun x => x.haltAt) = some (some (r.haltAt.getD s.cycle))) := by
  obtain ⟨hcells, -, hmemory, -⟩ := quiet_took s .halt
  refine runs_silent (halt_eq h hc) ((issued_took .halt s h.1).of_face (sameFace_of_eq rfl)) rfl ⟨hcells, hmemory, ?_⟩
  rw [region?_updRegion _ _ (fun _ => by rfl)]
  exact congrArg (fun x => (x.map (Region.halt s.cycle)).map (fun x => x.haltAt)) hr

theorem regionBegins_after_halt {s : State} {rid k : Nat} {r : Region} (hr : s.region? rid = some r) (hhalt : r.haltAt = some k) (hk : k < s.cycle) :
    s.regionBegins rid = false := by
  simp [State.regionBegins, hr, hhalt, hk]

theorem firingStart_after_halt {s : State} {cell k : Nat} {c : Cell} {r : Region} (ctx : Nat) (hc : s.cell? cell = some c)
    (hr : s.region? c.rid = some r) (hhalt : r.haltAt = some k) (hk : k < s.cycle) : exec (.firingStart cell ctx) s = .next s := by
  rw [exec_firingStart, execFiringStart]
  simp [hc, regionBegins_after_halt hr hhalt hk]

/-! FEND. -/

/-- A block whose firing FEND has closed: the cycle of the first stands. -/
def Block.close (now : Nat) (b : Block) : Block := { b with fend := some (b.fend.getD now) }

theorem fend_eq {s : State} (h : s.goes .fend) : exec .fend s = .next ((s.took s.site .fend).updBlock s.site (Block.close s.cycle)) := by
  rw [exec_fend, execFend, issueCtl_goes h]
  congr 2
  funext b
  rw [Block.close]
  cases hb : b.fend with
  | none => rfl
  | some k => exact congrArg (fun x => { b with fend := x }) hb

theorem fend_runs {s : State} {b : Block} (h : s.goes .fend) (hb : s.block? s.site = some b) :
    Runs .fend s [] (fun t => Quiet s t ∧ (t.block? s.site).map (fun x => x.fend) = some (some (b.fend.getD s.cycle))) := by
  refine runs_silent (fend_eq h) ((issued_took .fend s h.1).updBlock s.site fun _ => ⟨rfl, rfl⟩) rfl ⟨?_, ?_⟩
  · exact quiet_updCell (quiet_took s .fend) _ _ (fun _ => rfl) fun c => c.updBlock_channels _ (Block.close s.cycle) fun _ => rfl
  · rw [State.block?_updBlock_self _ _ _ (fun _ => by rfl), State.took_block?, hb]
    rfl

/-- After FEND no instruction of the block runs, but those executing (R348; log 46). -/
theorem running_after_fend {s : State} {b : Block} {sl : Slot} {k : Nat} (c : Cell) (hfend : b.fend = some k) (hk : k < s.cycle)
    (hwaking : sl.waking = false) (hbegun : sl.begun = false) : s.running c b sl = false := by
  simp [State.running, hfend, hk, hwaking, hbegun]

section Closed
variable {s : State} {b : Block} {k : Nat} (hb : s.block? s.site = some b) (hfend : b.fend = some k) (hk : k < s.cycle)
  (hwaking : (s.slot s.site).waking = false) (hbegun : (s.slot s.site).begun = false)
include hb hfend hk hwaking hbegun

theorem not_ready_after_fend (i : Instr) : s.ready s.site i = false ∧ s.ready0 s.site i = false := by
  obtain ⟨c, hc, hcb⟩ := Option.bind_eq_some_iff.mp hb
  have hslot : s.slot s.site = b.slot s.site.index := by rw [State.slot, hb]
  rw [hslot] at hwaking hbegun
  have hrun := running_after_fend c hfend hk hwaking hbegun
  constructor
  · simp [State.ready, hc, hcb, State.holds, hrun]
  · simp [State.ready0, hc, hcb, State.holds0, hrun]

/-- Nor does TRAP, HALT or FEND; none of them accesses a register bank. -/
theorem system_stays_after_fend {i : Instr} (hi : i = .halt ∨ i = .fend ∨ ∃ code, i = .trap code) : exec i s = .next s := by
  have hready := fun i => (not_ready_after_fend hb hfend hk hwaking hbegun i).1
  obtain rfl | rfl | ⟨code, rfl⟩ := hi
  · rw [exec_halt, execHalt, issueCtl_stays (hready _) fun _ => rfl]
  · rw [exec_fend, execFend, issueCtl_stays (hready _) fun _ => rfl]
  · rw [exec_trap, execTrap, issueCtl_stays (hready _) fun _ => rfl]

end Closed

end Sys2Proof.Machine

namespace Sys2Proof
open Sys2Proof.Machine

/-- Settles O18: each of the three issues and has its effect; a later cycle finds the region halted, or the guard closed by FEND. -/
theorem trapHaltFend : Obligations.TrapHaltFend := by
  unfold Obligations.TrapHaltFend
  refine ⟨fun _ _ => trap_runs, fun _ _ _ => halt_runs, fun _ _ => fend_runs, fun _ _ ctx _ _ _ => firingStart_after_halt ctx, ?_⟩
  intro s b k i hb hfend hk hwaking hbegun
  obtain ⟨hready, hready0⟩ := not_ready_after_fend hb hfend hk hwaking hbegun i
  exact ⟨hready, hready0, fun hlo hhi => (controlPlane_issuesQuietly hlo hhi s).stays hready,
    system_stays_after_fend hb hfend hk hwaking hbegun⟩

end Sys2Proof
end

section
/-! PROOFS. O30: the channel instructions (R117 to R119, R128, R129, R327) -/

namespace Sys2Proof.Machine

/-! Channels of a block. -/

theorem Block.inChan_updIn_ne (b : Block) {ch k : Nat} (f : InChan → InChan) (h : k ≠ ch) : (b.updIn ch f).inChan k = b.inChan k := by
  rw [Block.inChan, Block.updIn, List.getD_eq_getElem?_getD, List.getElem?_set_ne h.symm, ← List.getD_eq_getElem?_getD, Block.inChan]

theorem Block.outChan_updOut (b : Block) {ch : Nat} (f : OutChan → OutChan) (h : ch < b.outs.length) : (b.updOut ch f).outChan ch = f (b.outChan ch) := by
  simp only [Block.outChan, Block.updOut]
  rw [List.getD_eq_getElem _ _ (by simpa using h), List.getElem_set_self]

theorem Block.outChan_updOut_ne (b : Block) {ch k : Nat} (f : OutChan → OutChan) (h : k ≠ ch) : (b.updOut ch f).outChan k = b.outChan k := by
  rw [Block.outChan, Block.updOut, List.getD_eq_getElem?_getD, List.getElem?_set_ne h.symm, ← List.getD_eq_getElem?_getD, Block.outChan]

theorem Block.inChan_congr {b b' : Block} (h : b'.ins = b.ins) (k : Nat) : b'.inChan k = b.inChan k := by rw [Block.inChan, h, Block.inChan]

theorem Block.outChan_congr {b b' : Block} (h : b'.outs = b.outs) (k : Nat) : b'.outChan k = b.outChan k := by rw [Block.outChan, h, Block.outChan]

theorem Block.besideSlots_updIn (ch : Nat) (f : InChan → InChan) : Block.BesideSlots (fun b => b.updIn ch f) := fun _ => ⟨rfl, rfl⟩

theorem Block.besideSlots_updOut (ch : Nat) (f : OutChan → OutChan) : Block.BesideSlots (fun b => b.updOut ch f) := fun _ => ⟨rfl, rfl⟩

/-! What an issue followed by updates of channels leaves. -/

/-- Nothing but tokens, counters, energy and channels has changed. -/
def BesideChannels (s t : State) : Prop := SameCells s t ∧ SameMemory s t ∧ SameDevice s t

theorem Quiet.besideChannels {s t : State} (h : Quiet s t) : BesideChannels s t := by
  obtain ⟨hcells, -, hmemory, hdevice⟩ := h
  exact ⟨hcells, hmemory, hdevice⟩

theorem BesideChannels.updBlock {s t : State} (h : BesideChannels s t) (u : Site) (f : Block → Block) : BesideChannels s (t.updBlock u f) := by
  obtain ⟨hcells, hmemory, hdevice⟩ := h
  exact ⟨hcells.trans (t.cells_map_updCell u.cell _ Cell.held fun _ => rfl), hmemory, hdevice⟩

/-- A part of a block that updates of slots leave and an update of the block determines, after both. -/
theorem block?_updBlock_took {β : Type} {s : State} {b b' : Block} {i : Instr} {f : Block → Block} (hctx : ∀ b, (f b).ctx = b.ctx) (P : Block → β)
    (hP : ∀ b k g, P (f (Block.updSlot b k g)) = P (f b)) (hb : s.block? s.site = some b)
    (hb' : ((s.took s.site i).updBlock s.site f).block? s.site = some b') : P b' = P (f b) := by
  rw [State.block?_updBlock_self _ _ _ hctx, State.took_block?, hb, Option.map_some, Option.map_some, Option.some.injEq] at hb'
  rw [← hb']
  exact hP b _ _

/-! RECV, PEEK and CHST. -/

theorem readChannel_runs {i : Instr} {ch : BitVec 3} {off : BitVec 6} {c0 : Consumer} {s : State} {b : Block} (h : s.goes i)
    (hb : s.block? s.site = some b) (he : exec i s = readChannel i ch off c0 s) : Runs i s [(c0, (b.inChan ch.toNat).buf.getD
      (((b.inChan ch.toNat).cp + BitVec.ofNat 32 (off.toNat + (s.slot s.site).done)).toNat % (b.inChan ch.toNat).cap) ⟨0, none⟩)] (Quiet s) :=
  runs_quiet_of_emits h _ (by rw [he, readChannel, issueCtl_goes h]; simp only [hb]; rfl)

theorem chst_eq {ch : BitVec 3} {out : Bool} {c0 : Consumer} {s : State} {b : Block} (h : s.goes (.chst ch out c0)) (hb : s.block? s.site = some b) :
    exec (.chst ch out c0) s = .next ((s.took s.site (.chst ch out c0)).emits s.site [(c0,
      ⟨BitVec.ofNat 32 (if out then (b.outChan ch.toNat).free else (b.inChan ch.toNat).occupancy), s.omark (.chst ch out c0)⟩)]) := by
  rw [exec_chst, execChst, issueCtl_goes h]
  simp only [hb]
  rfl

theorem chst_runs_in {ch : BitVec 3} {c0 : Consumer} {s : State} {b : Block} (h : s.goes (.chst ch false c0)) (hb : s.block? s.site = some b) :
    Runs (.chst ch false c0) s [(c0, ⟨(b.inChan ch.toNat).pp - (b.inChan ch.toNat).cp, s.omark (.chst ch false c0)⟩)] (Quiet s) := by
  refine runs_quiet_of_emits h _ ((chst_eq h hb).trans ?_)
  rw [if_neg Bool.false_ne_true, InChan.occupancy, BitVec.ofNat_toNat, BitVec.setWidth_eq]

theorem chst_runs_out {ch : BitVec 3} {c0 : Consumer} {s : State} {b : Block} (h : s.goes (.chst ch true c0)) (hb : s.block? s.site = some b) :
    Runs (.chst ch true c0) s [(c0, ⟨BitVec.ofNat 32 ((b.outChan ch.toNat).cap - ((b.outChan ch.toNat).pp - (b.outChan ch.toNat).cpv).toNat -
      (b.outChan ch.toNat).w), s.omark (.chst ch true c0)⟩)] (Quiet s) :=
  runs_quiet_of_emits h _ (chst_eq h hb)

/-! SEND. -/

/-- An input channel with a token at a place of its buffer. -/
def InChan.place (at_ : Nat) (tok : Tok) (c : InChan) : InChan := { c with buf := c.buf.set at_ tok }

/-- An output channel with one more token written in this firing. -/
def OutChan.wrote (c : OutChan) : OutChan := { c with w := c.w + 1 }

/-- The place in the consumer's buffer of the next token written (R129). -/
def OutChan.nextPlace (c : OutChan) : Nat := (c.pp + BitVec.ofNat 32 c.w).toNat % c.cap

/-- The site of the consumer of an output channel. -/
def OutChan.consumer (c : OutChan) : Site := ⟨c.cell, c.ctx, 0⟩

/-- The state in which SEND has put its token in the consumer's buffer and counted it. -/
def State.sent (s : State) (i : Instr) (ch : Nat) (oc : OutChan) (tok : Tok) : State :=
  ((s.took s.site i).updBlock oc.consumer (fun d => d.updIn oc.chan (InChan.place oc.nextPlace tok))).updBlock s.site (fun b => b.updOut ch OutChan.wrote)

theorem send_eq {ch : BitVec 3} {n : BitVec 6} {s : State} {b : Block} (h : s.goes (.send ch n)) (hb : s.block? s.site = some b) :
    exec (.send ch n) s = .next (s.sent (.send ch n) ch.toNat (b.outChan ch.toNat) ⟨s.lval (.send ch n), tokMark (s.opnds s.site (.send ch n)).l⟩) := by
  rw [exec_send, execSend, issueCtl_goes h]
  simp only [hb]
  rfl

section Sent
variable {s : State} {i : Instr} {ch : Nat} {oc : OutChan} {tok : Tok}

theorem issued_sent (h : s.placed = true) : Issued i s (s.sent i ch oc tok) :=
  ((issued_took i s h).updBlock _ (Block.besideSlots_updIn _ _)).updBlock _ (Block.besideSlots_updOut _ _)

theorem besideChannels_sent (s : State) (i : Instr) (ch : Nat) (oc : OutChan) (tok : Tok) : BesideChannels s (s.sent i ch oc tok) :=
  ((quiet_took s i).besideChannels.updBlock _ _).updBlock _ _

/-- The sender's output channels: only `ch` has changed, by the token written. -/
theorem sent_outs {b b' : Block} (hb : s.block? s.site = some b) (hb' : (s.sent i ch oc tok).block? s.site = some b') :
    b'.outs = (b.updOut ch OutChan.wrote).outs := by
  have houts : ((s.sent i ch oc tok).block? s.site).map Block.outs = (s.block? s.site).map (fun b => (b.updOut ch OutChan.wrote).outs) := by
    rw [State.sent, State.block?_updBlock_self _ _ _ (fun _ => by rfl), Option.map_map]
    exact (State.block?_updBlock_map _ _ _ (fun _ => by rfl) (fun b => (b.updOut ch OutChan.wrote).outs) fun _ => by rfl).trans
      (s.took_block?_map _ _ i _ fun _ _ _ => by rfl)
  rw [hb, hb'] at houts
  exact Option.some.inj houts

/-- The consumer's input channels: only the one that the producer feeds has changed, by the token placed. -/
theorem sent_ins {d d' : Block} (hd : s.block? oc.consumer = some d) (hd' : (s.sent i ch oc tok).block? oc.consumer = some d') :
    d'.ins = (d.updIn oc.chan (InChan.place oc.nextPlace tok)).ins := by
  have hins : ((s.sent i ch oc tok).block? oc.consumer).map Block.ins =
      (s.block? oc.consumer).map (fun d => (d.updIn oc.chan (InChan.place oc.nextPlace tok)).ins) := by
    rw [State.sent, State.block?_updBlock_map _ _ _ (fun _ => by rfl) Block.ins (fun _ => by rfl), State.block?_updBlock_self _ _ _ (fun _ => by rfl),
      Option.map_map]
    exact s.took_block?_map _ _ i _ fun _ _ _ => by rfl
  rw [hd, hd'] at hins
  exact Option.some.inj hins

end Sent

theorem send_runs {ch : BitVec 3} {n : BitVec 6} {s : State} {b : Block} (h : s.goes (.send ch n)) (hb : s.block? s.site = some b) :
    Runs (.send ch n) s [] (fun t => SameCells s t ∧ SameMemory s t ∧ SameDevice s t ∧
      (∀ b', t.block? s.site = some b' → ch.toNat < b.outs.length → (b'.outChan ch.toNat).w = (b.outChan ch.toNat).w + 1 ∧
        (b'.outChan ch.toNat).pp = (b.outChan ch.toNat).pp ∧ ∀ k, k ≠ ch.toNat → b'.outChan k = b.outChan k) ∧
      (∀ d d', s.block? (b.outChan ch.toNat).consumer = some d → t.block? (b.outChan ch.toNat).consumer = some d' →
        (b.outChan ch.toNat).chan < d.ins.length → (b.outChan ch.toNat).nextPlace < (d.inChan (b.outChan ch.toNat).chan).buf.length →
        (d'.inChan (b.outChan ch.toNat).chan).buf[(b.outChan ch.toNat).nextPlace]? =
            some ⟨s.lval (.send ch n), tokMark (s.opnds s.site (.send ch n)).l⟩ ∧
          (d'.inChan (b.outChan ch.toNat).chan).pp = (d.inChan (b.outChan ch.toNat).chan).pp ∧
          (d'.inChan (b.outChan ch.toNat).chan).cp = (d.inChan (b.outChan ch.toNat).chan).cp)) := by
  obtain ⟨hcells, hmemory, hdevice⟩ := besideChannels_sent s (.send ch n) ch.toNat (b.outChan ch.toNat)
    ⟨s.lval (.send ch n), tokMark (s.opnds s.site (.send ch n)).l⟩
  refine runs_silent (send_eq h hb) (issued_sent h.1) rfl ⟨hcells, hmemory, hdevice, fun b' hb' hch => ?_, fun d d' hd hd' hch hplace => ?_⟩
  · have houts := Block.outChan_congr (sent_outs hb hb')
    rw [houts, Block.outChan_updOut _ _ hch]
    exact ⟨rfl, rfl, fun k hk => (houts k).trans (b.outChan_updOut_ne _ hk)⟩
  · rw [Block.inChan_congr (sent_ins hd hd'), Block.inChan_updIn _ _ hch]
    exact ⟨List.getElem?_set_self hplace, rfl, rfl⟩

/-! ADVC and ADVP. -/

theorem sendCp_eq (s : State) (c : InChan) (d : Nat) : s.sendCp c d = { s with chanMsgs := s.chanMsgs ++
    (if c.fed then [⟨c.srcCell, c.srcCtx, c.srcChan, false, c.cp, s.cycle + transit c.hops d⟩] else []) } := by
  unfold State.sendCp
  split
  · rfl
  · rw [List.append_nil]

theorem sendPp_eq (s : State) (c : OutChan) (d : Nat) : s.sendPp c d = { s with chanMsgs := s.chanMsgs ++
    (if c.present then [⟨c.cell, c.ctx, c.chan, true, c.pp, s.cycle + transit c.hops d⟩] else []) } := by
  unfold State.sendPp
  split
  · rfl
  · rw [List.append_nil]

/-- An input channel whose CP has moved on by an ADVC. -/
def InChan.advance (n : Nat) (c : InChan) : InChan := { c with cp := c.cp + BitVec.ofNat 32 n, advanced := true }

/-- An output channel of which an ADVP has committed tokens. -/
def OutChan.advance (n : Nat) (c : OutChan) : OutChan := { c with pp := c.pp + BitVec.ofNat 32 n, w := c.w - n, advanced := true }

section Adv
variable {ch : BitVec 3} {n : BitVec 6} {s : State} {b : Block} (hb : s.block? s.site = some b)
include hb

theorem advc_eq (h : s.goes (.advc ch n)) : exec (.advc ch n) s = .next (
    if (b.inChan ch.toNat).occupancy < n.toNat then (s.took s.site (.advc ch n)).advFault s.site 0x83 ch
    else ((s.took s.site (.advc ch n)).updBlock s.site (fun b' => b'.updIn ch.toNat (fun _ => (b.inChan ch.toNat).advance n.toNat))).sendCp
      ((b.inChan ch.toNat).advance n.toNat) s.pace) := by
  rw [exec_advc, execAdvc, issueCtl_goes h, InChan.advance, BitVec.ofNat_toNat]
  simp only [hb]
  rfl

theorem advp_eq (h : s.goes (.advp ch n)) : exec (.advp ch n) s = .next (
    if (b.outChan ch.toNat).w < n.toNat then (s.took s.site (.advp ch n)).advFault s.site 0x84 ch
    else ((s.took s.site (.advp ch n)).updBlock s.site (fun b' => b'.updOut ch.toNat (fun _ => (b.outChan ch.toNat).advance n.toNat))).sendPp
      ((b.outChan ch.toNat).advance n.toNat) s.pace) := by
  rw [exec_advp, execAdvp, issueCtl_goes h, OutChan.advance, BitVec.ofNat_toNat]
  simp only [hb]
  rfl

theorem advc_faults (h : s.goes (.advc ch n)) (hn : (b.inChan ch.toNat).occupancy < n.toNat) :
    Runs (.advc ch n) s [] (fun t => OwnFault s t 9 0 0 (BitVec.ofNat 64 (0x83 + ch.toNat * 256)) ∧ SameChannels s t) :=
  runs_of_fault h (by rw [advc_eq hb h, if_pos hn]; rfl)

theorem advp_faults (h : s.goes (.advp ch n)) (hn : (b.outChan ch.toNat).w < n.toNat) :
    Runs (.advp ch n) s [] (fun t => OwnFault s t 9 0 0 (BitVec.ofNat 64 (0x84 + ch.toNat * 256)) ∧ SameChannels s t) :=
  runs_of_fault h (by rw [advp_eq hb h, if_pos hn]; rfl)

theorem advc_runs (h : s.goes (.advc ch n)) (hch : ch.toNat < b.ins.length) (hn : n.toNat ≤ (b.inChan ch.toNat).occupancy) :
    Runs (.advc ch n) s [] (fun t => SameCells s t ∧ SameMemory s t ∧
      (∀ b', t.block? s.site = some b' → (b'.inChan ch.toNat).cp = (b.inChan ch.toNat).cp + BitVec.ofNat 32 n.toNat ∧
        (b'.inChan ch.toNat).pp = (b.inChan ch.toNat).pp ∧ (b'.inChan ch.toNat).buf = (b.inChan ch.toNat).buf ∧
        (b'.inChan ch.toNat).advanced = true ∧ b'.outs = b.outs ∧ ∀ k, k ≠ ch.toNat → b'.inChan k = b.inChan k) ∧
      t.chanMsgs = s.chanMsgs ++ (if (b.inChan ch.toNat).fed then
        [⟨(b.inChan ch.toNat).srcCell, (b.inChan ch.toNat).srcCtx, (b.inChan ch.toNat).srcChan, false,
          (b.inChan ch.toNat).cp + BitVec.ofNat 32 n.toNat, s.cycle + max 1 (b.inChan ch.toNat).hops * s.pace⟩] else [])) := by
  obtain ⟨hcells, hmemory, -⟩ := (quiet_took s (.advc ch n)).besideChannels.updBlock s.site
    (fun b' => b'.updIn ch.toNat (fun _ => (b.inChan ch.toNat).advance n.toNat))
  have he := advc_eq hb h
  rw [if_neg (Nat.not_lt.mpr hn), sendCp_eq] at he
  refine runs_silent he ((issued_took _ s h.1).updBlock s.site (Block.besideSlots_updIn _ _)) rfl ⟨hcells, hmemory, fun b' hb' => ?_, rfl⟩
  have hins := block?_updBlock_took (fun _ => by rfl) Block.ins (fun _ _ _ => rfl) hb hb'
  have houts := block?_updBlock_took (fun _ => by rfl) Block.outs (fun _ _ _ => rfl) hb hb'
  have hchan := Block.inChan_congr hins
  rw [hchan, Block.inChan_updIn _ _ hch]
  exact ⟨rfl, rfl, rfl, rfl, houts, fun k hk => (hchan k).trans (b.inChan_updIn_ne _ hk)⟩

theorem advp_runs (h : s.goes (.advp ch n)) (hch : ch.toNat < b.outs.length) (hn : n.toNat ≤ (b.outChan ch.toNat).w) :
    Runs (.advp ch n) s [] (fun t => SameCells s t ∧ SameMemory s t ∧
      (∀ b', t.block? s.site = some b' → (b'.outChan ch.toNat).pp = (b.outChan ch.toNat).pp + BitVec.ofNat 32 n.toNat ∧
        (b'.outChan ch.toNat).w = (b.outChan ch.toNat).w - n.toNat ∧ (b'.outChan ch.toNat).advanced = true ∧ b'.ins = b.ins ∧
        ∀ k, k ≠ ch.toNat → b'.outChan k = b.outChan k) ∧
      t.chanMsgs = s.chanMsgs ++ (if (b.outChan ch.toNat).present then
        [⟨(b.outChan ch.toNat).cell, (b.outChan ch.toNat).ctx, (b.outChan ch.toNat).chan, true,
          (b.outChan ch.toNat).pp + BitVec.ofNat 32 n.toNat, s.cycle + max 1 (b.outChan ch.toNat).hops * s.pace⟩] else [])) := by
  obtain ⟨hcells, hmemory, -⟩ := (quiet_took s (.advp ch n)).besideChannels.updBlock s.site
    (fun b' => b'.updOut ch.toNat (fun _ => (b.outChan ch.toNat).advance n.toNat))
  have he := advp_eq hb h
  rw [if_neg (Nat.not_lt.mpr hn), sendPp_eq] at he
  refine runs_silent he ((issued_took _ s h.1).updBlock s.site (Block.besideSlots_updOut _ _)) rfl ⟨hcells, hmemory, fun b' hb' => ?_, rfl⟩
  have hins := block?_updBlock_took (fun _ => by rfl) Block.ins (fun _ _ _ => rfl) hb hb'
  have houts := block?_updBlock_took (fun _ => by rfl) Block.outs (fun _ _ _ => rfl) hb hb'
  have hchan := Block.outChan_congr houts
  rw [hchan, Block.outChan_updOut _ _ hch]
  exact ⟨rfl, rfl, rfl, hins, fun k hk => (hchan k).trans (b.outChan_updOut_ne _ hk)⟩

end Adv

end Sys2Proof.Machine

namespace Sys2Proof
open Sys2Proof.Machine

/-- Settles O30: RECV, PEEK and CHST emit what they read; SEND, ADVC and ADVP update the channels at their ends, or raise ADV_RANGE. -/
theorem channelResults : Obligations.ChannelResults := by
  unfold Obligations.ChannelResults
  exact ⟨fun ch n off c0 s b h hb => readChannel_runs h hb (exec_recv ch n off c0 s),
    fun ch n off c0 s b h hb => readChannel_runs h hb (exec_peek ch n off c0 s),
    fun _ _ _ _ => send_runs, fun _ _ _ _ h hb => advc_runs hb h, fun _ _ _ _ h hb => advc_faults hb h, fun _ _ _ _ h hb => advp_runs hb h,
    fun _ _ _ _ h hb => advp_faults hb h, fun _ _ _ _ => chst_runs_in, fun _ _ _ _ => chst_runs_out⟩

end Sys2Proof
end

section
/-! PROOFS. What the control ALU computes, over the integers (R140 to R150) -/

namespace Sys2Proof.Machine

theorem ofNat_toNat_self (w : Word) : BitVec.ofNat 32 w.toNat = w := by rw [BitVec.ofNat_toNat, BitVec.setWidth_eq]

/-! Immediates and results built from them (R140). -/

theorem zext15_eq (imm : BitVec 15) : zext15 imm = BitVec.ofNat 32 imm.toNat := (BitVec.ofNat_toNat ..).symm

theorem shlor_value (l : Word) (imm : BitVec 15) : (l <<< 15) ||| zext15 imm = BitVec.ofNat 32 (l.toNat * 2 ^ 15 + imm.toNat) := by
  apply BitVec.eq_of_toNat_eq
  have himm : imm.toNat < 2 ^ 15 := imm.isLt
  rw [zext15_eq, BitVec.toNat_or, BitVec.toNat_shiftLeft, BitVec.toNat_ofNat, BitVec.toNat_ofNat, ← Nat.or_mod_two_pow,
    ← Nat.shiftLeft_add_eq_or_of_lt himm, Nat.shiftLeft_eq]

/-! Sums and products (R141). -/

theorem add_value (l r : Word) : l + r = BitVec.ofNat 32 (l.toNat + r.toNat) := by simp [BitVec.ofNat_add]

theorem addi_value (l : Word) (imm : BitVec 15) : l + sext15 imm = BitVec.ofInt 32 (l.toInt + imm.toInt) := by
  rw [BitVec.ofInt_add, BitVec.ofInt_toInt]; rfl

theorem sub_value (l r : Word) : l - r = BitVec.ofInt 32 (l.toInt - r.toInt) := by
  rw [sub_eq_add_neg l.toInt, BitVec.ofInt_add, BitVec.ofInt_neg, BitVec.ofInt_toInt, BitVec.ofInt_toInt, BitVec.sub_eq_add_neg]

theorem neg_value (l : Word) : 0 - l = BitVec.ofInt 32 (-l.toInt) := by
  rw [BitVec.ofInt_neg, BitVec.ofInt_toInt]; exact zero_sub l

theorem mul_value (l r : Word) : l * r = BitVec.ofNat 32 (l.toNat * r.toNat) := by simp [BitVec.ofNat_mul]

theorem muli_value (l : Word) (imm : BitVec 15) : l * sext15 imm = BitVec.ofInt 32 (l.toInt * imm.toInt) := by
  rw [BitVec.ofInt_mul, BitVec.ofInt_toInt]; rfl

/-- The high word of a 64-bit number is its quotient by 2^32, modulo 2^32. -/
theorem extractHigh_ofInt (z : Int) : (BitVec.ofInt 64 z).extractLsb' 32 32 = BitVec.ofInt 32 (z / 2 ^ 32) := by
  apply BitVec.eq_of_toNat_eq
  rw [BitVec.extractLsb'_toNat, Nat.shiftRight_eq_div_pow, BitVec.toNat_ofInt, BitVec.toNat_ofInt]
  omega

theorem mulHigh_value (l r : Word) : mulHigh l r = BitVec.ofInt 32 (l.toInt * r.toInt / 2 ^ 32) := by
  rw [mulHigh, ← extractHigh_ofInt, BitVec.ofInt_mul]; rfl

theorem mulHighU_value (l r : Word) : mulHighU l r = BitVec.ofNat 32 (l.toNat * r.toNat / 2 ^ 32) := by
  have hprod : l.zeroExtend 64 * r.zeroExtend 64 = BitVec.ofInt 64 (l.toNat * r.toNat : Nat) := by
    rw [BitVec.ofInt_natCast, BitVec.ofNat_mul, BitVec.ofNat_toNat, BitVec.ofNat_toNat]
  rw [mulHighU, hprod, extractHigh_ofInt, ← BitVec.ofInt_natCast]
  norm_cast

/-! Shifts (R144). -/

theorem and_31_toNat (r : Word) : (r &&& 31).toNat = r.toNat % 32 := Nat.and_two_pow_sub_one_eq_mod r.toNat 5

theorem shl_value (l : Word) (k : Nat) : l <<< k = BitVec.ofNat 32 (l.toNat * 2 ^ k) := by
  apply BitVec.eq_of_toNat_eq
  rw [BitVec.toNat_shiftLeft, Nat.shiftLeft_eq, BitVec.toNat_ofNat]

theorem shr_value (l : Word) (k : Nat) : l >>> k = BitVec.ofNat 32 (l.toNat / 2 ^ k) := by
  rw [← Nat.shiftRight_eq_div_pow, ← BitVec.toNat_ushiftRight, ofNat_toNat_self]

theorem sar_value (l : Word) (k : Nat) : l.sshiftRight k = BitVec.ofInt 32 (l.toInt / 2 ^ k) := by
  rw [BitVec.sshiftRight, Int.shiftRight_eq_div_pow, Nat.cast_pow, Nat.cast_ofNat]

/-! Bits (R145). -/

/-- The leading zeros of a nonzero number below 2^n. -/
theorem clzFrom_value (w : Word) (hw : w.toNat ≠ 0) (n : Nat) (h : w.toNat < 2 ^ n) : clzFrom w n = n - 1 - Nat.log2 w.toNat := by
  induction n with
  | zero => exact absurd (Nat.lt_one_iff.mp h) hw
  | succ n ih =>
    rw [clzFrom]
    split_ifs with hbit
    · have hlog := (Nat.log2_eq_iff hw).mpr ⟨Nat.ge_two_pow_of_testBit hbit, h⟩
      omega
    · have hlt : w.toNat < 2 ^ n := Nat.lt_pow_two_of_testBit _ fun i hi => by
        rcases Nat.eq_or_lt_of_le hi with rfl | hi
        · exact Bool.eq_false_iff.mpr hbit
        · exact Nat.testBit_lt_two_pow (h.trans_le (Nat.pow_le_pow_right two_pos hi))
      have hlog := (Nat.log2_lt hw).mpr hlt
      rw [ih hlt]
      omega

theorem clz32_value (l : Word) : clz32 l = if l = 0 then 32 else BitVec.ofNat 32 (31 - Nat.log2 l.toNat) := by
  split_ifs with h
  · subst h; decide
  · rw [clz32, clzFrom_value l (fun h0 => h (BitVec.eq_of_toNat_eq h0)) 32 l.isLt]

theorem popcFrom_value (w : Word) (n : Nat) : popcFrom w n = ((List.range n).filter (fun k => w.getLsbD k)).length := by
  induction n with
  | zero => rfl
  | succ n ih =>
    rw [popcFrom, ih, List.range_succ, List.filter_append, List.length_append, Nat.add_comm]
    cases hbit : w.getLsbD n <;> simp [hbit]

/-- The low n bits of a word in the opposite order. -/
def lowReversed (w : Word) : Nat → Nat
  | 0 => 0
  | n + 1 => Nat.bit (w.getLsbD n) (lowReversed w n)

theorem lowReversed_testBit (w : Word) (n j : Nat) : (lowReversed w n).testBit j = (decide (j < n) && w.getLsbD (n - 1 - j)) := by
  induction n generalizing j with
  | zero => simp [lowReversed]
  | succ n ih =>
    cases j with
    | zero => simp [lowReversed]
    | succ j => rw [lowReversed, Nat.testBit_bit_succ, ih, Nat.add_sub_cancel, Nat.sub_sub, Nat.add_comm 1 j]; simp

theorem brevFrom_value (w : Word) (n : Nat) (h : n ≤ 32) : brevFrom w n = 2 ^ (32 - n) * lowReversed w n := by
  induction n with
  | zero => rfl
  | succ n ih =>
    rw [brevFrom, ih (by omega), lowReversed, Nat.bit_val, show 32 - n = (31 - n) + 1 by omega, show 32 - (n + 1) = 31 - n by omega, pow_succ]
    ring

theorem brev32_value (l : Word) : brev32 l = l.reverse := by
  apply BitVec.eq_of_getLsbD_eq
  intro i hi
  rw [brev32, brevFrom_value l 32 le_rfl, BitVec.getLsbD_reverse, BitVec.getMsbD, BitVec.getLsbD_ofNat, Nat.sub_self, pow_zero, one_mul,
    lowReversed_testBit]
  simp [hi]

/-! Fields (R146). -/

theorem lowMask_toNat {width : Nat} (h : width < 32) : (BitVec.ofNat 32 (2 ^ width - 1) : Word).toNat = 2 ^ width - 1 := by
  have := Nat.pow_lt_pow_right one_lt_two h
  rw [BitVec.toNat_ofNat, Nat.mod_eq_of_lt (by omega)]

theorem and_lowMask (f : Word) {width : Nat} (h : width < 32) : f &&& BitVec.ofNat 32 (2 ^ width - 1) = BitVec.ofNat 32 (f.toNat % 2 ^ width) := by
  apply BitVec.eq_of_toNat_eq
  rw [BitVec.toNat_and, lowMask_toNat h, Nat.and_two_pow_sub_one_eq_mod, BitVec.toNat_ofNat, Nat.mod_eq_of_lt ((Nat.mod_le _ _).trans_lt f.isLt)]

theorem testBit_top {n k : Nat} (h : n < 2 ^ (k + 1)) : n.testBit k = decide (2 ^ k ≤ n) := by
  by_cases hk : 2 ^ k ≤ n
  · rw [decide_eq_true hk, Nat.testBit_of_two_pow_le_and_two_pow_add_one_gt hk h]
  · rw [decide_eq_false hk, Nat.testBit_lt_two_pow (Nat.lt_of_not_le hk)]

/-- Ones above a field of a word subtract 2^width from it. -/
theorem and_or_not_lowMask (f : Word) {width : Nat} (h : width < 32) :
    (f &&& BitVec.ofNat 32 (2 ^ width - 1)) ||| ~~~(BitVec.ofNat 32 (2 ^ width - 1)) = BitVec.ofInt 32 ((f.toNat % 2 ^ width : Nat) - 2 ^ width) := by
  set m := BitVec.ofNat 32 (2 ^ width - 1) with hm
  have hdisjoint : (f &&& m) &&& ~~~m = 0#32 := by rw [BitVec.and_assoc, BitVec.and_not_self]; exact BitVec.and_zero
  have hmask : -m - 1#32 = BitVec.ofInt 32 (-2 ^ width) := by
    have hpow : 2 ^ width - 1 + 1 = 2 ^ width := Nat.sub_add_cancel Nat.one_le_two_pow
    rw [hm, ← BitVec.neg_add, ← BitVec.ofNat_add, hpow, BitVec.ofInt_neg, ← BitVec.ofInt_natCast, Nat.cast_pow, Nat.cast_ofNat]
  rw [← BitVec.add_eq_or_of_and_eq_zero _ _ hdisjoint, BitVec.not_eq_neg_add, hmask, hm, and_lowMask f h, sub_eq_add_neg, BitVec.ofInt_add,
    BitVec.ofInt_natCast]

theorem bitField_value (sx : Bool) (k low : Nat) (hk : k < 32) (l : Word) : bitField sx (k + 1) low l = fieldSpec sx (k + 1) low l := by
  have hfield : (l >>> low).toNat = l.toNat / 2 ^ low := by rw [BitVec.toNat_ushiftRight, Nat.shiftRight_eq_div_pow]
  have hlt : l.toNat / 2 ^ low % 2 ^ (k + 1) < 2 ^ (k + 1) := Nat.mod_lt _ (Nat.two_pow_pos _)
  rw [bitField, fieldSpec, Nat.add_sub_cancel]
  by_cases hw : k + 1 < 32
  · have hsign : (BitVec.ofNat 32 (l.toNat / 2 ^ low % 2 ^ (k + 1))).getLsbD k = decide (2 ^ k ≤ l.toNat / 2 ^ low % 2 ^ (k + 1)) := by
      rw [BitVec.getLsbD_ofNat, decide_eq_true hk, Bool.true_and, testBit_top hlt]
    have hg := and_lowMask (l >>> low) hw
    have hneg := and_or_not_lowMask (l >>> low) hw
    rw [hfield] at hg hneg
    rw [if_pos hw]
    exact if_congr (by simp [hg, hsign, hw]) hneg hg
  · obtain rfl : k = 31 := by omega
    rw [if_neg hw, if_neg (fun h => hw h.2.1), ← hfield, Nat.mod_eq_of_lt (l >>> low).isLt, ofNat_toNat_self]

/-! Comparisons (R147 to R150). -/

section Order
variable {α : Type} [LinearOrder α] {f : Word → α} {g : α → Word}

/-- The smaller of two words, in an order of the words read as numbers. -/
theorem ite_eq_min (hg : ∀ w, g (f w) = w) (l r : Word) : (if f r < f l then r else l) = g (min (f l) (f r)) := by
  split_ifs with h
  · rw [min_eq_right h.le, hg]
  · rw [min_eq_left (not_lt.mp h), hg]

theorem ite_eq_max (hg : ∀ w, g (f w) = w) (l r : Word) : (if f l < f r then r else l) = g (max (f l) (f r)) := by
  split_ifs with h
  · rw [max_eq_right h.le, hg]
  · rw [max_eq_left (not_lt.mp h), hg]

theorem not_decide_lt (a b : α) : (!decide (a < b)) = decide (b ≤ a) := by rw [← decide_not, decide_eq_decide, not_lt]

end Order

theorem min_value (l r : Word) : (if BitVec.slt r l then r else l) = BitVec.ofInt 32 (min l.toInt r.toInt) :=
  (if_congr BitVec.slt_iff_toInt_lt rfl rfl).trans (ite_eq_min (fun _ => BitVec.ofInt_toInt) l r)

theorem max_value (l r : Word) : (if BitVec.slt l r then r else l) = BitVec.ofInt 32 (max l.toInt r.toInt) :=
  (if_congr BitVec.slt_iff_toInt_lt rfl rfl).trans (ite_eq_max (fun _ => BitVec.ofInt_toInt) l r)

theorem minu_value (l r : Word) : (if BitVec.ult r l then r else l) = BitVec.ofNat 32 (min l.toNat r.toNat) :=
  (if_congr BitVec.ult_iff_lt rfl rfl).trans (ite_eq_min ofNat_toNat_self l r)

theorem maxu_value (l r : Word) : (if BitVec.ult l r then r else l) = BitVec.ofNat 32 (max l.toNat r.toNat) :=
  (if_congr BitVec.ult_iff_lt rfl rfl).trans (ite_eq_max ofNat_toNat_self l r)

theorem cmpWord_value (k : Cond) (l y : Word) : cmpWord k l y = condSpec k l y := by
  cases k with
  | eq => rfl
  | ne => exact (decide_not ..).symm
  | lt | gt => exact BitVec.slt_eq_decide
  | ge | le => rw [cmpWord, BitVec.slt_eq_decide, not_decide_lt, condSpec]
  | ltu => exact BitVec.ult_eq_decide
  | geu => rw [cmpWord, BitVec.ult_eq_decide, not_decide_lt, condSpec]

theorem cmpImm_value (k : Cond) (imm : BitVec 12) : cmpImm k imm = immSpec k imm := by
  cases k with
  | ltu | geu => exact (BitVec.ofNat_toNat ..).symm
  | eq | ne | lt | ge | le | gt => rfl

theorem truth_eq (w : Word) : truth w = decide (w ≠ 0) := (decide_not ..).symm

/-! Quotients and remainders (R142). -/

theorem divS_value (l r : Word) : divS l r = if r = 0 then 0xFFFFFFFF else BitVec.ofInt 32 (l.toInt.tdiv r.toInt) := by
  refine if_congr Iff.rfl rfl (BitVec.eq_of_toInt_eq ?_)
  rw [BitVec.toInt_sdiv, BitVec.toInt_ofInt]

theorem divU_value (l r : Word) : divU l r = if r = 0 then 0xFFFFFFFF else BitVec.ofNat 32 (l.toNat / r.toNat) := by
  refine if_congr Iff.rfl rfl ?_
  rw [← BitVec.toNat_udiv, ofNat_toNat_self]

theorem remS_value (l r : Word) : remS l r = if r = 0 then l else BitVec.ofInt 32 (l.toInt.tmod r.toInt) := by
  refine if_congr Iff.rfl rfl ?_
  rw [← BitVec.toInt_srem, BitVec.ofInt_toInt]

theorem remU_value (l r : Word) : remU l r = if r = 0 then l else BitVec.ofNat 32 (l.toNat % r.toNat) := by
  refine if_congr Iff.rfl rfl ?_
  rw [← BitVec.toNat_umod, ofNat_toNat_self]

end Sys2Proof.Machine
end

section
/-! PROOFS. O1 to O4: the instructions whose value the control ALU gives (R139 to R150) -/

namespace Sys2Proof.Machine

theorem runAlu_congr {i : Instr} {s : State} {f g : Word → Word → Word → Word} (h : ∀ l r p, f l r p = g l r p) : runAlu i s f = runAlu i s g :=
  congrArg (runAlu i s) (funext fun l => funext fun r => funext fun p => h l r p)

/-- An instruction of the control ALU runs, emits its value on every consumer slot, and changes nothing else. -/
theorem runs_quiet_of_runAlu {i : Instr} {s : State} {f : Word → Word → Word → Word} (he : exec i s = runAlu i s f) (h : s.goes i) :
    Runs i s (outs i ⟨f (s.lval i) (s.rval i) (s.pval i), s.omark i⟩) (Quiet s) :=
  runAlu_runs he h _ fun _ => quiet_runAlu he h

/-! The control ALU gives the values that the rules state. -/

theorem exec_of_buildSpec {i : Instr} {f : Word → Word} (hf : buildSpec i = some f) (s : State) : exec i s = runAlu i s (fun l _ _ => f l) := by
  cases i <;> cases hf
  case mov.refl => exact exec_mov ..
  case const.refl => exact exec_const ..
  case shlor.refl imm _ => exact (exec_shlor ..).trans (runAlu_congr fun l _ _ => shlor_value l imm)

theorem exec_of_arithSpec {i : Instr} {f : Word → Word → Word} (hf : arithSpec i = some f) (s : State) :
    exec i s = runAlu i s (fun l r _ => f l r) := by
  cases i <;> cases hf
  case add.refl => exact (exec_add ..).trans (runAlu_congr fun l r _ => add_value l r)
  case addi.refl imm _ => exact (exec_addi ..).trans (runAlu_congr fun l _ _ => addi_value l imm)
  case sub.refl => exact (exec_sub ..).trans (runAlu_congr fun l r _ => sub_value l r)
  case neg.refl => exact (exec_neg ..).trans (runAlu_congr fun l _ _ => neg_value l)
  case mul.refl => exact (exec_mul ..).trans (runAlu_congr fun l r _ => mul_value l r)
  case mulh.refl => exact (exec_mulh ..).trans (runAlu_congr fun l r _ => mulHigh_value l r)
  case mulhu.refl => exact (exec_mulhu ..).trans (runAlu_congr fun l r _ => mulHighU_value l r)
  case muli.refl imm _ => exact (exec_muli ..).trans (runAlu_congr fun l _ _ => muli_value l imm)

theorem exec_of_logicSpec {i : Instr} {f : Word → Word → Word} (hf : logicSpec i = some f) (s : State) :
    exec i s = runAlu i s (fun l r _ => f l r) := by
  cases i <;> cases hf
  case and.refl => exact exec_and ..
  case andi.refl => exact exec_andi ..
  case or.refl => exact exec_or ..
  case ori.refl => exact exec_ori ..
  case xor.refl => exact exec_xor ..
  case xori.refl => exact exec_xori ..
  case shl.refl => exact (exec_shl ..).trans (runAlu_congr fun l r _ => (shl_value l (r &&& 31).toNat).trans (by rw [and_31_toNat]))
  case shli.refl sh _ => exact (exec_shli ..).trans (runAlu_congr fun l _ _ => shl_value l sh.toNat)
  case shr.refl => exact (exec_shr ..).trans (runAlu_congr fun l r _ => (shr_value l (r &&& 31).toNat).trans (by rw [and_31_toNat]))
  case shri.refl sh _ => exact (exec_shri ..).trans (runAlu_congr fun l _ _ => shr_value l sh.toNat)
  case sar.refl => exact (exec_sar ..).trans (runAlu_congr fun l r _ => (sar_value l (r &&& 31).toNat).trans (by rw [and_31_toNat]))
  case sari.refl sh _ => exact (exec_sari ..).trans (runAlu_congr fun l _ _ => sar_value l sh.toNat)

theorem exec_of_bitsSpec {i : Instr} {f : Word → Word} (hf : bitsSpec i = some f) (s : State) : exec i s = runAlu i s (fun l _ _ => f l) := by
  cases i <;> cases hf
  case clz.refl => exact (exec_clz ..).trans (runAlu_congr fun l _ _ => clz32_value l)
  case popc.refl => exact (exec_popc ..).trans (runAlu_congr fun l _ _ => congrArg (BitVec.ofNat 32) (popcFrom_value l 32))
  case brev.refl => exact (exec_brev ..).trans (runAlu_congr fun l _ _ => brev32_value l)

theorem exec_bfx_fieldSpec (sx : Bool) (wm1 low : BitVec 5) (c0 : Consumer) (s : State) :
    exec (.bfx sx wm1 low c0) s = runAlu (.bfx sx wm1 low c0) s (fun l _ _ => fieldSpec sx (wm1.toNat + 1) low.toNat l) :=
  (exec_bfx ..).trans (runAlu_congr fun l _ _ => bitField_value sx wm1.toNat low.toNat wm1.isLt l)

theorem exec_of_chooseSpec {i : Instr} {f : Word → Word → Word → Word} (hf : chooseSpec i = some f) (s : State) : exec i s = runAlu i s f := by
  cases i <;> cases hf
  case min.refl => exact (exec_min ..).trans (runAlu_congr fun l r _ => min_value l r)
  case max.refl => exact (exec_max ..).trans (runAlu_congr fun l r _ => max_value l r)
  case minu.refl => exact (exec_minu ..).trans (runAlu_congr fun l r _ => minu_value l r)
  case maxu.refl => exact (exec_maxu ..).trans (runAlu_congr fun l r _ => maxu_value l r)
  case cmp.refl k _ _ => exact (exec_cmp ..).trans (runAlu_congr fun l r _ => congrArg flag (cmpWord_value k l r))
  case cmpi.refl k imm _ =>
    exact (exec_cmpi ..).trans (runAlu_congr fun l _ _ => congrArg flag (by rw [cmpWord_value, cmpImm_value]))
  case sel.refl => exact (exec_sel ..).trans (runAlu_congr fun l r p => by simp only [truth_eq, decide_eq_true_eq, ite_not])
  case test.refl => exact (exec_test ..).trans (runAlu_congr fun l r _ => congrArg flag (truth_eq _))
  case pand.refl => exact (exec_pand ..).trans (runAlu_congr fun l r _ => congrArg flag (by rw [truth_eq, truth_eq, Bool.decide_and]))
  case por.refl => exact (exec_por ..).trans (runAlu_congr fun l r _ => congrArg flag (by rw [truth_eq, truth_eq, Bool.decide_or]))
  case pxor.refl => exact (exec_pxor ..).trans (runAlu_congr fun l r _ => congrArg flag (by simp [truth_eq]))
  case pnot.refl => exact (exec_pnot ..).trans (runAlu_congr fun l _ _ => congrArg flag (by simp [truth_eq]))

end Sys2Proof.Machine

namespace Sys2Proof
open Sys2Proof.Machine

/-- Settles O1: the control ALU gives the value of R140, and an instruction of the control ALU changes nothing beside what it emits. -/
theorem buildResults : Obligations.BuildResults := by
  unfold Obligations.BuildResults
  exact fun i s f hf => runs_quiet_of_runAlu (exec_of_buildSpec hf s)

/-- Settles O2: the control ALU gives the wrapped value of R141. -/
theorem arithmeticResults : Obligations.ArithmeticResults := by
  unfold Obligations.ArithmeticResults
  exact fun i s f hf => runs_quiet_of_runAlu (exec_of_arithSpec hf s)

/-- Settles O3: the control ALU gives the values of R144 to R146. -/
theorem logicBitResults : Obligations.LogicBitResults := by
  unfold Obligations.LogicBitResults
  exact ⟨fun i s f hf => runs_quiet_of_runAlu (exec_of_logicSpec hf s), fun i s f hf => runs_quiet_of_runAlu (exec_of_bitsSpec hf s),
    fun sx wm1 low c0 s => runs_quiet_of_runAlu (exec_bfx_fieldSpec sx wm1 low c0 s)⟩

/-- Settles O4: the control ALU gives the values of R147 to R150. -/
theorem chooseResults : Obligations.ChooseResults := by
  unfold Obligations.ChooseResults
  exact fun i s f hf => runs_quiet_of_runAlu (exec_of_chooseSpec hf s)

end Sys2Proof
end

section
/-! PROOFS. O8: what control-plane instructions leave as it was (R139) -/

namespace Sys2Proof.Machine

theorem Quiet.trans {s u t : State} (h : Quiet s u) (h' : Quiet u t) : Quiet s t := by
  obtain ⟨hmem, hchannels, hdevice⟩ := h.besideCells.trans_quiet h'
  exact ⟨Eq.trans h'.sameCells h.sameCells, hchannels, hmem, hdevice⟩

theorem IssuesQuietly.quiet {i : Instr} {s t : State} (h : IssuesQuietly i s) (ht : exec i s = .next t) : Quiet s t := by
  cases hready : s.ready s.site i with
  | false =>
    cases (h.stays hready).symm.trans ht
    exact quiet_refl s
  | true =>
    obtain ⟨-, e, he, heffect⟩ := h
    rw [he, issueCtl, hready, if_pos rfl] at ht
    cases ht
    exact (quiet_took s i).trans (heffect _ _).1

end Sys2Proof.Machine

namespace Sys2Proof
open Sys2Proof.Machine

/-- Settles O8: the effect of every control-plane instruction, and the bookkeeping of its issue, are quiet. -/
theorem controlPlaneTouchesNothing : Obligations.ControlPlaneTouchesNothing := by
  unfold Obligations.ControlPlaneTouchesNothing
  exact fun i s t hlo hhi => (controlPlane_issuesQuietly hlo hhi s).quiet

end Sys2Proof
end

section
/-! PROOFS. O5: STEER, MERGE, GATE and DROP (R138, R151 to R153) -/

namespace Sys2Proof.Machine

/-! Discarded tokens (R138). -/

/-- The cell of an instruction that has discarded a token: POISON_DISC counts a marked one. -/
def Cell.discard (k : Option Tok) (c : Cell) : Cell := if (tokMark k).isSome then c.count 3 1 else c

theorem discardTok_eq (s : State) (k : Option Tok) : discardTok s k = s.updCell s.site.cell (Cell.discard k) := by
  unfold discardTok Cell.discard
  cases tokMark k with
  | none => simp [State.updCell]
  | some _ => rfl

theorem Cell.besideBlocks_discard (k : Option Tok) : Cell.BesideBlocks (Cell.discard k) := fun c => by
  unfold Cell.discard
  split_ifs
  · exact ⟨c.count_num .., c.count_blocks .., c.count_pes .., c.count_divider .., c.count_parity ..⟩
  · exact ⟨rfl, rfl, rfl, rfl, rfl⟩

theorem Cell.discard_held (k : Option Tok) (c : Cell) : (c.discard k).held = c.held := by
  unfold Cell.discard
  split_ifs
  · exact c.count_held ..
  · rfl

theorem Cell.discard_counter (k : Option Tok) (c : Cell) : (c.discard k).counter 3 = c.counter 3 + (if (tokMark k).isSome then 1 else 0) := by
  unfold Cell.discard
  split_ifs
  · exact c.counter_count_self ..
  · exact (BitVec.add_zero _).symm

/-- Nothing has changed but tokens, counters and energy, and the cell of the site has counted the l token of an instruction where it is marked. -/
def QuietDiscard (i : Instr) (s t : State) : Prop :=
  Quiet s t ∧ ∀ c, s.cell? s.site.cell = some c → ∀ c', t.cell? s.site.cell = some c' →
    c'.counter 3 = c.counter 3 + (if (tokMark (s.opnds s.site i).l).isSome then 1 else 0)

/-- An instruction that issues and discards its l token. -/
theorem runs_of_discard {i : Instr} {s : State} (h : s.goes i) (he : exec i s = .next (discardTok (s.took s.site i) (s.opnds s.site i).l)) :
    Runs i s [] (QuietDiscard i s) := by
  have hbeside := Cell.besideBlocks_discard (s.opnds s.site i).l
  refine runs_of_updCell_emits h hbeside [] _ (he.trans (by rw [discardTok_eq]; rfl)) ⟨?_, fun c hc c' hc' => ?_⟩
  · exact quiet_updCell (quiet_took s i) _ _ (Cell.discard_held _) hbeside.channels
  · rw [cell?_updCell_emits hbeside [] (Cell.counter · 3) (fun _ _ _ _ => rfl) hc hc', Cell.discard_counter, Cell.counter_tookAt _ _ _ _ (by decide)]

/-! STEER, GATE and DROP (R151, R153). -/

theorem steer_runs {c1 c0 : Consumer} {s : State} (h : s.goes (.steer c1 c0)) :
    Runs (.steer c1 c0) s [(if s.pval (.steer c1 c0) = 0 then c1 else c0, ⟨s.lval (.steer c1 c0), s.omark (.steer c1 c0)⟩)] (Quiet s) := by
  have hside : (if s.pval (.steer c1 c0) = 0 then c1 else c0) = if truth (s.pval (.steer c1 c0)) then c0 else c1 := by simp [truth_eq]
  rw [hside]
  exact runs_quiet_of_emits h _ (by rw [exec_steer, execSteer, issueCtl_goes h]; rfl)

section Gate
variable {want : Bool} {c1 c0 : Consumer} {s : State}

theorem gate_eq (h : s.goes (.gate want c1 c0)) : exec (.gate want c1 c0) s = .next (
    if decide (s.pval (.gate want c1 c0) ≠ 0) = want then
      (s.took s.site (.gate want c1 c0)).emits s.site (outs (.gate want c1 c0) ⟨s.lval (.gate want c1 c0), s.omark (.gate want c1 c0)⟩)
    else discardTok (s.took s.site (.gate want c1 c0)) (s.opnds s.site (.gate want c1 c0)).l) := by
  rw [exec_gate, execGate, issueCtl_goes h, ← truth_eq]
  exact congrArg Host.Outcome.next (if_congr beq_iff_eq rfl rfl)

theorem gate_runs_pass (h : s.goes (.gate want c1 c0)) (hp : decide (s.pval (.gate want c1 c0) ≠ 0) = want) :
    Runs (.gate want c1 c0) s (outs (.gate want c1 c0) ⟨s.lval (.gate want c1 c0), s.omark (.gate want c1 c0)⟩) (Quiet s) :=
  runs_quiet_of_emits h _ (by rw [gate_eq h, if_pos hp])

theorem gate_runs_discard (h : s.goes (.gate want c1 c0)) (hp : decide (s.pval (.gate want c1 c0) ≠ 0) ≠ want) :
    Runs (.gate want c1 c0) s [] (QuietDiscard (.gate want c1 c0) s) :=
  runs_of_discard h (by rw [gate_eq h, if_neg hp])

end Gate

theorem drop_runs {s : State} (h : s.goes .drop) : Runs .drop s [] (QuietDiscard .drop s) :=
  runs_of_discard h (by rw [exec_drop, execDrop, issueCtl_goes h])

/-! MERGE (R152). -/

section Merge
variable {c1 c0 : Consumer} {p : Tok}

theorem needsOf_merge {b : Block} {n : Nat} {sl : Slot} (hp : sl.head .p = some p) :
    needsOf (.merge c1 c0) b n sl = [(.p, 1), (if p.v = 0 then .r else .l, 1)] := by
  simp only [needsOf, hp, truth_eq, decide_eq_true_eq, ite_not]
  split_ifs <;> rfl

theorem consumesOf_merge {b : Block} {n : Nat} {sl : Slot} (hp : sl.head .p = some p) :
    consumesOf (.merge c1 c0) b n sl = [(.p, 1), (if p.v = 0 then .r else .l, 1)] :=
  show needsOf (.merge c1 c0) b n sl = _ from needsOf_merge hp

variable {s : State} {x : Tok}

theorem opnds_merge {b : Block} (hb : s.block? s.site = some b) (hp : (s.slot s.site).head .p = some p)
    (hx : (s.slot s.site).head (if p.v = 0 then .r else .l) = some x) :
    s.opnds s.site (.merge c1 c0) = if p.v = 0 then ⟨none, some x, some p, none⟩ else ⟨some x, none, some p, none⟩ := by
  have hslot : s.slot s.site = b.slot s.site.index := by rw [State.slot, hb]
  rw [hslot] at hp hx
  simp only [State.opnds, hb, needsOf_merge hp]
  split_ifs at hx ⊢ <;> simp [Slot.opnds, Slot.opnd, hp, hx]

/-- MERGE's token is the selected one, marked as it is or else as the predicate is. -/
theorem merge_token {b : Block} (hb : s.block? s.site = some b) (hp : (s.slot s.site).head .p = some p)
    (hx : (s.slot s.site).head (if p.v = 0 then .r else .l) = some x) :
    (⟨if truth (s.pval (.merge c1 c0)) then s.lval (.merge c1 c0) else s.rval (.merge c1 c0), s.omark (.merge c1 c0)⟩ : Tok) =
      ⟨x.v, x.mark.or p.mark⟩ := by
  have hopnds := opnds_merge (c1 := c1) (c0 := c0) hb hp hx
  by_cases h0 : p.v = 0
  · have hfalse : truth p.v = false := by rw [truth_eq, decide_eq_false (not_not.mpr h0)]
    rw [if_pos h0] at hopnds
    simp [State.rval, State.pval, State.omark, hopnds, tokVal, tokMark, Opnds.mark, hfalse]
  · have htrue : truth p.v = true := by rw [truth_eq, decide_eq_true h0]
    rw [if_neg h0] at hopnds
    simp [State.lval, State.pval, State.omark, hopnds, tokVal, tokMark, Opnds.mark, htrue]

theorem merge_runs (h : s.goes (.merge c1 c0)) (hp : (s.slot s.site).head .p = some p)
    (hx : (s.slot s.site).head (if p.v = 0 then .r else .l) = some x) :
    Runs (.merge c1 c0) s [(c0, ⟨x.v, x.mark.or p.mark⟩), (c1, ⟨x.v, x.mark.or p.mark⟩)] (fun t => Quiet s t ∧
      ((t.slot s.site).field (if p.v = 0 then .l else .r)).toks = ((s.slot s.site).field (if p.v = 0 then .l else .r)).toks ∧
      ((t.slot s.site).field (if p.v = 0 then .r else .l)).toks = (((s.slot s.site).field (if p.v = 0 then .r else .l)).toks).tail) := by
  obtain ⟨c, b, hc, hb, -⟩ := s.placed_iff.mp h.1
  have hblock : s.block? s.site = some b := by rw [State.block?, hc]; exact hb
  obtain ⟨t, ht, hissued, hflight, hquiet⟩ := runs_quiet_of_runAlu (exec_merge c1 c0 s) h
  rw [merge_token hblock hp hx] at hflight
  have htaken := hissued.1 b hblock
  rw [consumesOf_merge hp] at htaken
  refine ⟨t, ht, hissued, hflight, hquiet, ?_, ?_⟩
  · rw [htaken]
    split_ifs <;> rfl
  · rw [htaken, ← List.drop_one]
    split_ifs <;> rfl

end Merge

end Sys2Proof.Machine

namespace Sys2Proof
open Sys2Proof.Machine

/-- Settles O5: STEER and GATE go by the truth of p, MERGE takes the field that p selects, and a discarded token with a mark is counted. -/
theorem pathResults : Obligations.PathResults := by
  unfold Obligations.PathResults
  exact ⟨fun _ _ _ => steer_runs, fun _ _ _ _ _ => merge_runs, fun _ _ _ _ => gate_runs_pass, fun _ _ _ _ => gate_runs_discard, fun _ => drop_runs⟩

end Sys2Proof
end

section
/-! PROOFS. O7: divisions (R137, R142, R143) -/

namespace Sys2Proof.Machine

/-! A change of a PE. -/

theorem State.slot_updCell (s : State) (n : Nat) (u : Site) {f : Cell → Cell} (hnum : ∀ c, (f c).num = c.num)
    (hblocks : ∀ c, (f c).blocks = c.blocks) : (s.updCell n f).slot u = s.slot u := by
  have hblock := State.block?_map_congr (P := id)
    (s.cell?_updCell_map n u.cell f hnum (fun c => (c.block? u.ctx).map id) fun c => by rw [Cell.block?, hblocks, Cell.block?])
  rw [Option.map_id, id_eq, id_eq] at hblock
  rw [State.slot, hblock, State.slot]

theorem Issued.updPe {i : Instr} {s u : State} (h : Issued i s u) (n k : Nat) {f : Pe → Pe} (hf : ∀ p, (f p).issuedAt = p.issuedAt) :
    Issued i s (u.updCell n (fun c => c.updPe k f)) := by
  obtain ⟨htoks, hpe, hdone, hat⟩ := h
  have hslot := u.slot_updCell n s.site (f := fun c => c.updPe k f) (fun _ => rfl) fun _ => rfl
  refine ⟨fun b hb g => by rw [hslot, htoks b hb], fun c' hc' => ?_, by rw [hslot, hdone], by rw [hslot, hat]⟩
  have halus := u.cell?_updCell_map n s.site.cell (fun c => c.updPe k f) (fun _ => rfl) Cell.alus fun c => c.alus_updPe k hf
  rw [hc'] at halus
  obtain ⟨c, hc, hcalus⟩ := Option.map_eq_some_iff.mp halus.symm
  rw [Cell.pe_issuedAt, ← hcalus, ← Cell.pe_issuedAt, hpe c hc]

theorem flights_updPe (s : State) (n k : Nat) (f : Pe → Pe) (t : Site) (l : List (Consumer × Tok)) :
    (s.updCell n (fun c => c.updPe k f)).flights t l = s.flights t l :=
  s.flights_congr (s.updCell n (fun c => c.updPe k f)) t l rfl
    (s.cell?_updCell_map n t.cell (fun c => c.updPe k f) (fun _ => rfl) _ fun _ => rfl)

/-- The PE of a cell after its change. -/
theorem pe_updCell_updPe {s : State} {n k : Nat} {c c' : Cell} (hc : s.cell? n = some c) (hk : k < c.pes.length) {f : Pe → Pe}
    (hc' : (s.updCell n (fun c => c.updPe k f)).cell? n = some c') : c'.pe k = f (c.pe k) := by
  rw [s.cell?_updCell_self n (fun c => c.updPe k f) fun _ => rfl, hc] at hc'
  cases hc'
  rw [c.pe_updPe k k f hk, if_pos rfl]

theorem Cell.tookAt_pes_length (c : Cell) (now : Nat) (t : Site) (i : Instr) : (c.tookAt now t i).pes.length = c.pes.length := by
  rw [Cell.tookAt, Cell.count_pes, Cell.updPe, List.length_set, Cell.updBlock_pes]

/-! The start of a division (R137). -/

/-- A PE with a division in course. -/
def Pe.divide (d : Division) (p : Pe) : Pe := { p with division := some d }

/-- The state in which a division has issued: its tokens taken, the entries of its result reserved, and the ALU of its PE in use. -/
def State.divides (s : State) (i : Instr) (tok : Tok) : State :=
  ((s.took s.site i).reserveAll s.site (i.consumers.map (fun c => (c, 1)))).updCell s.site.cell
    (fun c => c.updPe s.site.pe (Pe.divide ⟨s.site, tok, 33⟩))

theorem divides_division {i : Instr} {s : State} (h : s.placed = true) (tok : Tok) {c' : Cell} (hc' : (s.divides i tok).cell? s.site.cell = some c') :
    (c'.pe s.site.pe).division = some ⟨s.site, tok, 33⟩ := by
  obtain ⟨c, -, hc, -, -, hpe⟩ := s.placed_iff.mp h
  have hlength : (((s.took s.site i).reserveAll s.site (i.consumers.map (fun c => (c, 1)))).cell? s.site.cell).map (fun c => c.pes.length) =
      some c.pes.length := by
    rw [State.reserveAll, State.updBlock_cell? _ _ _ _ _ fun _ => rfl, s.took_cell_map _ _ _ _ fun c => c.tookAt_pes_length .., hc, Option.map_some]
  obtain ⟨d, hd, hdlength⟩ := Option.map_eq_some_iff.mp hlength
  exact congrArg Pe.division (pe_updCell_updPe hd (hdlength.symm ▸ hpe) hc')

theorem startDivision_runs {i : Instr} {s : State} {f : Word → Word → Word} (he : exec i s = startDivision i s f) (h : s.goes i) :
    Runs i s [] (fun t => Quiet s t ∧ ∀ c, t.cell? s.site.cell = some c →
      (c.pe s.site.pe).division = some ⟨s.site, ⟨f (s.lval i) (s.rval i), s.omark i⟩, 33⟩) := by
  refine runs_silent (t := s.divides i ⟨f (s.lval i) (s.rval i), s.omark i⟩) ?_ ?_ rfl ⟨?_, fun c => divides_division h.1 _⟩
  · rw [he, startDivision, issueCtl_goes h]
    rfl
  · exact ((issued_took i s h.1).of_face (sameFace_reserveAll ..)).updPe _ _ fun _ => rfl
  · exact quiet_updPe (quiet_reserveAll (quiet_took s i) _ _) _ _ _ (fun _ => rfl) fun _ => rfl

/-- A division computes the value of R142. -/
theorem exec_of_divideSpec {i : Instr} {f : Word → Word → Word} (hf : divideSpec i = some f) (s : State) : exec i s = startDivision i s f := by
  have hcongr : ∀ {g f : Word → Word → Word}, (∀ l r, g l r = f l r) → startDivision i s g = startDivision i s f :=
    fun h => congrArg (startDivision i s) (funext fun l => funext fun r => h l r)
  cases i <;> cases hf
  case div.refl => exact (exec_div ..).trans (hcongr divS_value)
  case divu.refl => exact (exec_divu ..).trans (hcongr divU_value)
  case rem.refl => exact (exec_rem ..).trans (hcongr remS_value)
  case remu.refl => exact (exec_remu ..).trans (hcongr remU_value)

/-! The bench cycles of a division (R137, R143). -/

/-- A PE whose division has come to its end in this cycle. -/
def Pe.finish (now : Nat) (p : Pe) : Pe := { p with division := none, issuedAt := some now }

/-- Sending one token to each of a list of consumer slots, their entries reserved. -/
def State.sendEach (s : State) (t : Site) (cs : List Consumer) (tok : Tok) : State := cs.foldl (fun u c => u.send t c tok 0) s

theorem State.sendEach_cell? (s : State) (t : Site) (cs : List Consumer) (tok : Tok) (n : Nat) : (s.sendEach t cs tok).cell? n = s.cell? n := by
  induction cs generalizing s with
  | nil => rfl
  | cons c cs ih => exact (ih _).trans (s.cell?_send ..)

theorem State.sendEach_flight (s : State) (t : Site) (cs : List Consumer) (tok : Tok) :
    (s.sendEach t cs tok).flight = s.flight ++ s.flights t (cs.map (fun c => (c, tok))) := by
  induction cs generalizing s with
  | nil => exact ((congrArg _ (s.flights_nil t)).trans (List.append_nil _)).symm
  | cons c cs ih =>
    have hflights := State.flights_congr s (s.send t c tok 0) t (cs.map (fun c => (c, tok))) (send_cycle ..) (by rw [State.cell?_send])
    calc (s.sendEach t (c :: cs) tok).flight
      _ = (s.send t c tok 0).flight ++ (s.send t c tok 0).flights t (cs.map (fun c => (c, tok))) := ih _
      _ = s.flight ++ (s.flights t [(c, tok)] ++ s.flights t (cs.map (fun c => (c, tok)))) := by rw [hflights, s.send_flight, List.append_assoc]
      _ = s.flight ++ s.flights t ((c :: cs).map (fun c => (c, tok))) := by rw [← s.flights_append]; rfl

theorem quiet_sendEach {s u : State} (h : Quiet s u) (t : Site) (cs : List Consumer) (tok : Tok) : Quiet s (u.sendEach t cs tok) := by
  induction cs generalizing u with
  | nil => exact h
  | cons c cs ih => exact ih (quiet_send h t c tok 0)

section Completion
variable {s : State} {cell pe : Nat} {c : Cell} {d : Division}

theorem divideComplete_counts (hc : s.cell? cell = some c) (hd : (c.pe pe).division = some d) (hpe : pe < c.pes.length)
    (hacts : s.benchActs c = true) (hleft : 1 < d.left) :
    ∃ t c', exec (.divideComplete cell pe) s = .next t ∧ t.flight = s.flight ∧ Quiet s t ∧ t.cell? cell = some c' ∧
      (c'.pe pe).division = some { d with left := d.left - 1 } := by
  have he : exec (.divideComplete cell pe) s = .next (s.updCell cell (fun c => c.updPe pe (Pe.divide { d with left := d.left - 1 }))) := by
    rw [exec_divideComplete, execDivideComplete]
    simp only [hc, hd, hacts, Bool.not_true, Bool.false_eq_true, if_false, if_neg (Nat.not_le_of_lt hleft)]
    rfl
  have hcell := (s.cell?_updCell_self cell (fun c => c.updPe pe (Pe.divide { d with left := d.left - 1 })) fun _ => rfl).trans
    (congrArg _ hc)
  exact ⟨_, _, he, rfl, quiet_updPe (quiet_refl s) _ _ _ (fun _ => rfl) (fun _ => rfl), hcell, congrArg Pe.division (pe_updCell_updPe hc hpe hcell)⟩

theorem divideComplete_emits {b : Block} {i : Instr} (hc : s.cell? cell = some c) (hd : (c.pe pe).division = some d) (hpe : pe < c.pes.length)
    (hb : c.block? d.site.ctx = some b) (hi : b.instr? d.site.index = some i) (hacts : s.benchActs c = true) (hleft : d.left ≤ 1) :
    ∃ t, exec (.divideComplete cell pe) s = .next t ∧ t.flight = s.flight ++ s.flights d.site (outs i d.tok) ∧ Quiet s t ∧
      ∀ c', t.cell? cell = some c' → (c'.pe pe).division = none := by
  have he : exec (.divideComplete cell pe) s =
      .next ((s.updCell cell (fun c => c.updPe pe (Pe.finish s.cycle))).sendEach d.site i.consumers d.tok) := by
    rw [exec_divideComplete, execDivideComplete]
    simp only [hc, hd, hacts, Bool.not_true, Bool.false_eq_true, if_false, if_pos hleft, Option.bind_some, hb, hi]
    rfl
  refine ⟨_, he, ?_, quiet_sendEach ?_ _ _ _, fun c' hc' => ?_⟩
  · rw [State.sendEach_flight]
    exact congrArg (s.flight ++ ·) (flights_updPe ..)
  · exact quiet_updPe (quiet_refl s) _ _ _ (fun _ => rfl) fun _ => rfl
  · rw [State.sendEach_cell?] at hc'
    exact congrArg Pe.division (pe_updCell_updPe hc hpe hc')

end Completion

end Sys2Proof.Machine

namespace Sys2Proof
open Sys2Proof.Machine

/-- Settles O7: a division starts with 33 bench cycles to come, and DIVIDE_COMPLETE counts one of them or emits the result. -/
theorem divisionResults : Obligations.DivisionResults := by
  unfold Obligations.DivisionResults
  exact ⟨fun i s f hf => startDivision_runs (exec_of_divideSpec hf s), fun _ _ _ _ _ => divideComplete_counts,
    fun _ _ _ _ _ _ _ hc hd hpe _ => divideComplete_emits hc hd hpe⟩

end Sys2Proof
end

section
/-! PROOFS. O58: what reset leaves (R175, R346) -/

namespace Sys2Proof
open Sys2Proof.Machine

/-- Settles O58: each list that reset empties answers the value of an entry that is not listed, and the rest is the record of reset. -/
theorem resetState : Obligations.ResetState :=
  ⟨rfl, rfl, fun _ => rfl, fun _ => rfl, rfl, rfl, rfl, rfl, fun _ => rfl, rfl, rfl, rfl, rfl⟩

end Sys2Proof
end

section
/-! PROOFS. O12: accesses of one register in one cycle (R163, R164) -/

namespace Sys2Proof.Machine

/-! The copy of the value that a register held before the cycle. -/

section Timed
variable {α : Type} {r : Timed α} {now : Nat}

theorem Timed.touch_of_current (h : r.at? = some now) : r.touch now = r := if_pos h

theorem Timed.touch_of_stale (h : r.at? ≠ some now) : r.touch now = ⟨r.now, r.now, some now, 0, none⟩ := if_neg h

theorem Timed.view_of_stale (h : r.at? ≠ some now) : r.view now = r.now := if_neg h

@[simp] theorem Timed.view_current (n w : α) (now h : Nat) (wr : Option Nat) : (⟨n, w, some now, h, wr⟩ : Timed α).view now = w := if_pos rfl

/-- A register once an access of the cycle has brought its copy up to date. -/
theorem Timed.touch_current (r : Timed α) (now : Nat) : ∃ n w h wr, r.touch now = ⟨n, w, some now, h, wr⟩ ∧ r.view now = w := by
  by_cases h : r.at? = some now
  · refine ⟨r.now, r.was, r.hint, r.writer, ?_, if_pos h⟩
    rw [Timed.touch_of_current h, ← h]
  · exact ⟨r.now, r.now, 0, none, Timed.touch_of_stale h, Timed.view_of_stale h⟩

/-- The strongest hint of a rank (R164). -/
def hintOfRank (k : Nat) : Hint := if k = 3 then .last else if k = 2 then .far else .none

theorem Timed.touch_touch (r : Timed α) (now : Nat) : (r.touch now).touch now = r.touch now := by
  obtain ⟨n, w, h, wr, hr, -⟩ := r.touch_current now
  rw [hr, Timed.touch_of_current rfl]

theorem Timed.write_touch (r : Timed α) (now a : Nat) (x : α) : (r.touch now).write now a x = r.write now a x := by
  unfold Timed.write
  rw [Timed.touch_touch]

theorem Timed.readMark_touch (r : Timed α) (now : Nat) (h : Hint) (mark : Hint → α → α) :
    (r.touch now).readMark now h mark = r.readMark now h mark := by
  unfold Timed.readMark
  rw [Timed.touch_touch]

@[simp] theorem Timed.write_unwritten (n w : α) (now h a : Nat) (x : α) :
    (⟨n, w, some now, h, none⟩ : Timed α).write now a x = ⟨x, w, some now, h, some a⟩ := by simp [Timed.write, Timed.touch]

@[simp] theorem Timed.write_written (n w : α) (now h k a : Nat) (x : α) :
    (⟨n, w, some now, h, some k⟩ : Timed α).write now a x = if k ≤ a then ⟨x, w, some now, h, some a⟩ else ⟨n, w, some now, h, some k⟩ := by
  simp [Timed.write, Timed.touch]

@[simp] theorem Timed.readMark_unwritten (n w : α) (now h : Nat) (i : Hint) (mark : Hint → α → α) :
    (⟨n, w, some now, h, none⟩ : Timed α).readMark now i mark =
      ⟨mark (hintOfRank (max h (hintRank i))) w, w, some now, max h (hintRank i), none⟩ := by simp [Timed.readMark, Timed.touch, hintOfRank]

@[simp] theorem Timed.readMark_written (n w : α) (now h k : Nat) (i : Hint) (mark : Hint → α → α) :
    (⟨n, w, some now, h, some k⟩ : Timed α).readMark now i mark = ⟨n, w, some now, max h (hintRank i), some k⟩ := by
  simp [Timed.readMark, Timed.touch]

/-! Reads return the value held before the cycle. -/

theorem Timed.write_view (r : Timed α) (now a : Nat) (x : α) : (r.write now a x).view now = r.view now := by
  obtain ⟨n, w, h, wr, hr, hview⟩ := r.touch_current now
  rw [← r.write_touch, hr, hview]
  cases wr with
  | none => simp
  | some k => rw [Timed.write_written]; split_ifs <;> simp

theorem Timed.readMark_view (r : Timed α) (now : Nat) (i : Hint) (mark : Hint → α → α) : (r.readMark now i mark).view now = r.view now := by
  obtain ⟨n, w, h, wr, hr, hview⟩ := r.touch_current now
  rw [← r.readMark_touch, hr, hview]
  cases wr <;> simp

/-! Two accesses, in either order. -/

theorem Timed.write_write_comm (r : Timed α) (now : Nat) {a b : Nat} (hab : a < b) (x y : α) :
    ((r.write now a x).write now b y).now = ((r.write now b y).write now a x).now := by
  obtain ⟨n, w, h, wr, hr, -⟩ := r.touch_current now
  have hba : ¬b ≤ a := Nat.not_le_of_lt hab
  rw [← r.write_touch now a, ← r.write_touch now b, hr]
  cases wr with
  | none => simp [hba, hab.le]
  | some k =>
    by_cases ha : k ≤ a
    · simp [ha, ha.trans hab.le, hba, hab.le]
    · by_cases hb : k ≤ b
      · simp [ha, hb, hba]
      · simp [ha, hb]

theorem Timed.write_readMark_now (r : Timed α) (now a : Nat) (x : α) (i : Hint) (mark : Hint → α → α) :
    ((r.write now a x).readMark now i mark).now = (r.write now a x).now := by
  obtain ⟨n, w, h, wr, hr, -⟩ := r.touch_current now
  rw [← r.write_touch, hr]
  cases wr with
  | none => simp
  | some k => rw [Timed.write_written]; split_ifs <;> simp

theorem Timed.readMark_write_now (r : Timed α) (now a : Nat) (x : α) (i : Hint) (mark : Hint → α → α) :
    ((r.readMark now i mark).write now a x).now = (r.write now a x).now := by
  obtain ⟨n, w, h, wr, hr, -⟩ := r.touch_current now
  rw [← r.readMark_touch, ← r.write_touch, hr]
  cases wr with
  | none => simp
  | some k => rw [Timed.readMark_written, Timed.write_written, Timed.write_written]; split_ifs <;> rfl

theorem Timed.readMark_comm (r : Timed α) (now : Nat) (i j : Hint) (mark : Hint → α → α) :
    ((r.readMark now i mark).readMark now j mark).now = ((r.readMark now j mark).readMark now i mark).now := by
  obtain ⟨n, w, h, wr, hr, -⟩ := r.touch_current now
  rw [← r.readMark_touch now i, ← r.readMark_touch now j, hr]
  cases wr with
  | none => simp only [Timed.readMark_unwritten, max_right_comm]
  | some k => simp

/-! The first accesses of a cycle. -/

theorem Timed.write_of_stale (h : r.at? ≠ some now) (a : Nat) (x : α) : r.write now a x = ⟨x, r.now, some now, 0, some a⟩ := by
  rw [← r.write_touch, Timed.touch_of_stale h, Timed.write_unwritten]

theorem hintOfRank_hintRank (h : Hint) : hintOfRank (hintRank h) = h := by cases h <;> rfl

theorem hintOfRank_max (h k : Hint) : hintOfRank (max (hintRank h) (hintRank k)) = strongerHint h k := by cases h <;> cases k <;> rfl

theorem Timed.readMark_of_stale (hr : r.at? ≠ some now) (h : Hint) (mark : Hint → α → α) :
    r.readMark now h mark = ⟨mark h r.now, r.now, some now, hintRank h, none⟩ := by
  rw [← r.readMark_touch, Timed.touch_of_stale hr, Timed.readMark_unwritten, Nat.zero_max, hintOfRank_hintRank]

end Timed

theorem GReg.marked_eq_readMarks (h : Hint) (r : GReg) : GReg.marked h r = readMarks h r := by
  cases h <;> rfl

end Sys2Proof.Machine

namespace Sys2Proof
open Sys2Proof.Machine

/-- Settles O12: a write and a read each leave the value held before the cycle, and the writes and the reads of a cycle are ordered by rank and
by strength. -/
theorem sameCycleAccesses : Obligations.SameCycleAccesses := by
  unfold Obligations.SameCycleAccesses
  refine ⟨fun r now a b x y h k => ⟨⟨r.write_view .., r.readMark_view ..⟩, fun hab => r.write_write_comm now hab x y,
    ⟨r.write_readMark_now .., r.readMark_write_now ..⟩, r.readMark_comm ..⟩, fun α r now a b x y h k mark hr => ?_, GReg.marked_eq_readMarks, fun h r => ?_⟩
  · have hw := fun a x => congrArg Timed.now (Timed.write_of_stale hr a x)
    have hww : a < b → ((r.write now a x).write now b y).now = y := fun hab => by rw [Timed.write_of_stale hr, Timed.write_written, if_pos hab.le]
    refine ⟨hw a x, fun hab => ⟨hww hab, (r.write_write_comm now hab x y).symm.trans (hww hab)⟩, congrArg Timed.now (Timed.readMark_of_stale hr h mark),
      ?_, (r.readMark_write_now ..).trans (hw a x), (r.write_readMark_now ..).trans (hw a x), (r.readMark_view ..).trans (Timed.view_of_stale hr),
      (r.write_view ..).trans (Timed.view_of_stale hr)⟩
    rw [Timed.readMark_of_stale hr, Timed.readMark_unwritten, hintOfRank_max]
  · cases h <;> rfl

end Sys2Proof
end

section
/-! PROOFS. Register files and banks: what each access leaves, and instructions that change the registers of their cell (R163 to R168) -/

namespace Sys2Proof.Machine

/-! Entries of a register file after an update. -/

theorem getD_set_self {α : Type} {l : List α} {n : Nat} (h : n < l.length) (x d : α) : (l.set n x).getD n d = x := by
  rw [List.getD_eq_getElem _ _ (by simpa using h), List.getElem_set_self]

theorem getD_set_ne {α : Type} (l : List α) {m n : Nat} (h : m ≠ n) (x d : α) : (l.set n x).getD m d = l.getD m d := by
  rw [List.getD_eq_getElem?_getD, List.getElem?_set_ne h.symm, ← List.getD_eq_getElem?_getD]

section Files
variable (f : RegFiles)

theorem RegFiles.gReg_setG {g : Nat} (h : g < f.g.length) (x : Timed GReg) : (f.setG g x).gReg g = x := getD_set_self h x _
theorem RegFiles.gReg_setG_ne {m g : Nat} (h : m ≠ g) (x : Timed GReg) : (f.setG g x).gReg m = f.gReg m := getD_set_ne f.g h x _
theorem RegFiles.vReg_setV {v : Nat} (h : v < f.v.length) (x : Timed VReg) : (f.setV v x).vReg v = x := getD_set_self h x _
theorem RegFiles.vReg_setV_ne {m v : Nat} (h : m ≠ v) (x : Timed VReg) : (f.setV v x).vReg m = f.vReg m := getD_set_ne f.v h x _
theorem RegFiles.kReg_setK {k : Nat} (h : k < f.k.length) (x : Timed KReg) : (f.setK k x).kReg k = x := getD_set_self h x _
theorem RegFiles.kReg_setK_ne {m k : Nat} (h : m ≠ k) (x : Timed KReg) : (f.setK k x).kReg m = f.kReg m := getD_set_ne f.k h x _
theorem RegFiles.gBank_setGBank {b : Nat} (h : b < f.gBanks.length) (x : Bank) : (f.setGBank b x).gBank b = x := getD_set_self h x _
theorem RegFiles.gBank_setGBank_ne {m b : Nat} (h : m ≠ b) (x : Bank) : (f.setGBank b x).gBank m = f.gBank m := getD_set_ne f.gBanks h x _
theorem RegFiles.vBank_setVBank {b : Nat} (h : b < f.vBanks.length) (x : Bank) : (f.setVBank b x).vBank b = x := getD_set_self h x _
theorem RegFiles.vBank_setVBank_ne {m b : Nat} (h : m ≠ b) (x : Bank) : (f.setVBank b x).vBank m = f.vBank m := getD_set_ne f.vBanks h x _

/-- A bank that is not OFF is one of its file. -/
theorem RegFiles.gBank_lt {b : Nat} (h : (f.gBank b).st ≠ .off) : b < f.gBanks.length := by
  by_contra hb
  exact h (by rw [RegFiles.gBank, List.getD_eq_default _ _ (Nat.le_of_not_lt hb)])

theorem RegFiles.vBank_lt {b : Nat} (h : (f.vBank b).st ≠ .off) : b < f.vBanks.length := by
  by_contra hb
  exact h (by rw [RegFiles.vBank, List.getD_eq_default _ _ (Nat.le_of_not_lt hb)])

end Files

/-! Updates of a cell that reach its registers alone. -/

/-- An update that leaves all of a cell but its register files. -/
def Cell.OnlyRegs (f : Cell → Cell) : Prop := ∀ c, f c = { c with regs := (f c).regs }

theorem Cell.onlyRegs_updRegs (g : RegFiles → RegFiles) : Cell.OnlyRegs (fun c => c.updRegs g) := fun _ => rfl

theorem Cell.OnlyRegs.num {f : Cell → Cell} (hf : Cell.OnlyRegs f) (c : Cell) : (f c).num = c.num := by rw [hf c]

theorem Cell.OnlyRegs.besideBlocks {f : Cell → Cell} (hf : Cell.OnlyRegs f) : Cell.BesideBlocks f := fun c => by
  rw [hf c]; exact ⟨rfl, rfl, rfl, rfl, rfl⟩

theorem Cell.OnlyRegs.held {f : Cell → Cell} (hf : Cell.OnlyRegs f) (c : Cell) :
    { (f c).held with regs := RegFiles.fresh } = { c.held with regs := RegFiles.fresh } := by rw [hf c]; rfl

theorem Cell.OnlyRegs.flt {f : Cell → Cell} (hf : Cell.OnlyRegs f) (c : Cell) : ((f c).num, (f c).flt) = (c.num, c.flt) := by rw [hf c]

theorem besideRegs_iff {s t : State} : BesideRegs s t ↔ BesideCells s t ∧
    t.cells.map (fun (c : Cell) => { c.held with regs := RegFiles.fresh }) = s.cells.map (fun (c : Cell) => { c.held with regs := RegFiles.fresh }) := by
  simp only [BesideRegs, BesideCells, and_assoc]

theorem SameCells.besideRegs {s t : State} (h : SameCells s t) :
    t.cells.map (fun (c : Cell) => { c.held with regs := RegFiles.fresh }) = s.cells.map (fun (c : Cell) => { c.held with regs := RegFiles.fresh }) := by
  have key := congrArg (List.map fun c : CellHeld => { c with regs := RegFiles.fresh }) h
  rwa [List.map_map, List.map_map] at key

theorem Quiet.besideRegs {s t : State} (h : Quiet s t) : BesideRegs s t := besideRegs_iff.mpr ⟨h.besideCells, h.sameCells.besideRegs⟩

theorem BesideRegs.trans_quiet {s u t : State} (h : BesideRegs s u) (q : Quiet u t) : BesideRegs s t := by
  obtain ⟨hcells, hheld⟩ := besideRegs_iff.mp h
  exact besideRegs_iff.mpr ⟨hcells.trans_quiet q, q.sameCells.besideRegs.trans hheld⟩

theorem BesideRegs.updCell {s u : State} (h : BesideRegs s u) (n : Nat) {f : Cell → Cell} (hf : Cell.OnlyRegs f) : BesideRegs s (u.updCell n f) := by
  obtain ⟨hcells, hheld⟩ := besideRegs_iff.mp h
  exact besideRegs_iff.mpr ⟨hcells.updCell n hf.besideBlocks, (u.cells_map_updCell n f _ hf.held).trans hheld⟩

/-- An instruction that issues, updates the registers of its cell, and emits a list of tokens. -/
theorem runs_of_updRegs {i : Instr} {s : State} {c : Cell} {f : Cell → Cell} {l : List (Consumer × Tok)} {P : RegFiles → Prop} (h : s.goes i)
    (hc : s.cell? s.site.cell = some c) (hf : Cell.OnlyRegs f) (he : exec i s = .next (((s.took s.site i).updCell s.site.cell f).emits s.site l))
    (hP : P (f (c.tookAt s.cycle s.site i)).regs) : Runs i s l (fun t => BesideRegs s t ∧ ∀ c', t.cell? s.site.cell = some c' → P c'.regs) := by
  refine runs_of_updCell_emits h hf.besideBlocks l _ he
    ⟨((quiet_took s i).besideRegs.updCell _ hf).trans_quiet (quiet_emits (quiet_refl _) _ l), fun c' hc' => ?_⟩
  rw [cell?_updCell_emits hf.besideBlocks l (fun c => c.regs) blockFree_regs hc hc']
  exact hP

/-! RD, WR, RDP and WRP (R163, R164, R168). -/

/-- The registers after a live read of a scalar register (R163, R165). -/
def Cell.readG (c : Cell) (now g : Nat) (h : Hint) : Cell :=
  (c.touchG now g).updRegs (fun f => f.setG g ((f.gReg g).readMark now h GReg.marked))

/-- The registers after a write of a scalar register (R163, R165). -/
def Cell.writeG (c : Cell) (now g rank : Nat) (x : GReg) : Cell :=
  (c.touchG now g).updRegs (fun f => f.setG g ((f.gReg g).write now rank x))

theorem deadRead_full {b : Bank} {valid : Bool} (hv : valid = true) (hb : b.st = .full) : deadRead b valid = false := by
  rw [deadRead, hv, hb]; rfl

theorem rd_eq {g : BitVec 6} {h : Hint} {c0 : Consumer} {s : State} {c : Cell} (hg : s.goes (.rd g h c0)) (hc : s.cell? s.site.cell = some c)
    (hd : deadRead (c.regs.gBank (g.toNat / 16)) ((c.regs.gReg g.toNat).view s.cycle).valid = false) : exec (.rd g h c0) s =
      .next (((s.took s.site (.rd g h c0)).updCell s.site.cell (fun c => c.readG s.cycle g.toNat h)).emits s.site [(c0,
        ⟨((c.regs.gReg g.toNat).view s.cycle).val, (tokMark (s.opnds s.site (.rd g h c0)).l).or ((c.regs.gReg g.toNat).view s.cycle).mark⟩)]) := by
  rw [exec_rd, execRd, issueCtl_goes hg]
  simp only [hc, hd, Bool.false_eq_true, if_false]
  rfl

/-- What an access of the scalar register `g` at `now` leaves of the register files `f`: every other register, and `x` in it where this is its
first access of the cycle. -/
def RegFiles.AccessedG (f f' : RegFiles) (now g : Nat) (x : GReg) : Prop :=
  (∀ n, n ≠ g → f'.gReg n = f.gReg n) ∧ f'.v = f.v ∧ f'.k = f.k ∧ f'.vBanks = f.vBanks ∧
    (g < f.g.length → (f.gReg g).at? ≠ some now → (f'.gReg g).now = x)

theorem RegFiles.accessedG_setG (f : RegFiles) (now g b : Nat) (k : Bank) {r : Timed GReg} {x : GReg} (hr : (f.gReg g).at? ≠ some now → r.now = x) :
    f.AccessedG ((f.setGBank b k).setG g r) now g x :=
  ⟨fun _ hn => (f.setGBank b k).gReg_setG_ne hn r, rfl, rfl, rfl, fun hlen hat =>
    (congrArg Timed.now ((f.setGBank b k).gReg_setG hlen r)).trans (hr hat)⟩

theorem rd_runs {g : BitVec 6} {h : Hint} {c0 : Consumer} {s : State} {c : Cell} (hg : s.goes (.rd g h c0)) (hc : s.cell? s.site.cell = some c)
    (hd : deadRead (c.regs.gBank (g.toNat / 16)) ((c.regs.gReg g.toNat).view s.cycle).valid = false) :
    Runs (.rd g h c0) s
      [(c0, ⟨((c.regs.gReg g.toNat).view s.cycle).val, (tokMark (s.opnds s.site (.rd g h c0)).l).or ((c.regs.gReg g.toNat).view s.cycle).mark⟩)]
      (fun t => BesideRegs s t ∧ ∀ c', t.cell? s.site.cell = some c' →
        c.regs.AccessedG c'.regs s.cycle g.toNat (readMarks h (c.regs.gReg g.toNat).now)) := by
  refine runs_of_updRegs (P := fun f => c.regs.AccessedG f s.cycle g.toNat _) hg hc (fun _ => rfl) (rd_eq hg hc hd) ?_
  rw [← Cell.tookAt_regs c s.cycle s.site (.rd g h c0), ← GReg.marked_eq_readMarks]
  exact RegFiles.accessedG_setG _ _ _ _ _ fun hat => congrArg Timed.now (Timed.readMark_of_stale hat h GReg.marked)

theorem wr_runs {g : BitVec 6} {c0 : Consumer} {s : State} {c : Cell} (hg : s.goes (.wr g c0)) (hc : s.cell? s.site.cell = some c) :
    Runs (.wr g c0) s [(c0, ⟨s.lval (.wr g c0), tokMark (s.opnds s.site (.wr g c0)).l⟩)]
      (fun t => BesideRegs s t ∧ ∀ c', t.cell? s.site.cell = some c' →
        c.regs.AccessedG c'.regs s.cycle g.toNat ⟨s.lval (.wr g c0), true, false, tokMark (s.opnds s.site (.wr g c0)).l⟩) := by
  refine runs_of_updRegs (f := fun c => c.writeG s.cycle g.toNat s.site.rank ⟨s.lval (.wr g c0), true, false, tokMark (s.opnds s.site (.wr g c0)).l⟩)
    (P := fun f => c.regs.AccessedG f s.cycle g.toNat _) hg hc (fun _ => rfl) (by rw [exec_wr, execWr, issueCtl_goes hg]; rfl) ?_
  rw [← Cell.tookAt_regs c s.cycle s.site (.wr g c0)]
  exact RegFiles.accessedG_setG _ _ _ _ _ fun hat => congrArg Timed.now (Timed.write_of_stale hat _ _)

theorem rdp_runs {k : BitVec 3} {h : Hint} {c0 : Consumer} {s : State} {c : Cell} (hg : s.goes (.rdp k h c0)) (hc : s.cell? s.site.cell = some c) :
    Runs (.rdp k h c0) s
      [(c0, ⟨((c.regs.kReg k.toNat).view s.cycle).val, (tokMark (s.opnds s.site (.rdp k h c0)).l).or ((c.regs.kReg k.toNat).view s.cycle).mark⟩)]
      (Quiet s) :=
  runs_quiet_of_emits hg _ (by rw [exec_rdp, execRdp, issueCtl_goes hg]; simp only [hc]; rfl)

/-- What a write of the predicate `k` at `now` leaves of the register files `f`: all but the predicate, and `x` in it where this is its first
access of the cycle. -/
def RegFiles.WroteK (f f' : RegFiles) (now k : Nat) (x : KReg) : Prop :=
  (∀ n, n ≠ k → f'.kReg n = f.kReg n) ∧ f'.v = f.v ∧ f'.g = f.g ∧ f'.gBanks = f.gBanks ∧ f'.vBanks = f.vBanks ∧
    (k < f.k.length → (f.kReg k).at? ≠ some now → (f'.kReg k).now = x)

theorem RegFiles.wroteK_setK (f : RegFiles) (now k rank : Nat) (x : KReg) : f.WroteK (f.setK k ((f.kReg k).write now rank x)) now k x :=
  ⟨fun _ hn => f.kReg_setK_ne hn _, rfl, rfl, rfl, rfl, fun hlen hat =>
    (congrArg Timed.now (f.kReg_setK hlen _)).trans (congrArg Timed.now (Timed.write_of_stale hat _ _))⟩

theorem wrp_runs {k : BitVec 3} {c0 : Consumer} {s : State} {c : Cell} (hg : s.goes (.wrp k c0)) (hc : s.cell? s.site.cell = some c) :
    Runs (.wrp k c0) s [(c0, ⟨s.lval (.wrp k c0), tokMark (s.opnds s.site (.wrp k c0)).l⟩)]
      (fun t => BesideRegs s t ∧ ∀ c', t.cell? s.site.cell = some c' →
        c.regs.WroteK c'.regs s.cycle k.toNat ⟨s.lval (.wrp k c0), tokMark (s.opnds s.site (.wrp k c0)).l⟩) := by
  refine runs_of_updRegs (f := fun c => c.updRegs (fun f => f.setK k.toNat
      ((f.kReg k.toNat).write s.cycle s.site.rank ⟨s.lval (.wrp k c0), tokMark (s.opnds s.site (.wrp k c0)).l⟩)))
    (P := fun f => c.regs.WroteK f s.cycle k.toNat _) hg hc (fun _ => rfl) (by rw [exec_wrp, execWrp, issueCtl_goes hg]; rfl) ?_
  rw [← Cell.tookAt_regs c s.cycle s.site (.wrp k c0)]
  exact RegFiles.wroteK_setK _ _ _ _ _

end Sys2Proof.Machine

namespace Sys2Proof
open Sys2Proof.Machine

/-- Settles O10: a live RD updates its register and its bank; RDP emits and changes nothing. -/
theorem registerReads : Obligations.RegisterReads :=
  ⟨fun _ _ _ _ _ hg hc hv hb => rd_runs hg hc (deadRead_full hv hb), fun _ _ _ _ _ => rdp_runs⟩

/-- Settles O11: WR updates its register and its bank, WRP its predicate. -/
theorem registerWrites : Obligations.RegisterWrites := ⟨fun _ _ _ _ => wr_runs, fun _ _ _ _ => wrp_runs⟩

end Sys2Proof
end

section
/-! PROOFS. O13: dead reads of scalar registers (R165, R167, R329, R332) -/

namespace Sys2Proof.Machine

theorem rd_dead_eq {g : BitVec 6} {h : Hint} {c0 : Consumer} {s : State} {c : Cell} (hg : s.goes (.rd g h c0)) (hc : s.cell? s.site.cell = some c)
    (hd : deadRead (c.regs.gBank (g.toNat / 16)) ((c.regs.gReg g.toNat).view s.cycle).valid = true) : exec (.rd g h c0) s =
      .next ((((s.took s.site (.rd g h c0)).updCell s.site.cell (fun c => c.deadTouchG s.cycle g.toNat)).deadReg s.site 0 g.toNat).emits s.site
        [(c0, s.deadTok s.site)]) := by
  rw [exec_rd, execRd, issueCtl_goes hg]
  simp only [hc, hd, if_true]
  rfl

theorem SameFace.regs {s t : State} (h : SameFace s t) (n : Nat) : (t.cell? n).map (fun c => c.regs) = (s.cell? n).map (fun c => c.regs) := by
  have := congrArg (Option.map (fun c : Cell => c.regs)) (h.cell? n)
  rwa [Option.map_map, Option.map_map] at this

theorem sameFlt_updCell {f : Cell → Cell} (hf : Cell.OnlyRegs f) (s : State) (n : Nat) : SameFlt s (s.updCell n f) :=
  s.cells_map_updCell n f (fun c => (c.num, c.flt)) hf.flt

theorem sameFlt_emits (s : State) (t : Site) (l : List (Consumer × Tok)) : SameFlt s (s.emits t l) :=
  s.emits_cells t l (fun c => (c.num, c.flt)) fun _ _ _ _ => rfl

/-- DEAD_REG is taken as R329 says, and draws a free value (log 5). -/
theorem deadReg_taken {s : State} {t : Site} {c : Cell} (hc : s.cell? t.cell = some c) (file n : Nat) :
    SameFace s (s.deadReg t file n) ∧ SameButFaults { s with fresh := s.fresh + 1 } (s.deadReg t file n) ∧ SameChannels s (s.deadReg t file n) ∧
      FaultTaken s (s.deadReg t file n) s.stamps t.cell 1 0 false (originSpec t (s.fireNo t)) (BitVec.ofNat 64 (file * 64 + n)) 0 (s.fireNo t) :=
  faultAt_taken (s := { s with fresh := s.fresh + 1 }) hc codeDeadReg 0 (BitVec.ofNat 64 (file * 64 + n)) 0

theorem SameButFaults.cycle {s t : State} (h : SameButFaults s t) : t.cycle = s.cycle := by
  obtain ⟨_, _, _, _, rfl⟩ := h; rfl

theorem block?_updCell {f : Cell → Cell} (hf : Cell.BesideBlocks f) (s : State) (n : Nat) (u : Site) : (s.updCell n f).block? u = s.block? u := by
  have := State.cell?_updCell_map s n u.cell f (fun c => (hf c).1) (fun c => c.block? u.ctx) (fun c => by rw [Cell.block?, (hf c).2.1, Cell.block?])
  unfold State.block?
  cases h1 : (s.updCell n f).cell? u.cell <;> cases h2 : s.cell? u.cell <;> simp_all

theorem fireNo_updCell_took {f : Cell → Cell} (hf : Cell.BesideBlocks f) (s : State) (i : Instr) (n : Nat) :
    ((s.took s.site i).updCell n f).fireNo s.site = s.fireNo s.site := by
  rw [← took_fireNo s i, State.fireNo, block?_updCell hf, State.fireNo]

/-- An instruction that issues, changes the registers of its cell, raises DEAD_REG and emits a list of tokens. -/
theorem runs_of_deadReg {i : Instr} {s : State} {c : Cell} {f : Cell → Cell} {file n : Nat} {l : List (Consumer × Tok)} {P : RegFiles → Prop}
    (h : s.goes i) (hc : s.cell? s.site.cell = some c) (hf : Cell.OnlyRegs f)
    (he : exec i s = .next ((((s.took s.site i).updCell s.site.cell f).deadReg s.site file n).emits s.site l))
    (hP : P (f (c.tookAt s.cycle s.site i)).regs) :
    Runs i s l (fun t => OwnFault s t 1 0 (BitVec.ofNat 64 (file * 64 + n)) 0 ∧ ∀ c', t.cell? s.site.cell = some c' → P c'.regs) := by
  have hcell : ((s.took s.site i).updCell s.site.cell f).cell? s.site.cell = some (f (c.tookAt s.cycle s.site i)) := by
    rw [State.cell?_updCell_self _ _ _ hf.num, State.took_cell?, if_pos rfl, hc, Option.map_some, Option.map_some]
  obtain ⟨hface, hframe, -, htaken⟩ := deadReg_taken hcell file n
  rw [fireNo_updCell_took hf.besideBlocks] at htaken
  refine ⟨_, he, (((issued_took i s h.1).updCell _ hf.besideBlocks).of_face hface).emits l, ?_, htaken.congr ?_ rfl (sameFlt_emits _ _ _), fun c' hc' => ?_⟩
  · rw [State.emits_flight, hframe.flight, hface.flights hframe.cycle, flights_updCell_took s i _ hf.besideBlocks]
    rfl
  · exact (quiet_took s i).sameCells.sameFlt.trans (sameFlt_updCell hf _ _)
  · have hregs := (State.emits_cell? _ s.site l s.site.cell _ blockFree_regs).trans (hface.regs s.site.cell)
    rw [hc', hcell, Option.map_some, Option.map_some, Option.some.injEq] at hregs
    rw [hregs]
    exact hP

/-- What a dead read of a scalar register of the bank `b` at `now` leaves of the register files `f` (R163, R165): every register, every other
bank, and in the bank the end of its idle run, or the start of its wake. -/
def RegFiles.DeadReadG (f f' : RegFiles) (now b : Nat) : Prop :=
  f'.g = f.g ∧ f'.v = f.v ∧ f'.k = f.k ∧ f'.vBanks = f.vBanks ∧ (∀ m, m ≠ b → f'.gBank m = f.gBank m) ∧
    ((f.gBank b).st = .full → f'.gBank b = ⟨.full, now⟩) ∧ ((f.gBank b).st = .keep → ∃ due, (f'.gBank b).st = .waking false due) ∧
    ((f.gBank b).st = .off → (f'.gBank b).st = .off)

theorem Bank.deadTouch_full {k : Bank} (h : k.st = .full) (now d : Nat) : k.deadTouch now d = ⟨.full, now⟩ := by
  simp only [Bank.deadTouch, h]

theorem Bank.deadTouch_keep {k : Bank} (h : k.st = .keep) (now d : Nat) : k.deadTouch now d = ⟨.waking false (now + 4 * d), now⟩ := by
  simp only [Bank.deadTouch, Bank.startWake, h]

theorem Bank.deadTouch_off {k : Bank} (h : k.st = .off) (now d : Nat) : k.deadTouch now d = k := by
  simp only [Bank.deadTouch, h]

theorem RegFiles.deadReadG_setGBank (f : RegFiles) (now d b : Nat) : f.DeadReadG (f.setGBank b ((f.gBank b).deadTouch now d)) now b := by
  refine ⟨rfl, rfl, rfl, rfl, fun m hm => f.gBank_setGBank_ne hm _, fun h => ?_, fun h => ⟨now + 4 * d, ?_⟩, fun h => ?_⟩
  · rw [f.gBank_setGBank (f.gBank_lt (by simp [h])), Bank.deadTouch_full h]
  · rw [f.gBank_setGBank (f.gBank_lt (by simp [h])), Bank.deadTouch_keep h]
  · rw [Bank.deadTouch_off h, RegFiles.setGBank, RegFiles.gBank]
    by_cases hb : b < f.gBanks.length
    · rw [getD_set_self hb, h]
    · rw [List.set_eq_of_length_le (Nat.le_of_not_lt hb)]
      exact h

theorem deadTok_eq (s : State) : s.deadTok s.site = ⟨Config.poisonWord s.fresh 0, some (originSpec s.site (s.fireNo s.site))⟩ := by
  rw [State.deadTok, State.poison, State.origin, originOf_spec]

theorem rd_dead_runs {g : BitVec 6} {h : Hint} {c0 : Consumer} {s : State} {c : Cell} (hg : s.goes (.rd g h c0)) (hc : s.cell? s.site.cell = some c)
    (hd : deadRead (c.regs.gBank (g.toNat / 16)) ((c.regs.gReg g.toNat).view s.cycle).valid = true) :
    Runs (.rd g h c0) s [(c0, ⟨Config.poisonWord s.fresh 0, some (originSpec s.site (s.fireNo s.site))⟩)]
      (fun t => OwnFault s t 1 0 (BitVec.ofNat 64 (0 * 64 + g.toNat)) 0 ∧
        ∀ c', t.cell? s.site.cell = some c' → c.regs.DeadReadG c'.regs s.cycle (g.toNat / 16)) := by
  rw [← deadTok_eq]
  refine runs_of_deadReg (P := fun f => c.regs.DeadReadG f s.cycle (g.toNat / 16)) hg hc (fun _ => rfl) (rd_dead_eq hg hc hd) ?_
  rw [← Cell.tookAt_regs c s.cycle s.site (.rd g h c0)]
  exact RegFiles.deadReadG_setGBank _ _ _ _

end Sys2Proof.Machine

namespace Sys2Proof
open Sys2Proof.Machine

/-- Settles O13: a dead RD raises DEAD_REG, touches its bank, and emits a free value with its own origin. -/
theorem deadReadRaises : Obligations.DeadReadRaises := fun g h c0 s c hg hc hd => by
  have hruns := rd_dead_runs hg hc hd
  rw [Nat.zero_mul, Nat.zero_add] at hruns
  exact ⟨_, hruns⟩

end Sys2Proof
end

section
/-! PROOFS. Instructions that force a bank: their first attempt (R171, R178) -/

namespace Sys2Proof.Machine

/-! What an issue leaves of its cell for an attempt that follows it. -/

theorem Block.face_slot_waking (b : Block) (j : Nat) : (b.face.slot j).waking = (b.slot j).waking := by
  simp only [Block.slot, Block.face, List.getD_eq_getElem?_getD, List.getElem?_map]
  cases b.slots[j]? <;> rfl

theorem Cell.bankAwaited_face (c : Cell) (b : BankName) : c.face.bankAwaited b = c.bankAwaited b := by
  simp only [Cell.bankAwaited, Cell.face, List.any_map]
  congr 1
  funext bl
  simp only [Function.comp, Block.face_slot_waking]
  simp [Block.face, Block.instr?]

/-- Slots of which none has begun to wait since. -/
theorem Cell.bankAwaited_map {c : Cell} {b : BankName} {F : Block → Block} (h : c.bankAwaited b = false)
    (hF : ∀ bl : Block, (F bl).slots.length = bl.slots.length ∧ (F bl).words = bl.words ∧ ∀ j, ((F bl).slot j).waking = true → (bl.slot j).waking = true)
    {c' : Cell} (hc' : c'.blocks = c.blocks.map F) : c'.bankAwaited b = false := by
  rw [Cell.bankAwaited, List.any_eq_false] at h ⊢
  rw [hc']
  intro bl' hbl' hany
  obtain ⟨bl, hbl, rfl⟩ := List.mem_map.mp hbl'
  obtain ⟨hlen, hwords, hwaking⟩ := hF bl
  refine h bl hbl (List.any_eq_true.mpr ?_)
  obtain ⟨j, hj, hand⟩ := List.any_eq_true.mp hany
  rw [Bool.and_eq_true] at hand
  obtain ⟨hw, hi⟩ := hand
  refine ⟨j, hlen ▸ hj, ?_⟩
  rw [Bool.and_eq_true]
  refine ⟨hwaking j hw, ?_⟩
  have hinstr : (F bl).instr? j = bl.instr? j := by rw [Block.instr?, hwords, Block.instr?]
  rw [← hinstr]
  exact hi

theorem Cell.bankAwaited_tookAt {c : Cell} {b : BankName} (h : c.bankAwaited b = false) (now : Nat) (t : Site) (i : Instr) :
    (c.tookAt now t i).bankAwaited b = false := by
  refine Cell.bankAwaited_map (F := fun bl => if bl.ctx == t.ctx then bl.tookAt now t i else bl) h (fun bl => ?_) (by rw [Cell.tookAt, Cell.count_blocks]; rfl)
  split_ifs
  · refine ⟨Block.updSlot_length .., rfl, fun j hj => ?_⟩
    by_cases hi : t.index < bl.slots.length
    · rw [Block.tookAt, Block.slot_updSlot bl _ j _ hi] at hj
      split_ifs at hj
      exact hj
    · rwa [Block.tookAt, Block.updSlot, List.set_eq_of_length_le (Nat.le_of_not_lt hi)] at hj
  · exact ⟨rfl, rfl, fun _ => id⟩

/-- The cell of the site once an instruction that waits has issued. -/
theorem issuing_cell? {s : State} {c : Cell} (hc : s.cell? s.site.cell = some c) (i : Instr) : ∃ u, (s.issuing i).cell? s.site.cell = some u ∧
    u.regs = c.regs ∧ u.divider = c.divider ∧ u.context = c.context ∧ ∀ b, c.bankAwaited b = false → u.bankAwaited b = false := by
  have hface := (sameFace_issuing s i).cell? s.site.cell
  rw [State.took_cell?, if_pos rfl, hc] at hface
  obtain ⟨u, hu, hface⟩ := Option.map_eq_some_iff.mp hface
  refine ⟨u, hu, ?_, ?_, ?_, fun b hb => ?_⟩
  · exact (congrArg Cell.regs hface).trans (Cell.tookAt_regs ..)
  · exact (congrArg Cell.divider hface).trans (Cell.tookAt_divider ..)
  · exact (congrArg Cell.context hface).trans (Cell.tookAt_context ..)
  · rw [← u.bankAwaited_face, hface, Cell.bankAwaited_face]
    exact Cell.bankAwaited_tookAt hb ..

/-! The instructions. -/

/-- The instruction that forces a state. -/
def Force.instr (f : Force) (g : BitVec 6) (file : BankFile) (c0 : Consumer) : Instr :=
  match f with
  | .keep => .bankk g file c0
  | .off => .banko g file c0
  | .wake => .bankw g file c0

theorem exec_force (f : Force) (g : BitVec 6) (file : BankFile) (c0 : Consumer) (s : State) :
    exec (f.instr g file c0) s = issueBank (f.instr g file c0) f g file c0 s := by cases f <;> rfl

theorem force_emitsOf (f : Force) (g : BitVec 6) (file : BankFile) (c0 : Consumer) : emitsOf (f.instr g file c0) .empty = [(c0, 1)] := by
  cases f <;> rfl

theorem bankOf_of_cell? {s : State} {n : Nat} {c : Cell} (hc : s.cell? n = some c) (b : BankName) : s.bankOf n b = match b with
    | .spad b => s.mem.bank b
    | .scalar b => c.regs.gBank b
    | .vector b => c.regs.vBank b := by
  cases b <;> simp only [State.bankOf, hc]

theorem issuing_bankOf (s : State) (i : Instr) (b : BankName) : (s.issuing i).bankOf s.site.cell b = s.bankOf s.site.cell b := by
  have hregs := issuing_cell?_map s i s.site.cell (fun c => c.regs) (fun c => Cell.tookAt_regs ..) fun _ => rfl
  cases b with
  | spad b => rfl
  | scalar b => unfold State.bankOf; cases h1 : (s.issuing i).cell? s.site.cell <;> cases h2 : s.cell? s.site.cell <;> simp_all
  | vector b => unfold State.bankOf; cases h1 : (s.issuing i).cell? s.site.cell <;> cases h2 : s.cell? s.site.cell <;> simp_all

/-- The instruction issues, and is tried at once. -/
theorem exec_force_goes {f : Force} {g : BitVec 6} {file : BankFile} {c0 : Consumer} {s : State} (h : s.goes (f.instr g file c0))
    (hnum : ¬(file = .spad ∧ 2048 ≤ (s.lval (f.instr g file c0)).toNat)) : exec (f.instr g file c0) s =
      .next (s.tried (f.instr g file c0) (s.pendOf (f.instr g file c0) []) (fun s p => s.bankAttempt f g file c0 p)) := by
  rw [exec_force, ← issueCtl_tries h, issueBank, issueCtl_goes h, issueCtl_goes h, force_emitsOf]
  exact congrArg _ (if_neg hnum)

/-- Whether a bank's segments forbid to force a state on it (R178). -/
def forceRefused (m : MemSys) (ctx : Nat) (f : Force) (b : BankName) : Bool :=
  match b, f with
  | .spad k, .keep | .spad k, .off => !m.bankOwned k ctx
  | _, _ => false

/-- What a forced bank answers once nothing holds it back. -/
def State.forced (s : State) (divider : Nat) (f : Force) (c0 : Consumer) (b : BankName) (p : Pend) : State :=
  if (s.force p.site.cell divider f b).2 then (s.force p.site.cell divider f b).1.reply p.site c0
    [⟨BitVec.ofNat 32 (s.bankOf p.site.cell b).st.code, p.ops.mark⟩]
  else { (s.force p.site.cell divider f b).1 with pend := (s.force p.site.cell divider f b).1.pend ++
    [{ p with notes := [(s.bankOf p.site.cell b).st.code] }] }

/-- What a bank that segments of another context hold back answers (R178). -/
def State.forceFault (s : State) (c0 : Consumer) (p : Pend) : State :=
  (s.opcodeFault p.site codeProt p.instr (some p.stamp)).release p.site c0

/-- The first attempt of a BANK instruction. -/
theorem bankAttempt_first {s : State} {f : Force} {g : BitVec 6} {file : BankFile} {c0 : Consumer} {p : Pend} {c : Cell} {b : BankName}
    (hc : s.cell? p.site.cell = some c) (hn : p.notes = []) (hb : bankName g file (tokVal p.ops.l) = b) : s.bankAttempt f g file c0 p =
      if (s.bankOf p.site.cell b).isWaking || c.bankAwaited b then none
      else if forceRefused s.mem c.context f b then some (s.forceFault c0 p)
      else some (s.forced c.divider f c0 b p) := by
  unfold State.bankAttempt
  rw [hc, hn, hb]
  refine if_congr Iff.rfl rfl (if_congr ?_ rfl ?_)
  · cases b <;> cases f <;> exact Iff.rfl
  · unfold State.forced
    split_ifs with hreached
    · exact if_pos hreached
    · exact if_neg hreached

/-- The first attempt of a BANK instruction whose bank is neither WAKING nor awaited. -/
theorem bankAttempt_issuing {f : Force} {g : BitVec 6} {file : BankFile} {c0 : Consumer} {s : State} {c : Cell} {i : Instr} {b : BankName}
    (hc : s.cell? s.site.cell = some c) (hb : bankName g file (s.lval i) = b) (hw : (s.bankOf s.site.cell b).isWaking = false)
    (ha : c.bankAwaited b = false) : (s.issuing i).bankAttempt f g file c0 (s.pendOf i []) =
      if forceRefused s.mem c.context f b then some ((s.issuing i).forceFault c0 (s.pendOf i []))
      else some ((s.issuing i).forced c.divider f c0 b (s.pendOf i [])) := by
  obtain ⟨u, hu, -, hdivider, hcontext, hawaited⟩ := issuing_cell? hc i
  have hbank : (s.issuing i).bankOf (s.pendOf i []).site.cell b = s.bankOf s.site.cell b := issuing_bankOf s i b
  rw [bankAttempt_first hu rfl hb, hbank, hw, hawaited b ha, hdivider, hcontext]
  rfl

end Sys2Proof.Machine
end

section
/-! PROOFS. O14: BANKK, BANKO and BANKW on register banks (R165, R171) -/

namespace Sys2Proof.Machine

/-! What a force does, by the state of its bank. -/

section Force
variable {s : State} {cell d : Nat} {b : BankName}

theorem force_keep_full (h : (s.bankOf cell b).st = .full) : s.force cell d .keep b = (s.setBankState cell b .keep, true) := by
  simp only [State.force, h]

theorem force_keep_other (h : (s.bankOf cell b).st ≠ .full) : s.force cell d .keep b = (s, true) := by
  unfold State.force
  cases hb : (s.bankOf cell b).st with
  | full => exact absurd hb h
  | off | keep | waking => rfl

theorem force_off_on (h : (s.bankOf cell b).st = .full ∨ (s.bankOf cell b).st = .keep) : s.force cell d .off b = (s.bankToOff cell b, true) := by
  obtain h | h := h <;> simp only [State.force, h]

theorem force_off_off (h : (s.bankOf cell b).st = .off) : s.force cell d .off b = (s, true) := by
  simp only [State.force, h]

theorem force_wake_full (h : (s.bankOf cell b).st = .full) : s.force cell d .wake b = (s, true) := by
  simp only [State.force, h]

theorem force_wake {fromOff : Bool} (h : (s.bankOf cell b).st = if fromOff then .off else .keep) :
    s.force cell d .wake b = (s.setBankState cell b (.waking fromOff (s.cycle + wakeDelay b fromOff d)), false) := by
  cases fromOff <;> simp_all [State.force]

end Force

theorem forced_reached {s u : State} {d : Nat} {f : Force} {c0 : Consumer} {b : BankName} {p : Pend} (h : s.force p.site.cell d f b = (u, true)) :
    s.forced d f c0 b p = u.reply p.site c0 [⟨BitVec.ofNat 32 (s.bankOf p.site.cell b).st.code, p.ops.mark⟩] := by
  rw [State.forced, h, if_pos rfl]

theorem forced_waits {s u : State} {d : Nat} {f : Force} {c0 : Consumer} {b : BankName} {p : Pend} (h : s.force p.site.cell d f b = (u, false)) :
    s.forced d f c0 b p = { u with pend := u.pend ++ [{ p with notes := [(s.bankOf p.site.cell b).st.code] }] } := by
  rw [State.forced, h, if_neg Bool.false_ne_true]

section Attempt
variable {f : Force} {g : BitVec 6} {file : BankFile} {c0 : Consumer} {s u : State} {c : Cell} {b : BankName}

/-- A BANK instruction whose bank has reached the forced state. -/
theorem exec_force_reached (h : s.goes (f.instr g file c0)) (hnum : ¬(file = .spad ∧ 2048 ≤ (s.lval (f.instr g file c0)).toNat))
    (hc : s.cell? s.site.cell = some c) (hb : bankName g file (s.lval (f.instr g file c0)) = b) (hw : (s.bankOf s.site.cell b).isWaking = false)
    (ha : c.bankAwaited b = false) (hr : forceRefused s.mem c.context f b = false)
    (hforce : (s.issuing (f.instr g file c0)).force s.site.cell c.divider f b = (u, true)) : exec (f.instr g file c0) s =
      .next (u.reply s.site c0 [⟨BitVec.ofNat 32 (s.bankOf s.site.cell b).st.code, s.omark (f.instr g file c0)⟩]) := by
  rw [exec_force_goes h hnum, ← issuing_bankOf s (f.instr g file c0) b]
  refine congrArg _ (tried_some ?_)
  rw [bankAttempt_issuing hc hb hw ha, hr, if_neg Bool.false_ne_true]
  exact congrArg some (forced_reached (p := s.pendOf (f.instr g file c0) []) hforce)

/-- A BANK instruction that has started the wake of its bank. -/
theorem exec_force_waits (h : s.goes (f.instr g file c0)) (hnum : ¬(file = .spad ∧ 2048 ≤ (s.lval (f.instr g file c0)).toNat))
    (hc : s.cell? s.site.cell = some c) (hb : bankName g file (s.lval (f.instr g file c0)) = b) (hw : (s.bankOf s.site.cell b).isWaking = false)
    (ha : c.bankAwaited b = false) (hr : forceRefused s.mem c.context f b = false)
    (hforce : (s.issuing (f.instr g file c0)).force s.site.cell c.divider f b = (u, false)) : exec (f.instr g file c0) s =
      .next { u with pend := u.pend ++ [s.pendOf (f.instr g file c0) [(s.bankOf s.site.cell b).st.code]] } := by
  rw [exec_force_goes h hnum, ← issuing_bankOf s (f.instr g file c0) b]
  refine congrArg _ (tried_some ?_)
  rw [bankAttempt_issuing hc hb hw ha, hr, if_neg Bool.false_ne_true]
  exact congrArg some (forced_waits (p := s.pendOf (f.instr g file c0) []) hforce)

end Attempt

/-! The banks of register files by their names. -/

/-- The bank of register files that a name stands for. -/
def RegFiles.bank (f : RegFiles) (b : BankName) : Bank :=
  match b with
  | .scalar b => f.gBank b
  | .vector b => f.vBank b
  | .spad _ => ⟨.off, 0⟩

def RegFiles.setBank (f : RegFiles) (b : BankName) (k : Bank) : RegFiles :=
  match b with
  | .scalar b => f.setGBank b k
  | .vector b => f.setVBank b k
  | .spad _ => f

/-- Register files with the registers of a bank made invalid. -/
def RegFiles.kill (f : RegFiles) (b : BankName) : RegFiles :=
  match b with
  | .scalar b => f.killG b
  | .vector b => f.killV b
  | .spad _ => f

/-- Whether the name stands for a bank of the register files. -/
def RegFiles.hasBank (f : RegFiles) (b : BankName) : Prop :=
  match b with
  | .scalar b => b < f.gBanks.length
  | .vector b => b < f.vBanks.length
  | .spad _ => False

theorem RegFiles.hasBank_of_on {f : RegFiles} {b : BankName} (h : (f.bank b).st ≠ .off) : f.hasBank b := by
  cases b with
  | scalar b => exact f.gBank_lt h
  | vector b => exact f.vBank_lt h
  | spad b => exact absurd rfl h

theorem RegFiles.bank_setBank {f : RegFiles} {b : BankName} (h : f.hasBank b) (k : Bank) : (f.setBank b k).bank b = k := by
  cases b with
  | scalar b => exact f.gBank_setGBank h k
  | vector b => exact f.vBank_setVBank h k
  | spad b => exact h.elim

theorem RegFiles.bank_setBank_ne (f : RegFiles) {b m : BankName} (h : m ≠ b) (k : Bank) : (f.setBank b k).bank m = f.bank m := by
  cases b <;> cases m
  case scalar.scalar b m => exact f.gBank_setGBank_ne (fun e => h (congrArg BankName.scalar e)) k
  case vector.vector b m => exact f.vBank_setVBank_ne (fun e => h (congrArg BankName.vector e)) k
  all_goals rfl

theorem RegFiles.bank_kill (f : RegFiles) (b m : BankName) : (f.kill b).bank m = f.bank m := by cases b <;> cases m <;> rfl

theorem RegFiles.hasBank_kill (f : RegFiles) (b m : BankName) : (f.kill b).hasBank m ↔ f.hasBank m := by cases b <;> cases m <;> exact Iff.rfl

theorem RegFiles.setBank_regs (f : RegFiles) (b : BankName) (k : Bank) :
    (f.setBank b k).g = f.g ∧ (f.setBank b k).v = f.v ∧ (f.setBank b k).k = f.k := by
  cases b <;> exact ⟨rfl, rfl, rfl⟩

/-! The registers of a bank that is lost. -/

theorem RegFiles.gReg_killG (f : RegFiles) (b n : Nat) : (f.killG b).gReg n =
    if n / 16 = b then { f.gReg n with now := { (f.gReg n).now with valid := false, far := false } } else f.gReg n := by
  simp only [RegFiles.gReg, RegFiles.killG, List.getD_eq_getElem?_getD, List.getElem?_mapIdx]
  cases f.g[n]? with
  | none => split_ifs <;> rfl
  | some r => rfl

theorem RegFiles.vReg_killV (f : RegFiles) (b n : Nat) : (f.killV b).vReg n =
    if n / 4 = b then { f.vReg n with now := { (f.vReg n).now with valid := false, far := false } } else f.vReg n := by
  simp only [RegFiles.vReg, RegFiles.killV, List.getD_eq_getElem?_getD, List.getElem?_mapIdx]
  cases f.v[n]? with
  | none => split_ifs <;> rfl
  | some r => rfl

/-! What a forced register bank leaves. -/

theorem quiet_reply {s t : State} (h : Quiet s t) (u : Site) (c : Consumer) (l : List Tok) : Quiet s (t.reply u c l) := by
  induction l generalizing t with
  | nil => exact h
  | cons k l ih => exact ih (quiet_send h u c k 0)

/-- Nothing but tokens, counters and energy has changed, and the registers of the cell of the site, which are these. -/
def RegsBecome (s t : State) (f : RegFiles) : Prop := BesideRegs s t ∧ ∃ c', t.cell? s.site.cell = some c' ∧ c'.regs = f

theorem RegsBecome.trans_quiet {s u t : State} {f : RegFiles} (h : RegsBecome s u f) (q : Quiet u t) : RegsBecome s t f := by
  obtain ⟨hbeside, c, hc, rfl⟩ := h
  have hheld := q.sameCells.held? s.site.cell
  rw [hc] at hheld
  obtain ⟨c', hc', hheld⟩ := Option.map_eq_some_iff.mp hheld
  exact ⟨hbeside.trans_quiet q, c', hc', congrArg CellHeld.regs hheld⟩

theorem Quiet.regsBecome {s t : State} (h : Quiet s t) {c : Cell} (hc : s.cell? s.site.cell = some c) : RegsBecome s t c.regs :=
  RegsBecome.trans_quiet ⟨(quiet_refl s).besideRegs, c, hc, rfl⟩ h

theorem RegsBecome.updRegs {s u : State} {f : RegFiles} (h : RegsBecome s u f) (G : RegFiles → RegFiles) :
    RegsBecome s (u.updCell s.site.cell (fun c => c.updRegs G)) (G f) := by
  obtain ⟨hbeside, c, hc, rfl⟩ := h
  refine ⟨hbeside.updCell _ (Cell.onlyRegs_updRegs G), c.updRegs G, ?_, rfl⟩
  rw [u.cell?_updCell_self _ (fun c => c.updRegs G) fun _ => rfl, hc, Option.map_some]

theorem RegsBecome.cell {s t : State} {f : RegFiles} (h : RegsBecome s t f) {c' : Cell} (hc' : t.cell? s.site.cell = some c') : c'.regs = f := by
  obtain ⟨-, c, hc, rfl⟩ := h
  rw [hc, Option.some.injEq] at hc'
  rw [hc']

theorem bank_congr {s t : State} (h : t.mem.banks = s.mem.banks) (b : Nat) : t.mem.bank b = s.mem.bank b := by
  rw [MemSys.bank, h, MemSys.bank]

theorem RegsBecome.bankOf {s t : State} {f : RegFiles} (h : RegsBecome s t f) {b : BankName} (hb : ∀ k, b ≠ .spad k) :
    t.bankOf s.site.cell b = f.bank b := by
  obtain ⟨-, c, hc, rfl⟩ := h
  rw [bankOf_of_cell? hc]
  cases b with
  | spad k => exact absurd rfl (hb k)
  | scalar | vector => rfl

/-- The banks that an update of one bank leaves. -/
theorem RegsBecome.bankOf_ne {s t : State} {f : RegFiles} {c : Cell} (h : RegsBecome s t f) (hc : s.cell? s.site.cell = some c) {b : BankName}
    (hf : f.bank b = c.regs.bank b) : t.bankOf s.site.cell b = s.bankOf s.site.cell b := by
  obtain ⟨⟨⟨-, -, -, -, hbanks⟩, -⟩, c', hc', rfl⟩ := h
  rw [bankOf_of_cell? hc, bankOf_of_cell? hc']
  cases b with
  | spad k => exact bank_congr hbanks k
  | scalar | vector => exact hf

section Effects
variable {s : State} {b : BankName}

theorem setBankState_eq (hb : ∀ k, b ≠ .spad k) (s : State) (cell : Nat) (st : BankState) :
    s.setBankState cell b st = s.updCell cell (fun c => c.updRegs (fun f => f.setBank b ⟨st, s.cycle⟩)) := by
  cases b with
  | spad k => exact absurd rfl (hb k)
  | scalar | vector => rfl

theorem bankToOff_eq (hb : ∀ k, b ≠ .spad k) (s : State) (cell : Nat) :
    s.bankToOff cell b = s.updCell cell (fun c => c.updRegs (fun f => (f.kill b).setBank b ⟨.off, s.cycle⟩)) := by
  cases b with
  | spad k => exact absurd rfl (hb k)
  | scalar | vector => rfl

/-- An instruction that issues, updates the registers of its cell and replies. -/
theorem runs_of_regs_reply {i : Instr} {c : Cell} {c0 : Consumer} {k : Tok} (h : s.goes i) (hc : s.cell? s.site.cell = some c)
    (G : RegFiles → RegFiles) (he : exec i s = .next (((s.issuing i).updCell s.site.cell (fun c => c.updRegs G)).reply s.site c0 [k])) :
    Runs i s [(c0, k)] (fun t => RegsBecome s t (G c.regs)) := by
  refine ⟨_, he, ((issued_issuing h).updCell _ (Cell.onlyRegs_updRegs G).besideBlocks).of_face (sameFace_of_eq (reply_cells ..)), ?_,
    (((quiet_issuing s i).regsBecome hc).updRegs G).trans_quiet (quiet_reply (quiet_refl _) _ _ _)⟩
  rw [State.reply_flight, State.flights_congr (s.issuing i) ((s.issuing i).updCell s.site.cell (fun c => c.updRegs G)) s.site _ rfl, issuing_flights]
  · rw [updCell_flight, issuing_flight]; rfl
  · exact State.cell?_updCell_map _ _ _ (fun c => c.updRegs G) (fun _ => rfl) _ fun _ => rfl

theorem runs_quiet_of_reply {i : Instr} {c0 : Consumer} {k : Tok} (h : s.goes i) (he : exec i s = .next ((s.issuing i).reply s.site c0 [k])) :
    Runs i s [(c0, k)] (Quiet s) :=
  runs_of_reply h c0 k he (.refl _) (issuing_cycle s i) (issuing_flight s i) (quiet_reply (quiet_issuing s i) _ _ _)

end Effects

theorem Runs.imp {i : Instr} {s : State} {l : List (Consumer × Tok)} {P Q : State → Prop} (h : Runs i s l P) (hPQ : ∀ t, P t → Q t) : Runs i s l Q := by
  obtain ⟨t, he, hissued, hflight, hP⟩ := h
  exact ⟨t, he, hissued, hflight, hPQ t hP⟩

/-! The three instructions. -/

theorem bankName_file (g : BitVec 6) {file : BankFile} (h : file ≠ .spad) (l : Word) : bankName g file l = bankName g file 0 := by
  cases file with
  | spad => exact absurd rfl h
  | scalar | vector => rfl

theorem bankName_ne_spad (g : BitVec 6) {file : BankFile} (h : file ≠ .spad) (k : Nat) : bankName g file 0 ≠ .spad k := by
  cases file with
  | spad => exact absurd rfl h
  | scalar | vector => exact BankName.noConfusion

theorem forceRefused_regs (m : MemSys) (ctx : Nat) (f : Force) {b : BankName} (h : ∀ k, b ≠ .spad k) : forceRefused m ctx f b = false := by
  cases b with
  | spad k => exact absurd rfl (h k)
  | scalar | vector => rfl

section Registers
variable {g : BitVec 6} {file : BankFile} {c0 : Consumer} {s : State} {c : Cell}

/-- A forced register bank: by what its force does, an update of the registers and a reply, or a reply alone. -/
theorem force_runs_regs {f : Force} (hfile : file ≠ .spad) (h : s.goes (f.instr g file c0)) (hc : s.cell? s.site.cell = some c)
    (hw : (s.bankOf s.site.cell (bankName g file 0)).isWaking = false) (ha : c.bankAwaited (bankName g file 0) = false) {G : RegFiles → RegFiles}
    (hforce : (s.issuing (f.instr g file c0)).force s.site.cell c.divider f (bankName g file 0) =
      ((s.issuing (f.instr g file c0)).updCell s.site.cell (fun c => c.updRegs G), true)) :
    Runs (f.instr g file c0) s [(c0, ⟨BitVec.ofNat 32 (s.bankOf s.site.cell (bankName g file 0)).st.code, s.omark (f.instr g file c0)⟩)]
      (fun t => RegsBecome s t (G c.regs)) :=
  runs_of_regs_reply h hc G (exec_force_reached h (fun hnum => hfile hnum.1) hc (bankName_file g hfile _) hw ha
    (forceRefused_regs _ _ _ (bankName_ne_spad g hfile)) hforce)

theorem force_runs_quiet {f : Force} (hfile : file ≠ .spad) (h : s.goes (f.instr g file c0)) (hc : s.cell? s.site.cell = some c)
    (hw : (s.bankOf s.site.cell (bankName g file 0)).isWaking = false) (ha : c.bankAwaited (bankName g file 0) = false)
    (hforce : (s.issuing (f.instr g file c0)).force s.site.cell c.divider f (bankName g file 0) = (s.issuing (f.instr g file c0), true)) :
    Runs (f.instr g file c0) s [(c0, ⟨BitVec.ofNat 32 (s.bankOf s.site.cell (bankName g file 0)).st.code, s.omark (f.instr g file c0)⟩)] (Quiet s) :=
  runs_quiet_of_reply h (exec_force_reached h (fun hnum => hfile hnum.1) hc (bankName_file g hfile _) hw ha
    (forceRefused_regs _ _ _ (bankName_ne_spad g hfile)) hforce)

theorem bankk_runs (hfile : file ≠ .spad) (h : s.goes (.bankk g file c0)) (hc : s.cell? s.site.cell = some c)
    (hw : (s.bankOf s.site.cell (bankName g file 0)).isWaking = false) (ha : c.bankAwaited (bankName g file 0) = false) :
    Runs (.bankk g file c0) s [(c0, ⟨BitVec.ofNat 32 (s.bankOf s.site.cell (bankName g file 0)).st.code, s.omark (.bankk g file c0)⟩)]
      (fun t => BesideRegs s t ∧ (∀ b, b ≠ bankName g file 0 → t.bankOf s.site.cell b = s.bankOf s.site.cell b) ∧
        (t.bankOf s.site.cell (bankName g file 0)).st = (if (s.bankOf s.site.cell (bankName g file 0)).st = .full then .keep
          else (s.bankOf s.site.cell (bankName g file 0)).st) ∧
        ∀ c', t.cell? s.site.cell = some c' → c'.regs.g = c.regs.g ∧ c'.regs.v = c.regs.v ∧ c'.regs.k = c.regs.k) := by
  have hregs := bankName_ne_spad g hfile
  have hbank := ((quiet_refl s).regsBecome hc).bankOf hregs
  by_cases hfull : (s.bankOf s.site.cell (bankName g file 0)).st = .full
  · rw [if_pos hfull]
    refine (force_runs_regs (f := .keep) hfile h hc hw ha ((force_keep_full ((congrArg Bank.st (issuing_bankOf ..)).trans hfull)).trans
      (congrArg (·, true) (setBankState_eq hregs ..)))).imp fun t ht => ?_
    refine ⟨ht.1, fun b hb => ht.bankOf_ne hc (RegFiles.bank_setBank_ne _ hb _), ?_, fun c' hc' => ?_⟩
    · rw [ht.bankOf hregs, RegFiles.bank_setBank (RegFiles.hasBank_of_on (by rw [← hbank, hfull]; exact BankState.noConfusion))]
    · rw [ht.cell hc']
      exact c.regs.setBank_regs _ _
  · rw [if_neg hfull]
    refine (force_runs_quiet (f := .keep) hfile h hc hw ha (force_keep_other ((congrArg Bank.st (issuing_bankOf ..)).trans_ne hfull))).imp fun t ht => ?_
    have ht := ht.regsBecome hc
    refine ⟨ht.1, fun b _ => ht.bankOf_ne hc rfl, ?_, fun c' hc' => ?_⟩
    · rw [ht.bankOf hregs, hbank]
    · rw [ht.cell hc']
      exact ⟨rfl, rfl, rfl⟩

/-- What BANKO leaves of the register files `f` (R165, R171): all but its bank, every register of which is invalid where the bank was not OFF. -/
def RegFiles.LostBank (f f' : RegFiles) (g : Nat) (file : BankFile) : Prop :=
  f'.k = f.k ∧
    (file = .scalar → f'.v = f.v ∧ (∀ n, n / 16 ≠ g / 16 → f'.gReg n = f.gReg n) ∧
      ((f.gBank (g / 16)).st ≠ .off → ∀ n, n / 16 = g / 16 → (f'.gReg n).now.valid = false)) ∧
    (file = .vector → f'.g = f.g ∧ (∀ n, n / 4 ≠ g / 4 → f'.vReg n = f.vReg n) ∧
      ((f.vBank (g / 4)).st ≠ .off → ∀ n, n / 4 = g / 4 → (f'.vReg n).now.valid = false))

theorem RegFiles.lostBank_self {f : RegFiles} (h : (f.bank (bankName g file 0)).st = .off) : f.LostBank f g.toNat file := by
  refine ⟨rfl, ?_, ?_⟩
  · rintro rfl
    exact ⟨rfl, fun _ _ => rfl, fun hon => absurd h hon⟩
  · rintro rfl
    exact ⟨rfl, fun _ _ => rfl, fun hon => absurd h hon⟩

theorem RegFiles.lostBank_kill (f : RegFiles) (g : BitVec 6) (file : BankFile) (k : Bank) :
    f.LostBank ((f.kill (bankName g file 0)).setBank (bankName g file 0) k) g.toNat file := by
  refine ⟨by cases file <;> rfl, ?_, ?_⟩
  · rintro rfl
    exact ⟨rfl, fun n hn => (f.gReg_killG _ n).trans (if_neg hn), fun _ n hn => by
      rw [show ((f.kill (bankName g .scalar 0)).setBank (bankName g .scalar 0) k).gReg n = (f.killG (g.toNat / 16)).gReg n from rfl,
        f.gReg_killG, if_pos hn]⟩
  · rintro rfl
    exact ⟨rfl, fun n hn => (f.vReg_killV _ n).trans (if_neg hn), fun _ n hn => by
      rw [show ((f.kill (bankName g .vector 0)).setBank (bankName g .vector 0) k).vReg n = (f.killV (g.toNat / 4)).vReg n from rfl,
        f.vReg_killV, if_pos hn]⟩

theorem Bank.on_or_off {b : Bank} (h : b.isWaking = false) : b.st = .full ∨ b.st = .keep ∨ b.st = .off := by
  unfold Bank.isWaking at h
  cases hb : b.st with
  | full => exact .inl rfl
  | keep => exact .inr (.inl rfl)
  | off => exact .inr (.inr rfl)
  | waking => rw [hb] at h; exact absurd h Bool.noConfusion

theorem banko_runs (hfile : file ≠ .spad) (h : s.goes (.banko g file c0)) (hc : s.cell? s.site.cell = some c)
    (hw : (s.bankOf s.site.cell (bankName g file 0)).isWaking = false) (ha : c.bankAwaited (bankName g file 0) = false) :
    Runs (.banko g file c0) s [(c0, ⟨BitVec.ofNat 32 (s.bankOf s.site.cell (bankName g file 0)).st.code, s.omark (.banko g file c0)⟩)]
      (fun t => BesideRegs s t ∧ (∀ b, b ≠ bankName g file 0 → t.bankOf s.site.cell b = s.bankOf s.site.cell b) ∧
        (t.bankOf s.site.cell (bankName g file 0)).st = .off ∧
        ∀ c', t.cell? s.site.cell = some c' → c.regs.LostBank c'.regs g.toNat file) := by
  have hregs := bankName_ne_spad g hfile
  have hbank := ((quiet_refl s).regsBecome hc).bankOf hregs
  have hissuing := congrArg Bank.st (issuing_bankOf s (.banko g file c0) (bankName g file 0))
  have hon : (s.bankOf s.site.cell (bankName g file 0)).st = .full ∨ (s.bankOf s.site.cell (bankName g file 0)).st = .keep → Runs (.banko g file c0) s
      [(c0, ⟨BitVec.ofNat 32 (s.bankOf s.site.cell (bankName g file 0)).st.code, s.omark (.banko g file c0)⟩)]
      (fun t => RegsBecome s t ((c.regs.kill (bankName g file 0)).setBank (bankName g file 0) ⟨.off, s.cycle⟩)) := fun hon =>
    force_runs_regs (f := .off) hfile h hc hw ha ((force_off_on (hon.imp hissuing.trans hissuing.trans)).trans
      (congrArg (·, true) (bankToOff_eq hregs ..)))
  have hlost : ((s.bankOf s.site.cell (bankName g file 0)).st = .full ∨ (s.bankOf s.site.cell (bankName g file 0)).st = .keep) ∨
      (s.bankOf s.site.cell (bankName g file 0)).st = .off := or_assoc.mpr (Bank.on_or_off hw)
  obtain h1 | hoff := hlost
  · refine (hon h1).imp fun t ht => ⟨ht.1, fun b hb => ht.bankOf_ne hc ?_, ?_, fun c' hc' => ?_⟩
    · rw [RegFiles.bank_setBank_ne _ hb, RegFiles.bank_kill]
    · rw [ht.bankOf hregs, RegFiles.bank_setBank]
      refine (RegFiles.hasBank_kill ..).mpr (RegFiles.hasBank_of_on ?_)
      obtain h1 | h1 := h1 <;> rw [← hbank, h1] <;> exact BankState.noConfusion
    · rw [ht.cell hc']
      exact c.regs.lostBank_kill g file _
  · refine (force_runs_quiet (f := .off) hfile h hc hw ha (force_off_off (hissuing.trans hoff))).imp fun t ht => ?_
    have ht := ht.regsBecome hc
    refine ⟨ht.1, fun b _ => ht.bankOf_ne hc rfl, ?_, fun c' hc' => ?_⟩
    · rw [ht.bankOf hregs, ← hbank, hoff]
    · rw [ht.cell hc']
      exact RegFiles.lostBank_self (by rw [← hbank, hoff])

theorem bankw_runs_full (hfile : file ≠ .spad) (h : s.goes (.bankw g file c0)) (hc : s.cell? s.site.cell = some c)
    (ha : c.bankAwaited (bankName g file 0) = false) (hfull : (s.bankOf s.site.cell (bankName g file 0)).st = .full) :
    Runs (.bankw g file c0) s [(c0, ⟨2, s.omark (.bankw g file c0)⟩)] (Quiet s) := by
  have hw : (s.bankOf s.site.cell (bankName g file 0)).isWaking = false := by rw [Bank.isWaking, hfull]
  have hruns := force_runs_quiet (f := .wake) hfile h hc hw ha (force_wake_full ((congrArg Bank.st (issuing_bankOf ..)).trans hfull))
  rw [hfull] at hruns
  exact hruns

theorem bankw_waits (hfile : file ≠ .spad) (h : s.goes (.bankw g file c0)) (hc : s.cell? s.site.cell = some c)
    (ha : c.bankAwaited (bankName g file 0) = false) {fromOff : Bool}
    (hst : (s.bankOf s.site.cell (bankName g file 0)).st = (if fromOff then .off else .keep)) (hhas : c.regs.hasBank (bankName g file 0)) :
    Waits (.bankw g file c0) s (fun t => BesideRegs s { t with pend := s.pend } ∧
      (t.bankOf s.site.cell (bankName g file 0)).st = .waking fromOff (s.cycle + (if fromOff then 24 else 4) * c.divider) ∧
      ∀ c', t.cell? s.site.cell = some c' → c'.regs.g = c.regs.g ∧ c'.regs.v = c.regs.v ∧ c'.regs.k = c.regs.k) := by
  have hregs := bankName_ne_spad g hfile
  have hw : (s.bankOf s.site.cell (bankName g file 0)).isWaking = false := by cases fromOff <;> rw [Bank.isWaking, hst] <;> rfl
  obtain ⟨due, hdue⟩ : ∃ due, due = s.cycle + (if fromOff then 24 else 4) * c.divider := ⟨_, rfl⟩
  have hdelay : s.cycle + wakeDelay (bankName g file 0) fromOff c.divider = due := by
    cases file with
    | spad => exact absurd rfl hfile
    | scalar | vector => exact hdue.symm
  have hforce : (s.issuing (.bankw g file c0)).force s.site.cell c.divider .wake (bankName g file 0) = ((s.issuing (.bankw g file c0)).updCell s.site.cell
      (fun c' => c'.updRegs (fun f => f.setBank (bankName g file 0) ⟨.waking fromOff due, s.cycle⟩)), false) := by
    rw [force_wake ((congrArg Bank.st (issuing_bankOf ..)).trans hst), setBankState_eq hregs, issuing_cycle, hdelay]
  have ht := ((quiet_issuing s (.bankw g file c0)).regsBecome hc).updRegs (fun f => f.setBank (bankName g file 0) ⟨.waking fromOff due, s.cycle⟩)
  rw [← hdue]
  refine ⟨_, _, exec_force_waits (f := .wake) h (fun hnum => hfile hnum.1) hc (bankName_file g hfile _) hw ha (forceRefused_regs _ _ _ hregs) hforce,
    (issued_issuing h).updCell _ (Cell.onlyRegs_updRegs _).besideBlocks, issuing_flight s (.bankw g file c0), rfl, rfl, rfl, rfl, rfl, ht.1, ?_,
    fun c' hc' => ?_⟩
  · exact congrArg Bank.st ((ht.bankOf hregs).trans (RegFiles.bank_setBank hhas _))
  · rw [ht.cell hc']
    exact c.regs.setBank_regs _ _

end Registers

end Sys2Proof.Machine

namespace Sys2Proof
open Sys2Proof.Machine

/-- Settles O14: each instruction by its force on its bank, an update of the registers of its cell. -/
theorem forcedRegisterBanks : Obligations.ForcedRegisterBanks := by
  refine ⟨fun g file c0 s c => bankk_runs, fun g file c0 s c => banko_runs, fun g file c0 s c hfile h hc ha =>
    ⟨bankw_runs_full hfile h hc ha, fun fromOff hst hscalar hvector => bankw_waits hfile h hc ha hst ?_⟩⟩
  cases file with
  | scalar => exact hscalar rfl
  | vector => exact hvector rfl
  | spad => exact absurd rfl hfile

end Sys2Proof
end

section
/-! PROOFS. O15: BANKK, BANKO and BANKW on scratchpad banks (R165, R177, R178) -/

namespace Sys2Proof.Machine

/-! Refusals. -/

/-- An instruction that issues and raises a fault about its opcode emits nothing and leaves memory. -/
theorem runs_of_opcodeFault {i : Instr} {s : State} (h : s.goes i) {code : Nat} (he : exec i s = .next ((s.took s.site i).opcodeFault s.site code i)) :
    Runs i s [] (fun t => OwnFault s t code 0 0 (BitVec.ofNat 64 i.opcode) ∧ SameMemory s t) := by
  have hquiet := quiet_took s i
  have hframe := sameButFaults_opcodeFault (s.took s.site i) s.site code i none
  have htaken := faultTaken_opcodeFault (s.took s.site i) s.site code i none
  rw [took_fireNo] at htaken
  exact runs_silent he ((issued_took i s h.1).of_face (sameFace_opcodeFault ..)) (hframe.flight.trans (took_flight ..))
    ⟨htaken.congr hquiet.sameCells.sameFlt rfl rfl, hquiet.sameMemory.trans hframe.sameMemory⟩

theorem exec_force_number {f : Force} {g : BitVec 6} {c0 : Consumer} {s : State} (h : s.goes (f.instr g .spad c0))
    (hnum : 2048 ≤ (s.lval (f.instr g .spad c0)).toNat) : exec (f.instr g .spad c0) s =
      .next ((s.took s.site (f.instr g .spad c0)).opcodeFault s.site codeProt (f.instr g .spad c0)) := by
  rw [exec_force, issueBank, issueCtl_goes h]
  exact congrArg _ (if_pos ⟨rfl, hnum⟩)

section Spad
variable {f : Force} {g : BitVec 6} {c0 : Consumer} {s : State} {c : Cell}

theorem bankName_spad {l : Word} (g : BitVec 6) (h : l.toNat < 2048) : bankName g .spad l = .spad l.toNat :=
  congrArg BankName.spad (Nat.mod_eq_of_lt h)

theorem Cell.bankAwaited_spad (c : Cell) (b : Nat) : c.bankAwaited (.spad b) = false := by
  rw [Cell.bankAwaited, List.any_eq_false]
  intro bl _ hany
  obtain ⟨j, -, hj⟩ := List.any_eq_true.mp hany
  rw [Bool.and_eq_true] at hj
  obtain ⟨-, hj⟩ := hj
  split at hj <;> simp_all

/-- A BANK instruction under .SPAD on a bank that segments of another context hold back. -/
theorem force_refused_runs (h : s.goes (f.instr g .spad c0)) (hc : s.cell? s.site.cell = some c) (hlt : (s.lval (f.instr g .spad c0)).toNat < 2048)
    (hw : (s.mem.bank (s.lval (f.instr g .spad c0)).toNat).isWaking = false)
    (hr : forceRefused s.mem c.context f (.spad (s.lval (f.instr g .spad c0)).toNat) = true) :
    Runs (f.instr g .spad c0) s [] (fun t => OwnFault s t 5 0 0 (BitVec.ofNat 64 (f.instr g .spad c0).opcode) ∧ SameMemory s t) := by
  have hquiet := quiet_issuing s (f.instr g .spad c0)
  have hattempt := bankAttempt_issuing (f := f) (c0 := c0) hc (bankName_spad g hlt) hw (c.bankAwaited_spad _)
  rw [if_pos hr] at hattempt
  have he := (exec_force_goes h (fun hnum => absurd hlt (Nat.not_lt_of_le hnum.2))).trans (congrArg _ (tried_some hattempt))
  have hframe := sameButFaults_opcodeFault (s.issuing (f.instr g .spad c0)) s.site codeProt (f.instr g .spad c0) (some s.stamps)
  have htaken := faultTaken_opcodeFault (s.issuing (f.instr g .spad c0)) s.site codeProt (f.instr g .spad c0) (some s.stamps)
  rw [issuing_fireNo] at htaken
  exact runs_of_face h he ((sameFace_opcodeFault ..).trans (sameFace_release ..)) (hframe.flight.trans (issuing_flight ..))
    ⟨htaken.congr hquiet.sameCells.sameFlt (issuing_cycle ..).symm (sameFlt_updBlock ..), hquiet.sameMemory.trans hframe.sameMemory⟩

/-! Forces. -/

/-- A BANK instruction under .SPAD that changes memory and replies. -/
theorem force_runs_spad {u : State} {m : MemSys} (h : s.goes (f.instr g .spad c0)) (hc : s.cell? s.site.cell = some c)
    (hlt : (s.lval (f.instr g .spad c0)).toNat < 2048) (hw : (s.mem.bank (s.lval (f.instr g .spad c0)).toNat).isWaking = false)
    (hr : forceRefused s.mem c.context f (.spad (s.lval (f.instr g .spad c0)).toNat) = false)
    (hforce : (s.issuing (f.instr g .spad c0)).force s.site.cell c.divider f (.spad (s.lval (f.instr g .spad c0)).toNat) = (u, true))
    (hu : u = { s.issuing (f.instr g .spad c0) with mem := m }) : Runs (f.instr g .spad c0) s
      [(c0, ⟨BitVec.ofNat 32 (s.mem.bank (s.lval (f.instr g .spad c0)).toNat).st.code, s.omark (f.instr g .spad c0)⟩)]
      (fun t => SameCells s t ∧ t.mem = m) := by
  have he := exec_force_reached h (fun hnum => absurd hlt (Nat.not_lt_of_le hnum.2)) hc (bankName_spad g hlt) hw (c.bankAwaited_spad _) hr hforce
  subst hu
  exact runs_of_reply h c0 _ he (sameFace_of_eq rfl) (issuing_cycle s (f.instr g .spad c0)) (issuing_flight s (f.instr g .spad c0))
    ⟨(quiet_issuing s _).sameCells.trans (sameCells_of_eq (reply_cells ..)), reply_mem ..⟩

/-- The segments of a scratchpad bank that is put OFF: each of them dead, and every other one as it was. -/
theorem MemSys.bankOff_segs (m : MemSys) (b : Nat) : (∀ x ∈ (m.bankOff b).segs, spadBank (x.page * 4096) = b → x.live = false) ∧
    ∀ x ∈ m.segs, spadBank (x.page * 4096) ≠ b → x ∈ (m.bankOff b).segs := by
  refine ⟨fun x hx hb => ?_, fun x hx hb => List.mem_map.mpr ⟨x, hx, if_neg hb⟩⟩
  obtain ⟨y, -, rfl⟩ := List.mem_map.mp hx
  split_ifs at hb ⊢
  · rfl
  · exact absurd hb (by assumption)

theorem bankk_runs_spad (h : s.goes (.bankk g .spad c0)) (hc : s.cell? s.site.cell = some c) (hlt : (s.lval (.bankk g .spad c0)).toNat < 2048)
    (hw : (s.mem.bank (s.lval (.bankk g .spad c0)).toNat).isWaking = false)
    (ho : s.mem.bankOwned (s.lval (.bankk g .spad c0)).toNat c.context = true) : Runs (.bankk g .spad c0) s
      [(c0, ⟨BitVec.ofNat 32 (s.mem.bank (s.lval (.bankk g .spad c0)).toNat).st.code, s.omark (.bankk g .spad c0)⟩)]
      (fun t => SameCells s t ∧ t.mem.bytes = s.mem.bytes ∧ t.mem.segs = s.mem.segs ∧
        (∀ b, b ≠ (s.lval (.bankk g .spad c0)).toNat → t.mem.bank b = s.mem.bank b) ∧
        (t.mem.bank (s.lval (.bankk g .spad c0)).toNat).st = if (s.mem.bank (s.lval (.bankk g .spad c0)).toNat).st = .full then .keep
          else (s.mem.bank (s.lval (.bankk g .spad c0)).toNat).st) := by
  have hr : forceRefused s.mem c.context .keep (.spad (s.lval (.bankk g .spad c0)).toNat) = false := by rw [forceRefused, ho]; rfl
  by_cases hfull : (s.mem.bank (s.lval (.bankk g .spad c0)).toNat).st = .full
  · rw [if_pos hfull]
    refine (force_runs_spad (f := .keep) h hc hlt hw hr (force_keep_full hfull) rfl).imp fun t ⟨hcells, hmem⟩ => ?_
    rw [hmem]
    exact ⟨hcells, rfl, rfl, fun b hb => (MemSys.bank_setBank ..).trans (if_neg hb), congrArg Bank.st ((MemSys.bank_setBank ..).trans (if_pos rfl))⟩
  · rw [if_neg hfull]
    refine (force_runs_spad (f := .keep) h hc hlt hw hr (force_keep_other hfull) rfl).imp fun t ⟨hcells, hmem⟩ => ?_
    rw [hmem]
    exact ⟨hcells, rfl, rfl, fun b _ => rfl, rfl⟩

theorem banko_runs_spad (h : s.goes (.banko g .spad c0)) (hc : s.cell? s.site.cell = some c) (hlt : (s.lval (.banko g .spad c0)).toNat < 2048)
    (hw : (s.mem.bank (s.lval (.banko g .spad c0)).toNat).isWaking = false)
    (ho : s.mem.bankOwned (s.lval (.banko g .spad c0)).toNat c.context = true) : Runs (.banko g .spad c0) s
      [(c0, ⟨BitVec.ofNat 32 (s.mem.bank (s.lval (.banko g .spad c0)).toNat).st.code, s.omark (.banko g .spad c0)⟩)]
      (fun t => SameCells s t ∧ (t.mem.bank (s.lval (.banko g .spad c0)).toNat).st = .off ∧ t.mem.bytes = s.mem.bytes ∧
        ((s.mem.bank (s.lval (.banko g .spad c0)).toNat).st ≠ .off →
          ∀ x ∈ t.mem.segs, spadBank (x.page * 4096) = (s.lval (.banko g .spad c0)).toNat → x.live = false) ∧
        ∀ x ∈ s.mem.segs, spadBank (x.page * 4096) ≠ (s.lval (.banko g .spad c0)).toNat → x ∈ t.mem.segs) := by
  have hr : forceRefused s.mem c.context .off (.spad (s.lval (.banko g .spad c0)).toNat) = false := by rw [forceRefused, ho]; rfl
  obtain hon | hoff := or_assoc.mpr (Bank.on_or_off hw)
  · refine (force_runs_spad (f := .off) h hc hlt hw hr (force_off_on hon) rfl).imp fun t ⟨hcells, hmem⟩ => ?_
    obtain ⟨hdead, hother⟩ := (s.issuing (.banko g .spad c0)).mem.bankOff_segs (s.lval (.banko g .spad c0)).toNat
    rw [hmem]
    exact ⟨hcells, congrArg Bank.st ((MemSys.bank_setBank ..).trans (if_pos rfl)), rfl, fun _ => hdead, hother⟩
  · refine (force_runs_spad (f := .off) h hc hlt hw hr (force_off_off hoff) rfl).imp fun t ⟨hcells, hmem⟩ => ?_
    rw [hmem]
    exact ⟨hcells, hoff, rfl, fun hon => absurd hoff hon, fun x hx _ => hx⟩

theorem bankw_runs_spad (h : s.goes (.bankw g .spad c0)) (hlt : (s.lval (.bankw g .spad c0)).toNat < 2048)
    (hfull : (s.mem.bank (s.lval (.bankw g .spad c0)).toNat).st = .full) :
    Runs (.bankw g .spad c0) s [(c0, ⟨2, s.omark (.bankw g .spad c0)⟩)] (Quiet s) := by
  obtain ⟨c, -, hc, -⟩ := s.placed_iff.mp h.1
  have hw : (s.mem.bank (s.lval (.bankw g .spad c0)).toNat).isWaking = false := by rw [Bank.isWaking, hfull]
  have he := exec_force_reached (f := .wake) h (fun hnum => absurd hlt (Nat.not_lt_of_le hnum.2)) hc (bankName_spad g hlt) hw (c.bankAwaited_spad _) rfl
    (force_wake_full hfull)
  have hruns : Runs (.bankw g .spad c0) s [(c0, ⟨BitVec.ofNat 32 (s.mem.bank (s.lval (.bankw g .spad c0)).toNat).st.code, s.omark (.bankw g .spad c0)⟩)]
      (Quiet s) := runs_quiet_of_reply h he
  rw [hfull] at hruns
  exact hruns

end Spad

end Sys2Proof.Machine

namespace Sys2Proof
open Sys2Proof.Machine

/-- Settles O15: a number past the banks is refused at issue, segments of another context at the first attempt; else the force changes memory. -/
theorem forcedScratchpadBanks : Obligations.ForcedScratchpadBanks := by
  refine ⟨?_, fun g c0 s c => bankk_runs_spad, fun g c0 s c => banko_runs_spad, ?_, fun g c0 s => bankw_runs_spad⟩
  · rintro i g c0 s (rfl | rfl | rfl) h hnum
    · exact runs_of_opcodeFault h (exec_force_number (f := .keep) h hnum)
    · exact runs_of_opcodeFault h (exec_force_number (f := .off) h hnum)
    · exact runs_of_opcodeFault h (exec_force_number (f := .wake) h hnum)
  · rintro i g c0 s c (rfl | rfl) h hc hlt hw ho
    · exact force_refused_runs (f := .keep) h hc hlt hw (by rw [forceRefused]; exact congrArg not ho)
    · exact force_refused_runs (f := .off) h hc hlt hw (by rw [forceRefused]; exact congrArg not ho)

end Sys2Proof
end

section
/-! PROOFS. O19: SRD and the system registers (R172, R345 to R347) -/

namespace Sys2Proof.Machine

/-! BANK_MAP (R172). -/

theorem BankState.code_lt (b : BankState) : b.code < 4 := by
  cases b <;> simp [BankState.code]

/-- The codes of a cell's banks: the 4 scalar banks, then the 8 vector banks. -/
def Cell.bankCodes (c : Cell) : List Nat :=
  (List.range 4).map (fun b => (c.regs.gBank b).st.code) ++ (List.range 8).map (fun b => (c.regs.vBank b).st.code)

theorem Cell.bankCodes_lt {c : Cell} {x : Nat} (hx : x ∈ c.bankCodes) : x < 4 := by
  obtain hx | hx := List.mem_append.mp hx
  · obtain ⟨b, -, rfl⟩ := List.mem_map.mp hx
    exact BankState.code_lt _
  · obtain ⟨b, -, rfl⟩ := List.mem_map.mp hx
    exact BankState.code_lt _

theorem bankCodes_ofDigits_lt (c : Cell) : Nat.ofDigits 4 c.bankCodes < 2 ^ 24 :=
  (Nat.ofDigits_lt_base_pow_length (by decide) fun _ => Cell.bankCodes_lt).trans_eq (by simp [Cell.bankCodes])

theorem foldl_digits (f : Nat → Nat) (k n : Nat) :
    (List.range n).foldl (fun a b => a + f b * 4 ^ (b + k)) 0 = 4 ^ k * Nat.ofDigits 4 ((List.range n).map f) := by
  induction n with
  | zero => simp
  | succ n ih =>
    rw [List.range_succ, List.foldl_append, ih, List.map_append, Nat.ofDigits_append]
    simp only [List.foldl_cons, List.foldl_nil, List.map_cons, List.map_nil, Nat.ofDigits_singleton, List.length_map, List.length_range, pow_add]
    ring

/-- BANK_MAP is the number whose digits in base 4 are the codes. -/
theorem bankMap_toNat (c : Cell) : c.bankMap.toNat = Nat.ofDigits 4 c.bankCodes := by
  have hg := foldl_digits (fun b => (c.regs.gBank b).st.code) 0 4
  have hv := foldl_digits (fun b => (c.regs.vBank b).st.code) 4 8
  have hcodes : Nat.ofDigits 4 c.bankCodes = Nat.ofDigits 4 ((List.range 4).map fun b => (c.regs.gBank b).st.code) +
      4 ^ 4 * Nat.ofDigits 4 ((List.range 8).map fun b => (c.regs.vBank b).st.code) := by
    rw [Cell.bankCodes, Nat.ofDigits_append, List.length_map, List.length_range]
  simp only [add_zero, pow_zero, one_mul] at hg
  rw [Cell.bankMap, hg, hv, ← hcodes, BitVec.toNat_ofNat, Nat.mod_eq_of_lt ((bankCodes_ofDigits_lt c).trans (by decide))]

theorem bankMap_digit (c : Cell) {k : Nat} (hk : k < 12) : c.bankMap.toNat / 4 ^ k % 4 = c.bankCodes.getD k 0 := by
  have hlen : k < c.bankCodes.length := by simpa [Cell.bankCodes] using hk
  rw [bankMap_toNat, Nat.ofDigits_div_pow_eq_ofDigits_drop k (by decide) _ fun _ => Cell.bankCodes_lt, Nat.ofDigits_mod_eq_head!,
    List.drop_eq_getElem_cons hlen, List.head!_cons, List.getD_eq_getElem _ _ hlen, Nat.mod_eq_of_lt (Cell.bankCodes_lt (List.getElem_mem hlen))]

theorem bankMap_scalar (c : Cell) {b : Nat} (hb : b < 4) : c.bankMap.toNat / 4 ^ b % 4 = (c.regs.gBank b).st.code := by
  rw [bankMap_digit c (by omega)]
  interval_cases b <;> rfl

theorem bankMap_vector (c : Cell) {b : Nat} (hb : b < 8) : c.bankMap.toNat / 4 ^ (b + 4) % 4 = (c.regs.vBank b).st.code := by
  rw [bankMap_digit c (by omega)]
  interval_cases b <;> rfl

/-- Two bits of a register that stands in the low half of 64 bits. -/
theorem pair_of_word {w : Word} {k code : Nat} (h : w.toNat / 4 ^ k % 4 = code) : (w.setWidth 64).extractLsb' (2 * k) 2 = BitVec.ofNat 2 code := by
  apply BitVec.eq_of_toNat_eq
  have hw : w.toNat % 2 ^ 64 = w.toNat := Nat.mod_eq_of_lt (w.isLt.trans (by decide))
  rw [BitVec.extractLsb'_toNat, BitVec.toNat_setWidth, hw, BitVec.toNat_ofNat, Nat.shiftRight_eq_div_pow, pow_mul, ← h]
  exact (Nat.mod_mod _ 4).symm

theorem bankMap_reserved (c : Cell) : (c.bankMap.setWidth 64).extractLsb' 24 40 = 0 := by
  apply BitVec.eq_of_toNat_eq
  have hw : c.bankMap.toNat % 2 ^ 64 = c.bankMap.toNat := Nat.mod_eq_of_lt (c.bankMap.isLt.trans (by decide))
  rw [BitVec.extractLsb'_toNat, BitVec.toNat_setWidth, hw, Nat.shiftRight_eq_div_pow, bankMap_toNat,
    Nat.div_eq_of_lt (bankCodes_ofDigits_lt c)]
  rfl

/-! SRD. -/

theorem srd_runs {n : BitVec 12} {c0 : Consumer} {s : State} {c : Cell} (h : s.goes (.srd n c0)) (hc : s.cell? s.site.cell = some c) :
    Runs (.srd n c0) s ((regToks n.toNat (s.sysReg c (s.fireNo s.site) n.toNat) (s.omark (.srd n c0))).map (fun k => (c0, k))) (Quiet s) := by
  refine runs_quiet_of_emits h _ ?_
  rw [exec_srd, execSrd, issueCtl_goes h]
  simp only [hc, State.emits, List.foldl_map]
  rfl

/-! What the registers read. -/

theorem liftNo_of_region? {s : State} {rid : Nat} {r : Region} (h : s.region? rid = some r) :
    (s.liftNo rid).setWidth 64 = BitVec.ofNat 64 (r.lift % 64 + r.var % 4 * 64) := by
  apply BitVec.eq_of_toNat_eq
  simp only [State.liftNo, h, BitVec.toNat_setWidth, BitVec.toNat_ofNat]
  omega

theorem sysReg_rowprog (s : State) (c : Cell) (fire : Word) {k : Nat} (hk : k < 4) :
    s.sysReg c fire (0x018 + k) = ((s.sysAt c.rid k).rowprog).setWidth 64 := by
  interval_cases k <;> rfl

/-- The registers of a context are those that its number names, or CTXSEL in context 0. -/
theorem sysReg_context (s : State) (c : Cell) (fire : Word) {x : CtxRegs}
    (hx : x = s.ctxRegs (if c.context = 0 then s.dev.ctxSel.toNat % 4096 else c.context)) :
    s.sysReg c fire 0x020 = x.fltCtl.setWidth 64 ∧ s.sysReg c fire 0x021 = x.fltLog ∧ s.sysReg c fire 0x022 = x.fltCnt.setWidth 64 ∧
      s.sysReg c fire 0x023 = x.occMap ∧ s.sysReg c fire 0x024 = x.hangLimit.setWidth 64 ∧ s.sysReg c fire 0x025 = x.seamBase ∧
      s.sysReg c fire 0x030 = x.ptRoot ∧ s.sysReg c fire 0x031 = x.saveBase := by
  subst hx
  exact ⟨rfl, rfl, rfl, rfl, rfl, rfl, rfl, rfl⟩

end Sys2Proof.Machine

namespace Sys2Proof
open Sys2Proof.Machine

/-- Settles O19: SRD emits the halves of its register, and each register of R346 by the row of the table. -/
theorem systemRegisterReads : Obligations.SystemRegisterReads := by
  refine ⟨fun n c0 s c h hc h32 => ?_, fun n c0 s c h hc h64 => ?_, fun s c fire => ?_⟩
  · have hruns := srd_runs h hc
    rwa [regToks, h32] at hruns
  · have hruns := srd_runs h hc
    rwa [regToks, h64] at hruns
  · obtain ⟨hctl, -, -, -, -, -, hroot, -⟩ := sysReg_context s c fire rfl
    refine ⟨rfl, rfl, rfl, rfl, rfl, rfl, rfl, fun h0 => ?_, fun h0 => ?_, fun r hr => liftNo_of_region? hr,
      ⟨fun b hb => pair_of_word (bankMap_scalar c hb), fun b hb => pair_of_word (bankMap_vector c hb), bankMap_reserved c⟩, rfl, rfl,
      fun k => sysReg_rowprog s c fire, fun x => sysReg_context s c fire, rfl, rfl, rfl, rfl, rfl, rfl⟩
    · rw [hctl, hroot, if_neg h0]
      exact ⟨rfl, rfl⟩
    · rw [hctl, if_pos h0]

end Sys2Proof
end

section
/-! PROOFS. O16: the idle transitions of banks and the end of their wakes (R165, R177) -/

namespace Sys2Proof.Machine

/-! Where an idle bank goes. -/

theorem idleTarget_off {l : List (Bool × Bool)} (h : ∀ x ∈ l, x.1 = false) : idleTarget (l.map (·.1)) (l.map (·.2)) = some .off := by
  have hany : (l.map (·.1)).any id = false := by simpa using h
  rw [idleTarget, hany]
  rfl

theorem idleTarget_keep {l : List (Bool × Bool)} (hfar : ∀ x ∈ l, x.1 = true → x.2 = true) (hvalid : ∃ x ∈ l, x.1 = true) :
    idleTarget (l.map (·.1)) (l.map (·.2)) = some .keep := by
  have hany : (l.map (·.1)).any id = true := by simpa using hvalid
  have hall : l.all (fun x => !x.1 || x.2) = true := List.all_eq_true.mpr fun x hx => by
    cases hx1 : x.1 with
    | false => rfl
    | true => exact hfar x hx hx1
  have hzip : (l.map (·.1)).zip (l.map (·.2)) = l := (List.zip_of_prod rfl rfl).symm
  rw [idleTarget, hany, hzip, hall]
  rfl

/-! Register banks. -/

/-- The banks of a cell by their numbers in the steps: 0 to 3 scalar, 4 to 11 vector. -/
def bankNumber (n : Nat) : BankName := if n < 4 then .scalar n else .vector (n - 4)

theorem bankNumber_ne_spad (n k : Nat) : bankNumber n ≠ .spad k := by
  unfold bankNumber
  split_ifs <;> exact BankName.noConfusion

/-- The valid and FAR marks of the registers of a bank. -/
def RegFiles.marks (f : RegFiles) (b : BankName) : List (Bool × Bool) :=
  match b with
  | .scalar b => (List.range 16).map (fun i => ((f.gReg (b * 16 + i)).now.valid, (f.gReg (b * 16 + i)).now.far))
  | .vector b => (List.range 4).map (fun i => ((f.vReg (b * 4 + i)).now.valid, (f.vReg (b * 4 + i)).now.far))
  | .spad _ => []

theorem bankOf_bankNumber {s : State} {cell : Nat} {c : Cell} (hc : s.cell? cell = some c) (n : Nat) :
    s.bankOf cell (bankNumber n) = c.regs.bank (bankNumber n) := by
  rw [bankOf_of_cell? hc]
  unfold bankNumber
  split_ifs <;> rfl

/-- BANK_IDLE_TIMEOUT of a bank that is FULL, idle and not awaited goes where the marks of its registers say. -/
theorem bankIdleTimeout_eq {s : State} {cell n : Nat} {c : Cell} (hc : s.cell? cell = some c) (hn : n < 12)
    (hfull : (c.regs.bank (bankNumber n)).st = .full) (hidle : (c.regs.bank (bankNumber n)).busyAt + 9 * c.divider ≤ s.cycle)
    (ha : c.bankAwaited (bankNumber n) = false) : exec (.bankIdleTimeout cell n) s =
      match idleTarget ((c.regs.marks (bankNumber n)).map (·.1)) ((c.regs.marks (bankNumber n)).map (·.2)) with
      | some .off => .next (s.bankToOff cell (bankNumber n))
      | some .keep => .next (s.setBankState cell (bankNumber n) .keep)
      | some .full | some (.waking _ _) | none => .next s := by
  have hbank := bankOf_bankNumber hc n
  have hcond : n < 12 ∧ (s.bankOf cell (bankNumber n)).st = .full ∧ (s.bankOf cell (bankNumber n)).idle8 s.cycle c.divider = true ∧
      c.bankAwaited (bankNumber n) = false := ⟨hn, by rw [hbank, hfull], by rw [hbank, Bank.idle8, decide_eq_true hidle], ha⟩
  rw [exec_bankIdleTimeout, execBankIdleTimeout, hc]
  unfold bankNumber at hcond ⊢
  split_ifs at hcond ⊢ with h4
  · exact if_pos hcond
  · exact if_pos hcond


theorem updRegs_leaves {s : State} {cell : Nat} {c : Cell} (hc : s.cell? cell = some c) (G : RegFiles → RegFiles) :
    BesideRegs s (s.updCell cell (fun c => c.updRegs G)) ∧ (s.updCell cell (fun c => c.updRegs G)).cell? cell = some (c.updRegs G) :=
  ⟨(quiet_refl s).besideRegs.updCell _ (Cell.onlyRegs_updRegs G), by
    rw [s.cell?_updCell_self _ (fun c => c.updRegs G) fun _ => rfl, hc, Option.map_some]⟩

section Idle
variable {s : State} {cell n : Nat} {c : Cell} {b : BankName} (hc : s.cell? cell = some c) (hb : bankNumber n = b) (hn : n < 12)
  (hfull : (c.regs.bank b).st = .full) (hidle : (c.regs.bank b).busyAt + 9 * c.divider ≤ s.cycle) (ha : c.bankAwaited b = false)
include hc hb hn hfull hidle ha

theorem bankIdleTimeout_off (hinvalid : ∀ x ∈ c.regs.marks b, x.1 = false) :
    ∃ t c', exec (.bankIdleTimeout cell n) s = .next t ∧ BesideRegs s t ∧ t.cell? cell = some c' ∧ (c'.regs.bank b).st = .off := by
  subst hb
  obtain ⟨hbeside, hcell⟩ := updRegs_leaves hc (fun f => (f.kill (bankNumber n)).setBank (bankNumber n) ⟨.off, s.cycle⟩)
  refine ⟨_, _, ?_, hbeside, hcell, ?_⟩
  · rw [bankIdleTimeout_eq hc hn hfull hidle ha, idleTarget_off hinvalid]
    exact congrArg _ (bankToOff_eq (bankNumber_ne_spad n) s cell)
  · refine congrArg Bank.st (RegFiles.bank_setBank ?_ _)
    exact (RegFiles.hasBank_kill ..).mpr (RegFiles.hasBank_of_on (by rw [hfull]; exact BankState.noConfusion))

theorem bankIdleTimeout_keep (hfar : ∀ x ∈ c.regs.marks b, x.1 = true → x.2 = true)
    (hvalid : ∃ x ∈ c.regs.marks b, x.1 = true) :
    ∃ t c', exec (.bankIdleTimeout cell n) s = .next t ∧ BesideRegs s t ∧ t.cell? cell = some c' ∧
      (c'.regs.bank b).st = .keep ∧ c'.regs.g = c.regs.g ∧ c'.regs.v = c.regs.v := by
  subst hb
  obtain ⟨hbeside, hcell⟩ := updRegs_leaves hc (fun f => f.setBank (bankNumber n) ⟨.keep, s.cycle⟩)
  obtain ⟨hg, hv, -⟩ := c.regs.setBank_regs (bankNumber n) ⟨.keep, s.cycle⟩
  refine ⟨_, _, ?_, hbeside, hcell, ?_, hg, hv⟩
  · rw [bankIdleTimeout_eq hc hn hfull hidle ha, idleTarget_keep hfar hvalid]
    exact congrArg _ (setBankState_eq (bankNumber_ne_spad n) s cell .keep)
  · exact congrArg Bank.st (RegFiles.bank_setBank (RegFiles.hasBank_of_on (by rw [hfull]; exact BankState.noConfusion)) _)

end Idle

theorem bankNumber_scalar {b : Nat} (hb : b < 4) : bankNumber b = .scalar b := if_pos hb

theorem bankNumber_vector (b : Nat) : bankNumber (4 + b) = .vector b :=
  (if_neg (by omega)).trans (congrArg BankName.vector (Nat.add_sub_cancel_left 4 b))

theorem bankWakeDone_full {s : State} {cell n due : Nat} {fo : Bool} {c : Cell} {b : BankName} (hc : s.cell? cell = some c) (hb : bankNumber n = b)
    (hdue : due ≤ s.cycle) (hst : (c.regs.bank b).st = .waking fo due) :
    ∃ t c', exec (.bankWakeDone cell n) s = .next t ∧ BesideRegs s t ∧ t.cell? cell = some c' ∧
      (c'.regs.bank b).st = .full ∧ c'.regs.g = c.regs.g ∧ c'.regs.v = c.regs.v := by
  subst hb
  obtain ⟨hbeside, hcell⟩ := updRegs_leaves hc (fun f => f.setBank (bankNumber n) ⟨.full, s.cycle⟩)
  obtain ⟨hg, hv, -⟩ := c.regs.setBank_regs (bankNumber n) ⟨.full, s.cycle⟩
  refine ⟨_, _, ?_, hbeside, hcell, ?_, hg, hv⟩
  · have hwaking := (congrArg Bank.st (bankOf_bankNumber hc n)).trans hst
    rw [← setBankState_eq (bankNumber_ne_spad n), exec_bankWakeDone, execBankWakeDone]
    unfold bankNumber at hwaking ⊢
    simp only [hwaking, if_pos hdue]
  · exact congrArg Bank.st (RegFiles.bank_setBank (RegFiles.hasBank_of_on (by rw [hst]; exact BankState.noConfusion)) _)

/-! Scratchpad banks. -/

/-- The live and FAR marks of the segments of a scratchpad bank. -/
def MemSys.segMarks (m : MemSys) (b : Nat) : List (Bool × Bool) := (m.bankSegs b).map (fun x => (x.live, x.far))

theorem MemSys.mem_segMarks {m : MemSys} {b : Nat} {x : Bool × Bool} :
    x ∈ m.segMarks b ↔ ∃ g ∈ m.segs, spadBank (g.page * 4096) = b ∧ (g.live, g.far) = x := by
  simp only [MemSys.segMarks, MemSys.bankSegs, List.mem_map, List.mem_filter, beq_iff_eq, and_assoc]

theorem spadBankIdleTimeout_eq {s : State} {b : Nat} (hfull : (s.mem.bank b).st = .full) (hidle : (s.mem.bank b).busyAt + 9 ≤ s.cycle) :
    exec (.spadBankIdleTimeout b) s = match idleTarget ((s.mem.segMarks b).map (·.1)) ((s.mem.segMarks b).map (·.2)) with
      | some .off => .next (s.bankToOff 0 (.spad b))
      | some .keep => .next (s.setBankState 0 (.spad b) .keep)
      | some .full | some (.waking _ _) | none => .next s := by
  have hcond : (s.mem.bank b).st = .full ∧ (s.mem.bank b).idle8 s.cycle 1 = true := ⟨hfull, decide_eq_true hidle⟩
  rw [exec_spadBankIdleTimeout, execSpadBankIdleTimeout, MemSys.segMarks, List.map_map, List.map_map]
  exact if_pos hcond

theorem spadBankIdleTimeout_off {s : State} {b : Nat} (hfull : (s.mem.bank b).st = .full) (hidle : (s.mem.bank b).busyAt + 9 ≤ s.cycle)
    (hdead : ∀ x ∈ s.mem.segs, spadBank (x.page * 4096) = b → x.live = false) :
    ∃ t, exec (.spadBankIdleTimeout b) s = .next t ∧ (t.mem.bank b).st = .off ∧ t.mem.bytes = s.mem.bytes := by
  refine ⟨s.bankToOff 0 (.spad b), ?_, congrArg Bank.st ((MemSys.bank_setBank ..).trans (if_pos rfl)), rfl⟩
  rw [spadBankIdleTimeout_eq hfull hidle, idleTarget_off]
  intro x hx
  obtain ⟨g, hg, hb, rfl⟩ := MemSys.mem_segMarks.mp hx
  exact hdead g hg hb

theorem spadBankIdleTimeout_keep {s : State} {b : Nat} (hfull : (s.mem.bank b).st = .full) (hidle : (s.mem.bank b).busyAt + 9 ≤ s.cycle)
    (hfar : ∀ x ∈ s.mem.segs, spadBank (x.page * 4096) = b → x.live = true → x.far = true)
    (hlive : ∃ x ∈ s.mem.segs, spadBank (x.page * 4096) = b ∧ x.live = true) :
    ∃ t, exec (.spadBankIdleTimeout b) s = .next t ∧ (t.mem.bank b).st = .keep ∧ t.mem.bytes = s.mem.bytes ∧ t.mem.segs = s.mem.segs := by
  refine ⟨s.setBankState 0 (.spad b) .keep, ?_, congrArg Bank.st ((MemSys.bank_setBank ..).trans (if_pos rfl)), rfl, rfl⟩
  obtain ⟨g, hg, hb, hl⟩ := hlive
  rw [spadBankIdleTimeout_eq hfull hidle, idleTarget_keep ?_ ⟨_, MemSys.mem_segMarks.mpr ⟨g, hg, hb, rfl⟩, hl⟩]
  intro x hx
  obtain ⟨g', hg', hb', rfl⟩ := MemSys.mem_segMarks.mp hx
  exact hfar g' hg' hb'

theorem spadBankWakeDone_full {s : State} {b due : Nat} {fo : Bool} (hst : (s.mem.bank b).st = .waking fo due) (hdue : due ≤ s.cycle) :
    ∃ t, exec (.spadBankWakeDone b) s = .next t ∧ (t.mem.bank b).st = .full ∧ t.mem.bytes = s.mem.bytes ∧ t.mem.segs = s.mem.segs := by
  refine ⟨s.setBankState 0 (.spad b) .full, ?_, congrArg Bank.st ((MemSys.bank_setBank ..).trans (if_pos rfl)), rfl, rfl⟩
  rw [exec_spadBankWakeDone, execSpadBankWakeDone]
  simp only [hst, if_pos hdue]

end Sys2Proof.Machine

namespace Sys2Proof
open Sys2Proof.Machine

/-- Settles O16: an idle bank goes where the marks of what it holds say, and a wake that has come to its end makes its bank FULL. -/
theorem bankSteps : Obligations.BankSteps := by
  refine ⟨fun s cell c b hc hb hfull hidle ha => ?_, fun s cell c b hc hb hfull hidle ha => ?_, fun s cell c b fo due hc hdue => ?_,
    fun s b hfull hidle => ⟨spadBankIdleTimeout_off hfull hidle, spadBankIdleTimeout_keep hfull hidle⟩, fun s b fo due => spadBankWakeDone_full⟩
  · have hname := bankNumber_scalar hb
    have hmarks : ∀ x, x ∈ c.regs.marks (.scalar b) ↔ ∃ n < 16, ((c.regs.gReg (b * 16 + n)).now.valid, (c.regs.gReg (b * 16 + n)).now.far) = x := by
      simp [RegFiles.marks]
    refine ⟨fun hinvalid => bankIdleTimeout_off hc hname (by omega) hfull hidle ha fun x hx => ?_, fun hfar hvalid => ?_⟩
    · obtain ⟨n, hn, rfl⟩ := (hmarks x).mp hx
      exact hinvalid n hn
    · obtain ⟨m, hm, hmv⟩ := hvalid
      obtain ⟨t, c', he, hbeside, hc', hst, hg, -⟩ := bankIdleTimeout_keep hc hname (by omega) hfull hidle ha (fun x hx => by
        obtain ⟨n, hn, rfl⟩ := (hmarks x).mp hx
        exact hfar n hn) ⟨_, (hmarks _).mpr ⟨m, hm, rfl⟩, hmv⟩
      exact ⟨t, c', he, hbeside, hc', hst, hg⟩
  · have hname := bankNumber_vector b
    have hmarks : ∀ x, x ∈ c.regs.marks (.vector b) ↔ ∃ n < 4, ((c.regs.vReg (b * 4 + n)).now.valid, (c.regs.vReg (b * 4 + n)).now.far) = x := by
      simp [RegFiles.marks]
    refine ⟨fun hinvalid => bankIdleTimeout_off hc hname (by omega) hfull hidle ha fun x hx => ?_, fun hfar hvalid => ?_⟩
    · obtain ⟨n, hn, rfl⟩ := (hmarks x).mp hx
      exact hinvalid n hn
    · obtain ⟨m, hm, hmv⟩ := hvalid
      obtain ⟨t, c', he, hbeside, hc', hst, -, hv⟩ := bankIdleTimeout_keep hc hname (by omega) hfull hidle ha (fun x hx => by
        obtain ⟨n, hn, rfl⟩ := (hmarks x).mp hx
        exact hfar n hn) ⟨_, (hmarks _).mpr ⟨m, hm, rfl⟩, hmv⟩
      exact ⟨t, c', he, hbeside, hc', hst, hv⟩
  · exact ⟨fun hb hst => bankWakeDone_full hc (bankNumber_scalar hb) hdue hst, fun hst => bankWakeDone_full hc (bankNumber_vector b) hdue hst⟩

end Sys2Proof
end

section
/-! PROOFS. O54: starts, the controller, the sideband and the loss of the supply (R175, R362 to R373) -/

namespace Sys2Proof.Machine

/-! Starts of the ROM (R366 to R368). -/

/-- An image that the ROM rejects is where a start ends, whatever the trainings would do. -/
theorem Boot.start_rejected {b : Boot} {r : Nat} (d2d dram : Bool) (h : imageReason b.rollback b.image = some r) :
    ((b.start d2d dram true).phase, (b.start d2d dram true).reason) = (.recovery, r) := by
  simp [Boot.start, Boot.extend, h]

/-- Short of three failures, an image that passes starts where both trainings succeed, and fails with the reason of the first that does not. -/
theorem Boot.start_accepted {b : Boot} (d2d dram : Bool) (hatt : b.attempts < 3) (h : imageReason b.rollback b.image = none) :
    (b.start d2d dram true).image = b.image ∧
      (d2d = true → dram = true → (b.start d2d dram true).phase = .starting ∧ (b.start d2d dram true).svn = imageSvn b.image) ∧
      (d2d = false → ((b.start d2d dram true).phase, (b.start d2d dram true).reason, (b.start d2d dram true).attempts) = (.failed, 4, b.attempts + 1)) ∧
      (d2d = true → dram = false →
        ((b.start d2d dram true).phase, (b.start d2d dram true).reason, (b.start d2d dram true).attempts) = (.failed, 5, b.attempts + 1)) := by
  have hne : b.attempts ≠ 3 := by omega
  have hmin : min 3 (b.attempts + 1) = b.attempts + 1 := by omega
  cases d2d <;> cases dram <;> simp [Boot.start, Boot.extend, Boot.startFails, h, hne, hmin]

theorem exec_deviceStart_held {s : State} (d2d dram : Bool) (h : s.boot.phase = .held) :
    ∃ b : Boot, (b.image, b.rollback, b.attempts) = (s.boot.image, s.boot.rollback, s.boot.attempts) ∧
      exec (.deviceStart d2d dram true) s = .next { s.deviceReset true with boot := b.start d2d dram true } := by
  refine ⟨{ (s.deviceReset true).boot with attempts := s.boot.attemptsAfter }, ?_, ?_⟩
  · simp [State.deviceReset, Boot.attemptsAfter, h]
  · rw [exec_deviceStart, execDeviceStart, h]
    rfl

theorem deviceStart_accepted {s : State} (d2d dram : Bool) (hheld : s.boot.phase = .held) (hatt : s.boot.attempts < 3)
    (himg : imageReason s.boot.rollback s.boot.image = none) :
    ∃ t, exec (.deviceStart d2d dram true) s = .next t ∧ t.cells = [] ∧ t.regions = [] ∧ t.mem.segs = [] ∧ t.mem.banks = [] ∧ t.cycle = 0 ∧
      t.boot.image = s.boot.image ∧ (d2d = true → dram = true → t.boot.phase = .starting ∧ t.boot.svn = imageSvn s.boot.image) ∧
      (d2d = false → (t.boot.phase, t.boot.reason, t.boot.attempts) = (.failed, 4, s.boot.attempts + 1)) ∧
      (d2d = true → dram = false → (t.boot.phase, t.boot.reason, t.boot.attempts) = (.failed, 5, s.boot.attempts + 1)) := by
  obtain ⟨b, hb, hrun⟩ := exec_deviceStart_held d2d dram hheld
  simp only [Prod.mk.injEq] at hb
  obtain ⟨himage, hroll, hattempts⟩ := hb
  have hstart := Boot.start_accepted d2d dram (hattempts ▸ hatt) (by rwa [himage, hroll])
  rw [himage, hattempts] at hstart
  exact ⟨_, hrun, rfl, rfl, rfl, rfl, rfl, hstart⟩

theorem deviceStart_rejected {s : State} {r : Nat} (d2d dram : Bool) (hheld : s.boot.phase = .held)
    (himg : imageReason s.boot.rollback s.boot.image = some r) :
    ∃ t, exec (.deviceStart d2d dram true) s = .next t ∧ t.cells = [] ∧ (t.boot.phase, t.boot.reason) = (.recovery, r) := by
  obtain ⟨b, hb, hrun⟩ := exec_deviceStart_held d2d dram hheld
  simp only [Prod.mk.injEq] at hb
  obtain ⟨himage, hroll, -⟩ := hb
  exact ⟨_, hrun, rfl, Boot.start_rejected d2d dram (by rwa [himage, hroll])⟩

/-! The firmware's launches (R81). -/

theorem raiseLaunch_effect (s : State) (l : Launch) : (s.raiseLaunch l).boot = s.boot ∧ (s.raiseLaunch l).cells = s.cells ∧
    ∃ k, (s.raiseLaunch l).launchQ = s.launchQ ++ k ∧ (∀ x ∈ k, x.by0 = l.by0) ∧ (s.launchQ.length < 64 → k.map (fun x => x.words) = [l.words]) := by
  unfold State.raiseLaunch
  split
  · exact ⟨rfl, rfl, [l], rfl, by simp, fun _ => rfl⟩
  next hfull =>
    have hlong : ¬ s.launchQ.length < 64 := fun h => hfull (Nat.lt_of_le_of_lt (List.length_filter_le ..) h)
    split
    · exact ⟨rfl, rfl, [{ l with judged := true }], rfl, by simp, fun _ => rfl⟩
    · have honly := sequencerOnly_tellLaunch s l.ctx l.result l.cmd .qfull
      exact ⟨by rw [State.endLaunch, honly], honly.cells, [], by simp [State.endLaunch, honly.launchQ], by simp, fun h => absurd h hlong⟩

theorem raiseFirmware_effect (ws : List (List Word)) (s : State) : (s.raiseFirmware ws).boot = s.boot ∧ (s.raiseFirmware ws).cells = s.cells ∧
    ∃ k, (s.raiseFirmware ws).launchQ = s.launchQ ++ k ∧ (∀ x ∈ k, x.by0 = true) ∧
      (s.launchQ.length + ws.length ≤ 64 → k.map (fun x => x.words) = ws) := by
  induction ws generalizing s with
  | nil => exact ⟨rfl, rfl, [], by simp [State.raiseFirmware], by simp, fun _ => rfl⟩
  | cons w ws ih =>
    unfold State.raiseFirmware
    generalize hl : ({ words := w, cmd := none, by0 := true, order := s.stamps, img := none, vars := [], judged := false } : Launch) = l
    obtain ⟨hboot, hcells, k, hq, hby, hwords⟩ := raiseLaunch_effect s l
    obtain ⟨hboot', hcells', k', hq', hby', hwords'⟩ := ih (s.raiseLaunch l)
    subst hl
    refine ⟨hboot'.trans hboot, hcells'.trans hcells, k ++ k', by rw [hq', hq, List.append_assoc], ?_, fun hroom => ?_⟩
    · intro x hx
      exact (List.mem_append.mp hx).elim (hby x) (hby' x)
    · simp only [List.length_cons] at hroom
      have hone := hwords (by omega)
      have hlen : k.length = 1 := by simpa using congrArg List.length hone
      rw [List.map_append, hone, hwords' (by rw [hq, List.length_append]; omega)]
      rfl

/-! The safe table (R362): a budget set moves the regions' switches and lets the launches be judged again. -/

theorem narrowFrom_regions (l : List Region) (s : State) (left : Nat) : ∃ rs, s.narrowFrom left l = { s with regions := rs } := by
  induction l generalizing s left with
  | nil => exact ⟨s.regions, rfl⟩
  | cons r l ih =>
    unfold State.narrowFrom
    split
    · exact ih ..
    · split
      · exact ih (s.startSwitch ..) _
      · exact ih ..

theorem setBudget_eq (s : State) (watts : Nat) :
    ∃ ls rs, s.setBudget watts = { s with boot := { s.boot with budget := watts }, launches := ls, regions := rs } := by
  unfold State.setBudget
  dsimp only
  split
  · exact ⟨_, _, rfl⟩
  · exact ⟨_, narrowFrom_regions ..⟩

theorem toSafeTable_eq (s : State) : ∃ ls rs, s.toSafeTable =
    { s with boot := { s.boot with safeTable := true, limits := s.boot.limits ||| 0x80, budget := 350 }, launches := ls, regions := rs } :=
  setBudget_eq _ safeWatts

theorem exec_watchdogExpiry_ready {s : State} (h : s.boot.phase = .ready) : ∃ t, exec .watchdogExpiry s = .next t ∧ SameCells s t ∧ SameMemory s t ∧
    (t.boot.safeTable, t.boot.budget, t.boot.updating, t.boot.staged) = (true, 350, false, []) ∧ t.boot.limits = s.boot.limits ||| 0x80 := by
  obtain ⟨ls, rs, hsafe⟩ := toSafeTable_eq { s with boot := { s.boot with updating := false, staged := [] } }
  rw [exec_watchdogExpiry, execWatchdogExpiry, h]
  dsimp only
  rw [hsafe]
  exact ⟨_, rfl, sameCells_of_eq rfl, sameMemory_of_eq rfl, rfl, rfl⟩

/-! An update (R365): its staging, then the verdict on what is staged. -/

theorem exec_firmwareUpdate_stages {s : State} (img : List Byte) (h : s.boot.phase = .ready) (hu : s.boot.updating = false) :
    ∃ t, exec (.firmwareUpdate img) s = .next t ∧ SameCells s t ∧ SameMemory s t ∧
      (t.boot.updating, t.boot.staged, t.boot.safeTable, t.boot.budget, t.boot.image) = (true, img, true, 350, s.boot.image) := by
  obtain ⟨ls, rs, hsafe⟩ := toSafeTable_eq { s with boot := { s.boot with updating := true, staged := img } }
  rw [exec_firmwareUpdate, execFirmwareUpdate, if_neg (not_not_intro h), hu, if_neg Bool.false_ne_true, hsafe]
  exact ⟨_, rfl, sameCells_of_eq rfl, sameMemory_of_eq rfl, rfl⟩

theorem exec_firmwareUpdate_commits {s : State} (img : List Byte) (h : s.boot.phase = .ready) (hu : s.boot.updating = true)
    (hpass : imageReason s.boot.rollback s.boot.staged = none) : ∃ t, exec (.firmwareUpdate img) s = .next t ∧ SameCells s t ∧ SameMemory s t ∧
      (t.boot.updating, t.boot.image, t.boot.rollback, t.boot.svn) = (false, s.boot.staged, imageSvn s.boot.staged, imageSvn s.boot.staged) := by
  rw [exec_firmwareUpdate, execFirmwareUpdate, if_neg (not_not_intro h), if_pos hu, hpass]
  exact ⟨_, rfl, sameCells_of_eq rfl, sameMemory_of_eq rfl, rfl⟩

theorem exec_firmwareUpdate_drops {s : State} (img : List Byte) {r : Nat} (h : s.boot.phase = .ready) (hu : s.boot.updating = true)
    (hrej : imageReason s.boot.rollback s.boot.staged = some r) : ∃ t, exec (.firmwareUpdate img) s = .next t ∧ SameCells s t ∧ SameMemory s t ∧
      (t.boot.updating, t.boot.image, t.boot.rollback, t.boot.svn) = (false, s.boot.image, s.boot.rollback, s.boot.svn) := by
  rw [exec_firmwareUpdate, execFirmwareUpdate, if_neg (not_not_intro h), if_pos hu, hrej]
  exact ⟨_, rfl, sameCells_of_eq rfl, sameMemory_of_eq rfl, rfl⟩

/-! The sideband (R369 to R373). -/

theorem exec_attestationQuote_answers {s : State} {nonce q : List Byte} (hon : s.boot.phase ≠ .off) (hlen : nonce.length = 32)
    (hmail : s.boot.mailboxHolds nonce = true) (hq : q = s.boot.meas.flatten ++ leBytes 4 s.bootStatus.toNat) :
    exec (.attestationQuote nonce) s = .next { s with outbox := s.outbox ++
      [if s.boot.idKey then ⟨6, q ++ Config.mlDsaSign (Config.shake256 (q ++ nonce)), 0⟩ else ⟨6, [], 4⟩] } := by
  subst hq
  rw [exec_attestationQuote, execAttestationQuote, if_neg (by simp [hon, hlen, hmail])]
  cases s.boot.idKey <;> rfl

theorem Boot.setDebug_keeps (b : Boot) (level : Nat) : (b.setDebug level).secState = b.secState ∧ (b.setDebug level).idKey = b.idKey := by
  unfold Boot.setDebug
  split <;> exact ⟨rfl, rfl⟩

theorem exec_returnCommand_signed {s : State} {cmd : List Byte} (hon : s.boot.phase ≠ .off) (hsec : s.boot.secState ≠ 2)
    (hsig : Config.mlDsaVerify Config.returnKey (cmd.take (cmd.length - 3309)) (cmd.drop (cmd.length - 3309)) = true) :
    ∃ t, exec (.returnCommand cmd) s = .next t ∧ SameCells s t ∧ t.mem = s.mem ∧ t.boot.secState = 2 ∧ t.boot.idKey = false := by
  rw [exec_returnCommand, execReturnCommand, if_neg (by simp [hon, hsec, hsig])]
  exact ⟨_, rfl, sameCells_of_eq rfl, rfl, Boot.setDebug_keeps ..⟩

theorem exec_debugRead_awake {s : State} (q : DebugReq) (hon : s.boot.phase ≠ .off) (hawake : s.boot.sleep = false) :
    exec (.debugRead q) s = .next (if s.boot.debug < DebugReq.level q ∨ s.fenced q = true then { s with outbox := s.outbox ++ [⟨7, [], 2⟩] }
      else { s with debugQ := s.debugQ ++ [q] }) := by
  rw [exec_debugRead, execDebugRead, if_neg hon]
  simp only [hawake, Bool.false_and, Bool.false_eq_true, if_false, Bool.or_eq_true, decide_eq_true_eq]
  split <;> rfl

theorem foldl_restartBench (l : List Nat) (s : State) :
    ∃ bs, l.foldl (fun t n => if (t.cell? n).isSome then t.restartBench n else t) s = { s with benches := bs } := by
  induction l generalizing s with
  | nil => exact ⟨s.benches, rfl⟩
  | cons n l ih =>
    rw [List.foldl_cons]
    split
    · exact ih (s.restartBench n)
    · exact ih s

theorem answerDebug_eq (s : State) : ∃ bs, s.answerDebug =
    { s with outbox := s.outbox ++ s.debugQ.map (fun q => ⟨7, (s.debugAnswer q).1, (s.debugAnswer q).2⟩), debugQ := [], benches := bs } := by
  unfold State.answerDebug
  dsimp only
  split
  · exact ⟨s.benches, rfl⟩
  · exact foldl_restartBench ..

theorem exec_packageSleepEntry_idle {s : State} (hon : s.boot.phase ≠ .off) (hawake : s.boot.sleep = false) (hidle : s.regions = []) :
    ∃ t, exec .packageSleepEntry s = .next t ∧ t.boot = { s.boot with sleep := true } ∧
      t.mem.banks = [] ∧ t.mem.segs = [] ∧ t.mem.tlb = [] ∧ t.mem.llc = [] ∧ SameCells s t := by
  rw [exec_packageSleepEntry, execPackageSleepEntry, if_neg (by simp [hon, hawake, hidle])]
  exact ⟨_, rfl, rfl, rfl, rfl, rfl, rfl, sameCells_of_eq rfl⟩

/-- A supply loss leaves no byte of DRAM listed, so that each reads 0. -/
theorem afterReset_look_dram (m : MemSys) {a : Nat} (h : target a = some .dram) : (m.afterReset false).look a = some 0 := by
  have hnone : (m.afterReset false).bytes.find? (fun c => c.1 == a) = none := by
    simp only [List.find?_eq_none, MemSys.afterReset, List.mem_filter]
    rintro c ⟨-, hkeep⟩ hc
    rw [beq_iff_eq.mp hc, h] at hkeep
    exact absurd hkeep Bool.false_ne_true
  rw [look_dram _ h, Memory.get, hnone]
  rfl

end Sys2Proof.Machine

namespace Sys2Proof
open Sys2Proof.Machine

/-- Settles O54: each step by the branch that its phase selects. -/
theorem bootSteps : Obligations.BootSteps := by
  unfold Obligations.BootSteps
  refine ⟨fun s d2d dram => deviceStart_accepted d2d dram, fun s d2d dram r => deviceStart_rejected d2d dram, fun s h => ?_, fun s h => ?_,
    fun s h => ?_, fun s h => ?_, fun s => exec_watchdogExpiry_ready, fun s img h => ?_, fun s nonce h => ?_, fun s nonce q => exec_attestationQuote_answers,
    fun s cmd => exec_returnCommand_signed, fun s q => exec_debugRead_awake q, fun s => ?_, fun s hon => ?_, fun s => exec_packageSleepEntry_idle,
    fun s => ?_⟩
  · obtain ⟨hboot, hcells, l, hq, hby, hwords⟩ :=
      raiseFirmware_effect Config.firmwareLaunches { s with boot := { s.boot with phase := .ready, attempts := 0, minimal := false } }
    exact ⟨_, l, by rw [exec_firmwareReady, execFirmwareReady, h], hboot, sameCells_of_eq hcells, hq, hby, hwords⟩
  · exact ⟨fun hu => by simp [exec_firmwareReady, execFirmwareReady, h, hu], fun hu => by simp [exec_firmwareReady, execFirmwareReady, h, hu]⟩
  · have hfail (reason : Nat) : s.failStart reason = .next { s with boot := s.boot.startFails reason } := if_pos h
    exact ⟨hfail 8, hfail 6, by rw [exec_watchdogExpiry, execWatchdogExpiry, h]; rfl⟩
  · exact if_pos h
  · exact ⟨exec_firmwareUpdate_stages img h, exec_firmwareUpdate_commits img h, fun r => exec_firmwareUpdate_drops img h⟩
  · rw [exec_attestationQuote, execAttestationQuote, if_pos (.inr (.inr h))]
  · obtain ⟨bs, heq⟩ := answerDebug_eq s
    rw [heq]
    exact ⟨rfl, rfl, sameCells_of_eq rfl, sameMemory_of_eq rfl⟩
  · exact ⟨if_neg hon, if_neg hon⟩
  · exact ⟨_, rfl, rfl, rfl, rfl, rfl, fun a ha _ => afterReset_look_dram s.mem ha⟩

end Sys2Proof
end

section
/-! PROOFS. What an execution of slot 0 takes, the number that it makes, and O27: vector registers (R163, R167, R169, R170, R179, R181) -/

namespace Sys2Proof.Machine

/-! The numbers that an execution consumes (R179, R180). -/

theorem useFirst_append {pre : List Num} {n : Num} (post : List Num) (hpre : ∀ x ∈ pre, x.used = true) (hn : n.used = false) :
    useFirst (pre ++ n :: post) = pre ++ { n with used := true } :: post := by
  induction pre with
  | nil => simp [useFirst, hn]
  | cons x pre ih =>
    have hx : x.used = true := hpre x List.mem_cons_self
    rw [List.cons_append, useFirst, if_pos hx, ih fun y hy => hpre y (List.mem_cons_of_mem _ hy), List.cons_append]

theorem FieldQ.nums_of_next {q : FieldQ} {n : Num} (h : q.next = some n) : ∃ pre n post, q.nums = pre ++ n :: post ∧ (∀ x ∈ pre, x.used = true) ∧
    n.used = false ∧ q.use.nums = pre ++ { n with used := true } :: post := by
  obtain ⟨hn, pre, post, hq, hpre⟩ := List.find?_eq_some_iff_append.mp h
  have hn' : n.used = false := by simpa using hn
  have hpre' : ∀ x ∈ pre, x.used = true := fun x hx => by simpa using hpre x hx
  exact ⟨pre, n, post, hq, hpre', hn', by rw [FieldQ.use, hq, useFirst_append post hpre' hn']⟩

/-- A slot with a number of each of a list of fields marked as consumed. -/
def Slot.useAll (sl : Slot) (l : List FieldSel) : Slot := l.foldl (fun sl f => sl.updField f FieldQ.use) sl

/-- Of each field its tokens and numbers, and the record of the last execution: what `Took0` reads of a slot. -/
def Slot.seen0 (sl : Slot) : (FieldSel → List Tok × List Num) × Nat × Option Nat :=
  (fun f => ((sl.field f).toks, (sl.field f).nums), sl.done, sl.issuedAt)

/-- What of a slot neither its fields nor the record of its last execution show: the numbers that it makes. -/
def Slot.making (sl : Slot) : List Made × Nat × Nat := (sl.made, sl.nextId, sl.done)

theorem Slot.making_updField (sl : Slot) (f : FieldSel) (g : FieldQ → FieldQ) : (sl.updField f g).making = sl.making := by cases f <;> rfl

theorem Slot.making_useAll (sl : Slot) (l : List FieldSel) : (sl.useAll l).making = sl.making := by
  induction l generalizing sl with
  | nil => rfl
  | cons f l ih => exact (ih _).trans (sl.making_updField f _)

theorem Slot.making_consume (sl : Slot) (l : Takes) : (sl.consume l).making = sl.making := by
  induction l generalizing sl with
  | nil => rfl
  | cons x l ih => exact (ih _).trans (sl.making_updField x.1 _)

theorem Slot.nums_consume (sl : Slot) (l : Takes) (g : FieldSel) : ((sl.consume l).field g).nums = (sl.field g).nums := by
  induction l generalizing sl with
  | nil => rfl
  | cons x l ih =>
    refine (ih _).trans ?_
    rw [Slot.field_updField]
    split <;> rfl

theorem Slot.toks_useAll (sl : Slot) (l : List FieldSel) (g : FieldSel) : ((sl.useAll l).field g).toks = (sl.field g).toks := by
  induction l generalizing sl with
  | nil => rfl
  | cons f l ih =>
    refine (ih _).trans ?_
    rw [Slot.field_updField]
    split <;> rfl

theorem Slot.field_useAll (sl : Slot) {l : List FieldSel} (hl : l.Nodup) (g : FieldSel) :
    (sl.useAll l).field g = if g ∈ l then (sl.field g).use else sl.field g := by
  induction l generalizing sl with
  | nil => rfl
  | cons f l ih =>
    obtain ⟨hf, hl⟩ := List.nodup_cons.mp hl
    refine (ih (sl.updField f FieldQ.use) hl).trans ?_
    rw [Slot.field_updField]
    by_cases hg : g = f
    · subst hg; simp [hf]
    · simp [hg]

/-- The slot of an execution behind it. -/
def Slot.executed0 (sl : Slot) (i : Instr) (now : Nat) (l : Takes) : Slot :=
  { (sl.useAll (streamFields i)).consume l with done := (sl.useAll (streamFields i)).done + 1, issuedAt := some now, waking := false }

theorem took0_block? (s : State) (i : Instr) : (s.took0 s.site i).block? s.site = (s.block? s.site).map (fun b => b.updSlot s.site.index (fun sl =>
    sl.executed0 i s.cycle (consumesOf i b s.site.index (sl.useAll (streamFields i))))) :=
  s.block?_updBlock_self s.site _ fun _ => rfl

/-- An instruction that takes the same tokens whatever its numbers. -/
def TakesFixed (i : Instr) : Prop := ∀ b n sl sl', consumesOf i b n sl = consumesOf i b n sl'

/-- The site's block and slot behind an execution that its guard allows. -/
theorem took0_slot {s : State} (h : s.placed = true) {i : Instr} (hi : TakesFixed i) : ∃ b, s.block? s.site = some b ∧ s.site.index < b.slots.length ∧
    s.slot s.site = b.slot s.site.index ∧
    (s.took0 s.site i).slot s.site = (s.slot s.site).executed0 i s.cycle (consumesOf i b s.site.index (s.slot s.site)) := by
  obtain ⟨c, b, hc, hb, hs, -⟩ := s.placed_iff.mp h
  have hblk : s.block? s.site = some b := by rw [State.block?, hc, Option.bind_some, hb]
  have hslot : s.slot s.site = b.slot s.site.index := by rw [State.slot, hblk]
  refine ⟨b, hblk, hs, hslot, ?_⟩
  rw [State.slot, took0_block?, hblk, Option.map_some, hslot]
  dsimp only
  rw [Block.slot_updSlot _ _ _ _ hs, if_pos rfl, hi b s.site.index ((b.slot s.site.index).useAll (streamFields i)) (b.slot s.site.index)]

/-- The guard of slot 0 holds a head on each stream field. -/
theorem State.goes0.next {s : State} {i : Instr} (h : s.goes0 i) {f : FieldSel} (hf : f ∈ streamFields i) :
    ∃ n, ((s.slot s.site).field f).next = some n := by
  obtain ⟨hplaced, hready⟩ := h
  obtain ⟨c, b, hc, hb, -⟩ := s.placed_iff.mp hplaced
  have hslot : s.slot s.site = b.slot s.site.index := by rw [State.slot, State.block?, hc, Option.bind_some, hb]
  simp only [State.ready0, hc, hb, State.holds0, Bool.and_eq_true, List.all_eq_true] at hready
  obtain ⟨⟨⟨⟨⟨⟨-, hheads⟩, -⟩, -⟩, -⟩, -⟩, -⟩ := hready
  have hn := hheads f hf
  rw [hslot]
  change ∃ n, (b.slot s.site.index).num f = some n
  cases hx : (b.slot s.site.index).num f with
  | none => rw [hx] at hn; exact absurd hn Bool.false_ne_true
  | some n => exact ⟨n, rfl⟩

theorem took0_of_goes0 {s : State} {i : Instr} (h : s.goes0 i) (hnd : (streamFields i).Nodup) (hi : TakesFixed i) : Took0 i s (s.took0 s.site i) := by
  obtain ⟨b, hb, hs, hslot, heq⟩ := took0_slot h.1 hi
  have hnums (f : FieldSel) : (((s.took0 s.site i).slot s.site).field f).nums =
      (if f ∈ streamFields i then ((s.slot s.site).field f).use else (s.slot s.site).field f).nums := by
    rw [heq, ← Slot.field_useAll _ hnd]
    exact Slot.nums_consume _ _ f
  refine ⟨fun f hf => ?_, fun f hf => ?_, fun b' hb' f => ?_, ?_, by rw [heq]; rfl⟩
  · obtain ⟨n, hn⟩ := h.next hf
    obtain ⟨pre, m, post, hq, hpre, hm, huse⟩ := FieldQ.nums_of_next hn
    exact ⟨pre, m, post, hq, hpre, hm, by rw [hnums, if_pos hf, huse]⟩
  · rw [hnums, if_neg hf]
  · rw [hb, Option.some.injEq] at hb'
    subst hb'
    rw [heq]
    exact (Slot.consume_field _ _ f).trans (by rw [Slot.toks_useAll])
  · rw [heq]
    exact congrArg (fun x => x.2.2 + 1) ((s.slot s.site).making_useAll (streamFields i))

theorem Took0.of_slot {i : Instr} {s u t : State} (h : Took0 i s u) (hs : (t.slot s.site).seen0 = (u.slot s.site).seen0) : Took0 i s t := by
  have hfield (f : FieldSel) : ((t.slot s.site).field f).toks = ((u.slot s.site).field f).toks ∧
      ((t.slot s.site).field f).nums = ((u.slot s.site).field f).nums := by
    have := congrFun (congrArg Prod.fst hs) f
    exact ⟨congrArg Prod.fst this, congrArg Prod.snd this⟩
  obtain ⟨htaken, hleft, htoks, hdone, hat⟩ := h
  refine ⟨fun f hf => ?_, fun f hf => (hfield f).2.trans (hleft f hf), fun b hb f => (hfield f).1.trans (htoks b hb f),
    (congrArg (fun x => x.2.1) hs).trans hdone, (congrArg (fun x => x.2.2) hs).trans hat⟩
  obtain ⟨pre, n, post, hq, hpre, hn, hu⟩ := htaken f hf
  exact ⟨pre, n, post, hq, hpre, hn, (hfield f).2.trans hu⟩

theorem issueData_goes {s : State} {i : Instr} (h : s.goes0 i) (effect : State → DataOps → State) :
    issueData i s effect = .next (effect (s.took0 s.site i) (s.dataOps s.site i)) := if_pos h.2

/-! The number that an execution makes (R179, R181, R205). -/

theorem mem_receiverOf {t : Site} {e' : Edge} {x : Consumer} {e : Edge} : e ∈ (receiverOf t e' x).map (fun x => x.edge) ↔ ∃ g, x = some g ∧ e = e' := by
  cases x <;> simp [receiverOf]

theorem mem_links {c : Cell} {t : Site} {x : Nat × Route} : x ∈ c.links t ↔ c.routes[x.1]? = some x.2 ∧ x.2.ctx = t.ctx ∧ x.2.pe = t.pe := by
  obtain ⟨n, y⟩ := x
  have hzip : (n, y) ∈ (List.range c.routes.length).zip c.routes ↔ c.routes[n]? = some y := by
    simp only [List.mem_iff_getElem?, List.getElem?_zip_eq_some]
    constructor
    · rintro ⟨k, hk, hy⟩
      obtain ⟨hlt, rfl⟩ := List.getElem?_eq_some_iff.mp hk
      rwa [List.getElem_range]
    · intro hy
      exact ⟨n, List.getElem?_range (List.getElem?_eq_some_iff.mp hy).1, hy⟩
  simp [Cell.links, List.mem_filter, hzip]

theorem mem_linkEdges {c : Cell} {t : Site} {e : Edge} :
    e ∈ (c.links t).map (fun x => Edge.link x.1) ↔ ∃ n y, c.routes[n]? = some y ∧ y.ctx = t.ctx ∧ y.pe = t.pe ∧ e = .link n := by
  simp only [List.mem_map, mem_links, Prod.exists, and_assoc, eq_comm (a := Edge.link _)]

/-- The edges of a number are those of its consumers (R179, R205). -/
theorem mem_receivers {s : State} {i : Instr} {c u : Cell} (hc : s.cell? s.site.cell = some c) (hr : u.routes = c.routes) (e : Edge) :
    e ∈ (receivers u s.site i).map (fun x => x.edge) ↔ ∃ t f, consumersOfNumber i s e t f := by
  have hroutes : (∃ t f, ∃ c n y, s.cell? s.site.cell = some c ∧ c.routes[n]? = some y ∧ y.ctx = s.site.ctx ∧ y.pe = s.site.pe ∧ e = .link n ∧
      t = (⟨y.cell, y.dctx, 4 * y.dpe⟩ : Site) ∧ f = y.field) ↔ e ∈ (u.links s.site).map (fun x => Edge.link x.1) := by
    have hlinks : u.links s.site = c.links s.site := by rw [Cell.links, hr, Cell.links]
    rw [hlinks, mem_linkEdges]
    simp [hc]
  simp only [consumersOfNumber, exists_or, hroutes, ← or_assoc]
  rw [receivers, List.map_append, List.mem_append, List.map_map]
  refine or_congr_left ?_
  split
  next x y h =>
    simp only [h, List.map_append, List.mem_append, mem_receiverOf]
    cases x <;> cases y <;> simp
  next x h =>
    simp only [h, mem_receiverOf]
    cases x <;> simp
  next hpair hone =>
    have h1 (x : Consumer) : i.consumers ≠ [x] := fun h => hone x h
    have h2 (x y : Consumer) : i.consumers ≠ [x, y] := fun h => hpair x y h
    simp [h1, h2]

theorem laneAt_lanes128 (f : Nat → Lane) {k : Nat} (h : k < 128) : laneAt (lanes128 f) k = f k := by
  rw [laneAt, lanes128, List.getD_eq_getElem?_getD, List.getElem?_map, List.getElem?_range h]
  rfl

theorem lanes128_length {α : Type} (f : Nat → α) : (lanes128 f).length = 128 := by rw [lanes128, List.length_map, List.length_range]

theorem lanes128_map {α β : Type} (f : Nat → α) (g : α → β) : (lanes128 f).map g = lanes128 (fun k => g (f k)) := List.map_map

/-- The slot of an execution behind the number that it makes. -/
def Slot.withMade (sl : Slot) (m : Made) : Slot := { sl with nextId := sl.nextId + 1, made := sl.made ++ [m] }

/-- The number of an execution as it begins. -/
def madeOf (c : Cell) (t : Site) (i : Instr) (o : DataOps) (out : Output) (now id : Nat) : Made :=
  { id := id, lanes := out.lanes, digits := out.digits, form := out.form, pos := 0, start := if (streamFields i).isEmpty then now + 1 else now,
    course := out.course, undone := if out.course.due.isEmpty then 0 else BitVec.allOnes 128, doneAt := none,
    edges := (receivers c t i).map (fun x => x.edge), got := [], stopping := 0, stopped := 0, ins := o.sources, sent := [], dep := out.dep }

theorem emitNum_eq {u : State} {t : Site} {c : Cell} (hc : u.cell? t.cell = some c) (i : Instr) (o : DataOps) (out : Output) :
    u.emitNum t i o out = u.updSlot t (fun sl => sl.withMade (madeOf c t i o out u.cycle sl.nextId)) := by
  simp only [State.emitNum, hc]
  rfl

theorem slot_face_of_block? {s t : State} {u : Site} (h : (t.block? u).map Block.face = (s.block? u).map Block.face) :
    (t.slot u).face = (s.slot u).face := by
  have key (x : State) : (x.slot u).face = (((x.block? u).map Block.face).map (fun b => b.slot u.index)).getD Slot.empty.face := by
    unfold State.slot
    cases x.block? u with
    | none => rfl
    | some b =>
      simp only [Option.map_some, Option.getD_some, Block.slot, Block.face, List.getD_eq_getElem?_getD, List.getElem?_map]
      cases b.slots[u.index]? <;> rfl
  rw [key, key, h]

theorem Slot.seen0_face (sl : Slot) : sl.face.seen0 = sl.seen0 := by
  rw [Slot.seen0, Slot.seen0, Prod.mk.injEq]
  exact ⟨funext fun f => by cases f <;> rfl, rfl⟩

theorem Slot.seen0_withMade (sl : Slot) (m : Made) : (sl.withMade m).seen0 = sl.seen0 := by
  rw [Slot.seen0, Slot.seen0, Prod.mk.injEq]
  exact ⟨funext fun f => by cases f <;> rfl, rfl⟩

theorem Slot.made_executed0 (sl : Slot) (i : Instr) (now : Nat) (l : Takes) : (sl.executed0 i now l).made = sl.made ∧
    (sl.executed0 i now l).nextId = sl.nextId := by
  have h : ((sl.useAll (streamFields i)).consume l).making = sl.making := (Slot.making_consume _ l).trans (sl.making_useAll _)
  exact ⟨congrArg Prod.fst h, congrArg (fun x => x.2.1) h⟩

theorem NumberMade.imp {i : Instr} {s t : State} {lane : Nat → Lane} {P Q : Made → Prop} (h : NumberMade i s t lane P) (himp : ∀ m, P m → Q m) :
    NumberMade i s t lane Q := by
  obtain ⟨m, hmade, hid, hnext, hpos, hgot, hstopped, hlen, hlanes, hedges, hP⟩ := h
  exact ⟨m, hmade, hid, hnext, hpos, hgot, hstopped, hlen, hlanes, hedges, himp m hP⟩

/-- A state that an execution has reached from the taking of its operands, the slots of the site and the routes of its cell left as they were. -/
structure State.After0 (s : State) (i : Instr) (u : State) : Prop where
  routes : (u.cell? s.site.cell).map (fun c => c.routes) = (s.cell? s.site.cell).map (fun c => c.routes)
  block : (u.block? s.site).map Block.face = ((s.took0 s.site i).block? s.site).map Block.face
  cycle : u.cycle = s.cycle

theorem State.After0.took0 {s u : State} {i : Instr} (hu : s.After0 i u) (h : s.goes0 i) (hnd : (streamFields i).Nodup) (hi : TakesFixed i) :
    Took0 i s u := by
  refine (took0_of_goes0 h hnd hi).of_slot ?_
  rw [← Slot.seen0_face, slot_face_of_block? hu.block, Slot.seen0_face]

/-- An execution that makes a number. -/
theorem State.After0.emitNum {s u : State} {i : Instr} (hu : s.After0 i u) (h : s.goes0 i) (hnd : (streamFields i).Nodup) (hi : TakesFixed i)
    (o : DataOps) {out : Output} {lane : Nat → Lane} (hl : out.lanes = lanes128 lane) : Took0 i s (u.emitNum s.site i o out) ∧
      NumberMade i s (u.emitNum s.site i o out) lane
        (fun m => m.digits = out.digits ∧ m.form = out.form ∧ m.start = if (streamFields i).isEmpty then s.cycle + 1 else s.cycle) := by
  obtain ⟨b, hb, hindex, hslot, heq⟩ := took0_slot h.1 hi
  obtain ⟨c, -, hc, -⟩ := s.placed_iff.mp h.1
  have hroutes := hu.routes
  rw [hc, Option.map_some] at hroutes
  obtain ⟨cu, hcu, hr⟩ := Option.map_eq_some_iff.mp hroutes
  have hblock := hu.block
  rw [took0_block?, hb, Option.map_some, Option.map_some] at hblock
  obtain ⟨bu, hbu, hface⟩ := Option.map_eq_some_iff.mp hblock
  have hindexu : s.site.index < bu.slots.length := by
    have hlen := congrArg (fun b => b.slots.length) hface
    simp only [Block.face, List.length_map, Block.updSlot_length] at hlen
    omega
  have hnow := u.slot_updSlot_self s.site (fun sl => sl.withMade (madeOf cu s.site i o out u.cycle sl.nextId)) hbu hindexu
  rw [← emitNum_eq hcu] at hnow
  have hmade : (u.slot s.site).made = (s.slot s.site).made ∧ (u.slot s.site).nextId = (s.slot s.site).nextId := by
    have hsame := slot_face_of_block? hu.block
    have hbefore := (s.slot s.site).made_executed0 i s.cycle (consumesOf i b s.site.index (s.slot s.site))
    rw [← heq] at hbefore
    exact ⟨(congrArg Slot.made hsame).trans hbefore.1, (congrArg Slot.nextId hsame).trans hbefore.2⟩
  refine ⟨(hu.took0 h hnd hi).of_slot (by rw [hnow, Slot.seen0_withMade]),
    madeOf cu s.site i o out u.cycle (u.slot s.site).nextId, ?_, hmade.2, ?_, rfl, rfl, rfl, (congrArg List.length hl).trans (lanes128_length lane),
    fun k hk => (congrArg (laneAt · k) hl).trans (laneAt_lanes128 lane hk), mem_receivers hc hr, rfl, rfl, ?_⟩
  · rw [hnow, ← hmade.1]
    rfl
  · rw [hnow, ← hmade.2]
    rfl
  · rw [← hu.cycle]
    rfl

/-! DRDV and DWRV (R169, R170). -/

theorem quiet_took0 (s : State) (i : Instr) : Quiet s (s.took0 s.site i) :=
  quiet_updCell (quiet_refl s) _ _ (fun _ => rfl) (fun c => Cell.updBlock_channels c _ _ fun _ => rfl)

theorem quiet_emitNum (s : State) (t : Site) (i : Instr) (o : DataOps) (out : Output) : Quiet s (s.emitNum t i o out) := by
  unfold State.emitNum
  split
  · exact quiet_refl s
  · exact quiet_updSlot (quiet_refl s) _ _

/-- A change of the cell beside its blocks and its routes. -/
theorem State.After0.updCell {s u : State} {i : Instr} (hu : s.After0 i u) (n : Nat) {f : Cell → Cell} (hf : Cell.BesideBlocks f)
    (hr : ∀ c, (f c).routes = c.routes) : s.After0 i (u.updCell n f) :=
  ⟨(u.cell?_updCell_map n _ f (fun c => (hf c).1) (fun c => c.routes) hr).trans hu.routes, by rw [block?_updCell hf, hu.block], hu.cycle⟩

theorem State.After0.of_face {s u t : State} {i : Instr} (hu : s.After0 i u) (hf : SameFace u t) (hc : t.cycle = u.cycle) : s.After0 i t := by
  refine ⟨Eq.trans ?_ hu.routes, (hf.block? s.site).trans hu.block, hc.trans hu.cycle⟩
  have := congrArg (Option.map (fun c : Cell => c.routes)) (hf.cell? s.site.cell)
  rwa [Option.map_map, Option.map_map] at this

theorem after0_took0 (s : State) (i : Instr) : s.After0 i (s.took0 s.site i) :=
  ⟨s.updBlock_cell? s.site _ s.site.cell (fun c => c.routes) fun _ => rfl, rfl, rfl⟩

theorem fireNo_updCell_took0 {f : Cell → Cell} (hf : Cell.BesideBlocks f) (s : State) (i : Instr) (n : Nat) :
    ((s.took0 s.site i).updCell n f).fireNo s.site = s.fireNo s.site := by
  rw [State.fireNo, block?_updCell hf, took0_block?, State.fireNo]
  cases s.block? s.site <;> rfl

theorem emitNum_flight (s : State) (t : Site) (i : Instr) (o : DataOps) (out : Output) : (s.emitNum t i o out).flight = s.flight := by
  unfold State.emitNum
  split <;> rfl

theorem emitNum_regs (s : State) (t : Site) (i : Instr) (o : DataOps) (out : Output) (n : Nat) :
    ((s.emitNum t i o out).cell? n).map (fun c => c.regs) = (s.cell? n).map (fun c => c.regs) := by
  unfold State.emitNum
  split
  · rfl
  · exact s.updBlock_cell? t _ n (fun c => c.regs) fun _ => rfl

theorem Cell.besideBlocks_raiseFlags (now : Nat) (flags : Word) : Cell.BesideBlocks (fun c => c.raiseFlags now flags) := fun _ => ⟨rfl, rfl, rfl, rfl, rfl⟩

/-- The state of an execution that has taken its operands, changed the registers of its cell, and raised its flags. -/
def State.regs0 (s : State) (i : Instr) (f : Cell → Cell) (flags : Word) : State :=
  ((s.took0 s.site i).updCell s.site.cell f).raiseFlags s.site.cell flags

section
variable {s : State} {i : Instr} {f : Cell → Cell} {flags : Word} (hf : Cell.OnlyRegs f)
include hf

theorem after0_regs0 : s.After0 i (s.regs0 i f flags) :=
  ((after0_took0 s i).updCell _ hf.besideBlocks fun c => by rw [hf c]).updCell _ (Cell.besideBlocks_raiseFlags _ _) fun _ => rfl

theorem besideCells_regs0 : BesideCells s (s.regs0 i f flags) :=
  ((quiet_took0 s i).besideCells.updCell _ hf.besideBlocks).updCell _ (Cell.besideBlocks_raiseFlags _ _)

/-- The registers are changed as the files of the cell before the execution say. -/
theorem regs0_regs {c : Cell} {F : RegFiles → RegFiles} (hF : ∀ c, (f c).regs = F c.regs) (hc : s.cell? s.site.cell = some c) :
    ((s.regs0 i f flags).cell? s.site.cell).map (fun c => c.regs) = some (F c.regs) := by
  have htook : ((s.took0 s.site i).cell? s.site.cell).map (fun c => c.regs) = some c.regs := by
    rw [State.took0, s.updBlock_cell? s.site _ s.site.cell (fun c => c.regs) fun _ => rfl, hc, Option.map_some]
  obtain ⟨ct, hct, hregs⟩ := Option.map_eq_some_iff.mp htook
  refine (State.cell?_updCell_map _ s.site.cell _ (fun c => c.raiseFlags s.cycle flags) (fun _ => rfl) (fun c => c.regs) fun _ => rfl).trans ?_
  rw [State.cell?_updCell_self _ _ _ hf.num, hct, Option.map_some, Option.map_some, hF, hregs]

/-- An execution that changes the registers of its cell and makes a number. -/
theorem runs_of_regs0_emitNum {c : Cell} {F : RegFiles → RegFiles} {o : DataOps} {out : Output} {lane : Nat → Lane} (h : s.goes0 i)
    (he : exec i s = .next ((s.regs0 i f flags).emitNum s.site i o out)) (hnd : (streamFields i).Nodup) (hi : TakesFixed i)
    (hl : out.lanes = lanes128 lane) (hF : ∀ c, (f c).regs = F c.regs) (hc : s.cell? s.site.cell = some c) :
    ∃ t, exec i s = .next t ∧ Took0 i s t ∧ BesideCells s t ∧ t.flight = s.flight ∧
      NumberMade i s t lane
        (fun m => m.digits = out.digits ∧ m.form = out.form ∧ m.start = if (streamFields i).isEmpty then s.cycle + 1 else s.cycle) ∧
      ∀ c', t.cell? s.site.cell = some c' → c'.regs = F c.regs := by
  obtain ⟨htook, hmade⟩ := (after0_regs0 (flags := flags) hf).emitNum h hnd hi o hl
  refine ⟨_, he, htook, (besideCells_regs0 hf).trans_quiet (quiet_emitNum ..), emitNum_flight .., hmade, fun c' hc' => ?_⟩
  have hregs := emitNum_regs (s.regs0 i f flags) s.site i o out s.site.cell
  rw [hc', regs0_regs hf hF hc, Option.map_some, Option.some.injEq] at hregs
  exact hregs

theorem regs0_flights (l : List (Consumer × Tok)) : (s.regs0 i f flags).flights s.site l = s.flights s.site l := by
  have hkeeps {f : Cell → Cell} (hf : Cell.BesideBlocks f) (c : Cell) : ((f c).divider, (f c).parity) = (c.divider, c.parity) := by
    obtain ⟨-, -, -, hd, hp⟩ := hf c
    rw [hd, hp]
  have hraise := Cell.besideBlocks_raiseFlags s.cycle flags
  refine State.flights_congr s (s.regs0 i f flags) s.site l rfl ?_
  exact (State.cell?_updCell_map _ _ _ _ (fun c => (hraise c).1) _ (hkeeps hraise)).trans
    ((State.cell?_updCell_map _ _ _ _ hf.num _ (hkeeps hf.besideBlocks)).trans (s.updBlock_cell? _ _ _ _ fun _ => rfl))

/-- An execution that changes the registers of its cell and emits tokens. -/
theorem runs_of_regs0_emits {c : Cell} {F : RegFiles → RegFiles} {l : List (Consumer × Tok)} (h : s.goes0 i)
    (he : exec i s = .next ((s.regs0 i f flags).emits s.site l)) (hnd : (streamFields i).Nodup) (hi : TakesFixed i)
    (hF : ∀ c, (f c).regs = F c.regs) (hc : s.cell? s.site.cell = some c) :
    ∃ t, exec i s = .next t ∧ Took0 i s t ∧ BesideCells s t ∧ t.flight = s.flight ++ s.flights s.site l ∧
      ∀ c', t.cell? s.site.cell = some c' → c'.regs = F c.regs := by
  have hseen : ResvFree Slot.seen0 := fun sl g k => by
    rw [Slot.seen0, Slot.seen0, Prod.mk.injEq]
    refine ⟨funext fun f => ?_, by cases g <;> rfl⟩
    rw [Slot.field_updField]
    split <;> rfl
  refine ⟨_, he, ((after0_regs0 (flags := flags) hf).took0 h hnd hi).of_slot (State.emits_slot _ _ _ _ _ hseen),
    (besideCells_regs0 hf).trans_quiet (quiet_emits (quiet_refl _) _ l), ?_, fun c' hc' => ?_⟩
  · rw [State.emits_flight, regs0_flights hf]
    rfl
  · have hregs := State.emits_cell? (s.regs0 i f flags) s.site l s.site.cell _ blockFree_regs
    rw [hc', regs0_regs hf hF hc, Option.map_some, Option.some.injEq] at hregs
    exact hregs

end

/-- What an access of the vector register `v` leaves of the register files `f`: every other register, and `x` in it. -/
def RegFiles.AccessedV (f f' : RegFiles) (v : Nat) (x : Timed VReg) : Prop :=
  f'.g = f.g ∧ f'.k = f.k ∧ (∀ n, n ≠ v → f'.vReg n = f.vReg n) ∧ (v < f.v.length → f'.vReg v = x)

theorem RegFiles.accessedV_setV (f : RegFiles) (b : Nat) (k : Bank) (v : Nat) (x : Timed VReg) : f.AccessedV ((f.setVBank b k).setV v x) v x :=
  ⟨rfl, rfl, fun _ hn => (f.setVBank b k).vReg_setV_ne hn x, fun h => (f.setVBank b k).vReg_setV h x⟩

/-- The registers after a live read of a vector register (R163, R165). -/
def Cell.readV (c : Cell) (now v : Nat) (h : Hint) : Cell :=
  (c.touchV now v).updRegs (fun f => f.setV v ((f.vReg v).readMark now h VReg.marked))

/-- The registers after a write of a vector register (R163, R165). -/
def Cell.writeV (c : Cell) (now v rank : Nat) (x : VReg) : Cell :=
  (c.touchV now v).updRegs (fun f => f.setV v ((f.vReg v).write now rank x))

/-- Lane `k` of the number of a live DRDV: its value, with the flags of its conversion. -/
def drdvLane (f : Fmt) (trigger : Mark) (r : VReg) (k : Nat) : Lane × Word :=
  (⟨(wordVal f (r.lanes.getD k 0)).1, trigger.or (if r.mask.getLsbD k then some r.origin else none)⟩, (wordVal f (r.lanes.getD k 0)).2)

theorem drdv_live_eq {v : BitVec 5} {h : Hint} {f : Fmt} {c0 : Consumer} {s : State} {c : Cell} (hg : s.goes0 (.drdv v h f c0))
    (hc : s.cell? s.site.cell = some c) (hd : deadRead (c.regs.vBank (v.toNat / 4)) ((c.regs.vReg v.toNat).view s.cycle).valid = false) :
    exec (.drdv v h f c0) s = .next ((s.regs0 (.drdv v h f c0) (fun c => c.readV s.cycle v.toNat h) (allFlags (lanes128
      (drdvLane f (tokMark (s.opnds s.site (.drdv v h f c0)).l) ((c.regs.vReg v.toNat).view s.cycle))))).emitNum s.site (.drdv v h f c0)
        (s.dataOps s.site (.drdv v h f c0)) ⟨(lanes128 (drdvLane f (tokMark (s.opnds s.site (.drdv v h f c0)).l)
          ((c.regs.vReg v.toNat).view s.cycle))).map (fun x => x.1), f.digits, .same, .canon f, .atOnce⟩) := by
  rw [exec_drdv, execDrdv, issueData_goes hg]
  simp only [hc, hd, Bool.false_eq_true, if_false]
  rfl

/-- Lane `k` of the number of a dead DRDV: a free value (log 5), poisoned by the reading instruction. -/
def State.deadLane (s : State) (f : Fmt) (k : Nat) : Lane := ⟨(wordVal f (Config.poisonWord s.fresh k)).1, some (s.origin s.site)⟩

theorem drdv_dead_eq {v : BitVec 5} {h : Hint} {f : Fmt} {c0 : Consumer} {s : State} {c : Cell} (hg : s.goes0 (.drdv v h f c0))
    (hc : s.cell? s.site.cell = some c) (hd : deadRead (c.regs.vBank (v.toNat / 4)) ((c.regs.vReg v.toNat).view s.cycle).valid = true) :
    exec (.drdv v h f c0) s = .next ((((s.took0 s.site (.drdv v h f c0)).updCell s.site.cell (fun c => c.deadTouchV s.cycle v.toNat)).deadReg
      s.site 1 v.toNat).emitNum s.site (.drdv v h f c0) (s.dataOps s.site (.drdv v h f c0)) ⟨lanes128 (s.deadLane f), f.digits, .same, .free, .atOnce⟩) := by
  rw [exec_drdv, execDrdv, issueData_goes hg]
  simp only [hc, hd, if_true]
  rfl

/-- The register that a DWRV of a number writes: its words, with the mask of its poisoned lanes. -/
def dwrvReg (f : Fmt) (rm : Rnd) (ls : List Lane) : VReg :=
  { lanes := (ls.map (fun x => toWord f rm (Exact.of x.val))).map (fun x => x.1), valid := true, far := false,
    mask := maskOf (fun k => (laneAt ls k).mark.isSome), origin := (firstPoison ls).getD 0 }

theorem dwrv_eq {v : BitVec 5} {f : Fmt} {rm : Rnd} {c0 : Consumer} {s : State} (hg : s.goes0 (.dwrv v f rm c0)) :
    exec (.dwrv v f rm c0) s = .next ((s.regs0 (.dwrv v f rm c0) (fun c => c.writeV s.cycle v.toNat s.site.rank
      (dwrvReg f rm (opLanes ((s.slot s.site).num .l)))) (((opLanes ((s.slot s.site).num .l)).map (fun x => toWord f rm (Exact.of x.val))).foldl
        (fun a x => a ||| x.2) 0)).emits s.site [(c0, ⟨0, none⟩)]) := by
  rw [exec_dwrv, execDwrv, issueData_goes hg]
  rfl

theorem getLsbD_bit {w : Nat} (i : Nat) {k : Nat} (hk : k < w) : ((1 <<< i : Nat) : BitVec w).getLsbD k = decide (i = k) := by
  rw [BitVec.natCast_eq_ofNat, BitVec.getLsbD_ofNat, Nat.one_shiftLeft, Nat.testBit_two_pow, decide_eq_true hk, Bool.true_and]

theorem maskOf_getLsbD (p : Nat → Bool) {k : Nat} (hk : k < 128) : (maskOf p).getLsbD k = p k := by
  have key (l : List Nat) (m : BitVec 128) : (l.foldl (fun (m : BitVec 128) i => if p i then m ||| (1 <<< i) else m) m).getLsbD k =
      (m.getLsbD k || (decide (k ∈ l) && p k)) := by
    induction l generalizing m with
    | nil => simp
    | cons i l ih =>
      have hbit : (if p i then m ||| (1 <<< i) else m).getLsbD k = (m.getLsbD k || (decide (i = k) && p i)) := by
        split
        next hp => rw [BitVec.getLsbD_or, getLsbD_bit i hk, hp, Bool.and_true]
        next hp => rw [eq_false_of_ne_true hp, Bool.and_false, Bool.or_false]
      rw [List.foldl_cons, ih, hbit, Bool.or_assoc]
      by_cases hi : i = k
      · subst hi
        cases p i <;> simp
      · simp [hi, Ne.symm hi]
  rw [maskOf, key]
  simp [hk]

theorem opLanes_lane (s : State) {k : Nat} (hk : k < 128) : laneAt (opLanes ((s.slot s.site).num .l)) k = s.lane .l k := by
  rw [opLanes, laneAt_lanes128 _ hk, State.lane]
  cases (s.slot s.site).num .l <;> rfl

/-- The word that a DWRV writes of lane `k` of its number, and the bit of its mask. -/
theorem dwrvReg_lane (f : Fmt) (rm : Rnd) (s : State) {k : Nat} (hk : k < 128) :
    (dwrvReg f rm (opLanes ((s.slot s.site).num .l))).lanes.getD k 0 = (toWord f rm (Exact.of (s.lane .l k).val)).1 ∧
      (dwrvReg f rm (opLanes ((s.slot s.site).num .l))).mask.getLsbD k = (s.lane .l k).mark.isSome := by
  refine ⟨?_, by rw [dwrvReg, maskOf_getLsbD _ hk, opLanes_lane s hk]⟩
  have hlane := opLanes_lane s hk
  rw [laneAt, opLanes, lanes128, List.getD_eq_getElem?_getD, List.getElem?_map, List.getElem?_range hk] at hlane
  rw [dwrvReg, opLanes, lanes128_map, lanes128_map, lanes128, List.getD_eq_getElem?_getD, List.getElem?_map, List.getElem?_range hk, ← hlane]
  rfl

section
variable {v : BitVec 5} {h : Hint} {f : Fmt} {c0 : Consumer} {s : State} {c : Cell} (hc : s.cell? s.site.cell = some c)
include hc

theorem drdv_live_runs (hg : s.goes0 (.drdv v h f c0))
    (hd : deadRead (c.regs.vBank (v.toNat / 4)) ((c.regs.vReg v.toNat).view s.cycle).valid = false) :
    ∃ t, exec (.drdv v h f c0) s = .next t ∧ Took0 (.drdv v h f c0) s t ∧ BesideCells s t ∧ t.flight = s.flight ∧
      NumberMade (.drdv v h f c0) s t
        (fun k => (drdvLane f (tokMark (s.opnds s.site (.drdv v h f c0)).l) ((c.regs.vReg v.toNat).view s.cycle) k).1)
        (fun m => m.digits = f.digits ∧ m.form = .canon f ∧ m.start = s.cycle + 1) ∧
      ∀ c', t.cell? s.site.cell = some c' → c.regs.AccessedV c'.regs v.toNat ((c.regs.vReg v.toNat).readMark s.cycle h VReg.marked) := by
  obtain ⟨t, he, htook, hbeside, hflight, hmade, hregs⟩ := runs_of_regs0_emitNum (f := fun c => c.readV s.cycle v.toNat h)
    (F := fun g => (g.setVBank (v.toNat / 4) { g.vBank (v.toNat / 4) with busyAt := s.cycle }).setV v.toNat
      ((g.vReg v.toNat).readMark s.cycle h VReg.marked)) (fun _ => rfl) hg (drdv_live_eq hg hc hd) List.nodup_nil (fun _ _ _ _ => rfl)
    (lanes128_map _ _) (fun _ => rfl) hc
  refine ⟨t, he, htook, hbeside, hflight, hmade, fun c' hc' => ?_⟩
  rw [hregs c' hc']
  exact c.regs.accessedV_setV _ _ _ _

theorem drdv_dead_runs (hg : s.goes0 (.drdv v h f c0))
    (hd : deadRead (c.regs.vBank (v.toNat / 4)) ((c.regs.vReg v.toNat).view s.cycle).valid = true) :
    ∃ (t : State) (x : Nat → Val), exec (.drdv v h f c0) s = .next t ∧ Took0 (.drdv v h f c0) s t ∧
      OwnFault s t 1 0 (BitVec.ofNat 64 (64 + v.toNat)) 0 ∧ SameMemory s t ∧ SameChannels s t ∧
      NumberMade (.drdv v h f c0) s t (fun k => ⟨x k, some (originSpec s.site (s.fireNo s.site))⟩)
        (fun m => m.digits = f.digits ∧ m.start = s.cycle + 1) ∧
      ∀ c', t.cell? s.site.cell = some c' → c'.regs.g = c.regs.g ∧ c'.regs.k = c.regs.k ∧ c'.regs.v = c.regs.v := by
  have hf : Cell.OnlyRegs (fun c => c.deadTouchV s.cycle v.toNat) := fun _ => rfl
  have hafter := (after0_took0 s (.drdv v h f c0)).updCell s.site.cell hf.besideBlocks fun _ => rfl
  have hbeside := (quiet_took0 s (.drdv v h f c0)).besideCells.updCell s.site.cell hf.besideBlocks
  have hflt := (sameFlt_updBlock s s.site _).trans (sameFlt_updCell hf (s.took0 s.site (.drdv v h f c0)) s.site.cell)
  have hfire := fireNo_updCell_took0 hf.besideBlocks s (.drdv v h f c0) s.site.cell
  have hregs : (((s.took0 s.site (.drdv v h f c0)).updCell s.site.cell (fun c => c.deadTouchV s.cycle v.toNat)).cell? s.site.cell).map
      (fun c => (c.regs.g, c.regs.k, c.regs.v)) = some (c.regs.g, c.regs.k, c.regs.v) := by
    refine (State.cell?_updCell_map _ _ _ _ hf.num _ fun _ => rfl).trans ((s.updBlock_cell? s.site _ s.site.cell _ fun _ => rfl).trans ?_)
    rw [hc, Option.map_some]
  obtain ⟨cu, hcu, hfiles⟩ := Option.map_eq_some_iff.mp hregs
  obtain ⟨hface, hframe, hchannels, htaken⟩ := deadReg_taken hcu 1 v.toNat
  rw [hfire, Nat.one_mul] at htaken
  obtain ⟨htook, hmade⟩ := (hafter.of_face hface hframe.cycle).emitNum (out := ⟨lanes128 (s.deadLane f), f.digits, .same, .free, .atOnce⟩)
    (lane := s.deadLane f) hg List.nodup_nil (fun _ _ _ _ => rfl) (s.dataOps s.site (.drdv v h f c0)) rfl
  obtain ⟨hcells, hch, hmem, -⟩ := quiet_emitNum (((s.took0 s.site (.drdv v h f c0)).updCell s.site.cell (fun c =>
    c.deadTouchV s.cycle v.toNat)).deadReg s.site 1 v.toNat) s.site (.drdv v h f c0) (s.dataOps s.site (.drdv v h f c0))
      ⟨lanes128 (s.deadLane f), f.digits, .same, .free, .atOnce⟩
  obtain ⟨hmem0, hch0, -⟩ := hbeside
  refine ⟨_, fun k => (wordVal f (Config.poisonWord s.fresh k)).1, drdv_dead_eq hg hc hd, htook, htaken.congr hflt rfl hcells.sameFlt,
    hmem0.trans (hframe.sameMemory.trans hmem), Eq.trans hch (Eq.trans hchannels hch0), ?_, fun c' hc' => ?_⟩
  · rw [← originOf_spec]
    exact hmade.imp fun m ⟨hdigits, _, hstart⟩ => ⟨hdigits, hstart⟩
  · have hregs' := (emitNum_regs _ s.site (.drdv v h f c0) (s.dataOps s.site (.drdv v h f c0))
      ⟨lanes128 (s.deadLane f), f.digits, .same, .free, .atOnce⟩ s.site.cell).trans (hface.regs s.site.cell)
    rw [hc', hcu, Option.map_some, Option.map_some, Option.some.injEq] at hregs'
    rw [Prod.mk.injEq, Prod.mk.injEq] at hfiles
    rw [hregs']
    exact hfiles

theorem dwrv_runs {rm : Rnd} (hg : s.goes0 (.dwrv v f rm c0)) : ∃ t, exec (.dwrv v f rm c0) s = .next t ∧ Took0 (.dwrv v f rm c0) s t ∧
    BesideCells s t ∧ t.flight = s.flight ++ s.flights s.site [(c0, ⟨0, none⟩)] ∧ ∀ c', t.cell? s.site.cell = some c' →
      c.regs.AccessedV c'.regs v.toNat ((c.regs.vReg v.toNat).write s.cycle s.site.rank (dwrvReg f rm (opLanes ((s.slot s.site).num .l)))) := by
  obtain ⟨t, he, htook, hbeside, hflight, hregs⟩ := runs_of_regs0_emits
    (f := fun c => c.writeV s.cycle v.toNat s.site.rank (dwrvReg f rm (opLanes ((s.slot s.site).num .l))))
    (F := fun g => (g.setVBank (v.toNat / 4) { g.vBank (v.toNat / 4) with busyAt := s.cycle }).setV v.toNat
      ((g.vReg v.toNat).write s.cycle s.site.rank (dwrvReg f rm (opLanes ((s.slot s.site).num .l))))) (fun _ => rfl) hg (dwrv_eq hg)
    (List.nodup_singleton _) (fun _ _ _ _ => rfl) (fun _ => rfl) hc
  refine ⟨t, he, htook, hbeside, hflight, fun c' hc' => ?_⟩
  rw [hregs c' hc']
  exact c.regs.accessedV_setV _ _ _ _

end

end Sys2Proof.Machine

namespace Sys2Proof
open Sys2Proof.Machine

/-- Settles O27: a live DRDV reads its register, a dead one raises DEAD_REG and sends free values, DWRV writes its register. -/
theorem vectorRegisters : Obligations.VectorRegisters := by
  refine ⟨fun v h f c0 s c hg hc hd => ?_, fun v h f c0 s c hg hc hd => ?_, fun v f rm c0 s c hg hc hlen hat => ?_⟩
  · obtain ⟨t, he, htook, ⟨hmem, hch, hdev⟩, hflight, hmade, hregs⟩ := drdv_live_runs hc hg hd
    refine ⟨t, he, htook, hmem, hch, hdev, hflight, hmade, fun c' hc' => ?_⟩
    obtain ⟨hregG, hregK, hother, -⟩ := hregs c' hc'
    exact ⟨hregG, hregK, hother⟩
  · exact drdv_dead_runs hc hg hd
  · obtain ⟨t, he, htook, ⟨hmem, hch, hdev⟩, hflight, hregs⟩ := dwrv_runs hc hg
    refine ⟨t, he, htook, hmem, hch, hdev, hflight, fun c' hc' => ?_⟩
    obtain ⟨hregG, hregK, hother, hself⟩ := hregs c' hc'
    rw [hself hlen, Timed.write_of_stale hat]
    exact ⟨hregG, hregK, hother, rfl, rfl, fun k hk => dwrvReg_lane f rm s hk⟩

end Sys2Proof
end

section
/-! PROOFS. A port's only access: its turn and its answer (R223, R224) -/

namespace Sys2Proof.Machine

/-! What turns and answers leave of a cell. -/

/-- A cell but for its registers, slots, fetched images, exception state and counters: what an access may not change until its port moves on. -/
def Cell.shell (c : Cell) : Nat × List Port × Nat × Bool × List (List InChan × List OutChan) := (c.num, c.ports, c.divider, c.parity, c.channels)

/-- Cells that keep their shells, in a state that has sent nothing and in whose cycle nothing has moved on. -/
structure SameShell (s t : State) : Prop where
  cells : t.cells.map Cell.shell = s.cells.map Cell.shell
  cycle : t.cycle = s.cycle
  flight : t.flight = s.flight
  thermal : t.thermal = s.thermal

theorem SameShell.refl (s : State) : SameShell s s := ⟨rfl, rfl, rfl, rfl⟩

theorem SameShell.trans {s t u : State} (h : SameShell s t) (h' : SameShell t u) : SameShell s u :=
  ⟨h'.cells.trans h.cells, h'.cycle.trans h.cycle, h'.flight.trans h.flight, h'.thermal.trans h.thermal⟩

theorem Cell.shell_face (c : Cell) : c.face.shell = c.shell := by
  have hch : c.face.channels = c.channels := by
    rw [Cell.channels, Cell.face, Cell.channels, List.map_map]
    rfl
  rw [Cell.shell, hch]
  rfl

theorem SameFace.shells {s t : State} (h : SameFace s t) : t.cells.map Cell.shell = s.cells.map Cell.shell := by
  have key (u : State) : u.cells.map Cell.shell = (u.cells.map Cell.face).map Cell.shell := by
    rw [List.map_map]
    exact List.map_congr_left fun c _ => c.shell_face.symm
  rw [key, key, h]

/-- A fault leaves the shells. -/
theorem SameFace.sameShell {s t : State} (h : SameFace s t) (h' : SameButFaults s t) : SameShell s t := by
  refine ⟨h.shells, h'.cycle, h'.flight, ?_⟩
  obtain ⟨_, _, _, _, rfl⟩ := h'
  rfl

theorem sameShell_updSlot (s : State) (t : Site) (f : Slot → Slot) : SameShell s (s.updSlot t f) :=
  ⟨s.cells_map_updCell t.cell _ Cell.shell fun c =>
    congrArg (fun l => (c.num, c.ports, c.divider, c.parity, l)) (Cell.updBlock_channels c t.ctx _ fun _ => rfl), rfl, rfl, rfl⟩

theorem SameShell.sameChannels {s t : State} (h : SameShell s t) : SameChannels s t := by
  have := congrArg (List.map fun x : Nat × List Port × Nat × Bool × List (List InChan × List OutChan) => x.2.2.2.2) h.cells
  rwa [List.map_map, List.map_map] at this

theorem cell?_of_shells {s t : State} (h : t.cells.map Cell.shell = s.cells.map Cell.shell) (n : Nat) :
    (t.cell? n).map Cell.shell = (s.cell? n).map Cell.shell := by
  have key (u : State) : (u.cell? n).map Cell.shell = (u.cells.map Cell.shell).find? (fun x => x.1 == n) := by
    rw [List.find?_map]
    rfl
  rw [key, key, h]

theorem port_of_shells {s t : State} (h : t.cells.map Cell.shell = s.cells.map Cell.shell) (cell n : Nat) : t.port cell n = s.port cell n := by
  have key (u : State) : u.port cell n = (((u.cell? cell).map Cell.shell).map (fun x => (x.2.1.find? (fun p => p.num == n)).getD (.fresh n))).getD
      (.fresh n) := by
    unfold State.port
    cases u.cell? cell <;> rfl
  rw [key, key, cell?_of_shells h]

theorem SameShell.isSome_cell? {s t : State} (h : SameShell s t) (n : Nat) : (t.cell? n).isSome = (s.cell? n).isSome := by
  have := congrArg Option.isSome (cell?_of_shells h.cells n)
  rwa [Option.isSome_map, Option.isSome_map] at this

theorem SameShell.flights {s t : State} (h : SameShell s t) (u : Site) (l : List (Consumer × Tok)) : t.flights u l = s.flights u l := by
  refine State.flights_congr s t u l h.cycle ?_
  have := congrArg (Option.map fun x : Nat × List Port × Nat × Bool × List (List InChan × List OutChan) => (x.2.2.1, x.2.2.2.1)) (cell?_of_shells h.cells u.cell)
  rwa [Option.map_map, Option.map_map] at this

/-! One port. -/

theorem Cell.port_updPort (c : Cell) (n : Nat) {f : Port → Port} (hf : ∀ p, (f p).num = p.num) : (c.updPort n f).port n = f (c.port n) := by
  have hmap (l : List Port) : (l.map (fun p => if p.num == n then f p else p)).find? (fun p => p.num == n) =
      (l.find? (fun p => p.num == n)).map f := by
    have hnum : (fun p : Port => p.num == n) ∘ (fun p => if p.num == n then f p else p) = fun p => p.num == n := by
      funext p
      simp only [Function.comp]
      split <;> simp [hf]
    rw [List.find?_map, hnum]
    cases h : l.find? (fun p => p.num == n) with
    | none => rfl
    | some p =>
      have hp : (p.num == n) = true := List.find?_some (p := fun p : Port => p.num == n) h
      rw [Option.map_some, Option.map_some, if_pos hp]
  unfold Cell.updPort Cell.port Cell.port?
  split
  next h =>
    rw [hmap]
    obtain ⟨p, hp⟩ := Option.isSome_iff_exists.mp h
    rw [hp, Option.map_some, Option.getD_some, Option.getD_some]
  next h =>
    have hnone : c.ports.find? (fun p => p.num == n) = none := by simpa using h
    simp [List.find?_append, hnone, hf, Port.fresh]

theorem State.port_updPort {s : State} {cell : Nat} (hc : (s.cell? cell).isSome = true) (n : Nat) {f : Port → Port} (hf : ∀ p, (f p).num = p.num) :
    (s.updPort cell n f).port cell n = f (s.port cell n) := by
  obtain ⟨c, hc⟩ := Option.isSome_iff_exists.mp hc
  simp only [State.port, State.updPort, State.cell?_updCell_self s cell _ (fun c => c.updPort_num n f), hc, Option.map_some]
  exact c.port_updPort n hf

theorem State.accs_updPort {s : State} {cell : Nat} (hc : (s.cell? cell).isSome = true) (n : Nat) (g : List Access → List Access) :
    ((s.updPort cell n (fun q => { q with accs := g q.accs })).port cell n).accs = g (s.port cell n).accs :=
  congrArg Port.accs (State.port_updPort hc n (f := fun q => { q with accs := g q.accs }) fun _ => rfl)

theorem Cell.updPort_rest (c : Cell) (n : Nat) (f : Port → Port) : ∃ ps, c.updPort n f = { c with ports := ps } := by
  unfold Cell.updPort
  split <;> exact ⟨_, rfl⟩

/-- Whatever does not read the ports of a cell, an update of one leaves. -/
theorem State.cells_updPort {β : Type} (s : State) (cell n : Nat) (f : Port → Port) (P : Cell → β) (hP : ∀ c ps, P { c with ports := ps } = P c) :
    (s.updPort cell n f).cells.map P = s.cells.map P :=
  s.cells_map_updCell cell _ P fun c => by
    obtain ⟨ps, h⟩ := c.updPort_rest n f
    rw [h, hP]

theorem State.cell?_updPort {β : Type} (s : State) (cell n m : Nat) (f : Port → Port) (P : Cell → β) (hP : ∀ c ps, P { c with ports := ps } = P c) :
    ((s.updPort cell n f).cell? m).map P = (s.cell? m).map P :=
  s.cell?_updCell_map cell m _ (fun c => c.updPort_num n f) P fun c => by
    obtain ⟨ps, h⟩ := c.updPort_rest n f
    rw [h, hP]

theorem State.flights_updPort (s : State) (cell n : Nat) (f : Port → Port) (t : Site) (l : List (Consumer × Tok)) :
    (s.updPort cell n f).flights t l = s.flights t l :=
  State.flights_congr s _ t l rfl (s.cell?_updPort cell n t.cell f _ fun _ _ => rfl)

theorem State.block?_updPort (s : State) (cell n : Nat) (f : Port → Port) (t : Site) : (s.updPort cell n f).block? t = s.block? t := by
  have h := s.cell?_updPort cell n t.cell f (fun c => c.block? t.ctx) fun _ _ => rfl
  have key (u : State) : u.block? t = ((u.cell? t.cell).map (fun c => c.block? t.ctx)).join := by
    unfold State.block?
    cases u.cell? t.cell <;> rfl
  rw [key, key, h]

/-! The only access of a port. -/

/-- The only access of a port has its turn. -/
structure State.OnlyTurn (s : State) (cell port : Nat) (a : Access) : Prop where
  thermal : s.thermal = false
  held : (s.cell? cell).isSome = true
  accs : (s.port cell port).accs = [a]
  site : a.site.cell = cell
  stage : a.stage = .ready
  leave : s.mayLeave cell a = true

/-- An access that has met its turn, with the cycle in which its request arrived. -/
def Access.tried (a : Access) (now : Nat) : Access := { a with arr := some (a.arr.getD now) }

/-- An access that is done with the tokens that it replies. -/
def Access.finish (a : Access) (toks : List Tok) : Access := { a with stage := .done toks, arr := none }

/-- The state with one access alone at a port. -/
def State.alone (s : State) (cell port : Nat) (x : Access) : State := s.updPort cell port (fun q => { q with accs := q.accs.set 0 x })

namespace State.OnlyTurn
variable {s s1 : State} {cell port : Nat} {a : Access} (h : s.OnlyTurn cell port a)
include h

theorem alone_accs (hs : SameShell s s1) (x : Access) : ((s1.alone cell port x).port cell port).accs = [x] := by
  refine (State.accs_updPort (by rw [hs.isSome_cell?, h.held]) port (·.set 0 x)).trans ?_
  rw [port_of_shells hs.cells, h.accs]
  rfl

theorem exec_turn : exec (.memoryReply cell port 0) s = .next (match s.performAccess (a.tried s.cycle) with
    | .done s1 toks => (s1.alone cell port (a.finish toks)).endRun a.site port
    | .later s1 b => (s1.alone cell port (if (a.moved b) then { b with arr := none } else b)).endRun a.site port
    | .drop s1 => s1.alone cell port (a.finish [])
    | .gone s1 => s1.alone cell port { a with stage := .stream [] none false, arr := none }) := by
  have hturn : s.mayTurn cell port 0 a = true := by
    simp [State.mayTurn, h.stage, Port.blocked, h.leave]
  have hfirst : (s.port cell port).accs[0]? = some a := by rw [h.accs]; rfl
  rw [exec_memoryReply, execMemoryReply, h.thermal, if_neg Bool.false_ne_true, if_neg (by decide)]
  simp only [State.turnAccess, hfirst, hturn, if_true]
  rfl

/-- With nothing left to perform at the port, no run ends. -/
theorem endRun_finish (hs : SameShell s s1) (toks : List Tok) :
    (s1.alone cell port (a.finish toks)).endRun a.site port = s1.alone cell port (a.finish toks) := by
  have hnext : (s1.alone cell port (a.finish toks)).nextOf a.site port = none := by
    rw [State.nextOf, h.site, h.alone_accs hs]
    simp [Access.finish, Stage.isDone]
  simp only [State.endRun, hnext]
  split <;> simp_all

theorem exec_done (hs : SameShell s s1) {toks : List Tok} (hp : s.performAccess (a.tried s.cycle) = .done s1 toks) :
    exec (.memoryReply cell port 0) s = .next (s1.alone cell port (a.finish toks)) := by
  rw [h.exec_turn, hp]
  exact congrArg _ (h.endRun_finish hs toks)

theorem exec_drop (hp : s.performAccess (a.tried s.cycle) = .drop s1) :
    exec (.memoryReply cell port 0) s = .next (s1.alone cell port (a.finish [])) := by rw [h.exec_turn, hp]

end State.OnlyTurn

/-! Its answer. -/

/-- The state in which the only access of a port has left it, and answers. -/
def State.left (s : State) (cell port : Nat) (a : Access) (toks : List Tok) : State :=
  (s.alone cell port (a.finish toks)).updPort cell port (fun q => { q with accs := [] })

theorem left_cells {β : Type} (s : State) (cell port : Nat) (a : Access) (toks : List Tok) (P : Cell → β) (hP : ∀ c ps, P { c with ports := ps } = P c) :
    (s.left cell port a toks).cells.map P = s.cells.map P :=
  (State.cells_updPort _ cell port _ P hP).trans (s.cells_updPort cell port _ P hP)

theorem left_channels (s : State) (cell port : Nat) (a : Access) (toks : List Tok) : SameChannels s (s.left cell port a toks) :=
  left_cells s cell port a toks Cell.channels fun _ _ => rfl

theorem left_flt (s : State) (cell port : Nat) (a : Access) (toks : List Tok) : SameFlt s (s.left cell port a toks) :=
  left_cells s cell port a toks (fun c => (c.num, c.flt)) fun _ _ => rfl

theorem left_flights (s : State) (cell port : Nat) (a : Access) (toks : List Tok) (t : Site) (l : List (Consumer × Tok)) :
    (s.left cell port a toks).flights t l = s.flights t l :=
  (State.flights_updPort _ cell port _ t l).trans (s.flights_updPort cell port _ t l)

theorem answer_nil (s : State) (a : Access) : s.answer a [] = s.unreserve a.site a.instr := by
  unfold State.answer
  split <;> simp_all

theorem reply_eq (s : State) (t : Site) (c : Consumer) (l : List Tok) : ∃ fl, s.reply t c l = { s with flight := fl } := by
  induction l generalizing s with
  | nil => exact ⟨s.flight, rfl⟩
  | cons k l ih =>
    have hsend : ∃ fl, s.send t c k 0 = { s with flight := fl } := by
      unfold State.send
      cases c with
      | none => exact ⟨s.flight, rfl⟩
      | some g =>
        cases s.cell? t.cell with
        | none => exact ⟨s.flight, rfl⟩
        | some x => exact ⟨_, rfl⟩
    obtain ⟨fl, hfl⟩ := ih (s.send t c k 0)
    obtain ⟨fl', hfl'⟩ := hsend
    exact ⟨fl, hfl.trans (by rw [hfl'])⟩

theorem answer_reply (s : State) {a : Access} (hw : isWin a.instr = false) (tok : Tok) : s.answer a [tok] = s.reply a.site a.target [tok] := by
  unfold State.answer
  split
  · simp_all
  next _ hi _ => rw [hi] at hw; exact absurd hw (by simp [isWin])
  · rfl

/-- Entries given back change nothing but the cells, which keep their faces and their exception state. -/
theorem unreserve_beside (s : State) (t : Site) (i : Instr) : SameFace s (s.unreserve t i) ∧ SameFlt s (s.unreserve t i) ∧
    s.unreserve t i = { s with cells := (s.unreserve t i).cells } := by
  have key {α : Type} (f : State → α → State) (hf : ∀ s x, SameFace s (f s x) ∧ SameFlt s (f s x) ∧ f s x = { s with cells := (f s x).cells })
      (l : List α) (s : State) : SameFace s (l.foldl f s) ∧ SameFlt s (l.foldl f s) ∧ l.foldl f s = { s with cells := (l.foldl f s).cells } := by
    induction l generalizing s with
    | nil => exact ⟨.refl s, rfl, rfl⟩
    | cons x l ih =>
      obtain ⟨hface, hflt, heq⟩ := ih (f s x)
      obtain ⟨hface', hflt', heq'⟩ := hf s x
      refine ⟨hface'.trans hface, hflt'.trans hflt, ?_⟩
      rw [List.foldl_cons, heq, heq']
  exact key _ (fun s x => key _ (fun s _ => ⟨sameFace_release s t x.1, sameFlt_updBlock s t _, rfl⟩) _ s) _ s

namespace State.OnlyTurn
variable {s s1 : State} {cell port : Nat} {a : Access} (h : s.OnlyTurn cell port a) (hs : SameShell s s1)
include h hs

/-- The answer of the access once it is done. -/
theorem exec_answer (toks : List Tok)
    (hface : SameFace (s1.left cell port a toks) ((s1.left cell port a toks).answer (a.finish toks) toks)) :
    exec (.memoryReply cell port 64) (s1.alone cell port (a.finish toks)) = .next ((s1.left cell port a toks).answer (a.finish toks) toks) ∧
      (((s1.left cell port a toks).answer (a.finish toks) toks).port cell port).accs = [] := by
  have haccs := h.alone_accs hs (a.finish toks)
  have hcell : ((s1.alone cell port (a.finish toks)).cell? cell).isSome = true := by
    have := congrArg Option.isSome (s1.cell?_updPort cell port cell (fun q => { q with accs := q.accs.set 0 (a.finish toks) })
      (fun c => c.num) fun _ _ => rfl)
    rw [Option.isSome_map, Option.isSome_map] at this
    rw [State.alone, this, hs.isSome_cell?, h.held]
  have hempty : (((s1.left cell port a toks).answer (a.finish toks) toks).port cell port).accs = [] := by
    rw [port_of_shells hface.shells]
    exact State.accs_updPort hcell port fun _ => []
  refine ⟨?_, hempty⟩
  have hthermal : (s1.alone cell port (a.finish toks)).thermal = false := hs.thermal.trans h.thermal
  have hlone : (a.finish toks).loadsCam none = false := by simp [Access.loadsCam]
  have hdone : (s1.alone cell port (a.finish toks)).answerDone cell port none 1 = (s1.left cell port a toks).answer (a.finish toks) toks := by
    simp only [State.answerDone, haccs, hlone, Bool.false_eq_true, if_false]
    rfl
  rw [exec_memoryReply, execMemoryReply, hthermal, if_neg Bool.false_ne_true, if_pos (show 64 = answerTurn from rfl), haccs, List.length_singleton,
    hdone, State.answerStream, hempty]

/-- An access that is performed in its turn replies one token. -/
theorem replies {tok : Tok} (hw : isWin a.instr = false) (hp : s.performAccess (a.tried s.cycle) = .done s1 [tok]) :
    ∃ u t, exec (.memoryReply cell port 0) s = .next u ∧ exec (.memoryReply cell port 64) u = .next t ∧ u.flight = s.flight ∧
      (t.port cell port).accs = [] ∧ SameChannels s t ∧ t.flight = s.flight ++ s.flights a.site [(a.target, tok)] ∧ SameFlt s1 t ∧
      ∃ cells fl, t = { s1 with cells := cells, flight := fl } := by
  have hreply := answer_reply (s1.left cell port a [tok]) (a := a.finish [tok]) hw tok
  obtain ⟨he, haccs⟩ := h.exec_answer hs [tok] (sameFace_of_eq (by rw [hreply, reply_cells]))
  rw [hreply] at he haccs
  refine ⟨_, _, h.exec_done hs hp, he, hs.flight, haccs, ?_, ?_, ?_, ?_⟩
  · exact (sameChannels_of_eq (reply_cells ..)).trans ((left_channels s1 cell port a [tok]).trans hs.sameChannels)
  · rw [State.reply_flight, left_flights, hs.flights, ← hs.flight]
    rfl
  · exact (left_flt s1 cell port a [tok]).trans (congrArg (List.map _) (reply_cells ..))
  · obtain ⟨fl, hfl⟩ := reply_eq (s1.left cell port a [tok]) a.site a.target [tok]
    exact ⟨_, fl, hfl⟩

/-- An access that is dropped in its turn replies nothing. -/
theorem drops (hp : s.performAccess (a.tried s.cycle) = .drop s1) :
    ∃ u t, exec (.memoryReply cell port 0) s = .next u ∧ exec (.memoryReply cell port 64) u = .next t ∧ t.flight = s.flight ∧
      (t.port cell port).accs = [] ∧ SameFlt s1 t ∧ t.mem = s1.mem := by
  have hnil := answer_nil (s1.left cell port a []) (a.finish [])
  obtain ⟨hface, hflt, heq⟩ := unreserve_beside (s1.left cell port a []) a.site a.instr
  obtain ⟨he, haccs⟩ := h.exec_answer hs [] (by rw [hnil]; exact hface)
  rw [hnil] at he haccs
  refine ⟨_, _, h.exec_drop hp, he, ?_, haccs, (left_flt s1 cell port a []).trans hflt, ?_⟩
  · have hflight := congrArg State.flight heq
    exact hflight.trans hs.flight
  · have hmem := congrArg State.mem heq
    exact hmem

end State.OnlyTurn

/-- An access that must wait where it stands: nothing changes but the cycle in which its request arrived. -/
theorem State.OnlyTurn.waits {s : State} {cell port : Nat} {a : Access} (h : s.OnlyTurn cell port a) (hrun : (s.slot a.site).run = none)
    (hp : s.performAccess (a.tried s.cycle) = .later s (a.tried s.cycle)) : WaitsThere s cell port a := by
  have hmoved : a.moved (a.tried s.cycle) = false := by simp [Access.moved, Access.tried, Access.nextPart]
  have hrun' : ((s.alone cell port (a.tried s.cycle)).slot a.site).run = none := by
    rw [State.slot, State.alone, State.block?_updPort]
    exact hrun
  have hend : (s.alone cell port (a.tried s.cycle)).endRun a.site port = s.alone cell port (a.tried s.cycle) := by
    simp only [State.endRun, hrun']
  refine ⟨s.alone cell port (a.tried s.cycle), ?_, rfl, sameMemory_of_eq rfl, ?_⟩
  · rw [h.exec_turn, hp]
    simp only [hmoved, Bool.false_eq_true, if_false, hend]
  · rw [h.alone_accs (.refl s)]
    rfl

end Sys2Proof.Machine
end

section
/-! PROOFS. What writes of scratchpad bytes leave of memory (R176, R177, R222) -/

namespace Sys2Proof.Machine

/-! Segments. -/

theorem find?_putSeg (l : List Segment) (g : Segment) (p : Nat) :
    (putSeg l g).find? (fun x => x.page == p) = if p = g.page then some g else l.find? (fun x => x.page == p) := by
  induction l with
  | nil => by_cases h : p = g.page <;> simp [putSeg, h, Ne.symm]
  | cons x rest ih =>
    rw [putSeg]
    split_ifs with h1 h2 h3 <;> simp_all [List.find?_cons, Ne.symm]

theorem MemSys.seg_setSeg (m : MemSys) (g : Segment) (p : Nat) : (m.setSeg g).seg p = if p = g.page then g else m.seg p := by
  simp only [MemSys.seg, MemSys.setSeg, find?_putSeg]
  by_cases h : p = g.page <;> simp only [h, if_true, if_false]

theorem MemSys.seg_page (m : MemSys) (p : Nat) : (m.seg p).page = p := by
  unfold MemSys.seg
  split
  next x hx => simpa using List.find?_some hx
  next => rfl

/-- A segment but for which of its bytes have been written. -/
def Segment.life (g : Segment) : Segment := { g with written := 0 }

/-! Bytes laid in the scratchpad. -/

/-- One byte written to a live segment. -/
def MemSys.spadPut (m : MemSys) (pa : Nat) (b : Byte) : MemSys :=
  { m with bytes := Memory.set m.bytes pa b }.setSeg { m.seg (pa / 4096) with written := (m.seg (pa / 4096)).written ||| (1 <<< (pa % 4096)) }

theorem MemSys.spadWrite_cons (m : MemSys) (pa : Nat) (b : Byte) (bs : List Byte) :
    m.spadWrite pa (b :: bs) = (m.spadPut pa b).spadWrite (pa + 1) bs := rfl

theorem MemSys.seg_spadPut (m : MemSys) (pa : Nat) (b : Byte) (p : Nat) : (m.spadPut pa b).seg p =
    if p = pa / 4096 then { m.seg (pa / 4096) with written := (m.seg (pa / 4096)).written ||| (1 <<< (pa % 4096)) } else m.seg p := by
  rw [MemSys.spadPut, MemSys.seg_setSeg]
  simp only [MemSys.seg_page]
  rfl

theorem MemSys.life_spadPut (m : MemSys) (pa : Nat) (b : Byte) (p : Nat) : ((m.spadPut pa b).seg p).life = (m.seg p).life := by
  rw [MemSys.seg_spadPut]
  split
  next h => rw [h]; rfl
  next => rfl

theorem MemSys.spadByte_spadPut {m : MemSys} (hwf : m.Wf) (pa : Nat) (b : Byte) (k : Nat) :
    (m.spadPut pa b).spadByte k = if k = pa then b else m.spadByte k := by
  have hlt : k % 4096 < 4096 := Nat.mod_lt _ (by omega)
  have hbytes : (m.spadPut pa b).bytes = Memory.set m.bytes pa b := rfl
  rw [MemSys.spadByte, MemSys.seg_spadPut, hbytes, MemSys.spadByte]
  by_cases hk : k = pa
  · subst hk
    simp only [if_true, BitVec.getLsbD_or, getLsbD_bit (k % 4096) hlt, decide_true, Bool.or_true, Memory.get_set_same m.bytes k b hwf]
  · rw [if_neg hk, Memory.get_set_other _ _ _ _ hk]
    by_cases hp : k / 4096 = pa / 4096
    · have hne : pa % 4096 ≠ k % 4096 := by omega
      simp only [hp, if_true, BitVec.getLsbD_or, getLsbD_bit (pa % 4096) hlt, decide_eq_false hne, Bool.or_false]
    · simp only [hp, if_false]

theorem MemSys.life_spadWrite (bs : List Byte) (m : MemSys) (pa p : Nat) : ((m.spadWrite pa bs).seg p).life = (m.seg p).life := by
  induction bs generalizing m pa with
  | nil => rfl
  | cons b bs ih => rw [MemSys.spadWrite_cons, ih, MemSys.life_spadPut]

/-- A write lays its bytes in the scratchpad, and leaves every other. -/
theorem MemSys.spadByte_spadWrite (bs : List Byte) {m : MemSys} (hwf : m.Wf) (pa k : Nat) :
    (m.spadWrite pa bs).spadByte k = if pa ≤ k ∧ k < pa + bs.length then bs.getD (k - pa) 0 else m.spadByte k := by
  induction bs generalizing m pa with
  | nil => rw [if_neg (by simp)]; rfl
  | cons b bs ih =>
    rw [MemSys.spadWrite_cons, ih (Memory.wf_set _ _ _ hwf), MemSys.spadByte_spadPut hwf]
    by_cases hk : k = pa
    · subst hk
      rw [if_neg (by omega), if_pos rfl, if_pos (by simp), Nat.sub_self]
      rfl
    · by_cases hin : pa + 1 ≤ k ∧ k < pa + 1 + bs.length
      · have hsub : k - pa = k - (pa + 1) + 1 := by omega
        rw [if_pos hin, if_pos (by rw [List.length_cons]; omega), hsub, List.getD_cons_succ]
      · rw [if_neg hin, if_neg hk, if_neg (by rw [List.length_cons]; omega)]

theorem MemSys.spadWrite_rest (bs : List Byte) (m : MemSys) (pa : Nat) : ∃ bytes segs, m.spadWrite pa bs = { m with bytes := bytes, segs := segs } := by
  induction bs generalizing m pa with
  | nil => exact ⟨m.bytes, m.segs, rfl⟩
  | cons b bs ih =>
    obtain ⟨bytes, segs, h⟩ := ih (m.spadPut pa b) (pa + 1)
    exact ⟨bytes, segs, h⟩

/-! What stands at an address. -/

theorem target_spad {pa : Nat} : target pa = some .spad ↔ 0x8000000000000 ≤ pa ∧ pa < 0x8000020000000 := by
  unfold target
  split_ifs <;> simp_all
  omega

theorem look_spad (m : MemSys) {pa : Nat} (h : target pa = some .spad) :
    m.look pa = if (m.seg (pa / 4096)).live then some (m.spadByte pa) else none := by simp only [MemSys.look, h]

/-- What stands at an address is decided by its byte, and in the scratchpad by whether its segment lives. -/
theorem look_of_byte {m m' : MemSys} {k : Nat} (hget : target k ≠ some .spad → Memory.get m'.bytes k = Memory.get m.bytes k)
    (hlive : target k = some .spad → (m'.seg (k / 4096)).live = (m.seg (k / 4096)).live)
    (hbyte : target k = some .spad → (m.seg (k / 4096)).live = true → m'.spadByte k = m.spadByte k) : m'.look k = m.look k := by
  by_cases h : target k = some .spad
  · rw [look_spad m' h, look_spad m h, hlive h]
    split
    next hl => rw [hbyte h hl]
    next => rfl
  · unfold MemSys.look
    split
    · rw [hget h]
    · rw [hget h]
    next h' => exact absurd h' h
    · rfl

theorem look_spadWrite_other {m : MemSys} (hwf : m.Wf) (bs : List Byte) {pa k : Nat} (hk : ¬(pa ≤ k ∧ k < pa + bs.length)) :
    (m.spadWrite pa bs).look k = m.look k := by
  have hlife := congrArg Segment.live (m.life_spadWrite bs pa (k / 4096))
  refine look_of_byte (fun _ => ?_) (fun _ => hlife) fun _ _ => by rw [MemSys.spadByte_spadWrite bs hwf, if_neg hk]
  rw [(m.spadWrite_lays bs pa).bytes, Memory.get_setAll_other bs _ pa k (by omega)]

theorem look_spadWrite_same {m : MemSys} (hwf : m.Wf) {bs : List Byte} {pa k : Nat} (hk : pa ≤ k ∧ k < pa + bs.length)
    (ht : target k = some .spad) (hlive : (m.seg (k / 4096)).live = true) : (m.spadWrite pa bs).look k = some (bs.getD (k - pa) 0) := by
  have hlife : ((m.spadWrite pa bs).seg (k / 4096)).live = true := (congrArg Segment.live (m.life_spadWrite bs pa (k / 4096))).trans hlive
  rw [look_spad _ ht, if_pos hlife, MemSys.spadByte_spadWrite bs hwf, if_pos hk]

/-! A segment made live by a write. -/

theorem seg_enliven (m : MemSys) (page tag p : Nat) : ((m.enliven page tag).seg p).life =
    if p = page then ⟨page, true, false, tag, if (m.seg page).live then (m.seg page).epoch else m.epochs, 0⟩ else (m.seg p).life := by
  unfold MemSys.enliven
  dsimp only
  split
  next hl =>
    rw [MemSys.seg_setSeg]
    simp only [MemSys.seg_page]
    split
    · simp only [Segment.life, hl]
    · rfl
  next hl =>
    rw [MemSys.seg_setSeg]
    split <;> rfl

theorem enliven_bytes (m : MemSys) (page tag : Nat) : (m.enliven page tag).bytes = m.bytes := (m.enliven_stays page tag).bytes

theorem enliven_vers (m : MemSys) (page tag : Nat) : (m.enliven page tag).vers = m.vers := by
  unfold MemSys.enliven
  dsimp only
  split <;> rfl

theorem enliven_marks_live {m : MemSys} {page : Nat} (h : (m.seg page).live = true) (tag : Nat) : (m.enliven page tag).marks = m.marks := by
  unfold MemSys.enliven
  dsimp only
  rw [if_pos h]
  rfl

theorem enliven_marks_dead {m : MemSys} {page : Nat} (h : (m.seg page).live = false) (tag : Nat) :
    (m.enliven page tag).marks = m.marks.filter (fun l => l / 64 != page) := by
  unfold MemSys.enliven
  dsimp only
  rw [h, if_neg Bool.false_ne_true]
  rfl

/-- Bytes of a segment that lives stand where it is written again, and those of every other. -/
theorem spadByte_enliven {m : MemSys} {page k : Nat} (h : (m.seg page).live = true ∨ k / 4096 ≠ page) (tag : Nat) :
    (m.enliven page tag).spadByte k = m.spadByte k := by
  have hseg : ((m.enliven page tag).seg (k / 4096)).written = (m.seg (k / 4096)).written ∧
      ((m.enliven page tag).seg (k / 4096)).epoch = (m.seg (k / 4096)).epoch := by
    unfold MemSys.enliven
    dsimp only
    split
    next hl =>
      rw [MemSys.seg_setSeg]
      simp only [MemSys.seg_page]
      split
      next hp => rw [hp]; exact ⟨rfl, rfl⟩
      next => exact ⟨rfl, rfl⟩
    next hl =>
      rw [MemSys.seg_setSeg, if_neg (h.resolve_left hl)]
      exact ⟨rfl, rfl⟩
  simp only [MemSys.spadByte, enliven_bytes, hseg]

theorem look_enliven {m : MemSys} {page k : Nat} (h : (m.seg page).live = true ∨ k / 4096 ≠ page) (tag : Nat) :
    (m.enliven page tag).look k = m.look k := by
  refine look_of_byte (fun _ => by rw [enliven_bytes]) (fun _ => ?_) fun _ _ => spadByte_enliven h tag
  have hlife := congrArg Segment.live (seg_enliven m page tag (k / 4096))
  refine hlife.trans ?_
  split
  next hp => rw [hp]; exact (h.resolve_right (not_not_intro hp)).symm
  next => rfl

end Sys2Proof.Machine
end

section
/-! PROOFS. Plain loads and stores of one part (R175 to R177, R222 to R225) -/

namespace Sys2Proof.Machine

/-! A request at one line. -/

/-- Memory whose bytes, marks, versions and segments stand as they were. -/
structure MemSys.Kept (m m' : MemSys) : Prop where
  bytes : m'.bytes = m.bytes
  marks : m'.marks = m.marks
  vers : m'.vers = m.vers
  segs : m'.segs = m.segs

theorem MemSys.Kept.look {m m' : MemSys} (h : m.Kept m') (k : Nat) : m'.look k = m.look k := MemSys.look_congr k (by rw [h.bytes]) h.segs

/-- The addresses of a range that lies in one line of the scratchpad. -/
theorem spad_range {pa n k : Nat} (ht : target pa = some .spad) (hl : pa % 64 + n ≤ 64) (hk : k < n) :
    target (pa + k) = some .spad ∧ (pa + k) / 4096 = pa / 4096 := by
  rw [target_spad] at *
  omega

theorem dram_range {pa n k : Nat} (ht : target pa = some .dram) (hl : pa % 64 + n ≤ 64) (hk : k < n) : target (pa + k) = some .dram := by
  rw [target_dram] at *
  omega

/-- A read of a live segment in a FULL bank. -/
theorem readAs_spad_live {m : MemSys} {pa n : Nat} (ht : target pa = some .spad) (hl : pa % 64 + n ≤ 64) (hfull : (m.bank (spadBank pa)).st = .full)
    (hlive : (m.seg (pa / 4096)).live = true) (wakes : Bool) (now tag : Nat) : ∃ m',
      m.readAs wakes now tag pa n = (m', .bytes ((List.range n).map (fun k => (m.look (pa + k)).getD 0)) (m.marks.contains (pa / 64))) ∧ m.Kept m' := by
  refine ⟨(m.setBank (spadBank pa) { m.bank (spadBank pa) with busyAt := now }).charge tag 3 (800 * n), ?_, rfl, rfl, rfl, rfl⟩
  have hbytes : (List.range n).map (fun k => (m.look (pa + k)).getD 0) = (List.range n).map (fun i => m.spadByte (pa + i)) := by
    refine List.map_congr_left fun k hk => ?_
    obtain ⟨htk, hpk⟩ := spad_range ht hl (List.mem_range.mp hk)
    rw [look_spad m htk, hpk, if_pos hlive, Option.getD_some]
  simp only [MemSys.readAs, ht, MemSys.readGate, hlive, Bool.not_true, Bool.false_eq_true, if_false, hfull, hbytes]
  rfl

/-- A read of a dead segment. -/
theorem readAs_spad_dead {m : MemSys} {pa : Nat} (ht : target pa = some .spad) (hdead : (m.seg (pa / 4096)).live = false) (wakes : Bool)
    (now tag n : Nat) : ∃ m', m.readAs wakes now tag pa n = (m', .dead) ∧ m.Kept m' := by
  refine ⟨_, by simp only [MemSys.readAs, ht, MemSys.readGate, hdead, Bool.not_false, if_true]; rfl, ?_⟩
  split
  · unfold MemSys.readTouch
    dsimp only
    split <;> exact ⟨rfl, rfl, rfl, rfl⟩
  · exact ⟨rfl, rfl, rfl, rfl⟩

theorem readAs_dram_kept {m : MemSys} {pa n : Nat} (ht : target pa = some .dram) (hl : pa % 64 + n ≤ 64) (hb : m.bad.contains (pa / 64) = false)
    (wakes : Bool) (now tag : Nat) : ∃ m',
      m.readAs wakes now tag pa n = (m', .bytes ((List.range n).map (fun k => (m.look (pa + k)).getD 0)) (m.marks.contains (pa / 64))) ∧
        m.Unmoved m' := by
  obtain ⟨m', hread, hm⟩ := MemSys.readAs_dram ht hb wakes now tag n
  refine ⟨m', ?_, hm⟩
  have hbytes : (List.range n).map (fun k => (m.look (pa + k)).getD 0) = m.plain pa n := by
    refine List.map_congr_left fun k hk => ?_
    rw [look_dram m (dram_range ht hl (List.mem_range.mp hk)), Option.getD_some]
  rw [hread, hbytes]

/-! The write of an element under its mask. -/

/-- The bytes that a write under masks leaves, of what it finds. -/
def merged (old : Nat → Byte) (masks data : List Byte) : List Byte :=
  (List.range data.length).map (fun k => mixByte (old k) (masks.getD k 0) (data.getD k 0))

theorem merged_length (old : Nat → Byte) (masks data : List Byte) : (merged old masks data).length = data.length := by
  rw [merged, List.length_map, List.length_range]

theorem merged_getD (old : Nat → Byte) (masks data : List Byte) {k : Nat} (h : k < data.length) :
    (merged old masks data).getD k 0 = mixByte (old k) (masks.getD k 0) (data.getD k 0) := by
  rw [merged, List.getD_eq_getElem?_getD, List.getElem?_map, List.getElem?_range h]
  rfl

/-- Under a full mask the new bytes stand, whatever stood before. -/
theorem merged_of_whole {masks data : List Byte} (old : Nat → Byte) (hlen : masks.length = data.length) (h : masks.all (· == 0xFF) = true) :
    merged old masks data = data := by
  refine List.ext_getElem (merged_length ..) fun k h1 h2 => ?_
  have hmask : masks.getD k 0 = 0xFF := by
    rw [List.getD_eq_getElem _ _ (by omega)]
    exact beq_iff_eq.mp (List.all_eq_true.mp h _ (List.getElem_mem _))
  have := merged_getD old masks data h2
  rwa [hmask, mixByte_full, List.getD_eq_getElem _ _ h1, List.getD_eq_getElem _ _ h2] at this

/-- The write of one part of a store: whole where its mask is full (R222). -/
def MemSys.putBits (m : MemSys) (now tag pa : Nat) (masks data : List Byte) : MemSys × Bool :=
  if masks.all (· == 0xFF) then m.write now tag pa data false else m.writeBits now tag pa masks data false

theorem marksAfter_part (marks : List Nat) (pa : Nat) {n : Nat} (h : n < 64) : marksAfter marks pa n false = marks := by
  rw [marksAfter, if_neg Bool.false_ne_true, if_neg (by omega)]

theorem putBits_dram {m : MemSys} {pa : Nat} {masks data : List Byte} (ht : target pa = some .dram) (hb : m.bad.contains (pa / 64) = false)
    (hlen : masks.length = data.length) (hn : data.length < 64) (now tag : Nat) : ∃ m', m.putBits now tag pa masks data = (m', true) ∧
      m'.bytes = Memory.setAll m.bytes pa (merged (fun k => Memory.get m.bytes (pa + k)) masks data) ∧ m'.marks = m.marks ∧ m'.segs = m.segs := by
  unfold MemSys.putBits
  split
  next hw =>
    have h := MemSys.unmoved_atHome hb tag data.length true (data.length == 64)
    refine ⟨(m.write now tag pa data false).1, by simp only [MemSys.write, ht], ?_⟩
    rw [merged_of_whole _ hlen hw]
    simp only [MemSys.write, ht, marksAfter_part _ pa hn, h.bytes, h.marks, h.segs, and_self]
  next =>
    have h := MemSys.unmoved_atHome hb tag data.length true false
    refine ⟨(m.writeBits now tag pa masks data false).1, by simp only [MemSys.writeBits, ht], ?_⟩
    simp only [MemSys.writeBits, ht, marksAfter_part _ pa (show 0 < 64 by omega), h.bytes, h.marks, h.segs, and_self, and_true]
    rfl

/-- A write at a FULL bank: the segment lives, and the bytes are laid in it. -/
theorem putBits_spad {m : MemSys} {pa : Nat} {masks data : List Byte} (ht : target pa = some .spad) (hfull : (m.bank (spadBank pa)).st = .full)
    (hlen : masks.length = data.length) (hn : data.length < 64) (now tag : Nat) : ∃ m0 m', m.Kept m0 ∧ m.putBits now tag pa masks data = (m', true) ∧
      ((m0.enliven (pa / 4096) tag).spadWrite pa (merged (fun k => (m0.enliven (pa / 4096) tag).spadByte (pa + k)) masks data)).Kept m' := by
  refine ⟨m.setBank (spadBank pa) { m.bank (spadBank pa) with busyAt := now }, ?_⟩
  unfold MemSys.putBits
  split
  next hw =>
    refine ⟨(m.write now tag pa data false).1, ⟨rfl, rfl, rfl, rfl⟩, by simp only [MemSys.write, ht, MemSys.writeGate, hfull], ?_⟩
    rw [merged_of_whole _ hlen hw]
    simp only [MemSys.write, ht, MemSys.writeGate, hfull, marksAfter_part _ pa hn]
    exact ⟨rfl, rfl, rfl, rfl⟩
  next =>
    refine ⟨(m.writeBits now tag pa masks data false).1, ⟨rfl, rfl, rfl, rfl⟩, by simp only [MemSys.writeBits, ht, MemSys.writeGate, hfull], ?_⟩
    simp only [MemSys.writeBits, ht, MemSys.writeGate, hfull, marksAfter_part _ pa (show 0 < 64 by omega)]
    exact ⟨rfl, rfl, rfl, rfl⟩

/-! Loads and stores of one part. -/

/-- Loads are plain reads that no engine makes. -/
theorem loadFmt_kind {i : Instr} {f : Fmt} (h : loadFmt i = some f) : isWin i = false ∧ isEngine i = false ∧ (needOf i).w = false := by
  unfold loadFmt at h
  split at h
  · exact ⟨rfl, rfl, rfl⟩
  · exact ⟨rfl, rfl, rfl⟩
  · exact ⟨rfl, rfl, rfl⟩
  · cases h

theorem performAccess_load {s : State} {a : Access} {f : Fmt} (h : loadFmt a.instr = some f) :
    ∃ hint, s.performAccess a = s.performLoad a f hint := by
  unfold loadFmt at h
  split at h
  next hi => cases h; exact ⟨_, by rw [State.performAccess, hi]⟩
  next hi => cases h; exact ⟨_, by rw [State.performAccess, hi]⟩
  next hi => cases h; exact ⟨_, by rw [State.performAccess, hi]⟩
  · cases h

theorem performAccess_store {s : State} {a : Access} {f : Fmt} (h : storeFmt a.instr = some f) :
    isWin a.instr = false ∧ s.performAccess a = s.performStore a f (tokVal a.ops.r) := by
  unfold storeFmt at h
  split at h
  next hi => cases h; exact ⟨by rw [hi]; rfl, by rw [State.performAccess, hi]⟩
  next hi => cases h; exact ⟨by rw [hi]; rfl, by rw [State.performAccess, hi]⟩
  next hi =>
    split at h
    · cases h
    · cases h; exact ⟨by rw [hi]; rfl, by rw [State.performAccess, hi]⟩
  · cases h

/-- A state that a turn has reached with memory and cells alone changed, the cells but for their shells. -/
structure TurnedTo (s s1 : State) : Prop where
  shell : SameShell s s1
  flt : SameFlt s s1
  rest : ∃ mem cells fresh, s1 = { s with mem := mem, cells := cells, fresh := fresh }

theorem turnedTo_mem (s : State) (m : MemSys) : TurnedTo s { s with mem := m } := ⟨⟨rfl, rfl, rfl, rfl⟩, rfl, _, _, _, rfl⟩

theorem moveRun_of_none {s : State} {t : Site} (hrun : (s.slot t).run = none) (page vpage : Nat) (h : Hint) :
    s.moveRun t page vpage h = s.updSlot t (fun sl => { sl with run := some ⟨page, vpage, h⟩ }) := by rw [State.moveRun, hrun]

theorem turnedTo_moveRun {s : State} {t : Site} (hrun : (s.slot t).run = none) (m : MemSys) (page vpage : Nat) (h : Hint) :
    TurnedTo s (({ s with mem := m } : State).moveRun t page vpage h) ∧ (({ s with mem := m } : State).moveRun t page vpage h).mem = m := by
  have hrun' : (({ s with mem := m } : State).slot t).run = none := hrun
  rw [moveRun_of_none hrun']
  exact ⟨⟨(turnedTo_mem s m).shell.trans (sameShell_updSlot _ t _), (turnedTo_mem s m).flt.trans (sameFlt_updBlock _ t _), _, _, _, rfl⟩, rfl⟩

/-- A load of one part that finds its bytes. -/
theorem performLoad_bytes {s : State} {a : Access} {va n pa page : Nat} {ver poison : Bool} {m : MemSys} {bs : List Byte}
    (hparts : a.parts = [⟨va, n, some pa, ver, page, none, false⟩]) (hdead : a.dead = none) (heng : isEngine a.instr = false)
    (hrun : target pa = some .spad → (s.slot a.site).run = none)
    (hread : s.mem.readAs true s.cycle (s.tagOf a.site.cell) pa n = (m, .bytes bs poison)) (f : Fmt) (h : Hint) :
    ∃ s1, s.performLoad a f h = .done s1 [⟨elementBits f a.bit bs, a.ops.mark.or (if poison then some (originSpec a.site a.fire) else none)⟩] ∧
      TurnedTo s s1 ∧ s1.mem = m := by
  have hnext : a.nextPart = some 0 := by rw [Access.nextPart, hparts]; rfl
  have hturn : TurnedTo s (if target pa = some .spad then ({ s with mem := m } : State).moveRun a.site (pa / 4096) (va / 4096) h else { s with mem := m }) ∧
      (if target pa = some .spad then ({ s with mem := m } : State).moveRun a.site (pa / 4096) (va / 4096) h else { s with mem := m }).mem = m := by
    split
    next ht => exact turnedTo_moveRun (hrun ht) ..
    next => exact ⟨turnedTo_mem s m, rfl⟩
  refine ⟨_, ?_, hturn⟩
  simp only [State.performLoad, hnext, State.readPart, hparts, List.getElem?_cons_zero, heng, Bool.not_false, hread]
  simp [Access.setPart, Access.nextPart, Access.bytes, Access.mark, Access.poisoned, hparts, hdead, originOf_spec]

/-- A fault of an access is taken as R330 says. -/
theorem accessFault_taken {s : State} {t : Site} {c : Cell} (hc : s.cell? t.cell = some c) (fire : Word) (port code va stamp : Nat) (write second : Bool) :
    SameFace s (s.accessFault t fire port code va write second false (some stamp)) ∧
      SameButFaults s (s.accessFault t fire port code va write second false (some stamp)) ∧
      FaultTaken s (s.accessFault t fire port code va write second false (some stamp)) stamp t.cell code 0 false (originSpec t fire)
        (BitVec.ofNat 64 va) (accessAux port write second) fire := by
  rw [← originOf_spec]
  simp only [State.accessFault, hc]
  obtain ⟨-, hframe, -⟩ := raise_record s _
  exact ⟨sameFace_raise s _, hframe, faultTaken_raise s _ _ rfl rfl⟩

theorem addrFault_taken {s : State} {t : Site} {c : Cell} (hc : s.cell? t.cell = some c) (fire : Word) (code va stamp : Nat) :
    SameFace s (s.addrFault t fire code va (some stamp)) ∧ SameButFaults s (s.addrFault t fire code va (some stamp)) ∧
      FaultTaken s (s.addrFault t fire code va (some stamp)) stamp t.cell code 0 false (originSpec t fire) (BitVec.ofNat 64 va) 0 fire := by
  rw [← originOf_spec]
  simp only [State.addrFault, hc]
  obtain ⟨-, hframe, -⟩ := raise_record s _
  exact ⟨sameFace_raise s _, hframe, faultTaken_raise s _ _ rfl rfl⟩

theorem SameButFaults.mem {s t : State} (h : SameButFaults s t) : t.mem = s.mem := by
  obtain ⟨_, _, _, _, rfl⟩ := h; rfl

/-- A load of one part that finds its segment dead. -/
theorem performLoad_dead {s : State} {a : Access} {va n pa page : Nat} {ver : Bool} {m : MemSys} {c : Cell}
    (hc : s.cell? a.site.cell = some c) (hparts : a.parts = [⟨va, n, some pa, ver, page, none, false⟩]) (hdead : a.dead = none)
    (heng : isEngine a.instr = false) (ht : target pa = some .spad) (hrun : (s.slot a.site).run = none)
    (hread : s.mem.readAs true s.cycle (s.tagOf a.site.cell) pa n = (m, .dead)) (f : Fmt) (h : Hint) :
    ∃ s1 tok, s.performLoad a f h = .done s1 [tok] ∧ tok.mark = a.ops.mark.or (some (originSpec a.site a.fire)) ∧ SameShell s s1 ∧ s1.mem = m ∧
      FaultTaken s s1 a.stamp a.site.cell 2 0 false (originSpec a.site a.fire) (BitVec.ofNat 64 a.va)
        (accessAux a.portNo (needOf a.instr).w false) a.fire := by
  have hnext : a.nextPart = some 0 := by rw [Access.nextPart, hparts]; rfl
  obtain ⟨⟨hshell, hflt, -⟩, hmem⟩ := turnedTo_moveRun hrun m (pa / 4096) (va / 4096) h
  generalize hu : ({ s with mem := m } : State).moveRun a.site (pa / 4096) (va / 4096) h = u at hshell hflt hmem
  obtain ⟨cu, hcu⟩ := Option.isSome_iff_exists.mp ((hshell.isSome_cell? a.site.cell).trans (by rw [hc]; rfl))
  obtain ⟨hface, hframe, htaken⟩ := accessFault_taken (s := { u with fresh := u.fresh + 1 }) hcu a.fire a.portNo codeDeadSpad a.va a.stamp
    (needOf a.instr).w false
  have hload : ∃ tok, s.performLoad a f h = .done (({ u with fresh := u.fresh + 1 } : State).accessFault a.site a.fire a.portNo codeDeadSpad a.va
      (needOf a.instr).w false false (some a.stamp)) [tok] ∧ tok.mark = a.ops.mark.or (some (originSpec a.site a.fire)) := by
    simp only [State.performLoad, hnext, State.readPart, hparts, List.getElem?_cons_zero, heng, Bool.not_false, hread, ht, if_true, hu]
    simp [Access.setPart, Access.nextPart, Access.mark, Access.poisoned, hparts, hdead, originOf_spec, State.deadSpad]
    rfl
  obtain ⟨tok, hload, hmark⟩ := hload
  have hfresh : SameShell u { u with fresh := u.fresh + 1 } := ⟨rfl, rfl, rfl, rfl⟩
  refine ⟨_, tok, hload, hmark, (hshell.trans hfresh).trans (hface.sameShell hframe), hframe.mem.trans hmem, htaken.congr hflt hshell.cycle.symm rfl⟩

/-- A store of one part that memory takes at once. -/
theorem performStore_put {s : State} {a : Access} {va n pa page : Nat} {ver : Bool} {m : MemSys} {f : Fmt} {v : Word}
    (hparts : a.parts = [⟨va, n, some pa, ver, page, none, false⟩]) (hmark : storeMark a.ops = none)
    (hput : s.mem.putBits s.cycle (s.tagOf a.site.cell) pa (placedBytes f a.bit n v).2 (placedBytes f a.bit n v).1 = (m, true)) :
    s.performStore a f v = .done { s with mem := m } [⟨0, none⟩] := by
  have hnext : a.nextPart = some 0 := by rw [Access.nextPart, hparts]; rfl
  have hslice {l : List Byte} (hl : l.length = n) : partSlice a 0 l = l := by
    simp [partSlice, hparts, ← hl]
  have hdata : (placedBytes f a.bit n v).1.length = n := length_leBytes ..
  have hmasks : (placedBytes f a.bit n v).2.length = n := length_leBytes ..
  have hput' := hput
  unfold MemSys.putBits at hput'
  simp only [State.performStore, hnext, hparts, List.foldl_cons, List.foldl_nil, Nat.zero_add, List.getElem?_cons_zero, Option.bind_some, hmark,
    Option.isSome_none, hslice hdata, hslice hmasks, hput']
  simp [Access.setPart, Access.nextPart, hparts]

end Sys2Proof.Machine
end

section
/-! PROOFS. O33: the reply and the bytes of an access performed in DRAM and in the scratchpad (R175 to R177, R222 to R227) -/

namespace Sys2Proof.Machine

/-! Plain loads and stores in DRAM. -/

/-- Nothing outside cells, memory, tokens in flight and free choices has changed. -/
theorem sameDevice_frame (s : State) (mem : MemSys) (cells : List Cell) (flight : List Flight) (fresh : Nat) :
    SameDevice s { s with mem := mem, cells := cells, flight := flight, fresh := fresh } := by
  refine ⟨⟨fun _ => rfl, rfl⟩, ?_⟩
  simp

section
variable {s : State} {cell port : Nat} {a : Access} (h : s.OnlyTurn cell port a)
include h

theorem dram_load_runs {va n pa page : Nat} {ver : Bool} (hparts : a.parts = [⟨va, n, some pa, ver, page, none, false⟩]) (hdead : a.dead = none)
    (ht : target pa = some .dram) (hb : s.mem.bad.contains (pa / 64) = false) (hl : pa % 64 + n ≤ 64) {f : Fmt} (hf : loadFmt a.instr = some f) :
    ∃ u t, exec (.memoryReply cell port 0) s = .next u ∧ exec (.memoryReply cell port 64) u = .next t ∧ u.flight = s.flight ∧
      (t.port cell port).accs = [] ∧ SameMemory s t ∧ SameChannels s t ∧ SameDevice s t ∧
      t.flight = s.flight ++ s.flights a.site [(a.target, ⟨elementBits f a.bit ((List.range n).map (fun k => (s.mem.look (pa + k)).getD 0)),
        a.ops.mark.or (if s.mem.marks.contains (pa / 64) then some (originSpec a.site a.fire) else none)⟩)] := by
  obtain ⟨hwin, heng, -⟩ := loadFmt_kind hf
  obtain ⟨hint, hperform⟩ := performAccess_load (s := s) (a := a.tried s.cycle) hf
  obtain ⟨m, hread, hm⟩ := readAs_dram_kept ht hl hb true s.cycle (s.tagOf a.site.cell)
  obtain ⟨s1, hload, ⟨hshell, -, mem, cells, fresh, rfl⟩, rfl⟩ := performLoad_bytes (a := a.tried s.cycle) hparts hdead heng
    (fun h => by rw [ht] at h; cases h) hread f hint
  obtain ⟨u, t, hu, hanswer, hflight, haccs, hch, hsent, -, cells', fl, rfl⟩ := h.replies hshell hwin (hperform.trans hload)
  exact ⟨u, _, hu, hanswer, hflight, haccs, hm.sameMemory, hch, sameDevice_frame s _ _ _ _, hsent⟩

theorem dram_store_runs {va n pa page : Nat} {ver : Bool} (hparts : a.parts = [⟨va, n, some pa, ver, page, none, false⟩])
    (ht : target pa = some .dram) (hb : s.mem.bad.contains (pa / 64) = false) (hl : pa % 64 + n ≤ 64) {f : Fmt} (hf : storeFmt a.instr = some f)
    (hwf : s.MemoryWf) (hn : n < 64) (hmark : storeMark a.ops = none) :
    ∃ u t, exec (.memoryReply cell port 0) s = .next u ∧ exec (.memoryReply cell port 64) u = .next t ∧ u.flight = s.flight ∧
      (t.port cell port).accs = [] ∧ SameChannels s t ∧ SameDevice s t ∧
      t.flight = s.flight ++ s.flights a.site [(a.target, ⟨0, none⟩)] ∧ t.mem.marks = s.mem.marks ∧
      (∀ k < n, t.mem.look (pa + k) = some (mixByte ((s.mem.look (pa + k)).getD 0)
        ((placedBytes f a.bit n (tokVal a.ops.r)).2.getD k 0) ((placedBytes f a.bit n (tokVal a.ops.r)).1.getD k 0))) ∧
      ∀ k, ¬(pa ≤ k ∧ k < pa + n) → t.mem.look k = s.mem.look k := by
  obtain ⟨hwin, hperform⟩ := performAccess_store (s := s) (a := a.tried s.cycle) hf
  have hdata : (placedBytes f a.bit n (tokVal a.ops.r)).1.length = n := length_leBytes ..
  have hmasks : (placedBytes f a.bit n (tokVal a.ops.r)).2.length = n := length_leBytes ..
  obtain ⟨m, hput, hbytes, hmarks, hsegs⟩ := putBits_dram ht hb (hmasks.trans hdata.symm) (by omega) s.cycle (s.tagOf a.site.cell)
  have hstore := performStore_put (a := a.tried s.cycle) hparts hmark hput
  obtain ⟨u, t, hu, hanswer, hflight, haccs, hch, hsent, -, cells, fl, rfl⟩ :=
    h.replies (turnedTo_mem s m).shell hwin (hperform.trans hstore)
  refine ⟨u, _, hu, hanswer, hflight, haccs, hch, sameDevice_frame s _ _ _ _, hsent, hmarks, fun k hk => ?_, fun k hk => ?_⟩
  · have htk := dram_range ht hl hk
    have hget : (merged (fun k => Memory.get s.mem.bytes (pa + k)) (placedBytes f a.bit n (tokVal a.ops.r)).2
        (placedBytes f a.bit n (tokVal a.ops.r)).1)[k]? = some (mixByte (Memory.get s.mem.bytes (pa + k))
          ((placedBytes f a.bit n (tokVal a.ops.r)).2.getD k 0) ((placedBytes f a.bit n (tokVal a.ops.r)).1.getD k 0)) := by
      rw [merged, List.getElem?_map, List.getElem?_range (by omega)]
      rfl
    rw [look_dram _ htk, look_dram _ htk, Option.getD_some]
    dsimp only
    rw [hbytes, Memory.get_setAll_same _ _ pa k _ hwf hget]
  · refine MemSys.look_congr k ?_ hsegs
    dsimp only
    rw [hbytes, Memory.get_setAll_other _ _ pa k (by rw [merged_length]; omega)]

end

/-! Plain loads and stores in the scratchpad. -/

theorem SpadTurn.onlyTurn {s : State} {cell port : Nat} {a : Access} {n pa : Nat} {ver : Bool} (h : SpadTurn s cell port a n pa ver) :
    s.OnlyTurn cell port a := by
  obtain ⟨hth, hc, haccs, hsite, hstage, hleave, -⟩ := h
  exact ⟨hth, hc, haccs, hsite, hstage, hleave⟩

/-- What an access to the scratchpad finds in its turn. -/
theorem SpadTurn.place {s : State} {cell port : Nat} {a : Access} {n pa : Nat} {ver : Bool} (h : SpadTurn s cell port a n pa ver) :
    (∃ va page, a.parts = [⟨va, n, some pa, ver, page, none, false⟩]) ∧ a.dead = none ∧ target pa = some .spad ∧
      (s.mem.bank (spadBank pa)).st = .full ∧ pa % 64 + n ≤ 64 ∧ (s.slot a.site).run = none := by
  obtain ⟨-, -, -, -, -, -, hplace⟩ := h
  exact hplace

theorem State.OnlyTurn.repliesWith {s s1 : State} {cell port : Nat} {a : Access} {tok : Tok} {P : State → Tok → Prop} (h : s.OnlyTurn cell port a)
    (hs : SameShell s s1) (hw : isWin a.instr = false) (hp : s.performAccess (a.tried s.cycle) = .done s1 [tok])
    (hP : ∀ t, t.mem = s1.mem → SameFlt s1 t → P t tok) : Replies s cell port a P := by
  obtain ⟨u, t, hu, hanswer, hflight, haccs, hch, hsent, hflt, cells, fl, rfl⟩ := h.replies hs hw hp
  exact ⟨u, _, tok, hu, hanswer, hflight, haccs, hch, hsent, hP _ rfl hflt⟩

theorem MemSys.Kept.sameBytes {s t : State} {m : MemSys} (h : s.mem.Kept m) (ht : t.mem = m) : SameBytes s t := by
  subst ht
  exact ⟨h.look, h.marks⟩

theorem spad_load_live {s : State} {cell port : Nat} {a : Access} {n pa : Nat} {ver : Bool} {f : Fmt} (h : SpadTurn s cell port a n pa ver)
    (hf : loadFmt a.instr = some f) (hlive : (s.mem.seg (pa / 4096)).live = true) : Replies s cell port a (fun t tok => SameBytes s t ∧
      t.mem.segs = s.mem.segs ∧ tok = ⟨elementBits f a.bit ((List.range n).map (fun k => (s.mem.look (pa + k)).getD 0)),
        a.ops.mark.or (if s.mem.marks.contains (pa / 64) then some (originSpec a.site a.fire) else none)⟩) := by
  obtain ⟨⟨va, page, hparts⟩, hdead, ht, hfull, hl, hrun⟩ := h.place
  obtain ⟨hwin, heng, -⟩ := loadFmt_kind hf
  obtain ⟨hint, hperform⟩ := performAccess_load (s := s) (a := a.tried s.cycle) hf
  obtain ⟨m, hread, hm⟩ := readAs_spad_live ht hl hfull hlive true s.cycle (s.tagOf a.site.cell)
  obtain ⟨s1, hload, hturned, rfl⟩ := performLoad_bytes (a := a.tried s.cycle) hparts hdead heng (fun _ => hrun) hread f hint
  exact h.onlyTurn.repliesWith hturned.shell hwin (hperform.trans hload) fun t ht _ =>
    ⟨hm.sameBytes ht, (congrArg MemSys.segs ht).trans hm.segs, rfl⟩

theorem spad_load_dead {s : State} {cell port : Nat} {a : Access} {n pa : Nat} {ver : Bool} {f : Fmt} (h : SpadTurn s cell port a n pa ver)
    (hf : loadFmt a.instr = some f) (hdeadseg : (s.mem.seg (pa / 4096)).live = false) : Replies s cell port a (fun t tok => SameBytes s t ∧
      t.mem.segs = s.mem.segs ∧ tok.mark = a.ops.mark.or (some (originSpec a.site a.fire)) ∧
      FaultTaken s t a.stamp cell 2 0 false (originSpec a.site a.fire) (BitVec.ofNat 64 a.va) (BitVec.ofNat 64 (a.portNo % 64)) a.fire) := by
  obtain ⟨⟨va, page, hparts⟩, hdead, ht, hfull, hl, hrun⟩ := h.place
  obtain ⟨hwin, heng, hneed⟩ := loadFmt_kind hf
  obtain ⟨c, hc⟩ := Option.isSome_iff_exists.mp h.onlyTurn.held
  obtain ⟨hint, hperform⟩ := performAccess_load (s := s) (a := a.tried s.cycle) hf
  obtain ⟨m, hread, hm⟩ := readAs_spad_dead ht hdeadseg true s.cycle (s.tagOf a.site.cell) n
  obtain ⟨s1, tok, hload, hmark, hshell, rfl, htaken⟩ := performLoad_dead (a := a.tried s.cycle) (h.onlyTurn.site ▸ hc) hparts hdead heng ht hrun
    hread f hint
  refine h.onlyTurn.repliesWith hshell hwin (hperform.trans hload) fun t ht hflt =>
    ⟨hm.sameBytes ht, (congrArg MemSys.segs ht).trans hm.segs, hmark, ?_⟩
  have haux : accessAux a.portNo (needOf a.instr).w false = BitVec.ofNat 64 (a.portNo % 64) := by rw [hneed]; rfl
  rw [← haux, ← h.onlyTurn.site]
  exact htaken.congr rfl rfl hflt

/-- What the write of an element's bytes in a scratchpad line leaves of memory (R176, R177, R222). -/
structure MemSys.SpadWritten (m m' : MemSys) (pa n tag : Nat) (masks data : List Byte) : Prop where
  here : (m'.seg (pa / 4096)).live = true ∧ (m'.seg (pa / 4096)).far = false ∧ (m'.seg (pa / 4096)).tag = tag
  others : ∀ p, p ≠ pa / 4096 → (m'.seg p).life = (m.seg p).life
  elsewhere : ∀ k, k / 4096 ≠ pa / 4096 → m'.look k = m.look k
  beside : (m.seg (pa / 4096)).live = true → ∀ k, ¬(pa ≤ k ∧ k < pa + n) → m'.look k = m.look k
  written : (m.seg (pa / 4096)).live = true → ∀ k < n,
    m'.look (pa + k) = some (mixByte ((m.look (pa + k)).getD 0) (masks.getD k 0) (data.getD k 0))
  whole : ∀ k < n, masks.getD k 0 = 0xFF → m'.look (pa + k) = some (data.getD k 0)
  marks : (m.seg (pa / 4096)).live = true → m'.marks = m.marks
  unmarked : (m.seg (pa / 4096)).live = false → ∀ x ∈ m'.marks, x / 64 ≠ pa / 4096
  vers : m'.vers = m.vers
  wf : m'.Wf

theorem putBits_spadWritten {m : MemSys} {pa n : Nat} {masks data : List Byte} (hwf : m.Wf) (ht : target pa = some .spad)
    (hfull : (m.bank (spadBank pa)).st = .full) (hl : pa % 64 + n ≤ 64) (hn : n < 64) (hmasks : masks.length = n) (hdata : data.length = n)
    (now tag : Nat) : ∃ m', m.putBits now tag pa masks data = (m', true) ∧ m.SpadWritten m' pa n tag masks data := by
  obtain ⟨m0, m', h0, hput, h'⟩ := putBits_spad ht hfull (hmasks.trans hdata.symm) (by omega) now tag
  refine ⟨m', hput, ?_⟩
  have hseg (p : Nat) : m0.seg p = m.seg p := by rw [MemSys.seg, h0.segs, MemSys.seg]
  have hwf0 : m0.Wf := by rw [MemSys.Wf, h0.bytes]; exact hwf
  generalize hbs : merged (fun k => (m0.enliven (pa / 4096) tag).spadByte (pa + k)) masks data = bs at h'
  have hlen : bs.length = n := by rw [← hbs, merged_length, hdata]
  have hwfe : (m0.enliven (pa / 4096) tag).Wf := MemSys.wf_enliven _ _ _ hwf0
  have hlives : ((m0.enliven (pa / 4096) tag).seg (pa / 4096)).live = true := by
    have := congrArg Segment.live (seg_enliven m0 (pa / 4096) tag (pa / 4096))
    rw [if_pos rfl] at this
    exact this
  have hlook (k : Nat) : m'.look k = ((m0.enliven (pa / 4096) tag).spadWrite pa bs).look k := h'.look k
  have hin {k : Nat} (hk : k < n) : m'.look (pa + k) = some (mixByte ((m0.enliven (pa / 4096) tag).spadByte (pa + k)) (masks.getD k 0)
      (data.getD k 0)) := by
    obtain ⟨htk, hpk⟩ := spad_range ht hl hk
    rw [hlook, look_spadWrite_same hwfe ⟨Nat.le_add_right .., by omega⟩ htk (by rw [hpk]; exact hlives), Nat.add_sub_cancel_left, ← hbs,
      merged_getD _ _ _ (by omega)]
  have hlife (p : Nat) : (m'.seg p).life = ((m0.enliven (pa / 4096) tag).seg p).life := by
    rw [MemSys.seg, h'.segs]
    exact MemSys.life_spadWrite bs _ pa p
  refine ⟨?_, fun p hp => ?_, fun k hk => ?_, fun hlive k hk => ?_, fun hlive k hk => ?_, fun k hk hmask => ?_, fun hlive => ?_, fun hdead x hx => ?_, ?_, ?_⟩
  · have hhere := hlife (pa / 4096)
    rw [seg_enliven, if_pos rfl] at hhere
    exact ⟨congrArg Segment.live hhere, congrArg Segment.far hhere, congrArg Segment.tag hhere⟩
  · rw [hlife, seg_enliven, if_neg hp, hseg]
  · rw [hlook, look_spadWrite_other hwfe bs (by omega), look_enliven (.inr hk), h0.look]
  · rw [hlook, look_spadWrite_other hwfe bs (by rwa [hlen]), look_enliven (.inl (by rwa [hseg])), h0.look]
  · obtain ⟨htk, hpk⟩ := spad_range ht hl hk
    rw [hin hk, spadByte_enliven (.inl (by rwa [hseg])), ← h0.look, look_spad _ htk, hpk, hseg, if_pos hlive, Option.getD_some]
  · rw [hin hk, hmask, mixByte_full]
  · obtain ⟨bytes, segs, hrest⟩ := MemSys.spadWrite_rest bs (m0.enliven (pa / 4096) tag) pa
    rw [h'.marks, hrest]
    exact (enliven_marks_live (by rwa [hseg]) tag).trans h0.marks
  · obtain ⟨bytes, segs, hrest⟩ := MemSys.spadWrite_rest bs (m0.enliven (pa / 4096) tag) pa
    rw [h'.marks, hrest] at hx
    dsimp only at hx
    rw [enliven_marks_dead (by rwa [hseg]) tag, List.mem_filter] at hx
    simpa using hx.2
  · obtain ⟨bytes, segs, hrest⟩ := MemSys.spadWrite_rest bs (m0.enliven (pa / 4096) tag) pa
    rw [h'.vers, hrest]
    exact (enliven_vers ..).trans h0.vers
  · rw [MemSys.Wf, h'.bytes]
    exact MemSys.wf_spadWrite _ _ _ hwfe

theorem spad_store_runs {s : State} {cell port : Nat} {a : Access} {n pa : Nat} {ver : Bool} {f : Fmt} (h : SpadTurn s cell port a n pa ver)
    (hf : storeFmt a.instr = some f) (hwf : s.MemoryWf) (hn : n < 64) (hmark : storeMark a.ops = none) : Replies s cell port a (fun t tok =>
      tok = ⟨0, none⟩ ∧ s.mem.SpadWritten t.mem pa n (s.tagOf cell) (placedBytes f a.bit n (tokVal a.ops.r)).2
        (placedBytes f a.bit n (tokVal a.ops.r)).1) := by
  obtain ⟨⟨va, page, hparts⟩, -, ht, hfull, hl, -⟩ := h.place
  obtain ⟨hwin, hperform⟩ := performAccess_store (s := s) (a := a.tried s.cycle) hf
  obtain ⟨m, hput, hm⟩ := putBits_spadWritten (masks := (placedBytes f a.bit n (tokVal a.ops.r)).2)
    (data := (placedBytes f a.bit n (tokVal a.ops.r)).1) hwf ht hfull hl hn (length_leBytes ..) (length_leBytes ..) s.cycle (s.tagOf a.site.cell)
  have hstore := performStore_put (a := a.tried s.cycle) hparts hmark hput
  rw [h.onlyTurn.site] at hm
  exact h.onlyTurn.repliesWith (turnedTo_mem s m).shell hwin (hperform.trans hstore) fun t ht _ => ⟨rfl, by rw [ht]; exact hm⟩

/-! Versioned lines (R226, R227). -/

theorem pairAddr_eq (pa : Nat) : pairAddr pa = if pa / 2097152 % 2 = 0 then pa + 2097152 else pa - 2097152 := by
  have hdiv : pairAddr pa / 2097152 = pa / 2097152 ^^^ 1 := Nat.xor_div_two_pow (n := 21)
  have hmod : pairAddr pa % 2097152 = pa % 2097152 := by
    rw [pairAddr, show 2097152 = 2 ^ 21 from rfl, Nat.xor_mod_two_pow]
    exact Nat.xor_zero _
  split
  next h =>
    rw [Nat.xor_one_of_even (Nat.even_iff.mpr h)] at hdiv
    omega
  next h =>
    rw [Nat.xor_one_of_odd (Nat.odd_iff.mpr (by omega))] at hdiv
    omega

/-- The pair of a scratchpad address: another segment of the same bank, at the same place in its line. -/
theorem pairAddr_spad {pa : Nat} (ht : target pa = some .spad) : target (pairAddr pa) = some .spad ∧ spadBank (pairAddr pa) = spadBank pa ∧
    pairAddr pa % 64 = pa % 64 ∧ pairAddr pa / 4096 ≠ pa / 4096 := by
  rw [target_spad] at *
  simp only [spadBank, spadDie]
  rw [pairAddr_eq]
  split <;> omega

/-! The versions of lines. -/

theorem version_line (m : MemSys) (x : Nat) : (m.version x).line = x := by
  unfold MemSys.version
  split
  next v hv => simpa using List.find?_some hv
  next => rfl

theorem find?_dropLine (l : List Version) (n x : Nat) : (l.filter (fun y => y.line != n)).find? (fun y => y.line == x) =
    if x = n then none else l.find? (fun y => y.line == x) := by
  rw [List.find?_filter]
  split
  next h => simp [h]
  next h =>
    congr 1
    funext y
    by_cases hy : y.line = x <;> simp [hy, h]

theorem version_setVersion (m : MemSys) (v : Version) (x : Nat) : (m.setVersion v).version x = if x = v.line then v else m.version x := by
  have hkeep := find?_dropLine m.vers v.line x
  simp only [MemSys.version, MemSys.setVersion, putVersion]
  generalize m.vers.filter (fun y => y.line != v.line) = keep at hkeep
  by_cases h0 : v.ver = 0 ∧ v.pv = false
  · obtain ⟨line, ver, pv⟩ := v
    obtain ⟨rfl, rfl⟩ := h0
    rw [if_pos ⟨rfl, rfl⟩, hkeep]
    by_cases hx : x = line
    · subst hx; simp
    · simp only [hx, if_false]
  · have hparts := List.takeWhile_append_dropWhile (p := fun y : Version => decide (y.line < v.line)) (l := keep)
    rw [if_neg h0, List.find?_append, List.find?_cons]
    rw [← hparts, List.find?_append] at hkeep
    by_cases hx : x = v.line
    · subst hx
      rw [if_pos rfl, Option.or_eq_none_iff] at hkeep
      simp [hkeep.1]
    · have hne : (v.line == x) = false := by simpa using Ne.symm hx
      rw [if_neg hx] at hkeep
      simp only [hne, hkeep, hx, if_false]

end Sys2Proof.Machine
end

section
/-! PROOFS. O33: versioned accesses in the scratchpad (R226, R227), and the statement -/

namespace Sys2Proof.Machine

/-- An access of one part has its version where its page does. -/
theorem versionOk_one {a : Access} {va n pa page : Nat} {ver : Bool} (hparts : a.parts = [⟨va, n, some pa, ver, page, none, false⟩]) :
    a.versionOk = ver := by
  simp [Access.versionOk, hparts]

/-- How far the version that an LDV asks for lies ahead of its line's. -/
theorem ahead_eq (m : MemSys) (a : Access) (pa : Nat) :
    m.ahead a pa = ((tokVal a.ops.r).toNat % 256 + 256 - (m.version (pa / 64)).ver.toNat) % 256 := by
  rw [MemSys.ahead, BitVec.toNat_sub, BitVec.toNat_ofNat]
  have := (m.version (pa / 64)).ver.isLt
  omega

/-- An access that a fault drops. -/
theorem State.OnlyTurn.dropsWith {s s1 : State} {cell port : Nat} {a : Access} {code : Nat} {aux : DWord} (h : s.OnlyTurn cell port a)
    (hp : s.performAccess (a.tried s.cycle) = .drop s1) (hface : SameFace s s1) (hframe : SameButFaults s s1)
    (htaken : FaultTaken s s1 a.stamp a.site.cell code 0 false (originSpec a.site a.fire) (BitVec.ofNat 64 a.va) aux a.fire) :
    Drops s cell port a code aux := by
  obtain ⟨u, t, hu, hanswer, hflight, haccs, hflt, hmem⟩ := h.drops (hface.sameShell hframe) hp
  rw [h.site] at htaken
  exact ⟨u, t, hu, hanswer, hflight, haccs, sameMemory_of_eq (hmem.trans hframe.mem), htaken.congr rfl rfl hflt⟩

/-- On a page that is not versioned, an access that may wait at its line's version raises PROT. -/
theorem unversioned_drops {s : State} {cell port : Nat} {a : Access} {n pa : Nat} (h : SpadTurn s cell port a n pa false)
    (hw : waitsVersion a.instr = true) : Drops s cell port a 5 (BitVec.ofNat 64 (a.portNo % 64 + (needOf a.instr).w.toNat * 64)) := by
  obtain ⟨⟨va, page, hparts⟩, -⟩ := h.place
  obtain ⟨c, hc⟩ := Option.isSome_iff_exists.mp h.onlyTurn.held
  have hok : (a.tried s.cycle).versionOk = false := versionOk_one (a := a.tried s.cycle) hparts
  have hperform : s.performAccess (a.tried s.cycle) = .drop (s.dropAccess (a.tried s.cycle) codeProt) := by
    have hdrop : (!(a.tried s.cycle).versionOk) = true := by rw [hok]; rfl
    unfold waitsVersion at hw
    split at hw
    next hi => rw [State.performAccess, show (a.tried s.cycle).instr = _ from hi]; exact if_pos hdrop
    next hi => rw [State.performAccess, show (a.tried s.cycle).instr = _ from hi]; exact if_pos hdrop
    next hi => rw [State.performAccess, show (a.tried s.cycle).instr = _ from hi]; exact if_pos hdrop
    · cases hw
  obtain ⟨hface, hframe, htaken⟩ := accessFault_taken (s := s) (h.onlyTurn.site ▸ hc) a.fire a.portNo codeProt a.va a.stamp (needOf a.instr).w false
  exact h.onlyTurn.dropsWith hperform hface hframe htaken

theorem reclaim_runs {s : State} {cell port : Nat} {a : Access} {n pa : Nat} {p : BitVec 6} {c0 : Consumer} (h : SpadTurn s cell port a n pa true)
    (hi : a.instr = .reclaim p c0) : Replies s cell port a (fun t tok =>
      tok = ⟨(s.mem.version (pa / 64)).ver.zeroExtend 32, a.ops.mark⟩ ∧ SameBytes s t ∧
        t.mem.version (pa / 64) = ⟨pa / 64, (s.mem.version (pa / 64)).ver, false⟩ ∧ ∀ x, x ≠ pa / 64 → t.mem.version x = s.mem.version x) := by
  obtain ⟨⟨va, page, hparts⟩, -⟩ := h.place
  have hok : (a.tried s.cycle).versionOk = true := versionOk_one (a := a.tried s.cycle) hparts
  have hpa : (a.tried s.cycle).parts.head?.bind (fun p => p.pa) = some pa := by rw [show (a.tried s.cycle).parts = _ from hparts]; rfl
  have hperform : s.performAccess (a.tried s.cycle) = .done
      { s with mem := s.mem.setVersion { s.mem.version (pa / 64) with pv := false } }
      [⟨(s.mem.version (pa / 64)).ver.zeroExtend 32, a.ops.mark⟩] := by
    rw [State.performAccess, show (a.tried s.cycle).instr = _ from hi]
    simp only [State.performReclaim, hok, Bool.not_true, Bool.false_eq_true, if_false, hpa]
    rfl
  refine h.onlyTurn.repliesWith (turnedTo_mem s _).shell (by rw [hi]; rfl) hperform fun t ht _ => ?_
  have hversion (x : Nat) : t.mem.version x = if x = pa / 64 then { s.mem.version (pa / 64) with pv := false } else s.mem.version x := by
    rw [ht, version_setVersion]
    simp only [version_line]
  have hbytes : t.mem.bytes = s.mem.bytes ∧ t.mem.marks = s.mem.marks ∧ t.mem.segs = s.mem.segs := by rw [ht]; exact ⟨rfl, rfl, rfl⟩
  obtain ⟨hb, hm, hs⟩ := hbytes
  refine ⟨rfl, ⟨fun k => MemSys.look_congr k (by rw [hb]) hs, hm⟩, ?_, fun x hx => by rw [hversion, if_neg hx]⟩
  · rw [hversion, if_pos rfl]
    exact congrArg (fun l => (⟨l, _, false⟩ : Version)) (version_line ..)

/-! LDV (R227). -/

section
variable {s : State} {cell port : Nat} {a : Access} {n pa : Nat} {p : BitVec 6} {h : Hint} {f : Fmt} {c0 : Consumer}
  (hturn : SpadTurn s cell port a n pa true) (hi : a.instr = .ldv p h f c0)
include hturn hi

/-- LDV of a copy that stands in a live segment of the bank replies its element. -/
theorem ldv_reads {copy va page : Nat} {ps : List Part} (hps : ps = [⟨va, n, some copy, true, page, none, false⟩])
    (ht : target copy = some .spad) (hbank : spadBank copy = spadBank pa) (hline : copy % 64 = pa % 64) (hlive : (s.mem.seg (copy / 4096)).live = true)
    (hp : ∀ s1 toks, s.performLoad { a.tried s.cycle with parts := ps } f h = .done s1 toks → s.performAccess (a.tried s.cycle) = .done s1 toks) :
    Replies s cell port a (fun t tok => SameBytes s t ∧ t.mem.vers = s.mem.vers ∧
      tok = ⟨elementBits f a.bit ((List.range n).map (fun k => (s.mem.look (copy + k)).getD 0)),
        a.ops.mark.or (if s.mem.marks.contains (copy / 64) then some (originSpec a.site a.fire) else none)⟩) := by
  obtain ⟨-, hdead, -, hfull, hl, hrun⟩ := hturn.place
  obtain ⟨m, hread, hm⟩ := readAs_spad_live ht (by rwa [hline]) (by rwa [hbank]) hlive true s.cycle (s.tagOf a.site.cell)
  obtain ⟨s1, hload, hturned, rfl⟩ := performLoad_bytes (a := { a.tried s.cycle with parts := ps }) hps hdead
    (by rw [show ({ a.tried s.cycle with parts := ps } : Access).instr = _ from hi]; rfl) (fun _ => hrun) hread f h
  exact hturn.onlyTurn.repliesWith hturned.shell (by rw [hi]; rfl) (hp _ _ hload) fun t ht _ =>
    ⟨hm.sameBytes ht, (congrArg MemSys.vers ht).trans hm.vers, rfl⟩

variable (hlive : (s.mem.seg (pa / 4096)).live = true)
include hlive

theorem performAccess_ldv_current (hd : s.mem.ahead a pa = 0) : s.performAccess (a.tried s.cycle) = s.performLoad (a.tried s.cycle) f h := by
  obtain ⟨⟨va, page, hparts⟩, -⟩ := hturn.place
  have hd' : s.mem.ahead (a.tried s.cycle) pa = 0 := hd
  rw [State.performAccess, show (a.tried s.cycle).instr = _ from hi]
  simp only [State.performLdv, versionOk_one (a := a.tried s.cycle) hparts, show (a.tried s.cycle).parts = _ from hparts, List.head?_cons,
    Option.bind_some, Bool.not_true, Bool.false_eq_true, if_false, hlive, hd', decide_true, Bool.or_true, if_true]

theorem performAccess_ldv_previous (hd : s.mem.ahead a pa = 255) (hpv : (s.mem.version (pa / 64)).pv = true) {s1 : State} {toks : List Tok}
    (hload : s.performLoad ((a.tried s.cycle).setPart 0 (fun p => { p with pa := some (pairAddr pa) })) f h = .done s1 toks) :
    s.performAccess (a.tried s.cycle) = .done s1 toks := by
  obtain ⟨⟨va, page, hparts⟩, -⟩ := hturn.place
  have hd' : s.mem.ahead (a.tried s.cycle) pa = 255 := hd
  rw [State.performAccess, show (a.tried s.cycle).instr = _ from hi]
  simp only [State.performLdv, versionOk_one (a := a.tried s.cycle) hparts, show (a.tried s.cycle).parts = _ from hparts, List.head?_cons,
    Option.bind_some, Bool.not_true, Bool.false_eq_true, if_false, hlive, hd', hpv, hload]
  simp

theorem performAccess_ldv_waits (hd : 1 ≤ s.mem.ahead a pa) (hd' : s.mem.ahead a pa ≤ 127) :
    s.performAccess (a.tried s.cycle) = .later s (a.tried s.cycle) := by
  obtain ⟨⟨va, page, hparts⟩, -⟩ := hturn.place
  have hahead : s.mem.ahead (a.tried s.cycle) pa = s.mem.ahead a pa := rfl
  rw [State.performAccess, show (a.tried s.cycle).instr = _ from hi]
  simp only [State.performLdv, versionOk_one (a := a.tried s.cycle) hparts, show (a.tried s.cycle).parts = _ from hparts, List.head?_cons,
    Option.bind_some, Bool.not_true, Bool.false_eq_true, if_false, hlive, hahead]
  rw [if_neg (by simp; omega), if_neg (by omega), if_pos hd']

theorem performAccess_ldv_range (hd : 128 ≤ s.mem.ahead a pa) (hpv : ¬(s.mem.ahead a pa = 255 ∧ (s.mem.version (pa / 64)).pv = true)) :
    s.performAccess (a.tried s.cycle) = .drop (s.addrFault a.site a.fire codeVersionRange a.va (some a.stamp)) := by
  obtain ⟨⟨va, page, hparts⟩, -⟩ := hturn.place
  have hahead : s.mem.ahead (a.tried s.cycle) pa = s.mem.ahead a pa := rfl
  rw [State.performAccess, show (a.tried s.cycle).instr = _ from hi]
  simp only [State.performLdv, versionOk_one (a := a.tried s.cycle) hparts, show (a.tried s.cycle).parts = _ from hparts, List.head?_cons,
    Option.bind_some, Bool.not_true, Bool.false_eq_true, if_false, hlive, hahead]
  rw [if_neg (by simp; omega), if_neg hpv, if_neg (by omega)]
  rfl

theorem ldv_runs {d : Nat} (hd : d = s.mem.ahead a pa) :
    (d = 0 → Replies s cell port a (fun t tok => SameBytes s t ∧ t.mem.vers = s.mem.vers ∧
      tok = ⟨elementBits f a.bit ((List.range n).map (fun k => (s.mem.look (pa + k)).getD 0)),
        a.ops.mark.or (if s.mem.marks.contains (pa / 64) then some (originSpec a.site a.fire) else none)⟩)) ∧
    (d = 255 → (s.mem.version (pa / 64)).pv = true → (s.mem.seg (pairAddr pa / 4096)).live = true →
      Replies s cell port a (fun t tok => SameBytes s t ∧ t.mem.vers = s.mem.vers ∧
        tok = ⟨elementBits f a.bit ((List.range n).map (fun k => (s.mem.look (pairAddr pa + k)).getD 0)),
          a.ops.mark.or (if s.mem.marks.contains (pairAddr pa / 64) then some (originSpec a.site a.fire) else none)⟩)) ∧
    (1 ≤ d → d ≤ 127 → WaitsThere s cell port a) ∧
    (128 ≤ d → ¬(d = 255 ∧ (s.mem.version (pa / 64)).pv = true) → Drops s cell port a 10 0) := by
  subst hd
  obtain ⟨⟨va, page, hparts⟩, -, ht, -, -, hrun⟩ := hturn.place
  obtain ⟨htpair, hbank, hline, -⟩ := pairAddr_spad ht
  refine ⟨fun hd => ?_, fun hd hpv hpair => ?_, fun hd hd' => ?_, fun hd hpv => ?_⟩
  · exact ldv_reads hturn hi hparts ht rfl rfl hlive fun s1 toks hload => (performAccess_ldv_current hturn hi hlive hd).trans hload
  · have hset : (a.tried s.cycle).setPart 0 (fun p => { p with pa := some (pairAddr pa) }) =
        { a.tried s.cycle with parts := [⟨va, n, some (pairAddr pa), true, page, none, false⟩] } := by
      rw [Access.setPart, show (a.tried s.cycle).parts = _ from hparts]
      rfl
    exact ldv_reads hturn hi rfl htpair hbank hline hpair fun s1 toks hload =>
      performAccess_ldv_previous hturn hi hlive hd hpv (by rw [hset]; exact hload)
  · exact hturn.onlyTurn.waits hrun (performAccess_ldv_waits hturn hi hlive hd hd')
  · obtain ⟨c, hc⟩ := Option.isSome_iff_exists.mp hturn.onlyTurn.held
    obtain ⟨hface, hframe, htaken⟩ := addrFault_taken (s := s) (hturn.onlyTurn.site ▸ hc) a.fire codeVersionRange a.va a.stamp
    exact hturn.onlyTurn.dropsWith (performAccess_ldv_range hturn hi hlive hd hpv) hface hframe htaken

end

/-! The previous copy of a line (R226, R227). -/

section
variable {m old : MemSys} {pa : Nat} (hwf : m.Wf) (ht : target pa = some .spad) (tag : Nat)

theorem keepOld_look (m old : MemSys) (pa tag k : Nat) : (m.keepOld old tag pa).look k =
    ((m.enliven (pairAddr pa / 4096) tag).spadWrite (pairAddr pa / 64 * 64) (old.lineBytes pa)).look k := by
  unfold MemSys.keepOld
  generalize (m.enliven (pairAddr pa / 4096) tag).spadWrite (pairAddr pa / 64 * 64) (old.lineBytes pa) = w
  exact MemSys.look_congr k rfl rfl

theorem keepOld_vers (m old : MemSys) (pa tag : Nat) : (m.keepOld old tag pa).vers = m.vers := by
  obtain ⟨bytes, segs, hrest⟩ := MemSys.spadWrite_rest (old.lineBytes pa) (m.enliven (pairAddr pa / 4096) tag) (pairAddr pa / 64 * 64)
  unfold MemSys.keepOld
  rw [hrest]
  exact enliven_vers ..

theorem version_congr {m m' : MemSys} (h : m'.vers = m.vers) (x : Nat) : m'.version x = m.version x := by
  rw [MemSys.version, h, MemSys.version]

theorem look_setVersion (m : MemSys) (v : Version) (k : Nat) : (m.setVersion v).look k = m.look k := MemSys.look_congr k rfl rfl

theorem lineBytes_length (m : MemSys) (pa : Nat) : (m.lineBytes pa).length = 64 := by rw [MemSys.lineBytes, List.length_map, List.length_range]

theorem contains_insertNat (l : List Nat) (x : Nat) : (insertNat l x).contains x = true := by
  induction l with
  | nil => simp [insertNat]
  | cons y l ih =>
    rw [insertNat]
    split_ifs with h1 h2 <;> simp_all

/-- The pair carries the marker of the old line. -/
theorem keepOld_marks (hlive : (old.seg (pa / 4096)).live = true) :
    (m.keepOld old tag pa).marks.contains (pairAddr pa / 64) = old.marks.contains (pa / 64) := by
  simp only [MemSys.keepOld, hlive, Bool.true_and]
  cases old.marks.contains (pa / 64) with
  | true => exact contains_insertNat _ _
  | false => simp

include hwf

/-- What lies outside the line of the pair, in a segment that lived or another than its own, stands. -/
theorem keepOld_other {k : Nat} (hk : k / 64 ≠ pairAddr pa / 64) (hpage : (m.seg (pairAddr pa / 4096)).live = true ∨ k / 4096 ≠ pairAddr pa / 4096) :
    (m.keepOld old tag pa).look k = m.look k := by
  rw [keepOld_look, look_spadWrite_other (MemSys.wf_enliven _ _ _ hwf) _ (by rw [lineBytes_length]; omega), look_enliven hpage]

include ht

/-- The line of the pair holds what the line held. -/
theorem keepOld_line (hlive : (old.seg (pa / 4096)).live = true) {k : Nat} (hk : k < 64) :
    (m.keepOld old tag pa).look (pairAddr pa / 64 * 64 + k) = old.look (pa / 64 * 64 + k) := by
  obtain ⟨htpair, -⟩ := pairAddr_spad ht
  have htk : target (pairAddr pa / 64 * 64 + k) = some .spad := by rw [target_spad] at *; omega
  have htold : target (pa / 64 * 64 + k) = some .spad := by rw [target_spad] at *; omega
  have hpage : (pairAddr pa / 64 * 64 + k) / 4096 = pairAddr pa / 4096 := by omega
  have hpageold : (pa / 64 * 64 + k) / 4096 = pa / 4096 := by omega
  have hpairlive : ((m.enliven (pairAddr pa / 4096) tag).seg ((pairAddr pa / 64 * 64 + k) / 4096)).live = true := by
    have := congrArg Segment.live (seg_enliven m (pairAddr pa / 4096) tag (pairAddr pa / 4096))
    rw [if_pos rfl] at this
    rw [hpage]
    exact this
  rw [keepOld_look, look_spadWrite_same (MemSys.wf_enliven _ _ _ hwf) ⟨Nat.le_add_right .., by rw [lineBytes_length]; omega⟩ htk hpairlive,
    look_spad _ htold, hpageold, if_pos hlive, Nat.add_sub_cancel_left, MemSys.lineBytes, List.getD_eq_getElem?_getD, List.getElem?_map,
    List.getElem?_range hk]
  rfl

end

/-! STV (R227). -/

section
variable {s : State} {cell port : Nat} {a : Access} {n pa : Nat} {p : BitVec 6} {f : Fmt} {c0 : Consumer}
  (hturn : SpadTurn s cell port a n pa true) (hi : a.instr = .stv p f c0)
include hturn hi

theorem stv_waits (hpv : (s.mem.version (pa / 64)).pv = true) : WaitsThere s cell port a := by
  obtain ⟨⟨va, page, hparts⟩, -, -, -, -, hrun⟩ := hturn.place
  refine hturn.onlyTurn.waits hrun ?_
  rw [State.performAccess, show (a.tried s.cycle).instr = _ from hi]
  simp only [State.performStv, versionOk_one (a := a.tried s.cycle) hparts, show (a.tried s.cycle).parts = _ from hparts, List.head?_cons,
    Option.bind_some, Bool.not_true, Bool.false_eq_true, if_false, hpv, if_true]

theorem performAccess_stv (hpv : (s.mem.version (pa / 64)).pv = false) (hmark : storeMark a.ops = none) {m : MemSys}
    (hput : s.mem.putBits s.cycle (s.tagOf a.site.cell) pa (placedBytes f a.bit n (tokVal a.ops.r)).2 (placedBytes f a.bit n (tokVal a.ops.r)).1
      = (m, true)) : s.performAccess (a.tried s.cycle) = .done
        { s with mem := (m.keepOld s.mem (s.tagOf a.site.cell) pa).setVersion ⟨pa / 64, (s.mem.version (pa / 64)).ver + 1, true⟩ }
        [⟨((s.mem.version (pa / 64)).ver + 1).zeroExtend 32, none⟩] := by
  obtain ⟨⟨va, page, hparts⟩, -⟩ := hturn.place
  have hstore : s.performStore (a.tried s.cycle) f (tokVal (a.tried s.cycle).ops.r) = .done { s with mem := m } [⟨0, none⟩] :=
    performStore_put (a := a.tried s.cycle) hparts hmark hput
  rw [State.performAccess, show (a.tried s.cycle).instr = _ from hi]
  simp only [State.performStv, versionOk_one (a := a.tried s.cycle) hparts, show (a.tried s.cycle).parts = _ from hparts, List.head?_cons,
    Option.bind_some, Bool.not_true, Bool.false_eq_true, if_false, hpv, hstore]
  rfl

theorem stv_runs (hpv : (s.mem.version (pa / 64)).pv = false) (hlive : (s.mem.seg (pa / 4096)).live = true) (hwf : s.MemoryWf) (hn : n < 64)
    (hmark : storeMark a.ops = none) : Replies s cell port a (fun t tok =>
      tok = ⟨((s.mem.version (pa / 64)).ver + 1).zeroExtend 32, none⟩ ∧
      t.mem.version (pa / 64) = ⟨pa / 64, (s.mem.version (pa / 64)).ver + 1, true⟩ ∧
      (∀ x, x ≠ pa / 64 → t.mem.version x = s.mem.version x) ∧
      (∀ k < n, t.mem.look (pa + k) = some (mixByte ((s.mem.look (pa + k)).getD 0)
        ((placedBytes f a.bit n (tokVal a.ops.r)).2.getD k 0) ((placedBytes f a.bit n (tokVal a.ops.r)).1.getD k 0))) ∧
      (∀ k < 64, t.mem.look (pairAddr pa / 64 * 64 + k) = s.mem.look (pa / 64 * 64 + k)) ∧
      (t.mem.marks.contains (pairAddr pa / 64) = s.mem.marks.contains (pa / 64)) ∧
      ∀ k, ¬(pa ≤ k ∧ k < pa + n) → k / 64 ≠ pairAddr pa / 64 → k / 4096 ≠ pairAddr pa / 4096 ∨ (s.mem.seg (pairAddr pa / 4096)).live = true →
        t.mem.look k = s.mem.look k) := by
  obtain ⟨-, -, ht, hfull, hl, -⟩ := hturn.place
  obtain ⟨m, hput, hm⟩ := putBits_spadWritten (masks := (placedBytes f a.bit n (tokVal a.ops.r)).2)
    (data := (placedBytes f a.bit n (tokVal a.ops.r)).1) hwf ht hfull hl hn (length_leBytes ..) (length_leBytes ..) s.cycle (s.tagOf a.site.cell)
  refine hturn.onlyTurn.repliesWith (turnedTo_mem s _).shell (by rw [hi]; rfl) (performAccess_stv hturn hi hpv hmark hput) fun t htm _ => ?_
  obtain ⟨htpair, -, -, hpages⟩ := pairAddr_spad ht
  have hlook (k : Nat) : t.mem.look k = (m.keepOld s.mem (s.tagOf a.site.cell) pa).look k := by
    rw [htm]
    exact look_setVersion ..
  have hversion (x : Nat) : t.mem.version x = if x = pa / 64 then ⟨pa / 64, (s.mem.version (pa / 64)).ver + 1, true⟩ else s.mem.version x := by
    rw [htm]
    exact (version_setVersion _ _ x).trans (by rw [version_congr ((keepOld_vers ..).trans hm.vers)])
  refine ⟨rfl, by rw [hversion, if_pos rfl], fun x hx => by rw [hversion, if_neg hx], fun k hk => ?_, fun k hk => ?_, ?_, fun k hk hline hpage => ?_⟩
  · obtain ⟨-, hpk⟩ := spad_range ht hl hk
    rw [hlook, keepOld_other hm.wf _ (by omega) (.inr (by omega)), hm.written hlive k hk]
  · rw [hlook, keepOld_line hm.wf ht _ hlive hk]
  · have hmarks : t.mem.marks = (m.keepOld s.mem (s.tagOf a.site.cell) pa).marks := by
      rw [htm]
      rfl
    rw [hmarks, keepOld_marks _ hlive]
  · have hpair : (m.seg (pairAddr pa / 4096)).live = (s.mem.seg (pairAddr pa / 4096)).live := (congrArg Segment.live (hm.others _ hpages) :)
    rw [hlook, keepOld_other hm.wf _ hline (by rw [hpair]; exact hpage.symm), hm.beside hlive k hk]

end

theorem Replies.mono {s : State} {cell port : Nat} {a : Access} {P Q : State → Tok → Prop} (h : Replies s cell port a P)
    (hPQ : ∀ t tok, P t tok → Q t tok) : Replies s cell port a Q := by
  obtain ⟨u, t, tok, hturn, hanswer, hu, haccs, hchannels, hflight, hP⟩ := h
  exact ⟨u, t, tok, hturn, hanswer, hu, haccs, hchannels, hflight, hPQ t tok hP⟩

end Sys2Proof.Machine

namespace Sys2Proof
open Sys2Proof.Machine

/-- Settles O33: each access is performed in its turn by its instruction's branch, on what memory holds at its address, and answers in the port's. -/
theorem memoryReplies : Obligations.MemoryReplies := by
  unfold Obligations.MemoryReplies
  refine ⟨fun s cell port c a va n pa ver page f hth hc haccs hsite hstage hleave hparts hdead ht hb hl => ?_,
    fun s cell port a n pa ver f h hf => ⟨spad_load_live h hf, spad_load_dead h hf⟩,
    fun s cell port a n pa ver f h hf hwf hn hmark => ?_,
    fun s cell port a n pa p hint f c0 d h hi hlive hd => ldv_runs h hi hlive (hd.trans (ahead_eq ..).symm),
    fun s cell port a n pa p f c0 v h hi hv => ?_, fun s cell port a n pa p c0 v h hi hv => ?_, fun s cell port a n pa => unversioned_drops⟩
  · have hturn : s.OnlyTurn cell port a := ⟨hth, by rw [hc]; rfl, haccs, hsite, hstage, hleave⟩
    exact ⟨dram_load_runs hturn hparts hdead ht hb hl, dram_store_runs hturn hparts ht hb hl⟩
  · refine (spad_store_runs h hf hwf hn hmark).mono fun t tok ⟨htok, hm⟩ => ?_
    obtain ⟨hlive, hfar, htag⟩ := hm.here
    exact ⟨htok, hlive, hfar, htag, hm.elsewhere, fun hl => ⟨hm.marks hl, hm.beside hl, hm.written hl⟩,
      fun hd => ⟨hm.unmarked hd, fun k hk hmask => hm.whole k hk hmask⟩⟩
  · subst hv
    exact ⟨stv_waits h hi, stv_runs h hi⟩
  · subst hv
    exact reclaim_runs h hi

end Sys2Proof
end
